-- ==== Sys2Proof/Word.lean ====
section
/-! DEFINITION. The words of the BZ64: bytes, 14-bit move words, 12-bit rung words, 32-bit values. -/

namespace Sys2Proof

/-- One byte of any memory of the module. -/
abbrev Byte := BitVec 8

/-- A stall value: sockets and registers are 32 bits wide (R189, R194). -/
abbrev Word := BitVec 32

/-- A half-word, also the width of most host interface indices. -/
abbrev Half := BitVec 16

/-- A 64-bit quantity: commit numbers, host addresses, event DATA. -/
abbrev DWord := BitVec 64

/-- One move of a bundle: destination code in [13:7], source code in [6:0] (R189). -/
abbrev MoveWord := BitVec 14

/-- One rung word: opcode in [11:8], operand in [7:0] (R280). -/
abbrev RungWord := BitVec 12

/-- A byte string, first byte first (every structure is little-endian, R15). -/
abbrev Bytes := List Byte

end Sys2Proof
end

