-- ==== Sys2Proof/Syntax.lean ====
section
/-! DEFINITION. The commands of the BZ64, one constructor for each row of spec/opcode_table.json, and
the data that reach the block with each of them. The rows have no encoding bits; the operands are what
the rule of the row says the step takes from outside (log entry 1). -/

namespace Sys2Proof

/-- The envelope of a host command: the ring it starts from and the fields of its 64-byte descriptor that
every command has (R362, Table 11 of Host Interface): TAG, BUF_ADDR, BUF_LEN; and whether a reserved field of the descriptor, or of a
structure in its buffer that the row gives field by field, is not zero (R17). -/
structure Desc where
  ring : Fin 8
  tag : Half
  bufAddr : DWord
  bufLen : Word
  reserved : Bool
  deriving DecidableEq, Repr

/-- A stall: barn 0 to 3 and stall 0 to 4 within the barn (R24). -/
structure StallId where
  barn : Fin 4
  stall : Fin 5
  deriving DecidableEq, Repr

/-- A map entry of a task load record: channel ID and image byte offset (R373). -/
structure MapEntry where
  chan : BitVec 12
  offset : BitVec 12
  deriving DecidableEq, Repr

/-- A selection entry: OFFSET, LENGTH, RETAIN, MIRROR, REGION (R373; REGION true: output image). -/
structure SelEntry where
  offset : Nat
  length : Nat
  retain : Bool
  mirror : Bool
  region : Bool
  deriving DecidableEq, Repr

/-- The task attribute record (Table 2 of Tasks, Cycle and Modes), field by field. -/
structure TaskAttr where
  taskId : BitVec 7
  priority : BitVec 5
  paired : Bool
  tickAligned : Bool
  enabled : Bool
  overrun : BitVec 2
  period : Half
  offset : Half
  deadline : Half
  triggerType : Byte
  triggerCond : Byte
  triggerSel : Word
  minRetrigger : Word
  alarmPhase : Word
  deriving DecidableEq, Repr

/-- A task load record (R373, Table 18 of Host Interface). -/
structure TaskRec where
  attr : TaskAttr
  entry : BitVec 15
  inSize : Nat
  outSize : Nat
  inMap : List MapEntry
  outMap : List MapEntry
  sel : List SelEntry
  privSize : Nat
  rungSize : Nat
  privInit : Word
  outInit : Word
  deriving DecidableEq, Repr

/-- A load package (R372). The bank images list the words that differ from an unwritten word, by word
address; every other word of the image is 0x3FFF (a stall slot of the end bundle) or 0xF01 (END). -/
structure LoadPackage where
  loadId : Word
  globalSize : Nat
  globalInit : Word
  stallBank : List (Nat × MoveWord)
  solverBank : List (Nat × RungWord)
  tasks : List TaskRec
  gsel : List SelEntry
  init : Bytes
  deriving DecidableEq, Repr

/-- A data-map entry (R324, Table 3 of Online Edit and Profiles). -/
structure MapStep where
  kind : BitVec 4
  region : BitVec 2
  task : BitVec 7
  retain : Bool
  mirror : Bool
  src : Nat
  dst : Nat
  length : Nat
  deriving DecidableEq, Repr

/-- What the standby of a pair reports of its edit: EDIT_ID, PREP_CRC and edit state (R332). -/
structure EditReport where
  editId : Word
  prepCrc : Word
  state : BitVec 2
  deriving DecidableEq, Repr

/-- An edit package (R321). -/
structure EditPackage where
  editId : Word
  affected : BitVec 128
  removed : BitVec 128
  stallBank : List (Nat × MoveWord)
  solverBank : List (Nat × RungWord)
  tasks : List TaskRec
  fwd : List MapStep
  rev : List MapStep
  init : Bytes
  deriving DecidableEq, Repr

/-- Where a home line or a receive ring lies (R151): global image memory or the SRAM of a barn. -/
inductive Loc where
  | global
  | barn (b : Fin 4)
  deriving DecidableEq, Repr

/-- One turntable step or first placement that the yardmaster publishes (R142, R157). -/
structure PlaceStep where
  task : BitVec 7
  copyB : Bool
  dest : StallId
  cause : Byte
  /-- the estimated execution time on the new stall, in ns (Table 2 of The Yardmaster) -/
  estimateNs : Nat
  deriving DecidableEq, Repr

/-- What the yardmaster publishes for a base tick (R142): first placements and turntable steps, home-line
moves, the barn of a CAN controller's receive ring, barns to wake and barns to power off; and, for the tasks of a stall that the groom
waits for (R167), the estimate that keeps one from stepping away. Its choices are data; the rules are checked (R144). The pinned set is
no choice of it: R177 to R179 and R693 fix it. -/
structure Publication where
  steps : List PlaceStep
  stays : List (BitVec 7 × Bool × Nat)
  moves : List (Nat × Loc)
  rings : List (Fin 4 × Fin 4)
  wake : List (Fin 4)
  off : List (Fin 4)
  deriving DecidableEq, Repr

/-- The lowest and the highest voltage of a digital input, in mV, over the last 5 microseconds of its window (R416, R418). -/
structure DiLevel where
  lowest : Int
  highest : Int
  deriving DecidableEq, Repr

/-- A readback sample of all digital outputs, and what the groups and switches measure (R433, R437): pins, VF_DO_g in 0.1 V, group currents in
mA, junction temperatures in °C. -/
structure DoReading where
  pins : BitVec 64
  vfDv : List Half
  groupMa : List Half
  tempC : List Byte
  deriving DecidableEq, Repr

/-- What the front-end measures for one input group at the end of a sample (R417, R427): the eight
inputs in order, VS_DI_g in 0.1 V, and the reference difference in 0.1 %. -/
structure DiReading where
  inputs : List DiLevel
  vsDv : Nat
  refPermille : Nat
  deriving DecidableEq, Repr

/-- What one loop channel delivers for one conversion window (R439 to R449). -/
structure LoopReading where
  delivered : Bool
  measured : Int
  terminalCv : Nat
  supplyCv : Nat
  supplyLimited : Bool
  stageAtLimit : Bool
  powered : Bool
  deriving DecidableEq, Repr

/-- A received HART character string (R454, R458): the 11-bit characters of the response from its delimiter to its check byte, the first
bit lowest, the preamble count, and whether the characters followed one another within the gap that R458 allows. -/
structure HartFrame where
  preambles : Nat
  raw : List (BitVec 11)
  gapsGood : Bool
  deriving DecidableEq, Repr

/-- An Ihloz frame header (Table 1 of Ihloz Time-Triggered Network). -/
structure IhlozHeader where
  sender : BitVec 5
  type : BitVec 2
  channelB : Bool
  slot : Byte
  mode : BitVec 3
  sync : Bool
  cycle : DWord
  length : BitVec 11
  schedTag : Half
  members : Word
  claim : Word
  voteValid : Bool
  against : Bool
  targetProfile : BitVec 3
  targetMode : BitVec 3
  requester : BitVec 5
  agreedValid : Bool
  agreed : Word
  deriving DecidableEq, Repr

/-- A frame copy on the wire: header, payload and the four CRC bytes (R466). -/
structure IhlozFrame where
  header : IhlozHeader
  payload : Bytes
  crc : Word
  deriving DecidableEq, Repr

/-- A CAN frame (Table 3 of CAN Controllers). -/
structure CanFrame where
  identifier : BitVec 29
  ide : Bool
  rtr : Bool
  fdf : Bool
  brs : Bool
  esi : Bool
  dlc : BitVec 4
  data : Bytes
  deriving DecidableEq, Repr

/-- The compact time-stamp at the sample point of a start-of-frame bit is an operand `sof` of the rows that
end an attempt or a reception: the bus gives it (log entry 1).

What a controller met on the bus (R526, R527): the error class of LAST_ERROR, whether this unit was
the transmitter, whether it had won arbitration, and whether it was a suspected collision. -/
structure CanError where
  kind : BitVec 3
  transmitter : Bool
  arbitrationWon : Bool
  collision : Bool
  dominantAfterFlag : Bool
  deriving DecidableEq, Repr

/-- The 40-byte identity record of the partner (Table 3 of Hot Standby and the Telith Link). -/
structure Identity where
  serial : DWord
  unitId : BitVec 6
  mode : BitVec 4
  role : BitVec 2
  baleFormat : Byte
  claim : Word
  highest : Word
  loadId : Word
  editId : Word
  editState : BitVec 2
  taskTime : DWord
  tick : DWord
  deriving DecidableEq, Repr

/-- A heartbeat (R580). -/
structure Heartbeat where
  lane : Fin 2
  claim : Word
  highest : Word
  role : BitVec 2
  mode : BitVec 4
  taskTime : DWord
  tick : DWord
  lastBale : DWord
  relinquish : Bool
  deriving DecidableEq, Repr

/-- A line record of a bale or of the bulk copy (Table 7 of Hot Standby): data address, mask, bytes. -/
structure BaleLine where
  address : Word
  mask : DWord
  data : Bytes
  deriving DecidableEq, Repr

/-- A bale (R577, Table 6): header fields, lines in ascending address order, CRC. -/
structure Bale where
  type : BitVec 3
  task : BitVec 7
  claim : Word
  commit : DWord
  tCommit : Word
  mode : BitVec 4
  lines : List BaleLine
  crc : Word
  deriving DecidableEq, Repr

/-- One line of the bulk copy with the commit that last wrote it (R586); private data is that of task. -/
structure BulkLine where
  task : BitVec 7
  commit : DWord
  line : BaleLine
  deriving DecidableEq, Repr

/-- The header of a firmware transfer message (Table 2 of Firmware Update) but for its KIND; `origin`
names the port (Ethernet) or node (Ihloz) it came from. -/
structure TransferMsg where
  ethernet : Bool
  origin : BitVec 5
  transferId : Half
  arg : Word
  count : Word
  body : Bytes
  deriving DecidableEq, Repr

/-- What the groom finds when it scrubs a line (R168): an uncorrectable error in a version of committed state, in another line of the
global image memory (memory 0) or of a barn's SRAM (1 to 4), in a stall's local data, or in an entry of a write buffer, which a
write of the instance meets as well (R112; the table has no row of its own for it, log entry 83). -/
inductive ScrubResult where
  | clean
  | corrected
  | committed
  | memory (memory : Fin 5) (address : Word)
  | localData (u : StallId) (address : Half)
  | bufferEntry (u : StallId) (frame : Fin 4)
  deriving DecidableEq, Repr

/-- The structure whose PCI Express read ended without a completion (R369, Table 20): kind 0 to 3. -/
inductive FetchKind where
  | doorbell | descriptor | buffer | channelEntry
  deriving DecidableEq, Repr

/-- A power good event brings the level of the pins latched then (R653) and the store voltage. -/
structure PowerGoodPins where
  slotId : BitVec 6
  storeCv : Nat
  deriving DecidableEq, Repr

/-- What self-test finds (R651, Table 7): failing tests with the barn, stall (8 × barn + stall, as R180 numbers them) or group
concerned, and the barns whose rung solver fails test 5. -/
structure SelfTest where
  failures : List (BitVec 4 × Byte)
  solvers : List (Fin 4)
  watchPer32 : Nat
  deriving DecidableEq, Repr

/-- A descriptor with its OPCODE, where that is no other row's (R362, R370). -/
structure OpDesc where
  desc : Desc
  opcode : Byte
  deriving DecidableEq, Repr

/-- A write access to BAR0: its offset, and whether it is of 32 bits (R347, R380). -/
structure BarAccess where
  offset : Half
  whole : Bool
  deriving DecidableEq, Repr

/-- The TASK and BUNDLE parameters of a HOLD_SET RESUME (R370). -/
structure HoldPoint where
  task : Byte
  bundle : Half
  deriving DecidableEq, Repr

/-- How long an edit command waits: WAIT_TICKS, and the standby's report that it is held against (R331, R332). -/
structure EditWait where
  ticks : Half
  report : Option EditReport
  deriving DecidableEq, Repr

/-- What training and the host's enumeration leave: the generation, and MSI-X Enable and Function Mask (R343, R352; log entry 10). -/
structure LinkSetup where
  gen : BitVec 3
  msix : Bool
  mask : Bool
  deriving DecidableEq, Repr

/-- The stalls that the yardmaster prefers for the copies of a released task (R142, R172). -/
structure EventPlace where
  a : Option StallId
  b : Option StallId
  deriving DecidableEq, Repr

/-- Fence markers of a task that arrive (R157): one bit for each of the seven sources. -/
structure FenceMarkers where
  task : BitVec 7
  markers : BitVec 7
  deriving DecidableEq, Repr

/-- A result on its way to the old placement of a task: its source, and its tag, which is an epoch and a start commit number (R154, R157). -/
structure Forwarded where
  task : BitVec 7
  source : Fin 7
  tag : Half
  start : DWord
  deriving DecidableEq, Repr

/-- A phase of the raw level of a counting input: its level, and its length in nanoseconds so far as it matters, 4,000 or more for any
that is longer (R425, R427). -/
structure CountSeen where
  level : Bool
  phaseNs : Nat
  deriving DecidableEq, Repr

/-- The node's channels that see a collision marker (R488). -/
structure MarkerSeen where
  onA : Bool
  onB : Bool
  deriving DecidableEq, Repr

/-- A CAN frame as the bus stands at its sample points, and at two and one time quanta before them (R509). -/
structure CanSamples where
  early2 : CanFrame
  early1 : CanFrame
  frame : CanFrame
  deriving DecidableEq, Repr

/-- The commands: one constructor for each row of spec/opcode_table.json. -/
inductive Instr where
  -- Host commands (Table 14 of Host Interface)
  | nop (d : OpDesc)
  | identify (d : Desc)
  | settingsWrite (d : Desc) (block : Half) (format : Byte) (buf : Bytes)
  | settingsRead (d : Desc) (block : Half)
  | modeSet (d : Desc) (mode : Byte) (start : Byte) (reason : Half)
  | taskLoad (d : Desc) (pkg : LoadPackage)
  | taskControlEnable (d : Desc) (task : Byte)
  | taskControlDisable (d : Desc) (task : Byte)
  | taskControlTrigger (d : Desc) (task : Byte)
  | taskControlQuery (d : Desc) (task : Byte)
  | breakpointSet (d : Desc) (task : Byte) (bundle : Half)
  | breakpointClear (d : Desc) (task : Byte) (bundle : Half)
  | holdResume (d : Desc) (point : HoldPoint)
  | step (d : Desc) (task : Byte) (count : Half)
  | chanSync (d : Desc) (first count : Half) (reads : List (Nat × Option Bytes))
  | wardenWrite (d : Desc) (first count : Half) (buf : Bytes)
  | imageExportSet (d : Desc) (region task image : Byte) (offset length : Half) (area : Word)
  | editPrepare (d : Desc) (pkg : EditPackage)
  | editCommit (d : Desc) (earliest : DWord) (wait : EditWait)
  | editRollback (d : Desc) (earliest : DWord) (wait : EditWait)
  | profileLoad (d : Desc) (buf : Bytes)
  | profileRequest (d : Desc) (profile cycles : Byte)
  | retainRead (d : Desc) (first count : Word)
  | retainWrite (d : Desc) (first count : Word) (buf : Bytes)
  | sealLock (d : Desc) (confirm : Word) (buf : Bytes)
  | recorderRead (d : Desc) (first count : Word)
  | clockRead (d : Desc)
  | clockAdjustSet (d : Desc) (seconds : BitVec 48) (nanoseconds : Word)
  | clockAdjustStep (d : Desc) (ns : DWord)
  | clockAdjustFreq (d : Desc) (freq : Word)
  | canSend (d : Desc) (controller buffer : Byte) (oneShot : Bool) (buf : Bytes)
  | canCancel (d : Desc) (controller buffer : Byte)
  | ethSend (d : Desc) (port queue : Byte) (launch stamp : Bool) (launchTime : DWord) (buf : Bytes)
  | ihlozScheduleLoad (d : Desc) (mode : Byte) (buf : Bytes)
  | hartTransact (d : Desc) (channel : Half) (retries : Byte) (buf : Bytes)
  | fwReceive (d : Desc) (source port : Byte) (length : Word) (image : Bytes)
  | fwForward (d : Desc) (path port : Byte)
  | fwActivate (d : Desc)
  | redundancyControlQuery (d : Desc)
  | redundancyControlHandover (d : Desc)
  | redundancyControlRetrain (d : Desc)
  -- BAR0, rings and the link
  | hiCtrlEnableSet (value : Word)
  | hiCtrlEnableClear (value : Word)
  | ringCfgEnSet (ring : Fin 8) (value : Word)
  | ringCfgEnClear (ring : Fin 8) (value : Word)
  | bar0Write (access : BarAccess) (value : Word)
  | doorbellFetchDone (line : Bytes)
  | msixCoalesceExpire (ring : Fin 9)
  | pcieLinkUp (setup : LinkSetup) (width : BitVec 3)
  -- The cycle, placement and stalls
  | placementPublish (p : Publication)
  | taskDeadline (task : BitVec 7)
  | alarmTrigger (task : BitVec 7)
  | eventTaskRelease (task : BitVec 7) (place : EventPlace)
  | instanceStart (task : BitVec 7) (delayNs : Nat) (parts : List Nat)
  | pairedCopyBStart (task : BitVec 7) (delayNs : Nat) (parts : List Nat)
  | contextSwitch (u : StallId)
  | bundleIssue (u : StallId)
  | breakpointHit (u : StallId)
  | immHi (u : StallId)
  | aluAdd (u : StallId)
  | aluAdc (u : StallId)
  | aluSub (u : StallId)
  | aluSbc (u : StallId)
  | aluAnd (u : StallId)
  | aluOr (u : StallId)
  | aluXor (u : StallId)
  | aluAndn (u : StallId)
  | aluShl (u : StallId)
  | aluShr (u : StallId)
  | aluSar (u : StallId)
  | aluRol (u : StallId)
  | aluMin (u : StallId)
  | aluMax (u : StallId)
  | aluCmp (u : StallId)
  | macMul (u : StallId)
  | macMac (u : StallId)
  | macMsu (u : StallId)
  | chkStep (u : StallId)
  | chkPar (u : StallId)
  | chkRev (u : StallId)
  | ldW (u : StallId)
  | ldHu (u : StallId)
  | ldBu (u : StallId)
  | stW (u : StallId)
  | stH (u : StallId)
  | stB (u : StallId)
  | lsBlk (u : StallId)
  | loadResultArrive (u : StallId) (frame : Fin 4)
  | blockTransferComplete (u : StallId) (frame : Fin 4)
  | rptGo (u : StallId)
  | rptExit (u : StallId)
  | imgRdb (u : StallId)
  | imgRdw (u : StallId)
  | imgWrb (u : StallId)
  | imgWrw (u : StallId)
  | solve (u : StallId)
  | brJmp (u : StallId)
  | brCall (u : StallId)
  | brJnz (u : StallId)
  | brJz (u : StallId)
  | brJcc (u : StallId)
  | brRel (u : StallId)
  | txEnd (u : StallId)
  | txAbort (u : StallId)
  | sysEvt (u : StallId)
  | sysFence (u : StallId)
  | sysWait (u : StallId)
  | sysWdkey (u : StallId)
  | sysCheckin (u : StallId)
  -- Rung solver
  | solverCallStart (b : Fin 4)
  | solverCallLimit (b : Fin 4)
  | solverResultArrive (u : StallId) (frame : Fin 4)
  | ld (b : Fin 4) (wait : BitVec 12)
  | ldn (b : Fin 4) (wait : BitVec 12)
  | rungAnd (b : Fin 4) (wait : BitVec 12)
  | rungAndn (b : Fin 4) (wait : BitVec 12)
  | rungOr (b : Fin 4) (wait : BitVec 12)
  | rungOrn (b : Fin 4) (wait : BitVec 12)
  | rungXor (b : Fin 4) (wait : BitVec 12)
  | st (b : Fin 4) (wait : BitVec 12)
  | stn (b : Fin 4) (wait : BitVec 12)
  | rungSet (b : Fin 4) (wait : BitVec 12)
  | rst (b : Fin 4) (wait : BitVec 12)
  | rise (b : Fin 4) (wait : BitVec 12)
  | fall (b : Fin 4) (wait : BitVec 12)
  | win (b : Fin 4)
  | tmr (b : Fin 4) (wait : BitVec 12)
  | rungNop (b : Fin 4)
  | rungEnd (b : Fin 4)
  | endc (b : Fin 4)
  | endcn (b : Fin 4)
  | jmp (b : Fin 4)
  | jmpc (b : Fin 4)
  | jmpcn (b : Fin 4)
  | dup (b : Fin 4)
  | pop (b : Fin 4)
  | swap (b : Fin 4)
  | rungNot (b : Fin 4)
  | ands (b : Fin 4)
  | ors (b : Fin 4)
  | xors (b : Fin 4)
  | push0 (b : Fin 4)
  | push1 (b : Fin 4)
  | clr (b : Fin 4)
  -- Commits, pairing, edits, profiles
  | pairCompare (task : BitVec 7)
  | pairDeadline (task : BitVec 7)
  | imageExportWrite (region : Fin 64)
  -- Channels, placement epochs, barn power, farrier and groom
  | cacheLoad (chan : BitVec 12) (hostRead : Option Bytes)
  | channelStale (chan : BitVec 12)
  | drainFenceComplete (m : FenceMarkers)
  | resultForwarded (r : Forwarded)
  | homeLineMove (line : Nat)
  | wakeDecision (b : Fin 4)
  | barnPowerSwitchOn (b : Fin 4)
  | barnPllLock (b : Fin 4)
  | barnClockRamp (b : Fin 4)
  | stallUngate (u : StallId)
  | solverUngate (b : Fin 4)
  | stallGate (b : Fin 4) (stall : Option (Fin 5))
  | barnPowerOff (b : Fin 4)
  | farrierRead (stalls : List (StallId × Nat)) (solvers : List (Fin 4 × Nat))
  | stallRetired (u : StallId)
  | stallFailed (u : StallId) (detection : Byte)
  | solverRetired (b : Fin 4) (cause : Byte)
  | groomTest (u : StallId) (passed : Bool)
  | groomScrub (result : ScrubResult)
  | thermalHigh (b : Fin 4) (temp : Half)
  -- Digital I/O
  | diSample (g : Fin 8) (r : DiReading)
  | wettingPulse (g : Fin 8)
  | countEdge (n : Fin 8) (seen : CountSeen)
  | chatterWindowExpire (n : Fin 64)
  | stuckTimeout (n : Fin 64)
  | countOverrateExpire (n : Fin 8)
  | readbackSample (r : DoReading)
  | doCurrentLimit (n : Fin 64)
  | doThermalShutdown (n : Fin 64)
  | doThermalRetry (n : Fin 64)
  | groupOvercurrent (g : Fin 8)
  | groupRetry (g : Fin 8)
  | doSupplyLow (g : Fin 8) (vfDv : Half)
  -- Current loops and HART
  | loopConversion (r : List LoopReading)
  | aoLinkTimeout (n : Fin 16)
  | hartAttempt (n : Fin 32)
  | hartResponse (n : Fin 32) (f : HartFrame)
  | hartNoResponse (n : Fin 32)
  | hartBusBusy (n : Fin 32)
  | hartStray (n : Fin 32)
  -- Ihloz node and star
  | ihlozFrameReceive (chanB : Bool) (f : IhlozFrame) (arrival : Int)
  | payloadFreeze (slot : Byte)
  | ihlozSlotSend (slot : Byte) (seenA seenB : Bool)
  | ihlozSlotEnd (slot : Byte)
  | ihlozCycleStart (offsetNs : Int)
  | ihlozTWaitExpire (seenA seenB : Bool)
  | collisionMarkerReceive (seen : MarkerSeen) (port : Option (Fin 8))
  | starDelimiterDetect (port : Fin 8) (tick : Nat)
  | starForwardCut (port : Fin 8)
  -- CAN
  | canFrameReceive (c : Fin 4) (f : CanSamples) (sof : Word)
  | canTxComplete (c : Fin 4) (sof : Word)
  | canArbitrationLost (c : Fin 4) (sof : Word)
  | canBusError (c : Fin 4) (e : CanError) (sof : Word)
  | canRecoverWaitExpire (c : Fin 4)
  | canBusOffRecovery (c : Fin 4)
  | canIntegrate (c : Fin 4)
  | canTxPeriod (c : Fin 4) (chan : BitVec 12)
  | canBuffer2Load (c : Fin 4)
  -- Ethernet and PTP
  | ethFrameReceive (p : Fin 2) (frame : Bytes) (fcsGood : Bool) (sfd : Nat)
  | ethLaunch (p : Fin 2) (queue : Fin 8)
  | ethFrameSent (p : Fin 2) (queue : Fin 8) (sfd : Nat)
  | ethSendTimeout (p : Fin 2) (queue : Fin 8)
  | ethLink (p : Fin 2) (up : Bool) (speed : BitVec 2)
  | ethTxPeriod (p : Fin 2) (chan : BitVec 12)
  | ptpMessageTimer (p : Fin 2) (message : BitVec 4)
  -- Telith link and redundancy
  | trainingStepDone (lanes : BitVec 2) (partner : Option Identity)
  | linkLane (lane : Fin 2)
  | heartbeatReceive (h : Heartbeat)
  | baleApply (b : Bale)
  -- Retain store and recorder
  | retainPageWrite (storeMv : Nat)
  | recorderWrite (storeMv : Nat)
  -- Power
  | supplyUndervoltage (storeMv : Nat)
  | supplyReturn (durationUs storeMv : Nat)
  | rideMsExpire (storeMv : Nat)
  | storeAtVSave (storeMv : Nat)
  | prsntLateOpen (storeMv : Nat)
  | holdupMeasure (capacitance storeMv : Nat)
  | holdupCharged (storeMv : Nat)
  | coreSupplyFault (above : Bool) (groupsDone : Nat) (mixed : DWord)
  | powerGood (p : PowerGoodPins)
  | startupPhase1End (activeSlotGood : Bool)
  | startupPhase2End (r : SelfTest)
  | startupPhase3End (storeMv : Nat)
  | startupPhase6End (partnerT0 : Int)
  | startupPhase7End (nextCycleUs : Nat)
  | startupPhase8End (startupMs : Nat)
  | pllLossOfLock (fabric : Bool)
  | barnClockFail (b : Fin 4) (solverPll : Bool)
  | clockMonitorPeriod (watchCycles : Nat)
  | clockEdgeGap (watch : Bool)
  -- Firmware transfer and activation
  | offer (m : TransferMsg)
  | data (m : TransferMsg)
  | done (m : TransferMsg)
  | activationPauseEnd (reads : List (Half × Byte))
  -- The remaining rows of the table
  | pcieCompletionTimeout (kind : FetchKind) (ring : Fin 8) (tag : Half) (addr : DWord)
  | currentLimitLeft (n : Fin 64)
  | groupOvercurrentLeft (g : Fin 8)
  | doThermalCooled (n : Fin 64)
  -- Rows of several families, here so that compiled code can build as many of the others as it has tags for
  | hartNoEnergy (n : Fin 32)
  | starContinuousCut (port : Fin 8)
  | starCutExpire (port : Fin 8)
  | offerRepeat (ring : Fin 8)
  | accept (m : TransferMsg)
  | refuse (m : TransferMsg)
  | nack (m : TransferMsg)
  | verified (m : TransferMsg)
  | fwTransferIdleTimeout (ring : Fin 8)
  | fwOfferWaitTimeout (ring : Fin 8)
  | bulkCopyReceive (lines : List BulkLine)
  | ext (b : Fin 4)
  -- The commands without operands, of all families, in the order of the table
  | doorbellPoll
  | echoLineWrite
  | pcieLinkDown
  | hotReset
  | functionLevelReset
  | surpriseRemoval
  | perstNAssert
  | perstNRelease
  | foldRepost
  | baseTick
  | commit
  | escalationHandoverTimeout
  | directOutputApply
  | baleSend
  | editCommitApply
  | editCommitTimeout
  | profileVoteComplete
  | profileVoteFailed
  | profileSwitch
  | clockSyncCorrection
  | telithTrainingStart
  | trainingStepTimeout
  | soloTimeout
  | roleDecision
  | telithLinkLost
  | heartbeatSend
  | claimTaken
  | takeover
  | handoverRequestReceive
  | handoverTimeout
  | bulkDone
  | retainedSavePeriodic
  | powerDownSaveDone
  | holdupChargeTimeout
  | coreRailRecovered
  | prsntEarlyClose
  | mainSupplySwitch
  | startupPhase4End
  | startupPhase5End
  | watchdogTick
  | wdtWindowEnd
  | wdtPauseExpire
  | wdtTripPulseEnd
  | expiryRecordTimeout
  | fwVerifyDone
  | activationPauseBegin
  | activationFailure
  deriving DecidableEq, Repr

end Sys2Proof
end

