-- ==== Sys2Proof/Config.lean ====
section
/-! DEFINITION. What one implementation fixes and the spec does not: the free values. Each is an opaque
constant with no body, so no proof can see a value of it. -/

namespace Sys2Proof.Config

/-- The n-th free 32-bit value: an unpredictable result confined as R215 states (log entry 5). -/
opaque freeWord : Nat → Word

/-- The n-th free bit (log entry 5). -/
opaque freeBit : Nat → Bool

/-- The n-th free number: a wait or a delay that the manual bounds and does not fix (R691; log entry 5). -/
opaque freeNat : Nat → Nat

/-- What a task that an edit does not affect reads of a byte that the edit's map wrote, by commit number, task and key (R322; log
entry 86). -/
opaque editRead (commit task key : Nat) : Byte

/-- A byte that two entries of an edit's map write, by commit number and key (R322; log entry 86). -/
opaque editByte (commit key : Nat) : Byte

/-- A byte of an input image that two map entries of a task write, or of a channel's data that two output map entries of a task take, by
task, NET tick and bit (R10, R374; log entry 32). -/
opaque imageByte (task net bit : Nat) : Byte

/-- A byte that two retained selections restore, by NET tick and key (R10, R374; log entry 32). -/
opaque retainedByte (net key : Nat) : Byte

/-- Plovique's PCI vendor identifier (R344; log entry 10). -/
opaque vendorId : Half

/-- Byte `addr` of the local data of stall `stall` before anything has written it (R101; log entry 6). -/
opaque scratchByte : Nat → Nat → Byte

/-- DATA of factory pages 2 to 255, whose formats belong to the firmware (R596; log entry 7). -/
opaque storeByte : Nat → Byte

/-- Which page of the settings copies stands at a page of the settings region: its arrangement belongs to the firmware (R591; log entry
119). -/
opaque settingsPlace : Nat → Nat

/-- SHA-384 of a byte string: 48 bytes (R658; defined outside the spec, log entry 8). -/
opaque sha384 : Bytes → Bytes

/-- ECDSA over P-384: whether a signature over a digest is valid under a public key (R658; log entry 8). -/
opaque ecdsaValid (publicKey digest signature : Bytes) : Bool

/-- A frame that the PTP engine sends: with `insert_` 1 or 2 the port inserts its egress stamp as it leaves (one-step operation, R540). -/
structure PtpFrame where
  bytes : Bytes
  insert_ : BitVec 2
  ptpOffset : Nat
  udpFix : Bool
  fixOffset : Nat
  ingress : DWord
  deriving DecidableEq, Repr, Inhabited

/-- What the engines of IEEE 1588-2019 and IEEE 802.1AS-2020 do with a received message or at a message
timer (R554; defined outside the spec, log entry 9): whether the frame is used, the new state of each port, the grandmaster flag, the
offset from the master in ns, the frequency adjustment, the path delay, the UTC offset, the grandmaster identity, and the frames to
send, true for port 1. -/
structure PtpAnswer where
  used : Bool
  portState0 : BitVec 4
  portState1 : BitVec 4
  grandmaster : Bool
  hasOffset : Bool
  offsetNs : Int
  freq : BitVec 32
  pathDelay : Word
  utcOffset : Half
  gmIdentity : DWord
  send : List (Bool × PtpFrame)
  deriving DecidableEq, Repr, Inhabited

/-- An event of the engine on a port: a frame received (message 16) or sent (message 17) with its stamp, or the timer of a message type. -/
structure PtpEvent where
  port : Nat
  message : Nat
  frame : Bytes
  stamp : Nat
  deriving DecidableEq, Repr

/-- The engine's answer under the time settings block, with the MAC and IP addresses of both ports and after the events that it has seen,
oldest first, to the next one. -/
opaque ptpEngine (settings addresses : Bytes) (seen : List PtpEvent) (event : PtpEvent) : PtpAnswer

end Sys2Proof.Config
end

