-- ==== Sys2Proof/Machine/Bits.lean ====
section
/-! DEFINITION. Byte order, bit fields, sign extension, check sums and saturating counts. -/

namespace Sys2Proof.Machine

/-- The `n` little-endian bytes of `v` (R15). -/
def leBytes : Nat → Nat → Bytes
  | 0, _ => []
  | n + 1, v => BitVec.ofNat 8 v :: leBytes n (v / 256)

/-- The number that little-endian bytes spell (R15). -/
def leNat : Bytes → Nat
  | [] => 0
  | b :: bs => b.toNat + 256 * leNat bs

/-- The number that big-endian bytes spell (network byte order). -/
def beNat (b : Bytes) : Nat := leNat b.reverse

/-- The `n` big-endian bytes of `v` (network byte order). -/
def beBytes (n v : Nat) : Bytes := (leBytes n v).reverse

/-- Byte `i` of a structure; bytes beyond its end read zero. -/
def byteAt (b : Bytes) (i : Nat) : Byte := b.getD i 0

/-- The `n`-byte little-endian field at byte `off`. -/
def fieldAt (b : Bytes) (off n : Nat) : Nat := leNat ((b.drop off).take n)

/-- Bit `i` of byte `off`. -/
def bitAt (b : Bytes) (off i : Nat) : Bool := (byteAt b off).getLsbD i

/-- Bits hi down to lo of a number. -/
def bitsOf (v hi lo : Nat) : Nat := v / 2 ^ lo % 2 ^ (hi + 1 - lo)

/-- Replace bytes from `off` on. -/
def patch (b : Bytes) (off : Nat) (x : Bytes) : Bytes :=
  b.take off ++ x ++ b.drop (off + x.length)

/-- Put an element into a list, before the first element that is not below it. -/
def insertBy {α : Type} (le : α → α → Bool) (x : α) : List α → List α
  | [] => [x]
  | y :: l => if le x y then x :: y :: l else y :: insertBy le x l

/-- A list in rising order; elements that are equal keep their order. -/
def sortBy {α : Type} (le : α → α → Bool) (l : List α) : List α := l.foldr (insertBy le) []

/-- `n` zero bytes. -/
def zeros (n : Nat) : Bytes := List.replicate n 0

/-- A block of `len` zero bytes with fields (offset, bytes, value) written into it. -/
def mkBlock (len : Nat) (fs : List (Nat × Nat × Nat)) : Bytes :=
  fs.foldl (fun b f => patch b f.1 (leBytes f.2.1 f.2.2)) (zeros len)

/-- The first `n` bytes, padded with zeros to `n`. -/
def padTo (n : Nat) (b : Bytes) : Bytes := (b ++ zeros (n - b.length)).take n

/-- An `n`-bit number read as two's complement. -/
def signed (n v : Nat) : Int := if v % 2 ^ n < 2 ^ (n - 1) then (v % 2 ^ n : Nat) else (v % 2 ^ n : Nat) - 2 ^ n

/-- An integer as `n`-bit two's complement. -/
def unsigned (n : Nat) (v : Int) : Nat := (v % (2 ^ n : Nat)).toNat

/-- A count of `n` bits that saturates. -/
def satAdd (n a b : Nat) : Nat := min (a + b) (2 ^ n - 1)

/-- `a` rounded up to a multiple of `m`. -/
def roundUp (a m : Nat) : Nat := (a + m - 1) / m * m

/-- The bits of a byte, least significant first. -/
def byteBits (b : Byte) : List Bool := (List.range 8).map b.getLsbD

/-- One byte folded into a reflected CRC-32 register (polynomial 0x04C1_1DB7 reflected). -/
def crc32Byte (c : Word) (b : Byte) : Word :=
  (List.range 8).foldl (fun r _ => if r.getLsbD 0 then (r >>> 1) ^^^ 0xEDB88320#32 else r >>> 1)
    (c ^^^ b.setWidth 32)

/-- CRC-32 of R323 and R466: initial value and final XOR 0xFFFF_FFFF, reflected. -/
def crc32 (b : Bytes) : Word := (b.foldl crc32Byte 0xFFFFFFFF#32) ^^^ 0xFFFFFFFF#32

/-- One byte folded into the CRC-64 of R303, most significant bit first. -/
def crc64Byte (c : DWord) (b : Byte) : DWord :=
  (List.range 8).foldl (fun r _ => if r.getLsbD 63 then (r <<< 1) ^^^ 0x42F0E1EBA9EA3693#64 else r <<< 1)
    (c ^^^ (b.setWidth 64 <<< 56))

/-- The CRC-64 of R303: initial value zero, no reflection, no final XOR. -/
def crc64 (b : Bytes) : DWord := b.foldl crc64Byte 0

/-- Bit order reversed over the low `w` bits, the others zero. -/
def revBits (w : Nat) (a : Nat) : Nat :=
  (List.range w).foldl (fun r i => 2 * r + a / 2 ^ i % 2) 0

/-- The number of a Boolean. -/
def b2n (b : Bool) : Nat := if b then 1 else 0

/-- XOR of the bits of a number, taken over `w` bits. -/
def parity (w a : Nat) : Nat := ((List.range w).foldl (fun r i => r + a / 2 ^ i % 2) 0) % 2

/-- Round to the nearest integer, halves away from zero. -/
def roundDiv (a : Int) (b : Nat) : Int :=
  if a < 0 then -((2 * (-a) + b) / (2 * b)) else (2 * a + b) / (2 * b)

end Sys2Proof.Machine
end

