-- ==== Sys2Proof/Machine/Defaults.lean ====
section
/-! DEFINITION. The settings blocks: their lengths and their default contents (R375, and the chapter of each
block). Where a chapter gives a field no default, the field is zero (log entry 3). -/

namespace Sys2Proof.Machine

/-- The lengths of the writable settings blocks by block ID; none for an ID that is not a writable block. -/
def blockLen (id : Nat) : Option Nat :=
  if id = 0x0101 then some 8 else if id = 0x0102 then some 584 else if id = 0x0104 then some 520
  else if id = 0x0301 then some 72 else if id = 0x0302 then some 40 else if id = 0x0304 then some 136
  else if id = 0x0401 then some 136 else if id = 0x0402 then some 112 else if id = 0x0410 then some 136
  else if id = 0x0420 then some 72 else if id = 0x0421 then some 16 else if id = 0x0501 then some 8
  else if id = 0x0502 then some 72 else if id = 0x0510 then some 8 else if id = 0x0601 then some 32
  else if id = 0x0603 then some 8 else if id = 0x0605 then some 8 else none

/-- The lengths of the read-only blocks (R182, R404, R412, R437, R453, R504, R530, R559, R614, R631, R656,
R671). -/
def statusLen (id : Nat) : Option Nat :=
  if id = 0x0103 then some 552 else if id = 0x0201 then some 24 else if id = 0x0202 then some 8704
  else if id = 0x0303 then some 128 else if id = 0x0305 then some 512 else if id = 0x0403 then some 160
  else if id = 0x0404 then some 40 else if id = 0x0411 then some 64 else if id = 0x0422 then some 72
  else if id = 0x0511 then some 64 else if id = 0x0602 then some 24 else if id = 0x0604 then some 24
  else if id = 0x0606 then some 32 else none

/-- The IDs of the writable blocks. -/
def blockIds : List Nat :=
  [0x0101, 0x0102, 0x0104, 0x0301, 0x0302, 0x0304, 0x0401, 0x0402, 0x0410, 0x0420, 0x0421, 0x0501, 0x0502,
   0x0510, 0x0601, 0x0603, 0x0605]

/-- Placement block defaults (Table 2 of The Yardmaster): WAKE_RESERVE 1, MIG_SLACK 20, MIG_GAP 8. -/
def defPlacement : Bytes :=
  [1#8, 0#8] ++ zeros 70 ++ (List.replicate 128 [0#8, 0#8, 20#8, 8#8]).flatten

/-- Pairing block defaults (Table 2 of Paired Execution): PAIR_WINDOW 50, PAIR_LIMIT 3. -/
def defPairing : Bytes := zeros 8 ++ (List.replicate 128 [50#8, 0#8, 3#8, 0#8]).flatten

/-- Digital input block defaults (Table 1 of Digital Inputs and Outputs). -/
def defDi : Bytes := zeros 8 ++ (List.replicate 8 [0#8, 0#8, 125#8, 0#8, 150#8, 0#8, 90#8, 0#8]).flatten

/-- Digital output block defaults: VF_LOW_DV 140. -/
def defDo : Bytes := zeros 8 ++ (List.replicate 8 [140#8, 0#8, 0#8, 0#8]).flatten

/-- Loop block defaults: VLIMIT 260 for each AO. -/
def defLoop : Bytes :=
  zeros 72 ++ (List.replicate 16 [0#8, 0#8, 4#8, 1#8]).flatten

/-- CAN block defaults for one controller (Table 2 of CAN Controllers). -/
def defCanOne : Bytes :=
  [0#8, 3#8, 4#8, 0#8, 15#8, 0#8, 4#8, 1#8, 1#8, 5#8, 2#8, 1#8] ++ zeros 20

/-- The default content of a writable block. -/
def blockDefault (id : Nat) : Bytes :=
  if id = 0x0101 then mkBlock 8 [(0, 4, 250)]
  else if id = 0x0102 then defPlacement
  else if id = 0x0104 then defPairing
  else if id = 0x0301 then defDi
  else if id = 0x0302 then defDo
  else if id = 0x0304 then defLoop
  else if id = 0x0401 then mkBlock 136 [(0, 1, 6)]
  else if id = 0x0402 then zeros 112
  else if id = 0x0410 then zeros 8 ++ (List.replicate 4 defCanOne).flatten
  else if id = 0x0420 then zeros 72
  else if id = 0x0421 then mkBlock 16 [(2, 1, 128), (3, 1, 128), (4, 1, 248), (5, 1, 253), (8, 4, 100000)]
  else if id = 0x0501 then mkBlock 8 [(0, 1, 4), (2, 2, 500)]
  else if id = 0x0502 then zeros 72
  else if id = 0x0510 then mkBlock 8 [(0, 2, 60), (2, 1, 1)]
  else if id = 0x0601 then mkBlock 32 [(2, 2, 8192), (6, 2, 10)]
  else if id = 0x0603 then mkBlock 8 [(0, 1, 10)]
  else if id = 0x0605 then mkBlock 8 [(0, 2, 600), (2, 2, 2000), (4, 1, 1)]
  else []

end Sys2Proof.Machine
end

