-- ==== Sys2Proof/Machine/State.lean ====
section
/-! DEFINITION. The state of the BZ64 as plain data: every register, queue, buffer, counter, mode and pin
that the spec gives the module. Each field's docstring gives its width, the rule that names it and its value
at reset; `DC3` marks a reset value that the spec does not give (DESIGN CHOICE, log entry 3). -/

namespace Sys2Proof.Machine

/-- A sparse memory: address and byte pairs, addresses strictly rising (Laws/Mem.lean). -/
abbrev Mem := List Host.Cell

/-- A table by number: the pairs listed; every other number has no value. -/
abbrev Tab (α : Type) := List (Nat × α)

/-- What the factory identity and calibration region holds (R596, R534, R659). -/
structure Factory where
  /-- VARIANT: 1 FX, 2 TX, 3 MX, 4 EX; 4 bits; R1 R596; reset 1 (R3) -/
  variant : BitVec 4
  /-- HW_REV; 8 bits; R596; reset 0 DC3 -/
  hwRev : Byte
  /-- SERIAL; 64 bits; R596; reset 0 DC3 -/
  serial : DWord
  /-- MAC_0; 48 bits; R596; reset 0 DC3 -/
  mac0 : BitVec 48
  /-- MAC_1; 48 bits; R596; reset 0 DC3 -/
  mac1 : BitVec 48
  /-- YEAR of manufacture; 16 bits; R596; reset 0 DC3 -/
  year : Half
  /-- MONTH; 8 bits; R596; reset 1 DC3 -/
  month : Byte
  /-- DAY; 8 bits; R596; reset 1 DC3 -/
  day : Byte
  /-- transmit PHY latency in ns at 10, 100, 1000 Mbit/s; a list of numbers; R534; reset [1800, 420, 184] (typical figures of Table 2; the measured value of a module is not given, DC3) -/
  phyTx : List Nat
  /-- receive PHY latency in ns at 10, 100, 1000 Mbit/s; a list of numbers; R534; reset [3200, 640, 312] (typical, DC3) -/
  phyRx : List Nat
  /-- Plovique delivery key hash; 48 bytes; R659; reset 48 zero bytes DC3 -/
  keyHash : Bytes
  deriving DecidableEq, Repr

/-- Task time, base tick, local clock (R45 to R50, R548 to R556). -/
structure TimeSt where
  /-- task time running; 1 bit; R648; reset false -/
  running : Bool
  /-- task time in 1e-9 ns; a number; R555; reset 0 -/
  task : Nat
  /-- slew s in ppb, signed; R555 R556; reset 0 -/
  slewPpb : Int
  /-- source of task time: 0 FREE, 1 LOCAL, 2 PAIR, 3 IHLOZ; 2 bits; R556; reset 0 -/
  source : BitVec 2
  /-- T0 in µs of task time, signed; R47 R648; reset 0 DC3 -/
  t0 : Int
  /-- T0 has been chosen; 1 bit; R648; reset false -/
  t0Fixed : Bool
  /-- a base tick has occurred; 1 bit; R47; reset false -/
  ticked : Bool
  /-- number of the last base tick; 64 bits; R47; reset 0 -/
  tickNo : Nat
  /-- base tick length in force in µs; a number; R45 R50; reset 250 -/
  tickUs : Nat
  /-- a new base tick length and the task time in µs of its completion; R50; reset none -/
  newTick : Option (Nat × Nat)
  /-- local clock running; 1 bit; R549; reset false -/
  lcRunning : Bool
  /-- local clock in units of 2^-16 * 1e-9 ns; a number; R548; reset 0 -/
  lc : Nat
  /-- frequency adjustment f in 2^-16 ppb, signed; 32 bits; R548; reset 0 DC3 -/
  freq : BitVec 32
  /-- TIME_VALID; 1 bit; R549; reset false -/
  timeValid : Bool
  /-- STEPS of the local clock; 32 bits saturating; R559; reset 0 -/
  steps : Nat
  /-- NET ticks of 8 ns since power was applied: elapsed time, whatever the slew of task time; a number; R305 R643; reset 0 -/
  net : Nat
  /-- the IHLOZ clock, which counts ticks of 10 ns, in 1e-9 ns; a number; R482 R484 R488; reset 0 DC3 -/
  ihloz : Nat
  deriving DecidableEq, Repr

/-- Mode, start-up and what a transition leaves behind (R78 to R98, R646). -/
structure ModeSt where
  /-- MODE, Table 10; 4 bits; R81; reset 0x7 -/
  mode : BitVec 4
  /-- PHASE of start-up, 0 outside it; 4 bits; R646; reset 1 -/
  phase : Nat
  /-- how the module last entered RUN: 0 warm, 1 cold, 2 resume, 3 takeover; 2 bits; R256; reset 0 DC3 -/
  restart : BitVec 2
  /-- a MODE_SET RUN with resume is allowed; 1 bit; R80; reset false -/
  resumeOk : Bool
  /-- cause of the last entry to SAFE; 8 bits; R82 R580; reset 0 DC3 -/
  safeCause : Byte
  /-- breakpoints: task, program bank (true: bank 1) and bundle address, at most 16; R90; reset none -/
  breaks : List (BitVec 7 × Bool × BitVec 15)
  /-- the firmware activation pause is in progress; 1 bit; R666; reset false -/
  pause : Bool
  /-- task time in µs before which the pause does not begin; R666; reset none -/
  pauseAt : Option Nat
  /-- task time in µs at which the pause began; R667; reset 0 DC3 -/
  pauseFrom : Nat
  /-- task time in µs of the last entry into RUN, HOLD or TRACK; R601; reset 0 DC3 -/
  saveFrom : Nat
  /-- phase 7 of this start-up has made the restart, and whether warm fell back to cold; R78 R646; reset none -/
  restarted : Option Bool
  deriving DecidableEq, Repr

/-- Supply, hold-up store, presence pins, latches of the analog/power die (R632 to R654, R681). -/
structure PowerSt where
  /-- PRSNT_EARLY closed; pin; R652; reset true (power good, R646) -/
  prsntEarly : Bool
  /-- PRSNT_LATE closed; pin; R652; reset true (power good, R646) -/
  prsntLate : Bool
  /-- main supply switch closed; 1 bit; R652; reset true (power good, R646) -/
  mainSwitch : Bool
  /-- SLOT_ID latched at power good, the unit ID; 6 bits; R653; reset 0 DC3 -/
  slotId : BitVec 6
  /-- store state: 0 READY, 1 CHARGING, 2 DEGRADED, 3 FAILED; 2 bits; R634; reset 1 -/
  store : BitVec 2
  /-- store voltage in mV; a number; R594; reset 0 DC3 -/
  storeMv : Nat
  /-- measured capacitance in 10 µF; 16 bits; R634; reset 220 (2.2 mF nominal, DC3) -/
  storeC : Nat
  /-- an interruption is in progress; 1 bit; R633; reset false -/
  interrupted : Bool
  /-- RIDE_MS in force in the interruption; 4 bits; R636; reset 10 -/
  rideMs : Nat
  /-- count of NET ticks at which the interruption began; R633; reset 0 DC3 -/
  interruptFrom : Nat
  /-- lowest store voltage of the interruption in mV; R655; reset 0 DC3 -/
  lowestMv : Nat
  /-- duration in µs of an interruption that has ended before the save that it made due; R640 R655; reset none -/
  endedUs : Option Nat
  /-- the power-down save is in progress; 1 bit; R637; reset false -/
  saving : Bool
  /-- a power-down save falls due in the activation pause, its cause; R640; reset none -/
  saveDue : Option (BitVec 2)
  /-- the controller die is stopped or held in reset; 1 bit; R639 R642; reset false -/
  stopped : Bool
  /-- the module waits for the core rail to recover; 1 bit; R642; reset false -/
  coreFault : Bool
  /-- the latched CORE_SUPPLY_FAULT record: above the limit or below it; R642; reset none -/
  coreLatch : Option Bool
  /-- WDT_TRIP is driven low; pin; R626 R681; reset false (released at power good) -/
  tripLow : Bool
  /-- a pulse of R626 or R642 is running; 1 bit; R626; reset false -/
  tripPulse : Bool
  /-- INTERRUPTIONS ridden through; 32 bits saturating; R656; reset 0 DC3 -/
  interruptions : Nat
  /-- POWER_DOWNS; 32 bits saturating; R656; reset 0 DC3 -/
  powerDowns : Nat
  /-- LONGEST_US; 32 bits saturating; R656; reset 0 DC3 -/
  longestUs : Nat
  /-- STARTUP_MS; 16 bits; R656; reset 0 DC3 -/
  startupMs : Nat
  deriving DecidableEq, Repr

/-- VECTOR, MASK and COALESCE_US of RING_IRQ or EVT_IRQ (R347). -/
structure Irq where
  /-- VECTOR; 5 bits; R347; reset 0 -/
  vector : BitVec 5
  /-- MASK; 1 bit; R347; reset true -/
  mask : Bool
  /-- COALESCE_US; 16 bits; R347; reset 0 -/
  coalesceUs : Half
  deriving DecidableEq, Repr

/-- What a command that has not yet completed waits for (R360, R366). -/
inductive Wait where
  /-- EDIT_COMMIT or EDIT_ROLLBACK pending at its common boundary (R328) -/
  | edit
  /-- PROFILE_REQUEST pending on its vote or switch (R336, R339) -/
  | profile
  /-- CAN_CANCEL deferred (R520) -/
  | canCancel (c : Fin 4) (buffer : Fin 3)
  /-- ETH_SEND until its delimiter has passed the MDI (R538) -/
  | ethSend (port : Fin 2) (stamp : Bool)
  /-- TASK_LOAD until the pinned set of the new project has been loaded (R386) -/
  | taskLoad (result : Word)
  /-- HART_TRANSACT (R459) -/
  | hart (n : Fin 32)
  /-- STEP until the instance is held again or ends (R95) -/
  | step (task : BitVec 7)
  /-- SETTINGS_WRITE until the block is stored (R376) -/
  | settings (block : Nat)
  /-- RETAIN_WRITE until its pages are written (R597) -/
  | retain (count : Nat)
  /-- SEAL_LOCK until page 0 is written (R595) -/
  | seal (ownerUnit : DWord)
  /-- MODE_SET RUN until the new claim is written (R571) -/
  | modeRun (start : Byte) (reason : Half) (cause : Byte)
  /-- FW_RECEIVE (R661) -/
  | fwReceive
  /-- FW_FORWARD (R662) -/
  | fwForward
  /-- FW_ACTIVATE until the pause has ended (R666) -/
  | fwActivate
  /-- REDUNDANCY_CONTROL HANDOVER (R584) -/
  | handover
  /-- REDUNDANCY_CONTROL RETRAIN (R589) -/
  | retrain
  deriving DecidableEq, Repr

/-- A command in progress: TAG, opcode, buffer, and what it waits for. -/
structure Busy where
  /-- TAG; 16 bits; R362; reset none -/
  tag : Half
  /-- OPCODE; 8 bits; R362; reset none -/
  opcode : Nat
  /-- BUF_ADDR; 64 bits; R362; reset none -/
  bufAddr : DWord
  /-- BUF_LEN; 32 bits; R362; reset none -/
  bufLen : Word
  /-- the outcome awaited; R360; reset none -/
  wait : Wait
  /-- a reset of the host interface discarded its completion; 1 bit; R345; reset false -/
  discard : Bool
  /-- a host error of the command leaves its completion unpredictable; 1 bit; R10 R380; reset false -/
  misuse : Bool
  deriving DecidableEq, Repr

/-- Command ring k and its completion ring (R347, R358). -/
structure Ring where
  /-- CMD_BASE; 64 bits; R347; reset 0 -/
  cmdBase : DWord
  /-- CPL_BASE; 64 bits; R347; reset 0 -/
  cplBase : DWord
  /-- SIZE; 13 bits; R347; reset 0 -/
  size : BitVec 13
  /-- EN as written; 1 bit; R347; reset false -/
  en : Bool
  /-- EN in force since the last poll; 1 bit; R348; reset false -/
  enNow : Bool
  /-- RING_IRQ as written; R347; reset VECTOR 0, MASK 1, COALESCE_US 0 -/
  irq : Irq
  /-- RING_IRQ in force since the last poll; R348; reset as RING_IRQ -/
  irqNow : Irq
  /-- CMD_CONS; 16 bits; R347; reset 0 -/
  cmdCons : Nat
  /-- CPL_PROD; 16 bits; R349; reset 0 -/
  cplProd : Nat
  /-- CMD_PROD as last fetched; 16 bits; R353; reset 0 -/
  cmdProd : Nat
  /-- CPL_CONS as last fetched; 16 bits; R353; reset 0 -/
  cplCons : Nat
  /-- BUSY: the command in progress; R347; reset none -/
  busy : Option Busy
  /-- WAITING for serialisation; 1 bit; R347; reset false -/
  waiting : Bool
  /-- completions written that no echo line has shown; R352; reset false -/
  fresh : Bool
  /-- a message waits for COALESCE_US; R352; reset false -/
  msgDue : Bool
  /-- task time in µs of the last message; R352; reset none -/
  lastMsg : Option Nat
  deriving DecidableEq, Repr

/-- BAR0 and the host interface (R343 to R378). -/
structure HostIf where
  /-- LINK up; 1 bit; R343; reset false -/
  linkUp : Bool
  /-- LINK_GEN; 3 bits; R347; reset 0 DC3 -/
  gen : BitVec 3
  /-- LINK_WIDTH; 3 bits; R347; reset 0 DC3 -/
  width : BitVec 3
  /-- PERST_N asserted; pin; R699; reset false DC3 -/
  perst : Bool
  /-- a hot reset has put the link into the training of PCI Express; 1 bit; R699; reset false -/
  training : Bool
  /-- HI_CTRL.ENABLE; 1 bit; R347; reset false -/
  enable : Bool
  /-- HI_CTRL.POLLING; 1 bit; R347; reset false -/
  polling : Bool
  /-- HOST_TIMEOUT_MS as written; 16 bits; R347; reset 0 -/
  timeoutMs : Half
  /-- HOST_TIMEOUT_MS in force; 16 bits; R348; reset 0 -/
  timeoutNow : Half
  /-- POLL_US as written; 24 bits; R347; reset 0 -/
  pollUs : BitVec 24
  /-- POLL_US in force; 24 bits; R348; reset 0 -/
  pollNow : BitVec 24
  /-- task time in µs of the next poll, none before the first; R354; reset none -/
  nextPoll : Option Nat
  /-- a doorbell-line read is outstanding; 1 bit; R353; reset false -/
  polled : Bool
  /-- base tick number at the last poll; 64 bits; R355; reset 0 DC3 -/
  pollTick : Nat
  /-- DB_ADDR; 64 bits; R347; reset 0 -/
  dbAddr : DWord
  /-- ECHO_ADDR; 64 bits; R347; reset 0 -/
  echoAddr : DWord
  /-- EVT_BASE; 64 bits; R347; reset 0 -/
  evtBase : DWord
  /-- EVT_CFG.SIZE; 13 bits; R347; reset 0 -/
  evtSize : BitVec 13
  /-- EVT_CFG.EN, ignored; 1 bit; R347; reset false -/
  evtEn : Bool
  /-- EVT_IRQ as written; R347; reset 0x0000_0100 -/
  evtIrq : Irq
  /-- EVT_IRQ in force; R348; reset 0x0000_0100 -/
  evtIrqNow : Irq
  /-- EXPORT_BASE; 64 bits; R347; reset 0 -/
  exportBase : DWord
  /-- EXPORT_SIZE; 25 bits; R347; reset 0 -/
  exportSize : BitVec 25
  /-- CHAN_BASE; 64 bits; R347; reset 0 -/
  chanBase : DWord
  /-- CHAN_COUNT; 13 bits; R347; reset 0 -/
  chanCount : BitVec 13
  /-- command rings 0 to 7; R347; reset each as its fields -/
  rings : Vector Ring 8
  /-- EVT_PROD; 16 bits; R349; reset 0 -/
  evtProd : Nat
  /-- EVT_CONS as last fetched; 16 bits; R353; reset 0 -/
  evtCons : Nat
  /-- events not posted; 32 bits saturating; R361; reset 0 -/
  evtLost : Nat
  /-- event records written that no echo line has shown; R352; reset false -/
  evtFresh : Bool
  /-- an event message waits for COALESCE_US; R352; reset false -/
  evtMsgDue : Bool
  /-- task time in µs of the last event message; R352; reset none -/
  evtLastMsg : Option Nat
  /-- SEQ_OPEN of the echo line; 32 bits; R355; reset 0 DC3 -/
  echoSeq : Word
  /-- an echo-line write is due; 1 bit; R355; reset false -/
  echoDue : Bool
  /-- HOST_SEQ last seen, with the task time in µs of the first fetch that showed it; R378; reset none -/
  hostSeq : Option (Word × Nat)
  /-- HOST_SILENT raised for this HOST_SEQ; 1 bit; R378; reset false -/
  silent : Bool
  /-- a run of failed fetches of each kind is in progress; 4 bits; R369; reset 0 -/
  failing : BitVec 4
  /-- MSI-X table, 32 entries of 16 bytes; R347; reset unlisted bytes zero, every vector masked (PCI Express) -/
  msix : Mem
  /-- MSI-X enabled in configuration space; 1 bit; R352; reset false (PCI Express, PRESUMED, log entry 10) -/
  msixEnable : Bool
  /-- MSI-X function mask; 1 bit; R352; reset false (PCI Express, PRESUMED, log entry 10) -/
  msixMask : Bool
  /-- MSI-X pending bits; 32 bits; R347; reset 0 -/
  msixPending : Word
  deriving DecidableEq, Repr

/-- A 32-byte event record (R20). -/
structure EventRec where
  /-- SOURCE; 16 bits; R20; reset none -/
  source : Half
  /-- SRC_SEQ; 16 bits; R20; reset none -/
  seq : Half
  /-- CODE; 16 bits; R20; reset none -/
  code : Half
  /-- REPEAT; 16 bits; R20; reset none -/
  repeats : Half
  /-- T_FIRST; 32 bits; R20; reset none -/
  tFirst : Word
  /-- T_LAST; 32 bits; R20; reset none -/
  tLast : Word
  /-- COMMIT; 64 bits; R20; reset none -/
  commit : DWord
  /-- DATA; 64 bits; R20; reset none -/
  data : DWord
  deriving DecidableEq, Repr

/-- The event recorder (R608 to R611, R704, R705). -/
structure RecSt where
  /-- TOTAL: records started; 64 bits; R608; reset 0 -/
  total : Nat
  /-- the last record started since start-up, with its ordinal; R609; reset none -/
  last : Option (Nat × EventRec)
  /-- the record started just before the last one since start-up, with its ordinal; R609; reset none -/
  prev : Option (Nat × EventRec)
  /-- ordinals of folded records the ring has not received since they changed; R610; reset none -/
  dirty : List Nat
  /-- the queue of 512 records waiting to be written, with ordinals; R611; reset empty -/
  queue : List (Nat × EventRec)
  /-- events not recorded since the last RECORDER_OVERFLOW; R611; reset 0 -/
  lost : Nat
  /-- REC_LOST; 32 bits saturating; R614; reset 0 -/
  lostTotal : Nat
  /-- next SRC_SEQ of each source that has raised an event; 16 bits each; R21 R704; reset 0 -/
  seqs : Tab Half
  deriving DecidableEq, Repr

/-- The counters held in SRAM (R607). -/
structure Counters where
  /-- CLAIM; 32 bits; R607 R569; reset 0 -/
  claim : Word
  /-- HIGHEST_COMMIT; 64 bits; R607; reset 0 -/
  highestCommit : Nat
  /-- POWER_CYCLES; 32 bits saturating; R607; reset 0 -/
  powerCycles : Nat
  /-- WDT_EXPIRIES; 16 bits saturating; R607; reset 0 -/
  wdtExpiries : Nat
  /-- SAVES_ABANDONED; 32 bits saturating; R607; reset 0 -/
  savesAbandoned : Nat
  deriving DecidableEq, Repr

/-- Why a claim is written (R570, R571). -/
inductive ClaimFor where
  | startup | modeSet | takeover | roleDecision
  deriving DecidableEq, Repr

/-- The operations of the energy check (R594). -/
inductive RetKind where
  /-- a retained save: cause and commit N -/
  | save (cause : BitVec 2) (n : Nat)
  /-- one counters write, for a claim or for none -/
  | counters (claim : Option (Word × ClaimFor))
  /-- one settings block write, of a ring or of the firmware (R668) -/
  | settings (ring : Option (Fin 8)) (block : Nat) (buf : Bytes)
  /-- one page of RETAIN_WRITE of a ring, the last one or not -/
  | param (ring : Fin 8) (last : Bool)
  /-- SEAL_LOCK of a ring -/
  | seal (ring : Fin 8)
  /-- the power-down save as a whole -/
  | powerDown (n : Nat)
  deriving DecidableEq, Repr

/-- An operation of the retain-store controller: pages still to write (page number and 64 bytes), pages
written, and whether the first of the remaining pages is in progress. -/
structure RetOp where
  /-- which operation; R594; reset none -/
  kind : RetKind
  /-- pages still to be written; R594; reset none -/
  pages : List (Nat × Bytes)
  /-- pages written; R613; reset none -/
  wrote : Nat
  /-- the first remaining page is in progress; R592; reset none -/
  started : Bool
  deriving DecidableEq, Repr

/-- The retain store and its controller (R591 to R607, R614). -/
structure RetSt where
  /-- MRAM of 2 MiB, unlisted bytes read zero; the pages of the settings region, whose arrangement belongs to the firmware, are held
  from page 32,768 on, by block and copy (log entry 119); R591; reset nothing listed -/
  mram : Mem
  /-- the seal lock fuse; 1 bit; R595; reset false -/
  sealLock : Bool
  /-- counters in SRAM; R607; reset zero (R606) -/
  ctr : Counters
  /-- counters copy chosen: 0 none, 1 A, 2 B, and its SEQ; R605; reset (0, 0) -/
  ctrCopy : BitVec 2 × Word
  /-- recorder index copy chosen and its SEQ; R705; reset (0, 0) -/
  idxCopy : BitVec 2 × Word
  /-- CHOSEN retained copy and its SEQ; R605; reset (0, 0) -/
  retCopy : BitVec 2 × Word
  /-- A_VALID; 1 bit; R614; reset false -/
  aValid : Bool
  /-- B_VALID; 1 bit; R614; reset false -/
  bValid : Bool
  /-- settings blocks stored; bytes by block ID; R376; reset none (defaults in force) -/
  blocks : Tab Bytes
  /-- operations waiting, first in progress; R594; reset empty -/
  ops : List RetOp
  /-- settings copy chosen of each block: 0 none, 1 A, 2 B, and its SEQ; R605; reset none -/
  setCopy : Tab (BitVec 2 × Word)
  /-- causes of the saves that fall due while one is in progress, oldest first; R601; reset none -/
  saveWaits : List (BitVec 2)
  /-- LAST_CAUSE; 2 bits; R614; reset 0 DC3 -/
  lastCause : BitVec 2
  /-- LAST_N; 64 bits; R614; reset 0 DC3 -/
  lastN : Nat
  /-- SAVES; 32 bits saturating; R614; reset 0 -/
  saves : Nat
  /-- ABANDONED; 32 bits saturating; R614; reset 0 -/
  abandoned : Nat
  deriving DecidableEq, Repr

/-- One program bank: the words that differ from an unwritten word (R184, R187, R281). -/
structure Bank where
  /-- stall words by word address; 14 bits each, 65,536; R184; unlisted words 0x3FFF (R187) -/
  stall : Tab MoveWord
  /-- solver words by word address; 12 bits each, 131,072; R281; unlisted words 0xF01 -/
  solver : Tab RungWord
  deriving DecidableEq, Repr

/-- A selection of retained or mirrored bytes (R373, R598): region 0 global, 1 private data, 2 output image. -/
structure Sel where
  /-- region; 2 bits; R599 -/
  region : Nat
  /-- task ID, 0 for globals; 7 bits; R599 -/
  task : Nat
  /-- OFFSET; 32 bits; R599 -/
  offset : Nat
  /-- LENGTH; 32 bits; R599 -/
  length : Nat
  deriving DecidableEq, Repr

/-- The task records and layouts of one project (R372, R373). -/
structure Layout where
  /-- the task load records; R373; reset none -/
  tasks : List TaskRec
  /-- GLOBAL_SIZE; 32 bits; R372; reset 0 -/
  globalSize : Nat
  /-- retained selections in the order of R598; reset none -/
  retained : List Sel
  /-- mirrored selections; R577; reset none -/
  mirrored : List Sel
  deriving DecidableEq, Repr

/-- The loaded project and the edit (R320 to R333, R372 to R374). -/
structure ProjSt where
  /-- a project is loaded; 1 bit; R374 R694; reset false -/
  loaded : Bool
  /-- LOAD_ID; 32 bits; R372; reset 0 -/
  loadId : Word
  /-- bank 0; R183; reset unwritten -/
  bank0 : Bank
  /-- bank 1; R183; reset unwritten -/
  bank1 : Bank
  /-- the active bank; 1 bit; R183; reset false (bank 0, DC3) -/
  active : Bool
  /-- the layout in force; R372; reset empty -/
  cur : Layout
  /-- the layout of the other project (the edited one, or the one before the edit); R320; reset empty -/
  other : Layout
  /-- initial data of the load package; bytes; R372; reset empty -/
  init : Bytes
  /-- GLOBAL_INIT; 32 bits; R372; reset 0xFFFF_FFFF DC3 -/
  globalInit : Word
  /-- the project was edited since TASK_LOAD: initial values are those of the edit package for these tasks; R78 R330; reset none -/
  editInit : Tab Bytes
  /-- the same for the other project; R320 R330; reset none -/
  otherInit : Tab Bytes
  /-- edit state: 0 EMPTY, 1 PREPARED, 2 APPLIED; 2 bits; R320; reset 0 -/
  edit : BitVec 2
  /-- the edit package held; R321; reset none -/
  pkg : Option EditPackage
  /-- PREP_CRC; 32 bits; R323; reset 0 DC3 -/
  prepCrc : Word
  /-- a pending EDIT_COMMIT or EDIT_ROLLBACK: ring, rollback, EARLIEST_TICK, last tick of the wait; R328 R331; reset none -/
  pend : Option (Fin 8 × Bool × Nat × Nat)
  /-- task time in 1e-9 ns at which it was accepted; R328; reset 0 -/
  pendAt : Nat
  /-- the base tick whose common boundary has been found: while the edit is pending a profile switch is still due before it; R328 R339; reset
  none -/
  boundary : Option Nat
  deriving DecidableEq, Repr

/-- A profile record (R334). -/
structure Profile where
  /-- PROFILE_ID; 3 bits; R334 -/
  id : BitVec 3
  /-- CHAN_VARIANT; 3 bits; R334 -/
  variant : BitVec 3
  /-- IHLOZ_MODE; 3 bits; R334 -/
  ihlozMode : BitVec 3
  /-- NAME; 8 bytes; R334 -/
  name : Bytes
  /-- TASK_ENABLE; 128 bits; R334 -/
  enable : BitVec 128
  deriving DecidableEq, Repr

/-- A vote in progress (R335 to R338, R492, R493). -/
structure Vote where
  /-- target profile; 3 bits; R336 -/
  target : BitVec 3
  /-- target IHLOZ_MODE; 3 bits; R336 -/
  mode : BitVec 3
  /-- requesting node; 5 bits; R336 -/
  requester : BitVec 5
  /-- the ring of the own PROFILE_REQUEST; R335 -/
  ring : Option (Fin 8)
  /-- nodes whose frames have carried the vote since the window opened; 32 bits; R492 -/
  voted : BitVec 32
  /-- first node that voted against; R338 -/
  opposed : Option (BitVec 5)
  /-- cycle of the requester's first vote frame; R336 -/
  openCycle : Option Nat
  /-- cycle number after which the request ends without a complete vote; R338 -/
  lastCycle : Nat
  /-- agreed cycle number; R337 -/
  agreed : Option Nat
  /-- first cycle whose frames carry the vote; R336 -/
  fromCycle : Nat
  /-- first cycle whose frames carry AGREED; R493 -/
  agreedFrom : Nat
  /-- the requester's frames no longer carry the vote that they opened; R336 R338 -/
  stopped : Bool
  deriving DecidableEq, Repr

/-- Profiles (R334 to R341). -/
structure ProfSt where
  /-- stored profiles by PROFILE_ID; R334; reset none -/
  table : Tab Profile
  /-- active profile, 0xFF none; 8 bits; R334; reset 0xFF -/
  active : Byte
  /-- the vote in progress; R336; reset none -/
  vote : Option Vote
  /-- a local switch due at the next base tick: target and ring; R335; reset none -/
  localSwitch : Option (BitVec 3 × Fin 8)
  /-- target and requester of the vote that ended here, until the requester's frames carry it no longer; R338; reset none -/
  ended : Option (BitVec 3 × BitVec 5)
  /-- the enables in force until the base tick of a switch that has been numbered; 128 bits; R340; reset none -/
  before : Option (BitVec 128)
  deriving DecidableEq, Repr

/-- The counters of one task (Tables 7, 9, 8, 10, 4 of the chapters of R76, R139, R181, R296, R318). -/
structure TaskCtr where
  /-- RELEASES; 32 bits saturating; R76; reset 0 -/
  releases : Nat
  /-- COMMITS; 32 bits saturating; R76; reset 0 -/
  commits : Nat
  /-- ABORTS; 32 bits saturating; R76; reset 0 -/
  aborts : Nat
  /-- DEADLINES; 16 bits saturating; R76; reset 0 -/
  deadlines : Nat
  /-- SKIPPED; 16 bits saturating; R76; reset 0 -/
  skipped : Nat
  /-- MERGED; 16 bits saturating; R76; reset 0 -/
  merged : Nat
  /-- MISSED_HELD; 16 bits saturating; R76; reset 0 -/
  missedHeld : Nat
  /-- EXEC_MAX; 32 bits saturating; R76; reset 0 -/
  execMax : Nat
  /-- TORN; 16 bits saturating; R139; reset 0 -/
  torn : Nat
  /-- OVERFLOWS; 16 bits saturating; R139; reset 0 -/
  overflows : Nat
  /-- WB_PEAK; 16 bits saturating; R139; reset 0 -/
  wbPeak : Nat
  /-- COMMIT_LAT_MAX in FABRIC cycles; 16 bits saturating; R139; reset 0 -/
  commitLatMax : Nat
  /-- EXPORTS_SKIPPED; 32 bits saturating; R139; reset 0 -/
  exportsSkipped : Nat
  /-- STEPS; 16 bits saturating; R181; reset 0 -/
  steps : Nat
  /-- SLIPS; 16 bits saturating; R181; reset 0 -/
  slips : Nat
  /-- SLIP_MAX in ns; 32 bits saturating; R181; reset 0 -/
  slipMax : Nat
  /-- STALE; 16 bits saturating; R181; reset 0 -/
  stale : Nat
  /-- SOLVER_ERRS; 16 bits saturating; R296; reset 0 -/
  solverErrs : Nat
  /-- SOLVE_MAX; 16 bits saturating; R296; reset 0 -/
  solveMax : Nat
  /-- PAIR_MISMATCHES; 16 bits saturating; R318; reset 0 -/
  pairMismatches : Nat
  /-- PAIR_DEADLINES; 16 bits saturating; R318; reset 0 -/
  pairDeadlines : Nat
  /-- PAIR_RUN, the consecutive-disagreement count; 8 bits; R312 R318; reset 0 -/
  pairRun : Nat
  /-- PAIR_ESCALATIONS; 16 bits saturating; R318; reset 0 -/
  pairEscalations : Nat
  /-- PHASE_SAME; 16 bits saturating; R318; reset 0 -/
  phaseSame : Nat
  deriving DecidableEq, Repr

/-- A released instance (R56, R58) that is open or waits for its start. -/
structure Release where
  /-- base tick number of the release, or the last tick before it; 64 bits; R254 R667 -/
  tick : Nat
  /-- task time in µs of the release; 64 bits; R286 -/
  time : Nat
  /-- deadline base tick, none for an event task with DEADLINE 0; R68 R71 -/
  deadline : Option Nat
  /-- DEADLINE in effect in base ticks; 16 bits; R69 -/
  deadlineTicks : Nat
  /-- the overrun has been handled; R69 -/
  overrun : Bool
  /-- a trigger was merged into the latch that released it; R256 -/
  merged : Bool
  /-- the deadline does not run while the instance is held; ticks left are frozen; R93 -/
  frozen : Bool
  /-- the cause that a slip of the plain task or copy A, and of copy B, has whatever its parts: 4 CAPACITY, 5 RULE, 6 PIN; R150 R179 R698 -/
  slipA : Option Byte
  slipB : Option Byte
  /-- a copy has started; R37 -/
  started : Bool
  /-- copy B has started; R299 -/
  startedB : Bool
  /-- NET tick at which the first copy entered ENDING; R139 R305 -/
  firstEnding : Option Nat
  /-- NET ticks at which the pairing deadline falls, while it runs; R305 -/
  pairDue : Option Nat
  /-- NET ticks left of a pairing deadline that does not run, because a copy waits or is held; R97 R305 -/
  pairRest : Option Nat
  /-- bundles (none: to its end) that copy B is to take at its start, by a STEP made while only copy A had started; R97 -/
  stepB : Option (Option Nat)
  /-- PAIR_PHASE_SAME raised for the instance; R298 -/
  phased : Bool
  /-- torn counted once for the instance; R139 -/
  tornCounted : Bool
  /-- pairing settings PAIR_WINDOW, PAIR_LIMIT, ESCALATE at the release; R316 -/
  pairWindow : Nat
  pairLimit : Nat
  pairHandover : Bool
  deriving DecidableEq, Repr

/-- What the module keeps of each task between its instances. -/
structure TaskSt where
  /-- enabled; 1 bit; R54 R692; reset false -/
  enabled : Bool
  /-- held; 1 bit; R92; reset false -/
  held : Bool
  /-- held at entry; 1 bit; R95; reset false -/
  heldEntry : Bool
  /-- pending-trigger latch; 1 bit; R73; reset false -/
  latch : Bool
  /-- a trigger was merged into the latch; 1 bit; R73; reset false -/
  latchMerged : Bool
  /-- task time in 1e-9 ns at which a copy of it last left its stall; R328; reset 0 -/
  closedAt : Nat
  /-- task time in µs of the previous release; R74; reset none -/
  lastRelease : Option Nat
  /-- the released or open instance; R59; reset none -/
  inst : Option Release
  /-- placement epoch; 16 bits; R154; reset 0 DC3 -/
  epoch : Half
  /-- assigned stall of the plain task or copy A; R182; reset none -/
  placeA : Option StallId
  /-- assigned stall of copy B; R182; reset none -/
  placeB : Option StallId
  /-- a drain fence is in progress since this task time in 1e-9 ns; R157; reset none -/
  fence : Option Nat
  /-- sources whose fence markers have arrived since the step began: field front-ends, Ihloz engine, CAN controllers, Ethernet process
  data, rung solvers, load/store and block transfers, host triggers; 7 bits; R157; reset 0 -/
  markers : BitVec 7
  /-- results that the old barn's gateway has forwarded since the step began; R157; reset 0 -/
  inFlight : Nat
  /-- commits since the last turntable step; R156; reset 0 DC3 -/
  sinceStep : Nat
  /-- solver caller; 1 bit; R697; reset false -/
  caller : Bool
  /-- the next instance is the first since RUN was entered; 1 bit; R256; reset false -/
  firstRun : Bool
  /-- the next instance is the first since an edit commit that changed the task; 1 bit; R256; reset false -/
  firstEdit : Bool
  /-- the next instance is the first since a profile switch; 1 bit; R256; reset false -/
  firstProfile : Bool
  /-- the task has committed since the last entry to RUN from start-up or STOP; 1 bit; R67; reset false -/
  committed : Bool
  /-- base tick of the last release in a pause, kept for the release at its end; R667; reset none -/
  pauseRelease : Option Nat
  /-- counters; R76 R139 R181 R296 R318; reset 0 -/
  ctr : TaskCtr
  deriving DecidableEq, Repr

/-- The sockets and registers of an instance (R194, R195, R211). -/
structure Ctx where
  /-- GP0 to GP31; 32 bits each; R194; at instance start 0 (R210) -/
  gp : Vector Word 32
  /-- address of the next bundle; 15 bits; R211; at instance start the entry -/
  pc : BitVec 15
  /-- IMM; 32 bits; R196; at instance start 0 -/
  imm : Word
  /-- ALU.OPB; 32 bits; R194; at instance start 0 -/
  aluOpb : Word
  /-- ALU.RES; 32 bits; R195; at instance start 0 -/
  aluRes : Word
  /-- ALU.FLAGS; 4 bits used; R220; at instance start 0 -/
  aluFlags : Word
  /-- MAC.OPB; 32 bits; R194; at instance start 0 -/
  macOpb : Word
  /-- ACC; 72 bits; R221; at instance start 0 -/
  acc : BitVec 72
  /-- MAC.CFG; 32 bits; R222; at instance start 0 -/
  macCfg : Word
  /-- MAC.FLAGS; 2 bits used; R224; at instance start 0 -/
  macFlags : Word
  /-- CHK.POLY; 32 bits; R226; at instance start 0 -/
  chkPoly : Word
  /-- CHK.CFG; 32 bits; R225; at instance start 0 -/
  chkCfg : Word
  /-- CHK.CRC; 32 bits; R226; at instance start 0 -/
  chkCrc : Word
  /-- CHK.PAR; 32 bits; R228; at instance start 0 -/
  chkPar : Word
  /-- CHK.REV; 32 bits; R229; at instance start 0 -/
  chkRev : Word
  /-- AGn.BASE; 32 bits each; R231; at instance start 0 -/
  agBase : Vector Word 4
  /-- AGn.IDX; 32 bits each; R231; at instance start 0 -/
  agIdx : Vector Word 4
  /-- AGn.MOD; 32 bits each; R231; at instance start 0 -/
  agMod : Vector Word 4
  /-- AGn.CFG; 32 bits each; R230; at instance start 0 -/
  agCfg : Vector Word 4
  /-- LS.ADDR; 32 bits; R194; at instance start 0 -/
  lsAddr : Word
  /-- LD.RES; 32 bits; R195; at instance start 0 -/
  ldRes : Word
  /-- RPT.START; 32 bits; R243; at instance start 0 -/
  rptStart : Word
  /-- RPT.END; 32 bits; R243; at instance start 0 -/
  rptEnd : Word
  /-- RPT.COUNT; 32 bits; R243; at instance start 0 -/
  rptCount : Word
  /-- RPT.STATE; 2 bits used; R243; at instance start 0 -/
  rptState : Word
  /-- IMG.SEL; 1 bit used; R249; at instance start 0 -/
  imgSel : Word
  /-- IMG.ADDR; 32 bits; R194; at instance start 0 -/
  imgAddr : Word
  /-- IMG.RES; 32 bits; R195; at instance start 0 -/
  imgRes : Word
  /-- BR.TARGET; 32 bits; R202; at instance start 0 -/
  brTarget : Word
  /-- BR.LINK; 32 bits; R204; at instance start 0 -/
  brLink : Word
  /-- SYS.EVTD; 64 bits; R194; at instance start 0 -/
  evtd : DWord
  deriving DecidableEq, Repr

/-- State of a resident instance (R102). -/
inductive Phase where
  | running | preempted | waitBreak | held | ending
  deriving DecidableEq, Repr

/-- The tag of a result on its way (R154). -/
structure Tag where
  /-- placement epoch of the task when the result was sent; 16 bits; R154 -/
  epoch : Half
  /-- start commit number of the instance that requested it; 64 bits; R154 -/
  start : Nat
  deriving DecidableEq, Repr

/-- The kinds of requested results (R154, R159). -/
inductive ResKind where
  | load | block | solver
  deriving DecidableEq, Repr

/-- An outstanding load (R213): width in bytes, address, the own writes of the line captured at the trigger. -/
structure LoadReq where
  /-- the tag of its result; R154 -/
  tag : Tag
  /-- width in bytes; R195 -/
  width : Nat
  /-- data address; 32 bits; R234 -/
  addr : Word
  /-- the bytes of the load that were known when it was triggered: what the instance itself had written, or scratch; R100 R238 -/
  own : Mem
  /-- cycle of its trigger; R195 -/
  at_ : Nat
  /-- no later load has been triggered: its result goes to LD.RES; R200 -/
  live : Bool
  /-- its instance has been switched away from since its trigger; R213 -/
  apart : Bool
  deriving DecidableEq, Repr

/-- An outstanding block transfer (R239). -/
structure BlkReq where
  /-- the tag of its completion; R154 -/
  tag : Tag
  /-- SRC; 32 bits; R239 -/
  src : Word
  /-- DST; 32 bits; R239 -/
  dst : Word
  /-- LEN; 16 bits; R239 -/
  len : Nat
  /-- cycle of its trigger; R241 -/
  at_ : Nat
  /-- task code has touched its bytes: what it copies is unpredictable; R242 -/
  spoiled : Bool
  deriving DecidableEq, Repr

/-- A resident instance of a stall: the resident-instance table (R210) and its transaction (R99). -/
structure Inst where
  /-- task; 7 bits; R255 -/
  task : BitVec 7
  /-- COPY: copy B; 1 bit; R255 -/
  copyB : Bool
  /-- transaction state; R102 -/
  phase : Phase
  /-- PRIORITY; 5 bits; R60 -/
  priority : Nat
  /-- release: tick and task time in µs; R254 R286 -/
  relTick : Nat
  relTime : Nat
  /-- TIME.HI:TIME.LO; 64 bits; R254 -/
  tStart : DWord
  /-- S, the start commit number; 64 bits; R120 -/
  startCommit : Nat
  /-- EPOCH at start; 16 bits; R255 -/
  epoch : Half
  /-- bank fetched from; 1 bit; R185 -/
  bank : Bool
  /-- the input image as held (complemented for copy B); R37 R301 -/
  inImg : Mem
  /-- the task load record the instance runs under; R373 -/
  record : TaskRec
  /-- the warden entry in force at the start; 64 bytes; R409 -/
  warden : Bytes
  /-- channel-map variant in force at the start; 3 bits; R341 -/
  variant : BitVec 3
  /-- the bits that each channel of the output image map covers: channel, first bit, bits; R701 -/
  covers : List (Nat × Nat × Nat)
  /-- write buffer: the bytes written, as held (complemented for copy B), by key; R105 R301 -/
  wb : Mem
  /-- held SYS.EVT records, at most 16: CODE and DATA; R109 -/
  events : List (Half × DWord)
  /-- SYS.EVT moves dropped; R109 -/
  evtDropped : Nat
  /-- TORN; 1 bit; R256 -/
  torn : Bool
  /-- the cycle from which SYS.STATUS shows it, that of the first torn read's completion; R257 -/
  tornFrom : Nat
  /-- ADDR_FAULT; 1 bit; R256 -/
  addrFault : Bool
  /-- the cycle from which SYS.STATUS shows it; R257 -/
  faultFrom : Nat
  /-- the start flags of SYS.STATUS, bits 8:2; R256 -/
  startFlags : Word
  /-- cycle at which the next bundle may issue, SYS.CYCLE; 32 bits; R195 -/
  cycle : Nat
  /-- bundles issued since the start or the last STEP; R95 -/
  issued : Nat
  /-- cycle at which the MAC results are ready; R195 -/
  macReady : Nat
  /-- cycle at which CHK.RES is ready; R195 -/
  chkReady : Nat
  /-- cycle at which LD.RES is ready; R195 -/
  ldReady : Nat
  /-- cycle at which IMG.RES is ready; R195 -/
  imgReady : Nat
  /-- cycle at which the last solver call returned; R216 R259 -/
  solveReady : Nat
  /-- cycle of the last SOLVE, none once its instance has been switched away from; R266 -/
  solveAt : Option Nat
  /-- solver cycles that its call took, and that calls ended while it was queued took; R264 R266 -/
  solveTook : Nat
  solveAhead : Nat
  /-- cycle at which the last block transfer completed; R216 R259 -/
  blkReady : Nat
  /-- PEND_LD: the outstanding loads, oldest first; only the last one's result is read (R200); R213 -/
  loads : List LoadReq
  /-- PEND_SOLVE: a solver call is outstanding; R213 -/
  solving : Bool
  /-- PEND_BLK: the outstanding block transfer; R213 -/
  blk : Option BlkReq
  /-- results that the next bundle waits for: loads, solver, block (SYS.WAIT, SYS.FENCE), and that a SYS.WAIT names loads and blocks; 4 bits; R257 R259 R260 -/
  waits : BitVec 4
  /-- TX.END issued while a result is outstanding; 1 bit; R155 -/
  endPending : Bool
  /-- bundles that STEP still lets issue; R95 -/
  steps : Option Nat
  /-- the breakpoint at the next bundle has been passed by a resume or STEP; 1 bit; R95 R96 -/
  passBreak : Bool
  /-- bundle address at which it last stopped; R92 R97 -/
  stopPc : BitVec 15
  /-- a fault of its own code, with its DETAIL, that came while it did not run; it aborts by it when it runs again; R102 R108 R240 -/
  fault : Option (Nat × Nat)
  /-- NET ticks at its start; R299 -/
  startNet : Nat
  /-- stall cycle at which the copy entered ENDING, for COMMIT_LAT; R139 -/
  peak : Nat
  deriving DecidableEq, Repr

/-- A result on its way to an instance that has aborted (R159, R181). -/
structure StaleRes where
  /-- the frame it would have gone to; R210 -/
  slot : Fin 4
  /-- a long load, a block transfer or a solver call; R181 -/
  kind : ResKind
  /-- the task of the instance; R181 -/
  task : BitVec 7
  /-- its tag; R154 -/
  tag : Tag
  deriving DecidableEq, Repr

/-- A stall (R161, R183 to R215). -/
structure Stall where
  /-- STALL_STATE, Table 4: 0 ACTIVE, 1 SPARE, 2 TESTING, 3 DEGRADED, 4 RETIRED; 3 bits; R161; reset 0, stall 4 of each barn 1 (R25) -/
  state : BitVec 3
  /-- MARGIN in 0.5 % steps; a number; R161 R182; reset 31 DC3 -/
  margin : Nat
  /-- STALL_AGEING has been raised; 1 bit; R162; reset false -/
  aged : Bool
  /-- cause of DEGRADED: 0 ageing, 1 test; 1 bit; R180; reset false DC3 -/
  byTest : Bool
  /-- clock running; 1 bit; R41 R645; reset false DC3 -/
  ungated : Bool
  /-- resident instances 0 to 3; R63; reset none -/
  slots : Vector (Option Inst) 4
  /-- the resident whose context is in the stall's registers; R211; reset none -/
  running : Option (Fin 4)
  /-- the stall's registers; R194; reset 0 (R210) -/
  ctx : Ctx
  /-- local data memory, 64 KiB: bytes written; R210 R211; unlisted bytes free values (log entry 6) -/
  mem : Mem
  /-- results outstanding of aborted instances, to be retired; R154 R159; reset none -/
  stale : List StaleRes
  /-- task time in 1e-9 ns since which it has had no resident instance; R167; reset 0 -/
  since : Nat
  /-- task time in 1e-9 ns at which it last ended an idle time of at least 50 µs; R167; reset 0 -/
  lastIdle : Nat
  deriving DecidableEq, Repr

/-- A queued or running solver call (R262). -/
structure Call where
  /-- the tag of its result; R154 -/
  tag : Tag
  /-- calling stall; R262 -/
  stall : StallId
  /-- slot of the instance; R213 -/
  slot : Fin 4
  /-- entry word address; 17 bits; R252 -/
  entry : BitVec 17
  /-- next word; 17 bits; R284 -/
  pc : BitVec 17
  /-- accumulator stack, top first, at most 16; R282 -/
  stack : List Bool
  /-- bit window: region 0 BITS, 1 IN, 2 OUT; R273 -/
  region : BitVec 2
  /-- window number; R273 -/
  window : Nat
  /-- record area; R273 -/
  area : Nat
  /-- solver cycles since the first word; R264 -/
  cycles : Nat
  /-- lines outside the barn's SRAM already fetched in this call; R294 -/
  fetched : List Nat
  /-- NET tick of its SOLVE, and the stall cycle among those of the queue that show the same tick; R262 -/
  at_ : Nat
  group : Nat
  deriving DecidableEq, Repr

/-- A barn and its rung solver (R169, R262, R270). -/
structure Barn where
  /-- present and in service; 1 bit; R43 R651; reset true (FX) -/
  present : Bool
  /-- BARN_POWER: 0 OFF, 1 WAKING, 2 ON; 2 bits; R169 R182; reset 0 DC3 -/
  power : BitVec 2
  /-- last wake operation done: 0 none, 1 wake decision, 2 switch on, 3 PLL lock, 4 clock ramp; R169; reset 0 -/
  wake : Nat
  /-- solver retired; 1 bit; R165; reset false -/
  solverOut : Bool
  /-- solver margin in 0.5 % steps; R161; reset 31 DC3 -/
  solverMargin : Nat
  /-- solver clock running; 1 bit; R645; reset false DC3 -/
  solverOn : Bool
  /-- calls queued, oldest first; R262; reset empty -/
  queue : List Call
  /-- the running call; R262; reset none -/
  run : Option Call
  /-- returns on their way to a stall: stall, slot, IMG.RES value, tag; R154 R266; reset none -/
  returns : List (StallId × Fin 4 × Word × Tag)
  /-- the barn sensor's last reading in 0.125 °C steps, signed; R176; reset 0 DC3 -/
  temp : Int
  deriving DecidableEq, Repr

/-- The yardmaster (R140 to R182). -/
structure YardSt where
  /-- placement published for the next base tick; R142; reset none -/
  published : Option Publication
  /-- the last tick was late; 1 bit; R143; reset false -/
  late : Bool
  /-- power operations that ended less than 8 µs ago: start and end in task time 1e-9 ns, budget in mA/µs; R170; reset none -/
  ledger : List (Nat × Nat × Nat)
  /-- barns that a published placement powers off; R142 R153; reset none -/
  offDue : List (Fin 4)
  /-- home lines placed in a barn: line key and barn; unlisted lines lie in the global image memory; R151; reset none -/
  homeLoc : Tab (Fin 4)
  /-- home-line moves begun at a tick and not complete: line key, target; R152; reset none -/
  moves : List (Nat × Loc)
  /-- receive rings: barn of each CAN controller's ring; R151; reset none placed -/
  ringLoc : Tab (Fin 4)
  /-- lines not to be used until written again: memory (0 global image memory, 1 to 4 SRAM of barn 0 to 3) and line address; R168; reset none -/
  bad : List (Nat × Nat)
  /-- STEPS_TOTAL; 32 bits; R182; reset 0 -/
  stepsTotal : Nat
  /-- WAKES_TOTAL; 32 bits; R182; reset 0 -/
  wakesTotal : Nat
  /-- SLIP_MAX_ALL in ns; 32 bits; R182; reset 0 -/
  slipMaxAll : Nat
  /-- the placement settings block in force since the last published tick; R149; reset defaults -/
  rules : Bytes
  /-- the placement settings block read at the publication, in force from its tick on; R149; reset none -/
  rulesDue : Option Bytes
  /-- the base tick from which the block in force has applied; R149; reset 0 -/
  rulesTick : Nat
  /-- accesses that the gateways have counted, by home line, task and barn; R140 R151; reset none -/
  traffic : Tab Nat
  /-- tasks whose placement in barns of one parity has been reported for the coming tick; R298; reset none -/
  phased : List (BitVec 7)
  deriving DecidableEq, Repr

/-- A write set presented to the commit engine (R102, R116, R306): the stall and slot of the plain task or copy A. -/
structure Present where
  /-- stall of the plain task or copy A; R116 -/
  stall : StallId
  /-- slot; R102 -/
  slot : Fin 4
  /-- the number of the FABRIC cycle in which it was presented, counted over cycles with a presentation; R116 -/
  cycle : Nat
  /-- NET ticks at its presentation; R139 -/
  at_ : Nat
  deriving DecidableEq, Repr

/-- Values of one commit that wait to be applied to direct outputs (R127, R128): channel and value. -/
structure OutDue where
  /-- commit number; R127 -/
  commit : Nat
  /-- task; R66 -/
  task : BitVec 7
  /-- task time in 1e-9 ns of the numbering; R128 -/
  at_ : Nat
  /-- channel ID and value; R127 -/
  values : List (Nat × Word)
  /-- channel-map variant that governs their application; 3 bits; R341 -/
  variant : BitVec 3
  /-- the entries, by channel ID, that a CHAN_SYNC has replaced since the numbering; R399 -/
  olds : Tab (Option Bytes)
  deriving DecidableEq, Repr

/-- An image export region (R130 to R134). -/
structure Export where
  /-- task; R130 -/
  task : BitVec 7
  /-- IMAGE: output image; R370 -/
  output : Bool
  /-- OFFSET and LENGTH; R370 -/
  offset : Nat
  length : Nat
  /-- AREA_OFFSET; R370 -/
  area : Nat
  /-- the export in flight: commit number, time-stamp, bytes; R133; reset: none -/
  flight : Option (Nat × Word × Bytes)
  /-- the newest commit that waits for the export in flight: number, time-stamp, bytes; R133; reset: none -/
  due : Option (Nat × Word × Bytes)
  deriving DecidableEq, Repr

/-- A bale that waits in the queue (R578). -/
structure BaleSt where
  /-- the bale; R577 -/
  bale : Bale
  /-- its size in bytes; R578 -/
  size : Nat
  deriving DecidableEq, Repr

/-- Committed state and the commit engine (R99 to R139). -/
structure CommitSt where
  /-- the highest commit number assigned so far, in a standby that of the last applied bale; 64 bits; R28 R114 R579; reset 0 -/
  last : Nat
  /-- the commit number that the next commit takes; 64 bits; R113 R114 R115; reset 1 -/
  next : Nat
  /-- numbering is stopped by the power-down save; 1 bit; R137; reset false -/
  stopped : Bool
  /-- newest committed version of every line, by key; R119; reset nothing listed (zero) -/
  newest : Mem
  /-- older committed version of every line, by key; R119; reset nothing listed (zero) -/
  older : Mem
  /-- commit number of the newest version, by line key; R119; reset 0 -/
  vNew : Tab Nat
  /-- commit number of the older version, by line key; R119; reset none -/
  vOld : Tab Nat
  /-- the task that last wrote each line of global data, since the project or an edit of it was loaded; R123; reset none -/
  writer : Tab Nat
  /-- edit commits since home memory was loaded: number, affected tasks, and key and length of what the map wrote; R322 R329;
  reset none -/
  edits : List (Nat × BitVec 128 × List (Nat × Nat))
  /-- write sets presented and not numbered, oldest first; R116; reset empty -/
  presented : List Present
  /-- direct outputs to be applied, oldest first; R127; reset empty -/
  direct : List OutDue
  /-- tick-aligned outputs, the latest commit of each task; R128; reset empty -/
  aligned : List OutDue
  /-- image export regions 0 to 63; R130; reset none -/
  exports : Tab Export
  deriving DecidableEq, Repr

/-- The channel table (R382 to R404). -/
structure ChanSt where
  /-- entry store: 64 bytes by channel ID; R384; reset none -/
  store : Tab Bytes
  /-- pinned set: the cached entry by channel ID, none for ENTRY_UNAVAILABLE; R402; reset empty -/
  pinned : Tab (Option Bytes)
  /-- entries loaded for a pending enable or profile switch and not yet pinned, by channel ID; R402 R179; reset none -/
  ready : Tab (Option Bytes)
  /-- channels whose entries are still to be loaded for an enable or profile request; R179; reset none -/
  loading : List Nat
  /-- disabled tasks' channels to be unpinned at the next base tick; 1 bit; R693 R179; reset false -/
  unpin : Bool
  /-- reported state by channel ID; 8 bits; R395; reset none reported -/
  state : Tab Byte
  /-- tasks and channels in LAYOUT; R390 R397; reset none -/
  layout : List (Nat × Nat)
  /-- last received payload bytes of network input channels; R395; reset none -/
  rx : Tab Bytes
  /-- values of locked channels as of the end of the last complete Ihloz cycle; R495; reset none -/
  locked : Tab Bytes
  /-- channels in STALE; R395; reset none -/
  stale : List Nat
  /-- cycles without a valid copy of each Ihloz receive channel; R496; reset 0 -/
  missed : Tab Nat
  /-- channels in CAN_FRAME_SHORT or ETH_FRAME_SHORT; R514 R543; reset none -/
  short : List Nat
  /-- last committed output data of network output channels, by channel; R497; reset none -/
  tx : Tab Bytes
  /-- channel-map variant that governs the data of a network output channel, where a commit after a switch keeps an older one;
  3 bits; R341; reset none -/
  txVariant : Tab (BitVec 3)
  /-- the entry that a CHAN_SYNC has replaced since the commit whose data a network output channel sends; R399; reset none -/
  txEntry : Tab (Option Bytes)
  /-- HOST_LOADS; 32 bits; R404; reset 0 -/
  hostLoads : Nat
  /-- STORE_LOADS; 32 bits; R404; reset 0 -/
  storeLoads : Nat
  /-- FETCH_FAILS; 32 bits; R404; reset 0 -/
  fetchFails : Nat
  /-- warden entries 0 to 135, 64 bytes each; R405; reset zero (R411) -/
  warden : Tab Bytes
  deriving DecidableEq, Repr

/-- A digital input (R416 to R427). -/
structure DiCh where
  /-- last raw sample before INVERT; 1 bit; R416; reset false DC3 -/
  raw : Bool
  /-- accepted level, none before the first sample; R421 R703; reset none -/
  level : Option Bool
  /-- consecutive equal samples that differ from the accepted level; R421; reset 0 -/
  run : Nat
  /-- value changes among the last 64 samples, newest in bit 0; 64 bits; R423; reset 0 -/
  changes : BitVec 64
  /-- UNSETTLED; 1 bit; R423; reset false -/
  unsettled : Bool
  /-- task times in µs of changes of the accepted level within the chatter window; R427; reset none -/
  flips : List Nat
  /-- CHATTER; 1 bit; R427; reset false -/
  chatter : Bool
  /-- STUCK; 1 bit; R427; reset false -/
  stuck : Bool
  /-- raw level of the last phase that a counting input registered; R425; reset none -/
  phase : Option Bool
  /-- count of a counting input; 32 bits; R425; reset 0 -/
  count : Word
  /-- COUNT_OVERRATE; 1 bit; R427; reset false -/
  overrate : Bool
  /-- task time in µs of the last change of the accepted level, or of the first one; R427; reset 0 DC3 -/
  changedAt : Nat
  /-- task time in µs of the last phase shorter than 4 µs; R427; reset 0 DC3 -/
  shortAt : Nat
  deriving DecidableEq, Repr

/-- A digital input group (R414 to R420, R427). -/
structure DiGrp where
  /-- VS_DI in 0.1 V; 16 bits; R437; reset 0 DC3 -/
  vs : Nat
  /-- DI_SUPPLY_LOW; 1 bit; R427; reset false -/
  low : Bool
  /-- consecutive samples below (or, in the state, above) the threshold; R427; reset 0 -/
  lowRun : Nat
  /-- REF_FAIL; 1 bit; R427; reset false -/
  refFail : Bool
  /-- consecutive samples with a difference of at most 2 %; R427; reset 0 -/
  refRun : Nat
  /-- task time in µs of the last sample; R417; reset 0 DC3 -/
  last : Nat
  /-- a contact-wetting pulse begun at this task time in µs; R420; reset none -/
  wetting : Option Nat
  /-- end in µs, ON_DV and OFF_DV of a sample in progress that the settings block or the grid of before governs; R415 R649; reset none -/
  inProgress : Option (Nat × Nat × Nat)
  deriving DecidableEq, Repr

/-- A digital output (R428 to R435). -/
structure DoCh where
  /-- applied state: switch closed; 1 bit; R428; reset false (R650) -/
  applied : Bool
  /-- thermal shutdown: 0 none, 1 latched, 2 timed retry; 2 bits; R430; reset 0 -/
  thermal : BitVec 2
  /-- the junction has cooled by the restart hysteresis; 1 bit; R430; reset false -/
  cooled : Bool
  /-- the retry interval has passed; 1 bit; R430; reset false -/
  waited : Bool
  /-- task time in µs of the last thermal shutdown; R430; reset 0 DC3 -/
  shutAt : Nat
  /-- CURRENT_LIMIT; 1 bit; R430; reset false -/
  limiting : Bool
  /-- readback bit; 1 bit; R433; reset false DC3 -/
  readback : Bool
  /-- task time in 1e-9 ns of the last switching edge; R434; reset 0 DC3 -/
  edge : Nat
  /-- DO_TEMP in °C, signed; 8 bits; R437; reset 0 DC3 -/
  temp : Byte
  /-- consecutive samples that differ (or, in the state, agree); R434; reset 0 -/
  rbRun : Nat
  /-- READBACK_MISMATCH; 1 bit; R434; reset false -/
  mismatch : Bool
  deriving DecidableEq, Repr

/-- A digital output group (R432, R435, R437). -/
structure DoGrp where
  /-- GROUP_OVERCURRENT; 1 bit; R435; reset false -/
  tripped : Bool
  /-- open after a trip until the retry; 1 bit; R432; reset false -/
  open_ : Bool
  /-- task time in µs of the last trip, and of the retry after it; R432 R435; reset 0 DC3 -/
  tripAt : Nat
  /-- see `tripAt`; R435; reset 0 DC3 -/
  retryAt : Nat
  /-- TRIPS; 16 bits saturating; R437; reset 0 -/
  trips : Nat
  /-- DO_SUPPLY_LOW; 1 bit; R435; reset false -/
  low : Bool
  /-- VF_DO in 0.1 V; 16 bits; R437; reset 0 DC3 -/
  vf : Half
  /-- GROUP_I in mA; 16 bits; R437; reset 0 DC3 -/
  current : Half
  deriving DecidableEq, Repr

/-- Field I/O of the analog/power die (R414 to R437). -/
structure FieldSt where
  /-- digital inputs 0 to 63; R2; reset as the fields -/
  di : Vector DiCh 64
  /-- input groups 0 to 7; R414; reset as the fields -/
  diGrp : Vector DiGrp 8
  /-- digital outputs 64 to 127; R2; reset as the fields -/
  dout : Vector DoCh 64
  /-- output groups 0 to 7; R432; reset as the fields -/
  doGrp : Vector DoGrp 8
  /-- input sampling runs; 1 bit; R419; reset false -/
  sampling : Bool
  /-- direct outputs are held de-energised by the analog/power die; 1 bit; R626 R650; reset true -/
  cut : Bool
  /-- every direct output holds its last applied value (activation pause); 1 bit; R666; reset false -/
  frozen : Bool
  /-- task time in µs of the end of the last conversion window; R439; reset 0 DC3 -/
  convLast : Nat
  /-- task time in µs of the end of a conversion that was in progress when the grid moved; R50 R649; reset none -/
  convEnd : Option Nat
  /-- origin of the provisional grid, until the grids move at T0; R649; reset none -/
  provisional : Option Int
  deriving DecidableEq, Repr

/-- An attempt or a transaction of a HART modem (R454 to R461). -/
structure HartOp where
  /-- ring of the HART_TRANSACT; R455 -/
  ring : Fin 8
  /-- request from its delimiter to its last data byte; R455 -/
  request : Bytes
  /-- PREAMBLES; 8 bits; R455 -/
  preambles : Nat
  /-- attempts left after the current one; R459 -/
  retries : Nat
  /-- attempts made; R459 -/
  made : Nat
  /-- the characters of the current attempt have been sent; R456 -/
  sent : Bool
  deriving DecidableEq, Repr

/-- A loop channel, AI or AO (R438 to R462). -/
structure LoopCh where
  /-- conversions, newest first, at most 1000, in nA; R440; reset none -/
  conv : List Int
  /-- reported field state, 0 when none: code of Tables 2 and 4; 8 bits; R442 R449; reset 0 -/
  states : List Byte
  /-- consecutive conversions for entering each state: code and count; R442; reset 0 -/
  enter : Tab Nat
  /-- consecutive conversions for leaving each state: code and count; R442; reset 0 -/
  leave : Tab Nat
  /-- consecutive conversions not delivered; R448; reset 0 -/
  missing : Nat
  /-- applied value in nA, none when de-energised; R443; reset none (R650) -/
  applied : Option Int
  /-- target in nA; R444; reset 0 (R650) -/
  target : Int
  /-- output converter code; 16 bits; R445; reset 0 (R650) -/
  code : Half
  /-- adaptive loop supply in 10 mV, of an AI the transmitter supply; 16 bits; R446 R453; reset 0 for an AI, 450 for an AO (4.5 V, DC3) -/
  supplyCv : Nat
  /-- the loop current in nA that an AO regaining control from its limit does not exceed; R450; reset none -/
  ramp : Option Int
  /-- the AO has de-energised itself for want of a value over its link; 1 bit; R448; reset false -/
  linkOff : Bool
  /-- targets of the last 2 ms that a later one has replaced, newest first: task time in µs and nA; R449; reset none -/
  past : List (Nat × Int)
  /-- TERMINAL_V in 10 mV; 16 bits; R453; reset 0 DC3 -/
  terminalCv : Nat
  /-- SHORTFALL of the latest conversion in nA; R453; reset 0 -/
  shortfall : Int
  /-- HART_OK; 16 bits saturating; R453; reset 0 -/
  hartOk : Nat
  /-- HART_FAILED; 8 bits saturating; R453; reset 0 -/
  hartFailed : Nat
  /-- HART_STRAY; 8 bits saturating; R453; reset 0 -/
  hartStray : Nat
  /-- the transaction in progress; R455; reset none -/
  hart : Option HartOp
  /-- characters of 11 bits, the first bit lowest, sent by the modem in the current attempt; R454 R456; reset empty -/
  hartTx : List (BitVec 11)
  deriving DecidableEq, Repr

/-- A slot of an Ihloz schedule (R469). -/
structure Slot where
  /-- START in 10 ns ticks; 20 bits; R469 -/
  start : Nat
  /-- LENGTH; 11 bits; R469 -/
  length : Nat
  /-- SYNC; 1 bit; R469 -/
  sync : Bool
  /-- DURATION in 10 ns ticks; 16 bits; R469 -/
  duration : Nat
  /-- SENDER; 5 bits; R469 -/
  sender : BitVec 5
  /-- KIND: FREIGHT; 1 bit; R469 -/
  freight : Bool
  deriving DecidableEq, Repr

/-- A stored schedule (R469, R471). -/
structure Sched where
  /-- CYCLE_US; 32 bits; R469 -/
  cycleUs : Nat
  /-- GUARD in 10 ns ticks; 16 bits; R469 -/
  guard_ : Nat
  /-- the slots; R469 -/
  slots : List Slot
  /-- SCHED_TAG; 16 bits; R471 -/
  tag : Half
  deriving DecidableEq, Repr

/-- What this node has received in the current slot (R467, R468). -/
structure SlotRx where
  /-- slot number; 8 bits; R466 -/
  slot : Byte
  /-- the delivered copy's payload; R468 -/
  payload : Option Bytes
  /-- payload of the other valid copy; R468 -/
  other : Option Bytes
  /-- arrival of the delivered copy in ticks of the IHLOZ clock; R468 -/
  tick : Int
  /-- the delivered copy came on channel B; 1 bit; R468 -/
  chanB : Bool
  /-- the delivered copy of channel B, while its freight, vote and agreed cycle wait for the copy of channel A; R468 -/
  held : Option IhlozFrame
  deriving DecidableEq, Repr

/-- The Ihloz node (R463 to R504). -/
structure IhlozSt where
  /-- STATE: 0 OFF, 1 LISTEN, 2 COLDSTART, 3 BACKOFF, 4 INTEGRATE, 5 ACTIVE, 6 PASSIVE; 3 bits; R488; reset 0 -/
  state : BitVec 3
  /-- schedules by schedule mode 0 to 7; R469; reset none -/
  scheds : Tab Sched
  /-- MODE: schedule mode in force; 3 bits; R504; reset 0 DC3 -/
  mode : BitVec 3
  /-- CYCLE number; 64 bits; R504; reset 0 DC3 -/
  cycle : Nat
  /-- start of the current cycle on the IHLOZ clock in ns, signed; R482 R484 R489; reset 0 DC3 -/
  cycleAt : Int
  /-- tick of the IHLOZ clock at which LISTEN was entered or the last marker ended; R488; reset 0 DC3 -/
  waitFrom : Nat
  /-- tick of the IHLOZ clock at which start-up phase 5 entered LISTEN; R490; reset 0 DC3 -/
  startFrom : Nat
  /-- a valid copy of another node has arrived in the cycle; 1 bit; R494; reset false -/
  heard : Bool
  /-- a copy of another schedule mode has arrived in the cycle; 1 bit; R494; reset false -/
  stray : Bool
  /-- consecutive cycles with copies of another schedule mode and no valid one; R494; reset 0 -/
  strays : Nat
  /-- copies of the current slot; R468; reset none -/
  rx : Option SlotRx
  /-- MEMBERS; 32 bits; R491; reset 0 -/
  members : BitVec 32
  /-- consecutive slots of each node that ended without a valid copy; R491; reset 0 -/
  silent : Tab Nat
  /-- deviations in 10 ns ticks measured in the cycle; R482; reset none -/
  devs : List Int
  /-- LAST_M in ns; R504; reset 0 DC3 -/
  lastM : Int
  /-- RATE in ppb; R504; reset 0 DC3 -/
  ratePpb : Int
  /-- correction of the current idle time in ns; R484; reset 0 -/
  idleNs : Int
  /-- |M| exceeded GUARD in the last cycle; 1 bit; R484; reset false -/
  offSync : Bool
  /-- ALIGNED; 1 bit; R486; reset false -/
  aligned : Bool
  /-- offset of R486 in ns; R486; reset 0 DC3 -/
  offsetNs : Int
  /-- TX_REJECTED_A; 16 bits saturating; R504; reset 0 -/
  rejA : Nat
  /-- TX_REJECTED_B; 16 bits saturating; R504; reset 0 -/
  rejB : Nat
  /-- consecutive cycles in which no own frame was seen back; R488; reset 0 -/
  unseen : Nat
  /-- an own frame has been seen back in the current cycle; 1 bit; R488; reset false -/
  seen : Bool
  /-- an own frame has been sent in the current cycle; 1 bit; R488; reset false -/
  sentCycle : Bool
  /-- cycles since INTEGRATE or COLDSTART was entered; R488; reset 0 -/
  since : Nat
  /-- a valid frame was received in the cycle after INTEGRATE; 1 bit; R488; reset false -/
  confirmed : Bool
  /-- consecutive collisions; 8 bits saturating; R503; reset 0 -/
  collisions : Nat
  /-- EMPTY per node; 16 bits saturating; R473; reset 0 -/
  empty : Tab Nat
  /-- INVALID per node; 8 bits saturating; R504; reset 0 -/
  invalid : Tab Nat
  /-- DIVERGE per node; 8 bits saturating; R468; reset 0 -/
  diverge : Tab Nat
  /-- senders whose copies show a run of mismatching tags; 32 bits; R503; reset 0 -/
  mismatch : BitVec 32
  /-- payloads frozen for own slots, by slot, each with the number of the cycle that sends it; R497; reset none -/
  frozen : Tab (Nat × Bytes)
  /-- the last frame sent on channel A; R466 R468 R472; reset none -/
  lastSent : Option IhlozFrame
  /-- the last frame sent on channel B; R466 R468 R472; reset none -/
  lastSentB : Option IhlozFrame
  /-- freight frames queued for sending: destination (32 broadcast) and bytes; R501; reset empty -/
  freightQ : List (Nat × Bytes)
  /-- SEQ of the next freight frame; 16 bits; R501; reset 0 DC3 -/
  freightSeq : Half
  /-- HIGH_q of each pair; 32 bits each; R576; reset 0 DC3 -/
  high : Tab Word
  /-- claim carried by each node's last valid copy in the cycle; R576; reset none -/
  claims : Tab Word
  /-- payloads delivered in the cycle, by slot; R576; reset none -/
  payloads : Tab Bytes
  deriving DecidableEq, Repr

/-- A star port (R477 to R480). -/
structure StarPort where
  /-- CUT; 1 bit; R479; reset false -/
  cut : Bool
  /-- cut for continuous transmission, for 10 ms; 1 bit; R480; reset false -/
  cutCont : Bool
  /-- violations in the current cycle; R479; reset 0 -/
  vioNow : Nat
  /-- violations in the last cycle; R479; reset 0 -/
  vioLast : Nat
  /-- VIOLATIONS; 16 bits saturating; R504; reset 0 -/
  violations : Nat
  /-- consecutive cycles without a violation while cut; R479; reset 0 -/
  clean : Nat
  deriving DecidableEq, Repr

/-- The star unit (R474 to R481). -/
structure StarSt where
  /-- SYNC; 1 bit; R476; reset false -/
  sync : Bool
  /-- ports 0 to 7; R504; reset as the fields -/
  ports : Vector StarPort 8
  /-- port whose transmission is being forwarded, 8 the own node's port inside the star, with the IHLOZ clock's tick of its delimiter;
  R474 R478; reset none -/
  forwarding : Option (Fin 9 × Int)
  /-- ports to which the star sends what it forwards, or a collision marker: branch ports 0 to 7, bit 8 the own node's port; 9 bits;
  R474 R478 R480; reset 0 -/
  sentTo : BitVec 9
  /-- COLLISIONS; 32 bits saturating; R504; reset 0 -/
  collisions : Nat
  /-- the star forwards (not in start-up phases 1 to 4, not in the pause); 1 bit; R481; reset false -/
  forwards : Bool
  deriving DecidableEq, Repr

/-- A transmit buffer of a CAN controller (R515 to R520). -/
structure CanBuf where
  /-- the frame loaded; R515; reset none -/
  frame : Option CanFrame
  /-- it has been loaded at least once; R520; reset false -/
  everLoaded : Bool
  /-- ONE_SHOT; 1 bit; R518 -/
  oneShot : Bool
  /-- attempts, saturating; 8 bits; R529 -/
  attempts : Nat
  /-- T_SOF of the last attempt; 32 bits; R529; reset 0 DC3 -/
  tSof : Word
  /-- consecutive suspected collisions; R527 -/
  suspects : Nat
  /-- CAN_COLLISION_SUSPECTED raised for this load; R527 -/
  reported : Bool
  /-- a cancellation is deferred; R520 -/
  cancel : Bool
  /-- the channel frame of buffer 2 (key of its due entry); R521 -/
  chanKey : Option Nat
  deriving DecidableEq, Repr

/-- A CAN controller (R505 to R530). -/
structure CanSt where
  /-- STATE: 0 ERROR_ACTIVE, 1 ERROR_PASSIVE, 2 BUS_OFF; 2 bits; R526; reset 0 DC3 -/
  state : BitVec 2
  /-- integrated into the bus; 1 bit; R507; reset false -/
  integrated : Bool
  /-- LAST_ERROR; 3 bits; R530; reset 0 -/
  lastError : BitVec 3
  /-- TEC; 16 bits; R526; reset 0 -/
  tec : Nat
  /-- REC; 16 bits; R526; reset 0 -/
  recCnt : Nat
  /-- BUS_OFFS; 16 bits saturating; R530; reset 0 -/
  busOffs : Nat
  /-- RX_FRAMES; 32 bits saturating; R530; reset 0 -/
  rxFrames : Nat
  /-- MIRROR_SKIPPED; 16 bits saturating; R530; reset 0 -/
  skipped : Nat
  /-- COLLISIONS; 16 bits saturating; R530; reset 0 -/
  collisions : Nat
  /-- RECOVER_MS has passed since bus-off; 1 bit; R526; reset false -/
  recovering : Bool
  /-- transmit buffers 0 to 2; R515; reset empty -/
  bufs : Vector CanBuf 3
  /-- the buffer that the controller has chosen for its next start-of-frame, or whose frame is on the bus; R517 R520; reset none -/
  onBus : Option (Fin 3)
  /-- the start-of-frame of the chosen buffer is known to have been sent; 1 bit; R517 R520; reset false -/
  started : Bool
  /-- the frame of another node, to which arbitration was lost, is on the bus; 1 bit; R518 R520; reset false -/
  lost : Bool
  /-- the last frame that the controller put on its bus, its ESI set by the error state; R505; reset none -/
  sent : Option CanFrame
  /-- frame sequence SEQ of the next received frame; 16 bits; R510; reset 0 DC3 -/
  seq : Half
  /-- receive ring: records of 80 bytes by SEQ mod 1024; R511; reset empty -/
  ring : Tab Bytes
  /-- due frames: key of the lowest channel; R522; reset none -/
  due : List Nat
  deriving DecidableEq, Repr

/-- A frame in a transmit queue of an Ethernet port (R535 to R541). -/
structure EthFrame where
  /-- frame bytes from the destination address, without FCS; R538 -/
  bytes : Bytes
  /-- launch time in total ns, none at once; R535 -/
  launch : Option Nat
  /-- INSERT and UDP_FIX; R538 -/
  insert_ : BitVec 2
  udpFix : Bool
  /-- PTP_OFFSET, FIX_OFFSET, INGRESS; R538 -/
  ptpOffset : Nat
  fixOffset : Nat
  ingress : DWord
  /-- ring of the ETH_SEND, none for the module's own frames; R538 -/
  ring : Option (Fin 8)
  /-- NET tick of the start of the ETH_SEND; R538 -/
  since : Nat
  /-- lowest channel of a channel frame; R544 -/
  chanKey : Option Nat
  deriving DecidableEq, Repr

/-- An Ethernet port (R531 to R547). -/
structure EthSt where
  /-- link up; 1 bit; R547; reset false -/
  link : Bool
  /-- speed: 1 10, 2 100, 3 1000 Mbit/s; 2 bits; R558; reset 0 DC3 -/
  speed : BitVec 2
  /-- transmit queues 0 to 7, head first; R535; reset empty -/
  queues : Vector (List EthFrame) 8
  /-- the queue whose head holds the wire; R535; reset none -/
  wire : Option (Fin 8)
  /-- total ns at which the port last looked for a head to start, which is when the frame on the wire was started; R535 R536; reset 0 -/
  wireFrom : Nat
  /-- last frame sent, with FCS; R538; reset none -/
  lastSent : Option Bytes
  /-- IPv4 identification of the next frame; 16 bits; R545; reset 0 DC3 -/
  ident : Half
  /-- frame sequence SEQ; 16 bits; R542; reset 0 DC3 -/
  seq : Half
  /-- RX_FRAMES; 32 bits saturating; R559; reset 0 -/
  rxFrames : Nat
  /-- RX_ERRORS; 16 bits saturating; R559; reset 0 -/
  rxErrors : Nat
  /-- MIRROR_SKIPPED; 16 bits saturating; R559; reset 0 -/
  skipped : Nat
  /-- TX_FRAMES; 32 bits saturating; R559; reset 0 -/
  txFrames : Nat
  /-- LAUNCH_LATE; 16 bits saturating; R559; reset 0 -/
  late : Nat
  /-- portState; 4 bits; R559; reset 0 -/
  ptpState : BitVec 4
  deriving DecidableEq, Repr

/-- PTP (R553, R554, R559). -/
structure PtpSt where
  /-- GRANDMASTER; 1 bit; R559; reset false -/
  grandmaster : Bool
  /-- UTC_OFFSET; 16 bits; R559; reset 0 DC3 -/
  utcOffset : Half
  /-- GM_IDENTITY; 64 bits; R559; reset 0 DC3 -/
  gmIdentity : DWord
  /-- OFFSET_NS; 64 bits signed; R559; reset 0 DC3 -/
  offsetNs : Int
  /-- PATH_DELAY_NS; 32 bits; R559; reset 0 DC3 -/
  pathDelay : Word
  /-- events that the engine has handled since it runs, oldest first; R554 (log entry 9); reset none -/
  seen : List Config.PtpEvent
  deriving DecidableEq, Repr

/-- The Telith link and the pair (R560 to R590). -/
structure PairSt where
  /-- training step in progress, 0 none or trained; 3 bits; R562; reset 0 -/
  step : Nat
  /-- link trained; 1 bit; R562; reset false -/
  trained : Bool
  /-- RATE: 0 none, 1 to 3; 2 bits; R589; reset 0 -/
  rate : BitVec 2
  /-- LANES; 2 bits; R589; reset 0 -/
  lanes : BitVec 2
  /-- ROLE: 0 solo, 1 active, 2 standby, 3 undecided; 2 bits; R565; reset 3 -/
  role : BitVec 2
  /-- SUPERSEDED; 1 bit; R574; reset false -/
  superseded : Bool
  /-- unit-ID clash since the last training; 1 bit; R566; reset false -/
  clash : Bool
  /-- CURRENT; 1 bit; R582; reset false -/
  current : Bool
  /-- the partner's identity record; R562; reset none -/
  partner : Option Identity
  /-- the partner's last heartbeat; R580; reset none -/
  beat : Option Heartbeat
  /-- own minus partner's base tick number and task time in µs when a record of the partner last came; R567; reset none -/
  skew : Option (Int × Int)
  /-- highest claim seen, other than the own one; 32 bits; R569; reset 0 -/
  highest : Word
  /-- a claim write is in progress: the claim and its occasion; R570; reset none -/
  claiming : Option (Word × ClaimFor)
  /-- task time in µs of the event of R581, with a handover request or not; R581; reset none -/
  takeover : Option (Nat × Bool)
  /-- the identity record that this unit last sent (Table 3); R562; reset none -/
  sentIdentity : Option Identity
  /-- a takeover was refused in this stay in TRACK, or the claim write of start-up failed; 1 bit; R571 R582; reset false -/
  takeoverFail : Bool
  /-- HANDOVER requested by this unit: 1 command, 2 escalation of a task; R583 R313; reset none -/
  handover : Option (Option (BitVec 7))
  /-- LAST_BALE; 64 bits; R589; reset 0 DC3 -/
  lastBale : Nat
  /-- bale queue, oldest first; R578; reset empty -/
  bales : List BaleSt
  /-- the bale sent last; R578; reset none -/
  lastSent : Option Bale
  /-- BALES_DISCARDED; 32 bits saturating; R589; reset 0 -/
  discarded : Nat
  /-- LINKS_LOST; 32 bits saturating; R589; reset 0 -/
  linksLost : Nat
  /-- bulk copy: lines applied and task time in µs of its start; R586; reset none -/
  bulk : Option (Nat × Nat)
  /-- tasks whose output image the bulk copy has delivered; 128 bits; R587; reset 0 -/
  delivered : BitVec 128
  /-- bale output values to be applied at a base tick (tick-aligned owners); R573; reset none -/
  aligned : List OutDue
  /-- PAIR_PROJECT_DIFFERS bits of the last check; R567; reset 0 -/
  differs : BitVec 4
  /-- heartbeat sent last on each lane; R580; reset none -/
  sentBeats : Vector (Option Heartbeat) 2
  deriving DecidableEq, Repr

/-- A key or check-in that has arrived since the last watchdog tick edge (R619). -/
inductive WdtIn where
  | key (task : BitVec 7) (value : Half)
  | checkin (task : BitVec 7) (copyB : Bool)
  deriving DecidableEq, Repr

/-- The module watchdog and the clock monitors (R615 to R631). -/
structure WdtSt where
  /-- STATE: 0 disarmed, 1 armed, 2 expired; 2 bits; R631; reset 0 -/
  state : BitVec 2
  /-- the settings block taken at the arming; R617; reset defaults -/
  cfg : Bytes
  /-- the first window has begun; 1 bit; R618; reset false -/
  begun : Bool
  /-- the current window is the first; 1 bit; R618; reset false -/
  first : Bool
  /-- disarms at the next tick edge; 1 bit; R618; reset false -/
  disarm : Bool
  /-- COUNT t; 16 bits; R619; reset 0 -/
  count : Nat
  /-- PAIR_ARMED; 1 bit; R620; reset false -/
  armed : Bool
  /-- arrivals since the last edge, oldest first; R706; reset empty -/
  inbox : List WdtIn
  /-- tasks whose copy A, or only copy, has checked in this window; 128 bits; R625 R631; reset 0 -/
  checked : BitVec 128
  /-- tasks whose copy B, or only copy, has checked in this window; 128 bits; R625 R631; reset 0 -/
  checkedB : BitVec 128
  /-- tasks in the roll-call of the window; 128 bits; R625; reset 0 -/
  roll : BitVec 128
  /-- task of the last key; R630; reset none -/
  lastKey : Option (BitVec 7)
  /-- REFUSED; 16 bits saturating; R631; reset 0 -/
  refused : Nat
  /-- the expiry latched on the analog/power die: DATA of WDT_EXPIRED; R627; reset none -/
  latch : Option DWord
  /-- the count increment of WDT_EXPIRIES is latched and not yet recorded; R627; reset false -/
  latchCount : Bool
  /-- what is latched stands in the recorder queue and the counters held in SRAM; R627; reset false -/
  latchHeld : Bool
  /-- self-test value: WATCH cycles per 32 PILOT cycles; R615 R629; reset 977 DC3 -/
  watch32 : Nat
  /-- the last period was outside 10 %; 1 bit; R629; reset false -/
  badPeriod : Bool
  /-- last WATCH count; 16 bits; R630; reset 0 DC3 -/
  watchCount : Nat
  /-- PILOT has failed; 1 bit; R629; reset false -/
  pilotBad : Bool
  /-- WATCH has failed; 1 bit; R629; reset false -/
  watchBad : Bool
  deriving DecidableEq, Repr

/-- A firmware slot (R657, R660, R671). -/
structure FwSlot where
  /-- STATE: 0 EMPTY, 1 RECEIVING, 2 VERIFIED, 3 ACTIVE; 2 bits; R671; reset slot 0 ACTIVE, slot 1 EMPTY DC3 -/
  state : BitVec 2
  /-- image bytes, 16 MiB: bytes present; R657; reset nothing listed -/
  image : Mem
  /-- LENGTH; 32 bits; R658; reset 0 DC3 -/
  length : Nat
  deriving DecidableEq, Repr

/-- A running FW_RECEIVE or FW_FORWARD, by the ring of its command (R661 to R664). -/
structure Transfer where
  /-- this module sends (FW_FORWARD) or receives (FW_RECEIVE); R663 -/
  sending : Bool
  /-- the image comes from the host buffer; R661 -/
  fromHost : Bool
  /-- path: Ethernet or freight; R661 -/
  ethernet : Bool
  /-- port or node; R661 -/
  origin : BitVec 5
  /-- TRANSFER_ID; 16 bits; R662 -/
  transferId : Half
  /-- step: 0 waiting for OFFER or for its answer, 1 data, 2 awaiting VERIFIED, 3 verifying; 2 bits; R663 -/
  step : BitVec 2
  /-- LENGTH of the image; R663 -/
  length : Nat
  /-- ranges still to be sent, as offset and bytes; R663 -/
  todo : List (Nat × Nat)
  /-- the last message sent; R662 -/
  sent : Bytes
  /-- settings block in force when the command started; R664 -/
  cfg : Bytes
  /-- the slot whose image a forward sends; R662 -/
  slot : Bool
  deriving DecidableEq, Repr

/-- A transfer message that a port or a node has brought and the firmware has not taken yet (R502, R662). -/
structure Parcel where
  /-- it came in a frame of EtherType 0x88B5, else as freight of stream 1; R662 -/
  ethernet : Bool
  /-- port or node; R662 -/
  origin : BitVec 5
  /-- its bytes; R662 -/
  bytes : Bytes
  deriving DecidableEq, Repr

/-- A reception that the activation pause holds (R666). -/
inductive HeldRx where
  /-- a CAN frame as its controller sampled it, with its T_SOF -/
  | can (c : Fin 4) (f : CanFrame) (sof : Word)
  /-- an Ethernet frame, whether its FCS is good, and its delimiter's stamp -/
  | eth (p : Fin 2) (frame : Bytes) (fcsGood : Bool) (sfd : Nat)
  deriving DecidableEq, Repr

/-- Firmware (R657 to R671). -/
structure FwSt where
  /-- slot 0; R657; reset ACTIVE DC3 -/
  slot0 : FwSlot
  /-- slot 1; R657; reset EMPTY DC3 -/
  slot1 : FwSlot
  /-- FW_VERSION[24]: active slot; 1 bit; R657; reset false (slot 0, DC3) -/
  active : Bool
  /-- running transfers by ring; R661; reset none -/
  xfers : Tab Transfer
  /-- TRANSFER_ID of the next forward, chosen by the sender; 16 bits; R662; reset 1 DC3 -/
  nextId : Half
  /-- transfer messages in arrival order; R502 R662; reset empty -/
  inbox : List Parcel
  /-- receptions that the activation pause holds, oldest first; R666; reset empty -/
  heldRx : List HeldRx
  deriving DecidableEq, Repr

/-- The state of the BZ64. -/
structure State where
  factory : Factory
  time : TimeSt
  mode : ModeSt
  power : PowerSt
  host : HostIf
  /-- host memory as the posted writes of the BZ64 left it: bytes written; R357 R381; reset nothing listed -/
  hostMem : Mem
  recorder : RecSt
  ret : RetSt
  proj : ProjSt
  prof : ProfSt
  /-- tasks 0 to 127; R51; reset as the fields of TaskSt -/
  tasks : Vector TaskSt 128
  /-- stalls, 5 * barn + stall; R24; reset as the fields of Stall -/
  stalls : Vector Stall 20
  /-- barns 0 to 3; R23; reset as the fields of Barn -/
  barns : Vector Barn 4
  yard : YardSt
  commit : CommitSt
  chan : ChanSt
  field : FieldSt
  /-- loop channels 0 to 31 (AI 128 to 143, AO 144 to 159); R438; reset as the fields of LoopCh -/
  loops : Vector LoopCh 32
  ihloz : IhlozSt
  star : StarSt
  /-- CAN controllers 0 to 3; R505; reset as the fields of CanSt -/
  can : Vector CanSt 4
  /-- Ethernet ports 0 and 1; R531; reset as the fields of EthSt -/
  eth : Vector EthSt 2
  ptp : PtpSt
  pair : PairSt
  wdt : WdtSt
  fw : FwSt
  /-- THE MODEL'S OWN: how many free values have been taken (log entry 5); reset 0 DESIGN CHOICE -/
  free : Nat
  /-- THE MODEL'S OWN: commands waiting, first in, first out; reset empty -/
  pending : List Instr
  deriving DecidableEq, Repr

/-- Reasons to stop with a fault: the manual gives none (every fault of the manual is a state or an event of
the module), so the type has the one constructor that no command answers. -/
inductive Fault where
  /-- raised by no command; the type must not be empty of names. Safe. -/
  | none_
  deriving DecidableEq, Repr

/-- Reasons to refuse a command. -/
inductive Refusal where
  /-- a command of the table without a meaning; raised by Dispatch only. Safe. -/
  | notModelled (mnemonic : String)
  deriving DecidableEq, Repr

/-- VECTOR 0, MASK 1, COALESCE_US 0 (0x0000_0100). -/
def Irq.zero : Irq := ⟨0, true, 0⟩

/-- A ring after a reset of the host interface (R345, R347). -/
def Ring.zero : Ring :=
  { cmdBase := 0, cplBase := 0, size := 0, en := false, enNow := false, irq := Irq.zero, irqNow := Irq.zero
    cmdCons := 0, cplProd := 0, cmdProd := 0, cplCons := 0, busy := none, waiting := false, fresh := false
    msgDue := false, lastMsg := none }

/-- BAR0 and the host interface at their reset values (R347). -/
def HostIf.zero : HostIf :=
  { linkUp := false, gen := 0, width := 0, perst := false, training := false, enable := false, polling := false, timeoutMs := 0
    timeoutNow := 0, pollUs := 0, pollNow := 0, nextPoll := none, polled := false, pollTick := 0, dbAddr := 0
    echoAddr := 0, evtBase := 0, evtSize := 0, evtEn := false, evtIrq := Irq.zero, evtIrqNow := Irq.zero
    exportBase := 0, exportSize := 0, chanBase := 0, chanCount := 0, rings := Vector.replicate 8 Ring.zero
    evtProd := 0, evtCons := 0, evtLost := 0, evtFresh := false, evtMsgDue := false, evtLastMsg := none
    echoSeq := 0, echoDue := false, hostSeq := none, silent := false, failing := 0
    msix := (List.range 32).map (fun i => (16 * i + 12, 1#8)), msixEnable := false
    msixMask := false, msixPending := 0 }

/-- Every counter of a task at zero. -/
def TaskCtr.zero : TaskCtr :=
  { releases := 0, commits := 0, aborts := 0, deadlines := 0, skipped := 0, merged := 0, missedHeld := 0
    execMax := 0, torn := 0, overflows := 0, wbPeak := 0, commitLatMax := 0, exportsSkipped := 0, steps := 0
    slips := 0, slipMax := 0, stale := 0, solverErrs := 0, solveMax := 0, pairMismatches := 0
    pairDeadlines := 0, pairRun := 0, pairEscalations := 0, phaseSame := 0 }

/-- A task that nothing has run. -/
def TaskSt.zero : TaskSt :=
  { enabled := false, held := false, heldEntry := false, latch := false, latchMerged := false
    lastRelease := none, inst := none, epoch := 0, placeA := none, placeB := none, fence := none
    closedAt := 0, markers := 0, inFlight := 0, sinceStep := 0, caller := false, firstRun := false, firstEdit := false
    firstProfile := false, committed := false, pauseRelease := none, ctr := TaskCtr.zero }

/-- The context at an instance's start, but for the entry address (R210). -/
def Ctx.zero : Ctx :=
  { gp := Vector.replicate 32 0, pc := 0, imm := 0, aluOpb := 0, aluRes := 0, aluFlags := 0, macOpb := 0
    acc := 0, macCfg := 0, macFlags := 0, chkPoly := 0, chkCfg := 0, chkCrc := 0, chkPar := 0, chkRev := 0
    agBase := Vector.replicate 4 0, agIdx := Vector.replicate 4 0, agMod := Vector.replicate 4 0
    agCfg := Vector.replicate 4 0, lsAddr := 0, ldRes := 0, rptStart := 0, rptEnd := 0, rptCount := 0
    rptState := 0, imgSel := 0, imgAddr := 0, imgRes := 0, brTarget := 0, brLink := 0, evtd := 0 }

/-- A stall in state `st` with nothing resident. -/
def Stall.zero (st : BitVec 3) : Stall :=
  { state := st, margin := 31, aged := false, byTest := false, ungated := false
    slots := Vector.replicate 4 none, running := none, ctx := Ctx.zero, mem := [], stale := []
    since := 0, lastIdle := 0 }

/-- A barn that is OFF. -/
def Barn.zero : Barn :=
  { present := true, power := 0, wake := 0, solverOut := false, solverMargin := 31, solverOn := false
    queue := [], run := none, returns := [], temp := 0 }

/-- A digital input before its first sample (R421). -/
def DiCh.zero : DiCh :=
  { raw := false, level := none, run := 0, changes := 0, unsettled := false, flips := [], chatter := false
    stuck := false, phase := none, count := 0, overrate := false, changedAt := 0, shortAt := 0 }

/-- An input group before its first sample. -/
def DiGrp.zero : DiGrp :=
  { vs := 0, low := false, lowRun := 0, refFail := false, refRun := 0, last := 0, wetting := none
    inProgress := none }

/-- An open output without diagnostics. -/
def DoCh.zero : DoCh :=
  { applied := false, thermal := 0, cooled := false, waited := false, shutAt := 0, limiting := false, readback := false
    edge := 0, temp := 0, rbRun := 0, mismatch := false }

/-- An output group without diagnostics. -/
def DoGrp.zero : DoGrp := { tripped := false, open_ := false, tripAt := 0, retryAt := 0, trips := 0, low := false, vf := 0, current := 0 }

/-- A loop channel that is de-energised and has converted nothing. -/
def LoopCh.zero : LoopCh :=
  { conv := [], states := [], enter := [], leave := [], missing := 0, applied := none, target := 0, code := 0
    supplyCv := 450, ramp := none, linkOff := false, past := [], terminalCv := 0, shortfall := 0, hartOk := 0, hartFailed := 0
    hartStray := 0, hart := none, hartTx := [] }

/-- The Ihloz node in OFF. -/
def IhlozSt.zero : IhlozSt :=
  { state := 0, scheds := [], mode := 0, cycle := 0, cycleAt := 0, waitFrom := 0, startFrom := 0, heard := false, stray := false, strays := 0, rx := none, members := 0, silent := [], devs := []
    lastM := 0, ratePpb := 0, idleNs := 0, offSync := false, aligned := false, offsetNs := 0, rejA := 0
    rejB := 0, unseen := 0, seen := false, sentCycle := false, since := 0, confirmed := false
    collisions := 0, empty := [], invalid := [], diverge := [], mismatch := 0, frozen := []
    lastSent := none, lastSentB := none, freightQ := [], freightSeq := 0, high := [], claims := [], payloads := [] }

/-- A star port without violations. -/
def StarPort.zero : StarPort :=
  { cut := false, cutCont := false, vioNow := 0, vioLast := 0, violations := 0, clean := 0 }

/-- An empty transmit buffer. -/
def CanBuf.zero : CanBuf :=
  { frame := none, everLoaded := false, oneShot := false, attempts := 0, tSof := 0, suspects := 0, reported := false
    cancel := false, chanKey := none }

/-- A CAN controller after a reset (R507). -/
def CanSt.zero : CanSt :=
  { state := 0, integrated := false, lastError := 0, tec := 0, recCnt := 0, busOffs := 0, rxFrames := 0
    skipped := 0, collisions := 0, recovering := false, bufs := Vector.replicate 3 CanBuf.zero
    onBus := none, started := false, lost := false, sent := none, seq := 0, ring := [], due := [] }

/-- An Ethernet port without a link. -/
def EthSt.zero : EthSt :=
  { link := false, speed := 0, queues := Vector.replicate 8 [], wire := none, wireFrom := 0, lastSent := none, ident := 0
    seq := 0, rxFrames := 0, rxErrors := 0, skipped := 0, txFrames := 0, late := 0, ptpState := 0 }

/-- The pair before any training. -/
def PairSt.zero : PairSt :=
  { step := 0, trained := false, rate := 0, lanes := 0, role := 3, superseded := false, clash := false
    current := false, partner := none, beat := none, skew := none, highest := 0, claiming := none, takeover := none
    sentIdentity := none, takeoverFail := false, handover := none, lastBale := 0, bales := [], lastSent := none, discarded := 0
    linksLost := 0, bulk := none, delivered := 0, aligned := [], differs := 0, sentBeats := Vector.replicate 2 none }

/-- A disarmed watchdog with the default block. -/
def WdtSt.zero : WdtSt :=
  { state := 0, cfg := blockDefault 0x0601, begun := false, first := false, disarm := false, count := 0
    armed := false, inbox := [], checked := 0, checkedB := 0, roll := 0, lastKey := none, refused := 0
    latch := none, latchCount := false, latchHeld := false, watch32 := 977, badPeriod := false, watchCount := 0
    pilotBad := false, watchBad := false }

/-- No project. -/
def Layout.empty : Layout := { tasks := [], globalSize := 0, retained := [], mirrored := [] }

/-- The stall numbered i: stall 4 of each barn is the spare (R25). -/
def Stall.initial (i : Fin 20) : Stall := Stall.zero (if i.val % 5 = 4 then 1 else 0)

/-- The module at power good, at the instant at which start-up phase 1 begins (R646; log entry 3): MODE
START_UP, role undecided, a BZ64-FX (R3) as delivered, nothing loaded, the queue empty. -/
def State.reset : State :=
  { factory :=
      { variant := 1, hwRev := 0, serial := 0, mac0 := 0, mac1 := 0, year := 0, month := 1, day := 1
        phyTx := [1800, 420, 184], phyRx := [3200, 640, 312], keyHash := zeros 48 }
    time :=
      { running := false, task := 0, slewPpb := 0, source := 0, t0 := 0, t0Fixed := false, ticked := false
        tickNo := 0, tickUs := 250, newTick := none, lcRunning := false, lc := 0, freq := 0
        timeValid := false, steps := 0, net := 0, ihloz := 0 }
    mode :=
      { mode := 7, phase := 1, restart := 0, resumeOk := false, safeCause := 0, breaks := [], pause := false
        pauseAt := none, pauseFrom := 0, saveFrom := 0, restarted := none }
    power :=
      { prsntEarly := true, prsntLate := true, mainSwitch := true, slotId := 0, store := 1, storeMv := 0
        storeC := 220, interrupted := false, rideMs := 10, interruptFrom := 0, lowestMv := 0, endedUs := none
        saving := false, saveDue := none, stopped := false, coreFault := false, coreLatch := none
        tripLow := false, tripPulse := false, interruptions := 0
        powerDowns := 0, longestUs := 0, startupMs := 0 }
    host := HostIf.zero
    hostMem := []
    recorder :=
      { total := 0, last := none, prev := none, dirty := [], queue := [], lost := 0, lostTotal := 0
        seqs := [] }
    ret :=
      { mram := [], sealLock := false
        ctr := { claim := 0, highestCommit := 0, powerCycles := 0, wdtExpiries := 0, savesAbandoned := 0 }
        ctrCopy := (0, 0), idxCopy := (0, 0), retCopy := (0, 0), aValid := false, bValid := false
        blocks := [], ops := [], setCopy := [], saveWaits := [], lastCause := 0, lastN := 0, saves := 0, abandoned := 0 }
    proj :=
      { loaded := false, loadId := 0, bank0 := ⟨[], []⟩, bank1 := ⟨[], []⟩, active := false
        cur := Layout.empty, other := Layout.empty, init := [], globalInit := 0xFFFFFFFF, editInit := [], otherInit := []
        edit := 0, pkg := none, prepCrc := 0, pend := none, pendAt := 0, boundary := none }
    prof := { table := [], active := 0xFF, vote := none, localSwitch := none, ended := none, before := none }
    tasks := Vector.replicate 128 TaskSt.zero
    stalls := Vector.ofFn Stall.initial
    barns := Vector.replicate 4 Barn.zero
    yard :=
      { published := none, late := false, ledger := [], offDue := [], homeLoc := [], moves := [], ringLoc := [], bad := []
        stepsTotal := 0, wakesTotal := 0, slipMaxAll := 0, rules := blockDefault 0x0102, rulesDue := none, rulesTick := 0, traffic := [], phased := [] }
    commit :=
      { last := 0, next := 1, stopped := false, newest := [], older := [], vNew := [], vOld := [], writer := [], edits := [], presented := []
        direct := [], aligned := [], exports := [] }
    chan :=
      { store := [], pinned := [], ready := [], loading := [], unpin := false, state := [], layout := [], rx := []
        locked := [], stale := [], missed := [], short := [], tx := [], txVariant := [], txEntry := [], hostLoads := 0, storeLoads := 0
        fetchFails := 0, warden := [] }
    field :=
      { di := Vector.replicate 64 DiCh.zero, diGrp := Vector.replicate 8 DiGrp.zero
        dout := Vector.replicate 64 DoCh.zero, doGrp := Vector.replicate 8 DoGrp.zero, sampling := false
        cut := true, frozen := false, convLast := 0, convEnd := none, provisional := none }
    loops := Vector.ofFn (fun i => { LoopCh.zero with supplyCv := if i.val < 16 then 0 else 450 })
    ihloz := IhlozSt.zero
    star :=
      { sync := false, ports := Vector.replicate 8 StarPort.zero, forwarding := none, sentTo := 0, collisions := 0
        forwards := false }
    can := Vector.replicate 4 CanSt.zero
    eth := Vector.replicate 2 EthSt.zero
    ptp := { grandmaster := false, utcOffset := 0, gmIdentity := 0, offsetNs := 0, pathDelay := 0, seen := [] }
    pair := PairSt.zero
    wdt := WdtSt.zero
    fw :=
      { slot0 := { state := 3, image := [], length := 0 }, slot1 := { state := 0, image := [], length := 0 }
        active := false, xfers := [], nextId := 1, inbox := [], heldRx := [] }
    free := 0
    pending := [] }

end Sys2Proof.Machine
end

