-- ==== Sys2Proof/Machine/Mem.lean ====
section
/-! DEFINITION. Sparse memories and tables: the one place where a byte of any memory is read or written. -/

namespace Sys2Proof.Machine

/-- The byte listed at an address, none when nothing is listed there. -/
def Mem.find : Mem → Nat → Option Byte
  | [], _ => none
  | (k, v) :: m, a => if k = a then some v else Mem.find m a

/-- The byte at an address of a memory whose unlisted bytes read zero. -/
def Mem.get (m : Mem) (a : Nat) : Byte := (Mem.find m a).getD 0

/-- List a byte at an address, keeping addresses rising. -/
def Mem.put : Mem → Nat → Byte → Mem
  | [], a, b => [(a, b)]
  | (k, v) :: m, a, b =>
    if a < k then (a, b) :: (k, v) :: m
    else if a = k then (a, b) :: m
    else (k, v) :: Mem.put m a b

/-- Unlist an address. -/
def Mem.del : Mem → Nat → Mem
  | [], _ => []
  | (k, v) :: m, a => if a < k then (k, v) :: m else if a = k then m else (k, v) :: Mem.del m a

/-- Write a byte of a memory whose unlisted bytes read zero: a zero is unlisted. -/
def Mem.set (m : Mem) (a : Nat) (b : Byte) : Mem := if b = 0 then Mem.del m a else Mem.put m a b

/-- Write bytes from an address on; unlisted bytes read zero. -/
def Mem.setAll : Mem → Nat → Bytes → Mem
  | m, _, [] => m
  | m, a, b :: bs => Mem.setAll (Mem.set m a b) (a + 1) bs

/-- List bytes from an address on. -/
def Mem.putAll : Mem → Nat → Bytes → Mem
  | m, _, [] => m
  | m, a, b :: bs => Mem.putAll (Mem.put m a b) (a + 1) bs

/-- `n` bytes from an address on; unlisted bytes read zero. -/
def Mem.read (m : Mem) (a n : Nat) : Bytes := (List.range n).map (fun i => Mem.get m (a + i))

/-- Every listed address is at least `lo`, and addresses rise strictly. -/
def Mem.risesFrom : Nat → Mem → Bool
  | _, [] => true
  | lo, (k, _) :: m => decide (lo ≤ k) && Mem.risesFrom (k + 1) m

/-- The canonical form: addresses rise strictly. -/
def Mem.wf (m : Mem) : Bool := Mem.risesFrom 0 m

/-- The canonical form of a memory whose unlisted bytes read zero: no zero is listed. -/
def Mem.wf0 (m : Mem) : Bool := Mem.wf m && m.all (fun c => c.2 != 0)

/-- The value listed for a number. -/
def Tab.find {α : Type} : Tab α → Nat → Option α
  | [], _ => none
  | (k, v) :: t, a => if k = a then some v else Tab.find t a

/-- The value for a number, or the one given. -/
def Tab.getD {α : Type} (t : Tab α) (a : Nat) (d : α) : α := (Tab.find t a).getD d

/-- Set the value for a number, keeping numbers rising. -/
def Tab.set {α : Type} : Tab α → Nat → α → Tab α
  | [], a, x => [(a, x)]
  | (k, v) :: t, a, x =>
    if a < k then (a, x) :: (k, v) :: t
    else if a = k then (a, x) :: t
    else (k, v) :: Tab.set t a x

/-- Drop the value of a number. -/
def Tab.del {α : Type} (t : Tab α) (a : Nat) : Tab α := t.filter (fun p => p.1 != a)

/-- Raise a saturating count of `n` bits kept in a table. -/
def Tab.count (t : Tab Nat) (a n : Nat) : Tab Nat := Tab.set t a (satAdd n (Tab.getD t a 0) 1)

/-- Whether a number is in a list of numbers. -/
def has (l : List Nat) (a : Nat) : Bool := l.contains a

/-- Add a number to a list of numbers without repeats. -/
def addTo (l : List Nat) (a : Nat) : List Nat := if l.contains a then l else l ++ [a]

/-- Drop a number from a list of numbers. -/
def dropFrom (l : List Nat) (a : Nat) : List Nat := l.filter (fun x => x != a)

/-- Change entry `i` of a vector, if it has one. -/
def vmod {α : Type} {n : Nat} (v : Vector α n) (i : Nat) (f : α → α) : Vector α n :=
  if h : i < n then v.set i (f v[i]) h else v

end Sys2Proof.Machine
end

