-- ==== Sys2Proof/Machine/Ops.lean ====
section
/-! DEFINITION. The operations that many commands share: time, settings, what the variant contains, events and
their recording, writes to host memory, starting and completing host commands. -/

namespace Sys2Proof.Machine

/-! ### Time -/

/-- Units of the local clock and of task time (2^-16 * 1e-9 ns) in a nanosecond (R548, R555). -/
def nsUnit : Nat := 65536000000000

/-- Units of task time in a microsecond (R555). -/
def usUnit : Nat := 1000 * nsUnit

/-- Task time in µs (R555). -/
def nowUs (s : State) : Nat := s.time.task / usUnit

/-- The first whole µs of task time from now on. -/
def nowUsUp (s : State) : Nat := (s.time.task + usUnit - 1) / usUnit

/-- The local clock wraps where its 48 bits of seconds do (R548). -/
def lcWrap : Nat := 2 ^ 48 * 1000000000 * nsUnit

/-- Total ns value of the local clock (R548). -/
def totalNs (s : State) : Nat := s.time.lc / nsUnit % 2 ^ 64

/-- Compact time-stamp of now (R548). -/
def stamp (s : State) : Word := BitVec.ofNat 32 (totalNs s)

/-- What one NET tick adds to the local clock: 8 ns * (1 + f) (R548). -/
def clockRate (t : TimeSt) : Nat := 8 * (65536000000000 + t.freq.toInt).toNat

/-- What one NET tick of 8 ns adds to task time: 8 ns * (1 + s), with s within 200 ppm, in whole ppb but for the LOCAL source, whose rate
is exactly that of the local clock (R555, R556). -/
def taskRate (t : TimeSt) : Nat :=
  if t.source = 1 then clockRate t else 65536 * (8 * (1000000000 + max (-200000) (min 200000 t.slewPpb)).toNat)

/-! ### What the variant contains (R1, R22, R43) -/

/-- Paired execution is present (FX, TX). -/
def hasPaired (s : State) : Bool := s.factory.variant = 1 || s.factory.variant = 2
/-- The analog loop unit is present (FX, MX). -/
def hasLoop (s : State) : Bool := s.factory.variant = 1 || s.factory.variant = 3
/-- The star unit is present (FX). -/
def hasStar (s : State) : Bool := s.factory.variant = 1
/-- The Telith link is present (all but EX). -/
def hasTelith (s : State) : Bool := s.factory.variant != 4
/-- Barns present. -/
def nBarns (s : State) : Nat := if hasPaired s then 4 else 2
/-- CAN controllers present. -/
def nCan (s : State) : Nat := if hasPaired s then 4 else 2
/-- Channel cache entries (CAPS.CACHE). -/
def cacheSize (s : State) : Nat := if hasPaired s then 1024 else 512

/-- A settings block belongs to a unit that the variant lacks (R377, R316). -/
def blockAbsent (s : State) (id : Nat) : Bool :=
  (id = 0x0104 && !hasPaired s) || ((id = 0x0304 || id = 0x0305) && !hasLoop s) ||
  ((id = 0x0402 || id = 0x0404) && !hasStar s) || (id = 0x0501 && !hasTelith s)

/-- The fields of a block that belong to units the variant lacks read zero: CAN controllers 2 and 3 (R5, R508). -/
def presentFields (s : State) (id : Nat) (b : Bytes) : Bytes :=
  if id = 0x0410 then padTo 136 (b.take (8 + 32 * nCan s)) else b

/-- The settings block in force (R376), a block of an absent unit reading zero (R5). -/
def block (s : State) (id : Nat) : Bytes :=
  if blockAbsent s id then zeros ((blockLen id).getD 0)
  else presentFields s id ((Tab.find s.ret.blocks id).getD (blockDefault id))

/-! ### Clocks -/

/-- What one NET tick of 8 ns adds to the IHLOZ clock: 8 ns * (1 + RATE), within 500 ppm (R484). -/
def ihlozRate (s : State) : Nat := 8 * (1000000000 + max (-500000) (min 500000 s.ihloz.ratePpb)).toNat

/-- The IHLOZ clock runs while Ihloz is enabled (R40, Table 7 of Architecture). -/
def ihlozRuns (s : State) : Bool := bitAt (block s 0x0401) 0 0 && !s.power.stopped

/-- `n` ticks of the NET clock (R40, R484, R548, R555). -/
def netTicks (n : Nat) (s : State) : State :=
  { s with time := { s.time with
      net := s.time.net + n
      task := if s.time.running then s.time.task + n * taskRate s.time else s.time.task
      lc := if s.time.lcRunning then (s.time.lc + n * clockRate s.time) % lcWrap else s.time.lc
      ihloz := if ihlozRuns s then s.time.ihloz + n * ihlozRate s else s.time.ihloz } }

/-- One tick of the IHLOZ clock, 10 ns, in 1e-9 ns. -/
def ihlozUnit : Nat := 10000000000

/-- The tick of the IHLOZ clock (R472). -/
def ihlozTick (s : State) : Nat := s.time.ihloz / ihlozUnit

/-- The clocks move on to the first NET tick at which the IHLOZ clock has reached a tick (log entry 4). -/
def advanceIhloz (tick : Int) (s : State) : State :=
  netTicks ((tick.toNat * ihlozUnit - s.time.ihloz + ihlozRate s - 1) / ihlozRate s) s

/-- NET ticks until the local clock has reached a total ns value that lies ahead; none when it has passed. -/
def ticksTo (ns : Nat) (s : State) : Nat :=
  let ahead := (ns % 2 ^ 64 + 2 ^ 64 - totalNs s) % 2 ^ 64
  if ahead = 0 || 2 ^ 63 ≤ ahead then 0
  else (ahead * nsUnit - s.time.lc % nsUnit + clockRate s.time - 1) / clockRate s.time

/-- The clocks move on to the first NET tick at which the local clock has reached a total ns value (log entry 4). -/
def advanceLocal (ns : Nat) (s : State) : State := netTicks (ticksTo ns s) s

/-- The clocks move on to the first NET tick at which task time has reached an instant (log entry 4). -/
def advanceTask (instant : Nat) (s : State) : State :=
  netTicks ((instant - s.time.task + taskRate s.time - 1) / taskRate s.time) s

/-- The clocks move on to the first NET tick at which task time has reached `us` µs (log entry 4). -/
def advanceTo (us : Nat) (s : State) : State := advanceTask (us * usUnit) s

/-- The clocks move on to a count of NET ticks (R305). -/
def advanceNet (n : Nat) (s : State) : State := netTicks (n - s.time.net) s

/-- Task time in µs of base tick `n` (R47), never before 0. -/
def tickTime (s : State) (n : Nat) : Nat := (s.time.t0 + n * s.time.tickUs).toNat

/-- The number of the next base tick (R47). -/
def nextTick (s : State) : Nat := if s.time.ticked then s.time.tickNo + 1 else 0

/-! ### Ranges -/

/-- The part that two ranges (start and length) share. -/
def shared (x y : Nat × Nat) : Nat × Nat := (max x.1 y.1, min (x.1 + x.2) (y.1 + y.2) - max x.1 y.1)

/-- The parts that two ranges of a list share. -/
def overlaps : List (Nat × Nat) → List (Nat × Nat)
  | [] => []
  | x :: l => (l.map (shared x)).filter (fun y => y.2 != 0) ++ overlaps l

/-! ### Modes -/

/-- Mode codes of Table 10 (R81). -/
def mStop : BitVec 4 := 0
def mRun : BitVec 4 := 1
def mHold : BitVec 4 := 2
def mTrack : BitVec 4 := 3
def mSafe : BitVec 4 := 4
def mService : BitVec 4 := 5
def mStartUp : BitVec 4 := 7

/-- The module is in start-up. -/
def inStartUp (s : State) : Bool := s.mode.mode = mStartUp
/-- RUN or HOLD. -/
def runs (s : State) : Bool := s.mode.mode = mRun || s.mode.mode = mHold
/-- The module works: not stopped, and no power-down save in progress. -/
def alive (s : State) : Bool := !s.power.stopped && !s.power.saving
/-- The host interface is served (R350, R638, R666). -/
def served (s : State) : Bool := alive s && !s.mode.pause

/-- PTP_ROLE (Table 5 of Ethernet and Time). -/
def ptpRole (s : State) : Nat := bitsOf (fieldAt (block s 0x0421) 0 1) 1 0

/-- The mode allows CLOCK_ADJUST (R550). -/
def clockMode (s : State) : Bool := !inStartUp s && (decide (ptpRole s < 2) || s.ptp.grandmaster)

/-! ### Vectors by number -/

/-- Task t. -/
def task (s : State) (t : BitVec 7) : TaskSt := s.tasks[t.toNat]'(t.isLt)

/-- Change task t. -/
def modTask (t : BitVec 7) (f : TaskSt → TaskSt) (s : State) : State :=
  { s with tasks := s.tasks.set t.toNat (f (task s t)) t.isLt }

/-- Every task changed. -/
def modTasks (f : TaskSt → TaskSt) (s : State) : State := { s with tasks := s.tasks.map f }

/-- Change the counters of task t. -/
def modCtr (t : BitVec 7) (f : TaskCtr → TaskCtr) : State → State :=
  modTask t (fun k => { k with ctr := f k.ctr })

/-- The number of a stall (R24). -/
def stallIx (u : StallId) : Fin 20 := ⟨5 * u.barn.val + u.stall.val, by have := u.barn.isLt; have := u.stall.isLt; omega⟩

/-- The stall with a number. -/
def stallOf (i : Fin 20) : StallId := ⟨⟨i.val / 5, by have := i.isLt; omega⟩, ⟨i.val % 5, by omega⟩⟩

/-- Every stall, barn by barn. -/
def allStalls : List StallId := (List.finRange 20).map stallOf

/-- The stall u. -/
def stall (s : State) (u : StallId) : Stall := s.stalls[stallIx u]

/-- Change stall u. -/
def modStall (u : StallId) (f : Stall → Stall) (s : State) : State :=
  { s with stalls := s.stalls.set (stallIx u) (f (stall s u)) (stallIx u).isLt }

/-- Barn b. -/
def barn (s : State) (b : Fin 4) : Barn := s.barns[b]

/-- Change barn b. -/
def modBarn (b : Fin 4) (f : Barn → Barn) (s : State) : State :=
  { s with barns := s.barns.set b (f (barn s b)) b.isLt }

/-- Ring k. -/
def ring (s : State) (k : Fin 8) : Ring := s.host.rings[k]

/-- Change ring k. -/
def modRing (k : Fin 8) (f : Ring → Ring) (s : State) : State :=
  { s with host := { s.host with rings := s.host.rings.set k (f (ring s k)) k.isLt } }

/-- The task with a number below 128, if it is one. -/
def taskNo (n : Nat) : BitVec 7 := BitVec.ofNat 7 n

/-- Every task ID. -/
def allTasks : List (BitVec 7) := (List.range 128).map (BitVec.ofNat 7)

/-! ### Host memory -/

/-- Posted writes reach host memory while the link is up (R357, R134). -/
def hostWrite (addr : Nat) (b : Bytes) (s : State) : State :=
  if s.host.linkUp then { s with hostMem := Mem.putAll s.hostMem addr b } else s

/-! ### Image exports (R130 to R134) -/

/-- The bytes of an export (Table 6 of Transactions and Commits): before SEQ_OPEN, after it, and SEQ_CLOSE. -/
def exportBytes (x : Export) (e : Nat × Word × Bytes) : Bytes :=
  leBytes 8 e.1 ++ leBytes 2 x.task.toNat ++ leBytes 2 x.length ++ leBytes 4 e.2.1.toNat ++ e.2.2 ++ leBytes 8 e.1

/-- The bytes of the export area: EXPORT_SIZE, at most the 16 MiB that its register allows (Table 1 of Host Interface, R381). -/
def exportLimit (h : HostIf) : Nat := min (2 ^ 24) h.exportSize.toNat

/-- The link is up and the region lies within the export area (R130). -/
def exportFits (s : State) (x : Export) : Bool := s.host.linkUp && served s && decide (x.area + x.length + 24 ≤ exportLimit s.host)

/-- An export is written to its area in host memory (R131). -/
def writeExport (x : Export) (e : Nat × Word × Bytes) (s : State) : State :=
  hostWrite (s.host.exportBase.toNat + x.area) (exportBytes x e) s

/-- The exports of a region that commits have asked for are written (R33). -/
def finishExport (x : Export) (s : State) : State :=
  if exportFits s x then (x.flight.toList ++ x.due.toList).foldl (fun s e => writeExport x e s) s else s

/-! ### Events (R20, R21, R361, R609 to R611, R704) -/

/-- The 32 bytes of an event record (Table 6 of Scope and Conventions). -/
def eventBytes (r : EventRec) : Bytes :=
  leBytes 2 r.source.toNat ++ leBytes 2 r.seq.toNat ++ leBytes 2 r.code.toNat ++ leBytes 2 r.repeats.toNat ++
  leBytes 4 r.tFirst.toNat ++ leBytes 4 r.tLast.toNat ++ leBytes 8 r.commit.toNat ++ leBytes 8 r.data.toNat

/-- The entries of a ring by its SIZE (R358), within the largest SIZE that a register allows (R381). -/
def ringLen (size : BitVec 13) : Nat := max 1 (min 4096 size.toNat)

/-- The event ring has room for a record (R361). -/
def evtRoom (h : HostIf) : Bool := (h.evtProd + 1) % ringLen h.evtSize != h.evtCons

/-- Post a record to the event ring, or count it as not posted (R361); nothing while ENABLE is 0 (R350). -/
def postEvent (r : EventRec) (s : State) : State :=
  if !(s.host.enable && served s) then s
  else if evtRoom s.host && s.host.evtLost = 0 then
    hostWrite (s.host.evtBase.toNat + 32 * s.host.evtProd) (eventBytes r)
      { s with host := { s.host with
          evtProd := (s.host.evtProd + 1) % ringLen s.host.evtSize, evtFresh := true, echoDue := true } }
  else { s with host := { s.host with evtLost := satAdd 32 s.host.evtLost 1 } }

/-- Put a record, new or changed by folding, into the recorder's queue (R609, R611). -/
def enqueueRecord (o : Nat) (r : EventRec) (q : List (Nat × EventRec)) : List (Nat × EventRec) :=
  if q.any (fun e => e.1 = o) then q.map (fun e => if e.1 = o then (o, r) else e) else q ++ [(o, r)]

/-- Whether a record already started takes an occurrence of source and code (R609). -/
def folds (r : RecSt) (src code : Half) : Option Nat :=
  match r.last, r.prev with
  | some (o, l), p =>
    if l.source = src && l.code = code && l.repeats.toNat < 65535 then some o
    else match p with
      | some (o', e) =>
        if l.source = src && e.source = src && e.code = code && e.repeats.toNat < 65535 && l.code != code
        then some o' else none
      | none => none
  | none, _ => none

/-- The folded record: REPEAT one more, T_LAST, COMMIT and DATA those of the occurrence (R609). -/
def foldInto (now : Word) (commit data : Nat) (e : EventRec) : EventRec :=
  { e with repeats := e.repeats + 1, tLast := now, commit := BitVec.ofNat 64 commit, data := BitVec.ofNat 64 data }

/-- The folded records, not posted since they changed, whose fold a new record ends: the last record goes on as the one before it, where
source and code let it (R609, R610). -/
def endedBy (src code : Half) (r : RecSt) : List (Nat × EventRec) :=
  let ends (e : EventRec) : Bool := e.source != src || e.code = code || decide (65535 ≤ e.repeats.toNat)
  (r.prev.toList ++ r.last.toList.filter (fun p => ends p.2)).filter (fun p => has r.dirty p.1)

/-- Post folded records again (R610). -/
def repost (l : List (Nat × EventRec)) (s : State) : State :=
  l.foldl (fun s p => postEvent p.2 { s with recorder := { s.recorder with dirty := dropFrom s.recorder.dirty p.1 } }) s

/-- An occurrence folds into the record with ordinal `o` (R609, R610). -/
def raiseFold (o : Nat) (now : Word) (commit data : Nat) (s : State) : State :=
  let upd (w : Option (Nat × EventRec)) : Option (Nat × EventRec) :=
    w.map (fun p => if p.1 = o then (o, foldInto now commit data p.2) else p)
  let r := { s.recorder with
    last := upd s.recorder.last, prev := upd s.recorder.prev, dirty := addTo s.recorder.dirty o }
  let rec? := ((r.last.toList ++ r.prev.toList).find? (fun p => p.1 = o)).map Prod.snd
  match rec? with
  | some e => { s with recorder := { r with queue := enqueueRecord o e r.queue } }
  | none => { s with recorder := r }

/-- The queue of the recorder has room (R611). -/
def recRoom (r : RecSt) : Bool := r.queue.length < 512

/-- The record that an occurrence starts (R20, R609). -/
def newRecord (src code : Half) (now : Word) (commit data : Nat) (r : RecSt) : EventRec :=
  { source := src, seq := Tab.getD r.seqs src.toNat 0, code := code, repeats := 0, tFirst := now, tLast := now
    commit := BitVec.ofNat 64 commit, data := BitVec.ofNat 64 data }

/-- The recorder keeps a new record, or counts it as lost when its queue is full (R609, R611). -/
def keepRecord (e : EventRec) (r : RecSt) : RecSt :=
  let r := { r with seqs := Tab.set r.seqs e.source.toNat (e.seq + 1) }
  if recRoom r then
    { r with total := r.total + 1, prev := r.last, last := some (r.total, e), queue := enqueueRecord r.total e r.queue }
  else { r with lost := r.lost + 1, lostTotal := satAdd 32 r.lostTotal 1 }

/-- An occurrence starts a new record, or is not recorded when the queue is full; it is posted after the folded records whose fold it
ends (R609 to R611). -/
def raiseNew (src code : Half) (now : Word) (commit data : Nat) (s : State) : State :=
  let e := newRecord src code now commit data s.recorder
  let s := if recRoom s.recorder then repost (endedBy src code s.recorder) s else s
  postEvent e { s with recorder := keepRecord e s.recorder }

/-- The record that an occurrence folds into, where it can be recorded: the queue has room, or holds that record (R609, R611). -/
def foldsNow (r : RecSt) (src code : Half) : Option Nat :=
  (folds r src code).filter (fun o => recRoom r || r.queue.any (fun e => e.1 = o))

/-- The BZ64 raises an event (R32, R609). -/
def raise (src code commit data : Nat) (s : State) : State :=
  let a := BitVec.ofNat 16 src
  let c := BitVec.ofNat 16 code
  match foldsNow s.recorder a c with
  | some o => raiseFold o (stamp s) commit data s
  | none => raiseNew a c (stamp s) commit data s

/-- Task events carry SOURCE class 1 (R77, R126). -/
def raiseTask (t : BitVec 7) (code commit data : Nat) : State → State := raise (0x1000 + t.toNat) code commit data

/-- Channel events carry SOURCE class 4 (R397). -/
def raiseChan (c code data : Nat) : State → State := raise (0x4000 + c) code 0 data

/-! ### Host commands (R358 to R370) -/

/-- Status codes (R19). -/
def stOk : Byte := 0
def stPartial : Byte := 1
def stMode : Byte := 2
def stRights : Byte := 3
def stAbsent : Byte := 4
def stLate : Byte := 5
def stTimeout : Byte := 6
def stVerify : Byte := 7
def stSpace : Byte := 8

/-- The 16 bytes of a completion (Table 12 of Host Interface). -/
def completionBytes (tag : Half) (status : Byte) (tDone : Word) (result : Nat) : Bytes :=
  leBytes 2 tag.toNat ++ [status, 0] ++ leBytes 4 tDone.toNat ++ leBytes 8 result

/-- Write a completion at CPL_PROD of its ring and advance CPL_PROD (R360). -/
def complete (k : Fin 8) (tag : Half) (status : Byte) (result : Nat) (s : State) : State :=
  let r := ring s k
  hostWrite (r.cplBase.toNat + 16 * r.cplProd) (completionBytes tag status (stamp s) result)
    (modRing k (fun r => { r with
        cplProd := (r.cplProd + 1) % ringLen r.size, busy := none, fresh := true })
      { s with host := { s.host with echoDue := true } })

/-- A command does not complete yet: the ring is BUSY with it (R360). -/
def defer (d : Desc) (op : Nat) (w : Wait) : State → State :=
  modRing d.ring (fun r => { r with
    busy := some { tag := d.tag, opcode := op, bufAddr := d.bufAddr, bufLen := d.bufLen, wait := w, discard := false, misuse := false } })

/-- The command that ring k has in progress ends, if it waits for what `p` names: it writes `out` into its buffer and completes. After a
reset of the host interface neither is written (R345, R363). -/
def completeOut (k : Fin 8) (p : Wait → Bool) (status : Byte) (result : Nat) (off : Nat) (out : Bytes) (s : State) : State :=
  match (ring s k).busy with
  | some b =>
    if !p b.wait then s
    else if b.discard then modRing k (fun r => { r with busy := none }) s
    else if b.misuse then
      complete k b.tag (BitVec.ofNat 8 (Config.freeNat s.free % 9)) (Config.freeNat (s.free + 1))
        (hostWrite (b.bufAddr.toNat + off) out { s with free := s.free + 2 })
    else complete k b.tag status result (hostWrite (b.bufAddr.toNat + off) out s)
  | none => s

/-- The command that ring k has in progress completes, if it waits for what `p` names (R345, R360). -/
def completeWait (k : Fin 8) (p : Wait → Bool) (status : Byte) (result : Nat) (s : State) : State :=
  completeOut k p status result 0 [] s

/-- The ring whose command in progress waits for what `p` names. -/
def waiter (p : Wait → Bool) (s : State) : Option (Fin 8) :=
  (List.finRange 8).find? (fun k => ((ring s k).busy.map (fun b => p b.wait)).getD false)

/-- The opcode is one of the serialised commands (R366). TASK_CONTROL completes at once, so it is never found
in progress. -/
def serialOp (op : Nat) : Bool :=
  [0x02, 0x04, 0x05, 0x0A, 0x0C, 0x0D, 0x0E, 0x0F, 0x10, 0x1A, 0x13, 0x1E, 0x1F].contains op

/-- A pending EDIT_COMMIT, EDIT_ROLLBACK or PROFILE_REQUEST no longer counts as in progress (R366). -/
def pendingWait : Wait → Bool
  | .edit => true
  | .profile => true
  | _ => false

/-- A serialised command is in progress (R366). -/
def serialBusy (s : State) : Bool :=
  (List.finRange 8).any (fun k =>
    ((ring s k).busy.map (fun b => serialOp b.opcode && !pendingWait b.wait)).getD false)

/-- R359 allows the command at CMD_CONS of ring k to start, but for serialisation. -/
def allowed (k : Fin 8) (s : State) : Bool :=
  let r := ring s k
  s.host.enable && s.host.polling && served s && (k = 0 || r.enNow) && r.busy.isNone && r.cmdProd != r.cmdCons &&
  decide ((r.cplProd + ringLen r.size - r.cplCons) % ringLen r.size + 1 < ringLen r.size)

/-- A command of ring k may start, but for serialisation: R359 allows it, and no command of a lower-numbered ring stands before it, since the
rings are examined lowest first (R365). A lower one that waits for serialisation does not stand before it while what it waits for goes on. -/
def mayStart (k : Fin 8) (s : State) : Bool :=
  allowed k s && !(List.finRange 8).any (fun j => decide (j < k) && allowed j s && !((ring s j).waiting && serialBusy s))

/-- Ring k holds the right to an opcode (R405, R410): ring 0 holds every right. -/
def ringRight (s : State) (k : Fin 8) (op : Nat) : Bool :=
  k = 0 || ((Tab.find s.chan.warden (128 + k.val)).map (fun e => (fieldAt e 0 4).testBit op)).getD false

/-- Serialisation holds back a command (R366). -/
def serialHeld (serial : Bool) (s : State) : Bool := serial && serialBusy s

/-- Opcodes of the commands that read their buffer (Table 14 of Host Interface). -/
def readsBuffer (op : Nat) : Bool :=
  [0x02, 0x05, 0x0A, 0x0C, 0x0F, 0x12, 0x13, 0x17, 0x19, 0x1A, 0x1B, 0x1C].contains op

/-- A host command starts now: its ring may start it, no serialised command stands in its way, and the ring has the right
(R359, R366, R405). -/
def starts (d : Desc) (op : Nat) (serial : Bool) (s : State) : Bool :=
  mayStart d.ring s && !serialHeld serial s && ringRight s d.ring op

/-- The next free value's number, and the state that has taken it (log entry 5). -/
def takeFree (s : State) : Nat × State := (s.free, { s with free := s.free + 1 })

/-- `n` free bytes. -/
def freeBytes (n : Nat) (s : State) : Bytes × State :=
  ((List.range n).map (fun i => BitVec.ofNat 8 (Config.freeNat (s.free + i))), { s with free := s.free + n })

/-- The command at CMD_CONS of ring k starts: its descriptor and buffer are read (R359, R369). -/
def startNext (k : Fin 8) (op : Nat) (s : State) : State :=
  let s := modRing k (fun r => { r with cmdCons := (r.cmdCons + 1) % ringLen r.size, waiting := false }) s
  { s with host := { s.host with failing := s.host.failing &&& (if readsBuffer op then 0b1001 else 0b1101) } }

/-- The first check that fails decides the completion; else the command acts (R367). -/
def checked (d : Desc) (checks : State → List (Bool × Byte)) (body : State → State) (s : State) : State :=
  match (checks s).find? (fun c => !c.1) with
  | some c => complete d.ring d.tag c.2 0 s
  | none => body s

/-- A descriptor, or the package that its command reads, has a reserved field that is not zero, or BUF_ADDR is not 8-byte aligned (Tables 11
and 22 of Host Interface). -/
def malformed (d : Desc) : Bool := d.reserved || d.bufAddr.toNat % 8 != 0

/-- A malformed command (R10, R17, R380): it acts as given, or has no effect, or acts with its buffer unpredictable; in the last two cases
every field of its completion is unpredictable too, STATUS among the codes that occur, also where that completion comes later (R19; log entry 32). -/
def unpredicted (d : Desc) (act : State → State) (s : State) : State :=
  let n := s.free
  let r := ring s d.ring
  let status : Byte := BitVec.ofNat 8 (Config.freeNat (n + 1) % 9)
  let result := Config.freeNat (n + 2)
  let tag : Half := BitVec.ofNat 16 (Config.freeNat (n + 3))
  let done := Config.freeWord (n + 4)
  let s := { s with free := n + 5 }
  let written (b : Bytes) (s : State) : State :=
    hostWrite (r.cplBase.toNat + 16 * r.cplProd) (completionBytes tag status done result) (hostWrite d.bufAddr.toNat b s)
  if Config.freeNat n % 3 = 0 then act s
  else if Config.freeNat n % 3 = 1 then written [] (complete d.ring d.tag status result s)
  else
    let b := freeBytes d.bufLen.toNat (act s)
    if (ring b.2 d.ring).busy.isSome then
      modRing d.ring (fun r => { r with busy := r.busy.map (fun x => { x with misuse := true }) }) b.2
    else written b.1 b.2

/-- A host command: it starts when R359 allows it (and, if serialised, R365 and R366), is checked in the order of Table 13, and acts. A
row whose command cannot start yet changes nothing but the WAITING bit (log entry 11). -/
def hostCommand (d : Desc) (op : Nat) (serial : Bool) (checks : State → List (Bool × Byte))
    (body : State → State) (s : State) : State :=
  if !mayStart d.ring s then s
  else if serialHeld serial s then modRing d.ring (fun r => { r with waiting := true }) s
  else
    let s := startNext d.ring op s
    if !ringRight s d.ring op then complete d.ring d.tag stRights 0 s
    else if malformed d then unpredicted d (checked d checks body) s
    else checked d checks body s

/-- Complete the command d with OK. -/
def ok (d : Desc) (result : Nat) : State → State := complete d.ring d.tag stOk result

/-- Complete the command d with another status. -/
def fail (d : Desc) (status : Byte) : State → State := complete d.ring d.tag status 0

/-- Write output into the command's buffer (R363). -/
def output (d : Desc) (b : Bytes) : State → State := hostWrite d.bufAddr.toNat b

/-- A transfer message arrives at a module with a transfer on that port or from that node, and waits for its firmware; any other is
not reacted to (R502, R662). -/
def passMessage (ethernet : Bool) (origin : BitVec 5) (b : Bytes) (s : State) : State :=
  if s.fw.xfers.any (fun x => x.2.ethernet = ethernet && x.2.origin = origin && !x.2.fromHost) then
    { s with fw := { s.fw with inbox := s.fw.inbox ++ [{ ethernet := ethernet, origin := origin, bytes := b }] } }
  else s

/-- The next state of a meaning. -/
abbrev Res := Host.Outcome State Fault Refusal

end Sys2Proof.Machine
end

