-- ==== Sys2Proof/Machine/HostErrors.lean ====
section
/-! DEFINITION. The host errors that the BZ64 does not check (Table 22 of Host Interface; R10, R17, R380, R381): a value that
one of them makes unpredictable is a free value (log entries 5 and 32). -/

namespace Sys2Proof.Machine

/-! ### Reserved fields -/

/-- `n` whole bytes from byte `off`, each with all of its bits. -/
def wholeBytes (off n : Nat) : List (Nat × Nat) := (List.range n).map (fun i => (off + i, 255))

/-- A list of reserved bits for each of `n` like parts. -/
def eachPart (n : Nat) (f : Nat → List (Nat × Nat)) : List (Nat × Nat) := (List.range n).flatMap f

/-- Every listed bit (byte and mask) of a structure is zero. -/
def reservedClear (l : List (Nat × Nat)) (b : Bytes) : Bool := l.all (fun p => (byteAt b p.1).toNat &&& p.2 == 0)

/-- The reserved bits of a settings block, as the table of its chapter gives them. -/
def blockReserved (id : Nat) : List (Nat × Nat) :=
  if id = 0x0101 then (4, 0xFC) :: wholeBytes 5 3
  else if id = 0x0102 then (0, 0xF8) :: (1, 0xF0) :: wholeBytes 2 6 ++ eachPart 8 (fun w => wholeBytes (14 + 8 * w) 2) ++
    eachPart 128 (fun t => [(73 + 4 * t, 0xFE)])
  else if id = 0x0104 then wholeBytes 0 8 ++ eachPart 128 (fun t => [(10 + 4 * t, 0xE0), (11 + 4 * t, 255)])
  else if id = 0x0301 then wholeBytes 0 8 ++ eachPart 8 (fun g => [(8 + 8 * g, 0xFE), (9 + 8 * g, 255)])
  else if id = 0x0302 then wholeBytes 0 8 ++ eachPart 8 (fun g => wholeBytes (10 + 4 * g) 2)
  else if id = 0x0304 then wholeBytes 0 8 ++ eachPart 32 (fun n => [(8 + 4 * n, 0xFC), (9 + 4 * n, 0xF8)]) ++
    eachPart 16 (fun n => wholeBytes (10 + 4 * n) 2)
  else if id = 0x0401 then [(0, 0xF0), (1, 0xE0), (2, 0xF8)] ++ wholeBytes 3 5
  else if id = 0x0402 then (0, 0xFC) :: wholeBytes 1 7 ++ wholeBytes 41 7
  else if id = 0x0410 then wholeBytes 0 8 ++ eachPart 4 (fun c =>
    [(8 + 32 * c, 0x80), (20 + 32 * c, 0x80), (21 + 32 * c, 255)] ++ wholeBytes (28 + 32 * c) 12)
  else if id = 0x0420 then wholeBytes 0 8 ++ eachPart 2 (fun p =>
    (8 + 32 * p, 0xE0) :: wholeBytes (9 + 32 * p) 3 ++ wholeBytes (20 + 32 * p) 20)
  else if id = 0x0421 then [(0, 0x80), (12, 0xFE)] ++ wholeBytes 13 3
  else if id = 0x0501 then [(0, 0xF0), (1, 0xE0)] ++ wholeBytes 4 4
  else if id = 0x0502 then wholeBytes 0 8 ++ eachPart 16 (fun q =>
    [(8 + 4 * q, 0x60), (9 + 4 * q, 0xE0), (10 + 4 * q, 0xC0), (11 + 4 * q, 0xC0)])
  else if id = 0x0510 then (2, 0xFE) :: wholeBytes 3 5
  else if id = 0x0601 then [(0, 0xFC), (1, 255)] ++ wholeBytes 24 8
  else if id = 0x0603 then (0, 0xF0) :: wholeBytes 1 7
  else if id = 0x0605 then (4, 0xF0) :: wholeBytes 5 3
  else []

/-- The reserved bits of a channel entry, by its class (Tables 1, 3 and 4 of Channel Table and Warden). -/
def entryReserved (e : Bytes) : List (Nat × Nat) :=
  let cls := (byteAt e 0).toNat % 16
  [(0, 0xC0), (2, 0x80), (3, 0xC0)] ++ wholeBytes 6 2 ++
  (if cls = 1 then [(16, 0xE0), (17, 0xF0)] ++ wholeBytes 24 40
  else if cls = 2 then (16, 0xFC) :: wholeBytes 20 44
  else if cls = 3 ∨ cls = 4 then (16, 0xFC) :: (17, 255) :: wholeBytes 20 44
  else if cls = 5 ∨ cls = 6 then [(17, 0xE0), (20, 0xF8)] ++ wholeBytes 22 42
  else if cls = 7 ∨ cls = 8 then
    [(16, 0xFC), (17, 0xF8), (21, 0xE0), (22, 0x80), (23, 0xF8), (25, 0xF0), (28, 0xC0)] ++ wholeBytes 29 35
  else if cls = 9 ∨ cls = 10 then
    [(16, 0xFE), (17, 0xF8), (18, 0xFE), (19, 255), (26, 255), (27, 255), (36, 0xF8)] ++ wholeBytes 40 24
  else [])

/-- The reserved bits of the warden entries from number `first` on (Tables 8 and 9 of Channel Table and Warden). -/
def wardenReserved (first count : Nat) : List (Nat × Nat) :=
  eachPart count (fun i => (
    if first + i < 128 then
      (0, 0xF8) :: wholeBytes 1 7 ++ eachPart 4 (fun j => [(9 + 4 * j, 0xF0), (11 + 4 * j, 0x70)]) ++
      eachPart 4 (fun j => wholeBytes (26 + 8 * j) 2 ++ [(30 + 8 * j, 255), (31 + 8 * j, 0x7F)]) ++ wholeBytes 56 8
    else wholeBytes 4 60).map (fun p => (64 * i + p.1, p.2)))

/-- The reserved bits of a profile record (Table 4 of Online Edit and Profiles). -/
def profileReserved : List (Nat × Nat) := [(0, 0xF8), (1, 0xF8), (2, 0xF8), (3, 255)] ++ wholeBytes 12 4

/-- The reserved bits of a schedule table with `n` slots (Table 2 of Ihloz). -/
def scheduleReserved (n : Nat) : List (Nat × Nat) :=
  wholeBytes 8 8 ++ eachPart n (fun i => [(22 + 8 * i, 0xC0), (23 + 8 * i, 255)])

/-- The reserved bits of a firmware image's header (Table 1 of Firmware Update). -/
def imageReserved : List (Nat × Nat) := wholeBytes 5 3 ++ [(11, 255), (16, 0xE1), (19, 255)] ++ wholeBytes 24 40 ++ wholeBytes 161 95

/-- The reserved bits of an ETH_SEND buffer (Table 3 of Ethernet and Time). -/
def ethReserved : List (Nat × Nat) := [(2, 0xF8), (3, 255)]

/-- The reserved bits of a CAN_SEND record (Table 3 of CAN Controllers). -/
def canReserved : List (Nat × Nat) := [(3, 0x80), (4, 0xF8), (5, 0xF0)] ++ wholeBytes 12 4

/-- The reserved bits of a HART_TRANSACT buffer (Table 9 of Current Loops and HART). -/
def hartReserved : List (Nat × Nat) := wholeBytes 3 5

/-- The reserved bits of a SEAL_LOCK buffer (Table 3 of Retain Store and Event Recorder). -/
def sealReserved : List (Nat × Nat) := wholeBytes 56 4

/-- The reserved bits of the doorbell line (Table 9 of Host Interface). -/
def lineReserved : List (Nat × Nat) := wholeBytes 34 2 ++ wholeBytes 40 24

/-! ### Unpredictable results -/

/-- A buffer of as many unpredictable bytes. -/
def freeBuffer (buf : Bytes) (s : State) : Bytes × State := freeBytes buf.length s

/-- A buffer whose content R11 protects: a reserved bit in it makes the command unpredictable, and not what it would set. -/
def sameBuffer (buf : Bytes) (s : State) : Bytes × State := (buf, s)

/-- Each 64-byte warden entry of a buffer as given or empty: an unpredictable one gives no right that the given one does not (R11). -/
def lessRights : Nat → Bytes → State → Bytes × State
  | 0, _, s => ([], s)
  | n + 1, buf, s =>
    let f := takeFree s
    let l := lessRights n (buf.drop 64) f.2
    ((if Config.freeBit f.1 then buf.take 64 else zeros 64) ++ l.1, l.2)

/-- A host command with a buffer. When it starts with a reserved bit of the buffer set, or with a misaligned BUF_ADDR, its result is unpredictable
(R10, R17, R380): it acts with the buffer as given or with another one that `other` gives, and as `unpredicted` says. -/
def bufferCommand (d : Desc) (op : Nat) (serial : Bool) (reserved : List (Nat × Nat)) (other : Bytes → State → Bytes × State) (buf : Bytes)
    (usual : Desc → Bytes → State → State) (s : State) : State :=
  if (reservedClear reserved buf && d.bufAddr.toNat % 8 = 0) || !starts d op serial s then usual d buf s
  else
    let n := takeFree s
    let b := if Config.freeBit n.1 then (buf, n.2) else other buf n.2
    usual { d with reserved := true } b.1 b.2

/-- A channel entry as the module takes it from host memory: one with a reserved bit set becomes unpredictable, but for SAFE_ACT and
SAFE_VALUE, which say how SAFE de-energises its output (R11). -/
def takeEntry (e : Bytes) (s : State) : Bytes × State :=
  if reservedClear (entryReserved e) e then (e, s)
  else
    let f := freeBytes 64 s
    (f.1.take 3 ++ [(byteAt f.1 3 &&& 0xEF#8) ||| (byteAt e 3 &&& 0x10#8)] ++ (f.1.drop 4).take 8 ++ (padTo 16 e).drop 12 ++ f.1.drop 16,
      f.2)

/-- A doorbell line as the module takes it: one with a reserved bit set becomes unpredictable. -/
def takeLine (line : Bytes) (s : State) : Bytes × State :=
  if reservedClear lineReserved line then (line, s) else freeBytes 64 s

/-- SIZE is a power of two from 16 to 4096. -/
def soundSize (n : BitVec 13) : Bool := [16, 32, 64, 128, 256, 512, 1024, 2048, 4096].contains n.toNat

/-- A fetched line has moved the producer of a ring, from `old`, onto or past its consumer. -/
def overran (old : Nat) (r : Ring) : Bool :=
  let n := r.size.toNat
  decide ((r.cmdCons + n - old - 1) % n < (r.cmdProd + n - old) % n)

/-- Ring k is in use with a SIZE or an index that the host must not give it; `old` is the producer that the line before gave. -/
def ringBad (k : Nat) (old : Nat) (r : Ring) : Bool :=
  (k = 0 || r.enNow) && (!soundSize r.size || decide (r.size.toNat ≤ r.cmdProd) || decide (r.size.toNat ≤ r.cplCons) || overran old r)

/-- The event ring, in use whenever ENABLE is 1 (Table 1 of Host Interface), has a SIZE or an index that the host must not give it. -/
def evtBad (h : HostIf) : Bool := h.enable && (!soundSize h.evtSize || decide (h.evtSize.toNat ≤ h.evtCons))

/-- A free index of a ring. -/
def freeIndex (size : BitVec 13) (n : Nat) : Nat := Config.freeNat n % ringLen size

/-- After a fetch of the doorbell line the indices of a ring that the host misuses are unpredictable; `before` is the state before it. -/
def misusedRings (before s : State) : State :=
  let h := s.host
  let bad (k : Nat) (r : Ring) : Bool := ringBad k (((before.host.rings[k]?).map (fun x => x.cmdProd)).getD 0) r
  if !evtBad h && !(List.finRange 8).any (fun k => bad k.val (ring s k)) then s
  else
    let n := s.free
    { s with
      free := n + 34
      host := { h with
        evtProd := if evtBad h then freeIndex h.evtSize (n + 32) else h.evtProd
        evtCons := if evtBad h then freeIndex h.evtSize (n + 33) else h.evtCons
        rings := h.rings.mapFinIdx (fun k (r : Ring) _ => if bad k r then { r with
          cmdProd := freeIndex r.size (n + 4 * k), cmdCons := freeIndex r.size (n + 4 * k + 1)
          cplProd := freeIndex r.size (n + 4 * k + 2), cplCons := freeIndex r.size (n + 4 * k + 3) } else r) } }

end Sys2Proof.Machine
end

