-- ==== Sys2Proof/Machine/Flags.lean ====
section
/-! DEFINITION. What the arithmetic units of a stall compute, with every flag: the ALU, the multiply-accumulate unit,
the check unit, the address generators, the branch conditions (Morfold Units Reference; R206). -/

namespace Sys2Proof.Machine

/-! ### ALU (R218 to R220) -/

/-- ALU.FLAGS (Table 2 of Morfold Units Reference): V, C, Z, N from bit 0. -/
def packFlags (n z c v : Bool) : Word := BitVec.ofNat 32 (b2n v + 2 * b2n c + 4 * b2n z + 8 * b2n n)

/-- A + B + carry in: the result and its flags. -/
def addFlags (a b : Word) (cin : Bool) : Word × Word :=
  let r := a + b + (if cin then 1 else 0)
  (r, packFlags r.msb (r = 0) (decide (2 ^ 32 ≤ a.toNat + b.toNat + b2n cin)) (a.msb = b.msb && r.msb != a.msb))

/-- A - B by A + NOT B + carry in: C is 1 when no borrow occurs. -/
def subFlags (a b : Word) (cin : Bool) : Word × Word := addFlags a (~~~b) cin

/-- A result whose C and V are given. -/
def plainFlags (r : Word) (c : Bool) : Word × Word := (r, packFlags r.msb (r = 0) c false)

/-- C of ALU.FLAGS. -/
def flagC (f : Word) : Bool := f.getLsbD 1

/-- The ALU operations of Table 1: ALU.RES and ALU.FLAGS by destination code, from A, B and the flags before. -/
def aluOp (code : Nat) (a b old : Word) : Word × Word :=
  let n := b.toNat % 32
  match code with
  | 0x21 => addFlags a b false
  | 0x22 => addFlags a b (flagC old)
  | 0x23 => subFlags a b true
  | 0x24 => subFlags a b (flagC old)
  | 0x25 => plainFlags (a &&& b) false
  | 0x26 => plainFlags (a ||| b) false
  | 0x27 => plainFlags (a ^^^ b) false
  | 0x28 => plainFlags (a &&& ~~~b) false
  | 0x29 => plainFlags (a <<< n) (n != 0 && a.getLsbD (32 - n))
  | 0x2A => plainFlags (a >>> n) (n != 0 && a.getLsbD (n - 1))
  | 0x2B => plainFlags (a.sshiftRight n) (n != 0 && a.getLsbD (n - 1))
  | 0x2C => plainFlags (a.rotateLeft n) false
  | 0x2D => ((if b.slt a then b else a), (subFlags a b true).2)
  | 0x2E => ((if a.slt b then b else a), (subFlags a b true).2)
  | _ => (a, (subFlags a b true).2)

/-- The branch conditions of Table 3 of Morfold Move Set. -/
def condition (cc : Nat) (f : Word) : Bool :=
  let v := f.getLsbD 0
  let c := f.getLsbD 1
  let z := f.getLsbD 2
  let n := f.getLsbD 3
  match cc with
  | 0 => z
  | 1 => !z
  | 2 => c
  | 3 => !c
  | 4 => n
  | 5 => !n
  | 6 => v
  | 7 => !v
  | 8 => c && !z
  | 9 => !c || z
  | 10 => n = v
  | 11 => n != v
  | 12 => !z && n = v
  | 13 => z || n != v
  | 14 => true
  | _ => false

/-! ### Multiply-accumulate (R221 to R224) -/

/-- An operand as signed or unsigned. -/
def macOperand (sg : Bool) (a : Word) : Int := if sg then a.toInt else a.toNat

/-- Either operand is signed. -/
def macSigned (cfg : Word) : Bool := cfg.getLsbD 0 || cfg.getLsbD 1

/-- ACC as R223 reads it. -/
def accValue (cfg : Word) (acc : BitVec 72) : Int := if macSigned cfg then acc.toInt else acc.toNat

/-- A value fits 72 bits in the signedness of R223. -/
def fits72 (cfg : Word) (v : Int) : Bool :=
  if macSigned cfg then decide (-(2 ^ 71) ≤ v) && decide (v < 2 ^ 71) else decide (0 ≤ v) && decide (v < 2 ^ 72)

/-- MAC.MUL, MAC.MAC and MAC.MSU by destination code: ACC after it, and OVF. -/
def macOp (code : Nat) (cfg : Word) (acc : BitVec 72) (a b : Word) : BitVec 72 × Bool :=
  let p := macOperand (cfg.getLsbD 0) a * macOperand (cfg.getLsbD 1) b
  let v := match code with
    | 0x31 => p
    | 0x32 => accValue cfg acc + p
    | _ => accValue cfg acc - p
  (BitVec.ofInt 72 v, !fits72 cfg v)

/-- A value shifted right by `n` and rounded as RND states (R223). -/
def roundShift (rnd n : Nat) (v : Int) : Int :=
  if n = 0 then v
  else match rnd with
    | 1 => (v + 2 ^ (n - 1)) / 2 ^ n
    | 2 =>
      let q := v / 2 ^ n
      let r := v % 2 ^ n
      if r > 2 ^ (n - 1) ∨ (r = 2 ^ (n - 1) ∧ q % 2 = 1) then q + 1 else q
    | _ => v / 2 ^ n

/-- MAC.RES and whether it was clamped (R223). -/
def macRes (cfg : Word) (acc : BitVec 72) : Word × Bool :=
  let v := roundShift ((cfg.toNat / 256) % 4) ((cfg.toNat / 4) % 64) (accValue cfg acc)
  let lo : Int := if macSigned cfg then -(2 ^ 31) else 0
  let hi : Int := if macSigned cfg then 2 ^ 31 - 1 else 2 ^ 32 - 1
  if cfg.getLsbD 10 then (BitVec.ofInt 32 (max lo (min hi v)), decide (v < lo) || decide (hi < v))
  else (BitVec.ofInt 32 v, false)

/-! ### Check unit (R225 to R229) -/

/-- A width by its code: 8, 16 or 32 bits. -/
def chkWidth (code : Nat) : Nat := if code = 0 then 8 else if code = 1 then 16 else 32

/-- CRC_W in bits. -/
def crcWidth (cfg : Word) : Nat := chkWidth (cfg.toNat / 4 % 4)

/-- The low `w` bits. -/
def lowBits (w : Nat) (a : Word) : Word := BitVec.ofNat 32 (a.toNat % 2 ^ w)

/-- One data bit folded into the register: most significant first, or reflected (R226). -/
def chkBit (refin : Bool) (w : Nat) (poly crc : Word) (d : Bool) : Word :=
  if refin then
    let x := crc >>> 1
    if crc.getLsbD 0 != d then x ^^^ BitVec.ofNat 32 (revBits w poly.toNat) else x
  else
    let x := lowBits w (crc <<< 1)
    if crc.getLsbD (w - 1) != d then x ^^^ poly else x

/-- CHK.STEP (R226). -/
def chkStep (cfg poly crc a : Word) : Word :=
  let sw := chkWidth (cfg.toNat % 4)
  let w := crcWidth cfg
  let refin := cfg.getLsbD 4
  let order := if refin then List.range sw else (List.range sw).reverse
  order.foldl (fun c i => chkBit refin w (lowBits w poly) c (a.getLsbD i)) crc

/-- CHK.PAR (R228). -/
def chkPar (a : Word) : Word :=
  BitVec.ofNat 32 (parity 32 a.toNat + 2 * parity 8 (a.toNat % 256) + 4 * parity 8 (a.toNat / 2 ^ 8 % 256) +
    8 * parity 8 (a.toNat / 2 ^ 16 % 256) + 16 * parity 8 (a.toNat / 2 ^ 24))

/-- CHK.REV (R229). -/
def chkRev (cfg a : Word) : Word := BitVec.ofNat 32 (revBits (cfg.toNat / 256 % 32 + 1) a.toNat)

/-! ### Address generators (R230 to R232) -/

/-- The current address of a generator (Table 8). -/
def agAddr (base idx mod cfg : Word) : Word :=
  if cfg.toNat % 4 = 2 then
    let k := mod.toNat % 32
    base + BitVec.ofNat 32 (revBits k (idx.toNat % 2 ^ k) * 2 ^ (cfg.toNat / 4 % 4))
  else base + idx

/-- The index after one step (Table 8). -/
def agNext (idx mod cfg : Word) : Word :=
  let step := signed 16 (cfg.toNat / 2 ^ 16)
  if cfg.toNat % 4 = 2 then BitVec.ofInt 32 (((idx.toNat : Int) + step) % (2 ^ (mod.toNat % 32) : Int))
  else if cfg.toNat % 4 = 1 ∧ mod ≠ 0 then BitVec.ofInt 32 (((idx.toNat : Int) + step) % (mod.toNat : Int))
  else BitVec.ofInt 32 ((idx.toNat : Int) + step)

/-- A generator in bit-reversed mode with a reserved k (R232). -/
def agReserved (mod cfg : Word) : Bool := cfg.toNat % 4 = 2 && (mod.toNat % 32 = 0 || decide (17 ≤ mod.toNat % 32))

end Sys2Proof.Machine
end

