-- ==== Sys2Proof/Machine/Home.lean ====
section
/-! DEFINITION. Transactions: home lines and their versions, write buffers, warden checks, resident instances
and aborts (Transactions and Commits; Paired Execution; Channel Table and Warden). -/

namespace Sys2Proof.Machine

/-! ### Tasks and addresses -/

/-- The load record of a task of the loaded project (R373). -/
def taskRec (s : State) (t : BitVec 7) : Option TaskRec :=
  if s.proj.loaded then s.proj.cur.tasks.find? (fun r => r.attr.taskId = t) else none

/-- An event task (R51). -/
def isEvent (t : BitVec 7) : Bool := 64 ≤ t.toNat

/-- The home-memory key of private data address `a` of task `t`; globals and output images lie at their data
address (Table 9 of Morfold Units Reference; the keys are the model's, log entry 12). -/
def privKey (t : BitVec 7) (a : Nat) : Nat := 2 ^ 32 * (t.toNat + 1) + a

/-- First private data address. -/
def privBase : Nat := 0x00100000
/-- First global address. -/
def globBase : Nat := 0x00400000
/-- First address of the output image of task `t`. -/
def outBase (t : BitVec 7) : Nat := 0x00800000 + 0x1000 * t.toNat

/-- The line of a key. -/
def lineOf (k : Nat) : Nat := k - k % 64

/-- The lines of a sparse memory, rising. -/
def linesOf (m : Mem) : List Nat := (m.map (fun c => lineOf c.1)).eraseDups

/-- Where a data address leads (R234): scratch, the task's private data, a global, an output image (each within
its loaded size), or nowhere. -/
inductive Region where
  | scratch (off : Nat)
  | priv (key : Nat)
  | glob (key : Nat)
  | image (key : Nat)
  | unmapped
  deriving DecidableEq, Repr

/-- The region of an aligned data address for an instance of record `r` (R234, R236). -/
def region (s : State) (r : TaskRec) (a : Nat) : Region :=
  if a < 0x3C00 then .scratch a
  else if privBase ≤ a ∧ a < privBase + 0x100000 then
    if a - privBase < r.privSize then .priv (privKey r.attr.taskId a) else .unmapped
  else if globBase ≤ a ∧ a < 0x00800000 then
    if a - globBase < s.proj.cur.globalSize then .glob a else .unmapped
  else if 0x00800000 ≤ a ∧ a < 0x00880000 then
    match taskRec s (taskNo ((a - 0x00800000) / 0x1000)) with
    | some o => if a % 0x1000 < o.outSize then .image a else .unmapped
    | none => .unmapped
  else .unmapped

/-- The key of a home line that a region names. -/
def regionKey : Region → Option Nat
  | .priv k => some k
  | .glob k => some k
  | .image k => some k
  | _ => none

/-- The line lies in the SRAM of the barn (R691). -/
def inBarn (s : State) (b : Fin 4) (key : Nat) : Bool := Tab.find s.yard.homeLoc (lineOf key) = some b

/-- A load of another barn's SRAM or of the global image memory (R159, R195). -/
def longLoad (s : State) (b : Fin 4) (r : TaskRec) (a : Nat) : Bool := (regionKey (region s r a)).any (fun k => !inBarn s b k)

/-! ### Versions (R119, R120) -/

/-- The version of a line that a reader with start commit number `S` receives: the older one or not, torn or
not, and its number (R120). -/
def version (c : CommitSt) (S line : Nat) : Bool × Bool × Nat :=
  let vn := Tab.getD c.vNew line 0
  if vn ≤ S then (false, false, vn)
  else match Tab.find c.vOld line with
    | some vo => if vo ≤ S then (true, false, vo) else (false, true, vn)
    | none => (false, true, vn)

/-- Edit commit `n` did not affect task `t` and its map wrote the byte (R322). -/
def editForeign (c : CommitSt) (t : BitVec 7) (n key : Nat) : Bool :=
  c.edits.any (fun e => e.1 = n && !e.2.1.getLsbD t.toNat && e.2.2.any (fun x => decide (x.1 ≤ key) && decide (key < x.1 + x.2)))

/-- A committed byte as a reader of task `t` with start commit number `S` receives it (R120); data of an edit's map is unpredictable
to a task that the edit does not affect (R10, R322; log entry 86). -/
def homeByte (c : CommitSt) (t : BitVec 7) (S key : Nat) : Byte :=
  let v := version c S (lineOf key)
  if v.1 then Mem.get c.older key
  else if editForeign c t v.2.2 key then Config.editRead v.2.2 t.toNat key
  else Mem.get c.newest key

/-- The line gains a version number `n`: its newest version becomes the older one (R119). -/
def shiftLine (n : Nat) (c : CommitSt) (line : Nat) : CommitSt :=
  { c with
    older := Mem.setAll c.older line (Mem.read c.newest line 64)
    vOld := Tab.set c.vOld line (Tab.getD c.vNew line 0)
    vNew := Tab.set c.vNew line n }

/-- Commit `n` makes the written bytes the newest version of every line it writes (R118, R119). -/
def commitBytes (n : Nat) (m : Mem) (c : CommitSt) : CommitSt :=
  let c := (linesOf m).foldl (shiftLine n) c
  { c with newest := m.foldl (fun h b => Mem.set h b.1 b.2) c.newest }

/-! ### Resident instances -/

/-- The instance in slot `f` of stall `u`. -/
def slotOf (s : State) (u : StallId) (f : Fin 4) : Option Inst := (stall s u).slots[f]

/-- Set slot `f` of stall `u`. -/
def setSlot (u : StallId) (f : Fin 4) (i : Option Inst) : State → State :=
  modStall u (fun st => { st with slots := st.slots.set f i f.isLt })

/-- Change the instance in slot `f` of stall `u`. -/
def modInst (u : StallId) (f : Fin 4) (g : Inst → Inst) (s : State) : State :=
  setSlot u f ((slotOf s u f).map g) s

/-- The running instance of a stall and its slot. -/
def running (s : State) (u : StallId) : Option (Fin 4 × Inst) :=
  match (stall s u).running with
  | some f => (slotOf s u f).map (fun i => (f, i))
  | none => none

/-- The residents of a stall with their slots. -/
def residents (s : State) (u : StallId) : List (Fin 4 × Inst) :=
  (List.finRange 4).filterMap (fun f => (slotOf s u f).map (fun i => (f, i)))

/-- The resident copies of a task, copy A (or the plain one) first. -/
def copies (s : State) (t : BitVec 7) : List (StallId × Fin 4 × Inst) :=
  let all := allStalls.flatMap (fun u => (residents s u).map (fun p => (u, p.1, p.2)))
  let mine := all.filter (fun p => p.2.2.task = t)
  mine.filter (fun p => !p.2.2.copyB) ++ mine.filter (fun p => p.2.2.copyB)

/-- The two resident copies of a task. -/
def bothCopies (s : State) (t : BitVec 7) : Option (Inst × Inst) :=
  match (copies s t).find? (fun c => !c.2.2.copyB), (copies s t).find? (fun c => c.2.2.copyB) with
  | some a, some b => some (a.2.2, b.2.2)
  | _, _ => none

/-- A stored byte in the form the copy holds it, and back: copy B holds complements (R301). -/
def held (i : Inst) (b : Byte) : Byte := if i.copyB then ~~~b else b

/-- The bytes the instance has written, in true form. -/
def trueWrites (i : Inst) : Mem := i.wb.map (fun c => (c.1, held i c.2))

/-- One byte as the instance reads it: its own latest write, else the version of R120 (R100). -/
def readByte (c : CommitSt) (i : Inst) (key : Nat) : Byte :=
  match Mem.find i.wb key with
  | some b => held i b
  | none => homeByte c i.task i.startCommit key

/-- `n` bytes as the instance reads them. -/
def readBytes (c : CommitSt) (i : Inst) (key n : Nat) : Bytes :=
  (List.range n).map (fun k => readByte c i (key + k))

/-- Mark the instance torn at its first torn read of a line (R121, R139); the flag and the event are kept per
copy, the counter once for the instance. -/
def markTorn (u : StallId) (f : Fin 4) (line : Nat) (s : State) : State :=
  match slotOf s u f with
  | some i =>
    let v := version s.commit i.startCommit line
    if !v.2.1 then s
    else if i.torn then modInst u f (fun i => { i with tornFrom := 0 }) s
    else
      let t := i.task
      let counted := ((task s t).inst.map Release.tornCounted).getD false
      let s := modInst u f (fun i => { i with torn := true, tornFrom := 0 }) s
      let s := modTask t (fun k => { k with
        inst := k.inst.map (fun r => { r with tornCounted := true })
        ctr := if counted then k.ctr else { k.ctr with torn := satAdd 16 k.ctr.torn 1 } }) s
      raiseTask t 0x0121 v.2.2 (line % 2 ^ 32 + 2 ^ 32 * (i.startCommit % 2 ^ 32)) s
  | none => s

/-- An access to an unmapped or out-of-size address sets ADDR_FAULT (R236, R256). -/
def addrFault (u : StallId) (f : Fin 4) : State → State :=
  modInst u f (fun i => { i with addrFault := true, faultFrom := 0 })

/-- Where the gateways count the accesses of a barn's stalls for a task to a home line (R140). -/
def trafficKey (line t b : Nat) : Nat := (line / 64 * 128 + t) * 4 + b

/-- A barn gateway counts an access of the instance in slot `f` to a home line (R140, Table 1 of The Yardmaster). -/
def countAccess (u : StallId) (f : Fin 4) (line : Nat) (s : State) : State :=
  match slotOf s u f with
  | some i =>
    let k := trafficKey line i.task.toNat u.barn.val
    { s with yard := { s.yard with traffic := Tab.set s.yard.traffic k (Tab.getD s.yard.traffic k 0 + 1) } }
  | none => s

/-- A read of `n` bytes from a home line by the instance in slot `f`: the gateway counts it, and it marks it torn where R120 says so; bytes that
the instance itself wrote do not count. -/
def noteRead (u : StallId) (f : Fin 4) (own : Mem) (key n : Nat) (s : State) : State :=
  if (List.range n).all (fun k => (Mem.find own (key + k)).isSome) then s
  else countAccess u f (lineOf key) (markTorn u f (lineOf key) s)

/-! ### Write buffer (R105 to R108) -/

/-- Write-buffer entries an instance holds. -/
def entries (i : Inst) : Nat := (linesOf i.wb).length

/-- The instance in slot `f` may write to the line of a key (R105, R106). -/
def entryAllowed (st : Stall) (f : Fin 4) (i : Inst) (key : Nat) : Bool :=
  let others := (List.finRange 4).filterMap (fun g => if g = f then none else st.slots[g])
  let used := entries i + (others.map entries).sum
  (linesOf i.wb).contains (lineOf key) || entries i < 64 ||
  decide ((others.map (fun o => 64 - entries o)).sum < 512 - used)

/-- A write of bytes of one line into the write buffer; none is TX_OVERFLOW (R108). -/
def bufferWrite (u : StallId) (f : Fin 4) (key : Nat) (b : Bytes) (s : State) : Option State :=
  match slotOf s u f with
  | none => some s
  | some i =>
    if !entryAllowed (stall s u) f i key then none
    else
      let i' := { i with wb := Mem.putAll i.wb key (b.map (held i)) }
      let i' := { i' with peak := max i.peak (entries i') }
      some (countAccess u f (lineOf key) (modCtr i.task (fun k => { k with wbPeak := max k.wbPeak (min i'.peak 0xFFFF) })
        (setSlot u f (some i') s)))

/-- A global line lies in a valid range of a task warden entry (R406, Table 8 of Channel Table and Warden). -/
def globRight (w : Bytes) (line : Nat) : Bool :=
  (List.range 4).any (fun j =>
    bitAt w (31 + 8 * j) 7 && decide (fieldAt w (24 + 8 * j) 2 ≤ line) && decide (line ≤ fieldAt w (28 + 8 * j) 2))

/-- A channel lies in a valid range of a task warden entry (R406). -/
def chanRight (w : Bytes) (c : Nat) : Bool :=
  (List.range 4).any (fun j =>
    bitAt w (11 + 4 * j) 7 && decide (bitsOf (fieldAt w (8 + 4 * j) 4) 11 0 ≤ c) &&
    decide (c ≤ bitsOf (fieldAt w (8 + 4 * j) 4) 27 16))

/-- The channels outside the rights of the instance that a write of `n` bits at bit `first` of its output image
covers (R407, R701). -/
def offending (i : Inst) (first n : Nat) : List Nat :=
  (i.covers.filter (fun c => decide (c.2.1 < first + n) && decide (first < c.2.1 + c.2.2) && !chanRight i.warden c.1)).map
    (fun c => c.1)

/-! ### The resident that executes (R60, R61) -/

/-- Residents in the order of R60: the better of two. PRIORITY 0 is the highest. -/
def before (a b : Inst) : Bool :=
  decide (a.priority < b.priority) || (a.priority = b.priority && (decide (a.relTime < b.relTime) ||
    (a.relTime = b.relTime && (decide (a.task < b.task) || (a.task = b.task && !a.copyB && b.copyB)))))

/-- A resident that executes or waits to execute. -/
def executes (i : Inst) : Bool := i.phase = .running || i.phase = .preempted

/-- The resident that the stall is to execute (R60). -/
def bestResident (s : State) (u : StallId) : Option (Fin 4) :=
  ((residents s u).filter (fun p => executes p.2)).foldl (fun (o : Option (Fin 4 × Inst)) p => match o with
    | none => some p
    | some q => if before p.2 q.2 then some p else some q) none |>.map (fun p => p.1)

/-- The resident that the stall turns to at the next bundle boundary: the running instance goes on until one of a higher priority is
resident (R60, R61). -/
def turnOf (s : State) (u : StallId) : Option (Fin 4) :=
  match running s u, bestResident s u with
  | some (f, i), some g =>
    if i.phase = .running && !((slotOf s u g).any (fun j => decide (j.priority < i.priority))) then some f else some g
  | _, b => b

/-! ### Aborts (R110, R111) -/

/-- Fault codes of Table 4 of Transactions and Commits. -/
def fcAbort : Nat := 1
def fcOverflow : Nat := 2
def fcProt : Nat := 3
def fcDeadline : Nat := 4
def fcMismatch : Nat := 5
def fcPairDeadline : Nat := 6
def fcMode : Nat := 7
def fcStallLost : Nat := 8
def fcBufferEcc : Nat := 9
def fcPower : Nat := 10

/-- A resident copy leaves its stall: its slot and write buffer are freed, results still on their way (of loads, the long ones) are to
be retired (R159, R181), its solver call is ended (R265), and its presented write set is withdrawn. -/
def closeCopy (u : StallId) (f : Fin 4) (s : State) : State :=
  match slotOf s u f with
  | none => s
  | some i =>
    let mine (c : Call) : Bool := c.stall = u && c.slot = f
    let b := barn s u.barn
    let returned := b.returns.filter (fun r => r.1 = u && r.2.1 = f)
    let left (k : ResKind) (g : Tag) : StaleRes := { slot := f, kind := k, task := i.task, tag := g }
    let stale := (i.loads.filter (fun q => longLoad s u.barn i.record q.addr.toNat)).map (fun q => left .load q.tag) ++
      i.blk.toList.map (fun q => left .block q.tag) ++ returned.map (fun r => left .solver r.2.2.2)
    let s := modBarn u.barn (fun b => { b with
      queue := b.queue.filter (fun c => !mine c)
      run := if (b.run.map mine).getD false then none else b.run
      returns := b.returns.filter (fun r => !(r.1 = u && r.2.1 = f)) }) s
    let s := modStall u (fun st => { st with
      slots := st.slots.set f none f.isLt
      running := if st.running = some f then none else st.running
      stale := st.stale ++ stale, since := s.time.task }) s
    let s := modTask i.task (fun k => { k with closedAt := s.time.task }) s
    { s with commit := { s.commit with
        presented := s.commit.presented.filter (fun p => !(p.stall = u && p.slot = f)) } }

/-- TX_ABORTED of one copy (Table 5 of Transactions and Commits). -/
def raiseAborted (t : BitVec 7) (copyB : Bool) (code detail held : Nat) : State → State :=
  raiseTask t 0x0120 0 (code + 2 ^ 8 * b2n copyB + 2 ^ 16 * (detail % 2 ^ 16) + 2 ^ 32 * held)

/-- The open instance of task `t` aborts: every copy, the named copy first (R309), each with its TX_ABORTED; the
task's ABORTS counter rises once (R110, R111). -/
def abortInstance (t : BitVec 7) (code detail : Nat) (bFirst : Bool) (s : State) : State :=
  let cs := copies s t
  let paired := ((taskRec s t).map (fun r => r.attr.paired)).getD false
  let heldBy (b : Bool) : Nat := ((cs.find? (fun c => c.2.2.copyB = b)).map (fun c => entries c.2.2)).getD 0
  let s := cs.foldl (fun s c => closeCopy c.1 c.2.1 s) s
  let s := modTask t (fun k => { k with
    inst := none
    ctr := { k.ctr with
      aborts := satAdd 32 k.ctr.aborts 1
      overflows := if code = fcOverflow then satAdd 16 k.ctr.overflows 1 else k.ctr.overflows } }) s
  if paired then
    raiseAborted t (!bFirst) code detail (heldBy (!bFirst)) (raiseAborted t bFirst code detail (heldBy bFirst) s)
  else raiseAborted t false code detail (heldBy false) s

/-- Every open transaction aborts with a fault code (R34, R98, R137, R666); a release that has not started is
withdrawn. -/
def abortAll (code detail : Nat) (s : State) : State :=
  let s := allTasks.foldl (fun s t =>
    if ((task s t).inst.map Release.started).getD false then abortInstance t code detail false s else s) s
  modTasks (fun k => { k with inst := none }) s

end Sys2Proof.Machine
end

