-- ==== Sys2Proof/Machine/Operands.lean ====
section
/-! DEFINITION. Move words, source and destination sockets, context frames and the encodings whose result is
unpredictable (Morfold Move Set: Encoding and Sockets). -/

namespace Sys2Proof.Machine

/-! ### Bundles (R183 to R189, R196) -/

/-- Destination code of a move word. -/
def dstOf (w : MoveWord) : Nat := w.toNat / 128
/-- Source code of a move word. -/
def srcOf (w : MoveWord) : Nat := w.toNat % 128

/-- Word `a` of the stall bank an instance fetches from; unwritten words read as the end bundle (R185, R187). -/
def bankWord (p : ProjSt) (bank : Bool) (a : Nat) : MoveWord := Tab.getD (if bank then p.bank1 else p.bank0).stall a 0x3FFF

/-- The bundle at a bundle address: slots 0 and 1 (R184). -/
def bundleAt (p : ProjSt) (bank : Bool) (pc : BitVec 15) : MoveWord × MoveWord :=
  (bankWord p bank (2 * pc.toNat), bankWord p bank (2 * pc.toNat + 1))

/-- The end bundle (R187). -/
def isEnd (b : MoveWord × MoveWord) : Bool := b.1 = 0x3FFF && b.2 = 0x3FFF

/-- An immediate bundle (R196). -/
def isImm (b : MoveWord × MoveWord) : Bool := dstOf b.1 = 0x7E

/-- The unit that a trigger socket starts, 0 for a socket that is no trigger: 1 ALU, 2 MAC, 3 check, 4 load/store,
5 repeat, 6 image port, 7 branch, 8 transaction, 9 system (Table 1). -/
def unitOf (d : Nat) : Nat :=
  if 0x21 ≤ d ∧ d ≤ 0x2F then 1
  else if 0x31 ≤ d ∧ d ≤ 0x33 then 2
  else if 0x3B ≤ d ∧ d ≤ 0x3D then 3
  else if 0x51 ≤ d ∧ d ≤ 0x57 then 4
  else if d = 0x5C ∨ d = 0x5D then 5
  else if 0x62 ≤ d ∧ d ≤ 0x66 then 6
  else if d = 0x68 ∨ d = 0x69 ∨ d = 0x6B ∨ d = 0x6C ∨ d = 0x6D ∨ d = 0x6F then 7
  else if d = 0x70 ∨ d = 0x71 then 8
  else if 0x72 ≤ d ∧ d ≤ 0x76 then 9
  else 0

/-- A bundle carries a move to a destination. -/
def carries (b : MoveWord × MoveWord) (d : Nat) : Bool := !isImm b && (dstOf b.1 = d || dstOf b.2 = d)

/-- A bundle without trigger that is not an immediate one. -/
def isPlain (b : MoveWord × MoveWord) : Bool := !isImm b && !isEnd b && unitOf (dstOf b.1) = 0 && unitOf (dstOf b.2) = 0

/-- The value that an immediate bundle loads (R196). -/
def immValue (b : MoveWord × MoveWord) (old : Word) : Word :=
  let s := srcOf b.1
  let v := (s % 64) * 2 ^ 14 + b.2.toNat
  if 64 ≤ s then BitVec.ofInt 32 (signed 20 v) else BitVec.ofNat 32 (old.toNat * 2 ^ 20 + v)

/-! ### Reserved encodings (R214, R232) -/

/-- A reserved destination code. -/
def dstReserved (d : Nat) : Bool :=
  d = 0x3E || d = 0x3F || d = 0x5E || d = 0x5F || d = 0x67 || (decide (0x78 ≤ d) && decide (d ≤ 0x7D))

/-- A reserved source code. -/
def srcReserved (c : Nat) : Bool := decide (0x40 ≤ c) && decide (c ≤ 0x5F)

/-- A value with a reserved field or encoding for a configuration or state socket. -/
def valueReserved (d : Nat) (a : Word) : Bool :=
  let v := a.toNat
  if d = 0x34 then decide (2 ^ 11 ≤ v) || v / 256 % 4 = 3
  else if d = 0x39 then decide (2 ^ 13 ≤ v) || v / 32 % 8 != 0 || v % 4 = 3 || v / 4 % 4 = 3
  else if 0x40 ≤ d ∧ d < 0x50 ∧ d % 4 = 3 then v / 16 % 2 ^ 12 != 0 || v % 4 = 3
  else if d = 0x5B then decide (4 ≤ v)
  else if d = 0x60 then decide (2 ≤ v)
  else false

/-- A read of a generator whose k is reserved. -/
def agOdd (c : Ctx) (code : Nat) : Bool :=
  if h : 0x28 ≤ code ∧ code < 0x30 then
    let n : Fin 4 := ⟨(code - 0x28) / 2, by omega⟩
    agReserved c.agMod[n] c.agCfg[n]
  else false

/-- A reserved k written to AGn.MOD of a generator in bit-reversed mode, which the other move of the bundle may set (R214, R232). -/
def modReserved (c : Ctx) (d d' : Nat) (a a' : Word) : Bool :=
  if h : 0x40 ≤ d ∧ d < 0x50 ∧ d % 4 = 2 then
    let n : Fin 4 := ⟨(d - 0x40) / 4, by omega⟩
    agReserved a (if d' = d + 1 then a' else c.agCfg[n])
  else false

/-- A bundle of two moves whose result is unpredictable, by its codes, the generators it reads and the values it moves. -/
def bundleOdd (c : Ctx) (b : MoveWord × MoveWord) (a0 a1 : Word) : Bool :=
  let d0 := dstOf b.1
  let d1 := dstOf b.2
  (d0 = d1 && d0 != 0x7F) || (unitOf d0 = unitOf d1 && unitOf d0 != 0 && unitOf d0 != 8) || dstReserved d0 || dstReserved d1 ||
  srcReserved (srcOf b.1) || srcReserved (srcOf b.2) || d1 = 0x7E || valueReserved d0 a0 || valueReserved d1 a1 ||
  agOdd c (srcOf b.1) || agOdd c (srcOf b.2) || modReserved c d0 d1 a0 a1 || modReserved c d1 d0 a1 a0

/-! ### Source sockets (R190, R195) -/

/-- SYS.TASK (Table 13 of Morfold Units Reference). -/
def sysTask (u : StallId) (i : Inst) : Word :=
  BitVec.ofNat 32 (i.task.toNat + 2 ^ 7 * b2n i.copyB + 2 ^ 8 * u.stall.val + 2 ^ 11 * u.barn.val + 2 ^ 16 * i.epoch.toNat)

/-- SYS.STATUS at cycle `cyc`: TORN and ADDR_FAULT reflect the accesses completed by then (R257, Table 14 of Morfold Units
Reference). -/
def sysStatus (i : Inst) (cyc : Nat) : Word :=
  i.startFlags ||| BitVec.ofNat 32 (b2n (i.torn && decide (i.tornFrom ≤ cyc)) + 2 * b2n (i.addrFault && decide (i.faultFrom ≤ cyc)))

/-- The value of a source for a bundle that issues at cycle `cyc` of its instance. SYS.CYCLE past 2^32 cycles wraps (DESIGN CHOICE, log entry 48). -/
def sourceValue (u : StallId) (i : Inst) (c : Ctx) (cyc : Nat) (code : Nat) : Word :=
  if h : code < 32 then c.gp[code]
  else if h : 0x28 ≤ code ∧ code < 0x30 then
    let n : Fin 4 := ⟨(code - 0x28) / 2, by omega⟩
    agAddr c.agBase[n] c.agIdx[n] c.agMod[n] c.agCfg[n]
  else if 0x60 ≤ code then BitVec.ofInt 32 ((code : Int) - 0x70)
  else match code with
    | 0x20 => c.aluRes
    | 0x21 => c.aluFlags
    | 0x22 => c.acc.setWidth 32
    | 0x23 => (c.acc >>> 32).setWidth 32
    | 0x24 => ((c.acc >>> 64).setWidth 8).signExtend 32
    | 0x25 => (macRes c.macCfg c.acc).1
    | 0x26 => c.chkCrc
    | 0x27 => c.ldRes
    | 0x30 => c.rptStart
    | 0x31 => c.rptEnd
    | 0x32 => c.rptCount
    | 0x33 => c.rptState
    | 0x34 => c.imgRes
    | 0x35 => i.tStart.setWidth 32
    | 0x36 => (i.tStart >>> 32).setWidth 32
    | 0x37 => c.brLink
    | 0x38 => c.imm
    | 0x39 => sysTask u i
    | 0x3A => BitVec.ofNat 32 cyc
    | 0x3B => sysStatus i cyc
    | 0x3C => c.chkPar
    | 0x3D => c.chkRev
    | 0x3E => c.macFlags
    | _ => BitVec.ofNat 32 i.relTick

/-- The cycle from which a source can be read without waiting (R195). -/
def readyAt (i : Inst) (code : Nat) : Nat :=
  if (0x22 ≤ code ∧ code ≤ 0x25) ∨ code = 0x3E then i.macReady
  else if code = 0x26 then i.chkReady
  else if code = 0x27 then i.ldReady
  else if code = 0x34 then i.imgReady
  else 0

/-- A source waits for a result that has not arrived (R198, R213). -/
def sourcePends (i : Inst) (code : Nat) : Bool := (code = 0x27 && !i.loads.isEmpty) || (code = 0x34 && i.solving)

/-- A trigger that waits for a result that has not arrived (R216, R253). -/
def triggerPends (i : Inst) (d : Nat) : Bool := (d = 0x57 && i.blk.isSome) || (unitOf d = 6 && i.solving)

/-- The generators that a bundle advances: each once, unless the bundle writes its index (R195, R233). A bundle that writes MOD or CFG too
advances with the old ones (log entry 95). -/
def advanceAg (b : MoveWord × MoveWord) (c : Ctx) : Ctx :=
  (List.finRange 4).foldl (fun (c : Ctx) (n : Fin 4) =>
    let code : Nat := 0x29 + 2 * n.val
    let idx : Nat := 0x41 + 4 * n.val
    if (srcOf b.1 = code || srcOf b.2 = code) && !(dstOf b.1 = idx || dstOf b.2 = idx) then
      { c with agIdx := c.agIdx.set n (agNext c.agIdx[n] c.agMod[n] c.agCfg[n]) n.isLt }
    else c) c

/-! ### Destination sockets that are not triggers (R191, R194) -/

/-- A move to a register, operand or state socket. -/
def writeSocket (d : Nat) (a : Word) (c : Ctx) : Ctx :=
  if h : d < 32 then { c with gp := c.gp.set d a h }
  else if h : 0x40 ≤ d ∧ d < 0x50 then
    let n : Fin 4 := ⟨(d - 0x40) / 4, by omega⟩
    match d % 4 with
    | 0 => { c with agBase := c.agBase.set n a n.isLt }
    | 1 => { c with agIdx := c.agIdx.set n a n.isLt }
    | 2 => { c with agMod := c.agMod.set n a n.isLt }
    | _ => { c with agCfg := c.agCfg.set n a n.isLt }
  else match d with
    | 0x20 => { c with aluOpb := a }
    | 0x30 => { c with macOpb := a }
    | 0x34 => { c with macCfg := a, macFlags := 0 }
    | 0x35 => { c with acc := (c.acc &&& 0xFFFFFFFFFF00000000) ||| a.setWidth 72 }
    | 0x36 => { c with acc := (c.acc &&& 0xFF00000000FFFFFFFF) ||| (a.setWidth 72 <<< 32) }
    | 0x37 => { c with acc := (c.acc &&& 0x00FFFFFFFFFFFFFFFF) ||| (a.setWidth 72 <<< 64) }
    | 0x38 => { c with chkPoly := a }
    | 0x39 => { c with chkCfg := a }
    | 0x3A => { c with chkCrc := a }
    | 0x50 => { c with lsAddr := a }
    | 0x58 => { c with rptStart := a }
    | 0x59 => { c with rptEnd := a }
    | 0x5A => { c with rptCount := a }
    | 0x5B => { c with rptState := a }
    | 0x60 => { c with imgSel := a }
    | 0x61 => { c with imgAddr := a }
    | 0x6A => { c with brTarget := a }
    | 0x6E => { c with brLink := a }
    | 0x77 => { c with evtd := (c.evtd >>> 32) ||| (a.setWidth 64 <<< 32) }
    | _ => c

/-- A write of the accumulator. -/
def writesAcc (d : Nat) : Bool := d = 0x35 || d = 0x36 || d = 0x37
/-- A write or trigger of the multiply-accumulate unit, whose results are ready three cycles later (R195). -/
def touchesMac (d : Nat) : Bool := decide (0x30 ≤ d) && decide (d ≤ 0x37)
/-- A write or trigger of the check unit, whose CHK.RES is ready two cycles later (R195). -/
def touchesChk (d : Nat) : Bool := decide (0x38 ≤ d) && decide (d ≤ 0x3D)

/-- MAC.FLAGS after a trigger or an accumulator write (R224). -/
def satFlag (c : Ctx) : Ctx := if (macRes c.macCfg c.acc).2 then { c with macFlags := c.macFlags ||| 2 } else c

/-- Both moves of a bundle into sockets that are not triggers. MAC.CFG is taken before an accumulator write of the other
slot; bits of CHK.CRC above its width read zero (R191, R224, R227), the width being the new one where the bundle writes CHK.CFG too (DESIGN
CHOICE, log entry 48). -/
def writeBoth (b : MoveWord × MoveWord) (a0 a1 : Word) (c : Ctx) : Ctx :=
  let d0 := dstOf b.1
  let d1 := dstOf b.2
  let c := if d1 = 0x34 then writeSocket d0 a0 (writeSocket d1 a1 c) else writeSocket d1 a1 (writeSocket d0 a0 c)
  let c := if writesAcc d0 || writesAcc d1 then satFlag c else c
  { c with chkCrc := lowBits (crcWidth c.chkCfg) c.chkCrc }

/-! ### Context frames (R210 to R213) -/

/-- First local-data address of frame `f`. -/
def frameAddr (f : Fin 4) : Nat := 0xFB00 + 0x140 * f.val

/-- PEND_LD, PEND_SOLVE, PEND_BLK. -/
def pendBits (i : Inst) : Nat := b2n (!i.loads.isEmpty) + 2 * b2n i.solving + 4 * b2n i.blk.isSome

/-- A frame (Table 7). -/
def frameBytes (c : Ctx) (bank : Bool) (pend : Nat) : Bytes :=
  let w (x : Word) : Bytes := leBytes 4 x.toNat
  c.gp.toList.flatMap w ++ leBytes 4 (c.pc.toNat + 2 ^ 15 * b2n bank) ++ w c.imm ++ w c.aluOpb ++ w c.aluRes ++ w c.aluFlags ++
  w c.macOpb ++ leBytes 4 (c.acc.toNat % 2 ^ 32) ++ leBytes 4 (c.acc.toNat / 2 ^ 32 % 2 ^ 32) ++ leBytes 4 (c.acc.toNat / 2 ^ 64) ++
  w c.macCfg ++ w c.macFlags ++ w c.chkPoly ++ w c.chkCfg ++ w c.chkCrc ++ w c.chkPar ++ w c.chkRev ++
  (List.finRange 4).flatMap (fun n => w c.agBase[n] ++ w c.agIdx[n] ++ w c.agMod[n] ++ w c.agCfg[n]) ++
  w c.lsAddr ++ w c.ldRes ++ w c.rptStart ++ w c.rptEnd ++ w c.rptCount ++ w c.rptState ++ w c.imgSel ++ w c.imgAddr ++
  w c.imgRes ++ w c.brTarget ++ w c.brLink ++ leBytes 8 c.evtd.toNat ++ leBytes 4 pend ++ zeros 8

/-- The sockets that a frame holds. -/
def frameCtx (b : Bytes) : Ctx :=
  let w (o : Nat) : Word := BitVec.ofNat 32 (fieldAt b o 4)
  { gp := Vector.ofFn (fun n => w (4 * n.val)), pc := BitVec.ofNat 15 (fieldAt b 128 4), imm := w 132, aluOpb := w 136
    aluRes := w 140, aluFlags := w 144, macOpb := w 148
    acc := BitVec.ofNat 72 (fieldAt b 152 4 + 2 ^ 32 * fieldAt b 156 4 + 2 ^ 64 * fieldAt b 160 1)
    macCfg := w 164, macFlags := w 168, chkPoly := w 172, chkCfg := w 176, chkCrc := w 180, chkPar := w 184, chkRev := w 188
    agBase := Vector.ofFn (fun n => w (192 + 16 * n.val)), agIdx := Vector.ofFn (fun n => w (196 + 16 * n.val))
    agMod := Vector.ofFn (fun n => w (200 + 16 * n.val)), agCfg := Vector.ofFn (fun n => w (204 + 16 * n.val))
    lsAddr := w 256, ldRes := w 260, rptStart := w 264, rptEnd := w 268, rptCount := w 272, rptState := w 276
    imgSel := w 280, imgAddr := w 284, imgRes := w 288, brTarget := w 292, brLink := w 296
    evtd := BitVec.ofNat 64 (fieldAt b 300 8) }

/-- Save the running context to the frame of slot `f`, complemented for copy B (R211, R301). -/
def saveFrame (f : Fin 4) (i : Inst) (st : Stall) : Stall :=
  { st with mem := Mem.putAll st.mem (frameAddr f) ((frameBytes st.ctx i.bank (pendBits i)).map (held i)) }

/-- Restore the context of slot `f` (R211, R301). -/
def loadFrame (f : Fin 4) (i : Inst) (st : Stall) : Stall :=
  { st with ctx := frameCtx ((Mem.read st.mem (frameAddr f) 320).map (held i)) }

/-- The context of an instance at its start (R210): everything zero, at its entry bundle. -/
def startCtx (entry : BitVec 15) : Ctx := { Ctx.zero with pc := entry }

end Sys2Proof.Machine
end

