-- ==== Sys2Proof/Machine/Chan.lean ====
section
/-! DEFINITION. Channels: entries, states, image layout, input data, triggers (Channel Table and Warden; the
state tables of the field and network chapters; Event triggers of Tasks, Cycle and Modes). -/

namespace Sys2Proof.Machine

/-! ### Entries (R387, R391, R392) -/

/-- CLASS. -/
def eClass (e : Bytes) : Nat := bitsOf (fieldAt e 0 1) 3 0
/-- FORM. -/
def eForm (e : Bytes) : Nat := bitsOf (fieldAt e 0 1) 5 4
/-- OWNER. -/
def eOwner (e : Bytes) : BitVec 7 := BitVec.ofNat 7 (fieldAt e 2 1)
/-- IMG_BIT. -/
def eImgBit (e : Bytes) : Nat := bitsOf (fieldAt e 3 1) 2 0
/-- STOP_ACT. -/
def eStopAct (e : Bytes) : Bool := bitAt e 3 3
/-- SAFE_ACT. -/
def eSafeAct (e : Bytes) : Bool := bitAt e 3 4
/-- CLAIM_AWARE. -/
def eClaimAware (e : Bytes) : Bool := bitAt e 3 5
/-- LENGTH. -/
def eLength (e : Bytes) : Nat := fieldAt e 4 2
/-- STOP_VALUE. -/
def eStopValue (e : Bytes) : Word := BitVec.ofNat 32 (fieldAt e 8 4)
/-- SAFE_VALUE. -/
def eSafeValue (e : Bytes) : Word := BitVec.ofNat 32 (fieldAt e 12 4)

/-- Ihloz SLOT. -/
def eSlot (e : Bytes) : Nat := fieldAt e 16 1
/-- Ihloz NODE. -/
def eNode (e : Bytes) : Nat := bitsOf (fieldAt e 17 1) 4 0
/-- CAN CONTROLLER. -/
def eController (e : Bytes) : Nat := bitsOf (fieldAt e 16 1) 1 0
/-- CAN IDE. -/
def eIde (e : Bytes) : Bool := bitAt e 17 0
/-- CAN FDF. -/
def eFdf (e : Bytes) : Bool := bitAt e 17 1
/-- CAN BRS. -/
def eBrs (e : Bytes) : Bool := bitAt e 17 2
/-- CAN IDENTIFIER. -/
def eIdentifier (e : Bytes) : Nat := bitsOf (fieldAt e 18 4) 28 0
/-- CAN DLC. -/
def eDlc (e : Bytes) : Nat := bitsOf (fieldAt e 25 1) 3 0
/-- CAN CLAIM_OFFSET. -/
def eClaimOffset (e : Bytes) : Nat := bitsOf (fieldAt e 28 1) 5 0
/-- Ethernet PORT. -/
def ePort (e : Bytes) : Nat := bitsOf (fieldAt e 16 1) 0 0
/-- Ethernet QUEUE. -/
def eQueue (e : Bytes) : Nat := bitsOf (fieldAt e 17 1) 2 0
/-- Ethernet MATCH: UDP over IPv4. -/
def eUdp (e : Bytes) : Bool := bitAt e 18 0
/-- Ethernet KEY. -/
def eKey (e : Bytes) : Nat := fieldAt e 32 2

/-- An Ihloz class. -/
def isIhloz (e : Bytes) : Bool := eClass e = 5 || eClass e = 6
/-- A CAN class. -/
def isCan (e : Bytes) : Bool := eClass e = 7 || eClass e = 8
/-- An Ethernet class. -/
def isEth (e : Bytes) : Bool := eClass e = 9 || eClass e = 10
/-- A network class. -/
def isNet (e : Bytes) : Bool := decide (5 ≤ eClass e) && decide (eClass e ≤ 10)
/-- An output class. -/
def isOut (e : Bytes) : Bool := [2, 4, 6, 8, 10].contains (eClass e)

/-- PAY_OFFSET of a network entry. -/
def ePayOffset (e : Bytes) : Nat :=
  if isIhloz e then fieldAt e 18 2 else if isCan e then bitsOf (fieldAt e 22 1) 6 0 else fieldAt e 34 2
/-- PAY_BIT of a network entry. -/
def ePayBit (e : Bytes) : Nat :=
  if isIhloz e then bitsOf (fieldAt e 20 1) 2 0
  else if isCan e then bitsOf (fieldAt e 23 1) 2 0 else bitsOf (fieldAt e 36 1) 2 0
/-- REMOTE of a loose entry. -/
def eRemote (e : Bytes) : Nat := if isCan e then fieldAt e 24 1 else fieldAt e 37 1
/-- TIME_MS of a loose entry. -/
def eTimeMs (e : Bytes) : Nat := if isCan e then fieldAt e 26 2 else fieldAt e 38 2

/-- Payload bytes of a network entry: LENGTH, or the one byte of its bit. -/
def ePayLength (e : Bytes) : Nat := if eForm e = 0 then 1 else eLength e

/-- The class limit of LENGTH (R392). -/
def classLimit (e : Bytes) : Nat :=
  if isIhloz e then 1024 else if isCan e then (if eFdf e then 64 else 8) else if eUdp e then 1472 else 1500

/-- Data bytes of a CAN frame by DLC (R509). -/
def dlcBytes (fdf : Bool) (dlc : Nat) : Nat :=
  if dlc ≤ 8 then dlc
  else if !fdf then 8
  else if dlc = 9 then 12 else if dlc = 10 then 16 else if dlc = 11 then 20 else if dlc = 12 then 24
  else if dlc = 13 then 32 else if dlc = 14 then 48 else 64

/-- Two entries belong to one CAN_TX frame (R521). -/
def sameCanFrame (a b : Bytes) : Bool :=
  eClass a = 8 && eClass b = 8 && eController a = eController b && eIde a = eIde b && eFdf a = eFdf b &&
  eIdentifier a = eIdentifier b

/-- The pinned CAN_TX channels of one frame, lowest channel ID first (R521). -/
def canFrameChans (s : State) (e : Bytes) : List (Nat × Bytes) :=
  s.chan.pinned.filterMap (fun p => match p.2 with
    | some x => if sameCanFrame x e then some (p.1, x) else none
    | none => none)

/-- Data bytes of the frame of a CAN_TX entry: the DLC is that of its lowest pinned channel (R521). -/
def canFrameBytes (s : State) (e : Bytes) : Nat :=
  match canFrameChans s e with
  | f :: _ => dlcBytes (eFdf f.2) (eDlc f.2)
  | [] => dlcBytes (eFdf e) (eDlc e)

/-- CLASS or FORM is INVALID (Table 1 of Channel Table and Warden). -/
def eBadKind (e : Bytes) : Bool := decide (10 < eClass e) || eForm e = 3

/-- A field of the entry lies outside its range (R391, R392, R424, R524). -/
def eBadField (s : State) (id : Nat) (e : Bytes) : Bool :=
  let b16 (k : Nat) : Bool := bitAt e 16 k
  match eClass e with
  | 1 => let f := bitsOf (fieldAt e 17 1) 3 0
         f = 0 || (b16 3 && (decide (fieldAt e 18 2 < 2) || fieldAt e 20 2 = 0)) || (b16 4 && fieldAt e 22 2 = 0) ||
         (b16 2 && (decide (8 ≤ id) || bitAt (block s 0x0301) 8 0))
  | 2 => (b16 0 && fieldAt e 17 1 = 0) ||
         (b16 1 && (decide (fieldAt e 18 2 < 20) || decide (10000 < fieldAt e 18 2)))
  | 3 => decide (1000 < fieldAt e 18 2)
  | 4 => false
  | 0 => false
  | _ =>
    (eForm e != 0 && (eLength e = 0 || decide (classLimit e < eLength e))) ||
    decide (classLimit e < ePayOffset e + ePayLength e) ||
    (eClass e = 5 && fieldAt e 21 1 = 0) || (eClass e = 6 && eNode e != 0) ||
    (isCan e && ((eBrs e && !eFdf e) || (!eIde e && decide (2048 ≤ eIdentifier e)))) ||
    ((eClass e = 7 || eClass e = 9) && eTimeMs e = 0) ||
    (eClass e = 8 && eClaimAware e && decide (canFrameBytes s e < eClaimOffset e + 5))

/-- The class that an ID must have, none for IDs from 160 on (R388). -/
def classOf (id : Nat) : Option Nat :=
  if id < 64 then some 1 else if id < 128 then some 2 else if id < 144 then some 3 else if id < 160 then some 4
  else none

/-- A direct class elsewhere, or another class at a direct ID (R388). -/
def eMismatch (id : Nat) (e : Bytes) : Bool :=
  match classOf id with
  | some c => eClass e != c
  | none => decide (1 ≤ eClass e) && decide (eClass e ≤ 4)

/-- The channel-map variant in force (R394). -/
def variantNow (s : State) : BitVec 3 :=
  ((Tab.find s.prof.table s.prof.active.toNat).map (fun p => p.variant)).getD 0

/-- A direct channel. -/
def isDirect (id : Nat) : Bool := id < 160

/-- The entry is pinned (R402). -/
def isPinned (s : State) (id : Nat) : Bool := (Tab.find s.chan.pinned id).isSome

/-- The pinned entry of a channel, if it has one. -/
def entryOf (s : State) (id : Nat) : Option Bytes := (Tab.find s.chan.pinned id).getD none

/-- The numbers of the pinned channels, rising. -/
def pinnedIds (s : State) : List Nat := s.chan.pinned.map (fun p => p.1)

/-! ### Ihloz slots and the pair map (R469, R576) -/

/-- The schedule in force. -/
def schedNow (s : State) : Option Sched := Tab.find s.ihloz.scheds s.ihloz.mode.toNat

/-- The number of this node (block 0x0401). -/
def ownNode (s : State) : BitVec 5 := BitVec.ofNat 5 (fieldAt (block s 0x0401) 1 1)

/-- The STATE slots of a node, in order. -/
def stateSlots (c : Sched) (node : BitVec 5) : List Nat :=
  ((List.range c.slots.length).zip c.slots).filterMap
    (fun p => if p.2.sender = node && !p.2.freight then some p.1 else none)

/-- Nodes of pair q and their unit IDs, when valid (Table 5 of Hot Standby). -/
def pairEntry (s : State) (q : Nat) : Option (BitVec 5 × BitVec 5 × Nat × Nat) :=
  let b := block s 0x0502
  if bitAt b (8 + 4 * q) 7 then
    some (BitVec.ofNat 5 (fieldAt b (8 + 4 * q) 1), BitVec.ofNat 5 (fieldAt b (9 + 4 * q) 1),
      bitsOf (fieldAt b (10 + 4 * q) 1) 5 0, bitsOf (fieldAt b (11 + 4 * q) 1) 5 0)
  else none

/-- The pair that a node belongs to. -/
def pairOfNode (s : State) (n : BitVec 5) : Option Nat :=
  (List.range 16).find? (fun q => ((pairEntry s q).map (fun p => p.1 = n || p.2.1 = n)).getD false)

/-- The node of pair q that governs in the current cycle, by the claims its valid copies carry (R576). -/
def governor (s : State) (q : Nat) : Option (BitVec 5) :=
  match pairEntry s q with
  | none => none
  | some (x, y, ux, uy) =>
    let high := Tab.getD s.ihloz.high q 0
    let carries (n : BitVec 5) : Bool := Tab.find s.ihloz.claims n.toNat = some high
    if carries x && carries y then (if uy < ux then some x else some y)
    else if carries x then some x else if carries y then some y else none

/-- The slot that supplies an IHLOZ_RX channel whose node is governed by `n`: the one of equal rank (R576). -/
def rankSlot (c : Sched) (slot : Nat) (named n : BitVec 5) : Option Nat :=
  if named = n then (if (stateSlots c named).contains slot then some slot else none)
  else ((stateSlots c named).idxOf? slot).bind (fun r => (stateSlots c n)[r]?)

/-- The node that supplies an IHLOZ_RX channel now: the governing node of its pair, else its named node. -/
def supplier (s : State) (e : Bytes) : BitVec 5 :=
  let n := BitVec.ofNat 5 (eNode e)
  ((pairOfNode s n).bind (governor s)).getD n

/-- The slot record behind an Ihloz channel in the schedule in force, none when SLOT_FOREIGN (R499). -/
def slotOfChan (s : State) (e : Bytes) : Option (Nat × Slot) :=
  (schedNow s).bind (fun c =>
    let k := if eClass e = 6 then rankSlot c (eSlot e) (ownNode s) (ownNode s)
      else rankSlot c (eSlot e) (BitVec.ofNat 5 (eNode e)) (supplier s e)
    k.bind (fun k => (c.slots[k]?).map (fun x => (k, x))))

/-! ### States (R395) -/

/-- States of a digital input (Table 4 of Digital Inputs and Outputs). -/
def diCodes (s : State) (id : Nat) : List Nat :=
  match s.field.di[id]?, s.field.diGrp[id / 8]? with
  | some d, some g =>
    (if g.low then [0x10] else []) ++ (if g.refFail then [0x11] else []) ++ (if d.unsettled then [0x12] else []) ++
    (if d.chatter then [0x13] else []) ++ (if d.stuck then [0x14] else []) ++ (if d.overrate then [0x15] else [])
  | _, _ => []

/-- States of a digital output (Table 7 of Digital Inputs and Outputs). -/
def doCodes (s : State) (id : Nat) : List Nat :=
  match s.field.dout[id - 64]?, s.field.doGrp[(id - 64) / 8]? with
  | some d, some g =>
    (if g.low then [0x18] else []) ++ (if g.tripped then [0x19] else []) ++ (if d.thermal = 1 then [0x1A] else []) ++
    (if d.thermal = 2 then [0x1B] else []) ++ (if d.limiting then [0x1C] else []) ++
    (if d.mismatch then [0x1D] else [])
  | _, _ => []

/-- States of an Ihloz channel (Table 6 of Ihloz Time-Triggered Network). -/
def ihlozCodes (s : State) (e : Bytes) : List Nat :=
  let st := s.ihloz.state
  (if (eClass e = 5 && st != 5 && st != 6) || (eClass e = 6 && st != 5) then [0x30] else []) ++
  (match slotOfChan s e with
   | none => [0x31]
   | some (_, x) => if x.length < ePayOffset e + ePayLength e then [0x32] else [])

/-- CAN ENABLE of controller c (block 0x0410). -/
def canEnabled (s : State) (c : Nat) : Bool := c < nCan s && bitAt (block s 0x0410) (8 + 32 * c) 0

/-- States of a CAN channel (the state table of CAN Controllers). -/
def canCodes (s : State) (id : Nat) (e : Bytes) : List Nat :=
  let c := eController e
  let k := s.can[c]?
  (if (k.map (fun x => decide (x.state = 2))).getD false || !canEnabled s c then [0x33] else []) ++
  (if (k.map (fun x => decide (x.state = 1))).getD false then [0x34] else []) ++
  (if eClass e = 7 then (if has s.chan.short id then [0x35] else [])
   else if canFrameBytes s e < ePayOffset e + ePayLength e then [0x35] else [])

/-- Ethernet ENABLE of port p (block 0x0420). -/
def ethEnabled (s : State) (p : Nat) : Bool := bitAt (block s 0x0420) (8 + 32 * p) 0

/-- States of an Ethernet channel (the state table of Ethernet and Time). -/
def ethCodes (s : State) (id : Nat) (e : Bytes) : List Nat :=
  let up := (s.eth[ePort e]?.map (fun p => p.link)).getD false
  (if !up || !ethEnabled s (ePort e) then [0x36] else []) ++
  (if eClass e = 9 && has s.chan.short id then [0x37] else [])

/-- The channel names a unit that the variant lacks (R7, R395). -/
def chanAbsent (s : State) (id : Nat) (e : Option Bytes) : Bool :=
  (decide (128 ≤ id) && decide (id < 160) && !hasLoop s) ||
  (match e with
   | some e => (isCan e && decide (nCan s ≤ eController e)) || ((eClass e = 3 || eClass e = 4) && !hasLoop s)
   | none => false)

/-- Every state that applies to a channel whose entry is as given (Table 5 of Channel Table and Warden), but
for LAYOUT. -/
def chanCodes (s : State) (id : Nat) (e : Option Bytes) : List Nat :=
  (if chanAbsent s id e then [1] else []) ++
  match e with
  | none => [2]
  | some e =>
    if eBadKind e then [3]
    else
      (if eBadField s id e then [3] else []) ++ (if eMismatch id e then [4] else []) ++
      (if (fieldAt e 1 1).testBit (variantNow s).toNat then [] else [5]) ++
      (if isNet e && !isOut e && has s.chan.stale id then [7] else []) ++
      (match eClass e with
       | 1 => diCodes s id
       | 2 => doCodes s id
       | 3 => ((s.loops[id - 128]?).map (fun l => l.states.map BitVec.toNat)).getD []
       | 4 => ((s.loops[id - 128]?).map (fun l => l.states.map BitVec.toNat)).getD []
       | 5 => ihlozCodes s e
       | 6 => ihlozCodes s e
       | 7 => canCodes s id e
       | 8 => canCodes s id e
       | 9 => ethCodes s id e
       | 10 => ethCodes s id e
       | _ => [])

/-- The lowest code of a list, zero for none. -/
def lowest : List Nat → Nat
  | [] => 0
  | a :: l => l.foldl min a

/-- The state of a channel (R395). -/
def chanState (s : State) (id : Nat) : Nat := lowest (chanCodes s id (entryOf s id))

/-- The state that a channel would have under a channel-map variant (R341, R395). -/
def chanStateAt (v : BitVec 3) (s : State) (id : Nat) : Nat :=
  match entryOf s id with
  | none => chanState s id
  | some e => lowest (((chanCodes s id (some e)).filter (fun c => c != 5)) ++ (if (fieldAt e 1 1).testBit v.toNat then [] else [5]))

/-- A DI channel with a usable entry (R703). -/
def diUsable (s : State) (id : Nat) : Option Bytes :=
  (entryOf s id).bind (fun e => if eBadKind e || eBadField s id e || eMismatch id e then none else some e)

/-! ### Triggers (R72 to R75) -/

/-- The enables of all tasks. -/
def enableMask (s : State) : BitVec 128 := BitVec.ofNat 128 (allTasks.foldl (fun n t => n + 2 ^ t.toNat * b2n (task s t).enabled) 0)

/-- A task is enabled for a release now: until the base tick of a profile switch by the enables before it (R54, R340). -/
def enabledNow (s : State) (t : BitVec 7) : Bool :=
  match s.prof.before with
  | some m => m.getLsbD t.toNat
  | none => (task s t).enabled

/-- The enable of a task is set or cleared by TASK_CONTROL (R54). -/
def setEnable (t : BitVec 7) (on : Bool) (s : State) : State :=
  let bit := BitVec.ofNat 128 (2 ^ t.toNat)
  modTask t (fun k => { k with enabled := on })
    { s with prof := { s.prof with before := s.prof.before.map (fun m => if on then m ||| bit else m &&& ~~~bit) } }

/-- A trigger of event task t arrives (R73, R75). A held instance discards it (R94); a task held at entry with no
instance takes its next release (R95). -/
def trigger (t : BitVec 7) (s : State) : State :=
  let k := task s t
  if !(enabledNow s t && runs s && alive s && (taskRec s t).isSome) || (k.held && !(k.heldEntry && k.inst.isNone)) then s
  else if k.latch then
    let n := satAdd 16 k.ctr.merged 1
    raiseTask t 0x0103 0 n
      (modTask t (fun k => { k with latchMerged := true, ctr := { k.ctr with merged := n } }) s)
  else modTask t (fun k => { k with latch := true, latchMerged := false }) s

/-- The event tasks of the project whose trigger is of a type, condition and selector. -/
def triggered (s : State) (type : Nat) (p : TaskAttr → Bool) : List (BitVec 7) :=
  if !s.proj.loaded then []
  else (s.proj.cur.tasks.filter (fun r =>
    isEvent r.attr.taskId && r.attr.triggerType.toNat = type && p r.attr)).map (fun r => r.attr.taskId)

/-- Trigger every task of a list. -/
def triggerAll (ts : List (BitVec 7)) (s : State) : State := ts.foldl (fun s t => trigger t s) s

/-- A trigger of a condition on a channel (Table 5 of Tasks, Cycle and Modes). -/
def fireChan (id cond : Nat) (s : State) : State :=
  triggerAll (triggered s 1 (fun a => a.triggerSel.toNat = id && a.triggerCond.toNat = cond)) s

/-- A sample or reception changed the channel's value; whether it rose or fell is given, or (for values of
which the manual does not say what rising is) is a free value (R72, log entry 5). -/
def fireChange (id : Nat) (rose : Option Bool) (s : State) : State :=
  let s := fireChan id 0 s
  match rose with
  | some true => fireChan id 1 s
  | some false => fireChan id 2 s
  | none =>
    let n := takeFree s
    let s := n.2
    let s := if Config.freeBit n.1 then fireChan id 1 s else s
    let m := takeFree s
    if Config.freeBit m.1 then fireChan id 2 m.2 else m.2

/-! ### Reported states and LAYOUT (R390, R397) -/

/-- Report the state of a pinned channel (R397). -/
def refreshChan (s : State) (id : Nat) : State :=
  if !isPinned s id then s
  else
    let new := chanState s id
    let old := (Tab.find s.chan.state id).map BitVec.toNat
    if old = some new then s
    else
      let s := { s with chan := { s.chan with state := Tab.set s.chan.state id (BitVec.ofNat 8 new) } }
      let faultFrom (p : Nat) (s : State) : State := fireChan id 3 (raiseChan id 0x0401 (new + 2 ^ 8 * p) s)
      match old with
      | none => if new = 0 || new = 5 then s else faultFrom 0xFF s
      | some o =>
        if o = 5 || new = 5 then s
        else if new = 0 then raiseChan id 0x0402 o s
        else faultFrom o s

/-- First bit and number of bits of a channel's data in an image (R389), none for LAYOUT; `input` names the
input image. Table 2 has no row for class NONE: it is taken as LAYOUT (DESIGN CHOICE, log entry 118). -/
def layoutBits (id : Nat) (e : Bytes) (input : Bool) (off : Nat) : Option (Nat × Nat) :=
  let withStatus (n : Nat) : Option (Nat × Nat) :=
    let dir := input || eClass e = 1 || eClass e = 3
    some (8 * off, if eForm e = 2 && dir then 8 * n + 8 else 8 * n)
  match eClass e, eForm e with
  | 1, 0 => some (8 * off + id % 8, 1)
  | 2, 0 => some (8 * off + id % 8, 1)
  | 1, _ => withStatus (if bitAt e 16 2 then 4 else 1)
  | 2, _ => withStatus 1
  | 3, 0 => none
  | 4, 0 => none
  | 3, _ => withStatus 4
  | 4, _ => withStatus 4
  | 0, _ => none
  | _, 0 => some (8 * off + eImgBit e, 1)
  | _, _ => withStatus (eLength e)

/-- A map entry puts its channel in LAYOUT for the task (R390). -/
def inLayout (s : State) (m : MapEntry) (input : Bool) (size : Nat) : Bool :=
  match entryOf s m.chan.toNat with
  | none => false
  | some e =>
    if eBadKind e then false
    else match layoutBits m.chan.toNat e input m.offset.toNat with
      | none => true
      | some (b, n) => decide (8 * size < b + n)

/-- A channel is in LAYOUT for a task, by an entry of either of its maps (R390). -/
def inLayoutTask (s : State) (r : TaskRec) (id : Nat) : Bool :=
  r.inMap.any (fun m => m.chan.toNat = id && inLayout s m true r.inSize) ||
  r.outMap.any (fun m => m.chan.toNat = id && inLayout s m false r.outSize)

/-- The tasks and channels in LAYOUT now. -/
def layoutNow (s : State) : List (Nat × Nat) :=
  if !s.proj.loaded then []
  else (s.proj.cur.tasks.flatMap (fun r =>
    let bad := (r.inMap.filter (fun m => inLayout s m true r.inSize)) ++
      (r.outMap.filter (fun m => inLayout s m false r.outSize))
    bad.map (fun m => (r.attr.taskId.toNat, m.chan.toNat)))).eraseDups

/-- Report entries into LAYOUT and their end (R397). -/
def refreshLayout (s : State) : State :=
  let old := s.chan.layout
  let new := layoutNow s
  let s := { s with chan := { s.chan with layout := new } }
  let flags (t : Nat) : Nat := 2 ^ 16 * t + 2 ^ 23
  let s := new.foldl (fun s p =>
    if old.contains p then s
    else fireChan p.2 3 (raiseChan p.2 0x0401 (6 + 2 ^ 8 * chanState s p.2 + flags p.1) s)) s
  old.foldl (fun s p =>
    if new.contains p || !isPinned s p.2 then s
    else raiseChan p.2 0x0402 (6 + flags p.1) s) s

/-- Report the states of every pinned channel, and LAYOUT. -/
def refreshChans (s : State) : State := refreshLayout ((pinnedIds s).foldl refreshChan s)

/-- Report the states of the pinned channels that a test selects. -/
def refreshWhere (p : Nat → Option Bytes → Bool) (s : State) : State :=
  (s.chan.pinned.filter (fun c => p c.1 c.2)).foldl (fun s c => refreshChan s c.1) s

/-! ### Input data (R37, R64, R389, R395) -/

/-- The mean of the last N conversions, rounded to the nearest nA (R440). -/
def loopMean (conv : List Int) (n : Nat) : Int :=
  let l := conv.take (max n 1)
  roundDiv l.sum (max l.length 1)

/-- The current value of a channel with a usable entry, as the bytes of its VALUE form (the bit in bit 0 for BIT
forms). -/
def chanValue (s : State) (id : Nat) (e : Bytes) : Bytes :=
  match eClass e with
  | 1 =>
    match s.field.di[id]? with
    | some d =>
      if bitAt e 16 2 && eForm e != 0 then leBytes 4 d.count.toNat else [if d.level = some true then 1#8 else 0#8]
    | none => [0#8]
  | 2 => [if ((s.field.dout[id - 64]?).map (fun d => d.readback)).getD false then 1#8 else 0#8]
  | 3 => leBytes 4 (unsigned 32 (((s.loops[id - 128]?).map (fun l => loopMean l.conv (fieldAt e 18 2))).getD 0))
  | 4 => leBytes 4 (unsigned 32 (((s.loops[id - 128]?).map (fun l => loopMean l.conv 1)).getD 0))
  | 5 => if s.ihloz.state = 5 || s.ihloz.state = 6 then Tab.getD s.chan.locked id [] else Tab.getD s.chan.rx id []
  | 7 => Tab.getD s.chan.rx id []
  | 9 => Tab.getD s.chan.rx id []
  | _ => Tab.getD s.chan.tx id []

/-- Data reads zero in these states (Table 5 of Channel Table and Warden; Table 2 of Current Loops; Table 6 of
Ihloz). -/
def zeroState (c : Nat) : Bool := (decide (1 ≤ c) && decide (c ≤ 5)) || c = 0x20 || c = 0x31 || c = 0x32

/-- Write `n` bits of `v` at bit `b` of an image. -/
def putBits (img : Bytes) (b n : Nat) (v : Bytes) : Bytes :=
  if n = 1 then
    let old := byteAt img (b / 8)
    let mask : Byte := 1#8 <<< (b % 8)
    patch img (b / 8) [if (byteAt v 0).getLsbD 0 then old ||| mask else old &&& ~~~mask]
  else patch img (b / 8) (padTo (n / 8) v)

/-- The bits of the input image that one map entry writes, and the entry of its channel (R389, R390, R396). -/
def inBits (s : State) (r : TaskRec) (m : MapEntry) : Option (Bytes × Nat × Nat) :=
  match entryOf s m.chan.toNat with
  | none => none
  | some e =>
    if eBadKind e || inLayoutTask s r m.chan.toNat then none
    else (layoutBits m.chan.toNat e true m.offset.toNat).map (fun p => (e, p.1, p.2))

/-- The data that one map entry puts into an input image (R389, R390, R395, R396). -/
def captureChan (s : State) (r : TaskRec) (img : Bytes) (m : MapEntry) : Bytes :=
  let id := m.chan.toNat
  match inBits s r m with
  | none => img
  | some (e, b, n) =>
    let st := chanState s id
    let v := if zeroState st then [] else chanValue s id e
    if eForm e = 2 then putBits img b n (padTo (n / 8 - 1) v ++ [BitVec.ofNat 8 st]) else putBits img b n v

/-- Unpredictable data for bits of an image of a task (R10, R374; log entry 32). -/
def freeBits (s : State) (t : BitVec 7) (b n : Nat) : Bytes :=
  if n = 1 then [Config.imageByte t.toNat s.time.net b &&& 1]
  else (List.range (n / 8)).map (fun i => Config.imageByte t.toNat s.time.net (b + 8 * i))

/-- The input image of a task, taken now; bits that two map entries write are unpredictable (R374). -/
def captureImage (s : State) (r : TaskRec) : Bytes :=
  (overlaps (r.inMap.filterMap (fun m => (inBits s r m).map (fun x => x.2)))).foldl
    (fun img x => putBits img x.1 x.2 (freeBits s r.attr.taskId x.1 x.2)) (r.inMap.foldl (captureChan s r) (zeros r.inSize))

/-- The bits that the channels of an output image map cover (R701). -/
def coverBits (s : State) (r : TaskRec) : List (Nat × Nat × Nat) :=
  r.outMap.map (fun m =>
    let id := m.chan.toNat
    let whole := (id, 8 * m.offset.toNat, 8)
    match entryOf s id with
    | none => whole
    | some e =>
      if eBadKind e then whole
      else match layoutBits id e false m.offset.toNat with
        | none => whole
        | some (b, n) => (id, b, min n (8 * r.outSize - b)))

/-- The output channels that a task drives: pinned, of an output class, owned by it, mapped in its output image
and not in LAYOUT (R66, R390); with the first bit and bits of the data. -/
def ownedChans (s : State) (r : TaskRec) : List (Nat × Bytes × Nat × Nat) :=
  r.outMap.filterMap (fun m =>
    let id := m.chan.toNat
    match entryOf s id with
    | some e =>
      if eBadKind e || !isOut e || eOwner e != r.attr.taskId || inLayoutTask s r id then none
      else (layoutBits id e false m.offset.toNat).map (fun p => (id, e, p.1, p.2))
    | none => none)

/-- The value of `n` bits at bit `b` of an image, as bytes (one byte for one bit). -/
def getBits (img : Bytes) (b n : Nat) : Bytes :=
  if n = 1 then [if bitAt img (b / 8) (b % 8) then 1#8 else 0#8] else (img.drop (b / 8)).take (n / 8)

/-- The data that a committed output image gives a channel; where another output map entry of the task takes some of its bits, it is
unpredictable (R374). -/
def outBits (s : State) (r : TaskRec) (img : Bytes) (b n : Nat) : Bytes :=
  if 1 < ((coverBits s r).filter (fun x => (shared (b, n) x.2).2 != 0)).length then freeBits s r.attr.taskId b n else getBits img b n

end Sys2Proof.Machine
end

