-- ==== Sys2Proof/Machine/Outputs.lean ====
section
/-! DEFINITION. Output stages: the applied state of direct outputs and the data of network outputs, by mode,
channel state and commits (R66, R67, R89, R127, R395, R428 to R431, R443 to R445, R702). -/

namespace Sys2Proof.Machine

/-- Change digital output n (DO 64 + n). -/
def modDo (n : Nat) (f : DoCh → DoCh) (s : State) : State :=
  { s with field := { s.field with dout := vmod s.field.dout n f } }

/-- Change loop channel i (channel 128 + i). -/
def modLoop (i : Nat) (f : LoopCh → LoopCh) (s : State) : State := { s with loops := vmod s.loops i f }

/-- The driven state of an output: its applied state after protection, and open while the analog/power die holds
direct outputs de-energised (R428, R434, R626). -/
def driven (f : FieldSt) (n : Nat) : Bool :=
  match f.dout[n]?, f.doGrp[n / 8]? with
  | some d, some g => d.applied && d.thermal = 0 && !g.open_ && !f.cut
  | _, _ => false

/-- A change of outputs, with the task time of every switching edge that it makes noted (R434). -/
def withEdges (f : State → State) (s : State) : State :=
  let s' := f s
  let mark (n : Nat) (d : DoCh) : DoCh :=
    if driven s.field n = driven s'.field n then d else { d with edge := s.time.task, rbRun := 0 }
  { s' with field := { s'.field with dout := s'.field.dout.mapFinIdx (fun n d _ => mark n d) } }

/-- A change of outputs at a base tick or at entry to SAFE: group g switches g µs after group 0 (R429). -/
def staggered (f : State → State) (s : State) : State :=
  let s' := f s
  let mark (n : Nat) (d : DoCh) : DoCh :=
    if driven s.field n = driven s'.field n then d else { d with edge := s'.time.task + n / 8 * usUnit, rbRun := 0 }
  { s' with field := { s'.field with dout := s'.field.dout.mapFinIdx (fun n d _ => mark n d) } }

/-- The output converter code of a target in nA (R445). -/
def aoCode (target : Int) : Half :=
  BitVec.ofNat 16 (min 65535 (roundDiv (target * 65536) 24000000).toNat)

/-- The applied value clamped to the range of its mode (R443). -/
def aoClamp (passive : Bool) (v : Int) : Int := min 24000000 (max (if passive then 3500000 else 0) v)

/-- PASSIVE of the pinned AO entry. -/
def aoPassive (s : State) (i : Nat) : Bool := ((entryOf s (128 + i)).map (fun e => bitAt e 16 0)).getD false

/-- SLEW of the pinned AO entry in µA per ms, 0 for no limit. -/
def aoSlew (s : State) (i : Nat) : Nat := ((entryOf s (128 + i)).map (fun e => fieldAt e 18 2)).getD 0

/-- Where the target moves to: the applied value, or the de-energised current, which LOOP_LINK_FAIL gives too (R443, R447 to
R449). -/
def aoGoal (s : State) (i : Nat) (l : LoopCh) : Int :=
  match (if l.linkOff || l.states.contains 0x20#8 then none else l.applied) with
  | some v => v
  | none => if aoPassive s i then 3500000 else 0

/-- The target takes a value at task time `t` in µs; what it was stays known for the conversion windows that reach back to it (R445,
R449). -/
def aoMove (t : Nat) (v : Int) (l : LoopCh) : LoopCh :=
  let past := l.past.filter (fun p => decide (t < p.1 + 2000))
  { l with past := if v = l.target then past else (t, l.target) :: past, target := v, code := aoCode v }

/-- The target reaches its goal at once (R444). -/
def aoJump (i : Nat) (s : State) : State := modLoop i (fun l => aoMove (nowUs s) (aoGoal s i l) l) s

/-- Apply a value to direct output `id`; none de-energises it (R428, R431, R443, R702). -/
def applyDirect (id : Nat) (v : Option Word) (s : State) : State :=
  if s.field.frozen then s
  else if 64 ≤ id ∧ id < 128 then
    let on := (v.map (fun w => w.getLsbD 0)).getD false
    withEdges (modDo (id - 64) (fun d => { d with
      applied := on
      thermal := if on then d.thermal else 0
      cooled := if on then d.cooled else false
      waited := if on then d.waited else false })) s
  else if 144 ≤ id ∧ id < 160 then
    let i := id - 128
    let s := modLoop i (fun l => { l with applied := v.map (fun w => aoClamp (aoPassive s i) w.toInt) }) s
    if aoSlew s i = 0 then aoJump i s else s
  else s

/-- A change of digital output `id` that has ended a thermal shutdown is reported (R431, R435). -/
def endThermal (id : Nat) (f : State → State) (s : State) : State :=
  let thermal (s : State) : BitVec 2 := ((s.field.dout[id - 64]?).map (fun d => d.thermal)).getD 0
  let s' := f s
  if isPinned s id && 64 ≤ id && thermal s != thermal s' then refreshChan s' id else s'

/-- The stop value of an entry; none de-energises. -/
def stopAct (e : Bytes) : Option Word := if eStopAct e then some (eStopValue e) else none

/-- The safe value of an entry; none de-energises. -/
def safeAct (e : Bytes) : Option Word := if eSafeAct e then some (eSafeValue e) else none

/-- What mode and channel state give an output channel under a channel-map variant, none when it follows commits (Table 11 of
Tasks, Cycle and Modes; Table 5 of Channel Table and Warden; R341, R573, R574). -/
def governedAt (v : BitVec 3) (s : State) (id : Nat) : Option (Option Word) :=
  let m := s.mode.mode
  let stopMode (m : BitVec 4) : Bool := m = mStop || m = mService
  match entryOf s id with
  | none => some none
  | some e =>
    if m = mStartUp || (s.field.cut && isDirect id) then some none
    else
      let st := chanStateAt v s id
      if 1 ≤ st ∧ st ≤ 4 then some none
      else if m = mSafe then some (safeAct e)
      else if stopMode m || st = 5 then some (stopAct e)
      else if m = mTrack then
        if s.pair.takeoverFail && isDirect id then some (safeAct e)
        else if isDirect id && !s.pair.delivered.getLsbD (eOwner e).toNat then some (stopAct e)
        else match s.pair.beat with
        | some b =>
          if b.mode = mSafe then some (safeAct e) else if stopMode b.mode then some (stopAct e) else none
        | none => none
      else if s.pair.superseded && isDirect id then some (safeAct e)
      else none

/-- What mode and channel state give an output channel now. -/
def governed (s : State) (id : Nat) : Option (Option Word) := governedAt (variantNow s) s id

/-- Direct outputs DO 64 to 127 and AO 144 to 159. -/
def directOutputs : List Nat := (List.range 64).map (· + 64) ++ (List.range 16).map (· + 144)

/-- Give every direct output of a list the value that mode and channel state give it. -/
def settleOutputs (ids : List Nat) (s : State) : State :=
  ids.foldl (fun s id => match governed s id with
    | some v => endThermal id (applyDirect id v) s
    | none => s) s

/-- De-energising AOs at entry to SAFE and through the watchdog path ignores SLEW (R444). -/
def dropAos (s : State) : State :=
  (List.range 16).foldl (fun s i =>
    if ((s.loops[16 + i]?).map (fun l => l.applied.isNone)).getD false then aoJump (16 + i) s else s) s

/-- Every direct output is de-energised, whatever its settings. -/
def deenergise (s : State) : State := dropAos (directOutputs.foldl (fun s id => endThermal id (applyDirect id none) s) s)

/-- The analog/power die de-energises every direct output (R626, R629). -/
def cutOutputs (s : State) : State :=
  let s := withEdges (fun s => { s with field := { s.field with cut := true, frozen := false } }) s
  deenergise s

/-- The stop values of every direct output (R67). -/
def stopAll (s : State) : State :=
  directOutputs.foldl (fun s id => match entryOf s id with
    | some e =>
      let st := chanState s id
      endThermal id (applyDirect id (if 1 ≤ st ∧ st ≤ 4 then none else stopAct e)) s
    | none => endThermal id (applyDirect id none) s) s

/-- An operation under another entry of a channel than the one in force (R399). -/
def underEntry (id : Nat) (e : Option (Option Bytes)) (f : State → State) (s : State) : State :=
  match e with
  | none => f s
  | some e =>
    let s' := f { s with chan := { s.chan with pinned := Tab.set s.chan.pinned id e } }
    { s' with chan := { s'.chan with pinned := s.chan.pinned } }

/-- A value of a commit reaches a direct output, unless mode or channel state under its variant governs the output: under the variant in
force the output takes what they give it, under another one it stays (R66, R127, R341, R574). -/
def applyValue (v : BitVec 3) (id : Nat) (x : Word) (s : State) : State :=
  match governedAt v s id with
  | some w => if v = variantNow s then applyDirect id w s else s
  | none => applyDirect id (some x) s

/-- The values of a commit reach direct outputs, each under its variant and the entry in force at its numbering (R341, R399). -/
def applyValues (v : BitVec 3) (olds : Tab (Option Bytes)) (values : List (Nat × Word)) (s : State) : State :=
  values.foldl (fun s p => endThermal p.1 (underEntry p.1 (Tab.find olds p.1) (applyValue v p.1 p.2)) s) s

/-- The values that a committed output image gives the direct outputs a task owns (R66, R389, R390). -/
def directValues (s : State) (r : TaskRec) (img : Bytes) : List (Nat × Word) :=
  ((ownedChans s r).filter (fun c => isDirect c.1)).map
    (fun c => (c.1, BitVec.ofNat 32 (leNat (outBits s r img c.2.2.1 c.2.2.2))))

/-- The output channels that a task owns and that a channel-map variant has off (R341, R395). -/
def offChans (s : State) (r : TaskRec) (v : BitVec 3) : List Nat :=
  ((ownedChans s r).filter (fun c => !(fieldAt c.2.1 1 1).testBit v.toNat)).map (fun c => c.1)

/-- The network output channels that a task owns keep the data of its committed output image (R497), with the channel-map variant
that governs it where that is no longer the one in force (R341). -/
def storeTx (v : BitVec 3) (r : TaskRec) (img : Bytes) (s : State) : State :=
  ((ownedChans s r).filter (fun c => !isDirect c.1)).foldl (fun s c =>
    { s with chan := { s.chan with
      tx := Tab.set s.chan.tx c.1 (outBits s r img c.2.2.1 c.2.2.2)
      txEntry := Tab.del s.chan.txEntry c.1
      txVariant := if v = variantNow s then Tab.del s.chan.txVariant c.1 else Tab.set s.chan.txVariant c.1 v } }) s

/-- A stop or safe value as the data of a network channel: its first bytes, up to four, the rest zero. -/
def actBytes (e : Bytes) (v : Word) : Bytes := padTo (ePayLength e) (leBytes 4 v.toNat)

/-- The data that a network output channel supplies now, none when it supplies nothing (R67, R89, R395, R497). -/
def netOut (s : State) (id : Nat) (e : Bytes) : Option Bytes :=
  match governedAt ((Tab.find s.chan.txVariant id).getD (variantNow s)) s id with
  | some v => v.map (actBytes e)
  | none =>
    match Tab.find s.chan.tx id with
    | some b => some b
    | none => (stopAct e).map (actBytes e)

/-- The entry under which network output channel `id` is sent: the one in force at the numbering of the commit whose data it carries, unless
mode or state give it other data under that entry (R399). -/
def sendEntry (s : State) (id : Nat) (e : Option Bytes) : Option Bytes :=
  match Tab.find s.chan.txEntry id with
  | some (some o) =>
    let v := (Tab.find s.chan.txVariant id).getD (variantNow s)
    let under := { s with chan := { s.chan with pinned := Tab.set s.chan.pinned id (some o) } }
    if (governedAt v under id).isNone then some o else e
  | _ => e

/-- The module as what it sends sees it: each pinned network output channel with the entry under which it is sent (R399). -/
def sendView (s : State) : State :=
  if s.chan.txEntry.isEmpty then s
  else { s with chan := { s.chan with pinned := s.chan.pinned.map (fun p => (p.1, sendEntry s p.1 p.2)) } }

/-- The due entries of CAN frames are those of their lowest channels as now sent, one for each frame (R399, R521, R522). -/
def rekeyCan (before : State) (s : State) : State :=
  let key (k : Nat) : Option Nat :=
    (entryOf (sendView before) k).bind (fun e => (canFrameChans (sendView s) e).head?.map (fun f => f.1))
  { s with can := s.can.map (fun x => { x with
      due := (x.due.filterMap key).eraseDups
      bufs := x.bufs.map (fun b => { b with chanKey := b.chanKey.map (fun k => (key k).getD k) }) }) }

/-- Network output channels that the variant in force has off keep no older variant (R341). -/
def offTx (ids : List Nat) (s : State) : State :=
  { s with chan := { s.chan with txVariant := ids.foldl (fun t id => Tab.del t id) s.chan.txVariant } }

/-- A commit gives the network output channels of its task their data, under the variant of its instance; the frames that are due stay
due under the entries now in force (R341, R399, R497, R522). -/
def commitTx (v : BitVec 3) (full r : TaskRec) (img : Bytes) (s : State) : State :=
  let s' := storeTx v r img (if v = variantNow s then offTx (offChans s full v) s else s)
  if s.chan.txEntry.isEmpty then s' else rekeyCan s s'

/-- Place a network channel's data into a payload at PAY_OFFSET, or at its bit. -/
def placePayload (e : Bytes) (v : Bytes) (pay : Bytes) : Bytes :=
  if eForm e = 0 then putBits pay (8 * ePayOffset e + ePayBit e) 1 v else patch pay (ePayOffset e) (padTo (eLength e) v)

/-- The bytes that a payload carries for a network channel: its LENGTH bytes, or its bit. -/
def takePayload (e : Bytes) (pay : Bytes) : Bytes :=
  if eForm e = 0 then getBits pay (8 * ePayOffset e + ePayBit e) 1 else (pay.drop (ePayOffset e)).take (eLength e)

/-- Received data of a network input channel, with its CHANNEL triggers: any change is a changed value; for a
channel in BIT form a change to 1 is rising and to 0 falling; for others the manual does not say. The first reception, with no value before
it, counts as a change (R72; log entries 35, 105). -/
def receiveChan (id : Nat) (e : Bytes) (v : Bytes) (s : State) : State :=
  let old := Tab.find s.chan.rx id
  let s := { s with chan := { s.chan with rx := Tab.set s.chan.rx id v } }
  if old = some v then s
  else fireChange id (if eForm e = 0 then some (v = [1#8]) else none) s

end Sys2Proof.Machine
end

