-- ==== Sys2Proof/Machine/Retain.lean ====
section
/-! DEFINITION. The retain store: page layouts, the energy check, the operations of its controller, retained
saves and claims (Retain Store and Event Recorder; R569, R570). -/

namespace Sys2Proof.Machine

/-- The energy check of R594 at a store voltage in mV for W page writes: 1.1 mF * (V^2 - 144 V^2) against
15 µJ * W + 20 mJ, both scaled to 1e-10 J. -/
def energyOk (mv W : Nat) : Bool := decide (10000 * (15 * W + 20000) + 11 * 144000000 ≤ 11 * (mv * mv))

/-- A protected page (R593): 56 DATA bytes, SEQ, CRC. -/
def protPage (data : Bytes) (seq : Word) : Bytes :=
  let body := padTo 56 data ++ leBytes 4 seq.toNat
  body ++ leBytes 4 (crc32 body).toNat

/-- A page as stored (R591). -/
def pageOf (m : Mem) (p : Nat) : Bytes := Mem.read m (64 * p) 64

/-- A protected page is intact (R593). -/
def intact (b : Bytes) : Bool := leNat (b.drop 60) = (crc32 (b.take 60)).toNat

/-- SEQ of a protected page. -/
def pageSeq (b : Bytes) : Word := BitVec.ofNat 32 (fieldAt b 56 4)

/-- Store a page (R592). -/
def storePage (p : Nat) (b : Bytes) (r : RetSt) : RetSt := { r with mram := Mem.setAll r.mram (64 * p) (padTo 64 b) }

/-- The page as an interrupted write leaves it (R592): `done` groups of 8 bytes are new, the bits of the next group are
new where `mixed` has a one. -/
def tornPage (old new : Bytes) (done : Nat) (mixed : DWord) : Bytes :=
  let o := BitVec.ofNat 64 (leNat ((old.drop (8 * done)).take 8))
  let n := BitVec.ofNat 64 (leNat ((new.drop (8 * done)).take 8))
  (new.take (8 * done) ++ leBytes 8 ((n &&& mixed) ||| (o &&& ~~~mixed)).toNat ++ old.drop (8 * done + 8)).take 64

/-- The write of a page is interrupted (R592). -/
def tear (done : Nat) (mixed : DWord) (p : Nat × Bytes) (r : RetSt) : RetSt :=
  storePage p.1 (tornPage (pageOf r.mram p.1) (padTo 64 p.2) (min done 8) mixed) r

/-- First page of a retained copy: 1 A, 2 B (R591). -/
def copyBase (c : Nat) : Nat := if c = 2 then 12288 else 8192

/-- The copy that the next write of a pair does not leave chosen: B after A, else A (R602, R605). -/
def nextCopy (chosen : BitVec 2) : BitVec 2 := if chosen = 1 then 2 else 1

/-- SEQ of the next copy: 1 when none is chosen (R602). -/
def nextSeq (c : BitVec 2 × Word) : Word := if c.1 = 0 then 1 else c.2 + 1

/-! ### Settings copies (R591, R604, R605) -/

/-- First page of a copy (1 A, 2 B) of a settings block, as the model keeps it (log entry 119). -/
def settingsBase (block copy : Nat) : Nat := 32768 + 64 * block + (if copy = 2 then 32 else 0)

/-- Pages of a settings block of `n` bytes. -/
def settingsCount (n : Nat) : Nat := (n + 55) / 56

/-- The chosen copy of a settings block and its SEQ. -/
def settingsCopy (r : RetSt) (block : Nat) : BitVec 2 × Word := Tab.getD r.setCopy block (0, 0)

/-- Page `j` of the write of a settings block, to the copy that is not chosen (R593, R605). -/
def settingsPage (r : RetSt) (block : Nat) (buf : Bytes) (j : Nat) : Nat × Bytes :=
  let c := settingsCopy r block
  (settingsBase block (nextCopy c.1).toNat + j, protPage ((buf.drop (56 * j)).take 56) (nextSeq c))

/-- A settings block has been written: its copy is the chosen one (R605). -/
def settingsDone (block : Nat) (r : RetSt) : RetSt :=
  let c := settingsCopy r block
  { r with setCopy := Tab.set r.setCopy block (nextCopy c.1, nextSeq c) }

/-! ### Counters (R607) -/

/-- DATA of a counters page (Table 8). -/
def countersData (c : Counters) : Bytes :=
  leBytes 4 c.claim.toNat ++ leBytes 8 c.highestCommit ++ leBytes 4 c.powerCycles ++ leBytes 2 c.wdtExpiries ++
  [0#8, 0#8] ++ leBytes 4 c.savesAbandoned

/-- The counters page that a write makes now: page number and bytes; a claim to be taken stands in it. -/
def countersPage (r : RetSt) (claim : Option (Word × ClaimFor)) : Nat × Bytes :=
  let c := match claim with
    | some (k, _) => { r.ctr with claim := k }
    | none => r.ctr
  (if nextCopy r.ctrCopy.1 = 2 then 257 else 256, protPage (countersData c) (nextSeq r.ctrCopy))

/-! ### Retained data (R598 to R602) -/

/-- Home-memory key of the first byte of a selection. -/
def selKey (x : Sel) : Nat :=
  if x.region = 0 then globBase + x.offset
  else if x.region = 1 then privKey (taskNo x.task) (privBase + x.offset)
  else outBase (taskNo x.task) + x.offset

/-- The retained data of a layout as committed: the shadow of R600. -/
def retainedData (c : CommitSt) (l : Layout) : Bytes := l.retained.flatMap (fun x => Mem.read c.newest (selKey x) x.length)

/-- Retained bytes of a layout. -/
def retainedBytes (l : Layout) : Nat := (l.retained.map (fun x => x.length)).sum

/-- LAYOUT of a retained copy (R599). -/
def layoutCrc (l : Layout) : Word :=
  crc32 (l.retained.flatMap (fun x =>
    [BitVec.ofNat 8 x.region, BitVec.ofNat 8 x.task, 0#8, 0#8] ++ leBytes 4 x.offset ++ leBytes 4 x.length))

/-- DATA of the header page (Table 5). -/
def headerData (n : Nat) (l : Layout) (cause : BitVec 2) (t : Word) : Bytes :=
  let bytes := retainedBytes l
  leBytes 8 n ++ leBytes 4 (layoutCrc l).toNat ++ leBytes 4 bytes ++ leBytes 2 ((bytes + 55) / 56) ++
  [cause.setWidth 8, 0#8] ++ leBytes 4 t.toNat

/-- The data pages of a save, from page j on. -/
def dataPages (base : Nat) (seq : Word) : Nat → Nat → Bytes → List (Nat × Bytes)
  | 0, _, _ => []
  | n + 1, j, b => (base + j, protPage (b.take 56) seq) :: dataPages base seq n (j + 1) (b.drop 56)

/-- The highest commit number assigned or applied, from bales and the bulk copy (R114, R115, R579). -/
def lastNumber (s : State) : Nat := max s.commit.last s.ret.ctr.highestCommit

/-- The N of a save: the last commit assigned, in a standby that of the last applied bale (R114, R136, R579). -/
def saveNumber (s : State) : Nat := s.commit.last

/-- The pages of a retained save as of now, header last (R602). -/
def savePages (s : State) (cause : BitVec 2) : List (Nat × Bytes) :=
  let target := nextCopy s.ret.retCopy.1
  let seq := nextSeq s.ret.retCopy
  let l := s.proj.cur
  let base := copyBase target.toNat
  dataPages base seq ((retainedBytes l + 55) / 56) 1 (retainedData s.commit l) ++
    [(base, protPage (headerData (saveNumber s) l cause (stamp s)) seq)]

/-! ### Operations of the controller -/

/-- Put an operation at the end of the controller's queue. -/
def enqueueOp (k : RetKind) (pages : List (Nat × Bytes)) (s : State) : State :=
  { s with ret := { s.ret with
      ops := s.ret.ops ++ [{ kind := k, pages := pages, wrote := 0, started := false }] } }

/-- The operation is a retained save. -/
def isSave : RetKind → Bool
  | .save _ _ => true
  | _ => false

/-- A retained save falls due: it is made at once, or when the one in progress has ended (R601). -/
def dueSave (cause : BitVec 2) (s : State) : State :=
  if s.ret.ops.any (fun o => isSave o.kind) then { s with ret := { s.ret with saveWaits := s.ret.saveWaits ++ [cause] } }
  else enqueueOp (.save cause (saveNumber s)) (savePages s cause) s

/-- A save that waited is made when the one in progress has ended (R601). -/
def nextSave (s : State) : State :=
  match s.ret.saveWaits with
  | c :: rest => dueSave c { s with ret := { s.ret with saveWaits := rest } }
  | [] => s

/-- The highest claim the unit has seen (R569). -/
def highestClaim (s : State) : Word := if s.pair.highest < s.ret.ctr.claim then s.ret.ctr.claim else s.pair.highest

/-- The unit takes a new claim: the write of the counters begins (R570). -/
def takeClaim (why : ClaimFor) (s : State) : State :=
  let c := highestClaim s + 1
  enqueueOp (.counters (some (c, why))) [(0, [])] { s with pair := { s.pair with claiming := some (c, why) } }

/-- The page that an operation writes next; the counters page takes the counters as they stand then, and the copies are those of then. -/
def nextPage (r : RetSt) (o : RetOp) : Option (Nat × Bytes) :=
  match o.pages with
  | [] => none
  | p :: _ => match o.kind with
    | .counters c => some (countersPage r c)
    | .settings _ block buf => some (settingsPage r block buf o.wrote)
    | _ => some p

/-- An event record of the recorder in its slot: the page, with the other record of the page kept (R608). -/
def recordPage (r : RetSt) (o : Nat) (e : EventRec) : Nat × Bytes :=
  let slot := o % 32768
  let p := 16384 + slot / 2
  (p, patch (pageOf r.mram p) (32 * (slot % 2)) (eventBytes e))

/-- The recorder index page after a record (R705). -/
def indexPage (r : RetSt) (total : Nat) : Nat × Bytes :=
  (if nextCopy r.idxCopy.1 = 2 then 259 else 258, protPage (leBytes 8 total) (nextSeq r.idxCopy))

/-- Write the recorder index copy (R705). -/
def writeIndex (total : Nat) (r : RetSt) : RetSt :=
  let q := indexPage r total
  { storePage q.1 q.2 r with idxCopy := (nextCopy r.idxCopy.1, nextSeq r.idxCopy) }

/-- Write one record and then the index copy (R611, R705). -/
def writeRecord (total o : Nat) (e : EventRec) (r : RetSt) : RetSt :=
  let p := recordPage r o e
  writeIndex total (storePage p.1 p.2 r)

/-- Write one record and then the index copy, each page under the energy check of the operation (R594). -/
def writeChecked (mv total o : Nat) (e : EventRec) (r : RetSt) : RetSt :=
  if energyOk mv 2 then
    let p := recordPage r o e
    let r := storePage p.1 p.2 r
    if energyOk mv 1 then writeIndex total r else r
  else r

/-- The pages that write the records of a queue, each with its index page, given the MRAM they meet. -/
def recordPages : RetSt → Nat → List (Nat × EventRec) → List (Nat × Bytes)
  | _, _, [] => []
  | r, total, (o, e) :: q =>
    let p := recordPage r o e
    let r' := writeRecord total o e r
    p :: indexPage (storePage p.1 p.2 r) total :: recordPages r' total q

end Sys2Proof.Machine
end

