-- ==== Sys2Proof/Machine/Project.lean ====
section
/-! DEFINITION. The loaded project: initial values, restarts, the pinned set, what can be placed (R78, R79, R177,
R178, R292, R372 to R374, R600, R692, R700). -/

namespace Sys2Proof.Machine

/-! ### Layouts and initial values -/

/-- A selection entry as a selection of a region. -/
def selOf (region task : Nat) (x : SelEntry) : Sel := { region := region, task := task, offset := x.offset, length := x.length }

/-- Selections by ascending offset. -/
def sortSel (l : List Sel) : List Sel := sortBy (fun a b => decide (a.offset ≤ b.offset)) l

/-- The retained selections of a project in the order of R598. -/
def retainedOf (gsel : List SelEntry) (tasks : List TaskRec) : List Sel :=
  sortSel ((gsel.filter (fun x => x.retain)).map (selOf 0 0)) ++
  allTasks.flatMap (fun t => match tasks.find? (fun r => r.attr.taskId = t) with
    | some r =>
      sortSel ((r.sel.filter (fun x => x.retain && !x.region)).map (selOf 1 t.toNat)) ++
      sortSel ((r.sel.filter (fun x => x.retain && x.region)).map (selOf 2 t.toNat))
    | none => [])

/-- The mirrored selections of a project (R577); output images are mirrored without one. -/
def mirroredOf (gsel : List SelEntry) (tasks : List TaskRec) : List Sel :=
  (gsel.filter (fun x => x.mirror)).map (selOf 0 0) ++
  tasks.flatMap (fun r =>
    (r.sel.filter (fun x => x.mirror && !x.region)).map (selOf 1 r.attr.taskId.toNat))

/-- Bytes of the initial data, or zeros for the offset 0xFFFF_FFFF (R373). -/
def initBytes (data : Bytes) (off : Word) (n : Nat) : Bytes :=
  if off = 0xFFFFFFFF then zeros n else padTo n (data.drop off.toNat)

/-- The initial data that a task's record refers to: that of the edit package which brought it, else that of the load
package. -/
def taskInit (p : ProjSt) (t : BitVec 7) : Bytes := (Tab.find p.editInit t.toNat).getD p.init

/-- Initial content of the task's private data and output image. -/
def initTask (p : ProjSt) (m : Mem) (r : TaskRec) : Mem :=
  let t := r.attr.taskId
  let d := taskInit p t
  Mem.setAll (Mem.setAll m (privKey t privBase) (initBytes d r.privInit r.privSize)) (outBase t)
    (initBytes d r.outInit r.outSize)

/-- Every global, private datum and output image at its initial value (Table 9 of Tasks, Cycle and Modes). -/
def initialHome (p : ProjSt) : Mem :=
  p.cur.tasks.foldl (initTask p) (Mem.setAll [] globBase (initBytes p.init p.globalInit p.cur.globalSize))

/-- Committed data replaced as a whole: one version of every line. -/
def replaceHome (m : Mem) (c : CommitSt) : CommitSt := { c with newest := m, older := [], vNew := [], vOld := [], writer := [], edits := [] }

/-! ### Restart (R78, R79, R292) -/

/-- The data bytes of the chosen retained copy. -/
def copyData (r : RetSt) (bytes : Nat) : Bytes :=
  let base := copyBase r.retCopy.1.toNat
  ((List.range ((bytes + 55) / 56)).flatMap (fun j => (pageOf r.mram (base + 1 + j)).take 56)).take bytes

/-- Scatter retained bytes over the selections. -/
def scatter : List Sel → Bytes → Mem → Mem
  | [], _, m => m
  | x :: l, b, m => scatter l (b.drop x.length) (Mem.setAll m (selKey x) (b.take x.length))

/-- The chosen retained copy can be restored: one is chosen and its layout is that of the project (R79). -/
def restorable (s : State) : Bool :=
  s.ret.retCopy.1 != 0 &&
  fieldAt (pageOf s.ret.mram (copyBase s.ret.retCopy.1.toNat)) 8 4 = (layoutCrc s.proj.cur).toNat

/-- Every byte of a 32-byte area of a task's private data is retained. -/
def areaRetained (l : Layout) (t off : Nat) : Bool :=
  (List.range 32).all (fun k => l.retained.any (fun x =>
    x.region = 1 && x.task = t && decide (x.offset ≤ off + k) && decide (off + k < x.offset + x.length)))

/-- A restored timer record with RUNNING = 1 goes on from its ET (R292). -/
def resumeTimer (now key : Nat) (m : Mem) : Mem :=
  let kind := bitsOf (Mem.get m key).toNat 3 0
  if 1 ≤ kind ∧ kind ≤ 3 ∧ (Mem.get m (key + 1)).getLsbD 2 then
    Mem.setAll m (key + 16) (leBytes 8 ((now + 2 ^ 64 - leNat (Mem.read m (key + 8) 4)) % 2 ^ 64))
  else m

/-- The timers of every task's rung data area at a warm restart (R292). -/
def resumeTimers (l : Layout) (now : Nat) (m : Mem) : Mem :=
  l.tasks.foldl (fun m r =>
    let t := r.attr.taskId
    (List.range (r.rungSize / 32)).foldl (fun m k =>
      if areaRetained l t.toNat (32 * k) then resumeTimer now (privKey t (privBase + 32 * k)) m else m) m) m

/-- What a warm or cold restart leaves: initial values, with the retained variables restored by a warm one (bytes that two selections
restore are unpredictable, R374); the
counters zeroed by a cold one, which also empties the edit state (R78, R79, R320). Whether warm fell back to
cold is answered too; `runAt` is T_RUN. -/
def restartData (warm : Bool) (runAt : Nat) (s : State) : Bool × State :=
  let m := initialHome s.proj
  if warm && restorable s then
    let m := scatter s.proj.cur.retained (copyData s.ret (retainedBytes s.proj.cur)) m
    let m := (overlaps (s.proj.cur.retained.map (fun x => (selKey x, x.length)))).foldl
      (fun m x => Mem.setAll m x.1 ((List.range x.2).map (fun i => Config.retainedByte s.time.net (x.1 + i)))) m
    let m := resumeTimers s.proj.cur runAt m
    (false, { s with commit := replaceHome m s.commit })
  else
    let s := { s with
      commit := replaceHome m s.commit
      proj := { s.proj with edit := 0, pkg := none } }
    (warm, modTasks (fun k => { k with ctr := TaskCtr.zero }) s)

/-- The enable states that a warm or cold restart sets (R692). -/
def restartEnables (s : State) : State :=
  let prof := Tab.find s.prof.table s.prof.active.toNat
  { s with tasks := Vector.ofFn (fun i => { s.tasks[i] with
      enabled := match taskRec s (taskNo i.val) with
        | some r => (match prof with
          | some p => p.enable.getLsbD i.val
          | none => r.attr.enabled)
        | none => false }) }

/-! ### The pinned set (R177 to R179) -/

/-- The channels of a task's image maps and its CHANNEL trigger. -/
def taskChans (r : TaskRec) : List Nat :=
  (r.inMap ++ r.outMap).map (fun m => m.chan.toNat) ++
  (if isEvent r.attr.taskId && r.attr.triggerType = 1 then [r.attr.triggerSel.toNat % 4096] else [])

/-- The present direct channels. -/
def directChans (s : State) : List Nat := List.range (if hasLoop s then 160 else 128)

/-- The pinned set for the tasks that a test enables (R177). -/
def pinSet (s : State) (tasks : List TaskRec) (on : BitVec 7 → Bool) : List Nat :=
  (directChans s ++ (tasks.filter (fun r => on r.attr.taskId)).flatMap taskChans).eraseDups

/-- The pinned set now. -/
def pinNow (s : State) : List Nat := pinSet s s.proj.cur.tasks (fun t => (task s t).enabled)

/-- The limit of the pinned set (R178). -/
def pinLimit (s : State) : Nat := cacheSize s - 64

/-- The limit holds for every pair of a list of sets (R178). -/
def pinsFit (s : State) (sets : List (List Nat × List Nat)) : Bool :=
  sets.all (fun x => decide ((x.1 ++ x.2).eraseDups.length ≤ pinLimit s))

/-- The channels that a profile pins. -/
def profilePins (s : State) (tasks : List TaskRec) (p : Profile) : List Nat := pinSet s tasks (fun t => p.enable.getLsbD t.toNat)

/-- Every pair of two lists. -/
def pairsOf {α β : Type} (l : List α) (m : List β) : List (α × β) := l.flatMap (fun a => m.map (fun b => (a, b)))

/-- The pairs of sets that R178 bounds: the set in use and that of every loaded profile with one another, and each of the profiles' sets,
and itself, with the set without a profile, which is that of the ENABLED attributes after a restart (R692). -/
def pinSets (s : State) (tasks : List TaskRec) (on : BitVec 7 → Bool) (profs : List Profile) : List (List Nat × List Nat) :=
  let plain := pinSet s tasks (fun t => tasks.any (fun r => r.attr.taskId = t && r.attr.enabled))
  let ps := profs.map (profilePins s tasks)
  let used := pinSet s tasks on :: ps
  pairsOf used used ++ pairsOf [plain] (plain :: if s.prof.active = 0xFF then ps else used)

/-- The entry is in the cache: pinned, or loaded for a pending enable or switch (R402). -/
def isCached (s : State) (id : Nat) : Bool := isPinned s id || (Tab.find s.chan.ready id).isSome

/-- Entries that a set needs and that the cache does not hold are to be loaded (R179). -/
def wantChans (ids : List Nat) (s : State) : State :=
  { s with chan := { s.chan with
      loading := (s.chan.loading ++ ids.filter (fun i => !isCached s i)).eraseDups } }

/-- The target profile of a switch that is certain to come: a local one, or an agreed one (R335, R337). -/
def switchTarget (s : State) : Option (BitVec 3) :=
  match s.prof.localSwitch, s.prof.vote with
  | some t, _ => some t.1
  | none, some v => if v.agreed.isSome then some v.target else none
  | none, none => none

/-- The channels that the target profile of a pending switch pins, under the maps in force (R179). -/
def targetPins (s : State) : List Nat :=
  match (switchTarget s).bind (fun t => Tab.find s.prof.table t.toNat) with
  | some p => profilePins s s.proj.cur.tasks p
  | none => []

/-- The entries of a pending switch's target are loaded before the switch (R179, R341). -/
def wantTarget (s : State) : State := wantChans (targetPins s) s

/-- A digital input that gains a valid entry starts anew with its first raw sample (R703). -/
def diGain (before : State) (id : Nat) (s : State) : State :=
  if id < 64 && (diUsable before id).isNone && (diUsable s id).isSome then
    { s with field := { s.field with di := vmod s.field.di id (fun d => { d with
        level := none, run := 0, changes := 0, unsettled := false, flips := [], chatter := false, stuck := false
        overrate := false, phase := none }) } }
  else s

/-- The entry of channel `id` is one of a CAN_TX frame. -/
def isCanTx (s : State) (id : Nat) : Bool := (entryOf s id).any (fun e => eClass e = 8)

/-- The other CAN_TX channels report their states when one of them gains, changes or loses its entry: the frame's DLC is that of its
lowest channel (R397, R521, R528). -/
def refreshPeers (before : State) (id : Nat) (s : State) : State :=
  if isCanTx before id || isCanTx s id then refreshWhere (fun _ e => e.any (fun x => eClass x = 8)) s else s

/-- An entry has been put in force for a channel: its input starts anew, its output takes what the new entry gives, its
state is reported (R397, R399, R703). -/
def entryForce (before : State) (id : Nat) (s : State) : State :=
  refreshPeers before id (refreshChan (settleOutputs [id] (diGain before id (rekeyCan before s))) id)

/-- Pin the entry of a channel, none for ENTRY_UNAVAILABLE, and report its state (R397). -/
def pinChan (id : Nat) (e : Option Bytes) (s : State) : State :=
  entryForce s id { s with chan := { s.chan with
    pinned := Tab.set s.chan.pinned id e, ready := Tab.del s.chan.ready id, loading := dropFrom s.chan.loading id } }

/-- An entry has been loaded: it is pinned when it belongs to the pinned set, else kept for the pending enable or switch that it was
loaded for (R177, R402). -/
def loadedChan (id : Nat) (e : Option Bytes) (s : State) : State :=
  if (pinNow s).contains id then pinChan id e s
  else { s with chan := { s.chan with ready := Tab.set s.chan.ready id e, loading := dropFrom s.chan.loading id } }

/-- Entries kept for an enable or a switch that now belong to the pinned set are pinned. -/
def pinReady (s : State) : State :=
  (s.chan.ready.filter (fun p => (pinNow s).contains p.1)).foldl (fun s p => pinChan p.1 p.2 s) s

/-- The pinned set has changed: what the cache holds of it is pinned, the rest is to be loaded, that of a pending switch's target too
(R177, R179). -/
def wantNow (s : State) : State := wantTarget (let s := pinReady s; wantChans (pinNow s) s)

/-- Unpin a channel: it is idle, and a network output keeps its committed value no longer (R55, R396; log entry 101). -/
def unpinChan (id : Nat) (s : State) : State :=
  let s' := { s with chan := { s.chan with
    pinned := Tab.del s.chan.pinned id, state := Tab.del s.chan.state id, stale := dropFrom s.chan.stale id
    short := dropFrom s.chan.short id, missed := Tab.del s.chan.missed id
    tx := Tab.del s.chan.tx id, txVariant := Tab.del s.chan.txVariant id, txEntry := Tab.del s.chan.txEntry id
    layout := s.chan.layout.filter (fun p => p.2 != id) } }
  refreshPeers s id (rekeyCan s s')

/-- The network output channels of a task that an edit removed and that no other task owns hold their last committed values (R330). -/
def orphanPins (s : State) : List Nat :=
  (pinnedIds s).filter (fun id => !isDirect id && ((entryOf s id).any (fun e =>
    isOut e && (Tab.find s.chan.tx id).isSome && (taskRec s (eOwner e)).isNone)))

/-- The channels that may not be unpinned: the pinned set, the target set of a pending switch, channels of tasks with an open
instance, and those that hold a value of a removed task (R179, R330, R693). -/
def pinKeep (s : State) : List Nat :=
  let openSet := pinSet s s.proj.cur.tasks (fun t => ((task s t).inst.isSome))
  pinNow s ++ openSet ++ targetPins s ++ orphanPins s

/-- At a base tick what no longer needs to be pinned is unpinned, and not loaded either (R177, R179, R693; log entry 110); what an open instance or a
pending switch keeps is looked at again at the next one. -/
def unpinDue (s : State) : State :=
  if !s.chan.unpin then s
  else
    let keep := pinKeep s
    let s := { s with chan := { s.chan with
      loading := s.chan.loading.filter keep.contains, ready := s.chan.ready.filter (fun p => keep.contains p.1) } }
    let s := (pinnedIds s).foldl (fun s id => if keep.contains id then s else unpinChan id s) s
    let now := pinNow s
    { s with chan := { s.chan with unpin := (pinnedIds s ++ s.chan.loading ++ s.chan.ready.map (fun p => p.1)).any (fun id => !now.contains id) } }

/-- A task's next instance waits for pinned entries (R179). -/
def pinWait (s : State) (r : TaskRec) : Bool := (taskChans r).any (fun c => !isPinned s c)

/-! ### Placement of a project (R700) -/

/-- The content of a project in bytes. -/
def content (globalSize : Nat) (tasks : List TaskRec) : Nat :=
  globalSize + (tasks.map (fun r => r.privSize + roundUp r.inSize 64 + roundUp r.outSize 64)).sum

/-- The capacity in bytes. -/
def capacity (s : State) : Nat :=
  4 * 2 ^ 20 + 2 * 2 ^ 20 * (s.barns.toList.filter (fun b => b.present)).length - 80 * 1024 * nCan s

/-- The lines of a task's private data. -/
def privLines (r : TaskRec) : List Nat :=
  (List.range ((r.privSize + 63) / 64)).map (fun i => privKey r.attr.taskId (privBase + 64 * i))

/-- The home lines of private data and globals of a project. -/
def homeLines (l : Layout) : List Nat :=
  l.tasks.flatMap privLines ++ (List.range ((l.globalSize + 63) / 64)).map (fun i => globBase + 64 * i)

/-- The 4 MiB of the global image memory hold the task images and every home line that lies in no barn; a bad line holds nothing (R22,
R168). -/
def globalFits (s : State) (homeLoc : Tab (Fin 4)) : Bool :=
  decide (content s.proj.cur.globalSize s.proj.cur.tasks + 64 * (s.yard.bad.filter (fun x => x.1 = 0)).length ≤ 2 ^ 22 + 64 * homeLoc.length)

/-- Lines that the SRAM of a barn still takes beside its bit store, its rings, its bad lines and the home lines that it holds (R23, R168,
R272). -/
def barnRoom (s : State) (b : Fin 4) : Nat :=
  let held := (s.yard.homeLoc.filter (fun x => x.2 = b)).length
  let rings := (s.yard.ringLoc.filter (fun x => x.2 = b)).length
  let bad := (s.yard.bad.filter (fun x => x.1 = b.val + 1)).length
  if (barn s b).present then (2 ^ 21 - 2 ^ 16 - 80 * 1024 * rings) / 64 - held - bad else 0

/-- Lines go to barns in turn, each as far as it has room. -/
def fillBarns : List (Nat × Fin 4) → List Nat → Tab (Fin 4) → Tab (Fin 4)
  | [], _, t => t
  | (n, b) :: l, lines, t => fillBarns l (lines.drop n) ((lines.take n).foldl (fun t x => Tab.set t x b) t)

/-- The home lines that the global image memory has no room for lie in the present barns (R22; log entry 103). -/
def spillHomes (s : State) : Tab (Fin 4) :=
  let bad := (s.yard.bad.filter (fun x => x.1 = 0)).length
  let excess := (content s.proj.cur.globalSize s.proj.cur.tasks + 64 * bad - (2 ^ 22 + 64 * s.yard.homeLoc.length) + 63) / 64
  if excess = 0 then s.yard.homeLoc
  else
    let out := (homeLines s.proj.cur).filter (fun x => (Tab.find s.yard.homeLoc x).isNone)
    fillBarns ((List.finRange 4).map (fun b => (barnRoom s b, b))) (out.take excess) s.yard.homeLoc

/-- An OFF barn begins to wake (R169, R172). -/
def wakeBarn (b : Fin 4) (s : State) : State :=
  if (barn s b).power = 0 && (barn s b).present then
    modBarn b (fun x => { x with power := 1, wake := 1 })
      { s with yard := { s.yard with wakesTotal := satAdd 32 s.yard.wakesTotal 1, offDue := s.yard.offDue.filter (fun x => x != b) } }
  else s

/-- A write to memory `m` (0 the global image, b + 1 the SRAM of barn b) may have been to a bad line, which is used again then (R168). -/
def liftBad (m : Nat) (s : State) : State :=
  let n := s.yard.bad.length
  { s with
    free := s.free + n
    yard := { s.yard with bad := (s.yard.bad.zipIdx.filter (fun x => !(x.1.1 = m && Config.freeBit (s.free + x.2)))).map Prod.fst } }

/-- The project that has been loaded, or changed, keeps within the global image memory; the barns that hold some of its lines wake (R22). -/
def settleHomes (s : State) : State :=
  let h := spillHomes s
  ((List.finRange 4).filter (fun b => h.any (fun x => x.2 = b))).foldl (fun s b => wakeBarn b s)
    { s with yard := { s.yard with homeLoc := h } }

end Sys2Proof.Machine
end

