-- ==== Sys2Proof/Machine/Bales.lean ====
section
/-! DEFINITION. Commit numbers and bales (R28, R113 to R115, R135, R577, R578). -/

namespace Sys2Proof.Machine

/-- The next commit number is assigned (R28, R607). -/
def numberCommit (s : State) : Nat × State :=
  let n := s.commit.next
  (n, { s with
    commit := { s.commit with last := n, next := n + 1 }
    ret := { s.ret with ctr := { s.ret.ctr with highestCommit := n } } })

/-- The byte mask of a line in a sparse memory. -/
def lineMask (m : Mem) (line : Nat) : DWord :=
  BitVec.ofNat 64 ((List.range 64).foldl (fun a k => if (Mem.find m (line + k)).isSome then a + 2 ^ k else a) 0)

/-- Lines by ascending data address: private data lies below globals, and these below output images. -/
def byAddress (lines : List Nat) : List Nat :=
  lines.filter (fun k => decide (2 ^ 32 ≤ k)) ++ lines.filter (fun k => decide (k < 2 ^ 32))

/-- A line holds a byte of a range. -/
def lineMeets (line key len : Nat) : Bool := decide (line < key + len) && decide (key < line + 64)

/-- A line of a task's write set is mirrored data (R577). -/
def mirrored (l : Layout) (r : TaskRec) (line : Nat) : Bool :=
  let t := r.attr.taskId
  lineMeets line (outBase t) 0x1000 || lineMeets line (privKey t privBase) r.rungSize ||
  l.mirrored.any (fun x => lineMeets line (selKey x) x.length)

/-- A line record (Table 7 of Hot Standby). -/
def baleLine (c : CommitSt) (m : Mem) (line : Nat) : BaleLine :=
  { address := BitVec.ofNat 32 line, mask := lineMask m line, data := Mem.read c.newest line 64 }

/-- The bytes of a line record. -/
def baleLineBytes (l : BaleLine) : Bytes := leBytes 4 l.address.toNat ++ leBytes 8 l.mask.toNat ++ padTo 64 l.data

/-- The bytes of a bale's header and lines (Table 6 of Hot Standby). -/
def baleBytes (b : Bale) : Bytes :=
  [b.type.setWidth 8, b.task.setWidth 8] ++ leBytes 2 b.lines.length ++ leBytes 4 b.claim.toNat ++
  leBytes 8 b.commit.toNat ++ leBytes 4 b.tCommit.toNat ++ [b.mode.setWidth 8] ++ zeros 11 ++
  b.lines.flatMap baleLineBytes

/-- The CRC of a bale (R577). -/
def baleCrc (b : Bale) : Word := crc32 (baleBytes b)

/-- Bytes of the bale queue in use (R578). -/
def queueBytes (p : PairSt) : Nat := (p.bales.map (fun b => b.size)).sum

/-- This unit is the active one of a trained pair. -/
def pairActive (s : State) : Bool := s.pair.trained && s.pair.role = 1

/-- The active unit of a trained pair queues a bale, or raises BALE_OVERRUN when it does not fit (R578); without a trained partner a commit
makes no bale (log entry 92). -/
def queueBale (type : BitVec 3) (t : BitVec 7) (n : Nat) (lines : List BaleLine) (s : State) : State :=
  if !pairActive s then s
  else
    let b : Bale :=
      { type := type, task := t, claim := s.ret.ctr.claim, commit := BitVec.ofNat 64 n, tCommit := stamp s
        mode := s.mode.mode, lines := lines, crc := 0 }
    let b := { b with crc := baleCrc b }
    let size := (baleBytes b).length + 4
    if queueBytes s.pair + size ≤ 2 ^ 20 then
      { s with pair := { s.pair with bales := s.pair.bales ++ [{ bale := b, size := size }] } }
    else raise 0x8000 0x0809 0 n { s with pair := { s.pair with current := false } }

end Sys2Proof.Machine
end

