-- ==== Sys2Proof/Machine/CanBus.lean ====
section
/-! DEFINITION. Which buffer a CAN controller puts on its bus (CAN Controllers; R505, R517, R520, R523). -/

namespace Sys2Proof.Machine

/-- Byte k of the block of controller c (Table 2, counted from 8 + 32c). -/
def canCfg (s : State) (c : Fin 4) (k n : Nat) : Nat := fieldAt (block s 0x0410) (8 + 32 * c.val + k) n

/-- A flag of byte 0 of a controller's block. -/
def canFlag (s : State) (c : Fin 4) (bit : Nat) : Bool := bitAt (block s 0x0410) (8 + 32 * c.val) bit

/-- The controller works on its bus: present, enabled, integrated, not in bus-off. -/
def canOn (s : State) (c : Fin 4) : Bool :=
  canEnabled s c.val && s.can[c].integrated && s.can[c].state != 2 && alive s

/-- Change controller c. -/
def modCan (c : Fin 4) (f : CanSt → CanSt) (s : State) : State :=
  { s with can := s.can.set c (f s.can[c]) c.isLt }

/-- Change buffer b of controller c. -/
def modBuf (c : Fin 4) (b : Fin 3) (f : CanBuf → CanBuf) : State → State :=
  modCan c (fun k => { k with bufs := k.bufs.set b (f k.bufs[b]) b.isLt })

/-- The arbitration field of a frame as a number: the lower one wins (R517). -/
def arbKey (f : CanFrame) : Nat :=
  let id := f.identifier.toNat
  if f.ide then id / 2 ^ 18 * 2 ^ 21 + 2 ^ 20 + 2 ^ 19 + id % 2 ^ 18 * 2 + b2n f.rtr
  else id % 2 ^ 11 * 2 ^ 21 + b2n f.rtr * 2 ^ 20

/-- A unit in TRACK, one whose role is undecided and one that its partner has superseded send no channel frames (R523, R546, R574). -/
def sendsChannels (s : State) : Bool := s.mode.mode != mTrack && s.pair.role != 3 && !s.pair.superseded

/-- The buffer chosen before a start-of-frame (R517); a channel frame only while they are sent (R523). -/
def canChoice (s : State) (c : Fin 4) : Option (Fin 3) :=
  let loaded := (List.finRange 3).filterMap (fun b =>
    let x := s.can[c].bufs[b]
    if x.chanKey.isSome && !sendsChannels s then none else x.frame.map (fun f => (b, f)))
  if !canOn s c || canFlag s c 4 then none
  else match loaded with
    | [] => none
    | p :: l =>
      if canFlag s c 3 then some p.1
      else some (l.foldl (fun best q => if arbKey q.2 < arbKey best.2 then q else best) p).1

/-- The controller chooses anew, for a start-of-frame that is still to come. -/
def canChoose (c : Fin 4) (s : State) : State := modCan c (fun k => { k with onBus := canChoice s c, started := false }) s

/-- Whether the start-of-frame of the chosen buffer has been sent: not while the frame is on the bus to which arbitration was lost; else no
command tells whether the bus was idle, and it is a free value until it is known (log entry 14). -/
def hasStarted (c : Fin 4) (s : State) : Bool × State :=
  if s.can[c].onBus.isNone || s.can[c].started || s.can[c].lost then (s.can[c].started, s)
  else
    let n := takeFree s
    let on := Config.freeBit n.1
    (on, modCan c (fun k => { k with started := on }) n.2)

/-- The buffers of the controller have changed: the choice is made anew unless its start-of-frame has been sent (R517). -/
def canLoaded (c : Fin 4) (s : State) : State :=
  let r := hasStarted c s
  if r.1 then r.2 else canChoose c r.2

/-- Channel frames are sent no more: one that was chosen, and whose start-of-frame has not been sent, is not (R523). -/
def recallChannels (s : State) : State :=
  if sendsChannels s then s
  else (List.finRange 4).foldl (fun s c =>
    if (s.can[c].onBus.map (fun b => s.can[c].bufs[b].chanKey.isSome)).getD false then canLoaded c s else s) s

end Sys2Proof.Machine
end

