-- ==== Sys2Proof/Machine/Modes.lean ====
section
/-! DEFINITION. Mode transitions, the source of task time, and what leaving and entering a mode does (Tasks,
Cycle and Modes; R33, R34, R88, R555, R556, R573, R618). -/

namespace Sys2Proof.Machine

/-! ### Task time source (R556) -/

/-- The first available source: 0 FREE, 1 LOCAL, 2 PAIR, 3 IHLOZ. -/
def sourceNow (s : State) : BitVec 2 :=
  if s.mode.mode = mTrack then 2
  else if s.ihloz.state = 5 || s.ihloz.state = 6 then 3
  else if bitAt (block s 0x0421) 12 0 && s.time.timeValid then 1
  else 0

/-- Clamp a slew to 200 ppm (R555). -/
def clampSlew (ppb : Int) : Int := max (-200000) (min 200000 ppb)

/-- The size in ppb of the slew that removes a measured difference in ns until the next measurement, `spanNs` later (R555, R556): none
for no difference, else a free value from 1 to 200 ppm that does not lead past the other time by more than 1 µs (log entry 16). -/
def steerSize (free diff spanNs : Nat) : Nat :=
  if diff = 0 then 0 else 1 + free % max 1 (min 200000 ((diff + 1000) * 1000000000 / max 1 spanNs))

/-- The slew of a source that steers task time by a measured difference in ns (R486, R555, R556, R568): it runs towards the other time,
over the rate `ratePpb` at which that time itself is known to run. -/
def steer (diffNs ratePpb : Int) (spanNs : Nat) (s : State) : State :=
  let n := takeFree s
  let size : Int := ((steerSize (Config.freeNat n.1) diffNs.natAbs spanNs : Nat) : Int)
  { n.2 with time := { n.2.time with slewPpb := clampSlew (ratePpb + if diffNs < 0 then -size else size) } }

/-- The slew that a source sets at its start: that of the local clock, or none; PAIR and IHLOZ set it as their
offsets are measured. -/
def slewOf (s : State) (src : BitVec 2) : Int :=
  if src = 0 then 0 else if src = 1 then clampSlew (s.time.freq.toInt / 65536) else s.time.slewPpb

/-- Take the first available source, and raise TASK_TIME_SOURCE when it has changed. -/
def refreshSource (s : State) : State :=
  let new := sourceNow s
  let old := s.time.source
  let s := { s with time := { s.time with source := new, slewPpb := slewOf s new } }
  if new = old then s else raise 0x7010 0x0712 0 (new.toNat + 4 * old.toNat) s

/-! ### Leaving RUN, HOLD and STOP -/

/-- A pending EDIT_COMMIT or EDIT_ROLLBACK meets a mode change that leaves RUN, HOLD or STOP (R332). -/
def refuseEdit (s : State) : State :=
  match s.proj.pend with
  | some (k, _, _, _) =>
    completeWait k (fun w => w = .edit) stMode 0 { s with proj := { s.proj with pend := none, boundary := none } }
  | none => s

/-- A command that waits for a held task's step ends with the task (R34): the step can no longer be made. -/
def refuseSteps (s : State) : State :=
  (List.finRange 8).foldl (fun s k => completeWait k (fun w => match w with
    | .step _ => true
    | _ => false) stMode 0 s) s

/-- Values that wait for direct outputs are applied. -/
def applyDue (due : List OutDue) (s : State) : State := due.foldl (fun s d => applyValues d.variant d.olds d.values s) s

/-- Commits numbered before the transition are applied in full under the old state (R33), the values that wait for a base tick
among them (R127, R128; log entry 78). -/
def flushOutputs (s : State) : State :=
  let s' := applyDue (s.commit.direct ++ s.commit.aligned) s
  { s' with commit := { s'.commit with direct := [], aligned := [] } }

/-- What leaving RUN or HOLD for another mode does; the breakpoints are cleared too (R34, R75, R98; log entry 107). -/
def leaveRun (new : BitVec 4) (s : State) : State :=
  let s := abortAll fcMode new.toNat (flushOutputs s)
  let s := modTasks (fun k => { k with latch := false, latchMerged := false, held := false, heldEntry := false }) s
  refuseSteps { s with
    pair := { s.pair with handover := if s.pair.handover = some none then some none else none }
    mode := { s.mode with breaks := [] } }

/-- Restart what entry to RUN from start-up or STOP resets (R67, R256). -/
def freshRun (s : State) : State :=
  let s := modTasks (fun k => { k with committed := false }) s
  { s with chan := { s.chan with tx := [], txVariant := [], txEntry := [] } }

/-- Arm the watchdog at an entry to RUN other than from HOLD (R617, R618). -/
def armWdt (s : State) : State :=
  let cfg := block s 0x0601
  if bitAt cfg 0 0 then
    { s with wdt := { s.wdt with
        state := 1, cfg := cfg, begun := false, first := true, disarm := false, count := 0, armed := false
        inbox := [], checked := 0, checkedB := 0, roll := 0, lastKey := none } }
  else s

/-- Modes that an armed watchdog disarms in (R618). -/
def disarms (m : BitVec 4) : Bool := m = mStop || m = mTrack || m = mService || m = mSafe

/-- RUN, HOLD and TRACK (R601). -/
def working (m : BitVec 4) : Bool := m = mRun || m = mHold || m = mTrack

/-- RUN and HOLD. -/
def running2 (m : BitVec 4) : Bool := m = mRun || m = mHold

/-- Outputs at an entry (Table 11 of Tasks, Cycle and Modes). -/
def enterOutputs (old new : BitVec 4) (s : State) : State :=
  if new = mSafe then (if old = mStartUp then deenergise s else dropAos (staggered (settleOutputs directOutputs) s))
  else if new = mStop || new = mService then stopAll s
  else if new = mTrack then (if running2 old then s else stopAll s)
  else if new = mRun && (old = mStop || old = mStartUp) then stopAll s
  else s

/-- DATA of MODE_CHANGED (Table 8 of Tasks, Cycle and Modes). -/
def modeData (old new : BitVec 4) (cause ringByte reason : Nat) : Nat :=
  old.toNat + 2 ^ 8 * new.toNat + 2 ^ 16 * cause + 2 ^ 24 * ringByte + 2 ^ 32 * reason

/-- How RUN is entered (R78, R256): the data of a warm, cold or resume restart. Whether warm fell back to cold is
answered too. -/
def restartAs (how : BitVec 2) (s : State) : Bool × State :=
  if how = 2 then (false, s)
  else
    let r := restartData (how = 0) (nowUs s) s
    (r.1, restartEnables r.2)

/-- The fields of the mode after a transition. -/
def modeAfter (old new : BitVec 4) (cause : Nat) (now : Nat) (m : ModeSt) : ModeSt :=
  { m with
    mode := new, phase := 0
    resumeOk := if running2 old && !running2 new then new = mStop else m.resumeOk
    safeCause := if new = mSafe then BitVec.ofNat 8 cause else m.safeCause
    saveFrom := if working new && !working old then now else m.saveFrom
    restarted := none }

/-- Every consecutive-disagreement count is zero (R312). -/
def zeroPairRuns (s : State) : State := modTasks (fun k => { k with ctr := { k.ctr with pairRun := 0 } }) s

/-- The transition itself, with MODE_CHANGED (R33, R34, R84, R312, R578). -/
def changeMode (new : BitVec 4) (cause ringByte reason : Nat) (s : State) : State :=
  let old := s.mode.mode
  let s := if new = mRun then zeroPairRuns s else s
  let s := if running2 old && !running2 new then leaveRun new s else s
  let s := if (running2 old || old = mStop) && !(running2 new || new = mStop) then refuseEdit s else s
  let s := { s with
    mode := modeAfter old new cause (nowUs s) s.mode
    field := { s.field with cut := if old = mSafe then false else if old = mStartUp && new != mSafe then false else s.field.cut }
    pair := { s.pair with
      superseded := if new = mStop then false else s.pair.superseded
      delivered := if new = mTrack then (if running2 old then BitVec.allOnes 128 else 0) else s.pair.delivered
      aligned := if new = mTrack || old = mTrack then [] else s.pair.aligned
      bulk := if new = mTrack then some (0, nowUs s) else none
      current := s.pair.current && old != mTrack && new != mTrack
      takeover := none, takeoverFail := false }
    wdt := { s.wdt with disarm := s.wdt.disarm || (s.wdt.state = 1 && disarms new) } }
  let s := if new = mTrack && !running2 old then { s with chan := { s.chan with tx := [], txVariant := [], txEntry := [] } } else s
  let s := recallChannels (enterOutputs old new s)
  let s := if new = mStop && working old && bitAt (block s 0x0510) 2 0 then dueSave 1 s else s
  let s := raise 0x0000 0x0110 0 (modeData old new cause ringByte reason) s
  refreshSource (queueBale 4 0 s.commit.last [] s)

/-- Entry to RUN from start-up or STOP with a restart type (R67, R78, R84); phase 7 of a start-up has restarted already (R646). -/
def enterRun (how : BitVec 2) (cause ringByte reason : Nat) (s : State) : State :=
  let r := match s.mode.restarted with
    | some fell => (fell, s)
    | none => restartAs how s
  let s := armWdt (freshRun r.2)
  let s := changeMode mRun cause ringByte reason s
  let s := modTasks (fun k => { k with firstRun := true }) s
  let used : Nat := if r.1 then 1 else how.toNat
  let s := { s with mode := { s.mode with restart := if r.1 then 1 else how, resumeOk := false } }
  let s := { s with chan := { s.chan with unpin := true } }
  refreshChans (wantNow (raise 0x0000 0x0111 0 (used + 2 ^ 8 * b2n r.1) s))

/-- A MODE_SET RUN that waits for its claim when SAFE is decided completes with REFUSED_MODE (R87). -/
def refuseModeRun (s : State) : State :=
  (List.finRange 8).foldl (fun s k => completeWait k (fun w => match w with
    | .modeRun _ _ _ => true
    | _ => false) stMode 0 s) s

/-- Entry to SAFE with a cause; nothing changes in SAFE already (R88). -/
def enterSafe (cause : Nat) (ringByte reason : Nat) (s : State) : State :=
  if s.mode.mode = mSafe then s else changeMode mSafe cause ringByte reason (refuseModeRun s)

/-- Leave a held task: HOLD ends with the last one (Table 11, R92, R96). -/
def endHold (ringByte : Nat) (s : State) : State :=
  if s.mode.mode = mHold && allTasks.all (fun t => !(task s t).held) then changeMode mRun 8 ringByte 0 s else s

end Sys2Proof.Machine
end

