-- ==== Sys2Proof/Machine/Can.lean ====
section
/-! DEFINITION. The CAN controllers: buffers, arbitration, error states, receive ring, channels, and the commands of
the family (CAN Controllers). The rules of TEC and REC are those of ISO 11898-1 (log entry 13). -/

namespace Sys2Proof.Machine

/-! ### Settings and frames -/

/-- Data bytes of a frame. -/
def canLength (f : CanFrame) : Nat := dlcBytes f.fdf f.dlc.toNat

/-- The 80-byte record of a received frame (Table 3). -/
def canRecord (f : CanFrame) (seq : Half) (sof : Word) : Bytes :=
  let n := if f.rtr then 0 else canLength f
  leBytes 4 (f.identifier.toNat + 2 ^ 29 * b2n f.ide + 2 ^ 30 * b2n f.rtr) ++
  [BitVec.ofNat 8 (b2n f.fdf + 2 * b2n f.brs + 4 * b2n f.esi), f.dlc.setWidth 8] ++
  leBytes 2 seq.toNat ++ leBytes 4 sof.toNat ++ zeros 4 ++ padTo 64 (padTo n f.data)

/-! ### Buffers -/

/-- CAN events carry SOURCE 0x6000 + c (R529). -/
def raiseCan (c : Fin 4) (code data : Nat) : State → State := raise (0x6000 + c.val) code 0 data

/-- Every CAN_CANCEL that waits for a buffer completes (R520). -/
def endCancel (c : Fin 4) (b : Fin 3) (status : Byte) (result : Nat) (s : State) : State :=
  (List.finRange 8).foldl (fun s k => completeWait k (fun w => w = .canCancel c b) status result s) s

/-- T_SOF of the last attempt of a buffer's load; without an attempt the manual states none, and it is a free value (log entry 99). -/
def lastSof (x : CanBuf) (s : State) : Nat × State :=
  if x.attempts = 0 then
    let n := takeFree s
    (Config.freeNat n.1 % 2 ^ 32, n.2)
  else (x.tSof.toNat, s)

/-- A loaded buffer settles with an outcome of Table 4: 0 SENT, 1 CANCELLED, 2 FAILED with its cause (R519, R520, R529). -/
def settle (c : Fin 4) (b : Fin 3) (outcome cause : Nat) (s : State) : State :=
  let k := s.can[c]
  let x := k.bufs[b]
  let refused := x.cancel && outcome = 0
  let clear (x : CanBuf) : CanBuf :=
    { x with frame := none, cancel := false, chanKey := none, suspects := 0, reported := false }
  let s := modCan c (fun k => { k with
    onBus := if k.onBus = some b then none else k.onBus
    started := k.started && k.onBus != some b }) (modBuf c b clear s)
  let s := if x.chanKey.isSome then s
    else
      let t := lastSof x s
      raiseCan c 0x0601 (b.val + 4 * outcome + 16 * cause + 256 * b2n refused + 2 ^ 16 * x.attempts + 2 ^ 32 * t.1) t.2
  if outcome = 1 then endCancel c b stOk 0 s
  else endCancel c b stLate (b2n (outcome = 0)) s

/-- Every loaded buffer settles FAILED with a cause. -/
def settleAll (c : Fin 4) (cause : Nat) (s : State) : State :=
  (List.finRange 3).foldl (fun s b => if s.can[c].bufs[b].frame.isSome then settle c b 2 cause s else s) s

/-! ### Error states (R526) -/

/-- States of the controller's channels are reported (R528). -/
def refreshCan (c : Fin 4) : State → State :=
  refreshWhere (fun _ e => (e.map (fun e => isCan e && eController e = c.val)).getD false)

/-- The error state that TEC and REC give. -/
def canStateOf (tec rec : Nat) : BitVec 2 := if 255 < tec then 2 else if 127 < tec || 127 < rec then 1 else 0

/-- Take new counts, which saturate, and the state they give, with CAN_STATE at a change and the effects of bus-off. -/
def canCounts (c : Fin 4) (tec rec : Nat) (s : State) : State :=
  let old := s.can[c].state
  let new := canStateOf tec rec
  let te := min tec 65535
  let re := min rec 65535
  let s := modCan c (fun k => { k with tec := te, recCnt := re, state := new }) s
  if new = old then s
  else
    let s := raiseCan c 0x0602 (new.toNat + 4 * old.toNat + 2 ^ 8 * te + 2 ^ 24 * re) s
    let s := if new = 2 then
        settleAll c 3 (modCan c (fun k => { k with
          busOffs := satAdd 16 k.busOffs 1, onBus := none, started := false, lost := false, recovering := canCfg s c 14 2 = 0 }) s)
      else s
    refreshCan c s

/-- REC after a frame received without error: one less, or, from above 127, a value from 119 to 127 that ISO 11898-1
leaves open. -/
def recGood (rec : Nat) (s : State) : Nat × State :=
  if rec = 0 then (0, s)
  else if rec ≤ 127 then (rec - 1, s)
  else
    let n := takeFree s
    (119 + Config.freeNat n.1 % 9, n.2)

/-- The frame that the controller puts on its bus: in an FD frame it sets ESI when it is error passive (Table 1 and Table 3). -/
def onWire (k : CanSt) (f : CanFrame) : CanFrame := { f with esi := f.fdf && k.state = 1 }

/-- An attempt of a buffer ends: it is counted, with its T_SOF and the frame that was put on the bus (R505, R529). -/
def attempt (c : Fin 4) (b : Fin 3) (sof : Word) (s : State) : State :=
  modCan c (fun k => { k with sent := (k.bufs[b].frame.map (onWire k)).or k.sent, lost := false })
    (modBuf c b (fun x => { x with attempts := satAdd 8 x.attempts 1, tSof := sof }) s)

/-! ### Settings (R507) -/

/-- Controller c is reset: an accepted block changed its fields. -/
def canReset (c : Fin 4) (s : State) : State :=
  let s := settleAll c 4 s
  let s := modCan c (fun k => { k with ring := [], lastError := 0, due := [], onBus := none, started := false, lost := false, integrated := false, recovering := false }) s
  canCounts c 0 0 s

/-- The block of controller c differs. -/
def canChanged (old new : Bytes) (c : Nat) : Bool := (old.drop (8 + 32 * c)).take 32 != (new.drop (8 + 32 * c)).take 32

/-- An accepted CAN block acts on every controller whose fields changed. -/
def canAccept (old new : Bytes) (s : State) : State :=
  (List.finRange 4).foldl (fun s c =>
    if canChanged old new c.val && c.val < nCan s then refreshCan c (canReset c s) else s) s

/-- Ranges of the block of one controller (Table 2, R508). -/
def canValidOne (b : Bytes) (c : Nat) : Bool :=
  let f (k n : Nat) : Nat := fieldAt b (8 + 32 * c + k) n
  let flag (k : Nat) : Bool := bitAt b (8 + 32 * c) k
  let inR (x lo hi : Nat) : Bool := decide (lo ≤ x) && decide (x ≤ hi)
  let nq := f 2 2 * (1 + f 4 2 + f 6 1)
  let dq := f 8 1 * (1 + f 9 1 + f 10 1)
  inR (f 1 1) 1 255 && inR (f 2 2) 1 256 && inR (f 4 2) 2 256 && inR (f 6 1) 2 128 && inR (f 7 1) 1 (f 6 1) &&
  inR (f 8 1) 1 32 && inR (f 9 1) 1 32 && inR (f 10 1) 1 16 && inR (f 11 1) 1 (f 10 1) && f 16 4 % 64 = 0 &&
  (!flag 0 || (decide (10000 * nq ≤ 40000000) && decide (40000000 ≤ 1000000 * nq))) &&
  (!flag 1 || (decide (dq ≤ nq) && decide (40000000 ≤ 5000000 * dq))) &&
  (!flag 2 || (decide (40000000 ≤ 250000 * nq) && decide (3 ≤ f 4 2)))

/-- The block passes R508; the fields of absent controllers are ignored (R5). -/
def canValid (s : State) (b : Bytes) : Bool := (List.range (nCan s)).all (canValidOne b)

/-! ### Channel frames (R521 to R524) -/

/-- The TIME_MS that governs a frame: the lowest non-zero one, or 0. -/
def canFrameTime (chans : List (Nat × Bytes)) : Nat :=
  lowest ((chans.map (fun p => eTimeMs p.2)).filter (fun t => t != 0))

/-- A frame falls due; it keeps one due entry (R521, R522). -/
def canDue (c : Fin 4) (key : Nat) : State → State := modCan c (fun k => { k with due := addTo k.due key })

/-- The pinned channels of a class that task t owns and whose TIME_MS is 0: a commit of the task makes their frames due, whatever else the
entries say (R521, R544). -/
def ownedTx (class_ : Nat) (t : BitVec 7) (s : State) : List Nat :=
  (s.chan.pinned.filter (fun p => p.2.any (fun e => eClass e = class_ && eOwner e = t && eTimeMs e = 0))).map (fun p => p.1)

/-- A CAN frame as its channels are sent now falls due: it is due on its controller under its lowest channel (R399, R521). -/
def canFrameDue (v : State) (e : Bytes) (period : Bool) (s : State) : State :=
  match canFrameChans v e, (List.finRange 4).find? (fun c => c.val = eController e) with
  | chans@(k :: _), some c => if (canFrameTime chans = 0) = period then s else canDue c k.1 s
  | _, _ => s

/-- The frames that a commit of task t makes due (R521). -/
def canCommitDue (t : BitVec 7) (s : State) : State :=
  let v := sendView s
  (ownedTx 8 t s).foldl (fun s id => match entryOf v id with
    | some e => canFrameDue v e false s
    | none => s) s

/-- Place the claim and the unit ID over the data of a claim-aware channel (R524). -/
def placeClaim (s : State) (e : Bytes) (pay : Bytes) : Bytes :=
  if eClaimAware e then
    (patch pay (eClaimOffset e) (leBytes 4 s.ret.ctr.claim.toNat ++ [s.power.slotId.setWidth 8])).take pay.length
  else pay

/-- The data of a channel frame, assembled at the loading (R521, R524). -/
def canPayload (s : State) (chans : List (Nat × Bytes)) (n : Nat) : Bytes :=
  let pay := chans.foldl (fun pay p =>
    if n < ePayOffset p.2 + ePayLength p.2 then pay
    else match netOut s p.1 p.2 with
      | some v => placePayload p.2 v pay
      | none => pay) (zeros n)
  chans.foldl (fun pay p => if n < eClaimOffset p.2 + 5 then pay else placeClaim s p.2 pay) pay

/-- The channel frame whose lowest channel is `key`, assembled now, each channel under the entry of its data (R399). -/
def canChanFrame (s0 : State) (key : Nat) : Option CanFrame :=
  let s := sendView s0
  (entryOf s key).bind (fun e => match canFrameChans s e with
    | [] => none
    | p :: l =>
      let n := dlcBytes (eFdf p.2) (eDlc p.2)
      some { identifier := BitVec.ofNat 29 (eIdentifier e), ide := eIde e, rtr := false, fdf := eFdf e
             brs := eBrs p.2, esi := false, dlc := BitVec.ofNat 4 (eDlc p.2), data := canPayload s (p :: l) n })

/-- Channel frames of this unit may be sent (R523, R574, and no output before start-up has ended). -/
def canMaySend (s : State) : Bool :=
  alive s && !inStartUp s && sendsChannels s && !s.mode.pause

/-- Buffer 2 serves channels (R515). -/
def servesChannels (s : State) (c : Fin 4) : Bool :=
  s.chan.pinned.any (fun p => (p.2.map (fun e => eClass e = 8 && eController e = c.val)).getD false)

/-! ### Reception -/

/-- The mirror of a ring lies wholly within EXPORT_SIZE and host memory can be written (R513). -/
def mirrorOpen (s : State) (on : Bool) (off size : Nat) : Bool :=
  on && s.host.enable && s.host.linkUp && alive s && decide (off + size ≤ exportLimit s.host)

/-- Write a record and the header of a mirror of 1024 records of `size` bytes (R512). -/
def mirrorWrite (off size : Nat) (seq : Half) (rec : Bytes) (s : State) : State :=
  let base := s.host.exportBase.toNat + off
  hostWrite base (leBytes 2 seq.toNat ++ zeros 62) (hostWrite (base + 64 + size * (seq.toNat % 1024)) rec s)

/-- A matching CAN_RX channel takes its bytes, or is in CAN_FRAME_SHORT (R514). -/
def canToChan (f : CanFrame) (s : State) (id : Nat) : State :=
  match entryOf s id with
  | none => s
  | some e =>
    if canLength f < ePayOffset e + ePayLength e then
      refreshChan { s with chan := { s.chan with short := addTo s.chan.short id } } id
    else
      let s := { s with chan := { s.chan with short := dropFrom s.chan.short id, stale := dropFrom s.chan.stale id } }
      refreshChan (receiveChan id e (takePayload e (padTo (canLength f) f.data)) s) id

/-- A pinned CAN_RX channel matches a frame of controller c. -/
def canMatches (s : State) (c : Fin 4) (f : CanFrame) (id : Nat) : Bool :=
  match entryOf s id with
  | none => false
  | some e =>
    eClass e = 7 && !(eBadKind e || eBadField s id e || eMismatch id e) && eController e = c.val && eIde e = f.ide &&
    eFdf e = f.fdf && eIdentifier e = f.identifier.toNat

/-! ### Commands of the host -/

/-- A controller number names a controller that the variant lacks. -/
def canAbsent (s : State) (controller : Byte) : Bool := decide (nCan s ≤ controller.toNat) && decide (controller.toNat < 4)

/-- The frame of an 80-byte record (Table 3); ESI, SEQ and T_SOF of a record to send are ignored. -/
def frameOf (b : Bytes) : CanFrame :=
  let w := fieldAt b 0 4
  let n := dlcBytes (bitAt b 4 0) (bitsOf (fieldAt b 5 1) 3 0)
  { identifier := BitVec.ofNat 29 w, ide := w.testBit 29, rtr := w.testBit 30, fdf := bitAt b 4 0, brs := bitAt b 4 1, esi := false
    dlc := BitVec.ofNat 4 (fieldAt b 5 1), data := padTo 64 (if w.testBit 30 then [] else padTo n ((b.drop 16).take 64)) }

/-- CAN_SEND (R510, R515, R516, R519). -/
def execCanSend (d : Desc) (controller buffer : Byte) (oneShot : Bool) (buf : Bytes) (s : State) : Res :=
  .next (bufferCommand d 0x17 false canReserved freeBuffer buf (fun d buf =>
    let frame := frameOf buf
    hostCommand d 0x17 false (fun s => [
      (!canAbsent s controller, stAbsent), (!inStartUp s, stMode),
      (decide (controller.toNat < 4) && decide (buffer.toNat < 3), stVerify),
      (d.bufLen.toNat = 80, stVerify),
      (if h : controller.toNat < 4 then canFlag s ⟨controller.toNat, h⟩ 0 && !canFlag s ⟨controller.toNat, h⟩ 4 else false, stVerify),
      (frame.ide || decide (frame.identifier.toNat < 2048), stVerify), (!(frame.rtr && frame.fdf), stVerify),
      (frame.fdf || !frame.brs, stVerify),
      (if h : controller.toNat < 4 then !frame.fdf || canFlag s ⟨controller.toNat, h⟩ 1 else false, stVerify)])
    (fun s =>
      if h : controller.toNat < 4 then
        let c : Fin 4 := ⟨controller.toNat, h⟩
        if g : buffer.toNat < 3 then
          let b : Fin 3 := ⟨buffer.toNat, g⟩
          if s.can[c].bufs[b].frame.isSome || (b = 2 && servesChannels s c) then fail d stSpace s
          else
            ok d 0 (canLoaded c (modBuf c b (fun _ => { CanBuf.zero with
              frame := some frame, everLoaded := true, oneShot := oneShot }) s))
        else s
      else s)) s)

/-- CAN_CANCEL (R520). Whether the chosen frame is on the bus when the request arrives is a free value until it is known. -/
def execCanCancel (d : Desc) (controller buffer : Byte) (s : State) : Res :=
  .next (hostCommand d 0x18 false (fun s => [
      (!canAbsent s controller, stAbsent), (!inStartUp s, stMode),
      (decide (controller.toNat < 4) && decide (buffer.toNat < 3), stVerify)])
    (fun s =>
      if h : controller.toNat < 4 then
        let c : Fin 4 := ⟨controller.toNat, h⟩
        if g : buffer.toNat < 3 then
          let b : Fin 3 := ⟨buffer.toNat, g⟩
          let x := s.can[c].bufs[b]
          if x.frame.isNone then (if x.everLoaded then fail d stLate s else ok d 0 s)
          else
            let r := if s.can[c].onBus = some b then hasStarted c s else (false, s)
            let s := r.2
            if r.1 then defer d 0x18 (.canCancel c b) (modBuf c b (fun x => { x with cancel := true }) s)
            else
              let s := settle c b 1 0 s
              ok d 0 (if s.can[c].onBus.isNone then canChoose c s else s)
        else s
      else s) s)

/-! ### Bus events -/

/-- The majority of three samples of a bit (R509). -/
def major (a b c : Bool) : Bool := (a && b) || (b && c) || (a && c)

/-- The majority of three samples of each bit of a byte. -/
def majorByte (a b c : Byte) : Byte := (a &&& b) ||| (b &&& c) ||| (a &&& c)

/-- A frame as the controller samples it (R509). With TRIPLE set, each nominal-phase bit is the majority of its value at the sample point, in
`f`, and at the two time quanta before it; ESI, DLC and data of a frame with BRS lie in the FD data phase, which is sampled once. -/
def sampledFrame (triple : Bool) (early2 early1 f : CanFrame) : CanFrame :=
  if !triple then f
  else
    let head : CanFrame := { f with
      identifier := (early2.identifier &&& early1.identifier) ||| (early1.identifier &&& f.identifier) |||
        (early2.identifier &&& f.identifier)
      ide := major early2.ide early1.ide f.ide, rtr := major early2.rtr early1.rtr f.rtr, fdf := major early2.fdf early1.fdf f.fdf
      brs := major early2.brs early1.brs f.brs }
    if head.fdf && head.brs then head
    else
      let dlc := (early2.dlc &&& early1.dlc) ||| (early1.dlc &&& f.dlc) ||| (early2.dlc &&& f.dlc)
      { head with
        esi := major early2.esi early1.esi f.esi, dlc := dlc
        data := (List.range (dlcBytes head.fdf dlc.toNat)).map (fun i =>
          majorByte (byteAt early2.data i) (byteAt early1.data i) (byteAt f.data i)) }

/-- A reception in the activation pause is held, to be delivered at its end (R666). -/
def holdRx (x : HeldRx) (s : State) : State := { s with fw := { s.fw with heldRx := s.fw.heldRx ++ [x] } }

/-- A frame that the controller has sampled reaches its receive ring, mirror, channels and triggers, and the controller chooses
for the start-of-frame after it (R511 to R514, R517, R526). -/
def receiveCan (c : Fin 4) (f : CanFrame) (sof : Word) (s : State) : State :=
  let k := s.can[c]
  let g := recGood k.recCnt s
  let s := canCounts c k.tec g.1 g.2
  let rcd := canRecord f k.seq sof
  let off := canCfg s c 16 4
  let open_ := mirrorOpen s (canFlag s c 5) off 81984
  let s := modCan c (fun k => { k with
    seq := k.seq + 1, rxFrames := satAdd 32 k.rxFrames 1
    ring := Tab.set k.ring (k.seq.toNat % 1024) rcd
    skipped := if canFlag s c 5 && !open_ then satAdd 16 k.skipped 1 else k.skipped }) s
  let s := if open_ then mirrorWrite off 80 k.seq rcd s else s
  let s := if f.rtr then s else ((pinnedIds s).filter (canMatches s c f)).foldl (canToChan f) s
  canChoose c (triggerAll (triggered s 2 (fun a => a.triggerSel.toNat = c.val && a.triggerCond = 0)) s)

/-- The frame of another node has left the bus (R518). -/
def offBus (c : Fin 4) (s : State) : State := if canOn s c then modCan c (fun k => { k with lost := false }) s else s

/-- CAN_FRAME_RECEIVE (R509, R511 to R514, R526, R666): the frame as it stands on the bus at the sample points, and at the two time quanta
before them. -/
def execCanFrameReceive (c : Fin 4) (f : CanSamples) (sof : Word) (s : State) : Res :=
  let f := sampledFrame (canFlag s c 2) f.early2 f.early1 f.frame
  let s := offBus c s
  .next (if !canOn s c || (f.fdf && !canFlag s c 1) then s
  else if s.mode.pause then holdRx (.can c f sof) s
  else receiveCan c f sof s)

/-- The attempt in progress: the chosen buffer, or the one that is chosen now; a channel frame that may no longer be sent only where its
start-of-frame has been (R517, R523). -/
def canAttempt (s : State) (c : Fin 4) : Option (Fin 3) :=
  let kept (b : Fin 3) : Bool := s.can[c].started || s.can[c].bufs[b].chanKey.isNone || sendsChannels s
  (s.can[c].onBus.filter kept).orElse (fun _ => canChoice s c)

/-- CAN_TX_COMPLETE (R518, R519, R526). -/
def execCanTxComplete (c : Fin 4) (sof : Word) (s : State) : Res :=
  .next (if !canOn s c then s
  else match canAttempt s c with
    | none => s
    | some b =>
      let s := settle c b 0 0 (attempt c b sof s)
      canChoose c (canCounts c (s.can[c].tec - 1) s.can[c].recCnt s))

/-- CAN_ARBITRATION_LOST (R518, R520, R527). -/
def execCanArbitrationLost (c : Fin 4) (sof : Word) (s : State) : Res :=
  .next (if !canOn s c then s
  else match canAttempt s c with
    | none => s
    | some b =>
      let s := modBuf c b (fun x => { x with suspects := 0 }) (attempt c b sof s)
      let x := s.can[c].bufs[b]
      let s := modCan c (fun k => { k with lost := true }) s
      canChoose c (if x.cancel then settle c b 1 0 s else if x.oneShot then settle c b 2 1 s else s))

/-- A suspected collision of a buffer's frame, or the end of its run (R527). -/
def suspect (c : Fin 4) (b : Fin 3) (e : CanError) (s : State) : State :=
  if e.collision && e.arbitrationWon && e.kind = 1 then
    let x := s.can[c].bufs[b]
    let n := x.suspects + 1
    let s := modBuf c b (fun x => { x with suspects := n }) s
    if canCfg s c 1 1 ≤ n && !x.reported then
      let f := x.frame
      raiseCan c 0x0603 (b.val + 2 ^ 8 * (n % 256) + 2 ^ 16 * ((f.map (fun f => f.identifier.toNat)).getD 0) +
          2 ^ 45 * b2n ((f.map (fun f => f.ide)).getD false))
        (modCan c (fun k => { k with collisions := satAdd 16 k.collisions 1 })
          (modBuf c b (fun x => { x with reported := true }) s))
    else s
  else modBuf c b (fun x => { x with suspects := 0 }) s

/-- TEC after an error met as the transmitter (ISO 11898-1). -/
def tecAfter (k : CanSt) (e : CanError) : Nat :=
  if e.kind = 4 && k.state = 1 && !e.dominantAfterFlag then k.tec
  else if e.kind = 2 && !e.arbitrationWon then k.tec
  else k.tec + 8

/-- CAN_BUS_ERROR (R518, R520, R526, R527). -/
def execCanBusError (c : Fin 4) (e : CanError) (sof : Word) (s : State) : Res :=
  .next (if !canOn s c then s
  else
    let s := modCan c (fun k => { k with lastError := e.kind, lost := false }) s
    if e.transmitter then
      match canAttempt s c with
      | none => s
      | some b =>
        let s := suspect c b e (attempt c b sof s)
        let x := s.can[c].bufs[b]
        let tec := tecAfter s.can[c] e
        let s := if x.cancel then settle c b 1 0 s else if x.oneShot then settle c b 2 2 s else s
        canChoose c (canCounts c tec s.can[c].recCnt s)
    else canChoose c (canCounts c s.can[c].tec (s.can[c].recCnt + (if e.dominantAfterFlag then 8 else 1)) s))

/-- CAN_RECOVER_WAIT_EXPIRE (R526). -/
def execCanRecoverWaitExpire (c : Fin 4) (s : State) : Res :=
  .next (if s.can[c].state = 2 && alive s then modCan c (fun k => { k with recovering := true }) s else s)

/-- CAN_BUS_OFF_RECOVERY (R526). -/
def execCanBusOffRecovery (c : Fin 4) (s : State) : Res :=
  .next (if s.can[c].state = 2 && s.can[c].recovering && alive s then
    canChoose c (canCounts c 0 0 (modCan c (fun k => { k with recovering := false }) s))
  else s)

/-- CAN_INTEGRATE (R507). -/
def execCanIntegrate (c : Fin 4) (s : State) : Res :=
  .next (if canEnabled s c.val && alive s && !s.can[c].integrated then
    canChoose c (modCan c (fun k => { k with integrated := true }) s)
  else s)

/-- CAN_TX_PERIOD (R399, R521): the frame as its channels are sent now. -/
def execCanTxPeriod (c : Fin 4) (chan : BitVec 12) (s : State) : Res :=
  .next (let v := sendView s
  match entryOf v chan.toNat with
  | none => s
  | some e => if eClass e != 8 || eController e != c.val || !alive s then s else canFrameDue v e true s)

/-- The due frame that goes first (R522): the one that wins arbitration. -/
def canFirst (s : State) (c : Fin 4) : Option (Nat × CanFrame) :=
  let all := s.can[c].due.filterMap (fun k => (canChanFrame s k).map (fun f => (k, f)))
  match all.filter (fun p => !p.2.fdf || canFlag s c 1) with
  | [] => none
  | p :: l => some (l.foldl (fun best q => if arbKey q.2 < arbKey best.2 then q else best) p)

/-- CAN_BUFFER2_LOAD (R515, R522 to R524, R574). -/
def execCanBuffer2Load (c : Fin 4) (s : State) : Res :=
  .next (if !(canOn s c && canMaySend s && servesChannels s c && s.can[c].bufs[2].frame.isNone) || canFlag s c 4 then s
  else match canFirst s c with
    | none => s
    | some (key, f) =>
      canLoaded c (modBuf c 2 (fun _ => { CanBuf.zero with
          frame := some { f with data := padTo 64 f.data }, everLoaded := true, chanKey := some key })
        (modCan c (fun k => { k with due := dropFrom k.due key }) s)))

end Sys2Proof.Machine
end

