-- ==== Sys2Proof/Machine/Eth.lean ====
section
/-! DEFINITION. The Ethernet ports, the local clock's adjustments and the PTP engine's effects, with the commands of
the family (Ethernet and Time). The engine itself is an opaque constant (log entry 9). -/

namespace Sys2Proof.Machine

/-! ### Ports and frames -/

/-- Change port p. -/
def modEth (p : Fin 2) (f : EthSt → EthSt) (s : State) : State := { s with eth := s.eth.set p (f s.eth[p]) p.isLt }

/-- A flag of byte 0 of a port's block. -/
def ethFlag (s : State) (p : Fin 2) (bit : Nat) : Bool := bitAt (block s 0x0420) (8 + 32 * p.val) bit

/-- The port works: enabled, with a link. -/
def ethOn (s : State) (p : Fin 2) : Bool := ethEnabled s p.val && s.eth[p].link && alive s

/-- The MAC address of port p, first byte on the wire first. -/
def macOf (s : State) (p : Fin 2) : Bytes := leBytes 6 (if p = 0 then s.factory.mac0 else s.factory.mac1).toNat

/-- IP_ADDR of port p. -/
def ipOf (s : State) (p : Fin 2) : Bytes := ((block s 0x0420).drop (12 + 32 * p.val)).take 4

/-- Nanoseconds of one byte on the wire at a speed. -/
def byteNs (speed : BitVec 2) : Nat := if speed = 3 then 8 else if speed = 2 then 80 else 800

/-- The PHY latency constant of a direction at a speed (R534). -/
def phyNs (l : List Nat) (speed : BitVec 2) : Nat := l.getD (speed.toNat - 1) 0

/-- The error of Table 2 at a speed, in ns. -/
def stampError (speed : BitVec 2) : Nat := if speed = 3 then 8 else if speed = 2 then 16 else 80

/-- Wire time of a frame with preamble, FCS and inter-frame gap. -/
def wireNs (speed : BitVec 2) (f : EthFrame) : Nat := (max f.bytes.length 60 + 4 + 8 + 12) * byteNs speed

/-- A queue head is eligible (R535). -/
def eligible (s : State) (f : EthFrame) : Bool := match f.launch with
  | some t => decide (t ≤ totalNs s)
  | none => true

/-- A frame would still occupy the wire at the LAUNCH_TIME of another queue's head, now or later, unless that is its own (R535). -/
def wouldBlock (s : State) (p : Fin 2) (q : Fin 8) (f : EthFrame) : Bool :=
  (List.finRange 8).any (fun r => r != q && ((s.eth[p].queues[r].head?.bind (fun h => h.launch)).map (fun t =>
    decide (totalNs s ≤ t) && decide (t < totalNs s + wireNs s.eth[p].speed f) && f.launch != some t)).getD false)

/-- The head whose LAUNCH_TIME has passed, of the highest-priority queue: it goes as soon as the wire is free (R535, R536). -/
def lateHead (s : State) (p : Fin 2) (may : Fin 8 → Bool) : Option (Fin 8) :=
  (List.finRange 8).reverse.find? (fun q =>
    ((s.eth[p].queues[q].head?.bind (fun f => f.launch)).map (fun t => decide (t < totalNs s))).getD false && may q)

/-- Channel frames that wait in the queues of a unit that sends none leave them unsent (R546, R574). -/
def dropUnsent (p : Fin 2) (s : State) : State :=
  if sendsChannels s then s else modEth p (fun e => { e with queues := e.queues.map (fun q => q.filter (fun f => f.chanKey.isNone)) })
    s

/-- The head of a queue may be started now (R535). -/
def mayLeave (s : State) (p : Fin 2) (q : Fin 8) : Bool :=
  (s.eth[p].queues[q].head?.map (fun f => eligible s f && !wouldBlock s p q f)).getD false

/-- When the wire is free, start a head whose LAUNCH_TIME has passed, else the eligible head of the highest-priority queue (R535, R536). -/
def ethStart (p : Fin 2) (s : State) : State :=
  if s.eth[p].wire.isSome || !ethOn s p then s
  else
    let s := dropUnsent p s
    modEth p (fun e => { e with
      wire := (lateHead s p (mayLeave s p)).or ((List.finRange 8).reverse.find? (mayLeave s p)), wireFrom := totalNs s }) s

/-- Every port tries to start a frame. -/
def ethStartAll (s : State) : State := (List.finRange 2).foldl (fun s p => ethStart p s) s

/-- Change queue q of port p. -/
def modQueue (p : Fin 2) (q : Fin 8) (f : List EthFrame → List EthFrame) : State → State :=
  modEth p (fun e => { e with queues := e.queues.set q (f e.queues[q]) q.isLt })

/-- Put a frame at the end of a queue. -/
def enqueueFrame (p : Fin 2) (q : Fin 8) (f : EthFrame) (s : State) : State :=
  ethStart p (modQueue p q (fun l => l ++ [f]) s)

/-- Queue a frame of the module's own; the queue it uses is a free value (log entry 37). -/
def enqueueOwn (p : Fin 2) (f : EthFrame) (s : State) : State :=
  let n := takeFree s
  enqueueFrame p ⟨Config.freeNat n.1 % 8, Nat.mod_lt _ (by decide)⟩ f n.2

/-- A frame of the module's own. -/
def ownFrame (b : Bytes) (key : Option Nat) : EthFrame :=
  { bytes := b, launch := none, insert_ := 0, udpFix := false, ptpOffset := 0, fixOffset := 0, ingress := 0
    ring := none, since := 0, chanKey := key }

/-- A frame of the PTP engine; only with ONE_STEP does the port insert a stamp into it (R554, Table 8). -/
def ptpFrame (s : State) (x : Config.PtpFrame) : EthFrame :=
  if bitAt (block s 0x0421) 0 4 then
    { ownFrame x.bytes none with
      insert_ := x.insert_, udpFix := x.udpFix, ptpOffset := x.ptpOffset, fixOffset := x.fixOffset, ingress := x.ingress }
  else ownFrame x.bytes none

/-- What the PTP engine answers to an event on a port, under the settings in force (R553, R554). -/
def ptpAnswer (s : State) (e : Config.PtpEvent) : Config.PtpAnswer :=
  Config.ptpEngine (block s 0x0421) (macOf s 0 ++ ipOf s 0 ++ macOf s 1 ++ ipOf s 1) s.ptp.seen e

/-- Port events carry SOURCE 0x7000 + p (R558). -/
def raiseEth (p : Fin 2) (code data : Nat) : State → State := raise (0x7000 + p.val) code 0 data

/-! ### Check sums -/

/-- The sum of big-endian 16-bit words, an odd last byte padded with zero. -/
def sum16 : Bytes → Nat
  | [] => 0
  | [a] => 256 * a.toNat
  | a :: b :: l => 256 * a.toNat + b.toNat + sum16 l

/-- One's complement check sum of 16-bit words. -/
def inetSum (b : Bytes) : Nat :=
  let n := sum16 b % 65535
  65535 - (if n = 0 && sum16 b != 0 then 65535 else n)

/-- The pseudo header of UDP over IPv4. -/
def pseudo (src dst : Bytes) (len : Nat) : Bytes := src ++ dst ++ [0#8, 17#8] ++ beBytes 2 len

/-! ### One-step insertion (R540, R541) -/

/-- The frame as it leaves with an egress stamp. -/
def inserted (f : EthFrame) (egress : Nat) : Bytes :=
  if f.insert_ = 1 then
    patch f.bytes (f.ptpOffset + 34) (beBytes 6 (egress / 1000000000) ++ beBytes 4 (egress % 1000000000))
  else if f.insert_ = 2 then
    let old := beNat ((f.bytes.drop (f.ptpOffset + 8)).take 8)
    patch f.bytes (f.ptpOffset + 8)
      (beBytes 8 (unsigned 64 (old + ((egress : Int) - f.ingress.toNat) * 65536)))
  else f.bytes

/-- Rewrite the repair bytes so that the one's complement sum of the frame stays what it was. -/
def repaired (f : EthFrame) (b : Bytes) : Bytes :=
  if !f.udpFix then b
  else
    let delta := (sum16 f.bytes % 65535 + 65535 - sum16 b % 65535) % 65535
    let two := (b.drop f.fixOffset).take 2
    if f.fixOffset % 2 = 0 then patch b f.fixOffset (beBytes 2 ((beNat two + delta) % 65535))
    else patch b f.fixOffset (leBytes 2 ((leNat two + delta) % 65535))

/-- Pad to 60 bytes and append the FCS (R538). -/
def withFcs (b : Bytes) : Bytes :=
  let b := padTo (max 60 b.length) b
  b ++ leBytes 4 (crc32 b).toNat

/-! ### Channel frames (R544 to R546) -/

/-- PEER_MAC of an entry. -/
def ePeerMac (e : Bytes) : Bytes := (e.drop 20).take 6
/-- PEER_IP of an entry. -/
def ePeerIp (e : Bytes) : Bytes := (e.drop 28).take 4

/-- Two ETH_TX entries form one frame. -/
def sameEthFrame (a b : Bytes) : Bool :=
  eClass a = 10 && eClass b = 10 && ePort a = ePort b && eUdp a = eUdp b && ePeerMac a = ePeerMac b && eKey a = eKey b &&
  (!eUdp a || ePeerIp a = ePeerIp b)

/-- The pinned ETH_TX channels of one frame whose entries are valid, lowest channel ID first (R392, R544). -/
def ethFrameChans (s : State) (e : Bytes) : List (Nat × Bytes) :=
  s.chan.pinned.filterMap (fun p => match p.2 with
    | some x =>
      if sameEthFrame x e && !(eBadKind x || eBadField s p.1 x || eMismatch p.1 x) then some (p.1, x) else none
    | none => none)

/-- The payload of a channel frame, assembled at the loading (R521, R544). -/
def ethPayload (s : State) (chans : List (Nat × Bytes)) : Bytes :=
  let n := (chans.map (fun p => ePayOffset p.2 + ePayLength p.2)).foldl max 0
  chans.foldl (fun pay p => match netOut s p.1 p.2 with
    | some v => placePayload p.2 v pay
    | none => pay) (zeros n)

/-- The bytes of a channel frame around its payload (R545). -/
def ethBytes (s : State) (p : Fin 2) (e : Bytes) (pay : Bytes) : Bytes :=
  let head := ePeerMac e ++ macOf s p
  if eUdp e then
    let len := pay.length + 8
    let udp (sum : Nat) : Bytes := beBytes 2 (eKey e) ++ beBytes 2 (eKey e) ++ beBytes 2 len ++ beBytes 2 sum ++ pay
    let sum := inetSum (pseudo (ipOf s p) (ePeerIp e) len ++ udp 0)
    let ip (sum : Nat) : Bytes :=
      [0x45#8, 0#8] ++ beBytes 2 (len + 20) ++ beBytes 2 s.eth[p].ident.toNat ++ [0x40#8, 0#8, 64#8, 17#8] ++
      beBytes 2 sum ++ ipOf s p ++ ePeerIp e
    head ++ [0x08#8, 0#8] ++ ip (inetSum (ip 0)) ++ udp (if sum = 0 then 65535 else sum)
  else head ++ beBytes 2 (eKey e) ++ padTo (max 46 pay.length) pay

/-- A channel frame falls due and is loaded into its queue at once, each channel under the entry of its data (R399, R521, R522, R544);
nothing is sent in TRACK, with the role undecided or superseded, or without a link (R546, R547, R574). -/
def ethDue (e : Bytes) (s : State) : State :=
  let v := sendView s
  match ethFrameChans v e, (List.finRange 2).find? (fun p => p.val = ePort e) with
  | (k, x) :: l, some p =>
    if !canMaySend s || !ethOn s p then s
    else
      enqueueFrame p ⟨eQueue x % 8, by omega⟩ (ownFrame (ethBytes s p x (ethPayload v ((k, x) :: l))) (some k))
        (modEth p (fun y => { y with ident := if eUdp x then y.ident + 1 else y.ident }) s)
  | _, _ => s

/-- The frames that a commit of task t makes due (R399, R521, R544). -/
def ethCommitDue (t : BitVec 7) (s : State) : State :=
  let v := sendView s
  (((ownedTx 10 t s).filterMap (fun id => (entryOf v id).bind (fun e =>
      match ethFrameChans v e with
       | k :: l => if canFrameTime (k :: l) = 0 then some k else none
       | [] => none))).eraseDups).foldl (fun s k => ethDue k.2 s) s

/-! ### Reception -/

/-- Where the EtherType of a frame stands, after one optional tag (R543). -/
def typeAt (b : Bytes) : Nat := if beNat ((b.drop 12).take 2) = 0x8100 then 16 else 12

/-- The UDP payload of a frame that passes the checks of Table 5 for a port number, with its source address. -/
def udpPayload (b : Bytes) (port : Nat) : Option (Bytes × Bytes) :=
  let t := typeAt b
  let ip := b.drop (t + 2)
  let hl := 4 * ((byteAt ip 0).toNat % 16)
  let u := ip.drop hl
  let len := beNat ((u.drop 4).take 2)
  let src := (ip.drop 12).take 4
  let dst := (ip.drop 16).take 4
  let sum := beNat ((u.drop 6).take 2)
  if beNat ((b.drop t).take 2) = 0x0800 && (byteAt ip 0).toNat / 16 = 4 && decide (20 ≤ hl) && inetSum (ip.take hl) = 0 &&
     beNat ((ip.drop 6).take 2) % 0x4000 = 0 && byteAt ip 9 = 17 && beNat ((u.drop 2).take 2) = port &&
     decide (8 ≤ len) && decide (len ≤ u.length) && (sum = 0 || inetSum (pseudo src dst len ++ u.take len) = 0)
  then some (src, (u.take len).drop 8)
  else none

/-- The payload that a frame has for an ETH_RX channel, none when it does not match (Table 5). -/
def ethMatch (e : Bytes) (b : Bytes) : Option Bytes :=
  if eUdp e then
    (udpPayload b (eKey e)).bind (fun p => if ePeerIp e = zeros 4 || ePeerIp e = p.1 then some p.2 else none)
  else
    let t := typeAt b
    if beNat ((b.drop t).take 2) = eKey e && (ePeerMac e = zeros 6 || ePeerMac e = (b.drop 6).take 6) then
      some (b.drop (t + 2))
    else none

/-- An ETH_RX channel takes its bytes of a matching frame, or is in ETH_FRAME_SHORT (R543). -/
def ethToChan (pay : Bytes) (s : State) (id : Nat) (e : Bytes) : State :=
  if pay.length < ePayOffset e + ePayLength e then
    refreshChan { s with chan := { s.chan with short := addTo s.chan.short id } } id
  else
    let s := { s with chan := { s.chan with short := dropFrom s.chan.short id, stale := dropFrom s.chan.stale id } }
    refreshChan (receiveChan id e (takePayload e pay) s) id

/-- The pinned ETH_RX channels of a port that a frame matches, with their payload. -/
def ethMatches (s : State) (p : Fin 2) (b : Bytes) : List (Nat × Bytes × Bytes) :=
  s.chan.pinned.filterMap (fun c => match c.2 with
    | some e =>
      if eClass e = 9 && !(eBadKind e || eBadField s c.1 e || eMismatch c.1 e) && ePort e = p.val then
        (ethMatch e b).map (fun pay => (c.1, e, pay))
      else none
    | none => none)

/-- The answer to an ARP request for IP_ADDR, none for another frame (ARP_EN). -/
def arpReply (s : State) (p : Fin 2) (b : Bytes) : Option Bytes :=
  let t := typeAt b
  let a := b.drop (t + 2)
  if ethFlag s p 4 && beNat ((b.drop t).take 2) = 0x0806 && a.take 8 = [0#8, 1#8, 8#8, 0#8, 6#8, 4#8, 0#8, 1#8] &&
     (a.drop 24).take 4 = ipOf s p
  then
    some ((a.drop 8).take 6 ++ macOf s p ++ [8#8, 6#8, 0#8, 1#8, 8#8, 0#8, 6#8, 4#8, 0#8, 2#8] ++ macOf s p ++ ipOf s p ++
      (a.drop 8).take 10)
  else none

/-- The 1,600 bytes of a mirror record (Table 4). -/
def ethRecord (b : Bytes) (seq : Half) (sfd : Nat) (flags : Nat) : Bytes :=
  leBytes 2 b.length ++ leBytes 2 seq.toNat ++ leBytes 4 sfd ++ [BitVec.ofNat 8 flags] ++ zeros 23 ++ padTo 1568 b

/-! ### The local clock and the engine -/

/-- The local clock steps to a new value, with CLOCK_STEPPED (R549, R551, R559). -/
def stepClock (lc : Nat) (s : State) : State :=
  let d : Int := (lc / nsUnit : Nat) - (s.time.lc / nsUnit : Nat)
  let s := { s with time := { s.time with lc := lc % lcWrap, steps := satAdd 32 s.time.steps 1 } }
  ethStartAll (raise 0x7010 0x0710 0 (unsigned 64 d) s)

/-- The engine runs on port p. -/
def ptpRuns (s : State) (p : Fin 2) : Bool :=
  ptpRole s = 3 || (ptpRole s = 2 && p.val = b2n (bitAt (block s 0x0421) 0 6))

/-- A port that the engine runs takes a new state, with PTP_STATE at a change (R558, R559). -/
def ptpPort (p : Fin 2) (new : BitVec 4) (gm : DWord) (s : State) : State :=
  let old := s.eth[p].ptpState
  if !ptpRuns s p || old = new then s
  else raise 0x7010 0x0711 0 (new.toNat + 16 * p.val + 2 ^ 16 * (gm.toNat % 2 ^ 48)) (modEth p (fun e => { e with ptpState := new }) s)

/-- What the engine's answer to an event does, on both ports (R549, R554, R558, R559). -/
def ptpEffect (x : Config.PtpEvent) (a : Config.PtpAnswer) (s : State) : State :=
  let s := { s with ptp := { s.ptp with
    seen := s.ptp.seen ++ [x], grandmaster := a.grandmaster, utcOffset := a.utcOffset, gmIdentity := a.gmIdentity
    pathDelay := a.pathDelay, offsetNs := if a.hasOffset then a.offsetNs else s.ptp.offsetNs } }
  let s := ptpPort 1 a.portState1 a.gmIdentity (ptpPort 0 a.portState0 a.gmIdentity s)
  let limit := fieldAt (block s 0x0421) 8 4
  let slave := (s.eth[0].ptpState = 9 || s.eth[1].ptpState = 9) && a.hasOffset
  let s := if slave && decide (limit < a.offsetNs.natAbs) then
      stepClock (((s.time.lc : Int) - a.offsetNs * nsUnit) % (lcWrap : Nat)).toNat s
    else if slave then
      { s with time := { s.time with freq := a.freq, timeValid := true } }
    else s
  let s := a.send.foldl (fun s x =>
    let q : Fin 2 := if x.1 then 1 else 0
    if ptpRuns s q then enqueueOwn q (ptpFrame s x.2) s else s) s
  refreshSource s

/-- A frame carries PTP: EtherType 0x88F7, or UDP port 319 or 320 (TRANSPORT). -/
def isPtp (s : State) (b : Bytes) : Bool :=
  if bitAt (block s 0x0421) 0 5 then (udpPayload b 319).isSome || (udpPayload b 320).isSome
  else beNat ((b.drop (typeAt b)).take 2) = 0x88F7

/-! ### Settings -/

/-- The port block passes R532: MIRROR_OFFSET is a multiple of 64. -/
def ethValid (b : Bytes) : Bool := fieldAt b 16 4 % 64 = 0 && fieldAt b 48 4 % 64 = 0

/-- The link of a port goes down. -/
def ethDown (p : Fin 2) (s : State) : State :=
  if !s.eth[p].link then s
  else
    let sp := s.eth[p].speed
    let s := modEth p (fun e => { e with link := false, wire := none }) s
    refreshWhere (fun _ e => (e.map (fun e => isEth e && ePort e = p.val)).getD false) (raiseEth p 0x0701 (2 * sp.toNat) s)

/-- An accepted block restarts each port whose fields changed (R532). -/
def ethAccept (old new : Bytes) (s : State) : State :=
  (List.finRange 2).foldl (fun s p =>
    if canChanged old new p.val then
      refreshWhere (fun _ e => (e.map (fun e => isEth e && ePort e = p.val)).getD false) (ethDown p s)
    else s) s

/-- An accepted time settings block: the engine begins anew, ports that it does not run are idle, and an idle engine is no grandmaster
(R554, R559). -/
def timeAccept (s : State) : State :=
  let s := (List.finRange 2).foldl (fun s p => if ptpRuns s p then s else modEth p (fun e => { e with ptpState := 0 }) s) s
  let s := { s with ptp := { s.ptp with seen := [] } }
  if decide (ptpRole s < 2) then { s with ptp := { s.ptp with grandmaster := false } } else s

/-- The time settings block passes R553. -/
def timeValid (s : State) (b : Bytes) : Bool :=
  let r (i : Nat) (lo hi : Int) : Bool := decide (lo ≤ signed 8 (fieldAt b i 1)) && decide (signed 8 (fieldAt b i 1) ≤ hi)
  let prof := bitsOf (fieldAt b 0 1) 3 2
  prof != 3 && decide (fieldAt b 1 1 ≤ 127) && r 5 (-7) 4 && r 6 (-3) 4 && r 7 (-7) 5 &&
  decide (1000 ≤ fieldAt b 8 4) && decide (fieldAt b 8 4 ≤ 1000000000) &&
  !(prof = 2 && (bitAt b 0 5 || fieldAt b 1 1 != 0)) &&
  !(bitsOf (fieldAt b 0 1) 1 0 = 3 && !(ethEnabled s 0 && ethEnabled s 1))

/-! ### Commands of the host -/

/-- ETH_SEND (R538, R539). -/
def execEthSend (d : Desc) (port queue : Byte) (launch stamp : Bool) (launchTime : DWord) (buf : Bytes) (s : State) : Res :=
  .next (bufferCommand d 0x19 false ethReserved freeBuffer buf (fun d buf =>
    let len := fieldAt buf 0 2
    let ins := bitsOf (fieldAt buf 2 1) 1 0
    let fix := bitAt buf 2 2
    let po := fieldAt buf 4 2
    let fo := fieldAt buf 6 2
    hostCommand d 0x19 false (fun s => [
      (decide (port.toNat < 2) && decide (queue.toNat < 8), stVerify),
      (decide (16 + len ≤ d.bufLen.toNat), stVerify), (decide (14 ≤ len) && decide (len ≤ 1518) && ins != 3, stVerify),
      (ins = 0 || decide (po + 44 ≤ len), stVerify),
      (!fix || (ins != 0 && decide (fo + 2 ≤ len) && decide (po + 44 ≤ fo)), stVerify),
      (ethEnabled s port.toNat, stVerify),
      (!launch || decide (launchTime.toNat ≤ totalNs s + 1000000000), stVerify)])
    (fun s =>
      if launch && decide (launchTime.toNat < totalNs s) then fail d stLate s
      else if h : port.toNat < 2 then
        if g : queue.toNat < 8 then
          let p : Fin 2 := ⟨port.toNat, h⟩
          let f : EthFrame :=
            { bytes := (padTo (16 + len) buf).drop 16, launch := if launch then some launchTime.toNat else none
              insert_ := BitVec.ofNat 2 ins, udpFix := fix, ptpOffset := po, fixOffset := fo
              ingress := BitVec.ofNat 64 (fieldAt buf 8 8), ring := some d.ring, since := s.time.net
              chanKey := none }
          enqueueFrame p ⟨queue.toNat, g⟩ f (defer d 0x19 (.ethSend p stamp) s)
        else s
      else s)) s)

/-- CLOCK_READ: the sample of both time bases and the tick number (R557). -/
def clockSample (s : State) : Bytes :=
  let ns := s.time.lc / nsUnit
  leBytes 6 (ns / 1000000000) ++ zeros 2 ++ leBytes 4 (ns % 1000000000) ++ zeros 4 ++ leBytes 8 (nowUs s) ++
  leBytes 8 s.time.tickNo

/-- CLOCK_READ (R557, R367). -/
def execClockRead (d : Desc) (s : State) : Res :=
  .next (hostCommand d 0x15 false (fun _ => [(decide (32 ≤ d.bufLen.toNat), stSpace)])
    (fun s => ok d 32 (output d (clockSample s) s)) s)

/-- CLOCK_ADJUST SET (R549 to R551). -/
def execClockAdjustSet (d : Desc) (seconds : BitVec 48) (nanoseconds : Word) (s : State) : Res :=
  .next (hostCommand d 0x16 false (fun s => [(clockMode s, stMode), (decide (nanoseconds.toNat < 1000000000), stVerify)])
    (fun s => ok d 0 (refreshSource
      (stepClock ((seconds.toNat * 1000000000 + nanoseconds.toNat) * nsUnit)
        { s with time := { s.time with timeValid := true } }))) s)

/-- The total ns value after a step, before any wrap. -/
def stepped (s : State) (ns : DWord) : Int := (s.time.lc / nsUnit : Nat) + ns.toInt

/-- CLOCK_ADJUST STEP (R549 to R551). -/
def execClockAdjustStep (d : Desc) (ns : DWord) (s : State) : Res :=
  .next (hostCommand d 0x16 false (fun s => [(clockMode s, stMode),
      (decide (0 ≤ stepped s ns) && decide (stepped s ns < 2 ^ 48 * 1000000000), stVerify)])
    (fun s => ok d 0 (refreshSource
      (stepClock ((s.time.lc : Int) + ns.toInt * nsUnit).toNat { s with time := { s.time with timeValid := true } }))) s)

/-- CLOCK_ADJUST FREQ (R550). -/
def execClockAdjustFreq (d : Desc) (freq : Word) (s : State) : Res :=
  .next (hostCommand d 0x16 false (fun s => [(clockMode s, stMode)])
    (fun s => ok d 0 (refreshSource { s with time := { s.time with freq := freq } })) s)

/-! ### Port events -/

/-- An accepted frame reaches its channels, the engine, the firmware and its mirror (R534, R542, R543, R554). -/
def receiveEth (p : Fin 2) (frame : Bytes) (sfd : Nat) (s : State) : State :=
  let t := (sfd % 2 ^ 64 + 2 ^ 64 - phyNs s.factory.phyRx s.eth[p].speed) % 2 ^ 64
  let seq := s.eth[p].seq
  let hits := ethMatches s p frame
  let updates := hits.any (fun h => decide (ePayOffset h.2.1 + ePayLength h.2.1 ≤ h.2.2.length))
  let s := hits.foldl (fun s h => ethToChan h.2.2 s h.1 h.2.1) s
  let arp := arpReply s p frame
  let s := match arp with
    | some b => enqueueOwn p (ownFrame b none) s
    | none => s
  let x : Config.PtpEvent := { port := p.val, message := 16, frame := frame, stamp := t }
  let ans := ptpAnswer s x
  let ptp := ptpRuns s p && isPtp s frame && ans.used
  let s := if ptpRuns s p && isPtp s frame then ptpEffect x ans s else s
  let at_ := typeAt frame
  let s := if beNat ((frame.drop at_).take 2) = 0x88B5 then passMessage true (BitVec.ofNat 5 p.val) (frame.drop (at_ + 2)) s else s
  let off := fieldAt (block s 0x0420) (16 + 32 * p.val) 4
  let open_ := mirrorOpen s (ethFlag s p 3) off 409664
  let s := modEth p (fun e => { e with
    seq := seq + 1, rxFrames := satAdd 32 e.rxFrames 1
    skipped := if ethFlag s p 3 && !open_ then satAdd 16 e.skipped 1 else e.skipped }) s
  if open_ then
    let r := ethRecord frame seq t (b2n updates + 2 * b2n ptp + 4 * b2n arp.isSome)
    let base := s.host.exportBase.toNat + off
    hostWrite base (leBytes 2 seq.toNat ++ zeros 62) (hostWrite (base + 64 + 1600 * (seq.toNat % 256)) r s)
  else s

/-- A frame that has arrived is accepted, or discarded and counted (R533). -/
def arriveEth (p : Fin 2) (frame : Bytes) (fcsGood : Bool) (sfd : Nat) (s : State) : State :=
  let dst := frame.take 6
  let mine := dst = macOf s p || (byteAt dst 0).getLsbD 0
  if !(fcsGood && decide (frame.length ≤ 1518) && decide (14 ≤ frame.length) && mine) then
    modEth p (fun e => { e with rxErrors := satAdd 16 e.rxErrors 1 }) s
  else receiveEth p frame sfd s

/-- The reading of the local clock as the delimiter of a frame that has just ended passed: the row tells it, no further back than the frame
is long on the wire (R534; log entry 121). -/
def arrivedAt (s : State) (p : Fin 2) (frame : Bytes) (sfd : Nat) : Nat :=
  let long := (frame.length + 24) * byteNs s.eth[p].speed
  if (totalNs s + 2 ^ 64 - sfd % 2 ^ 64) % 2 ^ 64 ≤ long then sfd else totalNs s - long

/-- ETH_FRAME_RECEIVE (R533, R534, R542, R543, R554, R666): `sfd` is the reading of the local clock as the delimiter passed, to which the
clocks move when it lies ahead. -/
def execEthFrameReceive (p : Fin 2) (frame : Bytes) (fcsGood : Bool) (sfd : Nat) (s : State) : Res :=
  .next (if !ethOn s p then s
  else
    let s := advanceLocal sfd s
    let sfd := arrivedAt s p frame sfd
    if s.mode.pause then holdRx (.eth p frame fcsGood sfd) s else arriveEth p frame fcsGood sfd s)

/-- ETH_LAUNCH (R535, R536): the clocks move to the LAUNCH_TIME, and the head becomes eligible. -/
def execEthLaunch (p : Fin 2) (queue : Fin 8) (s : State) : Res :=
  .next (match (s.eth[p].queues[queue].head?).bind (fun f => f.launch) with
  | none => s
  | some t =>
    if !alive s then s
    else ethStartAll (advanceLocal t s))

/-- The reading of the local clock as the delimiter of the frame on the wire passed the PHY: it follows the start of the frame by its
preamble, to within a NET tick; the row tells where (R534, R535; log entry 121). -/
def delimiterAt (s : State) (p : Fin 2) (sfd : Nat) : Nat :=
  max s.eth[p].wireFrom (min sfd (s.eth[p].wireFrom + 8 * byteNs s.eth[p].speed + 8))

/-- The egress stamp of a frame, referred to the MDI by the PHY constant: a frame with a launch time that found the wire free at it has its
delimiter there at LAUNCH_TIME, within the error of Table 2 (R534, R536). -/
def egress (s : State) (p : Fin 2) (f : EthFrame) (sfd : Nat) : Nat :=
  let t := delimiterAt s p sfd + phyNs s.factory.phyTx s.eth[p].speed
  match f.launch with
  | some x => if s.eth[p].wireFrom ≤ x + 8 then max (x - stampError s.eth[p].speed) (min t (x + stampError s.eth[p].speed)) else t
  | none => t

/-- ETH_FRAME_SENT (R534 to R541): the clocks move to the instant at which the delimiter passed, when it lies ahead. -/
def execEthFrameSent (p : Fin 2) (queue : Fin 8) (sfd : Nat) (s : State) : Res :=
  .next (if s.eth[p].wire != some queue || !ethOn s p then s
  else match s.eth[p].queues[queue] with
    | [] => s
    | f :: l =>
      let sp := s.eth[p].speed
      let t := egress s p f sfd
      let s := advanceLocal (delimiterAt s p sfd) s
      let late := (f.launch.map (fun x => if x + stampError sp < t then t - x else 0)).getD 0
      let s := modEth p (fun e => { e with
        wire := none, lastSent := some (withFcs (repaired f (inserted f t))), txFrames := satAdd 32 e.txFrames 1
        late := if 0 < late then satAdd 16 e.late 1 else e.late }) (modQueue p queue (fun _ => l) s)
      let s := if 0 < late then raiseEth p 0x0702 (queue.val + 2 ^ 32 * min late 0xFFFFFFFF) s else s
      let s := match f.ring with
        | some k => (match (ring s k).busy with
          | some { wait := .ethSend _ st, .. } =>
            completeWait k (fun w => w = .ethSend p st) stOk (if st then t % 2 ^ 32 else 0) s
          | _ => s)
        | none => s
      let s := if ptpRuns s p && isPtp s f.bytes && f.ring.isNone && f.chanKey.isNone then
          let x : Config.PtpEvent := { port := p.val, message := 17, frame := f.bytes, stamp := t }
          ptpEffect x (ptpAnswer s x) s
        else s
      ethStart p s)

/-- NET ticks until a frame of an ETH_SEND times out: 1 s after the later of its start and its LAUNCH_TIME (R538). -/
def sendLimit (s : State) (f : EthFrame) : Nat :=
  max (f.since + 125000000 - s.time.net) ((f.launch.map (fun t => ticksTo (t + 1000000000) s)).getD 0)

/-- The frame of an ETH_SEND among those that times out first. -/
def firstOut (s : State) : List EthFrame → Option EthFrame
  | [] => none
  | f :: l =>
    match firstOut s l with
    | none => if f.ring.isSome then some f else none
    | some g => if f.ring.isSome && decide (sendLimit s f ≤ sendLimit s g) then some f else some g

/-- ETH_SEND_TIMEOUT (R538): of the frames that have not been started, the one that times out first; the clocks move to that instant. -/
def execEthSendTimeout (p : Fin 2) (queue : Fin 8) (s : State) : Res :=
  let started := if s.eth[p].wire = some queue then s.eth[p].queues[queue].take 1 else []
  let waiting := if s.eth[p].wire = some queue then s.eth[p].queues[queue].drop 1 else s.eth[p].queues[queue]
  .next (match firstOut s waiting with
  | some f =>
    let s := modQueue p queue (fun _ => started ++ waiting.erase f) (netTicks (sendLimit s f) s)
    (match f.ring with
     | some k => ethStart p (completeWait k (fun w => match w with
         | .ethSend q _ => q = p
         | _ => false) stTimeout 0 s)
     | none => s)
  | none => s)

/-- A speed that SPEED lets the port negotiate (Table 1). -/
def speedAllowed (s : State) (p : Fin 2) (speed : BitVec 2) : Bool :=
  let set := bitsOf (fieldAt (block s 0x0420) (8 + 32 * p.val) 1) 2 1
  speed != 0 && (set = 0 || set = speed.toNat)

/-- ETH_LINK (R532, R547, R558). -/
def execEthLink (p : Fin 2) (up : Bool) (speed : BitVec 2) (s : State) : Res :=
  .next (if !alive s then s
  else if !up then ethDown p s
  else if !ethEnabled s p.val || !speedAllowed s p speed || (s.eth[p].link && s.eth[p].speed = speed) then s
  else
    let s := modEth p (fun e => { e with link := true, speed := speed }) s
    ethStart p (refreshWhere (fun _ e => (e.map (fun e => isEth e && ePort e = p.val)).getD false)
      (raiseEth p 0x0701 (1 + 2 * speed.toNat) s)))

/-- ETH_TX_PERIOD (R399, R521, R544, R546): the frame as its channels are sent now. -/
def execEthTxPeriod (p : Fin 2) (chan : BitVec 12) (s : State) : Res :=
  .next (let v := sendView s
  match entryOf v chan.toNat with
  | none => s
  | some e =>
    if eClass e != 10 || ePort e != p.val || canFrameTime (ethFrameChans v e) = 0 then s else ethDue e s)

/-- PTP_MESSAGE_TIMER (R554). -/
def execPtpMessageTimer (p : Fin 2) (message : BitVec 4) (s : State) : Res :=
  .next (if ptpRuns s p && ethOn s p then
    let x : Config.PtpEvent := { port := p.val, message := message.toNat, frame := [], stamp := totalNs s }
    ptpEffect x (ptpAnswer s x) s
  else s)

end Sys2Proof.Machine
end

