-- ==== Sys2Proof/Machine/Startup.lean ====
section
/-! DEFINITION. The module at the start of start-up phase 1 and at its end (Power, Clocks and Start-up; R345, R646,
R648, R650, R695, R704). -/

namespace Sys2Proof.Machine

/-- The store state of Table 2 of Power, Clocks and Start-up by voltage in mV and capacitance in 10 µF; `late` when
36.0 V was not reached within 300 ms. -/
def storeState (mv c : Nat) (late : Bool) : BitVec 2 :=
  if c < 150 then 3
  else if mv < 36000 then (if late then 3 else 1)
  else if 180 ≤ c then 0 else 2

/-- Take a store state, raising HOLDUP_STATE at a change (R634). -/
def setStore (st : BitVec 2) (s : State) : State :=
  let changed := st != s.power.store
  let s := { s with power := { s.power with store := st } }
  if changed then
    raise 0xB000 0x0B03 0 (st.toNat + 2 ^ 16 * (s.power.storeC % 2 ^ 16) + 2 ^ 32 * (s.power.storeMv / 10 % 2 ^ 16)) s
  else s

/-- V_SAVE of the state in force, in mV (Table 2 of Power, Clocks and Start-up). -/
def vSave (p : PowerSt) : Nat := if p.store = 3 then 28000 else 20000

/-- Every record that waits is written to the recorder before a start-up that keeps the supply, under the energy check (R594; log entry
15). -/
def flushRecorder (s : State) : RetSt :=
  s.recorder.queue.foldl (fun r e => writeChecked s.power.storeMv s.recorder.total e.1 e.2 r) s.ret

/-- A slot found in RECEIVING at start-up is EMPTY (R660). -/
def slotAtStart (f : FwSlot) : FwSlot := if f.state = 1 then { f with state := 0, image := [], length := 0 } else f

/-- The counts of the counting inputs, which start at zero at power-on only (R425). -/
def keepCounts (s : State) (f : FieldSt) : FieldSt :=
  { f with di := Vector.ofFn (fun i => { f.di[i] with count := s.field.di[i].count }) }

/-- The module at the start of phase 1: what is non-volatile is kept, retired stalls and solvers among it (R161, R165),
everything else stands as at reset. `powered` when the supply was never lost (MODE_SET START_UP): the base tick number then starts
again at 0 with the T0 that this start-up fixes (log entry 91), and no number that it has given a commit comes again (R28). The task
counters stay then, and start at zero after a loss of supply (R76; log entry 106). -/
def startAfresh (powered : Bool) (s : State) : State :=
  let r := State.reset
  let p := s.power
  let kept := if powered then flushRecorder s else s.ret
  { r with
    factory := s.factory
    time := { r.time with tickUs := fieldAt (block s 0x0101) 0 4, net := s.time.net }
    power := { p with
      endedUs := none, saving := false, saveDue := none, stopped := false, coreFault := false
      tripLow := p.tripPulse, rideMs := if p.interrupted then p.rideMs else bitsOf (fieldAt (block s 0x0603) 0 1) 3 0 }
    host := { HostIf.zero with perst := s.host.perst }
    hostMem := s.hostMem
    recorder := { r.recorder with lost := if powered then s.recorder.lost else 0 }
    field := if powered || p.coreFault then keepCounts s r.field else r.field
    ret := { r.ret with
      mram := kept.mram, sealLock := s.ret.sealLock, blocks := s.ret.blocks
      ops := if powered then s.ret.ops else []
      saveWaits := if powered then s.ret.saveWaits else []
      setCopy := if powered then s.ret.setCopy else []
      ctr := if powered then s.ret.ctr else r.ret.ctr
      ctrCopy := if powered then kept.ctrCopy else (0, 0)
      idxCopy := if powered then kept.idxCopy else (0, 0)
      retCopy := if powered then kept.retCopy else (0, 0) }
    proj := { s.proj with pend := none, boundary := none }
    prof := { r.prof with table := s.prof.table }
    commit := { r.commit with next := if powered then s.commit.next else r.commit.next }
    tasks := if powered then s.tasks.map (fun k => { TaskSt.zero with ctr := k.ctr }) else r.tasks
    stalls := s.stalls.map (fun st => { Stall.zero st.state with margin := st.margin, aged := st.aged, byTest := st.byTest })
    barns := Vector.ofFn (fun i => { Barn.zero with
      present := decide (i.val < nBarns s), solverOut := (barn s i).solverOut, solverMargin := (barn s i).solverMargin })
    yard := { r.yard with rules := block s 0x0102 }
    chan := { r.chan with store := s.chan.store, warden := s.chan.warden }
    ihloz := { IhlozSt.zero with scheds := s.ihloz.scheds }
    wdt := { WdtSt.zero with
      latch := if powered && s.wdt.latchHeld then none else s.wdt.latch, latchCount := s.wdt.latchCount }
    fw := { s.fw with slot0 := slotAtStart s.fw.slot0, slot1 := slotAtStart s.fw.slot1, xfers := [], inbox := [], heldRx := [] }
    free := s.free
    pending := s.pending }

/-- Start-up phase 1 begins (R634, R646): the charger runs, but in an interruption, where the store's state stays as it was. An
interruption goes on through a start-up until the input is back (R633). -/
def startUp (powered : Bool) (s : State) : State :=
  let s' := startAfresh powered s
  if s'.power.interrupted then s' else setStore (storeState s'.power.storeMv s'.power.storeC false) s'

end Sys2Proof.Machine
end

