-- ==== Sys2Proof/Machine/Pair.lean ====
section
/-! DEFINITION. The Telith link, roles, claims, the claim gate, heartbeats and takeover, with the commands of the family
but for bales (Hot Standby and the Telith Link). -/

namespace Sys2Proof.Machine

/-! ### The pair -/

/-- The Telith link is present and enabled. -/
def telithOn (s : State) : Bool := hasTelith s && bitAt (block s 0x0501) 0 0

/-- SOLO_TIMEOUT_MS, PARTNER_NODE and TAKEOVER_ON_SAFE have their ranges (R561). -/
def telithValid (b : Bytes) : Bool := decide (100 ≤ fieldAt b 2 2) && decide (fieldAt b 2 2 ≤ 10000)

/-- Redundancy events carry SOURCE 0x8000 (R590). -/
def raisePair (code data : Nat) : State → State := raise 0x8000 code 0 data

/-- The larger of two claims. -/
def maxWord (a b : Word) : Word := if a < b then b else a

/-- Change the pair. -/
def modPair (f : PairSt → PairSt) (s : State) : State := { s with pair := f s.pair }

/-- The unit ID of the partner. -/
def partnerUnit (s : State) : Nat := (s.pair.partner.map (fun p => p.unitId.toNat)).getD 0

/-- Active here means role active or solo and mode RUN or HOLD (R565). -/
def isActive (role : BitVec 2) (mode : BitVec 4) : Bool := (role = 0 || role = 1) && (mode = mRun || mode = mHold)

/-- A trained partner is active, by its last heartbeat or its identity record. -/
def partnerActive (s : State) : Bool :=
  s.pair.trained && (match s.pair.beat, s.pair.partner with
    | some b, _ => isActive b.role b.mode
    | none, some p => isActive p.role p.mode
    | none, none => false)

/-- A trained partner is in TRACK. -/
def partnerTracks (s : State) : Bool :=
  s.pair.trained && ((s.pair.beat.map (fun b => decide (b.mode = mTrack))).getD false)

/-- LOAD_ID of the loaded project, or 0. -/
def ownLoadId (s : State) : Word := if s.proj.loaded then s.proj.loadId else 0

/-- EDIT_ID of the prepared or applied edit, or 0. -/
def ownEditId (s : State) : Word := if s.proj.edit = 0 then 0 else (s.proj.pkg.map (fun p => p.editId)).getD 0

/-- BALE_FORMAT of the running firmware: that of the active slot's image, and 1, as the manual has it, without a known one (R562, R588, R658). -/
def baleFormat (s : State) : Byte := (Mem.find (if s.fw.active then s.fw.slot1 else s.fw.slot0).image 18).getD 1

/-- What differs from the partner (R567): LOAD_ID, edit, BALE_FORMAT, task time or tick. -/
def pairDiffers (s : State) : BitVec 4 :=
  match s.pair.partner with
  | none => 0xF
  | some p =>
    BitVec.ofNat 4 (b2n (p.loadId != ownLoadId s) + 2 * b2n (p.editId != ownEditId s || p.editState != s.proj.edit) +
      4 * b2n (p.baleFormat != baleFormat s) +
      8 * b2n (match s.pair.skew with
        | some (t, u) => t != 0 || decide (1 < u.natAbs)
        | none => true))

/-! ### The claim gate -/

/-- The unit becomes superseded (R574): its direct outputs apply their SAFE_ACT values. -/
def supersede (claim : Word) (via : Nat) (s : State) : State :=
  if s.pair.superseded then s
  else
    let s := modPair (fun p => { p with superseded := true }) s
    raisePair 0x0808 (claim.toNat + 2 ^ 32 * via)
      (settleOutputs directOutputs { s with commit := { s.commit with direct := [], aligned := [] } })

/-- HANDOVER of this unit has ended: the command completes with a status. -/
def endHandover (status : Byte) (s : State) : State :=
  (List.finRange 8).foldl (fun s k => completeWait k (fun w => w = .handover) status 0 s)
    (modPair (fun p => { p with handover := none }) s)

/-- The old active unit of a handover sees the higher claim and enters TRACK with cause 0x07, which makes the last bale of its queue (R578, R583,
R584). -/
def handOver (s : State) : State :=
  modPair (fun p => { p with role := 2 }) (changeMode mTrack 7 0xFF 0 (endHandover stOk s))

/-- A claim is seen over Telith (0) or Ihloz (1), with the unit ID of its holder (R569, R572, R574, R583). A superseded unit stays so until
MODE_SET STOP, a pending handover or not. -/
def seeClaim (claim : Word) (unit via : Nat) (s : State) : State :=
  let own := s.ret.ctr.claim
  let s := modPair (fun p => { p with highest := if p.highest < claim then claim else p.highest }) s
  let lost := own < claim || (own = claim && decide (s.power.slotId.toNat < unit))
  if !(runs s && lost) then s
  else if s.pair.handover.isSome && !s.pair.superseded && own < claim then handOver s
  else supersede claim via s

/-! ### Takeover (R581, R582) -/

/-- The standby refuses to take over: its direct outputs apply SAFE_ACT and it stays in TRACK. -/
def refuseTakeover (notCurrent failed : Bool) (s : State) : State :=
  let s := modPair (fun p => { p with takeover := none, takeoverFail := true }) s
  raisePair 0x0807 (b2n notCurrent + 2 * b2n failed) (settleOutputs directOutputs s)

/-- An event of R581 reaches a standby in TRACK: it takes its new claim, or refuses. Each event is answered, also one after a refusal (log
entry 123). -/
def takeoverEvent (handover : Bool) (s : State) : State :=
  if s.mode.mode != mTrack || s.pair.takeover.isSome then s
  else if !s.pair.current then (if handover then s else refuseTakeover true false s)
  else takeClaim .takeover (modPair (fun p => { p with takeover := some (nowUsUp s, handover) }) s)

/-- A unit in RUN or HOLD is writing the claim of its role decision: no commit of its own reaches an output stage meanwhile (R570). -/
def claimHolds (s : State) : Bool := runs s && (s.pair.claiming.map (fun c => decide (c.2 = ClaimFor.roleDecision))).getD false

/-- The commits that waited for the claim reach the direct outputs, once it is written or has failed: those that are due at once, and those
whose base tick has begun since (R570; log entry 123). -/
def releaseHeld (s : State) : State :=
  let past (d : OutDue) : Bool := s.time.ticked && decide (d.at_ + 2 * usUnit ≤ tickTime s s.time.tickNo * usUnit)
  let due := s.commit.direct ++ s.commit.aligned.filter past
  if !(runs s) || s.mode.pause then s
  else
    applyDue due { s with commit := { s.commit with direct := [], aligned := s.commit.aligned.filter (fun d => !past d) } }

/-- A new claim cannot be written (R571). -/
def claimFailed (claim : Word) (why : ClaimFor) (s : State) : State :=
  let occasion : Nat := match why with
    | .startup => 0
    | .modeSet => 1
    | .takeover => 2
    | .roleDecision => 3
  let s := modPair (fun p => { p with claiming := none }) s
  let s := raisePair 0x080D (claim.toNat + 2 ^ 32 * occasion) s
  match why with
  | .startup => modPair (fun p => { p with takeoverFail := true }) s
  | .modeSet => (List.finRange 8).foldl (fun s k => completeWait k (fun w => match w with
      | .modeRun _ _ _ => true
      | _ => false) stTimeout 0 s) s
  | .takeover => refuseTakeover false true s
  | .roleDecision => releaseHeld (if s.pair.highest < s.ret.ctr.claim then s
      else seeClaim s.pair.highest (partnerUnit s) 0 s)

/-- The waiting MODE_SET RUN enters RUN under the new claim (Table 11 of Tasks, Cycle and Modes). -/
def modeRunNow (s : State) : State :=
  (List.finRange 8).foldl (fun s k => match (ring s k).busy with
    | some { wait := .modeRun start reason _, .. } =>
      if s.mode.mode != mStop then completeWait k (fun _ => true) stMode 0 s
      else
        completeWait k (fun _ => true) stOk 1 (enterRun (start.setWidth 2) 0 k.val reason.toNat s)
    | _ => s) s

/-! ### Training and roles -/

/-- A role is decided by a row of Table 4. -/
def decideRole (role : BitVec 2) (beaten : Bool) (row : Nat) (s : State) : State :=
  let s := modPair (fun p => { p with role := role }) s
  raisePair 0x0804 (role.toNat + 4 * b2n beaten + 8 * row + 2 ^ 32 * s.ret.ctr.claim.toNat) s

/-- The link is lost or dropped, with the cause of LINK_LOST (R564, R589, R590). -/
def dropLink (cause : Nat) (s : State) : State :=
  if !s.pair.trained then s
  else
    let s := modPair (fun p => { p with
      trained := false, lanes := 0, rate := 0, step := 0, linksLost := satAdd 32 p.linksLost 1, bales := []
      bulk := none, current := p.current && s.mode.mode = mTrack }) s
    raisePair 0x0802 cause s

/-- Training begins at step 1 (R562). -/
def startTraining (s : State) : State :=
  if telithOn s then modPair (fun p => { p with step := 1, clash := false, trained := false, rate := 0, lanes := 0 }) s else s

/-- RETRAIN of every ring that waits for it completes (R589). -/
def endRetrain (s : State) : State :=
  (List.finRange 8).foldl (fun s k => completeWait k (fun w => w = .retrain) stOk 0 s) s

/-- An accepted Telith block retrains the link; with ENABLE at 0 the role is solo (R561). -/
def telithAccept (s : State) : State :=
  let s := dropLink 2 s
  if telithOn s then startTraining s
  else modPair (fun p => { p with step := 0, role := 0, rate := 0, lanes := 0 }) s

/-- TELITH_TRAINING_START (R562, R566). -/
def execTelithTrainingStart (s : State) : Res :=
  .next (if alive s && !s.pair.trained && s.pair.step = 0 && !s.pair.clash then startTraining s else s)

/-- Equal unit IDs: training stops and the unit decides as if no partner were present; the claims received count as seen (R566, R569). -/
def unitClash (i : Identity) (s : State) : State :=
  let s := modPair (fun p => { p with
    step := 0, clash := true, partner := none, rate := 0, lanes := 0, highest := maxWord p.highest (maxWord i.claim i.highest) }) s
  decideRole 0 false 1 (raisePair 0x080C (i.unitId.toNat + 2 ^ 8 * (i.serial.toNat % 2 ^ 56)) s)

/-- The identity record of the partner has arrived (R562, R566, R569). -/
def takeIdentity (i : Identity) (s : State) : State :=
  if i.unitId = s.power.slotId then unitClash i s
  else
    modPair (fun p => { p with
      partner := some i, beat := none, step := 6
      skew := some ((s.time.tickNo : Int) - i.tick.toNat, (nowUs s : Int) - i.taskTime.toNat)
      highest := maxWord p.highest (maxWord i.claim i.highest) }) s

/-- The identity record that this unit sends in step 5 (Table 3). -/
def ownIdentity (s : State) : Identity :=
  { serial := s.factory.serial, unitId := s.power.slotId, mode := s.mode.mode, role := s.pair.role, baleFormat := baleFormat s
    claim := s.ret.ctr.claim, highest := highestClaim s, loadId := ownLoadId s, editId := ownEditId s, editState := s.proj.edit
    taskTime := BitVec.ofNat 64 (nowUs s), tick := BitVec.ofNat 64 s.time.tickNo }

/-- TRAINING_STEP_DONE (R562, R564): steps 1 to 5. -/
def execTrainingStepDone (lanes : BitVec 2) (partner : Option Identity) (s : State) : Res :=
  .next (if !alive s || s.pair.trained then s
  else if s.pair.step = 1 then modPair (fun p => { p with step := 2 }) s
  else if s.pair.step = 2 then modPair (fun p => { p with step := 3, rate := 1 }) s
  else if s.pair.step = 3 then modPair (fun p => { p with step := 4 }) s
  else if s.pair.step = 4 then (if lanes = 0 then s
    else modPair (fun p => { p with step := 5, lanes := lanes, sentIdentity := some (ownIdentity s) }) s)
  else if s.pair.step = 5 then (match partner with
    | some i => takeIdentity i s
    | none => s)
  else s)

/-- TRAINING_STEP_TIMEOUT (R562): back to step 1, but step 3 first tries the next lower rate. -/
def execTrainingStepTimeout (s : State) : Res :=
  .next (if !alive s || s.pair.trained || s.pair.step ≤ 1 then s
  else if s.pair.step = 3 && decide (s.pair.rate.toNat < 3) then modPair (fun p => { p with rate := p.rate + 1 }) s
  else modPair (fun p => { p with step := 1, rate := 0, lanes := 0 }) s)

/-- SOLO_TIMEOUT (R562, R565, R589): a unit without a decided partner role is solo; one whose partner was lost keeps its
role. RETRAIN completes, also where training stopped at a clash. -/
def execSoloTimeout (s : State) : Res :=
  let decides := telithOn s && s.pair.step != 0 && (s.pair.role = 3 || s.pair.role = 0)
  .next (if !alive s || s.pair.trained then s
  else endRetrain (if decides then decideRole 0 false 1 s else s))

/-- This unit's claim wins over the partner's in Table 4. -/
def claimWins (s : State) (i : Identity) : Bool :=
  i.claim < s.ret.ctr.claim || (i.claim = s.ret.ctr.claim && i.unitId < s.power.slotId)

/-- The row of Table 4 that applies with a partner, the role and whether this unit is superseded. -/
def roleRow (s : State) (i : Identity) : Nat × BitVec 2 × Bool :=
  let me := isActive s.pair.role s.mode.mode
  let it := isActive i.role i.mode
  if me && it then (2, 1, !claimWins s i)
  else if it then (3, 2, false)
  else if me then (4, 1, false)
  else (5, if claimWins s i then 1 else 2, false)

/-- LINK_TRAINED (Table 10). -/
def linkTrained (i : Identity) (s : State) : State :=
  raisePair 0x0801 (s.pair.rate.toNat + 4 * s.pair.lanes.toNat + 16 * i.unitId.toNat + 2 ^ 32 * i.claim.toNat) s

/-! ### Start-up of a pair (R568, R570) -/

/-- Start-up has reached the end of phase `n`. -/
def inPhase (s : State) (n : Nat) : Bool := inStartUp s && s.mode.phase = n && alive s

/-- AUTO_RUN of the cycle settings block. -/
def autoRun (s : State) : Bool := bitAt (block s 0x0101) 4 0

/-- Start-up will end in RUN, if the claim can be written (Table 11 of Tasks, Cycle and Modes). -/
def endsInRun (s : State) : Bool :=
  autoRun s && s.proj.loaded && !s.pair.clash && (s.pair.role = 0 || s.pair.role = 1)

/-- Task time starts at a value, and sampling is counted from there (R648, R649). -/
def startTime (task : Nat) (s : State) : State :=
  { s with
    time := { s.time with running := true, task := task }
    field := { s.field with convLast := task / usUnit, diGrp := s.field.diGrp.map (fun g => { g with last := task / usUnit }) }
    loops := s.loops.map (fun l => { l with past := [] }) }

/-- The partner's task time and base tick number, as last heard (R568). -/
def partnerTime (s : State) : Option (Nat × Nat) :=
  match s.pair.beat, s.pair.partner with
  | some b, _ => some (b.taskTime.toNat, b.tick.toNat)
  | none, some i => some (i.taskTime.toNat, i.tick.toNat)
  | none, none => none

/-- A unit whose role is decided as STANDBY in phase 7, before T0 is fixed, takes the partner's task time and base tick numbering (R568). -/
def takePartnerTime (s : State) : State :=
  match partnerTime s with
  | some (us, tick) =>
    if inPhase s 7 && !s.time.t0Fixed && s.pair.role = 2 then
      let s := startTime (us * usUnit) s
      refreshSource { s with time := { s.time with ticked := true, tickNo := tick } }
    else s
  | none => s

/-- A role decision that leaves a unit in phase 8 to end start-up in RUN needs a claim, unless the one taken or begun there still lies above every
claim seen (R570). -/
def startupClaim (ended : Bool) (s : State) : State :=
  let enough := match s.pair.claiming with
    | some (c, _) => decide (s.pair.highest < c)
    | none => ended && decide (s.pair.highest ≤ s.ret.ctr.claim)
  if inPhase s 8 && endsInRun s && !s.pair.takeoverFail && !enough then takeClaim .startup s else s

/-- ROLE_DECISION (R565, R568, R570, R574): step 6 completes and the link is trained. -/
def execRoleDecision (s : State) : Res :=
  .next (match s.pair.partner with
  | none => s
  | some i =>
    if !alive s || s.pair.trained || s.pair.step != 6 then s
    else
      let r := roleRow s i
      let ended := endsInRun s
      let s := modPair (fun p => { p with
        trained := true, step := 0
        current := false, takeoverFail := p.takeoverFail && inStartUp s
        bulk := if s.mode.mode = mTrack then some (0, nowUs s) else p.bulk }) s
      let s := linkTrained i (decideRole r.2.1 r.2.2 r.1 s)
      let s := if r.2.2 then supersede i.claim 0 s else s
      let s := if r.2.1 = 1 && !s.pair.superseded && runs s && s.ret.ctr.claim ≤ i.claim then takeClaim .roleDecision s else s
      endRetrain (startupClaim ended (takePartnerTime s)))

/-- LINK_LANE (R564). -/
def execLinkLane (lane : Fin 2) (s : State) : Res :=
  .next (if !(s.pair.trained && alive s) || s.pair.lanes != 3 then s
  else
    let left : BitVec 2 := if lane = 0 then 2 else 1
    raisePair 0x0803 left.toNat (modPair (fun p => { p with lanes := left }) s))

/-- TELITH_LINK_LOST (R564, R581, R582). -/
def execTelithLinkLost (s : State) : Res :=
  .next (if !(s.pair.trained && alive s) then s else takeoverEvent false (dropLink 0 s))

/-! ### Heartbeats -/

/-- The heartbeat that this unit sends now (R580). -/
def ownBeat (s : State) : Heartbeat :=
  { lane := 0, claim := s.ret.ctr.claim, highest := highestClaim s, role := s.pair.role, mode := s.mode.mode
    taskTime := BitVec.ofNat 64 (nowUs s), tick := BitVec.ofNat 64 s.time.tickNo
    lastBale := BitVec.ofNat 64 s.pair.lastBale
    relinquish := s.pair.role = 1 && s.mode.mode = mSafe && s.mode.safeCause != 0 }

/-- A heartbeat goes out on every trained lane (R580). -/
def sendBeats (s : State) : State :=
  modPair (fun p => { p with
    sentBeats := Vector.ofFn (fun l => if p.lanes.getLsbD l then some (ownBeat s) else p.sentBeats[l]) }) s

/-- HEARTBEAT_SEND (R580, R638). -/
def execHeartbeatSend (s : State) : Res :=
  .next (if s.pair.trained && alive s then sendBeats s else s)

/-- In TRACK task time follows the partner's (R556, R568). -/
def followPartner (h : Heartbeat) (s : State) : State :=
  if s.time.source = 2 then steer (((h.taskTime.toNat : Int) - nowUs s) * 1000) 0 10000 s else s

/-- HEARTBEAT_RECEIVE (R569, R573, R574, R580, R581, R583). -/
def execHeartbeatReceive (h : Heartbeat) (s : State) : Res :=
  .next (if !(s.pair.trained && alive s) then s
  else
    let before := s.pair.beat.map (fun b => b.mode)
    let s := modPair (fun p => { p with
      beat := some h
      skew := some ((s.time.tickNo : Int) - h.tick.toNat, (nowUs s : Int) - h.taskTime.toNat)
      current := p.current && (s.mode.mode = mTrack || h.mode = mTrack) }) s
    let s := followPartner h s
    let s := seeClaim (maxWord h.claim h.highest) (if h.claim < h.highest then 0 else partnerUnit s) 0 s
    let s := if s.mode.mode = mTrack && before != some h.mode then settleOutputs directOutputs s else s
    if h.relinquish && bitAt (block s 0x0501) 0 2 then takeoverEvent false s else s)

/-- CLAIM_TAKEN (R570): the write of the counters with the new claim has completed. -/
def execClaimTaken (s : State) : Res :=
  .next (match s.pair.claiming with
  | none => s
  | some (c, why) =>
    let pendingOp := s.ret.ops.any (fun o => match o.kind with
      | .counters (some _) => true
      | _ => false)
    if pendingOp || !alive s then s
    else
      let before := highestClaim s
      let s := { s with ret := { s.ret with ctr := { s.ret.ctr with claim := c } } }
      let s := modPair (fun p => { p with claiming := none }) s
      let s := raisePair 0x0805 (c.toNat + 2 ^ 32 * before.toNat) s
      match why with
      | .modeSet => modeRunNow s
      | .roleDecision => releaseHeld s
      | _ => s)

/-- The standby enters RUN with its new claim at the base tick (R115, R581). -/
def takeOver (s : State) : State :=
  let s := modPair (fun p => { p with role := 1 }) s
  let s := { s with commit := { s.commit with next := max s.commit.next (lastNumber s + 2 ^ 32) } }
  let waiting := s.pair.aligned
  let s := changeMode mRun 6 0xFF 0 (armWdt s)
  let s := { s with
    mode := { s.mode with restart := 3 }
    commit := { s.commit with aligned := waiting } }
  let s := modTasks (fun k => { k with firstRun := true }) s
  raisePair 0x0806 s.pair.lastBale s

/-- TAKEOVER (R581): the clocks move to the first base tick at least 25 µs after the event. -/
def execTakeover (s : State) : Res :=
  .next (match s.pair.takeover with
  | none => s
  | some (t, _) =>
    let at_ := tickTime s (nextTick s)
    if s.mode.mode != mTrack || !alive s || s.pair.claiming.isSome || at_ < t + 25 then s
    else takeOver (advanceTo at_ s))

/-- HANDOVER_REQUEST_RECEIVE (R583). -/
def execHandoverRequestReceive (s : State) : Res :=
  .next (if s.pair.trained && alive s then takeoverEvent true s else s)

/-- HANDOVER_TIMEOUT (R584): a handover of REDUNDANCY_CONTROL; an escalation of Paired Execution stays pending. -/
def execHandoverTimeout (s : State) : Res :=
  .next (if s.pair.handover != some none && (waiter (fun w => w = .handover) s).isNone then s
  else
    let h := s.pair.handover
    modPair (fun p => { p with handover := if h = some none then none else h }) (endHandover stTimeout s))

end Sys2Proof.Machine
end

