-- ==== Sys2Proof/Machine/Ihloz.lean ====
section
/-! DEFINITION. The Ihloz node and the star unit, with the commands of the family (Ihloz Time-Triggered Network; the votes
of Online Edit and Profiles; the pair map of Hot Standby). -/

namespace Sys2Proof.Machine

/-! ### Frames (R466) -/

/-- The 32 bytes of a header (Table 1). -/
def headerBytes (h : IhlozHeader) : Bytes :=
  [BitVec.ofNat 8 (h.sender.toNat + 32 * h.type.toNat + 128 * b2n h.channelB), h.slot,
   BitVec.ofNat 8 (h.mode.toNat + 8 * b2n h.sync), 0#8] ++ leBytes 8 h.cycle.toNat ++ leBytes 2 h.length.toNat ++
  leBytes 2 h.schedTag.toNat ++ leBytes 4 h.members.toNat ++ leBytes 4 h.claim.toNat ++
  [BitVec.ofNat 8 (b2n h.voteValid + 2 * b2n h.against + 4 * h.targetProfile.toNat + 32 * h.targetMode.toNat),
   h.requester.setWidth 8, BitVec.ofNat 8 (b2n h.agreedValid), 0#8] ++ leBytes 4 h.agreed.toNat

/-- A frame as it is sent, its CRC taken over the header and the payload. -/
def frameSent (h : IhlozHeader) (pay : Bytes) : IhlozFrame := { header := h, payload := pay, crc := crc32 (headerBytes h ++ pay) }

/-- The CRC of a frame is correct and its payload has its LENGTH. -/
def frameGood (f : IhlozFrame) : Bool :=
  f.crc = crc32 (headerBytes f.header ++ f.payload) && f.payload.length = f.header.length.toNat

/-! ### Settings and schedules -/

/-- Change the node. -/
def modIhloz (f : IhlozSt → IhlozSt) (s : State) : State := { s with ihloz := f s.ihloz }

/-- ENABLE of the node block, and the module works. -/
def nodeOn (s : State) : Bool := bitAt (block s 0x0401) 0 0 && alive s && !s.mode.pause

/-- A channel of the node is in use. -/
def chUsed (s : State) (chanB : Bool) : Bool := bitAt (block s 0x0401) 0 (if chanB then 2 else 1)

/-- RX_DELAY of a node on a channel, in ticks. -/
def rxDelay (s : State) (n : BitVec 5) (chanB : Bool) : Nat :=
  fieldAt (block s 0x0401) ((if chanB then 10 else 8) + 4 * n.toNat) 2

/-- START_MODE. -/
def startMode (s : State) : Nat := bitsOf (fieldAt (block s 0x0401) 2 1) 2 0

/-- The node block passes R487. -/
def nodeValid (b : Bytes) : Bool :=
  (List.range 64).all (fun i => decide (fieldAt b (8 + 2 * i) 2 ≤ 300)) && !(bitAt b 0 0 && !bitAt b 0 1 && !bitAt b 0 2)

/-- The star block passes R475. -/
def starValid (s : State) (b : Bytes) : Bool :=
  let map (p n : Nat) : Bool := (fieldAt b (8 + 4 * p) 4).testBit n
  (List.range 32).all (fun n => decide (fieldAt b (48 + 2 * n) 2 ≤ 250) &&
    decide (((List.range 8).filter (fun p => map p n)).length ≤ 1)) &&
  (List.range 8).all (fun p => !map p (ownNode s).toNat)

/-- The action point of a slot (R472). -/
def actionPoint (c : Sched) (x : Slot) : Nat := x.start + c.guard_

/-- The first slot of a node in a schedule. -/
def firstSlot (c : Sched) (n : BitVec 5) : Option Nat := c.slots.findIdx? (fun x => x.sender = n)

/-- One slot of a schedule table (Table 2). -/
def slotAt (b : Bytes) (i : Nat) : Slot :=
  let w := fieldAt b (16 + 8 * i) 4
  { start := bitsOf w 19 0, length := bitsOf w 30 20, sync := w.testBit 31, duration := fieldAt b (20 + 8 * i) 2
    sender := BitVec.ofNat 5 (fieldAt b (22 + 8 * i) 1), freight := bitAt b (22 + 8 * i) 5 }

/-- A schedule table as stored, with its tag (R469, R471). -/
def schedOf (b : Bytes) : Sched :=
  { cycleUs := fieldAt b 0 4, guard_ := fieldAt b 6 2, slots := (List.range (fieldAt b 4 2)).map (slotAt b)
    tag := (crc32 b).setWidth 16 }

/-- Slots follow one another, each long enough (R470). -/
def slotsGood (g : Nat) : Nat → List Slot → Bool
  | _, [] => true
  | prev, x :: l =>
    decide (prev ≤ x.start) && decide (2 * g + (38 + x.length) * 8 + 300 ≤ x.duration) && decide (x.length ≤ 1024) &&
    (!x.freight || decide (64 ≤ x.length)) && slotsGood g (x.start + x.duration) l

/-- A schedule passes R470 (its length apart). A table with CYCLE_US 0 removes its schedule: it has no cycle whose length the other schedules
or the end of its last slot could be held to, and is checked for the rest. -/
def schedValid (s : State) (mode : Nat) (c : Sched) : Bool :=
  decide (1 ≤ c.slots.length) && decide (c.slots.length ≤ 256) && decide (25 ≤ c.guard_) && decide (c.guard_ ≤ 400) &&
  slotsGood c.guard_ 0 c.slots && (c.cycleUs = 0 ||
    (decide (250 ≤ c.cycleUs) && decide (c.cycleUs ≤ 10000) && c.cycleUs % fieldAt (block s 0x0101) 0 4 = 0 &&
     s.ihloz.scheds.all (fun p => p.1 = mode || p.2.cycleUs = c.cycleUs) &&
     ((c.slots.getLast?.map (fun x => decide (x.start + x.duration + 1000 ≤ 100 * c.cycleUs))).getD false)))

/-! ### States, membership, the star's state -/

/-- Ihloz events carry SOURCE 0x5000 (R503). -/
def raiseIhloz (code data : Nat) : State → State := raise 0x5000 code 0 data

/-- Change a star port. -/
def modPort (p : Fin 8) (f : StarPort → StarPort) (s : State) : State :=
  { s with star := { s.star with ports := s.star.ports.set p (f s.star.ports[p]) p.isLt } }

/-- STAR_EN on a module with a star unit. -/
def starOn (s : State) : Bool := hasStar s && bitAt (block s 0x0402) 0 0

/-- The star takes the state of R476, with STAR_STATE at a change; the cycles that R479 counts are those of one stay in SYNC. -/
def refreshStar (s : State) : State :=
  let new := hasStar s && (s.ihloz.state = 5 || s.ihloz.state = 6)
  if new = s.star.sync then s
  else raise 0x5020 0x0512 0 (b2n new) { s with star := { s.star with
    sync := new, forwarding := none, sentTo := 0
    ports := s.star.ports.map (fun (p : StarPort) => { p with vioNow := 0, vioLast := 0, clean := 0 }) } }

/-- The membership view changes, with MEMBERSHIP (R491). -/
def setMembers (m : BitVec 32) (s : State) : State :=
  let old := s.ihloz.members
  if old = m then s else raiseIhloz 0x0503 (m.toNat + 2 ^ 32 * old.toNat) (modIhloz (fun n => { n with members := m }) s)

/-- The membership view of a node that is ACTIVE or PASSIVE changes, with its event; one that integrates collects it. -/
def viewMembers (m : BitVec 32) (s : State) : State :=
  if s.ihloz.state = 5 || s.ihloz.state = 6 then setMembers m s else modIhloz (fun n => { n with members := m }) s

/-- The node takes a state; channels, task time and the star follow. T_WAIT runs from the entry to LISTEN or BACKOFF (R488), and a node that
has no cycle keeps no frozen payload (R497). -/
def nodeState (st : BitVec 3) (s : State) : State :=
  let idle := st = 0 || st = 1 || st = 3
  refreshStar (refreshSource (refreshWhere (fun _ e => (e.map isIhloz).getD false)
    (modIhloz (fun n => { n with
      state := st, waitFrom := if st = 1 || st = 3 then ihlozTick s else n.waitFrom, frozen := if idle then [] else n.frozen }) s)))

/-- The node becomes ACTIVE, or PASSIVE without a slot, with IHLOZ_JOINED; its view starts with the nodes it has heard while it
integrated, and with itself once it is ACTIVE (R491). -/
def join (cold passive : Bool) (s : State) : State :=
  let heard := if s.ihloz.state = 4 then s.ihloz.members else 0
  let s := nodeState (if passive then 6 else 5) (modIhloz (fun n => { n with
    members := 0, collisions := 0, unseen := 0, seen := true, sentCycle := true, offSync := false, heard := false, stray := false
    strays := 0 }) s)
  let s := raiseIhloz 0x0501 (s.ihloz.mode.toNat + 8 * b2n cold + 16 * b2n passive + 2 ^ 8 * (s.ihloz.cycle % 2 ^ 32)) s
  setMembers (if passive then heard else heard ||| BitVec.ofNat 32 (2 ^ (ownNode s).toNat)) s

/-- The module is no member any more: a change of the base tick length that waits takes effect at the first instant from now, after the
last base tick, that lies one new length after its completion (R50; log entry 102). -/
def leaveTick (s : State) : State :=
  let soonest := max (nowUsUp s) (if s.time.ticked then tickTime s s.time.tickNo + 1 else 0)
  { s with time := { s.time with newTick := s.time.newTick.map (fun p => (p.1, max p.2 (soonest - p.1))) } }

/-- The node leaves ACTIVE or PASSIVE for a state, with IHLOZ_LEFT and its cause; from any other state it just goes. -/
def leave (cause : Nat) (st : BitVec 3) (s : State) : State :=
  let was := s.ihloz.state = 5 || s.ihloz.state = 6
  let s := if was then leaveTick s else s
  let s := modIhloz (fun n => { n with rx := none, devs := [], offSync := false, since := 0, confirmed := false }) s
  let s := if was then raiseIhloz 0x0502 (cause + 2 ^ 8 * (s.ihloz.cycle % 2 ^ 32)) s else s
  nodeState st (viewMembers 0 s)

/-- A profile switch puts a schedule mode in force: a PASSIVE node with a slot in it becomes ACTIVE (R488), and the silence of nodes without
a slot counts from now (R491); payloads frozen for the old mode's slots go (R497). -/
def toMode (m : BitVec 3) (s : State) : State :=
  let c := Tab.find s.ihloz.scheds m.toNat
  let has (n : BitVec 5) : Bool := (c.bind (fun c => firstSlot c n)).isSome
  let s := modIhloz (fun n => { n with
    mode := m, silent := n.silent.filter (fun x => has (BitVec.ofNat 5 x.1))
    frozen := if m = n.mode then n.frozen else [] }) s
  if s.ihloz.state = 6 && has (ownNode s) then
    setMembers (s.ihloz.members ||| BitVec.ofNat 32 (2 ^ (ownNode s).toNat))
      (nodeState 5 (modIhloz (fun n => { n with unseen := 0, seen := false, sentCycle := false }) s))
  else s

/-- An accepted node block: OFF, then LISTEN when ENABLE is 1 (R487, R488). -/
def nodeAccept (s : State) : State :=
  let s := if s.ihloz.state = 0 then s else leave 2 0 s
  if nodeOn s && !inStartUp s then nodeState 1 s else s

/-- An accepted star block restarts the star in UNSYNC (R475), from which it goes on to the state of R476. -/
def starAccept (s : State) : State :=
  let s := { s with star := { s.star with
    forwarding := none, sentTo := 0
    ports := s.star.ports.map (fun (p : StarPort) => { p with cut := false, cutCont := false, vioNow := 0, vioLast := 0, clean := 0 }) } }
  refreshStar (if s.star.sync then raise 0x5020 0x0512 0 0 { s with star := { s.star with sync := false } } else s)

/-- COLDSTART_COLLISION and BACKOFF (R488, R503). -/
def backOff (onA onB unseen : Bool) (s : State) : State :=
  let n := satAdd 8 s.ihloz.collisions 1
  let s := nodeState 3 (modIhloz (fun k => { k with collisions := n, since := 0, confirmed := false }) s)
  raiseIhloz 0x0504 (n + 2 ^ 8 * b2n onA + 2 ^ 9 * b2n onB + 2 ^ 10 * b2n unseen) s

/-! ### Votes (R336 to R338, R492, R493) -/

/-- This module votes for a target: it holds the profile and its schedule, and is not in SERVICE. -/
def votesFor (s : State) (target mode : BitVec 3) : Bool :=
  (Tab.find s.prof.table target.toNat).isSome && (Tab.find s.ihloz.scheds mode.toNat).isSome && s.mode.mode != mService

/-- The vote that this node's frames carry in the current cycle: only a member's do, and the node is one while it is ACTIVE
(R336, R491, R492). -/
def voteCarried (s : State) : Option Vote :=
  s.prof.vote.filter (fun v => s.ihloz.state = 5 && decide (v.fromCycle ≤ s.ihloz.cycle))

/-- Set the vote in progress. -/
def setVote (v : Option Vote) (s : State) : State := { s with prof := { s.prof with vote := v } }

/-- The frame lies in the window of one cycle length that the requester's first vote frame opened (R336). -/
def inWindow (s : State) (v : Vote) (slot : Nat) : Bool :=
  match v.openCycle with
  | none => true
  | some c =>
    decide (s.ihloz.cycle ≤ c) ||
    (s.ihloz.cycle = c + 1 && ((schedNow s).bind (fun x => (firstSlot x v.requester).map (fun k => decide (slot ≤ k)))).getD true)

/-- A frame of the requester without its vote: the vote it opened stops, and one that ended here may be requested again (R336, R338). -/
def dropVote (h : IhlozHeader) (s : State) : State :=
  let carries (t : BitVec 3) (r : BitVec 5) : Bool := h.voteValid && h.targetProfile = t && h.requester = r
  let prof := s.prof
  { s with prof := { prof with
      vote := prof.vote.map (fun v =>
        if h.sender = v.requester && v.openCycle.isSome && v.agreed.isNone && !carries v.target v.requester then
          { v with stopped := true } else v)
      ended := prof.ended.filter (fun e => !(h.sender = e.2 && !carries e.1 e.2)) } }

/-- The vote of a frame is one that has ended in this module, or its own request that it no longer holds (R338). -/
def voteOver (h : IhlozHeader) (s : State) : Bool :=
  s.prof.ended = some (h.targetProfile, h.requester) ||
  (h.requester = ownNode s && (s.prof.vote.all (fun v => v.requester != ownNode s)))

/-- The vote of a member's frame (R336, R338, R492). -/
def takeVote (h : IhlozHeader) (s : State) : State :=
  let s := dropVote h s
  if !h.voteValid || voteOver h s then s
  else
    let fresh : Vote :=
      { target := h.targetProfile, mode := h.targetMode, requester := h.requester, ring := none
        voted := 0, opposed := none, openCycle := none
        lastCycle := 0, agreed := none, fromCycle := 0, agreedFrom := 0, stopped := false }
    let pick : Option (Vote × Option (Fin 8)) := match s.prof.vote with
      | none => some (fresh, none)
      | some v =>
        if v.agreed.isSome then none
        else if v.requester = h.requester then some (v, none)
        else if h.requester < v.requester then
          (if v.target = h.targetProfile then some ({ fresh with ring := v.ring, lastCycle := v.lastCycle }, none)
           else some (fresh, v.ring))
        else none
    match pick with
    | none => s
    | some (v, lost) =>
      let s := match lost with
        | some k => completeWait k (fun w => w = .profile) stLate 0
            (raise 0x0000 0x0114 0 (((s.prof.vote.map (fun w => w.target.toNat)).getD 0) + 2 ^ 9) s)
        | none => s
      let v := if v.openCycle.isNone && h.sender = v.requester then { v with openCycle := some s.ihloz.cycle } else v
      let v := if inWindow s v h.slot.toNat then { v with voted := v.voted ||| BitVec.ofNat 32 (2 ^ h.sender.toNat) } else v
      let v := if h.against && v.opposed.isNone then { v with opposed := some h.sender } else v
      setVote (some v) s

/-- The announcement of an agreed cycle (R493). -/
def takeAgreed (h : IhlozHeader) (s : State) : State :=
  match s.prof.vote with
  | some v =>
    if h.agreedValid && v.agreed.isNone then
      let c := s.ihloz.cycle
      wantTarget (setVote (some { v with
        agreed := some (c + (h.agreed.toNat + 2 ^ 32 - c % 2 ^ 32) % 2 ^ 32), agreedFrom := c + 1 }) s)
    else s
  | none => s

/-! ### Reception -/

/-- The schedule that a copy is checked against: the one in force, or before synchronisation that of its MODE. -/
def synced (s : State) : Bool := s.ihloz.state = 4 || s.ihloz.state = 5 || s.ihloz.state = 6
/-- See `synced`. -/
def schedFor (s : State) (h : IhlozHeader) : Option Sched :=
  if synced s then schedNow s else Tab.find s.ihloz.scheds h.mode.toNat

/-- SENDER, SLOT, LENGTH and TYPE match the slot; before synchronisation a COLDSTART frame stands for its sender's first
slot (R467, R489). -/
def slotMatches (s : State) (c : Sched) (h : IhlozHeader) : Bool :=
  match c.slots[h.slot.toNat]? with
  | none => false
  | some x =>
    x.sender = h.sender &&
    ((h.length.toNat = x.length && h.type = (if x.freight then 2 else 0)) ||
     (!synced s && h.type = 1 && h.length = 0 && firstSlot c h.sender = some h.slot.toNat))

/-- The tick of the IHLOZ clock at which the current cycle began. -/
def cycleTick (s : State) : Int := s.ihloz.cycleAt / 10

/-- The deviation of a copy of slot `x` (R482). -/
def deviation (s : State) (c : Sched) (x : Slot) (sender : BitVec 5) (chanB : Bool) (arrival : Int) : Int :=
  arrival - (cycleTick s + (actionPoint c x + rxDelay s sender chanB : Nat))

/-- The copy arrived in the receive window (R473). -/
def inReceiveWindow (s : State) (c : Sched) (h : IhlozHeader) (chanB : Bool) (arrival : Int) : Bool :=
  match c.slots[h.slot.toNat]? with
  | none => false
  | some x => decide ((deviation s c x h.sender chanB arrival).natAbs ≤ c.guard_)

/-- A copy is valid (R467). -/
def copyValid (s : State) (chanB : Bool) (f : IhlozFrame) (arrival : Int) : Bool :=
  match schedFor s f.header with
  | none => false
  | some c =>
    frameGood f && slotMatches s c f.header && f.header.schedTag = c.tag &&
    (!synced s || (f.header.mode = s.ihloz.mode && f.header.cycle.toNat = s.ihloz.cycle &&
      inReceiveWindow s c f.header chanB arrival))

/-- The tag of a copy with a correct CRC against the own tag of its MODE: SCHED_MISMATCH once for a run of mismatching ones, which a
matching one ends (R503). -/
def checkTag (f : IhlozFrame) (s : State) : State :=
  let h := f.header
  let bit : BitVec 32 := BitVec.ofNat 32 (2 ^ h.sender.toNat)
  match Tab.find s.ihloz.scheds h.mode.toNat with
  | some c =>
    if !frameGood f then s
    else if h.schedTag = c.tag then modIhloz (fun n => { n with mismatch := n.mismatch &&& ~~~bit }) s
    else if s.ihloz.mismatch.getLsbD h.sender.toNat then s
    else
      raiseIhloz 0x0505 (h.sender.toNat + 32 * h.mode.toNat + 2 ^ 8 * h.schedTag.toNat + 2 ^ 24 * c.tag.toNat)
        (modIhloz (fun n => { n with mismatch := n.mismatch ||| bit }) s)
  | none => s

/-- A copy that is not valid is counted, and one of another schedule mode is noted (R494, R503, R504). -/
def copyInvalid (f : IhlozFrame) (s : State) : State :=
  checkTag f (modIhloz (fun n => { n with
    invalid := Tab.count n.invalid f.header.sender.toNat 8
    stray := n.stray || (frameGood f && f.header.mode != n.mode) }) s)

/-- The claim that a valid copy carries: HIGH_q and the governing node, and the claim of PARTNER_NODE (R569, R574, R576). -/
def copyClaim (h : IhlozHeader) (s : State) : State :=
  let s := match pairOfNode s h.sender with
    | some q => modIhloz (fun n => { n with
        claims := Tab.set n.claims h.sender.toNat h.claim
        high := if Tab.getD n.high q 0 < h.claim then Tab.set n.high q h.claim else n.high }) s
    | none => s
  let t := block s 0x0501
  if hasTelith s && bitAt t 0 3 && BitVec.ofNat 5 (fieldAt t 1 1) = h.sender then
    let unit := ((pairOfNode s h.sender).bind (pairEntry s)).map (fun p => if p.1 = h.sender then p.2.2.1 else p.2.2.2)
    seeClaim h.claim (unit.getD (partnerUnit s)) 1 s
  else s

/-- A pinned IHLOZ_RX channel takes its data from slot k of node n now (R495, R576). -/
def ihlozFeeds (s : State) (k : Nat) (n : BitVec 5) (id : Nat) (e : Bytes) : Bool :=
  let named := BitVec.ofNat 5 (eNode e)
  let governed := match pairOfNode s named with
    | some q => governor s q = some n
    | none => named = n
  eClass e = 5 && !(eBadKind e || eBadField s id e || eMismatch id e) && governed &&
  ((slotOfChan s e).map (fun p => decide (p.1 = k))).getD false

/-- An IHLOZ_RX channel takes its bytes of a delivered payload, where the slot is long enough for them, and is STALE no more (R495, R496). -/
def ihlozToChan (pay : Bytes) (s : State) (id : Nat) (e : Bytes) : State :=
  let s := { s with chan := { s.chan with missed := Tab.set s.chan.missed id 0, stale := dropFrom s.chan.stale id } }
  refreshChan (if pay.length < ePayOffset e + ePayLength e then s else receiveChan id e (takePayload e pay) s) id

/-- The freight of a valid FREIGHT copy addressed to this node, or broadcast, goes to the receiver of stream 1; other streams are
discarded (R501, R502). -/
def freightIn (sender : BitVec 5) (pay : Bytes) (s : State) : State :=
  let n := fieldAt pay 4 2
  if (bitAt pay 0 5 || BitVec.ofNat 5 (fieldAt pay 0 1) = ownNode s) && byteAt pay 1 = 1 && n != 0 then
    passMessage false sender ((pay.drop 8).take n) s
  else s

/-- The payload of a delivered copy reaches the channels of its slot (R495). -/
def deliverData (f : IhlozFrame) (s : State) : State :=
  let h := f.header
  let k := h.slot.toNat
  let s := modIhloz (fun n => { n with payloads := Tab.set n.payloads k f.payload }) s
  if h.type = 0 then
    (s.chan.pinned.filterMap (fun c => c.2.bind (fun e =>
      if ihlozFeeds s k h.sender c.1 e then some (c.1, e) else none))).foldl (fun s c => ihlozToChan f.payload s c.1 c.2) s
  else s

/-- The freight, the vote and the agreed cycle of a delivered copy are taken, once for a slot (R468, R492, R493, R502). -/
def actOnCopy (f : IhlozFrame) (s : State) : State :=
  let h := f.header
  takeAgreed h (takeVote h (if h.type = 0 then s else freightIn h.sender f.payload s))

/-- A delivered copy of channel B that waits for that of channel A is acted on: the slot has another first copy no more (R468). -/
def settleCopy (s : State) : State :=
  match s.ihloz.rx.bind (fun r => r.held) with
  | some f => actOnCopy f (modIhloz (fun n => { n with rx := n.rx.map (fun r => { r with held := none }) }) s)
  | none => s

/-- The deviation that a delivered copy adds to those of the cycle, when its slot has SYNC (R482). -/
def deviations (chanB : Bool) (f : IhlozFrame) (arrival : Int) (s : State) : List Int :=
  ((schedNow s).bind (fun c => (c.slots[f.header.slot.toNat]?).bind (fun x =>
    if x.sync then some (deviation s c x f.header.sender chanB arrival) else none))).toList

/-- The first valid copy of a slot is delivered (R468, R482, R495, R500, R502). Where channel A is in use too, a copy of channel B is not acted
on before the next copy or the slot's end shows that none of channel A came in its tick (log entry 14). -/
def deliver (chanB : Bool) (f : IhlozFrame) (arrival : Int) (s : State) : State :=
  let h := f.header
  let waits := chanB && chUsed s false
  let s := copyClaim h (settleCopy s)
  let s := modIhloz (fun n => { n with
    rx := some { slot := h.slot, payload := some f.payload, other := none, tick := arrival, chanB := chanB
                 held := if waits then some f else none }
    silent := Tab.set n.silent h.sender.toNat 0
    devs := n.devs ++ deviations chanB f arrival s }) s
  let s := viewMembers (s.ihloz.members ||| BitVec.ofNat 32 (2 ^ h.sender.toNat)) s
  let s := deliverData f s
  let s := triggerAll (triggered s 3 (fun a => a.triggerSel.toNat = h.slot.toNat && a.triggerCond = 0)) s
  if waits then s else actOnCopy f s

/-- A valid copy of a slot whose first copy has been delivered: the payloads are compared. Where both became valid in one tick, the copy
of channel A is the one delivered, whichever row came first (R468). -/
def secondCopy (chanB : Bool) (f : IhlozFrame) (arrival : Int) (r : SlotRx) (s : State) : State :=
  let differ := r.payload != some f.payload
  let counted := differ && r.other.isNone
  let takes := r.chanB && !chanB && r.tick = arrival && r.other.isNone
  let s := copyClaim f.header (modIhloz (fun n => { n with
    rx := some (if takes then { r with payload := some f.payload, other := r.payload, chanB := false, held := none } else { r with other := some f.payload })
    diverge := if counted then Tab.count n.diverge f.header.sender.toNat 8 else n.diverge }) s)
  if !takes then settleCopy s
  else
    let s := modIhloz (fun n => { n with
      devs := if (deviations chanB f arrival s).isEmpty then n.devs else n.devs.dropLast ++ deviations chanB f arrival s }) s
    actOnCopy f (if differ then deliverData f s else s)

/-- The node integrates on a copy: cycle number, schedule mode and cycle start are the copy's (R488, R489). -/
def integrate (chanB : Bool) (h : IhlozHeader) (arrival : Int) (s : State) : State :=
  let ap := ((Tab.find s.ihloz.scheds h.mode.toNat).bind (fun c => (c.slots[h.slot.toNat]?).map (actionPoint c))).getD 0
  nodeState 4 (modIhloz (fun n => { n with
    mode := h.mode, cycle := h.cycle.toNat, cycleAt := 10 * (arrival - (ap + rxDelay s h.sender chanB : Nat)), since := 0
    confirmed := false, members := 0, silent := [], rx := none, devs := [], frozen := [] }) s)

/-- The node has a slot in the schedule in force. -/
def hasSlot (s : State) : Bool := ((schedNow s).bind (fun c => firstSlot c (ownNode s))).isSome

/-- A valid copy advances the node's state (R488). -/
def validAdvances (chanB : Bool) (f : IhlozFrame) (arrival : Int) (s : State) : State :=
  let st := s.ihloz.state
  if st = 1 || st = 3 then integrate chanB f.header arrival s
  else if st = 2 then join true false s
  else if st = 4 && decide (1 ≤ s.ihloz.since) && !s.ihloz.confirmed then
    let s := modIhloz (fun n => { n with confirmed := true }) s
    if hasSlot s then s else join false true s
  else s

/-! ### The star's own node port (R474) -/

/-- The channel that the module's star serves is B. -/
def starChannel (s : State) : Bool := bitAt (block s 0x0402) 0 1

/-- The star forwards (R481). -/
def starForwards (s : State) : Bool := starOn s && s.star.forwards && alive s && !s.mode.pause

/-- The own node's port of a channel lies inside the module's star. -/
def portInside (s : State) (chanB : Bool) : Bool := hasStar s && chanB = starChannel s

/-- A tick lies in a slot's window at the star (R477). -/
def slotWindow (s : State) (c : Sched) (x : Slot) (tick : Int) : Bool :=
  decide ((tick - cycleTick s - (actionPoint c x + fieldAt (block s 0x0402) (48 + 2 * x.sender.toNat) 2 : Nat)).natAbs ≤ c.guard_)

/-- A copy on a channel reaches the own node: on the star's channel only what the star forwards from another port does (R474, R478), in
SYNC within the window of its slot. -/
def reaches (s : State) (chanB : Bool) (slot : Byte) : Bool :=
  !portInside s chanB ||
  (starForwards s && (match s.star.forwarding with
    | some (p, t) => p != 8 && (!s.star.sync ||
        ((schedNow s).bind (fun c => (c.slots[slot.toNat]?).map (fun x => slotWindow s c x t))).getD false)
    | none => false))

/-- Every port of the star: the 8 branch ports and the own node's. -/
def everyPort : BitVec 9 := 0x1FF

/-- A collision in UNSYNC: the star stops forwarding and sends a marker to every port (R480). -/
def starCollide (s : State) : State :=
  { s with star := { s.star with forwarding := none, sentTo := everyPort, collisions := satAdd 32 s.star.collisions 1 } }

/-- The transmission in whose forwarding a delimiter falls at a tick, in UNSYNC: none after 100 µs. Whether the star still forwards it
then is a free value, since no command tells when a transmission ends (R480; log entry 14). -/
def stillForwarding (p : Fin 9) (tick : Int) (s : State) : Bool × State :=
  match s.star.forwarding with
  | none => (false, s)
  | some (q, t) =>
    if q = p || 10000 < tick - t then (false, s)
    else if t = tick then (true, s)
    else
      let n := takeFree s
      (Config.freeBit n.1, n.2)

/-- The own frame passes the module's star on its channel: in SYNC to every port, in UNSYNC as the first transmission, or as one that
collides (R474, R478, R480). -/
def passOwn (s : State) : State :=
  if !(starForwards s && chUsed s (starChannel s)) then s
  else
    let tick : Int := ihlozTick s
    let r := if s.star.sync then (false, s) else stillForwarding 8 tick s
    if r.1 then starCollide r.2
    else { r.2 with star := { r.2.star with forwarding := some (8, tick), sentTo := everyPort } }

/-- The own frame is seen back on a channel: on the star's channel only what the star forwards is. -/
def seenBack (s : State) (chanB seen : Bool) : Bool :=
  chUsed s chanB && seen && (!portInside s chanB || (starForwards s && (s.star.forwarding.map (fun f => f.1)) = some 8))

/-- IHLOZ_FRAME_RECEIVE (R467, R468, R474, R482, R488, R491 to R496, R500 to R503, R569, R576). -/
def execIhlozFrameReceive (chanB : Bool) (f : IhlozFrame) (arrival : Int) (s : State) : Res :=
  .next (if !(nodeOn s && chUsed s chanB) || s.ihloz.state = 0 || f.header.sender = ownNode s || !reaches s chanB f.header.slot then s
  else
    let s := advanceIhloz arrival s
    if !copyValid s chanB f arrival then copyInvalid f s
    else
      let s := validAdvances chanB f arrival (checkTag f (modIhloz (fun n => { n with heard := true }) s))
      if !(synced s && f.header.mode = s.ihloz.mode && f.header.cycle.toNat = s.ihloz.cycle) then s
      else match s.ihloz.rx with
        | some r => if r.slot = f.header.slot && r.payload.isSome then secondCopy chanB f arrival r s else deliver chanB f arrival s
        | none => deliver chanB f arrival s)

/-! ### Sending -/

/-- The header of this node's frame in a slot, with its vote and its agreed cycle. -/
def ownHeader (s : State) (c : Sched) (slot type len : Nat) (sync : Bool) : IhlozHeader :=
  let v := voteCarried s
  let carries := v.isSome
  let agreed := s.prof.vote.bind (fun v => if s.ihloz.state = 5 && v.agreedFrom ≤ s.ihloz.cycle then v.agreed else none)
  { sender := ownNode s, type := BitVec.ofNat 2 type, channelB := false, slot := BitVec.ofNat 8 slot, mode := s.ihloz.mode
    sync := sync, cycle := BitVec.ofNat 64 s.ihloz.cycle, length := BitVec.ofNat 11 len, schedTag := c.tag
    members := s.ihloz.members, claim := s.ret.ctr.claim, voteValid := carries
    against := (v.map (fun v => !votesFor s v.target v.mode)).getD false
    targetProfile := (v.map (fun v => v.target)).getD 0
    targetMode := (v.map (fun v => v.mode)).getD 0
    requester := (v.map (fun v => v.requester)).getD 0
    agreedValid := agreed.isSome, agreed := BitVec.ofNat 32 (agreed.getD 0) }

/-- The payload of an own STATE slot, assembled now, each channel under the entry of its data; the states of R499 send nothing
(R399, R497, R499). -/
def assemble (s0 : State) (k : Nat) (x : Slot) : Bytes :=
  let s := sendView s0
  s.chan.pinned.foldl (fun pay c => match c.2 with
    | some e =>
      let st := chanState s c.1
      if eClass e = 6 && eSlot e = k && !(decide (1 ≤ st) && decide (st ≤ 4)) && !(decide (0x30 ≤ st) && decide (st ≤ 0x32)) then
        (match netOut s c.1 e with
         | some v => placePayload e v pay
         | none => pay)
      else pay
    | none => pay) (zeros x.length)

/-- An own slot of the schedule in force. -/
def ownSlot (s : State) (slot : Byte) : Option (Sched × Slot) :=
  (schedNow s).bind (fun c => (c.slots[slot.toNat]?).bind (fun x => if x.sender = ownNode s then some (c, x) else none))

/-- The node sends in its slots: ACTIVE, in COLDSTART, or after INTEGRATE has been confirmed (R488). -/
def sends (s : State) : Bool :=
  nodeOn s && (s.ihloz.state = 5 || s.ihloz.state = 2 ||
    (s.ihloz.state = 4 && s.ihloz.confirmed && decide (2 ≤ s.ihloz.since)))

/-- The cycle that sends what is frozen now: where the freeze point, 5 µs before the action point, lies before the cycle's start, the next
one (R497). -/
def freezeCycle (c : Sched) (x : Slot) (s : State) : Nat := if actionPoint c x < 500 then s.ihloz.cycle + 1 else s.ihloz.cycle

/-- The payload of an own STATE slot: what its freeze point froze for this cycle. Where no PAYLOAD_FREEZE row stood for that point, it is
assembled as it is sent (R497; log entry 122). -/
def frozenPayload (s : State) (k : Nat) (x : Slot) : Bytes :=
  match Tab.find s.ihloz.frozen k with
  | some p => if p.1 = s.ihloz.cycle && p.2.length = x.length then p.2 else assemble s k x
  | none => assemble s k x

/-- PAYLOAD_FREEZE (R497, R498). -/
def execPayloadFreeze (slot : Byte) (s : State) : Res :=
  .next (match ownSlot s slot with
  | some (c, x) =>
    if nodeOn s && (synced s || s.ihloz.state = 2) && !x.freight then
      modIhloz (fun n => { n with frozen := Tab.set n.frozen slot.toNat (freezeCycle c x s, assemble s slot.toNat x) }) s
    else s
  | none => s)

/-- The payload of a FREIGHT frame: the head of the freight queue, as far as FLEN may go, or a header with FLEN 0 (R501). -/
def freightPayload (s : State) (x : Slot) : Bytes :=
  let (dest, m) := (s.ihloz.freightQ.head?).getD (0, [])
  let b := m.take (x.length - 8)
  padTo x.length ([BitVec.ofNat 8 (if dest = 32 then 32 else dest), 1#8] ++ leBytes 2 s.ihloz.freightSeq.toNat ++
    leBytes 2 b.length ++ zeros 2 ++ b)

/-- An own frame has been sent: seen back or not on each channel in use (R478, R488, R504). -/
def ownSeen (seenA seenB : Bool) (s : State) : State :=
  let seen := seenA || seenB
  modIhloz (fun n => { n with
    rejA := if chUsed s false && !seenA then satAdd 16 n.rejA 1 else n.rejA
    rejB := if chUsed s true && !seenB then satAdd 16 n.rejB 1 else n.rejB
    sentCycle := true, seen := n.seen || seen
    confirmed := if n.state = 2 then n.confirmed && seen else n.confirmed }) s

/-- The own frame carries the vote: it counts, and the requester's first one opens the window (R336). -/
def ownVote (s : State) : State :=
  match voteCarried s with
  | some v =>
    let v := if v.requester = ownNode s && v.openCycle.isNone then { v with openCycle := some s.ihloz.cycle } else v
    setVote (some { v with
      voted := v.voted ||| BitVec.ofNat 32 (2 ^ (ownNode s).toNat)
      opposed := if !votesFor s v.target v.mode && v.opposed.isNone then some (ownNode s) else v.opposed }) s
  | none => s

/-- The own frame goes out now on each channel in use, as the copy of that channel, through the module's star on its channel
(R466, R468, R474). -/
def sendOwn (h : IhlozHeader) (pay : Bytes) (s : State) : State :=
  passOwn (modIhloz (fun n => { n with
    lastSent := if chUsed s false then some (frameSent h pay) else n.lastSent
    lastSentB := if chUsed s true then some (frameSent { h with channelB := true } pay) else n.lastSentB }) s)

/-- IHLOZ_SLOT_SEND (R472, R488, R491 to R494, R498, R501): the clocks move to the action point. -/
def execIhlozSlotSend (slot : Byte) (seenA seenB : Bool) (s : State) : Res :=
  .next (match ownSlot s slot with
  | none => s
  | some (c, x) =>
    if !sends s then s
    else
      let s := advanceIhloz (cycleTick s + (actionPoint c x : Nat)) s
      let pay := if x.freight then freightPayload s x
        else frozenPayload s slot.toNat x
      let h := ownHeader s c slot.toNat (if x.freight then 2 else 0) x.length x.sync
      let s := modIhloz (fun n => { n with
        freightQ := if x.freight then n.freightQ.drop 1 else n.freightQ
        freightSeq := if x.freight then n.freightSeq + 1 else n.freightSeq
        devs := if x.sync then n.devs ++ [0] else n.devs
        frozen := Tab.del n.frozen slot.toNat }) (sendOwn h pay s)
      let a := seenBack s false seenA
      let b := seenBack s true seenB
      let s := ownVote (ownSeen a b s)
      let seen := a || b
      if s.ihloz.state = 4 && seen then join false false s else s)

/-- IHLOZ_SLOT_END (R473, R491, R500). -/
def execIhlozSlotEnd (slot : Byte) (s : State) : Res :=
  .next (match (schedNow s).bind (fun c => (c.slots[slot.toNat]?).map (fun x => (c, x))) with
  | none => s
  | some (c, x) =>
    if !(nodeOn s && synced s) || x.sender = ownNode s then s
    else
      let n := x.sender
      let got := (s.ihloz.rx.map (fun r => r.slot = slot && r.payload.isSome)).getD false
      let s := modIhloz (fun k => { k with rx := none }) (settleCopy s)
      if got then s
      else
        let quiet := Tab.getD s.ihloz.silent n.toNat 0 + 1
        let s := modIhloz (fun k => { k with
          empty := Tab.count k.empty n.toNat 16, silent := Tab.set k.silent n.toNat quiet }) s
        let own := (c.slots.filter (fun y => y.sender = n)).length
        let s := if own ≤ quiet then viewMembers (s.ihloz.members &&& ~~~(BitVec.ofNat 32 (2 ^ n.toNat))) s else s
        triggerAll (triggered s 3 (fun a => a.triggerSel.toNat = slot.toNat && a.triggerCond = 1)) s)

/-! ### Clock and cycle -/

/-- The sum of the largest and the smallest deviation that remain (R483): twice the midpoint, in ticks. -/
def midpoint2 (devs : List Int) : Int :=
  let n := devs.length
  let k := if n ≤ 2 then 0 else if n ≤ 6 then 1 else 2
  let l := ((sortBy (fun a b => decide (a ≤ b)) devs).drop k).take (n - 2 * k)
  match l.head?, l.getLast? with
  | some a, some b => a + b
  | _, _ => 0

/-- CLOCK_SYNC_CORRECTION (R483, R484). -/
def execClockSyncCorrection (s : State) : Res :=
  .next (match schedNow s with
  | none => s
  | some c =>
    if !(nodeOn s && (synced s || s.ihloz.state = 2)) then s
    else
      let m2 := midpoint2 s.ihloz.devs
      let ns := m2 * 5
      let rate := s.ihloz.ratePpb + roundDiv (ns * 1000000) (8 * c.cycleUs)
      let off := decide (2 * c.guard_ < m2.natAbs)
      let lost := off && s.ihloz.offSync && (s.ihloz.state = 5 || s.ihloz.state = 6)
      let s := modIhloz (fun n => { n with
        lastM := ns, idleNs := ns, ratePpb := max (-500000) (min 500000 rate), offSync := off, devs := [] }) s
      if lost then leave 0 1 s else s)

/-- A node that kept an old schedule mode: in two consecutive cycles copies of another mode arrived and no valid one (R494). -/
def keptOld (s : State) : State :=
  let n := if !s.ihloz.heard && s.ihloz.stray then s.ihloz.strays + 1 else 0
  let s := modIhloz (fun k => { k with strays := n, heard := false, stray := false }) s
  if 2 ≤ n && (s.ihloz.state = 5 || s.ihloz.state = 6) then leave 0 1 s else s

/-- What the node's state does at the start of a cycle (R488). -/
def cycleState (s : State) : State :=
  let n := s.ihloz
  if n.state = 5 then
    let quiet := if n.sentCycle && !n.seen then n.unseen + 1 else 0
    let s := modIhloz (fun n => { n with unseen := quiet, seen := false, sentCycle := false }) s
    if 2 ≤ quiet then leave 1 1 s else s
  else if n.state = 4 then
    let s := modIhloz (fun n => { n with since := n.since + 1 }) s
    if s.ihloz.since = 2 && !s.ihloz.confirmed then leave 0 1 s else s
  else if n.state = 2 then
    if n.cycle = 2 && n.confirmed then join true false s else s
  else s

/-- At the end of a cycle: locked channels take the values they then have, and channels without a valid copy of their
slot are counted (R495, R496, R576). -/
def cycleEnd (s : State) : State :=
  s.chan.pinned.foldl (fun s c => match c.2 with
    | some e =>
      if eClass e != 5 then s
      else
        let named := BitVec.ofNat 5 (eNode e)
        let governed := match pairOfNode s named with
          | some q => (governor s q).isSome
          | none => true
        let got := governed && ((slotOfChan s e).map (fun p => (Tab.find s.ihloz.payloads p.1).isSome)).getD false
        { s with chan := { s.chan with
            locked := (match Tab.find s.chan.rx c.1 with
              | some v => Tab.set s.chan.locked c.1 v
              | none => s.chan.locked)
            missed := if got then Tab.set s.chan.missed c.1 0
              else Tab.set s.chan.missed c.1 (Tab.getD s.chan.missed c.1 0 + 1) } }
    | none => s) s

/-- A cycle ends in which a node has no slot at all: with one whole cycle length of them it is no member (R491); this node is one while
it is ACTIVE. -/
def slotless (c : Sched) (s : State) : State :=
  (List.range 32).foldl (fun s n =>
    if !s.ihloz.members.getLsbD n || (firstSlot c (BitVec.ofNat 5 n)).isSome || (s.ihloz.state = 5 && n = (ownNode s).toNat) then s
    else
      let quiet := Tab.getD s.ihloz.silent n 0 + 1
      let s := modIhloz (fun k => { k with silent := Tab.set k.silent n quiet }) s
      if 2 ≤ quiet then viewMembers (s.ihloz.members &&& ~~~(BitVec.ofNat 32 (2 ^ n))) s else s) s

/-- A star port at the start of a cycle: 16 cycles without a violation reopen it (R479). -/
def portCycle (s : State) (p : Fin 8) : State :=
  let x := s.star.ports[p]
  let clean := if x.vioNow = 0 then x.clean + 1 else 0
  let opens := x.cut && decide (16 ≤ clean)
  let s := modPort p (fun x => { x with
    vioLast := x.vioNow, vioNow := 0, clean := clean, cut := x.cut && !opens }) s
  if opens then raise (0x5010 + p.val) 0x0511 0 0 s else s

/-- The offset of the cycle start from its base tick in ns (base tick less cycle start), ALIGNED and the slew of the
IHLOZ source (R486, R556). -/
def align (offset : Int) (s : State) : State :=
  let now := decide (offset.natAbs ≤ 1000)
  let changed := now != s.ihloz.aligned
  let s := modIhloz (fun n => { n with aligned := now, offsetNs := offset }) s
  let s := if s.time.source = 3 then steer offset s.ihloz.ratePpb (((schedNow s).map (fun c => 1000 * c.cycleUs)).getD 1) s else s
  if changed then raiseIhloz 0x0506 (unsigned 32 offset + 2 ^ 32 * b2n now) s else s

/-- The payloads that stay frozen into a cycle: those that it sends (R497). -/
def keptFrozen (n : IhlozSt) : Tab (Nat × Bytes) := n.frozen.filter (fun p => p.2.1 = n.cycle + 1)

/-- The next cycle starts after the cycle length and the correction of the idle time (R484). -/
def newCycle (c : Sched) (s : State) : State :=
  modIhloz (fun n => { n with
    cycle := n.cycle + 1, cycleAt := n.cycleAt + 1000 * c.cycleUs + n.idleNs, idleNs := 0, rx := none, payloads := [], claims := []
    frozen := keptFrozen n }) s

/-- IHLOZ_CYCLE_START (R479, R484, R486, R488, R494 to R497): the clocks move to the start of the cycle. -/
def execIhlozCycleStart (offsetNs : Int) (s : State) : Res :=
  .next (match schedNow s with
  | none => s
  | some c =>
    if !(nodeOn s && (synced s || s.ihloz.state = 2)) then s
    else
      let s := newCycle c (slotless c (cycleEnd (settleCopy s)))
      let s := advanceIhloz (cycleTick s) s
      let s := if s.star.sync then
          (List.finRange 8).foldl portCycle { s with star := { s.star with forwarding := none } }
        else s
      let s := cycleState (keptOld s)
      if s.ihloz.state = 5 || s.ihloz.state = 6 then align offsetNs s else s)

/-- The tick of the IHLOZ clock at which T_WAIT ends: 2 * CYCLE_US of START_MODE and 100 µs * NODE_ID (R488). -/
def tWaitEnd (c : Sched) (s : State) : Nat := s.ihloz.waitFrom + 100 * (2 * c.cycleUs + 100 * (ownNode s).toNat)

/-- IHLOZ_T_WAIT_EXPIRE (R488, R489): the clocks move to the end of T_WAIT, and the node sends a COLDSTART frame, one action point after
the start of its cycle 0. -/
def execIhlozTWaitExpire (seenA seenB : Bool) (s : State) : Res :=
  .next (match Tab.find s.ihloz.scheds (startMode s) with
  | none => s
  | some c =>
    match firstSlot c (ownNode s) with
    | none => s
    | some k =>
      if !(nodeOn s && bitAt (block s 0x0401) 0 3 && (s.ihloz.state = 1 || s.ihloz.state = 3)) then s
      else
        let s := advanceIhloz (tWaitEnd c s) s
        let x := c.slots[k]?
        let s := nodeState 2 (modIhloz (fun n => { n with
          mode := BitVec.ofNat 3 (startMode s), cycle := 0
          cycleAt := 10 * ((ihlozTick s : Int) - ((x.map (actionPoint c)).getD 0 : Nat)), idleNs := 0, since := 0, confirmed := true, seen := false, sentCycle := false
          members := 0, silent := [], rx := none, devs := [], frozen := [] }) s)
        let s := sendOwn (ownHeader s c k 1 0 ((x.map (fun x => x.sync)).getD false)) [] s
        let a := seenBack s false seenA
        let b := seenBack s true seenB
        let s := ownSeen a b s
        if a || b then s else backOff false false true s)

/-! ### Star -/

/-- A port carries a star link (Table 3). -/
def isLink (s : State) (p : Nat) : Bool := (fieldAt (block s 0x0402) 40 1).testBit p

/-- The ports that a transmission arriving on port p goes to: from a node port every port, from a link port every port that is no link
port; the own node's among them (R474, R478). -/
def forwardPorts (s : State) (p : Fin 8) : BitVec 9 :=
  if isLink s p.val then everyPort &&& ~~~(BitVec.ofNat 9 (fieldAt (block s 0x0402) 40 1)) else everyPort

/-- The collision marker that arrives on port `port` of the star, in UNSYNC, is sent on from a link port that is not cut to the node ports, and
counts as sent (R479, R480, R504). -/
def passMarker (port : Option (Fin 8)) (s : State) : State :=
  match port with
  | some p =>
    if starForwards s && !s.star.sync && isLink s p.val && !s.star.ports[p].cut && !s.star.ports[p].cutCont then
      { s with star := { s.star with sentTo := forwardPorts s p, collisions := satAdd 32 s.star.collisions 1 } }
    else s
  | none => s

/-- COLLISION_MARKER_RECEIVE (R480, R488): a marker arrives at the node on channels in use, and on a port of the module's star. -/
def execCollisionMarkerReceive (seen : MarkerSeen) (port : Option (Fin 8)) (s : State) : Res :=
  let onA := seen.onA && chUsed s false
  let onB := seen.onB && chUsed s true
  let s := passMarker port s
  .next (if nodeOn s && (onA || onB) && (s.ihloz.state = 1 || s.ihloz.state = 2 || s.ihloz.state = 3) then backOff onA onB false s else s)

/-- A violation of a port, which is cut at once when the cycle before had one too (R479). -/
def violation (p : Fin 8) (s : State) : State :=
  let s := modPort p (fun x => { x with vioNow := x.vioNow + 1, violations := satAdd 16 x.violations 1, clean := 0 }) s
  let x := s.star.ports[p]
  if 0 < x.vioLast && !x.cut then
    raise (0x5010 + p.val) 0x0510 0 (2 ^ 8 * ((x.vioLast + x.vioNow) % 256)) (modPort p (fun x => { x with cut := true }) s)
  else s

/-- A slot's window at the star is open at a tick for a node reached through a port (R477). -/
def windowOpen (s : State) (c : Sched) (p : Fin 8) (tick : Int) : Bool :=
  c.slots.any (fun x => (fieldAt (block s 0x0402) (8 + 4 * p.val) 4).testBit x.sender.toNat && slotWindow s c x tick)

/-- The star forwards what arrives on a port. -/
def starTake (p : Fin 8) (tick : Int) (s : State) : State :=
  { s with star := { s.star with forwarding := some (p.castSucc, tick), sentTo := forwardPorts s p } }

/-- STAR_DELIMITER_DETECT (R477 to R480), at a tick of the IHLOZ clock. -/
def execStarDelimiterDetect (port : Fin 8) (tick : Nat) (s : State) : Res :=
  .next (if !starForwards s then s
  else
    let s := advanceIhloz tick s
    let x := s.star.ports[port]
    if s.star.sync then
      (match schedNow s with
       | none => s
       | some c =>
         if windowOpen s c port tick then (if x.cut || x.cutCont then s else starTake port tick s) else violation port s)
    else if x.cut || x.cutCont then s
    else
      let r := stillForwarding port.castSucc tick s
      if r.1 then starCollide r.2 else starTake port tick r.2)

/-- The star forwards a transmission of a port. -/
def forwardsPort (s : State) (port : Fin 8) : Bool := (s.star.forwarding.map (fun f => f.1)) = some port.castSucc

/-- STAR_FORWARD_CUT (R478). -/
def execStarForwardCut (port : Fin 8) (s : State) : Res :=
  .next (if starForwards s && s.star.sync && forwardsPort s port then
    violation port { s with star := { s.star with forwarding := none, sentTo := 0 } }
  else s)

/-- STAR_CONTINUOUS_CUT (R480). -/
def execStarContinuousCut (port : Fin 8) (s : State) : Res :=
  .next (if !starForwards s || s.star.sync || s.star.ports[port].cutCont then s
  else
    let x := s.star.ports[port]
    let s := modPort port (fun x => { x with cutCont := true }) s
    let s := { s with star := { s.star with
      forwarding := if forwardsPort s port then none else s.star.forwarding
      sentTo := if forwardsPort s port then 0 else s.star.sentTo } }
    raise (0x5010 + port.val) 0x0510 0 (1 + 2 ^ 8 * ((x.vioLast + x.vioNow) % 256)) s)

/-- STAR_CUT_EXPIRE (R480). -/
def execStarCutExpire (port : Fin 8) (s : State) : Res :=
  .next (if s.star.ports[port].cutCont && alive s then
    raise (0x5010 + port.val) 0x0511 0 0 (modPort port (fun x => { x with cutCont := false }) s)
  else s)

/-- IHLOZ_SCHEDULE_LOAD (R469 to R471). -/
def execIhlozScheduleLoad (d : Desc) (mode : Byte) (buf : Bytes) (s : State) : Res :=
  let m := mode.toNat
  .next (bufferCommand d 0x1A true (scheduleReserved (fieldAt buf 4 2)) freeBuffer buf (fun d buf =>
    let c := schedOf (padTo d.bufLen.toNat buf)
    hostCommand d 0x1A true (fun s => [
      (!((synced s || s.ihloz.state = 2) && s.ihloz.mode.toNat = m) &&
        !((s.prof.vote.map (fun v => decide (v.mode.toNat = m))).getD false), stMode),
      (decide (m < 8), stVerify),
      (d.bufLen.toNat = 16 + 8 * c.slots.length && schedValid s m c, stVerify)])
    (fun s =>
      let s := modIhloz (fun n => { n with
        scheds := if c.cycleUs = 0 then Tab.del n.scheds m else Tab.set n.scheds m c }) s
      ok d 0 (refreshWhere (fun _ e => (e.map isIhloz).getD false) s))) s)

end Sys2Proof.Machine
end

