-- ==== Sys2Proof/Machine/Settings.lean ====
section
/-! DEFINITION. Settings blocks: the modes that may write each, their ranges, what an accepted block does, the content of the
status blocks, and SETTINGS_WRITE and SETTINGS_READ (R375 to R377 and the chapter of each block). -/

namespace Sys2Proof.Machine

/-- Blocks that only STOP and SERVICE may write. -/
def stopBlocks : List Nat :=
  [0x0301, 0x0302, 0x0304, 0x0401, 0x0402, 0x0410, 0x0420, 0x0421, 0x0501, 0x0502, 0x0601]

/-- The mode allows a write of the block (R45, R148, R316, R415, R436, R452, R475, R487, R508, R532, R553, R561, R576,
R601, R617, R636, R664). -/
def blockMode (s : State) (id : Nat) : Bool :=
  let m := s.mode.mode
  if id = 0x0101 then m = mStop
  else if id = 0x0102 || id = 0x0104 then m != mSafe && m != mStartUp
  else if stopBlocks.contains id then m = mStop || m = mService
  else if id = 0x0510 || id = 0x0603 || id = 0x0605 then m != mStartUp
  else true

/-! ### Ranges -/

/-- BASE_TICK_US and the loaded Ihloz cycle (R46, R49). -/
def cycleValid (s : State) (b : Bytes) : Bool :=
  let us := fieldAt b 0 4
  decide (10 ≤ us) && decide (us ≤ 10000) && s.ihloz.scheds.all (fun p => p.2.cycleUs % us = 0)

/-- ACTIVE stalls of a barn. -/
def activeIn (s : State) (b : Fin 4) : Nat :=
  (allStalls.filter (fun u => u.barn = b && (barn s b).present && (stall s u).state = 0)).length

/-- BARN_MASK of a task, with 0 for every present barn. -/
def barnMask (s : State) (b : Bytes) (t : Nat) : Nat :=
  let m := bitsOf (fieldAt b (72 + 4 * t) 1) 3 0
  if m = 0 then 2 ^ nBarns s - 1 else m

/-- APART_GROUP of a task. -/
def apartGroup (b : Bytes) (t : Nat) : Nat := bitsOf (fieldAt b (72 + 4 * t) 1) 7 4

/-- APART_LEVEL of a task: barn. -/
def apartBarn (b : Bytes) (t : Nat) : Bool := bitAt b (73 + 4 * t) 0

/-- The task is loaded and PAIRED. -/
def isPaired (s : State) (t : BitVec 7) : Bool := ((taskRec s t).map (fun r => r.attr.paired)).getD false

/-- A no-migration window in use has its ranges. -/
def windowValid (b : Bytes) (w : Nat) : Bool :=
  let p := fieldAt b (8 + 8 * w) 2
  let st := fieldAt b (10 + 8 * w) 2
  let n := fieldAt b (12 + 8 * w) 2
  decide (1 ≤ p) && decide (st < p) && decide (1 ≤ n) && decide (n ≤ p - st)

/-- The barns of a mask. -/
def barnsOf (m : Nat) : List (Fin 4) := (List.finRange 4).filter (fun b => m.testBit b.val)

/-- An APART_GROUP has room for its members at its level (R148, R696). Every entry of the block counts as a member here, its task loaded or not
(DESIGN CHOICE, log entry 19). -/
def groupFits (s : State) (b : Bytes) (g : Nat) : Bool :=
  let ms := (List.range 128).filter (fun t => apartGroup b t = g)
  let count := (ms.map (fun t => if isPaired s (taskNo t) then 2 else 1)).sum
  let union := barnsOf (ms.foldl (fun m t => m ||| barnMask s b t) 0)
  let level := ms.any (apartBarn b)
  decide (count ≤ if level then union.length else (union.map (activeIn s)).sum)

/-- The placement block passes R148. -/
def placementValid (s : State) (b : Bytes) : Bool :=
  let reserve := bitsOf (fieldAt b 0 1) 2 0
  let windows := bitsOf (fieldAt b 1 1) 3 0
  let active := ((List.finRange 4).map (activeIn s)).sum
  decide (reserve ≤ 4) && decide (reserve + 4 ≤ active) && decide (windows ≤ 8) &&
  (List.range (min windows 8)).all (windowValid b) &&
  (List.range 128).all (fun t =>
    let slack := fieldAt b (74 + 4 * t) 1
    let mask := barnMask s b t
    (decide (slack ≤ 100) || slack = 255) && decide (mask < 2 ^ nBarns s) &&
    (!isPaired s (taskNo t) || decide (2 ≤ (barnsOf mask).length))) &&
  (List.range 15).all (fun g => groupFits s b (g + 1))

/-- The pairing block has its ranges (Table 2 of Paired Execution). -/
def pairingValid (b : Bytes) : Bool :=
  (List.range 128).all (fun t =>
    let w := fieldAt b (8 + 4 * t) 2
    let l := bitsOf (fieldAt b (10 + 4 * t) 1) 3 0
    decide (1 ≤ w) && decide (w ≤ 10000) && decide (1 ≤ l))

/-- The digital input block passes R415. -/
def diValid (b : Bytes) : Bool :=
  (List.range 8).all (fun g =>
    let hv := bitAt b (8 + 8 * g) 0
    let us := fieldAt b (10 + 8 * g) 2
    let on := fieldAt b (12 + 8 * g) 2
    let off := fieldAt b (14 + 8 * g) 2
    decide (50 ≤ us) && decide (us ≤ 10000) && decide (20 ≤ off) &&
    (if hv then decide (200 ≤ on) && decide (on ≤ 1100) && decide (off + 50 ≤ on)
     else decide (50 ≤ on) && decide (on ≤ 220) && decide (off + 20 ≤ on)))

/-- The digital output block has its ranges (R436). -/
def doValid (b : Bytes) : Bool :=
  (List.range 8).all (fun g => decide (50 ≤ fieldAt b (8 + 4 * g) 2) && decide (fieldAt b (8 + 4 * g) 2 ≤ 1300))

/-- The loop block passes R452. -/
def loopValid (b : Bytes) : Bool :=
  (List.range 32).all (fun n =>
    let devices := bitsOf (fieldAt b (9 + 4 * n) 1) 2 0
    let limit := fieldAt b (10 + 4 * n) 2
    if n < 16 then !bitAt b (8 + 4 * n) 1 || (decide (1 ≤ devices) && decide (devices ≤ 6))
    else !bitAt b (8 + 4 * n) 0 && !bitAt b (8 + 4 * n) 1 && decide (120 ≤ limit) && decide (limit ≤ 260))

/-- The pair map passes R576 (Table 5 of Hot Standby), for its valid pairs. -/
def pairMapValid (b : Bytes) : Bool :=
  let pairs := (List.range 16).filter (fun q => bitAt b (8 + 4 * q) 7)
  let x (q : Nat) : Nat := bitsOf (fieldAt b (8 + 4 * q) 1) 4 0
  let y (q : Nat) : Nat := bitsOf (fieldAt b (9 + 4 * q) 1) 4 0
  let u (q : Nat) : Nat := bitsOf (fieldAt b (10 + 4 * q) 1) 5 0
  let v (q : Nat) : Nat := bitsOf (fieldAt b (11 + 4 * q) 1) 5 0
  pairs.all (fun q => x q != y q && u q != v q) &&
  pairs.all (fun q => pairs.all (fun r => q = r || (x q != x r && x q != y r && y q != x r && y q != y r)))

/-- The watchdog block has its ranges (R616, R617). -/
def wdtValid (b : Bytes) : Bool :=
  let p := fieldAt b 2 2
  let c := fieldAt b 4 2
  let t := fieldAt b 6 2
  decide (8 ≤ p) && decide (p ≤ 8192) && decide (c < p) && decide (1 ≤ t) && decide (t ≤ 1000)

/-- RIDE_MS of the power block (R636). -/
def powerValid (b : Bytes) : Bool :=
  decide (1 ≤ bitsOf (fieldAt b 0 1) 3 0) && decide (bitsOf (fieldAt b 0 1) 3 0 ≤ 10)

/-- The firmware transfer block has its ranges (R664). -/
def fwValid (b : Bytes) : Bool :=
  decide (1 ≤ fieldAt b 0 2) && decide (fieldAt b 0 2 ≤ 3600) && decide (100 ≤ fieldAt b 2 2) &&
  decide (fieldAt b 2 2 ≤ 60000) && decide (1 ≤ bitsOf (fieldAt b 4 1) 3 0)

/-- The block's own chapter accepts its content. -/
def blockValid (s : State) (id : Nat) (b : Bytes) : Bool :=
  if id = 0x0101 then cycleValid s b
  else if id = 0x0102 then placementValid s b
  else if id = 0x0104 then pairingValid b
  else if id = 0x0301 then diValid b
  else if id = 0x0302 then doValid b
  else if id = 0x0304 then loopValid b
  else if id = 0x0401 then nodeValid b
  else if id = 0x0402 then starValid s b
  else if id = 0x0410 then canValid s b
  else if id = 0x0420 then ethValid b
  else if id = 0x0421 then timeValid s b
  else if id = 0x0501 then telithValid b
  else if id = 0x0502 then pairMapValid b
  else if id = 0x0601 then wdtValid b
  else if id = 0x0603 then powerValid b
  else if id = 0x0605 then fwValid b
  else true

/-! ### Acceptance -/

/-- SAMPLE_US of input group g. -/
def sampleUs (s : State) (g : Nat) : Nat := fieldAt (block s 0x0301) (10 + 8 * g) 2

/-- The first instant of a grid from `base` in steps of `p` after a task time in µs. -/
def gridAfter (base : Int) (p last : Nat) : Int := base + (((last : Int) - base) / (max p 1 : Nat) + 1) * (max p 1 : Nat)

/-- The first sample instant of group g after a task time in µs (R417, R649): of the provisional grid, as long as it is in progress by T0,
then of the grid of T0; no two samples lie more than SAMPLE_US apart. -/
def sampleAfter (s : State) (g : Nat) (last : Nat) : Nat :=
  let p := sampleUs s g
  let next := gridAfter (s.time.t0 + 5 * (g : Int)) p
  match s.field.provisional with
  | some o =>
    let old := gridAfter (o + 5 * (g : Int)) p last
    if s.time.t0 ≤ (last : Int) then (next last).toNat
    else if old ≤ s.time.t0 + 20 then old.toNat
    else (min old (next (max last (s.time.t0 - 1).toNat))).toNat
  | none => (next last).toNat

/-- Task time in µs of the end of the next sample of group g. -/
def nextSample (s : State) (g : Nat) : Nat :=
  match s.field.diGrp[g]? with
  | some k => (k.inProgress.map (fun p => p.1)).getD (sampleAfter s g k.last)
  | none => 0

/-- ON_DV and OFF_DV that govern the next sample of group g (R415). -/
def sampleLimits (s : State) (g : Nat) : Nat × Nat :=
  (((s.field.diGrp[g]?).bind (fun k => k.inProgress)).map (fun p => p.2)).getD
    (fieldAt (block s 0x0301) (12 + 8 * g) 2, fieldAt (block s 0x0301) (14 + 8 * g) 2)

/-- The next sample of group g, with its thresholds, when its sink current flows already at task time `now` in µs (R415, R417). -/
def sampling (before : State) (now g : Nat) : Option (Nat × Nat × Nat) :=
  if before.field.sampling && decide (nextSample before g ≤ now + 20) then some (nextSample before g, sampleLimits before g) else none

/-- The end of the next conversion window, in µs of task time: that of a conversion in progress when the grid moved, or the next of the
grid, which is the provisional one for windows that begin before T0 (R439, R649). -/
def nextConversion (s : State) : Nat :=
  let next := gridAfter s.time.t0 1000 s.field.convLast
  s.field.convEnd.getD (match s.field.provisional with
    | some o =>
      let old := gridAfter o 1000 s.field.convLast
      if (s.field.convLast : Int) < s.time.t0 && old < s.time.t0 + 1000 then old.toNat else next.toNat
    | none => next.toNat)

/-- The sampling and conversion grids have moved to a new origin: a sample whose sink current flows already, and the conversion in
progress, are completed as they stood before (R50, R417, R649). -/
def moveGrid (before s : State) : State :=
  if !before.field.sampling then s
  else { s with field := { s.field with
    convEnd := some (nextConversion before)
    provisional := none
    diGrp := s.field.diGrp.mapFinIdx (fun g (k : DiGrp) _ => { k with
      inProgress := sampling before (nowUs s) g }) } }

/-- Change input group g. -/
def modDiGrp (g : Nat) (f : DiGrp → DiGrp) (s : State) : State :=
  { s with field := { s.field with diGrp := vmod s.field.diGrp g f } }

/-- An accepted digital input block: a sample in progress is completed under the old block, and the next one lies at least
25 µs after the completion (R415); an input whose entry NOMINAL makes valid again starts anew (R703). -/
def diAccept (before s : State) : State :=
  let done := nowUsUp s
  let s := (List.range 8).foldl (fun s g =>
    modDiGrp g (fun k => { k with inProgress := sampling before (nowUs s) g, last := done + 24 }) s) s
  (List.range 64).foldl (fun s id => diGain before id s) s

/-- An accepted cycle block changes the base tick length when the new length takes effect (R50). One that repeats the length of the block
before it changes nothing; one that returns to the length still in use ends a change that waits (log entry 102). -/
def cycleAccept (old b : Bytes) (s : State) : State :=
  let us := fieldAt b 0 4
  if us = fieldAt old 0 4 then s
  else if us = s.time.tickUs then { s with time := { s.time with newTick := none } }
  else { s with time := { s.time with newTick := some (us, nowUs s) } }

/-- What an accepted block does at its completion, given the state before it came into force. -/
def blockEffect (id : Nat) (old new : Bytes) (before s : State) : State :=
  if id = 0x0101 then cycleAccept old new s
  else if id = 0x0301 then diAccept before s
  else if id = 0x0401 then nodeAccept s
  else if id = 0x0402 then starAccept s
  else if id = 0x0410 then canAccept old new s
  else if id = 0x0420 then ethAccept old new s
  else if id = 0x0421 then timeAccept s
  else if id = 0x0501 then telithAccept s
  else if id = 0x0510 then
    (if fieldAt old 0 2 = fieldAt new 0 2 then s else { s with mode := { s.mode with saveFrom := nowUs s } })
  else s

/-- An accepted block comes into force (R376). -/
def acceptBlock (id : Nat) (new : Bytes) (s : State) : State :=
  let old := block s id
  let s' := { s with ret := { s.ret with blocks := Tab.set s.ret.blocks id new } }
  refreshChans (refreshSource (blockEffect id old new s s'))

/-! ### Status blocks -/

/-- An entry of PLACE_A or PLACE_B. -/
def placeByte : Option StallId → Nat
  | some u => u.stall.val + 8 * u.barn.val + 128
  | none => 0

/-- What the module measures in `n` places as a status block is read: free 16-bit values from number `k` on (log entry 5). -/
def measured (k n : Nat) : Bytes := (List.range n).flatMap (fun i => leBytes 2 (Config.freeNat (k + i) % 65536))

/-- The highest of the barns' sensors, in 0.125 °C steps (Table 9 of The Yardmaster). -/
def dieTemp (s : State) : Int :=
  match (s.barns.toList.filter (fun b => b.present)).map (fun b => b.temp) with
  | [] => 0
  | x :: l => l.foldl max x

/-- The placement status block (Table 9 of The Yardmaster). -/
def placementStatus (s : State) : Bytes :=
  allStalls.map (fun u =>
    if (barn s u.barn).present then BitVec.ofNat 8 ((stall s u).state.toNat + 8 * min (stall s u).margin 31) else 0#8) ++
  s.barns.toList.map (fun b => b.power.setWidth 8) ++ leBytes 4 s.yard.stepsTotal ++ leBytes 4 s.yard.wakesTotal ++
  leBytes 4 s.yard.slipMaxAll ++ leBytes 2 (unsigned 16 (dieTemp s)) ++ zeros 2 ++
  allTasks.flatMap (fun t =>
    let k := task s t
    leBytes 1 (placeByte k.placeA) ++ leBytes 1 (if isPaired s t then placeByte k.placeB else 0) ++ leBytes 2 k.epoch.toNat)

/-- A pinned channel is in a state other than OK and VARIANT_OFF. -/
def notOk (s : State) (id : Nat) : Bool :=
  let st := chanState s id
  st != 5 && (st != 0 || s.chan.layout.any (fun p => p.2 = id))

/-- The cache status block (Table 7 of Channel Table and Warden). -/
def cacheStatus (s : State) : Bytes :=
  leBytes 2 s.chan.pinned.length ++ leBytes 2 (cacheSize s) ++ leBytes 4 s.chan.hostLoads ++ leBytes 4 s.chan.storeLoads ++
  leBytes 4 s.chan.fetchFails ++ leBytes 2 ((pinnedIds s).filter (notOk s)).length ++ zeros 6

/-- The warden status block (R412). -/
def wardenStatus (s : State) : Bytes := (List.range 136).flatMap (fun k => padTo 64 (Tab.getD s.chan.warden k []))

/-- The digital I/O status block (Table 9 of Digital Inputs and Outputs). -/
def dioStatus (s : State) : Bytes :=
  s.field.diGrp.toList.flatMap (fun g => leBytes 2 g.vs) ++ s.field.doGrp.toList.flatMap (fun g => leBytes 2 g.vf.toNat) ++
  s.field.doGrp.toList.flatMap (fun g => leBytes 2 g.current.toNat) ++ s.field.doGrp.toList.flatMap (fun g => leBytes 2 g.trips) ++
  s.field.dout.toList.map (fun d => d.temp)

/-- The loop status block (Table 7 of Current Loops). -/
def loopStatus (s : State) : Bytes :=
  s.loops.toList.flatMap (fun l =>
    leBytes 4 (unsigned 32 (l.conv.headD 0)) ++ leBytes 4 (max l.shortfall 0).toNat ++ leBytes 2 l.terminalCv ++
    leBytes 2 l.supplyCv ++ leBytes 2 l.hartOk ++ leBytes 1 l.hartFailed ++ leBytes 1 l.hartStray)

/-- The Ihloz node status block (Table 9 of Ihloz). -/
def nodeStatus (s : State) : Bytes :=
  let n := s.ihloz
  leBytes 1 (n.state.toNat + 8 * b2n n.aligned) ++ leBytes 1 n.mode.toNat ++ zeros 2 ++ leBytes 4 n.members.toNat ++
  leBytes 8 n.cycle ++ leBytes 4 (unsigned 32 n.lastM) ++ leBytes 4 (unsigned 32 n.ratePpb) ++ leBytes 2 n.rejA ++
  leBytes 2 n.rejB ++ zeros 4 ++
  (List.range 32).flatMap (fun k =>
    leBytes 2 (Tab.getD n.empty k 0) ++ leBytes 1 (Tab.getD n.invalid k 0) ++ leBytes 1 (Tab.getD n.diverge k 0))

/-- The star status block (Table 10 of Ihloz). -/
def starStatus (s : State) : Bytes :=
  leBytes 1 (b2n s.star.sync) ++ zeros 3 ++ leBytes 4 s.star.collisions ++
  s.star.ports.toList.flatMap (fun p => leBytes 1 (b2n (p.cut || p.cutCont)) ++ zeros 1 ++ leBytes 2 p.violations)

/-- The CAN status block (Table 8 of CAN Controllers); an absent controller reads zero. -/
def canStatus (s : State) : Bytes :=
  (List.finRange 4).flatMap (fun c =>
    let k := s.can[c]
    if nCan s ≤ c.val then zeros 16
    else
      leBytes 1 (if canEnabled s c.val then k.state.toNat else 3) ++ leBytes 1 k.lastError.toNat ++ leBytes 2 k.tec ++
      leBytes 2 k.recCnt ++ leBytes 2 k.busOffs ++ leBytes 4 k.rxFrames ++ leBytes 2 k.skipped ++ leBytes 2 k.collisions)

/-- The time status block (Table 11 of Ethernet and Time). -/
def timeStatus (s : State) : Bytes :=
  leBytes 1 (b2n s.time.timeValid + 2 * b2n s.ptp.grandmaster + 4 * s.time.source.toNat) ++
  leBytes 1 (s.eth[0].ptpState.toNat + 16 * s.eth[1].ptpState.toNat) ++ leBytes 2 s.ptp.utcOffset.toNat ++ zeros 4 ++
  leBytes 8 s.ptp.gmIdentity.toNat ++ leBytes 8 (unsigned 64 s.ptp.offsetNs) ++ leBytes 4 s.ptp.pathDelay.toNat ++
  leBytes 4 s.time.freq.toNat ++ leBytes 4 (unsigned 32 s.time.slewPpb) ++ leBytes 4 s.time.steps ++
  s.eth.toList.flatMap (fun p =>
    leBytes 4 p.rxFrames ++ leBytes 2 p.rxErrors ++ leBytes 2 p.skipped ++ leBytes 4 p.txFrames ++ leBytes 2 p.late ++ zeros 2)

/-- The retain status block (Table 11 of Retain Store and Event Recorder). -/
def retainStatus (s : State) : Bytes :=
  let r := s.ret
  leBytes 1 (r.retCopy.1.toNat + 4 * b2n r.aValid + 8 * b2n r.bValid + 16 * b2n r.sealLock) ++
  leBytes 1 r.lastCause.toNat ++ zeros 2 ++ leBytes 4 (retainedBytes s.proj.cur) ++ leBytes 8 r.lastN ++ leBytes 4 r.saves ++
  leBytes 4 r.abandoned ++ leBytes 8 s.recorder.total ++ leBytes 2 (s.recorder.total % 32768) ++ zeros 2 ++
  leBytes 4 s.recorder.lostTotal ++ zeros 24

/-- The watchdog's clock in use: WATCH (R616, R629). -/
def wdtOnWatch (w : WdtSt) : Bool := if w.pilotBad then true else if w.watchBad then false else bitAt w.cfg 0 1

/-- PAIR_ARMED after what has arrived since the last edge (R620, R631). -/
def pairArmed (w : WdtSt) : Bool :=
  w.inbox.foldl (fun on x => match x with
    | .key _ v => decide (v = 0x5A1C) && !on
    | .checkin _ _ => on) w.armed

/-- The tasks of which a copy has checked in, with what has arrived since the last edge: a task that is not paired checks in as both
copies do (R625, R631). -/
def checkedIn (s : State) (copyB : Bool) : BitVec 128 :=
  s.wdt.inbox.foldl (fun m x => match x with
    | .checkin t b =>
      if ((taskRec s t).map (fun r => r.attr.paired)).getD false && b != copyB then m else m ||| BitVec.ofNat 128 (2 ^ t.toNat)
    | .key _ _ => m) (if copyB then s.wdt.checkedB else s.wdt.checked)

/-- The watchdog status block (Table 4 of Watchdogs). -/
def wdtStatus (s : State) : Bytes :=
  let on := s.wdt.state = 1
  leBytes 1 (s.wdt.state.toNat + 4 * b2n (wdtOnWatch s.wdt) + 8 * b2n (if on then pairArmed s.wdt else s.wdt.armed)) ++ zeros 1 ++
  leBytes 2 s.wdt.count ++ leBytes 2 s.ret.ctr.wdtExpiries ++ leBytes 2 s.wdt.refused ++
  leBytes 16 (if on then checkedIn s false &&& checkedIn s true else s.wdt.checked &&& s.wdt.checkedB).toNat

/-- The power status block (Table 9 of Power, Clocks and Start-up); INPUT_V, STORE_V and INPUT_MW are measurements. -/
def powerStatus (k : Nat) (s : State) : Bytes :=
  let p := s.power
  leBytes 1 (p.store.toNat + 4 * b2n p.interrupted) ++ zeros 1 ++ measured k 2 ++
  leBytes 2 p.storeC ++ leBytes 4 p.interruptions ++ leBytes 4 p.powerDowns ++ leBytes 4 p.longestUs ++
  leBytes 2 p.startupMs ++ measured (k + 2) 1

/-- One slot of the firmware status block (Table 6 of Firmware Update). -/
def fwSlotStatus (f : FwSlot) : Bytes :=
  leBytes 1 f.state.toNat ++ leBytes 3 (leNat (Mem.read f.image 8 3)) ++ leBytes 4 (leNat (Mem.read f.image 20 4)) ++
  leBytes 4 (if f.state = 1 then f.image.length else f.length) ++ zeros 4

/-- The content of a block as SETTINGS_READ returns it, with free values from number `k` on; a block of an absent unit reads
zero (R377). -/
def blockRead (k : Nat) (s : State) (id : Nat) : Bytes :=
  match blockLen id, statusLen id with
  | some _, _ => block s id
  | none, some n =>
    if blockAbsent s id then zeros n
    else if id = 0x0103 then placementStatus s
    else if id = 0x0201 then cacheStatus s
    else if id = 0x0202 then wardenStatus s
    else if id = 0x0303 then dioStatus s
    else if id = 0x0305 then loopStatus s
    else if id = 0x0403 then nodeStatus s
    else if id = 0x0404 then starStatus s
    else if id = 0x0411 then canStatus s
    else if id = 0x0422 then timeStatus s
    else if id = 0x0511 then retainStatus s
    else if id = 0x0602 then wdtStatus s
    else if id = 0x0604 then powerStatus k s
    else fwSlotStatus s.fw.slot0 ++ fwSlotStatus s.fw.slot1
  | none, none => []

/-! ### Commands -/

/-- The settings of a malformed SETTINGS_WRITE may take any values, those that its checks would refuse among them (R10); not those of the watchdog,
whose expiry nothing may delay (R11). -/
def anyBlock (s : State) (id : Nat) (d : Desc) : Bool := malformed d && id != 0x0601 && Config.freeBit (s.free + 1)

/-- SETTINGS_WRITE (R376, R377): the block is stored first, and takes effect at the completion. -/
def execSettingsWrite (d : Desc) (block_ : Half) (format : Byte) (buf : Bytes) (s : State) : Res :=
  let id := block_.toNat
  .next (bufferCommand d 0x02 true (blockReserved id) (if id = 0x0601 then sameBuffer else freeBuffer) buf (fun d buf => hostCommand d 0x02 true (fun s => [
      (!blockAbsent s id, stAbsent), (blockMode s id, stMode),
      (decide (blockLen id = some d.bufLen.toNat) && format = 1 && (blockValid s id (padTo d.bufLen.toNat buf) || anyBlock s id d), stVerify)])
    (fun s =>
      let b := padTo d.bufLen.toNat buf
      enqueueOp (.settings (some d.ring) id b) (List.replicate (settingsCount b.length) (0, [])) (defer d 0x02 (.settings id) s))) s)

/-- SETTINGS_READ (R377, R367): RESULT has the format version and the length. -/
def execSettingsRead (d : Desc) (block_ : Half) (s : State) : Res :=
  let id := block_.toNat
  .next (hostCommand d 0x03 false (fun _ => [
      ((blockLen id).isSome || (statusLen id).isSome, stVerify),
      (decide ((blockLen id).getD ((statusLen id).getD 0) ≤ d.bufLen.toNat), stSpace)])
    (fun s =>
      let b := blockRead s.free s id
      let s := { s with free := s.free + 64 }
      ok d (1 + 2 ^ 16 * b.length) (output d b s)) s)

end Sys2Proof.Machine
end

