-- ==== Sys2Proof/Machine/Commands.lean ====
section
/-! DEFINITION. Host commands: NOP, IDENTIFY, MODE_SET, TASK_LOAD, TASK_CONTROL, HOLD_SET, STEP, CHAN_SYNC, WARDEN_WRITE and
IMAGE_EXPORT_SET (R370 to R374; R52, R53, R78 to R98, R178, R398, R408, R598, R694, R700). -/

namespace Sys2Proof.Machine

/-- A descriptor whose OPCODE Table 14 does not list (check 1 of Table 13). -/
def unlisted (d : Desc) (s : State) : State :=
  if !mayStart d.ring s then s
  else
    let act := complete d.ring d.tag stVerify 0
    let s := startNext d.ring 0 s
    if malformed d then unpredicted d act s else act s

/-- A descriptor of TASK_CONTROL, HOLD_SET, CLOCK_ADJUST or REDUNDANCY_CONTROL whose ACTION lies outside its range (check 5 of Table 13);
the other opcodes have rows of their own. -/
def badAction (d : Desc) (op : Nat) (s : State) : State :=
  if [0x06, 0x07, 0x16, 0x1F].contains op then
    hostCommand d op (op = 0x1F) (fun s => [(op != 0x1F || hasTelith s, stAbsent),
      ((op != 0x07 || runs s) && (op != 0x16 || clockMode s), stMode), (false, stVerify)]) id s
  else s

/-- NOP, and the descriptors that name no command (R367, R370). -/
def execNop (d : OpDesc) (s : State) : Res :=
  .next (if d.opcode = 0 then hostCommand d.desc 0x00 false (fun _ => []) (ok d.desc 0) s
  else if 0x1F < d.opcode.toNat then unlisted d.desc s
  else badAction d.desc d.opcode.toNat s)

/-! ### IDENTIFY (Table 15) -/

/-- IDENT (Table 2 of Host Interface). -/
def identWord (s : State) : Nat := 0xB264 + 2 ^ 16 * s.factory.variant.toNat + 2 ^ 24 * s.factory.hwRev.toNat

/-- CAPS (Table 3 of Host Interface). -/
def capsWord (s : State) : Nat :=
  nBarns s + 2 ^ 4 * nCan s + 2 ^ 8 * b2n (hasPaired s) + 2 ^ 9 * b2n (hasLoop s) + 2 ^ 10 * b2n (hasStar s) +
  2 ^ 11 * b2n (hasTelith s) + 2 ^ 16 * cacheSize s

/-- The active firmware slot. -/
def fwActive (s : State) : FwSlot := if s.fw.active then s.fw.slot1 else s.fw.slot0

/-- FW_VERSION: version of the active slot's image and the slot (R347). -/
def fwVersion (s : State) : Nat := leNat (Mem.read (fwActive s).image 8 3) + 2 ^ 24 * b2n s.fw.active

/-- SLOT: unit ID, and the Ihloz node ID, valid while the node is enabled. -/
def slotWord (s : State) : Nat :=
  s.power.slotId.toNat + 2 ^ 8 * (ownNode s).toNat + 2 ^ 15 * b2n (bitAt (block s 0x0401) 0 0)

/-- The units present, with instance, format and state (R371). The rung solver of a barn that failed self-test 4 is out of service, STATE 2 (DESIGN
CHOICE, log entry 69). -/
def unitList (s : State) : List (Nat × Nat × Nat × Nat) :=
  let barns := (List.finRange 4).filter (fun b => decide (b.val < nBarns s))
  let each (class_ n format : Nat) : List (Nat × Nat × Nat × Nat) := (List.range n).map (fun i => (class_, i, format, 0))
  barns.map (fun b => (1, b.val, 0, if !(barn s b).present || activeIn s b < 4 then 1 else 0)) ++
  barns.map (fun b => (2, b.val, 0, if !(barn s b).present || (barn s b).solverOut then 2 else 0)) ++
  each 3 8 1 ++ each 4 8 1 ++ each 5 (b2n (hasLoop s)) 1 ++ each 6 (nCan s) 1 ++ each 7 2 1 ++ each 8 1 1 ++
  each 9 (b2n (hasStar s)) 1 ++ each 10 (b2n (hasTelith s)) 1 ++ each 11 1 1 ++ each 12 1 0 ++ each 13 1 1 ++ each 14 1 0

/-- The unit list as bytes. -/
def unitBytes (s : State) : Bytes :=
  leBytes 4 (identWord s) ++ leBytes 4 (capsWord s) ++ leBytes 8 s.factory.serial.toNat ++ leBytes 4 (fwVersion s) ++
  leBytes 2 (slotWord s) ++ leBytes 2 (unitList s).length ++ zeros 8 ++
  (unitList s).flatMap (fun u => leBytes 1 u.1 ++ leBytes 1 u.2.1 ++ leBytes 1 u.2.2.1 ++ leBytes 1 u.2.2.2)

/-- IDENTIFY. -/
def execIdentify (d : Desc) (s : State) : Res :=
  .next (hostCommand d 0x01 false (fun s => [(decide ((unitBytes s).length ≤ d.bufLen.toNat), stSpace)])
    (fun s => ok d (unitBytes s).length (output d (unitBytes s) s)) s)

/-! ### HOLD and breakpoints (R90 to R98) -/

/-- The held copy in slot `f` goes on executing (Table 3 of Transactions: HELD to RUNNING). Where its stall executes nothing else and it
is the resident of R60, its context returns to the registers; else it is at once PREEMPTED by the instance that executes, until the
stall turns to it (log entry 82). One with a fault that came while it did not run aborts by it when the stall turns to it (R102). -/
def goOn (u : StallId) (f : Fin 4) (g : Inst → Inst) (s : State) : State :=
  let s := modInst u f (fun i => { g i with phase := .preempted }) s
  match slotOf s u f with
  | some i =>
    if i.fault.isSome then s
    else if (stall s u).running = some f then modInst u f (fun i => { i with phase := .running }) s
    else if (stall s u).running.isNone && bestResident s u = some f then
      modInst u f (fun i => { i with phase := .running }) (modStall u (fun st => { loadFrame f i st with running := some f }) s)
    else s
  | none => s

/-- No copy of task `t` waits or is held any more: the pairing deadline runs on (R97, R305). -/
def runPair (t : BitVec 7) (s : State) : State :=
  modTask t (fun k => { k with inst := k.inst.map (fun r => match r.pairRest with
    | some n => { r with pairDue := some (s.time.net + n), pairRest := none }
    | none => r) }) s

/-- A copy stands at a bundle: held, or waiting for its partner. -/
def standing (i : Inst) : Bool := i.phase = .held || i.phase = .waitBreak

/-- A copy waits at a breakpoint for its partner, which is on its way there (R97): neither a resume nor another STEP sends it on, so that
both copies have issued the same number of bundles when both stand there. -/
def awaited (s : State) (i : Inst) : Bool :=
  i.phase = .waitBreak && s.mode.breaks.contains (i.task, i.bank, i.stopPc) &&
  !((copies s i.task).any (fun c => c.2.2.copyB != i.copyB && (standing c.2.2 || c.2.2.phase = .ending)))

/-- A held task is resumed, with TASK_RESUMED; its deadline runs again, and a step that some copy has not made is dropped (R93, R96). -/
def resumeTask (t : BitVec 7) (s : State) : State :=
  let s := (copies s t).foldl (fun s c =>
    if standing c.2.2 && !awaited s c.2.2 then goOn c.1 c.2.1 (fun i => { i with passBreak := true, steps := none }) s
    else modInst c.1 c.2.1 (fun i => { i with steps := none }) s) s
  let s := modTask t (fun k => { k with
    held := false, heldEntry := false
    inst := k.inst.map (fun r =>
      let r := { r with stepB := none }
      if r.frozen then { r with frozen := false, deadline := r.deadline.map (fun n => n + s.time.tickNo) } else r) }) s
  raiseTask t 0x0105 0 0 (if (copies s t).any (fun c => standing c.2.2) then s else runPair t s)

/-- The command that waits for a step of a task completes with the bundles issued (R95). -/
def endStep (t : BitVec 7) (issued : Nat) (s : State) : State :=
  (List.finRange 8).foldl (fun s k => completeWait k (fun w => w = .step t) stOk (issued % 2 ^ 16) s) s

/-- Every held task is resumed and every breakpoint cleared (R98); a STEP in progress completes with REFUSED_MODE (log entry 107). -/
def resumeAll (s : State) : State :=
  allTasks.foldl (fun s t => if (task s t).held then resumeTask t s else s)
    (refuseSteps { s with mode := { s.mode with breaks := [] } })

/-- A breakpoint at a bundle of a task's active program bank (R90). -/
def breakAt (s : State) (task_ : Byte) (bundle : Half) : BitVec 7 × Bool × BitVec 15 :=
  (taskNo task_.toNat, s.proj.active, bundle.setWidth 15)

/-- BREAKPOINT_SET: HOLD_SET with action SET (R90, R91). SET of a breakpoint that already stands completes with OK and counts it once, also
when 16 are set (DESIGN CHOICE, log entry 115). -/
def execBreakpointSet (d : Desc) (task_ : Byte) (bundle : Half) (s : State) : Res :=
  .next (hostCommand d 0x07 false (fun s => [
      (runs s && !(decide (task_.toNat < 128) && bitAt (block s 0x0601) (8 + task_.toNat / 8) (task_.toNat % 8)), stMode),
      (decide (task_.toNat < 128) && decide (bundle.toNat < 2 ^ 15), stVerify)])
    (fun s =>
      let b := breakAt s task_ bundle
      if s.mode.breaks.contains b then ok d 0 s
      else if 16 ≤ s.mode.breaks.length then fail d stSpace s
      else ok d 0 { s with mode := { s.mode with breaks := s.mode.breaks ++ [b] } }) s)

/-- BREAKPOINT_CLEAR: HOLD_SET with action CLEAR (R90). A copy that waits at the breakpoint for its partner goes on waiting (log
entry 79). -/
def execBreakpointClear (d : Desc) (task_ : Byte) (bundle : Half) (s : State) : Res :=
  .next (hostCommand d 0x07 false (fun s => [
      (runs s, stMode), (decide (task_.toNat < 128) && decide (bundle.toNat < 2 ^ 15), stVerify)])
    (fun s => ok d 0 { s with mode := { s.mode with breaks := s.mode.breaks.filter (fun x => x != breakAt s task_ bundle) } }) s)

/-- HOLD_RESUME: HOLD_SET with action RESUME (R96); HOLD ends with the last held task. A STEP of the task that is in progress completes
with REFUSED_MODE (log entry 107). -/
def execHoldResume (d : Desc) (point : HoldPoint) (s : State) : Res :=
  let t := taskNo point.task.toNat
  .next (hostCommand d 0x07 false (fun s => [
      (runs s && !(decide (point.task.toNat < 128) && !(task s t).held), stMode),
      (decide (point.task.toNat < 128) && decide (point.bundle.toNat < 2 ^ 15), stVerify)])
    (fun s =>
      let s := (List.finRange 8).foldl (fun s k => completeWait k (fun w => w = .step t) stMode 0 s) s
      ok d 0 (endHold d.ring.val (resumeTask t s))) s)

/-- The bundles a copy has to make for a step of `n` more (none: to its end), `old` being what it has left of a step in progress (R95; log
entry 28). -/
def addSteps (old n : Option Nat) : Option Nat := old.bind (fun k => n.map (fun m => k + m))

/-- A step of `n` more bundles for copy `i`. -/
def stepCopy (n : Option Nat) (i : Inst) : Inst :=
  if standing i then { i with steps := n, passBreak := true, issued := 0 } else { i with steps := addSteps i.steps n }

/-- STEP (R95, R97): both copies of a paired task advance by the same number of bundles; a copy B that has not started takes them at
its start. A step while one is in progress adds its bundles to it, and both complete together (log entry 107); where a copy has already
reached a breakpoint at which it waits for the other, the step ends there for both (R97). -/
def execStep (d : Desc) (task_ : Byte) (count : Half) (s : State) : Res :=
  let t := taskNo task_.toNat
  let n := if count = 0 then none else some count.toNat
  .next (hostCommand d 0x08 false (fun s => [
      (!(decide (task_.toNat < 128) && !(task s t).held), stMode), (decide (task_.toNat < 128), stVerify)])
    (fun s =>
      let s := defer d 0x08 (.step t) s
      if (copies s t).any (fun c => awaited s c.2.2) then s
      else
      let s := modTask t (fun k => { k with inst := k.inst.map (fun r =>
        if r.started && !r.startedB then { r with stepB := some (match r.stepB with
          | some old => addSteps old n
          | none => n) } else r) }) s
      runPair t ((copies s t).foldl (fun s c => if c.2.2.phase = .ending then s
        else if standing c.2.2 then goOn c.1 c.2.1 (stepCopy n) s
        else modInst c.1 c.2.1 (stepCopy n) s) s)) s)

/-! ### MODE_SET (R80 to R87, R694) -/

/-- The MODE values of Table 10. -/
def modeCode (m : Nat) : Bool := decide (m ≤ 5) || m = 7

/-- The transition that a MODE_SET asks for is allowed (Table 11, R80, R83, R85, R86, R694), but for R567. -/
def modeAllowed (s : State) (m : Nat) (start : Byte) (reason : Half) : Bool :=
  let old := s.mode.mode
  let given := reason != 0
  if old = mStartUp then false
  else if m = 2 then false
  else if !modeCode m || m = old.toNat then true
  else if m = 4 then true
  else if m = 0 then old = mRun || old = mHold || old = mTrack || old = mService || (old = mSafe && given)
  else if m = 1 then !partnerActive s &&
    (old = mHold || (old = mStop && s.proj.loaded && (start != 2 || s.mode.resumeOk)))
  else if m = 3 then (old = mStop || old = mService) && s.proj.loaded && partnerActive s
  else if m = 5 then old = mStop || old = mTrack
  else old = mStop || old = mService || (old = mSafe && given)

/-- MODE_SET TRACK of a unit whose project differs from the partner's is refused, with PAIR_PROJECT_DIFFERS (R567). -/
def trackSet (d : Desc) (reason : Half) (s : State) : State :=
  let diff := pairDiffers s
  let s := modPair (fun p => { p with differs := diff }) s
  if diff != 0 then fail d stMode (raisePair 0x080B diff.toNat s)
  else ok d 3 (changeMode mTrack 0 d.ring.val reason.toNat s)

/-- An accepted MODE_SET. RUN from STOP waits for the new claim (R571); START_UP completes before start-up begins. -/
def modeBody (d : Desc) (m : Nat) (start : Byte) (reason : Half) (s : State) : State :=
  if m = s.mode.mode.toNat then ok d m s
  else if m = 1 && s.mode.mode = mStop then takeClaim .modeSet (defer d 0x04 (.modeRun start reason 0) s)
  else if m = 1 then ok d 1 (changeMode mRun 8 d.ring.val reason.toNat (resumeAll s))
  else if m = 3 then trackSet d reason s
  else if m = 4 then ok d 4 (enterSafe 0 d.ring.val reason.toNat s)
  else if m = 7 then startUp true (ok d 7 (changeMode mStartUp 0 d.ring.val reason.toNat s))
  else ok d m (changeMode (BitVec.ofNat 4 m) 0 d.ring.val reason.toNat s)

/-- MODE_SET. -/
def execModeSet (d : Desc) (mode start : Byte) (reason : Half) (s : State) : Res :=
  let m := mode.toNat
  .next (hostCommand d 0x04 true (fun s => [
      (modeAllowed s m start reason, stMode), (modeCode m && decide (start.toNat ≤ 2), stVerify)])
    (modeBody d m start reason) s)

/-! ### Packages (R321, R372, R373) -/

/-- The task attribute record (Table 2 of Tasks, Cycle and Modes) as bytes. -/
def attrBytes (a : TaskAttr) : Bytes :=
  [a.taskId.setWidth 8, a.priority.setWidth 8, BitVec.ofNat 8 (b2n a.paired + 2 * b2n a.tickAligned + 4 * b2n a.enabled),
   a.overrun.setWidth 8] ++ leBytes 2 a.period.toNat ++ leBytes 2 a.offset.toNat ++ leBytes 2 a.deadline.toNat ++
  [a.triggerType, a.triggerCond] ++ leBytes 4 a.triggerSel.toNat ++ leBytes 4 a.minRetrigger.toNat ++
  leBytes 4 a.alarmPhase.toNat ++ zeros 8

/-- A selection entry as bytes. -/
def selBytes (x : SelEntry) : Bytes :=
  leBytes 4 x.offset ++ leBytes 4 (x.length + 2 ^ 24 * b2n x.retain + 2 ^ 25 * b2n x.mirror + 2 ^ 26 * b2n x.region)

/-- A map entry as bytes. -/
def mapBytes (m : MapEntry) : Bytes := leBytes 4 (m.chan.toNat + 2 ^ 16 * m.offset.toNat)

/-- A task load record as bytes (Table 18). -/
def recBytes (r : TaskRec) : Bytes :=
  attrBytes r.attr ++ leBytes 2 r.entry.toNat ++ leBytes 2 r.inSize ++ leBytes 2 r.outSize ++ leBytes 2 r.inMap.length ++
  leBytes 2 r.outMap.length ++ leBytes 2 r.sel.length ++ leBytes 4 r.privSize ++ leBytes 4 r.rungSize ++
  leBytes 4 r.privInit.toNat ++ leBytes 4 r.outInit.toNat ++ zeros 4 ++
  r.inMap.flatMap mapBytes ++ r.outMap.flatMap mapBytes ++ r.sel.flatMap selBytes

/-- The stall bank image. -/
def stallBytes (t : Tab MoveWord) : Bytes := (List.range 65536).flatMap (fun a => leBytes 2 (Tab.getD t a 0x3FFF).toNat)

/-- The solver bank image. -/
def solverBytes (t : Tab RungWord) : Bytes := (List.range 131072).flatMap (fun a => leBytes 2 (Tab.getD t a 0xF01).toNat)

/-- Words listed in any order as a table. -/
def tabOf {α : Type} (l : List (Nat × α)) : Tab α := l.foldl (fun t p => Tab.set t p.1 p.2) []

/-- A bank from the images of a package; words beyond a bank's size are not part of an image. -/
def bankOf (st : List (Nat × MoveWord)) (so : List (Nat × RungWord)) : Bank :=
  { stall := tabOf (st.filter (fun p => decide (p.1 < 65536))), solver := tabOf (so.filter (fun p => decide (p.1 < 131072))) }

/-- Bytes of a record with its maps and selections. -/
def recLength (r : TaskRec) : Nat := 64 + 4 * r.inMap.length + 4 * r.outMap.length + 8 * r.sel.length

/-- The length of a load package (R374). -/
def loadLength (p : LoadPackage) : Nat :=
  64 + 131072 + 262144 + (p.tasks.map recLength).sum + 8 * p.gsel.length + p.init.length

/-- As many unpredictable words of a bank image as it lists. -/
def freeWords {w : Nat} (n : Nat) (l : List (Nat × BitVec w)) : List (Nat × BitVec w) :=
  l.mapIdx (fun i p => (p.1, (Config.freeWord (n + i)).setWidth w))

/-- The images and initial data that a malformed load or edit package sets: its own, or unpredictable ones (R10, R380; log entry 32). -/
def takeImages (d : Desc) (st : List (Nat × MoveWord)) (so : List (Nat × RungWord)) (init : Bytes) (s : State) :
    (List (Nat × MoveWord) × List (Nat × RungWord) × Bytes) × State :=
  let n := s.free
  if !malformed d then ((st, so, init), s)
  else if Config.freeBit n then ((st, so, init), { s with free := n + 1 })
  else
    let b := freeBytes init.length { s with free := n + 1 + st.length + so.length }
    ((freeWords (n + 1) st, freeWords (n + 1 + st.length) so, b.1), b.2)

/-- A load package as bytes (R372). -/
def loadBytes (p : LoadPackage) : Bytes :=
  leBytes 4 p.loadId.toNat ++ zeros 4 ++ leBytes 2 p.tasks.length ++ leBytes 2 p.gsel.length ++ leBytes 4 p.globalSize ++
  leBytes 4 p.init.length ++ leBytes 4 p.globalInit.toNat ++ zeros 40 ++
  stallBytes (tabOf p.stallBank) ++ solverBytes (tabOf p.solverBank) ++ p.tasks.flatMap recBytes ++ p.gsel.flatMap selBytes ++
  p.init

/-! ### Checks of records (R53, R72, R374) -/

/-- The trigger fields of an event task (Table 5 of Tasks, Cycle and Modes). -/
def triggerValid (a : TaskAttr) : Bool :=
  let c := a.triggerCond.toNat
  let x := a.triggerSel.toNat
  match a.triggerType.toNat with
  | 1 => decide (c ≤ 3) && decide (x < 4096) && a.alarmPhase = 0
  | 2 => c = 0 && decide (x < 4) && a.alarmPhase = 0
  | 3 => decide (c ≤ 1) && decide (x < 256) && a.alarmPhase = 0
  | 4 => c = 0 && x = 0 && a.alarmPhase = 0
  | 5 => c = 0 && decide (10 ≤ x) && decide (a.alarmPhase.toNat < x)
  | _ => false

/-- The attribute record has its ranges (R53). -/
def attrValid (a : TaskAttr) : Bool :=
  if isEvent a.taskId then
    a.period = 0 && a.offset = 0 && triggerValid a && decide (a.minRetrigger.toNat ≤ 10000000)
  else
    decide (1 ≤ a.period.toNat) && decide (a.offset.toNat < a.period.toNat) && decide (a.deadline.toNat ≤ a.period.toNat) &&
    a.triggerType = 0 && a.triggerCond = 0 && a.triggerSel = 0 && a.minRetrigger = 0 && a.alarmPhase = 0

/-- A range of initial data lies within it. -/
def initFits (off : Word) (n size : Nat) : Bool := off = 0xFFFFFFFF || decide (off.toNat + n ≤ size)

/-- A selection lies within its region. -/
def selFits (size : Nat) (x : SelEntry) : Bool :=
  x.length % 4 = 0 && decide (x.length < 2 ^ 24) && decide (x.offset + x.length ≤ size)

/-- A task load record passes R53 and R374. -/
def recValid (initSize : Nat) (r : TaskRec) : Bool :=
  attrValid r.attr && r.inSize % 4 = 0 && decide (r.inSize ≤ 4096) && r.outSize % 4 = 0 && decide (r.outSize ≤ 4096) &&
  decide (r.inMap.length ≤ 1024) && decide (r.outMap.length ≤ 1024) && decide (r.sel.length ≤ 256) &&
  r.privSize % 64 = 0 && decide (r.privSize ≤ 2 ^ 20) && r.rungSize % 64 = 0 && decide (r.rungSize ≤ 65536) &&
  decide (r.rungSize ≤ r.privSize) && initFits r.privInit r.privSize initSize && initFits r.outInit r.outSize initSize &&
  r.sel.all (fun x => selFits (if x.region then r.outSize else r.privSize) x)

/-- No two records carry one TASK_ID. -/
def idsDiffer (l : List TaskRec) : Bool := (l.map (fun r => r.attr.taskId)).eraseDups.length = l.length

/-- The package passes R374. -/
def loadValid (d : Desc) (p : LoadPackage) : Bool :=
  p.loadId != 0 && decide (1 ≤ p.tasks.length) && decide (p.tasks.length ≤ 128) && decide (p.gsel.length ≤ 1024) &&
  p.globalSize % 64 = 0 && decide (p.globalSize ≤ 2 ^ 22) && p.init.length % 4 = 0 && decide (p.init.length ≤ 2 ^ 23) &&
  decide (loadLength p ≤ d.bufLen.toNat) && initFits p.globalInit p.globalSize p.init.length &&
  p.tasks.all (recValid p.init.length) && idsDiffer p.tasks && p.gsel.all (selFits p.globalSize)

/-- The largest retained data (R598). -/
def retainLimit : Nat := 229320

/-- The layout of a load package. -/
def loadLayout (p : LoadPackage) : Layout :=
  { tasks := p.tasks, globalSize := p.globalSize, retained := retainedOf p.gsel p.tasks, mirrored := mirroredOf p.gsel p.tasks }

/-- The loaded profiles. -/
def profiles (s : State) : List Profile := s.prof.table.map (fun p => p.2)

/-- The pinned sets of the project in force are within their limit, and so are those of the project that a prepared or committed edit holds
ready (R178). -/
def pinsKeep (s : State) (on : BitVec 7 → Bool) (profs : List Profile) : Bool :=
  pinsFit s (pinSets s s.proj.cur.tasks on profs) && (s.proj.edit = 0 || pinsFit s (pinSets s s.proj.other.tasks on profs))

/-- The project fits: capacity, pinned sets, retained data (R178, R598, R700). -/
def loadFits (s : State) (p : LoadPackage) : Bool :=
  decide (content p.globalSize p.tasks ≤ capacity s) &&
  pinsFit s (pinSets s p.tasks (fun t => ((p.tasks.find? (fun r => r.attr.taskId = t)).map (fun r => r.attr.enabled)).getD false)
    (profiles s)) &&
  decide (retainedBytes (loadLayout p) ≤ retainLimit)

/-- The project of an accepted package replaces the one before, with its initial values (R372). -/
def loadProject (p : LoadPackage) (s : State) : State :=
  let bank := bankOf p.stallBank p.solverBank
  let proj : ProjSt := { s.proj with
    loaded := true, loadId := p.loadId, cur := loadLayout p, other := Layout.empty, init := p.init
    globalInit := p.globalInit, editInit := [], otherInit := [], edit := 0, pkg := none
    bank0 := if s.proj.active then s.proj.bank0 else bank
    bank1 := if s.proj.active then bank else s.proj.bank1 }
  let enabled (t : BitVec 7) : Bool := ((p.tasks.find? (fun r => r.attr.taskId = t)).map (fun r => r.attr.enabled)).getD false
  settleHomes <| (List.range 5).foldl (fun s m => liftBad m s) { s with
    proj := proj
    commit := replaceHome (initialHome proj) s.commit
    prof := { s.prof with active := 0xFF, before := none }
    mode := { s.mode with resumeOk := false }
    yard := { s.yard with homeLoc := [], moves := [], published := none }
    tasks := Vector.ofFn (fun i => { TaskSt.zero with
      enabled := enabled (taskNo i.val), epoch := (s.tasks[i]).epoch })
    chan := { s.chan with unpin := true, tx := [], txVariant := [], txEntry := [] } }

/-- A TASK_LOAD completes when the pinned set of the new project has been loaded (R386). -/
def endTaskLoad (s : State) : State :=
  if s.chan.loading.isEmpty then
    (List.finRange 8).foldl (fun s k => match (ring s k).busy with
      | some { wait := .taskLoad r, .. } => completeWait k (fun _ => true) stOk r.toNat s
      | _ => s) s
  else s

/-- TASK_LOAD (R44, R52, R53, R372 to R374, R386). -/
def execTaskLoad (d : Desc) (pkg : LoadPackage) (s : State) : Res :=
  .next (hostCommand d 0x05 true (fun s => [
      (hasPaired s || pkg.tasks.all (fun r => !r.attr.paired), stAbsent), (s.mode.mode = mStop, stMode),
      (loadValid d pkg, stVerify), (loadFits s pkg, stSpace)])
    (fun s =>
      let i := takeImages d pkg.stallBank pkg.solverBank pkg.init s
      let s := loadProject { pkg with stallBank := i.1.1, solverBank := i.1.2.1, init := i.1.2.2 } (refuseEdit i.2)
      let s := defer d 0x05 (.taskLoad (crc32 (loadBytes pkg))) (refreshChans (wantNow s))
      endTaskLoad s) s)

/-! ### TASK_CONTROL -/

/-- A task of the loaded project named by a parameter. -/
def taskNamed (s : State) (task_ : Byte) : Bool := decide (task_.toNat < 128) && (taskRec s (taskNo task_.toNat)).isSome

/-- TASK_CONTROL ENABLE (R54, R178, R179). -/
def execTaskControlEnable (d : Desc) (task_ : Byte) (s : State) : Res :=
  let t := taskNo task_.toNat
  .next (hostCommand d 0x06 true (fun s => [
      (taskNamed s task_, stVerify),
      (pinsKeep s (fun x => x = t || (task s x).enabled) (profiles s), stSpace)])
    (fun s =>
      ok d 0 (wantNow (setEnable t true s))) s)

/-- TASK_CONTROL DISABLE (R54, R75, R693): the pending-trigger latch stays as it is; later triggers are discarded. -/
def execTaskControlDisable (d : Desc) (task_ : Byte) (s : State) : Res :=
  let t := taskNo task_.toNat
  .next (hostCommand d 0x06 true (fun s => [(taskNamed s task_, stVerify)])
    (fun s => ok d 0 { setEnable t false s with chan := { s.chan with unpin := true } }) s)

/-- TASK_CONTROL TRIGGER (R72, R73). -/
def execTaskControlTrigger (d : Desc) (task_ : Byte) (s : State) : Res :=
  let t := taskNo task_.toNat
  .next (hostCommand d 0x06 false (fun s => [
      (runs s, stMode),
      (taskNamed s task_ && ((taskRec s t).map (fun r => isEvent t && r.attr.triggerType = 4)).getD false, stVerify)])
    (fun s => ok d 0 (trigger t s)) s)

/-- The QUERY record of a task, whose pair counters are zero where it is not paired (Table 16). -/
def queryBytes (paired : Bool) (k : TaskSt) : Bytes :=
  let c := if paired then k.ctr else { k.ctr with pairMismatches := 0, pairDeadlines := 0, pairEscalations := 0, phaseSame := 0, pairRun := 0 }
  leBytes 4 c.releases ++ leBytes 4 c.commits ++ leBytes 4 c.aborts ++ leBytes 4 c.execMax ++ leBytes 2 c.deadlines ++
  leBytes 2 c.skipped ++ leBytes 2 c.merged ++ leBytes 2 c.missedHeld ++ leBytes 2 c.torn ++ leBytes 2 c.overflows ++
  leBytes 2 c.wbPeak ++ leBytes 2 c.commitLatMax ++ leBytes 4 c.exportsSkipped ++ leBytes 2 c.steps ++ leBytes 2 c.slips ++
  leBytes 4 c.slipMax ++ leBytes 2 c.stale ++ leBytes 2 c.solverErrs ++ leBytes 2 c.solveMax ++ leBytes 2 c.pairMismatches ++
  leBytes 2 c.pairDeadlines ++ leBytes 2 c.pairEscalations ++ leBytes 2 c.phaseSame ++ leBytes 1 c.pairRun ++
  leBytes 1 (b2n k.enabled + 2 * b2n k.held + 4 * b2n k.heldEntry) ++ zeros 4

/-- TASK_CONTROL QUERY. -/
def execTaskControlQuery (d : Desc) (task_ : Byte) (s : State) : Res :=
  .next (hostCommand d 0x06 false (fun s => [
      (taskNamed s task_, stVerify), (decide (64 ≤ d.bufLen.toNat), stSpace)])
    (fun s => ok d 64 (output d (queryBytes (isPaired s (taskNo task_.toNat)) (task s (taskNo task_.toNat))) s)) s)

/-! ### Channels, warden, exports -/

/-- Replace the entry of a channel in the entry store and, when it is cached, in the cache (R384, R398); what
earlier commits still have to apply keeps the old one (R399). -/
def replaceEntry (id : Nat) (e : Bytes) (s : State) : State :=
  let e := padTo 64 e
  let old := entryOf s id
  let keep (l : List OutDue) : List OutDue :=
    l.map (fun d => if (Tab.find d.olds id).isSome then d else { d with olds := Tab.set d.olds id old })
  let s' := { s with
    chan := { s.chan with
      store := Tab.set s.chan.store id e
      pinned := if isPinned s id then Tab.set s.chan.pinned id (some e) else s.chan.pinned
      ready := if (Tab.find s.chan.ready id).isSome then Tab.set s.chan.ready id (some e) else s.chan.ready
      txEntry := if isPinned s id && (Tab.find s.chan.tx id).isSome && (Tab.find s.chan.txEntry id).isNone
        then Tab.set s.chan.txEntry id old else s.chan.txEntry
      stale := if isNet e && !isOut e then s.chan.stale else dropFrom s.chan.stale id }
    commit := { s.commit with direct := keep s.commit.direct, aligned := keep s.commit.aligned }
    pair := { s.pair with aligned := keep s.pair.aligned } }
  if isPinned s id then entryForce s id s' else s'

/-- One entry of a CHAN_SYNC: read, not read, or at or above CHAN_COUNT. -/
def syncOne (s : State) (c : Nat) (read : Option Bytes) : State × Bool :=
  if s.host.chanCount.toNat ≤ c then ({ s with chan := { s.chan with store := Tab.del s.chan.store c } }, false)
  else match read with
    | some e =>
      let (e, s) := takeEntry (padTo 64 e) s
      (replaceEntry c e { s with chan := { s.chan with hostLoads := satAdd 32 s.chan.hostLoads 1 } }, true)
    | none => ({ s with chan := { s.chan with fetchFails := satAdd 32 s.chan.fetchFails 1 } }, false)

/-- HOST_FETCH_FAIL once per run of consecutive failures of one kind (R369, Table 20 of Host Interface). -/
def fetchResult (kind : Nat) (good : Bool) (ring addr : Nat) (s : State) : State :=
  let was := s.host.failing.getLsbD kind
  let bit := BitVec.ofNat 4 (2 ^ kind)
  if good then { s with host := { s.host with failing := s.host.failing &&& ~~~bit } }
  else
    let s := { s with host := { s.host with failing := s.host.failing ||| bit } }
    if was then s else raise 0x3000 0x0304 0 (kind + 2 ^ 8 * ring + 2 ^ 16 * (addr % 2 ^ 48)) s

/-- The host address of channel entry c. -/
def entryAddr (s : State) (c : Nat) : Nat := s.host.chanBase.toNat + 64 * c

/-- CHAN_SYNC (R398 to R400): the host's answer to the read of each entry comes with the command. -/
def execChanSync (d : Desc) (first count : Half) (reads : List (Nat × Option Bytes)) (s : State) : Res :=
  .next (hostCommand d 0x09 false (fun _ => [
      (decide (1 ≤ count.toNat) && decide (count.toNat ≤ 4096) && decide (first.toNat + count.toNat ≤ 4096), stVerify)])
    (fun s =>
      let r := (List.range count.toNat).foldl (fun (p : State × Nat) i =>
        let c := first.toNat + i
        let answer := (Tab.find reads c).getD none
        let q := syncOne p.1 c answer
        let s := if p.1.host.chanCount.toNat ≤ c then q.1 else fetchResult 3 q.2 d.ring.val (entryAddr p.1 c) q.1
        (s, if q.2 then p.2 + 1 else p.2)) (s, 0)
      ok d r.2 (refreshChans r.1)) s)

/-- WARDEN_WRITE (R408 to R413): ring 0 only. -/
def execWardenWrite (d : Desc) (first count : Half) (buf : Bytes) (s : State) : Res :=
  .next (bufferCommand d 0x0A true (wardenReserved first.toNat count.toNat) (lessRights count.toNat) buf (fun d buf => hostCommand d 0x0A true (fun _ => [
      (d.ring = 0, stRights),
      (decide (1 ≤ count.toNat) && decide (first.toNat + count.toNat ≤ 136) && d.bufLen.toNat = 64 * count.toNat, stVerify)])
    (fun s =>
      let w := (List.range count.toNat).foldl (fun w i =>
        Tab.set w (first.toNat + i) (padTo 64 (buf.drop (64 * i)))) s.chan.warden
      let s := { s with chan := { s.chan with warden := w } }
      ok d 0 (raise 0x0000 0x0115 0 (first.toNat + 2 ^ 8 * count.toNat + 2 ^ 16 * (s.commit.last % 2 ^ 48)) s))) s)

/-- IMAGE_EXPORT_SET (R130, Table 14). -/
def execImageExportSet (d : Desc) (region task_ image : Byte) (offset length : Half) (area : Word) (s : State) : Res :=
  .next (hostCommand d 0x0B false (fun _ => [
      (decide (region.toNat < 64) && decide (task_.toNat < 128) && decide (image.toNat < 2) && decide (length.toNat ≤ 4096) &&
        area.toNat % 8 = 0, stVerify)])
    (fun s =>
      if exportLimit s.host < area.toNat + length.toNat + 24 then fail d stSpace s
      else if length = 0 then
        ok d 0 { s with commit := { s.commit with exports := Tab.del s.commit.exports region.toNat } }
      else
        let x : Export :=
          { task := taskNo task_.toNat, output := image = 1, offset := offset.toNat, length := length.toNat
            area := area.toNat, flight := none, due := none }
        ok d 0 { s with commit := { s.commit with exports := Tab.set s.commit.exports region.toNat x } }) s)

end Sys2Proof.Machine
end

