-- ==== Sys2Proof/Machine/Cache.lean ====
section
/-! DEFINITION. Loads of the channel cache, and network channels that no reception renews (Channel Table and Warden). -/

namespace Sys2Proof.Machine

/-- The entry of channel `c` may be read from host memory: never during start-up (R383, R386). -/
def hostEntry (s : State) (c : Nat) : Bool := s.host.enable && decide (c < s.host.chanCount.toNat) && !inStartUp s

/-- The cache takes one more entry: what it holds of pinned and loaded entries stays within the limit of the pinned set (R178). -/
def cacheRoom (s : State) : Bool := decide (s.chan.pinned.length + s.chan.ready.length < pinLimit s)

/-- An entry is loaded from the entry store, if that holds a copy (R385, R404). -/
def loadFromStore (c : Nat) (s : State) : State :=
  loadedChan c (Tab.find s.chan.store c) { s with chan := { s.chan with
    storeLoads := if (Tab.find s.chan.store c).isSome then satAdd 32 s.chan.storeLoads 1 else s.chan.storeLoads } }

/-- An entry is loaded from host memory, and kept in the entry store first (R384). -/
def loadFromHost (c : Nat) (e : Bytes) (s : State) : State :=
  let (e, s) := takeEntry (padTo 64 e) s
  loadedChan c (some e) (fetchResult 3 true 0 (entryAddr s c) { s with chan := { s.chan with
    store := Tab.set s.chan.store c e, hostLoads := satAdd 32 s.chan.hostLoads 1 } })

/-- CACHE_LOAD (R178, R179, R383 to R386, R397, R402, R403): `hostRead` is the host's answer, none when its read failed. The ring field of
HOST_FETCH_FAIL is then 0, since no command ring is read (DESIGN CHOICE, log entry 115). -/
def execCacheLoad (chan : BitVec 12) (hostRead : Option Bytes) (s : State) : Res :=
  let c := chan.toNat
  .next (if !has s.chan.loading c || !cacheRoom s || !alive s then s
  else
    let s :=
      if hostEntry s c then
        match hostRead with
        | some e => loadFromHost c e s
        | none => loadFromStore c (fetchResult 3 false 0 (entryAddr s c)
            { s with chan := { s.chan with fetchFails := satAdd 32 s.chan.fetchFails 1 } })
      else loadFromStore c s
    endTaskLoad (refreshLayout s))

/-- A pinned network receive channel has had no valid reception for its STALE_CYCLES (R395): of TIME_MS the manual gives
no count in the state, and the row itself says that it has passed. -/
def staleDue (s : State) (id : Nat) (e : Bytes) : Bool :=
  isNet e && !isOut e && (!isIhloz e || decide (fieldAt e 21 1 ≤ Tab.getD s.chan.missed id 0))

/-- CHANNEL_STALE (R395, R397). -/
def execChannelStale (chan : BitVec 12) (s : State) : Res :=
  let c := chan.toNat
  .next (match entryOf s c with
  | some e =>
    if !alive s || inStartUp s || !staleDue s c e then s
    else refreshChan { s with chan := { s.chan with stale := addTo s.chan.stale c } } c
  | none => s)

end Sys2Proof.Machine
end

