-- ==== Sys2Proof/Machine/Pairing.lean ====
section
/-! DEFINITION. The consecutive-disagreement count of a paired task and its escalation (Paired Execution, R310 to R315). -/

namespace Sys2Proof.Machine

/-- The escalation of task `t` acts (R313): a handover to a trained partner in TRACK, or SAFE with cause 0x03. -/
def escalate (t : BitVec 7) (handover : Bool) (count : Nat) (pending : Bool) (s : State) : State :=
  let fallsBack := handover && !partnerTracks s
  let s := modCtr t (fun k => { k with pairEscalations := satAdd 16 k.pairEscalations 1 }) s
  let s := raiseTask t 0x0141 0 (b2n handover + 2 * b2n (fallsBack && !pending) + 2 ^ 8 * count) s
  if pending then s
  else if handover && !fallsBack then modPair (fun p => { p with handover := some (some t) }) s
  else enterSafe 3 0xFF 0 s

/-- A counted abort of paired task `t` (R312, R317): the counters, PAIR_DISAGREE with its low bits and the first differing
line, and the escalation when the count reaches PAIR_LIMIT (R313 to R315). -/
def disagree (t : BitVec 7) (r : Release) (bits line : Nat) (s : State) : State :=
  let old := (task s t).ctr.pairRun
  let new := satAdd 8 old 1
  let s := modCtr t (fun k => { k with pairRun := new }) s
  let s := raiseTask t 0x0140 0 (bits + 2 ^ 8 * new + 2 ^ 16 * line) s
  let pending := s.pair.handover.isSome || s.mode.mode = mSafe
  if new < r.pairLimit || (pending && decide (r.pairLimit ≤ old)) then s
  else escalate t r.pairHandover new pending s

/-! ### The pairing deadline (R97, R305, R308) -/

/-- NET ticks of 8 ns in a microsecond. -/
def netPerUs : Nat := 125

/-- A copy of task `t` waits at a breakpoint or is held. -/
def copyStopped (s : State) (t : BitVec 7) : Bool :=
  (copies s t).any (fun c => c.2.2.phase = .waitBreak || c.2.2.phase = .held)

/-- The first copy of task `t` has entered ENDING: the pairing deadline begins, and runs unless the other copy stands still. -/
def startPair (t : BitVec 7) (s : State) : State :=
  let stopped := copyStopped s t
  modTask t (fun k => { k with inst := k.inst.map (fun r =>
    let n := netPerUs * r.pairWindow
    { r with
      firstEnding := some s.time.net, pairDue := if stopped then none else some (s.time.net + n)
      pairRest := if stopped then some n else none }) }) s

/-- A copy of task `t` waits or is held: the pairing deadline stops. -/
def stopPair (t : BitVec 7) (s : State) : State :=
  modTask t (fun k => { k with inst := k.inst.map (fun r => match r.pairDue with
    | some d => { r with pairDue := none, pairRest := some (d - s.time.net) }
    | none => r) }) s

/-- A copy has entered ENDING and the other has not, started or not. -/
def pairLate (s : State) (t : BitVec 7) : Bool :=
  match bothCopies s t with
  | none => ((task s t).inst.map (fun r => r.firstEnding.isSome)).getD false
  | some (a, b) =>
    let late (i : Inst) : Bool := i.phase = .running || i.phase = .preempted
    (a.phase = .ending && late b) || (b.phase = .ending && late a)

/-- The pairing deadline of task `t` has come (R305). -/
def pairOver (s : State) (t : BitVec 7) : Bool :=
  pairLate s t && ((task s t).inst.bind (fun r => r.pairDue)).any (fun d => decide (d ≤ s.time.net))

/-- Copy B of task `t` has not started and has a step to make (R97). -/
def stepAhead (s : State) (t : BitVec 7) : Bool :=
  (copies s t).any (fun c => c.2.2.record.attr.paired) && (task s t).inst.any (fun r => !r.startedB && r.stepB.isSome)

/-- The open instance of task `t`, held or not, has ended or every copy has made its step: a command that waits for a step completes
(R95), and the held task waits for its next instance. -/
def settleStep (t : BitVec 7) (issued : Nat) (s : State) : State :=
  if !(task s t).held || stepAhead s t then s
  else
    let cs := copies s t
    if cs.all (fun c => c.2.2.phase != .running && c.2.2.phase != .preempted) then
      let s := if cs.all (fun c => c.2.2.phase = .ending) then modTask t (fun k => { k with heldEntry := true }) s else s
      endStep t (cs.foldl (fun n c => max n c.2.2.issued) issued) s
    else s

/-- The most bundles issued by a copy of task `t` since its step began. -/
def issuedBy (s : State) (t : BitVec 7) : Nat := (copies s t).foldl (fun n c => max n c.2.2.issued) 0

/-- The open instance of task `t` aborts for a reason outside its own code. -/
def abortTask (t : BitVec 7) (code detail : Nat) (bFirst : Bool) (s : State) : State :=
  settleStep t (issuedBy s t) (abortInstance t code detail bFirst s)

/-- One copy of task `t` faults: both abort, and the abort counts when the other copy was already in ENDING (R309, R310). -/
def faultCopy (t : BitVec 7) (copyB : Bool) (code detail : Nat) (s : State) : State :=
  let counted := (copies s t).any (fun c => c.2.2.copyB != copyB && c.2.2.phase = .ending)
  let rel := (task s t).inst
  let s := abortTask t code detail copyB s
  match rel with
  | some r => if counted then disagree t r 8 0 s else s
  | none => s

/-- The copies of task `t` disagree: both abort with PAIR_MISMATCH or PAIR_DEADLINE, counted (R305, R307, R312). -/
def pairAbort (t : BitVec 7) (code bits line : Nat) (s : State) : State :=
  match (task s t).inst with
  | none => s
  | some r =>
    let s := abortTask t code 0 false s
    let s := modCtr t (fun k =>
      if code = fcMismatch then { k with pairMismatches := satAdd 16 k.pairMismatches 1 }
      else { k with pairDeadlines := satAdd 16 k.pairDeadlines 1 }) s
    disagree t r bits line s

/-- ESCALATION_HANDOVER_TIMEOUT (R313): the higher claim was not seen in time, and the module enters SAFE. -/
def execEscalationHandoverTimeout (s : State) : Res :=
  .next (match s.pair.handover with
  | some (some t) =>
    let s := modPair (fun p => { p with handover := none }) s
    enterSafe 3 0xFF 0 (raiseTask t 0x0141 0 (3 + 2 ^ 8 * (task s t).ctr.pairRun) s)
  | _ => s)

end Sys2Proof.Machine
end

