-- ==== Sys2Proof/Machine/Bundle.lean ====
section
/-! DEFINITION. How a stall issues a bundle: what must be ready, what each trigger starts, the next address, the end of
an instance and the unpredictable results (Morfold Move Set; Morfold Units Reference; Transactions and Commits). -/

namespace Sys2Proof.Machine

/-! ### Local data (R101, R210, R234) -/

/-- A byte of local data memory; one that nothing has written is free (R101, log entry 6). -/
def localByte (u : StallId) (st : Stall) (a : Nat) : Byte :=
  match Mem.find st.mem a with
  | some b => b
  | none => Config.scratchByte (stallIx u).val a

/-- A byte as the instance in slot `f` holds it in local data memory: copy B holds complements (R301). -/
def heldAt (s : State) (u : StallId) (f : Fin 4) (b : Byte) : Byte :=
  match slotOf s u f with
  | some i => held i b
  | none => b

/-- Scratch bytes of slot `f` from an offset on. -/
def scratchBytes (s : State) (u : StallId) (f : Fin 4) (off n : Nat) : Bytes :=
  (List.range n).map (fun k => heldAt s u f (localByte u (stall s u) (0x3C00 * f.val + off + k)))

/-- Write scratch of slot `f`. -/
def putScratch (u : StallId) (f : Fin 4) (off : Nat) (b : Bytes) (s : State) : State :=
  modStall u (fun st => { st with mem := Mem.putAll st.mem (0x3C00 * f.val + off) (b.map (heldAt s u f)) }) s

/-- Change the context in the stall's registers. -/
def setCtx (u : StallId) (g : Ctx → Ctx) : State → State := modStall u (fun st => { st with ctx := g st.ctx })

/-- `n` free values: the number of the first, and the state that has taken them (log entry 5). -/
def takeMany (n : Nat) (s : State) : Nat × State := (s.free, { s with free := s.free + n })

/-! ### What a bundle starts -/

/-- What the triggers of a bundle ask for besides their effect on state. -/
structure Eff where
  /-- target of a taken branch -/
  taken : Option Nat
  /-- the bundle after a repeat of no iterations (R244) -/
  skip : Option Nat
  /-- the bundle carries RPT.GO -/
  hadGo : Bool
  /-- TX.END -/
  ends : Bool
  /-- faults with their DETAIL, in slot order -/
  aborts : List (Nat × Nat)
  /-- an access that R242 or R279 makes unpredictable -/
  odd : Bool
  /-- results that the next bundle waits for (R259, R260); bit 3: a SYS.WAIT names loads and block transfers (R257) -/
  waits : BitVec 4
  deriving DecidableEq, Repr

/-- Nothing asked for. -/
def noEff : Eff := { taken := none, skip := none, hadGo := false, ends := false, aborts := [], odd := false, waits := 0 }

/-- Bytes that an outstanding block transfer of the instance reads or writes (R242). -/
def meetsBlock (i : Inst) (a n : Nat) : Bool :=
  (i.blk.map (fun k => (decide (a < k.src.toNat + k.len) && decide (k.src.toNat < a + n)) ||
    (decide (a < k.dst.toNat + k.len) && decide (k.dst.toNat < a + n)))).getD false

/-- The rung data area while a solver call is outstanding (R279). -/
def meetsRung (i : Inst) (a : Nat) : Bool := i.solving && decide (privBase ≤ a) && decide (a < privBase + i.record.rungSize)

/-- An access of task code whose result is unpredictable. -/
def accessOdd (i : Inst) (a n : Nat) : Bool := meetsBlock i a n || meetsRung i a

/-- An aligned address (R235). -/
def alignTo (n a : Nat) : Nat := a - a % n

/-- What `n` bytes at an aligned address read as now for the instance in slot `f`, with ADDR_FAULT and torn reads noted
(R236). -/
def readData (u : StallId) (f : Fin 4) (a n : Nat) (s : State) : Bytes × State :=
  match slotOf s u f with
  | none => (zeros n, s)
  | some i => match region s i.record a with
    | .scratch off => (scratchBytes s u f off n, s)
    | .unmapped => (zeros n, addrFault u f s)
    | .priv k => (readBytes s.commit i k n, noteRead u f i.wb k n s)
    | .glob k => (readBytes s.commit i k n, noteRead u f i.wb k n s)
    | .image k => (readBytes s.commit i k n, noteRead u f i.wb k n s)

/-- Write bytes of one word to a data address: the fault of R237 or R108, or the state after it. -/
def writeData (u : StallId) (f : Fin 4) (a : Nat) (b : Bytes) (s : State) : Option (Nat × Nat) × State :=
  match slotOf s u f with
  | none => (none, s)
  | some i =>
    let buffered (k : Nat) : Option (Nat × Nat) × State := match bufferWrite u f k b s with
      | some s' => (none, s')
      | none => (some (fcOverflow, 0), s)
    match region s i.record a with
    | .scratch off => (none, putScratch u f off b s)
    | .priv k => buffered k
    | .glob k => if globRight i.warden ((k - globBase) / 64) then buffered k else (some (fcProt, 0xFFFF), s)
    | _ => (some (fcProt, 0xFFFF), s)

/-- The flags that an access set show from its completion on, where no earlier one shows them yet (R257). -/
def flagsFrom (before : Inst) (at_ : Nat) (i : Inst) : Inst :=
  { i with
    tornFrom := if !before.torn then at_ else if i.tornFrom < before.tornFrom then min before.tornFrom at_ else before.tornFrom
    faultFrom := if !before.addrFault then at_ else if i.faultFrom < before.faultFrom then min before.faultFrom at_ else before.faultFrom }

/-- The tag of a result that an instance requests (R154). -/
def tagOf (i : Inst) : Tag := { epoch := i.epoch, start := i.startCommit }

/-- A load trigger of `n` bytes at address `a` in cycle `cyc`: scratch, and zero for an unmapped address, answer two cycles later, every
other load is outstanding until it is served. The result of an earlier load does not come to LD.RES any more (R195, R199, R200, R213, R235, R236, R238). -/
def loadTrig (u : StallId) (f : Fin 4) (cyc n : Nat) (a : Word) (p : Eff × State) : Eff × State :=
  let (e, s) := p
  match slotOf s u f with
  | none => p
  | some i =>
    let x := alignTo n a.toNat
    if accessOdd i x n then ({ e with odd := true }, s)
    else
      let s := modInst u f (fun i => { i with loads := i.loads.map (fun q => { q with live := false }) }) s
      let rg := region s i.record x
      match rg with
      | .unmapped =>
        (e, modInst u f (fun j => { flagsFrom i (cyc + 2) j with ldReady := max j.ldReady (cyc + 2) })
          (addrFault u f (setCtx u (fun c => { c with ldRes := 0 }) s)))
      | .scratch off =>
        let b := scratchBytes s u f off n
        (e, modInst u f (fun i => { i with ldReady := max i.ldReady (cyc + 2) })
          (setCtx u (fun c => { c with ldRes := BitVec.ofNat 32 (leNat b) }) s))
      | _ =>
        let own : Mem := match regionKey rg with
          | some key => (List.range n).foldl (fun m j => match Mem.find i.wb (key + j) with
            | some b => Mem.put m (x + j) (held i b)
            | none => m) []
          | none => []
        let q : LoadReq :=
          { tag := tagOf i, width := n, addr := BitVec.ofNat 32 x, own := own, at_ := cyc, live := true, apart := false }
        (e, modInst u f (fun i => { i with loads := i.loads ++ [q] }) s)

/-- A store trigger of the low `n` bytes of `a` at LS.ADDR (R235, R237). -/
def storeTrig (u : StallId) (f : Fin 4) (n : Nat) (a : Word) (p : Eff × State) : Eff × State :=
  let (e, s) := p
  match slotOf s u f with
  | none => p
  | some i =>
    let x := alignTo n (stall s u).ctx.lsAddr.toNat
    if accessOdd i x n then ({ e with odd := true }, s)
    else match writeData u f x (leBytes n a.toNat) s with
      | (some q, s) => ({ e with aborts := e.aborts ++ [q] }, s)
      | (none, s) => (e, s)

/-- LS.BLK (R239, R242). -/
def blkTrig (u : StallId) (f : Fin 4) (cyc : Nat) (a : Word) (p : Eff × State) : Eff × State :=
  let (e, s) := p
  let x := alignTo 16 a.toNat
  if 0x3BF0 < x then ({ e with aborts := e.aborts ++ [(fcProt, 0xFFFF)] }, s)
  else
    let d := scratchBytes s u f x 16
    let src := alignTo 4 (fieldAt d 0 4)
    let dst := alignTo 4 (fieldAt d 4 4)
    let len := fieldAt d 8 2
    if len % 4 != 0 || len < 4 || 4096 < len || fieldAt d 10 6 != 0 || (decide (0x3C00 ≤ src) && decide (0x3C00 ≤ dst)) then
      ({ e with odd := true }, s)
    else
      (e, modInst u f (fun i => { i with
        blk := some { tag := tagOf i, src := BitVec.ofNat 32 src, dst := BitVec.ofNat 32 dst, len := len, at_ := cyc, spoiled := false } }) s)

/-! ### Image port (R249 to R253) -/

/-- The image that IMG.SEL selects is the output image. -/
def selOut (s : State) (u : StallId) : Bool := (stall s u).ctx.imgSel.getLsbD 0

/-- `n` bytes of an image of the instance in slot `f` from byte `off` on, or nothing beyond its loaded size (R250, R275). -/
def imageBytes (u : StallId) (f : Fin 4) (out : Bool) (off n : Nat) (s : State) : Option Bytes × State :=
  match slotOf s u f with
  | none => (none, s)
  | some i =>
    if (if out then i.record.outSize else i.record.inSize) < off + n then
      (none, addrFault u f s)
    else if out then
      let k := outBase i.task + off
      (some (readBytes s.commit i k n), noteRead u f i.wb k n s)
    else (some ((List.range n).map (fun j => held i (Mem.get i.inImg (off + j)))), s)

/-- IMG.RDB and IMG.RDW: ready after four cycles (R195, R250). -/
def imgRead (u : StallId) (f : Fin 4) (cyc : Nat) (bit : Bool) (a : Word) (p : Eff × State) : Eff × State :=
  let (e, s) := p
  let out := selOut s u
  let before := slotOf s u f
  let (v, s) := if bit then
      let (b, s) := imageBytes u f out (a.toNat / 8) 1 s
      (b.map (fun b => b2n ((byteAt b 0).getLsbD (a.toNat % 8))), s)
    else
      let (b, s) := imageBytes u f out (alignTo 4 a.toNat) 4 s
      (b.map leNat, s)
  (e, modInst u f (fun i => { flagsFrom (before.getD i) (cyc + 4) i with imgReady := max i.imgReady (cyc + 4) })
    (setCtx u (fun c => { c with imgRes := BitVec.ofNat 32 (v.getD 0) }) s))

/-- Write bits of the output image of the instance in slot `f`: `n` bits at bit `first` lie in the bytes `b` from byte
`off` on. The fault of R251 or R108, or the state after it; among several channels outside the rights the one reported is
free (log entry 5). -/
def imageWrite (u : StallId) (f : Fin 4) (first n off : Nat) (b : Bytes) (s : State) : Option (Nat × Nat) × State :=
  match slotOf s u f with
  | none => (none, s)
  | some i =>
    if i.record.outSize < off + b.length then (some (fcProt, 0xFFFF), s)
    else
      let bad := offending i first n
      if bad.isEmpty then
        match bufferWrite u f (outBase i.task + off) b s with
        | some s' => (none, s')
        | none => (some (fcOverflow, 0), s)
      else
        let (k, s) := takeFree s
        (some (fcProt, bad.getD (Config.freeNat k % bad.length) 0), s)

/-- A byte with one bit set to a value. -/
def withBit (b : Byte) (k : Nat) (v : Bool) : Byte := if v then b ||| BitVec.ofNat 8 (2 ^ k) else b &&& ~~~(BitVec.ofNat 8 (2 ^ k))

/-- IMG.WRB and IMG.WRW. -/
def imgWrite (u : StallId) (f : Fin 4) (bit : Bool) (a : Word) (p : Eff × State) : Eff × State :=
  let (e, s) := p
  let x := (stall s u).ctx.imgAddr.toNat
  let r : Option (Nat × Nat) × State :=
    if !selOut s u then (some (fcProt, 0xFFFF), s)
    else if bit then
      match slotOf s u f with
      | some i =>
        let old := readByte s.commit i (outBase i.task + x / 8)
        imageWrite u f x 1 (x / 8) [withBit old (x % 8) (a.getLsbD 0)] s
      | none => (none, s)
    else imageWrite u f (8 * alignTo 4 x) 32 (alignTo 4 x) (leBytes 4 a.toNat) s
  match r with
  | (some q, s) => ({ e with aborts := e.aborts ++ [q] }, s)
  | (none, s) => (e, s)

/-! ### Solver calls (R252, R262, R270, R295, R697) -/

/-- A call has ended with an error: SOLVER_ERROR and its counter. -/
def solverError (t : BitVec 7) (copyB : Bool) (err addr : Nat) (s : State) : State :=
  raiseTask t 0x0130 0 (err + 2 ^ 4 * addr + 2 ^ 21 * b2n copyB)
    (modCtr t (fun k => { k with solverErrs := satAdd 16 k.solverErrs 1 }) s)

/-- SOLVE. Calls stand in the queue in the order of their SOLVEs, those of one stall cycle in the order of their stalls (R262); whether two
that the clocks show at one NET tick fall in one stall cycle is free. -/
def solveTrig (u : StallId) (f : Fin 4) (cyc : Nat) (a : Word) (p : Eff × State) : Eff × State :=
  let (e, s) := p
  match slotOf s u f with
  | none => p
  | some i =>
    let entry := a.setWidth 17
    let s := modTask i.task (fun k => { k with caller := true }) (modInst u f (fun i => { i with
      solving := true, solveAt := some cyc, solveTook := 0, solveAhead := 0 }) s)
    if (barn s u.barn).solverOut then
      (e, solverError i.task i.copyB 6 entry.toNat
        (modBarn u.barn (fun b => { b with returns := b.returns ++ [(u, f, 0x06000000, tagOf i)] }) s))
    else
      let (k, s) := takeFree s
      let l := (barn s u.barn).queue
      let group := match l.getLast? with
        | some x => if x.at_ = s.time.net && x.stall != u && Config.freeBit k then x.group else x.group + 1
        | none => 0
      let c : Call :=
        { tag := tagOf i, stall := u, slot := f, entry := entry, pc := entry, stack := [], region := 0, window := 0, area := 0, cycles := 0
          fetched := [], at_ := s.time.net, group := group }
      let first (x : Call) : Bool := !(x.group = group && decide (u.stall < x.stall.stall))
      (e, modBarn u.barn (fun b => { b with queue := l.takeWhile first ++ [c] ++ l.dropWhile first }) s)

/-! ### System unit (R258 to R261) -/

/-- The task's right to a system function: 0 EVT, 1 WDKEY, 2 CHECKIN (R406). -/
def sysRight (i : Inst) (k : Nat) : Bool := bitAt i.warden 0 k

/-- A watchdog key or check-in is effective when issued (R623, R625). -/
def sendWdt (x : WdtIn) (s : State) : State :=
  if s.mode.pause then s else { s with wdt := { s.wdt with inbox := s.wdt.inbox ++ [x] } }

/-- A system function is used, or its right is missing. -/
def sysTrig (u : StallId) (f : Fin 4) (k : Nat) (g : Inst → State → State) (p : Eff × State) : Eff × State :=
  let (e, s) := p
  match slotOf s u f with
  | none => p
  | some i => if sysRight i k then (e, g i s) else ({ e with aborts := e.aborts ++ [(fcProt, 0xFFFF)] }, s)

/-- SYS.EVT (R109, R258). -/
def evtTrig (u : StallId) (f : Fin 4) (a : Word) : Eff × State → Eff × State :=
  sysTrig u f 0 (fun _ s =>
    let code : Half := 0x8000 ||| (a.setWidth 15).setWidth 16
    let data := (stall s u).ctx.evtd
    modInst u f (fun i => if i.events.length < 16 then { i with events := i.events ++ [(code, data)] }
      else { i with evtDropped := i.evtDropped + 1 }) s)

/-! ### Branches (R202 to R206) -/

/-- A taken branch. -/
def branchTo (target : Nat) (p : Eff × State) : Eff × State := ({ p.1 with taken := some (target % 2 ^ 15) }, p.2)

/-- A branch to BR.TARGET under a condition. -/
def branchIf (u : StallId) (c : Bool) (p : Eff × State) : Eff × State :=
  if c then branchTo (stall p.2 u).ctx.brTarget.toNat p else p

/-- What a SYS.WAIT with value `a` adds to the waits of the next bundle (R257, R259). -/
def waitMask (a : Word) : BitVec 4 :=
  let named : BitVec 4 := (a.setWidth 3).setWidth 4
  if a.getLsbD 0 && a.getLsbD 2 then named ||| 8 else named

/-- The trigger of destination `d` with moved value `a`, issued at cycle `cyc`; `flags` is ALU.FLAGS as it stood before the
bundle. -/
def fire (u : StallId) (f : Fin 4) (cyc : Nat) (flags : Word) (d : Nat) (a : Word) (p : Eff × State) : Eff × State :=
  let (e, s) := p
  let c := (stall s u).ctx
  if unitOf d = 1 then
    let r := aluOp d a c.aluOpb c.aluFlags
    (e, setCtx u (fun c => { c with aluRes := r.1, aluFlags := r.2 }) s)
  else if unitOf d = 2 then
    let r := macOp d c.macCfg c.acc a c.macOpb
    (e, setCtx u (fun c => satFlag { c with acc := r.1, macFlags := if r.2 then c.macFlags ||| 1 else c.macFlags }) s)
  else match d with
    | 0x3B => (e, setCtx u (fun c => { c with chkCrc := chkStep c.chkCfg c.chkPoly c.chkCrc a }) s)
    | 0x3C => (e, setCtx u (fun c => { c with chkPar := chkPar a }) s)
    | 0x3D => (e, setCtx u (fun c => { c with chkRev := chkRev c.chkCfg a }) s)
    | 0x51 => loadTrig u f cyc 4 a p
    | 0x52 => loadTrig u f cyc 2 a p
    | 0x53 => loadTrig u f cyc 1 a p
    | 0x54 => storeTrig u f 4 a p
    | 0x55 => storeTrig u f 2 a p
    | 0x56 => storeTrig u f 1 a p
    | 0x57 => blkTrig u f cyc a p
    | 0x5C =>
      if a = 0 then
        ({ e with hadGo := true, skip := some ((c.rptEnd.toNat + 1) % 2 ^ 15) }, setCtx u (fun c => { c with rptState := 0 }) s)
      else ({ e with hadGo := true }, setCtx u (fun c => { c with rptCount := a, rptState := 1 }) s)
    | 0x5D => (e, setCtx u (fun c => if c.rptState.getLsbD 0 then { c with rptState := c.rptState ||| 2 } else c) s)
    | 0x62 => imgRead u f cyc true a p
    | 0x63 => imgRead u f cyc false a p
    | 0x64 => imgWrite u f true a p
    | 0x65 => imgWrite u f false a p
    | 0x66 => solveTrig u f cyc a p
    | 0x68 => branchTo a.toNat p
    | 0x69 => branchTo a.toNat (e, setCtx u (fun c => { c with brLink := BitVec.ofNat 32 (c.pc.toNat + 1) }) s)
    | 0x6B => branchIf u (a != 0) p
    | 0x6C => branchIf u (a = 0) p
    | 0x6D => branchIf u (condition (a.toNat % 16) flags) p
    | 0x6F => branchTo (BitVec.ofNat 15 (c.pc.toNat + a.toNat)).toNat p
    | 0x70 => ({ e with ends := true }, s)
    | 0x71 => ({ e with aborts := e.aborts ++ [(fcAbort, a.toNat % 2 ^ 16)] }, s)
    | 0x72 => evtTrig u f a p
    | 0x73 => ({ e with waits := e.waits ||| 0b101 }, s)
    | 0x74 => ({ e with waits := e.waits ||| waitMask a }, s)
    | 0x75 => sysTrig u f 1 (fun i s => if i.copyB then s else sendWdt (.key i.task (a.setWidth 16)) s) p
    | 0x76 => sysTrig u f 2 (fun i s => sendWdt (.checkin i.task i.copyB) s) p
    | _ => p

/-! ### The end of an instance -/

/-- An instance leaves RUNNING at the cycle at which the last result it requested is ready (R155, R208). -/
def lastCycle (i : Inst) : Inst := { i with cycle := max (max i.cycle i.ldReady) (max i.solveReady i.blkReady) }

/-- Results named by SYS.WAIT or SYS.FENCE have all arrived (R259, R260). -/
def waitsOver (i : Inst) : Bool :=
  (!i.waits.getLsbD 0 || i.loads.isEmpty) && (!i.waits.getLsbD 1 || !i.solving) && (!i.waits.getLsbD 2 || i.blk.isNone)

/-- The cycle at which the next bundle issues, with the sources it reads and the triggers it carries: every wait counts (R195, R198,
R201, R216, R253, R259). -/
def issueCycle (i : Inst) (codes dests : List Nat) : Nat :=
  let c := codes.foldl (fun m k => max m (readyAt i k)) i.cycle
  let c := if i.waits.getLsbD 0 then max c i.ldReady else c
  let c := if i.waits.getLsbD 1 || dests.any (fun d => unitOf d = 6) then max c i.solveReady else c
  if i.waits.getLsbD 2 || dests.contains 0x57 then max c i.blkReady else c

/-- The ready times of Table 2 for a load from where its address lies now (R195, R691): at once known for an unmapped one, from the SRAM of the
stall's barn, or from elsewhere. -/
def loadRange (s : State) (u : StallId) (i : Inst) (q : LoadReq) : Nat × Nat :=
  match regionKey (region s i.record q.addr.toNat) with
  | none => (2, 2)
  | some key => if inBarn s u.barn key then (3, 16) else (40, 2000)

/-- One end of a block transfer lies in scratch or in the SRAM of the stall's barn (R241). -/
def endNear (s : State) (u : StallId) (i : Inst) (a len : Nat) : Bool :=
  (List.range (len / 4)).all (fun j => match region s i.record (a + 4 * j) with
    | .scratch _ => true
    | rg => ((regionKey rg).map (inBarn s u.barn)).getD false)

/-- The longest time of a block transfer (R241): both ends near the stall, or not. -/
def blkBound (s : State) (u : StallId) (i : Inst) (k : BlkReq) : Nat :=
  let near := endNear s u i k.src.toNat k.len && endNear s u i k.dst.toNat k.len
  (if near then 40 else 2000) + k.len / 4

/-- The longest time of a solver call with 19 calls ahead of it, in stall cycles (R266). -/
def callBound : Nat := 330000

/-- The cycle by which the next bundle of an instance issues at the latest, when nothing but its own waits holds it back (R195, R201, R216,
R241, R253, R259, R266): a source or trigger that a result still out makes wait adds the longest time of that result. -/
def latestIssue (s : State) (u : StallId) (i : Inst) : Nat :=
  let b := bundleAt s.proj i.bank (stall s u).ctx.pc
  let moves := !isImm b && !isEnd b
  let codes := if moves then [srcOf b.1, srcOf b.2] else []
  let dests := if moves then [dstOf b.1, dstOf b.2] else []
  let c := issueCycle i codes dests
  let c := if codes.contains 0x27 || i.waits.getLsbD 0 then i.loads.foldl (fun m q => max m (q.at_ + (loadRange s u i q).2)) c else c
  let c := match i.blk with
    | some k => if dests.contains 0x57 || i.waits.getLsbD 2 then max c (k.at_ + blkBound s u i k) else c
    | none => c
  if i.solving && (codes.contains 0x34 || dests.any (fun d => unitOf d = 6) || i.waits.getLsbD 1) then max c (i.cycle + callBound) else c

/-- The most cycles that an instance may still have counted when its stall turns to another (R201, R212): the wait of its next bundle until it
would have issued, or the wait of the context engine for results of at most four cycles. -/
def waitRoom (s : State) (u : StallId) (i : Inst) : Nat :=
  let short (m r : Nat) : Nat := if r ≤ i.cycle + 4 then max m r else m
  let engine := [i.macReady, i.chkReady, i.ldReady, i.imgReady].foldl short i.cycle
  max engine (latestIssue s u i) - i.cycle

/-- Where a result that is ready at cycle `r` stands after a switch at cycle `cyc` before its time: the time away may have passed it (R212,
R213). -/
def readyAfter (before cyc r k : Nat) : Nat :=
  if r ≤ cyc || r ≤ before + 4 then min r cyc else cyc + Config.freeNat k % (r - cyc + 1)

/-- The context engine takes the instance in slot `f` out of the stall's registers (R201, R212): the wait of its next bundle counts, results
of at most four cycles have completed, and its frame holds the context. The flags of an access show when its result is ready, there as
before (R257). -/
def toFrame (u : StallId) (f : Fin 4) (ph : Phase) (s : State) : State :=
  match slotOf s u f with
  | some i =>
    let (k, s) := takeMany 5 s
    let cyc := i.cycle + Config.freeNat k % (waitRoom s u i + 1)
    let after (r : Nat) : Nat :=
      readyAfter i.cycle cyc r (if r = i.blkReady then k + 4 else if r = i.imgReady || r = i.solveReady then k + 3 else k + 2)
    modInst u f (fun i => { i with
      phase := ph, cycle := cyc, macReady := min i.macReady cyc, chkReady := min i.chkReady cyc
      ldReady := after i.ldReady, imgReady := after i.imgReady, solveReady := after i.solveReady, blkReady := after i.blkReady
      solveAt := none, tornFrom := after i.tornFrom, faultFrom := after i.faultFrom
      loads := i.loads.map (fun q => { q with apart := true }) })
      (modStall u (fun st => { saveFrame f i st with running := none }) s)
  | none => s

/-- A write set is presented to the commit engine (R103, R116, R306). Whether it falls in the FABRIC cycle of the one before, when the
clocks show the same instant, is free; sets of one cycle stand in the order of their stalls. -/
def present (u : StallId) (f : Fin 4) (s : State) : State :=
  let n := takeFree s
  let l := s.commit.presented
  let cycle := match l.getLast? with
    | some p => if p.at_ = s.time.net && Config.freeBit n.1 then p.cycle else p.cycle + 1
    | none => 0
  let x : Present := { stall := u, slot := f, cycle := cycle, at_ := s.time.net }
  let first (p : Present) : Bool := !(p.cycle = cycle && decide (stallIx u < stallIx p.stall))
  { n.2 with commit := { n.2.commit with presented := l.takeWhile first ++ [x] ++ l.dropWhile first } }

/-- A copy of a paired task has entered ENDING (R302, R305, R306, R311): the first starts the pairing deadline; with the second the
write set of copy A is presented. A partner that waits at a breakpoint, or a deadline that has passed, aborts both. -/
def endingPair (t : BitVec 7) (copyB : Bool) (s : State) : State :=
  if (copies s t).any (fun c => c.2.2.copyB != copyB && c.2.2.phase = .waitBreak) then pairAbort t fcMismatch 0 0 s
  else match (task s t).inst with
    | some r =>
      if r.firstEnding.isNone then startPair t s
      else if r.pairDue.any (fun d => decide (d < s.time.net)) then pairAbort t fcPairDeadline 4 0 s
      else match (copies s t).find? (fun c => !c.2.2.copyB) with
        | some c => present c.1 c.2.1 s
        | none => s
    | none => s

/-- RUNNING to ENDING (R102, R103, R155, R305): a plain write set is presented, a paired copy waits for its partner. EXEC_MAX takes the
execution times of the instances that come here, not of those that abort (R76; log entry 106). -/
def enterEnding (u : StallId) (f : Fin 4) (s : State) : State :=
  match slotOf s u f with
  | none => s
  | some i =>
    let s := modInst u f (fun i => { i with phase := .ending, endPending := false, waits := 0 }) s
    let s := modStall u (fun st => { st with running := if st.running = some f then none else st.running }) s
    let s := modCtr i.task (fun k => { k with execMax := max k.execMax (min i.cycle (2 ^ 32 - 1)) }) s
    let s := if i.record.attr.paired then endingPair i.task i.copyB s else present u f s
    settleStep i.task i.issued s

/-- A result that the instance requested is outstanding (R155). -/
def outstanding (i : Inst) : Bool := !i.loads.isEmpty || i.solving || i.blk.isSome

/-- An instance that has issued TX.END ends when every result it requested has arrived, while it is the running one. -/
def tryEnd (u : StallId) (f : Fin 4) (s : State) : State :=
  match slotOf s u f with
  | some i =>
    if i.endPending && !outstanding i && (stall s u).running = some f then
      enterEnding u f (modInst u f lastCycle s)
    else s
  | none => s

/-- The instance in slot `f` aborts through its own code (R110, R309). -/
def selfAbort (u : StallId) (f : Fin 4) (code detail : Nat) (s : State) : State :=
  match slotOf s u f with
  | some i => faultCopy i.task i.copyB code detail s
  | none => s

/-- A fault of the instance's own code that comes from what it has requested (R108, R240) or from its buffer entries: Table 3 of
Transactions has its abort from RUNNING alone (R102), so it waits where the instance does not run, until it does. -/
def ownFault (u : StallId) (f : Fin 4) (code detail : Nat) (s : State) : State :=
  match slotOf s u f with
  | some i =>
    if i.phase = .running then selfAbort u f code detail s
    else if i.phase = .ending then s
    else modInst u f (fun i => { i with fault := i.fault.orElse (fun _ => some (code, detail)) }) s
  | none => s

/-- TX.END has issued (R155, Table 4 of Morfold Move Set). -/
def endBundle (u : StallId) (f : Fin 4) (s : State) : State :=
  match slotOf s u f with
  | some i => if outstanding i then modInst u f (fun i => { i with endPending := true }) s else enterEnding u f (modInst u f lastCycle s)
  | none => s

/-- A held task's copy that has made its step is held again (R95). -/
def holdAgain (u : StallId) (f : Fin 4) (s : State) : State :=
  match slotOf s u f with
  | some i =>
    if i.steps = some 0 && i.phase = .running && !i.endPending then
      settleStep i.task i.issued (stopPair i.task (modInst u f (fun i => { i with steps := none }) (toFrame u f .held s)))
    else s
  | none => s

/-! ### Unpredictable results (R214, R215, R242, R279) -/

/-- Free words stored through the checks of every store, until one of them aborts the instance. -/
def freeStores (u : StallId) (f : Fin 4) (k : Nat) : Nat → State → Option (Nat × Nat) × State
  | 0, s => (none, s)
  | n + 1, s =>
    match writeData u f (alignTo 4 (Config.freeWord (k + 2 * n)).toNat) (leBytes 4 (Config.freeWord (k + 2 * n + 1)).toNat) s with
    | (some q, s) => (some q, s)
    | (none, s) => freeStores u f k n s

/-- Free words written into the output image through its checks. -/
def freeImage (u : StallId) (f : Fin 4) (k : Nat) : Nat → State → Option (Nat × Nat) × State
  | 0, s => (none, s)
  | n + 1, s =>
    let off := alignTo 4 (Config.freeNat (k + 2 * n) % 4096)
    match imageWrite u f (8 * off) 32 off (leBytes 4 (Config.freeWord (k + 2 * n + 1)).toNat) s with
    | (some q, s) => (some q, s)
    | (none, s) => freeImage u f k n s

/-- A move of an unpredictable bundle to a trigger of a load, a block transfer, a solver call or an event may or may not start it, with any
value (log entry 84). -/
def freeStart (u : StallId) (f : Fin 4) (cyc d k : Nat) (s : State) : State :=
  if (d = 0x51 || d = 0x52 || d = 0x53 || d = 0x57 || d = 0x66 || d = 0x72) && Config.freeBit k then
    (fire u f cyc 0 d (Config.freeWord (k + 1)) (noEff, s)).2
  else s

/-- The unpredictable result of a bundle issued at cycle `cyc`: every socket, the scratch window and ADDR_FAULT free, free
writes through every check, and going on at any address, ending or aborting (R215; log entry 5). A watchdog key or check-in
in the bundle may or may not have been effective. -/
def havoc (u : StallId) (f : Fin 4) (b : MoveWord × MoveWord) (a0 a1 : Word) (cyc : Nat) (s : State) : State :=
  let (k, s) := takeMany 65536 s
  let byte (j : Nat) : Byte := (Config.freeWord (k + j)).setWidth 8
  let s := setCtx u (fun _ => frameCtx ((List.range 320).map byte)) s
  let s := putScratch u f 0 ((List.range 0x3C00).map (fun j => byte (320 + j))) s
  let s := modInst u f (fun i => { i with
    addrFault := Config.freeBit k, waits := 0, passBreak := false, issued := i.issued + 1, cycle := cyc + 1 + Config.freeNat k % 2
    steps := i.steps.map (fun n => n - 1), macReady := cyc + 3, chkReady := cyc + 2
    blk := i.blk.map (fun q => { q with spoiled := true })
    imgReady := max i.imgReady (cyc + 4), ldReady := max i.ldReady (cyc + Config.freeNat (k + 1) % 2001) }) s
  let sends (j d : Nat) : Bool := (dstOf b.1 = d || dstOf b.2 = d) && Config.freeBit (k + j)
  let a := if dstOf b.1 = 0x75 then a0 else a1
  let s := match slotOf s u f with
    | some i =>
      let s := if sends 1 0x75 && sysRight i 1 && !i.copyB then sendWdt (.key i.task (a.setWidth 16)) s else s
      if sends 2 0x76 && sysRight i 2 then sendWdt (.checkin i.task i.copyB) s else s
    | none => s
  let s := freeStart u f cyc (dstOf b.2) (k + 60000) (freeStart u f cyc (dstOf b.1) (k + 50000) s)
  match freeStores u f (k + 20000) (Config.freeNat (k + 2) % 8192) s with
  | (some q, s) => selfAbort u f q.1 q.2 s
  | (none, s) => match freeImage u f (k + 40000) (Config.freeNat (k + 3) % 1024) s with
    | (some q, s) => selfAbort u f q.1 q.2 s
    | (none, s) =>
      if Config.freeNat (k + 4) % 3 = 1 then endBundle u f s
      else if Config.freeNat (k + 4) % 3 = 2 then selfAbort u f fcAbort (Config.freeNat (k + 5) % 2 ^ 16) s
      else holdAgain u f s

/-! ### Issue (R190 to R208, R246) -/

/-- The next bundle address and the repeat state after the bundle at the context's address (R207, R244, R246). -/
def nextAddress (e : Eff) (c : Ctx) : Ctx :=
  let taken := e.taken.orElse (fun _ => e.skip)
  let next := taken.getD ((c.pc.toNat + 1) % 2 ^ 15)
  if e.hadGo || !c.rptState.getLsbD 0 || c.pc.toNat != c.rptEnd.toNat then { c with pc := BitVec.ofNat 15 next }
  else if c.rptCount.toNat ≤ 1 || c.rptState.getLsbD 1 then
    { c with pc := BitVec.ofNat 15 next, rptCount := 0, rptState := 0 }
  else { c with pc := BitVec.ofNat 15 (taken.getD c.rptStart.toNat), rptCount := c.rptCount - 1 }

/-- What follows the effects of a bundle's moves: an abort, the end, or the next address (Table 4 of Morfold Move Set). Of two faults of
one bundle, TX.ABORT being one of them or not, the one that is reported is free (log entry 48). -/
def finish (u : StallId) (f : Fin 4) (cyc : Nat) (e : Eff) (s : State) : State :=
  match e.aborts with
    | [q] => selfAbort u f q.1 q.2 s
    | q :: r :: _ =>
      let (k, s) := takeFree s
      let x := if Config.freeBit k then q else r
      selfAbort u f x.1 x.2 s
    | [] =>
      if e.ends then endBundle u f s
      else
        let jumps := e.taken.isSome || e.skip.isSome
        holdAgain u f (modInst u f (fun i => { i with waits := e.waits, cycle := cyc + (if jumps then 2 else 1) })
          (setCtx u (nextAddress e) s))

/-- After a SYS.WAIT that names loads and block transfers, SYS.STATUS shows every earlier access (R257). -/
def covered (i : Inst) : Inst :=
  if i.waits.getLsbD 3 then { i with tornFrom := 0, faultFrom := 0 } else i

/-- Issue of a bundle of two moves at cycle `cyc` by the running instance in slot `f`. The trigger of slot 0 acts before that of slot 1, so
that a load of output-image bytes in slot 1 reads what slot 0 writes (R192, R238; log entry 96). -/
def issueMoves (u : StallId) (f : Fin 4) (i : Inst) (b : MoveWord × MoveWord) (cyc : Nat) (s : State) : State :=
  let c := (stall s u).ctx
  let a0 := sourceValue u i c cyc (srcOf b.1)
  let a1 := sourceValue u i c cyc (srcOf b.2)
  if bundleOdd c b a0 a1 then havoc u f b a0 a1 cyc s
  else
    let d0 := dstOf b.1
    let d1 := dstOf b.2
    let s1 := setCtx u (fun c => writeBoth b a0 a1 (advanceAg b c)) s
    let s1 := modInst u f (fun i => { covered i with
      waits := 0, passBreak := false, issued := i.issued + 1, cycle := cyc + 1, steps := i.steps.map (fun n => n - 1)
      macReady := if touchesMac d0 || touchesMac d1 then cyc + 3 else i.macReady
      chkReady := if touchesChk d0 || touchesChk d1 then cyc + 2 else i.chkReady }) s1
    let p := fire u f cyc c.aluFlags d1 a1 (fire u f cyc c.aluFlags d0 a0 (noEff, s1))
    if p.1.odd then havoc u f b a0 a1 cyc s else finish u f cyc p.1 p.2

/-- Issue of an immediate bundle (R196). -/
def issueImm (u : StallId) (f : Fin 4) (b : MoveWord × MoveWord) (cyc : Nat) (s : State) : State :=
  let s := modInst u f (fun i => { covered i with
    waits := 0, passBreak := false, issued := i.issued + 1, steps := i.steps.map (fun n => n - 1) }) s
  finish u f cyc noEff (setCtx u (fun c => { c with imm := immValue b c.imm }) s)

/-- The end bundle acts as a move to TX.END (R187, R208). -/
def issueEnd (u : StallId) (f : Fin 4) (cyc : Nat) (s : State) : State :=
  let s := modInst u f (fun i => { covered i with
    waits := 0, passBreak := false, issued := i.issued + 1, cycle := cyc + 1, steps := i.steps.map (fun n => n - 1) }) s
  finish u f cyc { noEff with ends := true } s

/-- A breakpoint stands at the next bundle and has not been passed (R92). -/
def breakHere (s : State) (u : StallId) (i : Inst) : Bool :=
  !i.passBreak && s.mode.breaks.contains (i.task, i.bank, (stall s u).ctx.pc)

/-- The task is held at its entry and its instance has issued nothing (R95). -/
def entryHeld (s : State) (i : Inst) : Bool := (task s i.task).heldEntry && i.issued = 0 && !i.passBreak

/-- The running instance of a stall that may issue its next bundle or stop before it: it is the one of R60 and has not ended. -/
def issuer (s : State) (u : StallId) : Option (Fin 4 × Inst) :=
  match running s u with
  | some (f, i) =>
    if alive s && i.phase = .running && !i.endPending && turnOf s u = some f then some (f, i) else none
  | none => none

/-- The bundle that the stall issues next, when nothing holds it back: slot, instance, bundle, cycle. -/
def ready (s : State) (u : StallId) : Option (Fin 4 × Inst × (MoveWord × MoveWord) × Nat) :=
  match issuer s u with
  | some (f, i) =>
    let b := bundleAt s.proj i.bank (stall s u).ctx.pc
    let moves := !isImm b && !isEnd b
    let codes := if moves then [srcOf b.1, srcOf b.2] else []
    let dests := if moves then [dstOf b.1, dstOf b.2] else []
    let pends := codes.any (sourcePends i) || dests.any (triggerPends i)
    if breakHere s u i || entryHeld s i || !waitsOver i || pends then none else some (f, covered i, b, issueCycle i codes dests)
  | none => none

/-- The next bundle of a stall issues, if it carries a move to destination `d`. -/
def issueTrigger (u : StallId) (d : Nat) (s : State) : State :=
  match ready s u with
  | some (f, i, b, cyc) =>
    if isEnd b then (if d = 0x70 then issueEnd u f cyc s else s)
    else if carries b d then issueMoves u f i b cyc s else s
  | none => s

end Sys2Proof.Machine
end

