-- ==== Sys2Proof/Machine/Commit.lean ====
section
/-! DEFINITION. Commits and what leaves the module at them, and the comparison of paired copies (Transactions and Commits;
R302 to R311). -/

namespace Sys2Proof.Machine

/-! ### Numbering (R116 to R118, R125 to R135) -/

/-- The output mapping of a task under a channel-map variant (R341). -/
def variantRec (s : State) (r : TaskRec) (v : BitVec 3) : TaskRec :=
  { r with outMap := r.outMap.filter (fun m =>
      ((entryOf s m.chan.toNat).map (fun e => (fieldAt e 1 1).testBit v.toNat)).getD false) }

/-- The held SYS.EVT records and TX_EVENT_LIMIT of commit `n` (R109, R125, R126); the number of dropped moves saturates at 0xFFFF (log
entry 108). -/
def commitEvents (t : BitVec 7) (n : Nat) (i : Inst) (s : State) : State :=
  let s := i.events.foldl (fun s e => raiseTask t e.1.toNat n e.2.toNat s) s
  if i.evtDropped = 0 then s else raiseTask t 0x0122 n (min i.evtDropped 0xFFFF) s

/-- The values that commit `n` gives direct outputs wait to be applied; an output that the variant `v` has off takes its STOP_ACT with
them (R127, R128, R341, R395). -/
def directDue (t : BitVec 7) (n : Nat) (v : BitVec 3) (full r : TaskRec) (img : Bytes) (s : State) : State :=
  let off := ((offChans s full v).filter isDirect).map (fun id => (id, 0))
  let d : OutDue := { commit := n, task := t, at_ := s.time.task, values := directValues s r img ++ off, variant := v, olds := [] }
  if r.attr.tickAligned then
    { s with commit := { s.commit with aligned := s.commit.aligned.filter (fun x => x.task != t) ++ [d] } }
  else { s with commit := { s.commit with direct := s.commit.direct ++ [d] } }

/-- Exports of commit `n` of task `t` (R133, R134). EXPORTS_SKIPPED counts once for each region that skips the commit, as its
EXPORT_SKIPPED events do (R139; log entry 93). -/
def exportDue (t : BitVec 7) (n : Nat) (i : Inst) (img : Bytes) (s : State) : State :=
  if !s.host.linkUp then s
  else
    s.commit.exports.foldl (fun s x =>
      if x.2.task != t then s
      else
        let img := if x.2.output then img else Mem.read i.inImg 0 4096
        let e := (n, stamp s, padTo x.2.length ((img.drop x.2.offset).take x.2.length))
        let put (y : Export) (s : State) : State := { s with commit := { s.commit with exports := Tab.set s.commit.exports x.1 y } }
        if x.2.flight.isNone then put { x.2 with flight := some e } s
        else
          let s := put { x.2 with due := some e } s
          match x.2.due with
          | none => s
          | some old => raiseTask t 0x0123 old.1 x.1 (modCtr t (fun k => { k with exportsSkipped := satAdd 32 k.exportsSkipped 1 }) s)) s

/-- Lines of global data that commit `n` of task `t` writes and another task has written: their values are unpredictable (R10,
R123). -/
def sharedLines (t : BitVec 7) (lines : List Nat) (c : CommitSt) : List Nat :=
  lines.filter (fun l => decide (globBase ≤ l) && decide (l < 0x00800000) && (Tab.find c.writer l).any (fun w => w != t.toNat))

/-- A line takes free bytes (log entry 5). -/
def freeLine (line : Nat) (s : State) : State :=
  let b := freeBytes 64 s
  { b.2 with commit := { b.2.commit with newest := Mem.setAll b.2.commit.newest line b.1 } }

/-- The lines that a commit of task `t` writes are its own; one that another task has written takes free bytes, and takes them at every
later commit too (R123: writer 128 is two tasks or more). -/
def claimLines (t : BitVec 7) (lines : List Nat) (s : State) : State :=
  let shared := sharedLines t lines s.commit
  let s := shared.foldl (fun s l => freeLine l s) s
  { s with commit := { s.commit with
      writer := lines.foldl (fun w l => Tab.set w l (if shared.contains l then 128 else t.toNat)) s.commit.writer } }

/-- The time from TX.END to numbering in cycles of the 533 MHz FABRIC clock: what the clocks have moved on, and a free part that they
do not show, of less than one NET tick (R139, log entry 81). -/
def commitLatency (ticks k : Nat) : Nat := 4264 * ticks / 1000 + Config.freeNat k % 5

/-- The counters and the state of task `t` after a commit (R76, R139, R312). -/
def commitTask (k : TaskSt) (latency : Nat) : TaskSt :=
  { k with
    inst := none, committed := true, sinceStep := k.sinceStep + 1
    ctr := { k.ctr with
      commits := satAdd 32 k.ctr.commits 1, commitLatMax := max k.ctr.commitLatMax (min 65535 latency), pairRun := 0 } }

/-- Number the write set of instance `i` of task `t`, presented at NET tick `since` (R103, R104, R118): its lines become the
committed state in one step, and its events, outputs, exports and bale leave. -/
def commitInstance (t : BitVec 7) (i : Inst) (since : Nat) (s : State) : State :=
  let writes := trueWrites i
  let lines := linesOf writes
  let (n, s) := numberCommit s
  let (k, s) := takeFree s
  let s := (copies s t).foldl (fun s c => closeCopy c.1 c.2.1 s) s
  let s := { s with commit := commitBytes n writes s.commit }
  let s := claimLines t lines s
  let s := commitEvents t n i (modTask t (fun x => commitTask x (commitLatency (s.time.net - since) k)) s)
  let img := Mem.read s.commit.newest (outBase t) i.record.outSize
  let r := variantRec s i.record i.variant
  let s := directDue t n i.variant i.record r img s
  let s := ethCommitDue t (canCommitDue t (commitTx i.variant i.record r img s))
  let s := exportDue t n i (padTo 4096 img) s
  queueBale 1 t n (((byAddress lines).filter (mirrored s.proj.cur i.record)).map (baleLine s.commit writes)) s

/-- COMMIT (R102, R103, R116, R118): the write set presented first is numbered; that of a paired task is numbered by its
comparison (R302). -/
def execCommit (s : State) : Res :=
  .next (match s.commit.presented with
  | [] => s
  | p :: _ =>
    match slotOf s p.stall p.slot with
    | some i => if s.commit.stopped || !alive s || i.phase != .ending || i.record.attr.paired then s else commitInstance i.task i p.at_ s
    | none => s)

/-! ### The comparison (R302 to R307) -/

/-- A written line with its byte-write mask and its data, unwritten bytes zero. -/
def lineRecord (m : Mem) (line : Nat) : Bytes :=
  leBytes 4 (line % 2 ^ 32) ++ leBytes 8 (lineMask m line).toNat ++ Mem.read m line 64

/-- The write-set signature of a copy (R303). -/
def signature (i : Inst) : DWord :=
  let m := trueWrites i
  crc64 ((byAddress (linesOf m)).flatMap (lineRecord m) ++ i.events.flatMap (fun e => leBytes 2 e.1.toNat ++ leBytes 8 e.2.toNat))

/-- The output-image lines of a copy's write set. -/
def outputLines (i : Inst) : List Nat := (linesOf (trueWrites i)).filter (fun l => lineMeets l (outBase i.task) 0x1000)

/-- The first output-image line that differs between two copies (R304). -/
def differingLine (a b : Inst) : Option Nat :=
  ((List.range 64).map (fun k => outBase a.task + 64 * k)).find? (fun l =>
    has (outputLines a) l != has (outputLines b) l || lineRecord (trueWrites a) l != lineRecord (trueWrites b) l)

/-- The write set of a paired task stands first among those presented: the NET tick at which it was presented (R116, R306). -/
def pairFirst (s : State) (t : BitVec 7) : Option Nat :=
  match s.commit.presented with
  | p :: _ => match slotOf s p.stall p.slot with
    | some i => if i.task = t && i.record.attr.paired then some p.at_ else none
    | none => none
  | [] => none

/-- PAIR_COMPARE (R302, R304, R306, R307): both copies have entered ENDING. On agreement the instance is numbered in its turn, with
copy A's write set; the commit latency begins at the first TX.END (Table 7 of Transactions and Commits). -/
def execPairCompare (t : BitVec 7) (s : State) : Res :=
  .next (match bothCopies s t with
  | none => s
  | some (a, b) =>
    if s.commit.stopped || !alive s then s
    else if a.phase = .ending && b.phase = .ending then
      let sig := signature a != signature b
      let line := differingLine a b
      if sig || line.isSome then
        pairAbort t fcMismatch (b2n sig + 2 * b2n line.isSome) ((line.map (fun l => l % 2 ^ 32)).getD 0) s
      else match pairFirst s t with
        | some since => commitInstance t a (((task s t).inst.bind (fun r => r.firstEnding)).getD since) s
        | none => s
    else s)

/-- PAIR_DEADLINE (R305): the clocks move to the pairing deadline, and the second copy has not entered ENDING. -/
def execPairDeadline (t : BitVec 7) (s : State) : Res :=
  .next (match (task s t).inst.bind (fun r => r.pairDue) with
  | some due => if alive s && pairLate s t then pairAbort t fcPairDeadline 4 0 (advanceNet due s) else s
  | none => s)

/-! ### Outputs, exports and bales (R127, R130 to R135, R578) -/

/-- DIRECT_OUTPUT_APPLY (R127, R570): the values of the first commit that waits reach their outputs, but not while a claim is being written. -/
def execDirectOutputApply (s : State) : Res :=
  .next (match s.commit.direct with
  | [] => s
  | d :: rest =>
    if alive s && !s.mode.pause && !claimHolds s then applyDue [d] { s with commit := { s.commit with direct := rest } } else s)

/-- IMAGE_EXPORT_WRITE (R130, R131, R133): the export in flight is written, in its order, and the newest commit that waits
follows it. -/
def execImageExportWrite (region : Fin 64) (s : State) : Res :=
  .next (match Tab.find s.commit.exports region.val with
  | some x =>
    (match x.flight with
     | some e =>
       if exportFits s x then
         writeExport x e
           { s with commit := { s.commit with
               exports := Tab.set s.commit.exports region.val { x with flight := x.due, due := none } } }
       else s
     | none => s)
  | none => s)

/-- BALE_SEND (R29, R578, R584): the first bale of the queue leaves, also where this unit has handed over since; LAST_BALE is that of the active
unit. -/
def execBaleSend (s : State) : Res :=
  .next (match s.pair.bales with
  | [] => s
  | b :: rest =>
    if s.pair.trained && alive s then
      modPair (fun p => { p with
        bales := rest, lastSent := some b.bale, lastBale := if p.role = 1 then b.bale.commit.toNat else p.lastBale }) s
    else s)

end Sys2Proof.Machine
end

