-- ==== Sys2Proof/Machine/Store.lean ====
section
/-! DEFINITION. The retain store at work: the host commands that read and write it, the pages its controller
writes under the energy check, periodic saves and the recorder (Retain Store and Event Recorder). -/

namespace Sys2Proof.Machine

/-- Page `p` as RETAIN_READ returns it (R591, R595, R597). Page 0 reads zero until the seal is locked; page 1 holds the factory record
(R596); the DATA of the other factory pages are in formats of the firmware (log entry 7), and which settings page stands where in its
region is the firmware's too (log entry 119). -/
def pageRead (s : State) (p : Nat) : Bytes :=
  if p = 0 && !s.ret.sealLock then zeros 64
  else if p = 1 then
    let f := s.factory
    protPage (leBytes 8 f.serial.toNat ++ [f.variant.setWidth 8, f.hwRev] ++ leBytes 6 f.mac0.toNat ++
      leBytes 6 f.mac1.toNat ++ leBytes 2 f.year.toNat ++ [f.month, f.day]) 0
  else if 1 ≤ p && p < 256 then protPage ((List.range 56).map (fun i => Config.storeByte (64 * p + i))) 0
  else if 512 ≤ p && p < 2048 then pageOf s.ret.mram (32768 + Config.settingsPlace p)
  else pageOf s.ret.mram p

/-- RETAIN_READ (R368, R597). -/
def execRetainRead (d : Desc) (first count : Word) (s : State) : Res :=
  .next (hostCommand d 0x11 false (fun _ => [(decide (first.toNat + count.toNat ≤ 32768), stVerify)])
    (fun s =>
      let n := min count.toNat (d.bufLen.toNat / 64)
      let b := (List.range n).flatMap (fun i => pageRead s (first.toNat + i))
      complete d.ring d.tag (if n < count.toNat then stPartial else stOk) n (output d b s)) s)

/-- RETAIN_WRITE (R597): each page is an operation of the controller. -/
def execRetainWrite (d : Desc) (first count : Word) (buf : Bytes) (s : State) : Res :=
  .next (hostCommand d 0x12 false (fun _ => [
      (decide (1 ≤ count.toNat) && decide (64 * count.toNat ≤ d.bufLen.toNat) && decide (2048 ≤ first.toNat) &&
        decide (first.toNat + count.toNat ≤ 8192), stVerify)])
    (fun s =>
      (List.range count.toNat).foldl (fun s i =>
        enqueueOp (.param d.ring (i + 1 = count.toNat)) [(first.toNat + i, padTo 64 (buf.drop (64 * i)))] s)
        (defer d 0x12 (.retain count.toNat) s)) s)

/-- The seal page (Table 3): the first 60 bytes of the buffer, the CRC set by the BZ64. -/
def sealPage (buf : Bytes) : Bytes :=
  let b := padTo 60 buf
  b ++ leBytes 4 (crc32 b).toNat

/-- SEAL_LOCK (R595). -/
def execSealLock (d : Desc) (confirm : Word) (buf : Bytes) (s : State) : Res :=
  .next (bufferCommand d 0x13 true sealReserved freeBuffer buf (fun d buf => hostCommand d 0x13 true (fun s => [
      (s.mode.mode = mStop || s.mode.mode = mService, stMode),
      (!s.ret.sealLock && confirm = 0x5EA110CE#32 && decide (64 ≤ d.bufLen.toNat) && fieldAt buf 60 4 = 0, stVerify)])
    (fun s => enqueueOp (.seal d.ring) [(0, sealPage buf)]
      (defer d 0x13 (.seal (BitVec.ofNat 64 (fieldAt buf 48 8))) s))) s)

/-- Record slot `k` of the recorder (R608). -/
def slotBytes (s : State) (k : Nat) : Bytes := Mem.read s.ret.mram (64 * 16384 + 32 * (k % 32768)) 32

/-- RECORDER_READ (R368, R612). -/
def execRecorderRead (d : Desc) (first count : Word) (s : State) : Res :=
  .next (hostCommand d 0x14 false (fun _ => [
      (decide (first.toNat < 32768) && decide (1 ≤ count.toNat) && decide (count.toNat ≤ 32768), stVerify)])
    (fun s =>
      let n := min count.toNat (d.bufLen.toNat / 32)
      let b := (List.range n).flatMap (fun i => slotBytes s (first.toNat + i))
      complete d.ring d.tag (if n < count.toNat then stPartial else stOk) n (output d b s)) s)

/-! ### Page writes -/

/-- Change the retain store's part of the state. -/
def modRet (f : RetSt → RetSt) (s : State) : State := { s with ret := f s.ret }

/-- Validity of a retained copy (1 A, 2 B). -/
def setValid (copy : BitVec 2) (v : Bool) (r : RetSt) : RetSt :=
  if copy = 2 then { r with bValid := v } else { r with aValid := v }

/-- A retained save has written its header page: its copy is the chosen one (R602). -/
def saveDone (cause : BitVec 2) (n : Nat) (s : State) : State :=
  let target := nextCopy s.ret.retCopy.1
  modRet (fun r => setValid target true { r with
    retCopy := (target, nextSeq r.retCopy), lastCause := cause, lastN := n, saves := satAdd 32 r.saves 1 }) s

/-- The seal page has been written and is read back (R595): what the device answers is a free value, since no rule says when a read-back
does not match. A match sets the seal lock; otherwise page 0 is written to zero and the seal stays open. -/
def sealDone (ring_ : Fin 8) (s : State) : State :=
  let n := takeFree s
  let s := n.2
  let unit := fieldAt (pageOf s.ret.mram 0) 48 8
  let isSeal (w : Wait) : Bool := match w with
    | .seal _ => true
    | _ => false
  if Config.freeBit n.1 then completeWait ring_ isSeal stVerify 0 (modRet (storePage 0 (zeros 64)) s)
  else completeWait ring_ isSeal stOk 0 (raise 0x9000 0x0906 0 unit (modRet (fun r => { r with sealLock := true }) s))

/-- What the last page of an operation completes. -/
def opDone (k : RetKind) (s : State) : State :=
  match k with
  | .save cause n => nextSave (saveDone cause n s)
  | .counters _ =>
    let s := modRet (fun r => { r with ctrCopy := (nextCopy r.ctrCopy.1, nextSeq r.ctrCopy) }) s
    { s with wdt := { s.wdt with latchCount := s.wdt.latchCount && !s.wdt.latchHeld } }
  | .settings (some ring) block buf =>
    completeWait ring (fun w => w = .settings block) stOk 0 (acceptBlock block buf (modRet (settingsDone block) s))
  | .settings none block _ => modRet (settingsDone block) s
  | .param ring last => match last, (ring_ s ring) with
    | true, some n => completeWait ring (fun w => w = .retain n) stOk n s
    | _, _ => s
  | .seal ring => sealDone ring s
  | .powerDown n => saveDone 2 n s
where
  /-- The pages of the RETAIN_WRITE that a ring has in progress. -/
  ring_ (s : State) (k : Fin 8) : Option Nat :=
    match (Machine.ring s k).busy with
    | some { wait := .retain n, .. } => some n
    | _ => none

/-- A save is abandoned after `wrote` pages (R602, R613). -/
def saveAbandoned (cause : BitVec 2) (wrote mv : Nat) (s : State) : State :=
  raise 0x9000 0x0903 0 (cause.toNat + 2 ^ 16 * (wrote % 2 ^ 16) + 2 ^ 32 * (mv % 2 ^ 32))
    (modRet (fun r => { r with
      abandoned := satAdd 32 r.abandoned 1
      ctr := { r.ctr with savesAbandoned := satAdd 32 r.ctr.savesAbandoned 1 } }) s)

/-- The energy check has refused a page of an operation, which ends (R594). -/
def opRefused (o : RetOp) (mv : Nat) (s : State) : State :=
  match o.kind with
  | .save cause _ => nextSave (saveAbandoned cause o.wrote mv s)
  | .counters (some (c, why)) => claimFailed c why s
  | .counters none => s
  | .settings (some ring) block _ => completeWait ring (fun w => w = .settings block) stTimeout 0 s
  | .settings none _ _ => s
  | .param ring _ =>
    let s := modRet (fun r => { r with ops := r.ops.filter (fun x => match x.kind with
      | .param k _ => decide (k ≠ ring)
      | _ => true) }) s
    completeWait ring (fun w => match w with
      | .retain _ => true
      | _ => false) stTimeout 0 s
  | .seal ring => completeWait ring (fun w => match w with
      | .seal _ => true
      | _ => false) stVerify 0 s
  | .powerDown _ => saveAbandoned 2 o.wrote mv s

/-- A page of the power-down save stands: with the counters page the count is recorded, and with the last record the latched records are
(R603, R627, R642). -/
def unlatch (o : RetOp) (left : List (Nat × Bytes)) (s : State) : State :=
  match o.kind with
  | .powerDown _ =>
    let records := left.any (fun p => decide (16384 ≤ p.1) || p.1 = 258 || p.1 = 259)
    { s with
      wdt := { s.wdt with latchCount := false, latch := if records then s.wdt.latch else none }
      power := { s.power with coreLatch := if records then s.power.coreLatch else none } }
  | _ => s

/-- Whether the retain store fails as it writes the page of a claim. No rule says when it does, so that is a free value (R571; log entry 124). -/
def storeFails (o : RetOp) (s : State) : Bool × State :=
  match o.kind with
  | .counters (some _) => (Config.freeBit s.free, (takeFree s).2)
  | _ => (false, s)

/-- The write of a claim has failed: its page is left torn at an open place (R571, R592). -/
def claimTorn (o : RetOp) (p : Nat × Bytes) (s : State) : State :=
  let a := takeFree s
  let b := takeFree a.2
  let s := modRet (tear (Config.freeNat a.1 % 9) (BitVec.ofNat 64 (Config.freeNat b.1)) p) b.2
  match o.kind with
  | .counters (some (c, why)) => claimFailed c why s
  | _ => s

/-- The page in progress is written (R592). The first page of a retained copy makes that copy invalid until its
header carries the new SEQ (R604). -/
def finishPage (s : State) : State :=
  match s.ret.ops with
  | o :: rest =>
    if !o.started then s
    else match nextPage s.ret o with
      | none => modRet (fun r => { r with ops := rest }) s
      | some (p, b) =>
        let r := storeFails o s
        let s := r.2
        if r.1 then claimTorn o (p, b) (modRet (fun r => { r with ops := rest }) s)
        else
        let r := storePage p b s.ret
        let r := match o.kind with
          | .save _ _ => setValid (nextCopy r.retCopy.1) false r
          | .powerDown _ => if 8192 ≤ p && p < 16384 then setValid (nextCopy r.retCopy.1) false r else r
          | _ => r
        let left := o.pages.drop 1
        let s := unlatch o left s
        if left.isEmpty then opDone o.kind { s with ret := { r with ops := rest } }
        else { s with ret := { r with ops := { o with pages := left, wrote := o.wrote + 1, started := false } :: rest } }
  | [] => s

/-- The next page of the operation at the front is checked and started (R594). -/
def startPage (mv : Nat) (s : State) : State :=
  match s.ret.ops with
  | o :: rest =>
    if o.started then s
    else if energyOk mv o.pages.length then modRet (fun r => { r with ops := { o with started := true } :: rest }) s
    else opRefused o mv (modRet (fun r => { r with ops := rest }) s)
  | [] => s

/-- RETAIN_PAGE_WRITE (R592, R594, R602, R603): the page in progress is written, and the next page of its operation,
or of the next one, is checked at the measured store voltage and started. -/
def execRetainPageWrite (storeMv : Nat) (s : State) : Res :=
  .next (if s.power.stopped then s else startPage storeMv (finishPage s))

/-- RETAINED_SAVE_PERIODIC (R601). -/
def execRetainedSavePeriodic (s : State) : Res :=
  let period := fieldAt (block s 0x0510) 0 2
  .next (if period = 0 || !working s.mode.mode || !alive s then s
  else
    let t := s.mode.saveFrom + 1000000 * period
    let s := advanceTo t s
    dueSave 0 { s with mode := { s.mode with saveFrom := t } })

/-- Events that found the queue full are recorded once it has room, as RECORDER_OVERFLOW with their count, before any record that waits
(R611). -/
def noteOverflow (s : State) : State :=
  let lost := s.recorder.lost
  if lost = 0 || !recRoom s.recorder then s
  else
    let s := raise 0x9000 0x0905 0 (min lost (2 ^ 32 - 1)) { s with recorder := { s.recorder with lost := 0 } }
    let first (e : Nat × EventRec) : Bool := e.2.source = 0x9000 && e.2.code = 0x0905
    { s with recorder := { s.recorder with
        queue := s.recorder.queue.filter first ++ s.recorder.queue.filter (fun e => !first e) } }

/-- The recorder has written everything that waits: the expiry record is recorded (R627). -/
def recordedLatch (s : State) : State :=
  if s.recorder.queue.isEmpty && s.wdt.latchHeld then { s with wdt := { s.wdt with latch := none } } else s

/-- RECORDER_WRITE (R594, R608, R611, R705): the first record of the queue is written, then the index copy. A record that the energy check
refuses stays queued. -/
def execRecorderWrite (storeMv : Nat) (s : State) : Res :=
  .next (if s.power.stopped || s.power.saving || (s.mode.phase != 0 && s.mode.phase < 4) then s
  else
    let s := noteOverflow s
    match s.recorder.queue with
    | [] => s
    | (o, e) :: q =>
      if !energyOk storeMv 2 then s
      else
        recordedLatch (noteOverflow { s with
          ret := writeChecked storeMv s.recorder.total o e s.ret
          recorder := { s.recorder with queue := q } }))

end Sys2Proof.Machine
end

