-- ==== Sys2Proof/Machine/Edit.lean ====
section
/-! DEFINITION. Online edits and profiles (Online Edit and Profiles). -/

namespace Sys2Proof.Machine

/-! ### The package (R321 to R326) -/

/-- A data-map entry as bytes (Table 3). -/
def stepBytes (m : MapStep) : Bytes :=
  [m.kind.setWidth 8, m.region.setWidth 8, m.task.setWidth 8, BitVec.ofNat 8 (b2n m.retain + 2 * b2n m.mirror)] ++
  leBytes 4 m.src ++ leBytes 4 m.dst ++ leBytes 4 m.length

/-- The length of an edit package (R322). -/
def editLength (p : EditPackage) : Nat :=
  64 + 131072 + 262144 + (p.tasks.map recLength).sum + 16 * p.fwd.length + 16 * p.rev.length + p.init.length

/-- An edit package as bytes (R321, Table 2). -/
def editBytes (p : EditPackage) : Bytes :=
  leBytes 4 p.editId.toNat ++ zeros 4 ++ leBytes 16 p.affected.toNat ++ leBytes 16 p.removed.toNat ++
  leBytes 2 p.tasks.length ++ leBytes 2 p.fwd.length ++ leBytes 2 p.rev.length ++ zeros 2 ++ leBytes 4 p.init.length ++
  zeros 12 ++ stallBytes (tabOf p.stallBank) ++ solverBytes (tabOf p.solverBank) ++ p.tasks.flatMap recBytes ++
  p.fwd.flatMap stepBytes ++ p.rev.flatMap stepBytes ++ p.init

/-- First data address of a map entry's region (R234). -/
def stepBase (m : MapStep) : Nat := if m.region = 0 then globBase else if m.region = 1 then privBase else outBase m.task

/-- The loaded size of a map entry's region in a layout. -/
def stepSize (l : Layout) (m : MapStep) : Nat :=
  if m.region = 0 then l.globalSize
  else match l.tasks.find? (fun r => r.attr.taskId = m.task) with
    | some r => if m.region = 1 then r.privSize else r.outSize
    | none => 0

/-- A range of a region lies within its loaded size. -/
def stepRange (l : Layout) (m : MapStep) (a : Nat) : Bool :=
  decide (stepBase m ≤ a) && decide (a + m.length ≤ stepBase m + stepSize l m)

/-- A map entry passes the checks of Table 3 between an old and a new layout. -/
def stepValid (p : EditPackage) (old new : Layout) (m : MapStep) : Bool :=
  decide (m.region.toNat < 3) &&
  (if m.region = 0 then decide (m.task = 0)
   else p.affected.getLsbD m.task.toNat && !p.removed.getLsbD m.task.toNat) &&
  m.length % 4 = 0 && decide (4 ≤ m.length) && stepRange new m m.dst &&
  (match m.kind.toNat with
   | 1 => stepRange old m m.src
   | 2 => decide (m.src + m.length ≤ p.init.length)
   | 3 => m.src = 0
   | _ => false)

/-- The tasks of the edited project: those not removed, with the records of the package (R330). -/
def editTasks (p : EditPackage) (cur : List TaskRec) : List TaskRec :=
  (cur.filter (fun r => !p.tasks.any (fun x => x.attr.taskId = r.attr.taskId)) ++ p.tasks).filter
    (fun r => !p.removed.getLsbD r.attr.taskId.toNat)

/-- A selection without the bytes of a range of its region. -/
def cutSel (region task off len : Nat) (x : Sel) : List Sel :=
  if x.region != region || (region != 0 && x.task != task) then [x]
  else ([{ x with length := min (x.offset + x.length) off - x.offset },
         { x with
            offset := max x.offset (off + len)
            length := x.offset + x.length - max x.offset (off + len) }] : List Sel).filter (fun y => y.length != 0)

/-- A map entry's flag replaces the selection of its destination bytes (R326). -/
def overSel (flag : MapStep → Bool) (l : List Sel) (m : MapStep) : List Sel :=
  let off := m.dst - stepBase m
  l.flatMap (cutSel m.region.toNat m.task.toNat off m.length) ++
  (if flag m then [{ region := m.region.toNat, task := m.task.toNat, offset := off, length := m.length }] else [])

/-- Selections in the order of R598. -/
def orderSel (l : List Sel) : List Sel :=
  sortSel (l.filter (fun x => x.region = 0)) ++
  allTasks.flatMap (fun t =>
    sortSel (l.filter (fun x => x.region = 1 && x.task = t.toNat)) ++ sortSel (l.filter (fun x => x.region = 2 && x.task = t.toNat)))

/-- The selections of a layout under the flags of a map (R326; MIRROR has no effect on output images). -/
def overLayout (map : List MapStep) (l : Layout) : Layout :=
  { l with
    retained := orderSel (map.foldl (overSel (fun m => m.retain)) l.retained)
    mirrored := map.foldl (overSel (fun m => m.mirror && m.region != 2)) l.mirrored }

/-- The selections of globals and of tasks that a test keeps. -/
def keepSel (keep : Nat → Bool) (l : List Sel) : List Sel := l.filter (fun x => x.region = 0 || keep x.task)

/-- The layout of the edited project: records of the package bring their own selections, and the forward map replaces
those of its destinations (R326, R330). -/
def editLayout (p : EditPackage) (cur : Layout) : Layout :=
  let kept (t : Nat) : Bool := !p.removed.getLsbD t && !p.tasks.any (fun r => r.attr.taskId.toNat = t)
  overLayout p.fwd { cur with
    tasks := editTasks p cur.tasks
    retained := keepSel kept cur.retained ++ retainedOf [] p.tasks
    mirrored := keepSel kept cur.mirrored ++ mirroredOf [] p.tasks }

/-- The package passes R322 on the project in force. -/
def editValid (d : Desc) (p : EditPackage) (cur : Layout) : Bool :=
  let new := editLayout p cur
  p.editId != 0 && decide (p.tasks.length ≤ 128) && decide (p.fwd.length ≤ 4096) && decide (p.rev.length ≤ 4096) &&
  p.init.length % 4 = 0 && decide (p.init.length ≤ 262144) && p.removed &&& ~~~p.affected = 0 &&
  p.tasks.all (fun r => p.affected.getLsbD r.attr.taskId.toNat) && p.tasks.all (recValid p.init.length) &&
  idsDiffer p.tasks && decide (editLength p ≤ d.bufLen.toNat) && p.fwd.all (stepValid p cur new) &&
  p.rev.all (stepValid p new cur)

/-- Home-memory key of an address of a map entry's region. -/
def stepKey (m : MapStep) (a : Nat) : Nat := if m.region = 1 then privKey m.task a else a

/-- The distinct destination lines of a map (R327). -/
def mapLines (map : List MapStep) : Nat :=
  (map.flatMap (fun m => (List.range ((m.dst % 64 + m.length + 63) / 64)).map (fun i =>
    lineOf (stepKey m m.dst) + 64 * i))).eraseDups.length

/-- APPLY_LEAD in ns (R327). -/
def applyLead (map : List MapStep) : Nat := 2000 + 10 * mapLines map

/-- A task of a layout. -/
def hasTask (l : Layout) (t : BitVec 7) : Bool := l.tasks.any (fun r => r.attr.taskId = t)

/-- The edited project fits (R178, R323, R598, R700): APPLY_LEAD of either map at most half a base tick, the retained data of the edited project
and of a rollback within their limit, and the pinned sets within theirs (log entry 46). -/
def editFits (s : State) (p : EditPackage) : Bool :=
  let new := editLayout p s.proj.cur
  decide (max (applyLead p.fwd) (applyLead p.rev) ≤ 500 * s.time.tickUs) &&
  decide (content new.globalSize new.tasks ≤ capacity s) && decide (retainedBytes new ≤ retainLimit) &&
  decide (retainedBytes (overLayout p.rev s.proj.cur) ≤ retainLimit) &&
  pinsFit s (pinSets s new.tasks (fun t => ((new.tasks.find? (fun r => r.attr.taskId = t)).map (fun r =>
    if hasTask s.proj.cur t then (task s t).enabled else r.attr.enabled)).getD false) (profiles s))

/-- Mode checks of EDIT_PREPARE (R323). -/
def prepareMode (s : State) : Bool :=
  !inStartUp s && s.mode.mode != mSafe && s.mode.mode != mService && s.proj.pend.isNone

/-- EDIT_PREPARE (R320 to R323). -/
def execEditPrepare (d : Desc) (pkg : EditPackage) (s : State) : Res :=
  .next (hostCommand d 0x0C true (fun s => [
      (hasPaired s || pkg.tasks.all (fun r => !r.attr.paired), stAbsent), (prepareMode s, stMode),
      (editValid d pkg s.proj.cur, stVerify), (editFits s pkg, stSpace)])
    (fun s =>
      let crc := crc32 (editBytes pkg)
      let i := takeImages d pkg.stallBank pkg.solverBank pkg.init s
      let pkg := { pkg with stallBank := i.1.1, solverBank := i.1.2.1, init := i.1.2.2 }
      let s := i.2
      let bank := bankOf pkg.stallBank pkg.solverBank
      let p := s.proj
      ok d crc.toNat { s with proj := { p with
        other := editLayout pkg p.cur
        otherInit := pkg.tasks.foldl (fun t r => Tab.set t r.attr.taskId.toNat pkg.init) p.editInit
        bank0 := if p.active then bank else p.bank0
        bank1 := if p.active then p.bank1 else bank
        edit := 1, pkg := some pkg, prepCrc := crc } }) s)

/-! ### Taking the edit (R327 to R332) -/

/-- This module is a member of the Ihloz network (R491). -/
def isMember (s : State) : Bool := s.ihloz.state = 5

/-- A profile switch is pending (R332, R334): a vote counts from its start, agreed or not (DESIGN CHOICE, log entry 128). -/
def switchPending (s : State) : Bool := s.prof.vote.isSome || s.prof.localSwitch.isSome

/-- The standby of an active unit reports the same EDIT_ID and PREP_CRC in the matching edit state (R332). The report is the sender's:
no record of Hot Standby carries PREP_CRC (log entry 46). -/
def partnerEdit (s : State) (st : BitVec 2) (report : Option EditReport) : Bool :=
  !pairActive s ||
  (report.map (fun x => x.editId = ownEditId s && x.prepCrc = s.proj.prepCrc && x.state = st)).getD false

/-- Mode checks of EDIT_COMMIT and EDIT_ROLLBACK (R320, R332); one of them pending refuses another. -/
def editMode (s : State) (st : BitVec 2) (report : Option EditReport) : Bool :=
  (s.mode.mode = mStop || runs s) && s.proj.edit = st && s.mode.breaks.isEmpty && !switchPending s && s.proj.pend.isNone &&
  partnerEdit s st report

/-- EDIT_COMMIT or EDIT_ROLLBACK from the state in which it is accepted (R331, R332). -/
def editTake (d : Desc) (op : Nat) (rollback : Bool) (earliest : DWord) (wait : Half) (report : Option EditReport) : State → State :=
  hostCommand d op true (fun s => [(editMode s (if rollback then 2 else 1) report, stMode), (wait != 0, stVerify)])
    (fun s =>
      let e := earliest.toNat
      if e != 0 && e < nextTick s then fail d stLate s
      else
        let from_ := if e = 0 then nextTick s - 1 else e
        defer d op .edit { s with proj := { s.proj with boundary := none, pend := some (d.ring, rollback, e, from_ + wait.toNat), pendAt := s.time.task } })

/-- EDIT_COMMIT. -/
def execEditCommit (d : Desc) (earliest : DWord) (wait : EditWait) (s : State) : Res :=
  .next (editTake d 0x0D false earliest wait.ticks wait.report s)

/-- EDIT_ROLLBACK. -/
def execEditRollback (d : Desc) (earliest : DWord) (wait : EditWait) (s : State) : Res :=
  .next (editTake d 0x0E true earliest wait.ticks wait.report s)

/-- Bytes that a map entry writes, taken from committed data as it stands (R325). -/
def stepData (c : CommitSt) (init : Bytes) (m : MapStep) : Bytes :=
  match m.kind.toNat with
  | 1 => Mem.read c.newest (stepKey m m.src) m.length
  | 2 => padTo m.length (init.drop m.src)
  | _ => zeros m.length

/-- A home-memory key belongs to private data or the output image of an affected task. -/
def keyOf (affected : BitVec 128) (k : Nat) : Bool :=
  allTasks.any (fun t => affected.getLsbD t.toNat &&
    ((decide (privKey t 0 ≤ k) && decide (k < privKey t 0 + 2 ^ 32)) || (decide (outBase t ≤ k) && decide (k < outBase t + 0x1000))))

/-- Key and length of what each entry of the map writes. -/
def mapRanges (map : List MapStep) : List (Nat × Nat) := map.map (fun m => (stepKey m m.dst, m.length))

/-- Everything that the map writes under commit number `n`: affected private data and output images read zero but for its entries;
globals keep what it does not write (R325). A byte that two entries write is unpredictable (R10, R322; log entry 86). -/
def mapWrites (n : Nat) (c : CommitSt) (affected : BitVec 128) (init : Bytes) (map : List MapStep) : Mem :=
  let blank := (c.newest.filter (fun x => keyOf affected x.1)).map (fun x => (x.1, 0#8))
  let w := map.foldl (fun w m => Mem.putAll w (stepKey m m.dst) (stepData c init m)) blank
  (overlaps (mapRanges map)).foldl
    (fun w x => Mem.putAll w x.1 ((List.range x.2).map (fun i => Config.editByte n (x.1 + i)))) w

/-- What the edit commit makes of a task (R256, R312, R330, R697). A removed task, and copy B of one that is no longer paired, has no
stall (R182). An added task starts afresh, enabled as the active
profile or its record says; a removed one is not released again, and is not held any more: the mode stays as it is, HOLD too (log
entry 79). -/
def editTask (s : State) (old new : Layout) (t : BitVec 7) (k : TaskSt) : TaskSt :=
  let k := { k with firstEdit := true, caller := false, ctr := { k.ctr with pairRun := 0 } }
  if !hasTask new t then { k with enabled := false, latch := false, latchMerged := false, held := false, heldEntry := false, inst := none, placeA := none, placeB := none }
  else if !hasTask old t then
    { TaskSt.zero with
      firstRun := k.firstRun, firstEdit := true, firstProfile := k.firstProfile, epoch := k.epoch
      enabled := match Tab.find s.prof.table s.prof.active.toNat with
        | some p => p.enable.getLsbD t.toNat
        | none => ((new.tasks.find? (fun r => r.attr.taskId = t)).map (fun r => r.attr.enabled)).getD false }
  else if new.tasks.any (fun r => r.attr.taskId = t && r.attr.paired) then k else { k with placeB := none }

/-- A home line is one of a layout's private data or globals. -/
def homeLine (l : Layout) (line : Nat) : Bool :=
  (decide (globBase ≤ line) && decide (line < globBase + l.globalSize)) ||
  l.tasks.any (fun r => decide (privKey r.attr.taskId privBase ≤ line) && decide (line < privKey r.attr.taskId (privBase + r.privSize)))

/-- The edit with package `p`, taken forward or back, under commit number `n` (R325 to R330, R333). Exports of earlier commits that it
removes are written first (R33). -/
def applyEdit (p : EditPackage) (rollback : Bool) (n : Nat) (s : State) : State :=
  let map := if rollback then p.rev else p.fwd
  let old := s.proj.cur
  let new := overLayout map s.proj.other
  let w := mapWrites n s.commit p.affected p.init map
  let s := (s.commit.exports.filter (fun x => p.affected.getLsbD x.2.task.toNat)).foldl (fun s x => finishExport x.2 s) s
  let c := commitBytes n w s.commit
  let c := { c with
    writer := [], edits := c.edits ++ [(n, p.affected, mapRanges map)], exports := c.exports.filter (fun x => !p.affected.getLsbD x.2.task.toNat) }
  let s' := { s with
    commit := c
    proj := { s.proj with
      active := !s.proj.active, cur := new, other := old, editInit := s.proj.otherInit, otherInit := s.proj.editInit
      edit := if rollback then 1 else 2 }
    mode := { s.mode with resumeOk := s.mode.resumeOk && rollback }
    yard := { s.yard with homeLoc := s.yard.homeLoc.filter (fun x => homeLine new x.1), moves := s.yard.moves.filter (fun x => homeLine new x.1) }
    tasks := Vector.ofFn (fun i => let t := taskNo i.val
      if p.affected.getLsbD i.val then editTask s old new t s.tasks[i] else s.tasks[i])
    chan := { s.chan with unpin := true } }
  refreshChans (wantNow (settleHomes (liftBad 0 s')))

/-- An affected task has an open, ENDING or held instance (R328). -/
def affectedOpen (s : State) (affected : BitVec 128) : Bool :=
  allTasks.any (fun t => affected.getLsbD t.toNat && !(copies s t).isEmpty)

/-- A profile switch is due before the next base tick: a local one, or that of the agreed cycle, which begins at a base tick whose
number is a multiple of C (R48, R335, R339). A module whose node follows no cycle any more switches at the next base tick (log entry 88); a PASSIVE one waits for the agreed cycle (R494). An edit
commit is numbered at the instant of its base tick, so that the next base tick is the one that follows from then on (log entry 104). -/
def switchDue (s : State) : Bool :=
  if s.proj.pend.isNone && s.proj.boundary = some (nextTick s) then false
  else match s.prof.localSwitch, s.prof.vote.bind Vote.agreed with
  | some _, _ => true
  | none, some c =>
    let m := (schedNow s).map (fun x => x.cycleUs / max 1 s.time.tickUs)
    decide (c ≤ s.ihloz.cycle) || !(s.ihloz.state = 4 || s.ihloz.state = 5 || s.ihloz.state = 6) ||
    (s.ihloz.cycle + 1 = c && (m.map (fun m => decide (nextTick s % max 1 m = 0))).getD true)
  | none, none => false

/-- The instant n − APPLY_LEAD of task time for the next base tick n (R327, R328). -/
def editInstant (s : State) (map : List MapStep) : Nat :=
  tickTime s (nextTick s) * usUnit - applyLead map * (usUnit / 1000)

/-- The map that a pending edit takes. -/
def pendMap (p : EditPackage) (rollback : Bool) : List MapStep := if rollback then p.rev else p.fwd

/-- The next base tick lies in the wait of the pending edit. -/
def pendTick (s : State) (earliest last : Nat) : Bool := decide (earliest ≤ nextTick s) && decide (nextTick s ≤ last)

/-- The edit commit is numbered and applied (R328, R329, R331); no profile switch of its base tick follows it (R339). -/
def commitEdit (k : Fin 8) (rollback : Bool) (p : EditPackage) (s : State) : State :=
  let (ce, s) := numberCommit s
  let s := applyEdit p rollback ce { s with proj := { s.proj with pend := none, boundary := some (nextTick s) } }
  let s := raise 0x0000 0x0112 ce
    (p.editId.toNat + 2 ^ 32 * (allTasks.filter (fun t => p.affected.getLsbD t.toNat)).length + 2 ^ 40 * b2n rollback) s
  completeWait k (fun w => w = .edit) stOk ce (queueBale 2 0 ce [] s)

/-- EDIT_COMMIT_APPLY (R328, R329, R331, R339): at n − APPLY_LEAD the common boundary is found; sent again, the edit is applied and its
commit numbered at the end of the time before tick n, after every profile switch of that tick (log entry 104). -/
def execEditCommitApply (s : State) : Res :=
  .next (match s.proj.pend, s.proj.pkg with
  | some (k, rollback, earliest, last), some p =>
    let at_ := editInstant s (pendMap p rollback)
    if !alive s then s
    else if s.proj.boundary = some (nextTick s) then
      if switchDue s then s else commitEdit k rollback p (advanceTo (tickTime s (nextTick s)) s)
    else if !pendTick s earliest last || affectedOpen s p.affected || at_ < s.time.task then s
    else
      let s := advanceTask at_ s
      { s with proj := { s.proj with boundary := some (nextTick s) } }
  | _, _ => s)

/-- From the instant of the common boundary until the edit commit, triggers of an affected event task release nothing (R328): the boundary
has been found, or the edit was pending at that instant and no affected task was open then. -/
def editHolds (s : State) (t : BitVec 7) : Bool :=
  match s.proj.pend, s.proj.pkg with
  | some (_, rollback, earliest, last), some p =>
    p.affected.getLsbD t.toNat && (s.proj.boundary = some (nextTick s) ||
    (pendTick s earliest last && decide (editInstant s (pendMap p rollback) ≤ s.time.task) &&
    !affectedOpen s p.affected && decide (s.proj.pendAt ≤ editInstant s (pendMap p rollback)) &&
    allTasks.all (fun t => !p.affected.getLsbD t.toNat || decide ((task s t).closedAt ≤ editInstant s (pendMap p rollback)))))
  | _, _ => false

/-- An edit whose common boundary is the next base tick and that has not been applied is applied as the tick comes (R328). -/
def editAtTick (s : State) : State :=
  match s.proj.pend, s.proj.pkg with
  | some (k, rollback, _, _), some p => if s.proj.boundary = some (nextTick s) then commitEdit k rollback p s else s
  | _, _ => s

/-- EDIT_COMMIT_TIMEOUT (R331): WAIT_TICKS have passed. -/
def execEditCommitTimeout (s : State) : Res :=
  .next (match s.proj.pend with
  | some (k, _, _, last) =>
    if last < nextTick s then
      completeWait k (fun w => w = .edit) stTimeout 0 { s with proj := { s.proj with pend := none } }
    else s
  | none => s)

/-! ### Profiles (R334 to R342) -/

/-- The profile of a record (Table 4). -/
def profileOf (b : Bytes) : Profile :=
  { id := BitVec.ofNat 3 (fieldAt b 0 1), variant := BitVec.ofNat 3 (fieldAt b 1 1), ihlozMode := BitVec.ofNat 3 (fieldAt b 2 1)
    name := (padTo 32 b).drop 4 |>.take 8, enable := BitVec.ofNat 128 (fieldAt b 16 16) }

/-- A profile is the target of a pending switch. -/
def isTarget (s : State) (id : BitVec 3) : Bool :=
  (s.prof.vote.map (fun v => v.target == id)).getD false || (s.prof.localSwitch.map (fun x => x.1 == id)).getD false

/-- PROFILE_LOAD (R178, R334). -/
def execProfileLoad (d : Desc) (buf : Bytes) (s : State) : Res :=
  .next (bufferCommand d 0x0F true profileReserved freeBuffer buf (fun d buf =>
    let p := profileOf buf
    hostCommand d 0x0F true (fun s => [
      (!inStartUp s && s.prof.active.toNat != p.id.toNat && !isTarget s p.id, stMode), (d.bufLen.toNat = 32, stVerify),
      (pinsKeep s (fun t => (task s t).enabled) (p :: (profiles s).filter (fun x => x.id != p.id)), stSpace)])
    (fun s => ok d 0 { s with prof := { s.prof with table := Tab.set s.prof.table p.id.toNat p } })) s)

/-- The request of a member starts the vote, joins one for the same target, or meets one for another (R336, R338). -/
def requestVote (d : Desc) (p : Profile) (cycles : Nat) (s : State) : State :=
  let c := s.ihloz.cycle
  let v : Vote :=
    { target := p.id, mode := p.ihlozMode, requester := ownNode s, ring := some d.ring
      voted := 0, opposed := none, openCycle := none, lastCycle := c + cycles, agreed := none, fromCycle := c + 1
      agreedFrom := 0, stopped := false }
  match s.prof.vote with
  | none => defer d 0x10 .profile (setVote (some v) s)
  | some w =>
    if w.ring.isSome then fail d stLate s
    else if w.target = p.id then defer d 0x10 .profile (setVote (some { w with ring := some d.ring, lastCycle := c + cycles }) s)
    else if w.agreed.isNone && ownNode s < w.requester then defer d 0x10 .profile (setVote (some v) s)
    else fail d stLate s

/-- PROFILE_REQUEST (R335). -/
def execProfileRequest (d : Desc) (profile cycles : Byte) (s : State) : Res :=
  .next (hostCommand d 0x10 true (fun s => [
      (s.mode.mode = mStop || runs s, stMode), (decide (profile.toNat < 8) && cycles != 0, stVerify)])
    (fun s => match Tab.find s.prof.table profile.toNat with
      | none => fail d stAbsent s
      | some p =>
        if isMember s then requestVote d p cycles.toNat s
        else if s.prof.localSwitch.isSome then fail d stLate s
        else wantTarget (defer d 0x10 .profile { s with prof := { s.prof with localSwitch := some (p.id, d.ring) } })) s)

/-- The one-cycle window of the vote has closed (R336). -/
def windowClosed (s : State) (v : Vote) : Bool := (v.openCycle.map (fun c => decide (c < s.ihloz.cycle))).getD false

/-- PROFILE_VOTE_COMPLETE (R336, R337, R492). -/
def execProfileVoteComplete (s : State) : Res :=
  .next (match s.prof.vote with
  | some v =>
    if v.agreed.isNone && v.opposed.isNone && windowClosed s v && s.ihloz.members &&& ~~~v.voted = 0 then
      let c := s.ihloz.cycle
      wantTarget (setVote (some { v with agreed := some (c + 2), agreedFrom := c + 1 }) s)
    else s
  | none => s)

/-- The lowest node of a set. -/
def lowestNode (m : BitVec 32) : Nat := ((List.range 32).find? (fun n => m.getLsbD n)).getD 0

/-- The vote in progress ends without a switch (R338): a member voted against it, the cycles of the own request have passed, the
requester's frames no longer carry it, the requester is no member, or this module is none. -/
def voteFails (s : State) (v : Vote) : Bool :=
  v.opposed.isSome || (v.ring.isSome && decide (v.lastCycle < s.ihloz.cycle)) || v.stopped ||
  (v.openCycle.isSome && v.requester != ownNode s && !s.ihloz.members.getLsbD v.requester.toNat) || !isMember s

/-- PROFILE_VOTE_FAILED (R338): the vote ends in this module, and frames that still carry it start it no more. -/
def execProfileVoteFailed (s : State) : Res :=
  .next (match s.prof.vote with
  | some v =>
    if v.agreed.isNone && voteFails s v then
      let (reason, node) := match v.opposed with
        | some n => (1, n.toNat)
        | none => (0, lowestNode (s.ihloz.members &&& ~~~v.voted))
      let s := { s with prof := { s.prof with vote := none, ended := some (v.target, v.requester) }, chan := { s.chan with unpin := true } }
      let s := raise 0x0000 0x0114 0 (v.target.toNat + 2 ^ 8 * reason + 2 ^ 16 * node) s
      match v.ring with
      | some k => completeWait k (fun w => w = .profile) stTimeout 0 s
      | none => s
    else s
  | none => s)

/-- The switch to a profile under commit number `n` (R339 to R341): values of earlier commits reach their outputs first (R33). Releases
before the switch tick follow the enables that it replaces (R340). -/
def applyProfile (p : Profile) (n cycle : Nat) (here : Bool) (s : State) : State :=
  let old := s.prof.active
  let s := applyDue s.commit.direct { s with commit := { s.commit with direct := [] } }
  let s' := { s with
    prof := { s.prof with
      active := p.id.setWidth 8, vote := none, localSwitch := none, ended := none
      before := if s.time.running && s.time.t0Fixed then some (enableMask s) else none }
    tasks := Vector.ofFn (fun i => { s.tasks[i] with enabled := p.enable.getLsbD i.val, firstProfile := true })
    chan := { s.chan with unpin := true, txVariant := [] } }
  let s' := toMode p.ihlozMode s'
  let s' := refreshChans (settleOutputs directOutputs (wantNow s'))
  raise 0x0000 0x0113 n
    (old.toNat + 2 ^ 8 * p.id.toNat + 2 ^ 16 * (cycle % 2 ^ 32) + 2 ^ 48 * b2n here) s'

/-- The pending switch: target, agreed cycle number and the ring of the own request. -/
def pendingSwitch (s : State) : Option (BitVec 3 × Nat × Option (Fin 8)) :=
  match s.prof.localSwitch, s.prof.vote with
  | some (t, k), _ => some (t, 0, some k)
  | none, some v => v.agreed.map (fun c => (v.target, c, v.ring))
  | none, none => none

/-- PROFILE_SWITCH (R335, R339): in the 2 µs before the base tick that begins the agreed cycle, or before the next base tick, and before
an edit commit of the same tick. A standby in TRACK takes the switch from its bale. -/
def execProfileSwitch (s : State) : Res :=
  .next (match pendingSwitch s with
  | some (t, cycle, k) =>
    match Tab.find s.prof.table t.toNat with
    | some p =>
      if !switchDue s || s.mode.mode = mTrack || !alive s then s
      else
        let (n, s) := numberCommit (advanceTo (tickTime s (nextTick s) - 2) s)
        let s := queueBale 3 0 n [] (applyProfile p n cycle k.isSome s)
        match k with
          | some k => completeWait k (fun w => w = .profile) stOk cycle s
          | none => s
    | none => s
  | none => s)

end Sys2Proof.Machine
end

