-- ==== Sys2Proof/Machine/HostIf.lean ====
section
/-! DEFINITION. BAR0, the doorbell and echo lines, MSI-X, the PCI Express link (Host Interface; R343 to R361, R369, R378, R610,
R699). -/

namespace Sys2Proof.Machine

/-! ### Messages (R352) -/

/-- Send the message of an MSI-X vector: a masked one stays pending (PCI Express). -/
def sendVector (v : BitVec 5) (s : State) : State :=
  let base := 16 * v.toNat
  let masked := s.host.msixMask || (Mem.get s.host.msix (base + 12)).getLsbD 0
  if !s.host.msixEnable then s
  else if masked then { s with host := { s.host with msixPending := s.host.msixPending ||| BitVec.ofNat 32 (2 ^ v.toNat) } }
  else
    hostWrite (leNat (Mem.read s.host.msix base 8)) (Mem.read s.host.msix (base + 8) 4)
      { s with host := { s.host with msixPending := s.host.msixPending &&& ~~~(BitVec.ofNat 32 (2 ^ v.toNat)) } }

/-- A message is due for IRQ settings: sent now, or when COALESCE_US ends; true when it waits. COALESCE_US counts in task time (R352; DESIGN
CHOICE, log entry 115). -/
def irqNow (irq : Irq) (last : Option Nat) (now : Nat) : Bool :=
  match last with
  | some t => decide (t + irq.coalesceUs.toNat ≤ now)
  | none => true

/-- The message of ring k after an echo line that advanced its completion producer. One that MASK suppresses is dropped, and not sent when MASK
clears (R352; DESIGN CHOICE, log entry 115). -/
def ringMessage (k : Fin 8) (s : State) : State :=
  let r := ring s k
  if r.irqNow.mask then s
  else if irqNow r.irqNow r.lastMsg (nowUs s) then
    sendVector r.irqNow.vector (modRing k (fun r => { r with lastMsg := some (nowUs s), msgDue := false }) s)
  else modRing k (fun r => { r with msgDue := true }) s

/-- The message of the event ring. -/
def evtMessage (s : State) : State :=
  let i := s.host.evtIrqNow
  if i.mask then s
  else if irqNow i s.host.evtLastMsg (nowUs s) then
    sendVector i.vector { s with host := { s.host with evtLastMsg := some (nowUs s), evtMsgDue := false } }
  else { s with host := { s.host with evtMsgDue := true } }

/-- MSIX_COALESCE_EXPIRE (R352): ring 0 to 7, or 8 for the event ring. The clocks move to the end of the limit. -/
def execMsixCoalesceExpire (ring_ : Fin 9) (s : State) : Res :=
  .next (if !(s.host.linkUp && served s) then s
  else if h : ring_.val < 8 then
    let k : Fin 8 := ⟨ring_.val, h⟩
    let r := ring s k
    if r.msgDue then
      ringMessage k (modRing k (fun r => { r with msgDue := false })
        (advanceTo ((r.lastMsg.getD 0) + r.irqNow.coalesceUs.toNat) s))
    else s
  else if s.host.evtMsgDue then
    evtMessage (advanceTo ((s.host.evtLastMsg.getD 0) + s.host.evtIrqNow.coalesceUs.toNat)
      { s with host := { s.host with evtMsgDue := false } })
  else s)

/-! ### BAR0 (R347 to R351) -/

/-- The lower half of an address register; bits 5 to 0 are ignored. -/
def setLo (a : DWord) (v : Word) : DWord := BitVec.ofNat 64 (a.toNat / 2 ^ 32 * 2 ^ 32 + v.toNat / 64 * 64)

/-- The upper half of an address register. -/
def setHi (a : DWord) (v : Word) : DWord := BitVec.ofNat 64 (v.toNat * 2 ^ 32 + a.toNat % 2 ^ 32)

/-- An IRQ register as written. -/
def irqOf (v : Word) : Irq := { vector := v.extractLsb' 0 5, mask := v.getLsbD 8, coalesceUs := v.extractLsb' 16 16 }

/-- ENABLE changes from 0 to 1: every index starts at zero, and the first poll falls at the next base tick (R349). -/
def enableSet (s : State) : State :=
  { s with host := { s.host with
      enable := true, polling := false, evtProd := 0, nextPoll := none, polled := false
      rings := s.host.rings.map (fun (r : Ring) => { r with cmdCons := 0, cplProd := 0, waiting := false }) } }

/-- ENABLE changes from 1 to 0: no further command starts, and the echo line is written once more (R350). -/
def enableClear (s : State) : State :=
  { s with host := { s.host with enable := false, nextPoll := none, polled := false, echoDue := true } }

/-- HI_CTRL as written. -/
def writeCtrl (v : Word) (s : State) : State :=
  let s' := { s with host := { s.host with timeoutMs := v.extractLsb' 16 16 } }
  if v.getLsbD 0 && !s.host.enable then enableSet s'
  else if !v.getLsbD 0 && s.host.enable then enableClear s'
  else s'

/-- RING_CFG of ring k as written; a ring taken into use starts at index zero (R348, R351). -/
def writeCfg (k : Fin 8) (v : Word) (s : State) : State :=
  let on := s.host.enable
  let starts := v.getLsbD 31 && !(ring s k).en && k != 0
  modRing k (fun r => { r with
    en := v.getLsbD 31
    size := if on then r.size else v.extractLsb' 0 13
    cmdCons := if starts then 0 else r.cmdCons
    cplProd := if starts then 0 else r.cplProd
    waiting := r.waiting && !starts }) s

/-- A register of ring k as written, by its offset in the ring's 32 bytes. -/
def writeRing (k : Fin 8) (off : Nat) (v : Word) (s : State) : State :=
  let on := s.host.enable
  let set (f : Ring → Ring) : State := if on then s else modRing k f s
  match off with
  | 0x00 => set (fun r => { r with cmdBase := setLo r.cmdBase v })
  | 0x04 => set (fun r => { r with cmdBase := setHi r.cmdBase v })
  | 0x08 => set (fun r => { r with cplBase := setLo r.cplBase v })
  | 0x0C => set (fun r => { r with cplBase := setHi r.cplBase v })
  | 0x10 => writeCfg k v s
  | 0x14 => modRing k (fun r => { r with irq := irqOf v }) s
  | _ => s

/-- A word of the MSI-X table as written; a vector that is unmasked sends its pending message (PCI Express). -/
def writeMsix (off : Nat) (v : Word) (s : State) : State :=
  let s := { s with host := { s.host with msix := Mem.setAll s.host.msix off (leBytes 4 v.toNat) } }
  let k := off / 16
  if off % 16 = 12 && !v.getLsbD 0 && s.host.msixPending.getLsbD k then sendVector (BitVec.ofNat 5 k) s else s

/-- A 32-bit BAR0 write at an offset (Table 1); every other offset ignores it. -/
def writeBar0 (off : Nat) (v : Word) (s : State) : State :=
  let h := s.host
  let set (f : HostIf → HostIf) : State := if h.enable then s else { s with host := f h }
  if off = 0x20 then writeCtrl v s
  else if off = 0x24 then { s with host := { h with pollUs := v.extractLsb' 0 24 } }
  else if off = 0x30 then set (fun h => { h with dbAddr := setLo h.dbAddr v })
  else if off = 0x34 then set (fun h => { h with dbAddr := setHi h.dbAddr v })
  else if off = 0x38 then set (fun h => { h with echoAddr := setLo h.echoAddr v })
  else if off = 0x3C then set (fun h => { h with echoAddr := setHi h.echoAddr v })
  else if off = 0x40 then set (fun h => { h with evtBase := setLo h.evtBase v })
  else if off = 0x44 then set (fun h => { h with evtBase := setHi h.evtBase v })
  else if off = 0x48 then
    { s with host := { h with evtEn := v.getLsbD 31, evtSize := if h.enable then h.evtSize else v.extractLsb' 0 13 } }
  else if off = 0x4C then { s with host := { h with evtIrq := irqOf v } }
  else if off = 0x50 then set (fun h => { h with exportBase := setLo h.exportBase v })
  else if off = 0x54 then set (fun h => { h with exportBase := setHi h.exportBase v })
  else if off = 0x58 then set (fun h => { h with exportSize := v.extractLsb' 0 25 })
  else if off = 0x60 then set (fun h => { h with chanBase := setLo h.chanBase v })
  else if off = 0x64 then set (fun h => { h with chanBase := setHi h.chanBase v })
  else if off = 0x68 then set (fun h => { h with chanCount := v.extractLsb' 0 13 })
  else if 0x100 ≤ off ∧ off < 0x200 then writeRing ⟨(off - 0x100) / 32 % 8, by omega⟩ ((off - 0x100) % 32) v s
  else if 0x8000 ≤ off ∧ off < 0x8200 then writeMsix (off - 0x8000) v s
  else s

/-- An access that is not an aligned one of 32 bits leaves its register unpredictable (R380): untouched, or written with a free value. -/
def misaligned (off : Nat) (s : State) : State :=
  let n := takeFree s
  if Config.freeBit n.1 then writeBar0 (off / 4 * 4) (Config.freeWord n.1) n.2 else n.2

/-- BAR0 is reached: the link is up and not in training. -/
def bar0Open (s : State) : Bool := s.host.linkUp && !s.host.training && served s

/-- HI_CTRL_ENABLE_SET (R349). -/
def execHiCtrlEnableSet (value : Word) (s : State) : Res :=
  .next (if bar0Open s && value.getLsbD 0 && !s.host.enable then writeCtrl value s else s)

/-- HI_CTRL_ENABLE_CLEAR (R350). -/
def execHiCtrlEnableClear (value : Word) (s : State) : Res :=
  .next (if bar0Open s && !value.getLsbD 0 && s.host.enable then writeCtrl value s else s)

/-- RING_CFG_EN_SET (R348, R351). -/
def execRingCfgEnSet (ring_ : Fin 8) (value : Word) (s : State) : Res :=
  .next (if bar0Open s && value.getLsbD 31 && !(ring s ring_).en then writeCfg ring_ value s else s)

/-- RING_CFG_EN_CLEAR (R348, R351). -/
def execRingCfgEnClear (ring_ : Fin 8) (value : Word) (s : State) : Res :=
  .next (if bar0Open s && !value.getLsbD 31 && (ring s ring_).en then writeCfg ring_ value s else s)

/-- BAR0_WRITE (R5, R16, R18, R347, R348). -/
def execBar0Write (access : BarAccess) (value : Word) (s : State) : Res :=
  .next (if !bar0Open s then s
  else if access.whole && access.offset.toNat % 4 = 0 then writeBar0 access.offset.toNat value s
  else misaligned access.offset.toNat s)

/-! ### Polls and lines (R353 to R355, R361, R378) -/

/-- POLL_US in force: 1 to 9 act as 10, values above 10,000 as 10,000. -/
def pollPeriod (us : BitVec 24) : Nat := min 10000 (max 10 us.toNat)

/-- At a base tick a poll falls due, when it is the first or POLL_US in force since the last poll is 0 (R348, R349, R354). -/
def tickPoll (s : State) : State :=
  if s.host.enable && (!s.host.polling || s.host.pollNow = 0) then
    { s with host := { s.host with nextPoll := some (nowUs s) } }
  else s

/-- DOORBELL_POLL (R348, R354): the read of the doorbell line is issued. The clocks move to the poll's instant. -/
def execDoorbellPoll (s : State) : Res :=
  .next (match s.host.nextPoll with
  | none => s
  | some t =>
    if !(s.host.enable && bar0Open s) then s
    else
      let s := advanceTo t s
      let h := s.host
      { s with host := { h with
          polling := true, polled := true, pollTick := s.time.tickNo, pollNow := h.pollUs
          timeoutNow := h.timeoutMs, evtIrqNow := h.evtIrq
          nextPoll := if h.pollUs = 0 then none else some (t + pollPeriod h.pollUs)
          rings := h.rings.map (fun (r : Ring) => { r with enNow := r.en, irqNow := r.irq }) } })

/-- HOST_SEQ of a fetched line, with HOST_SILENT (R378). -/
def takeSeq (seq : Word) (s : State) : State :=
  let fresh : State := { s with host := { s.host with hostSeq := some (seq, nowUs s), silent := false } }
  match s.host.hostSeq with
  | none => fresh
  | some (q, t) =>
    if q != seq then fresh
    else if s.host.timeoutNow != 0 && !s.host.silent && decide (t + 1000 * s.host.timeoutNow.toNat ≤ nowUs s) then
      raise 0x3000 0x0302 0 seq.toNat { s with host := { s.host with silent := true } }
    else s

/-- EVENTS_LOST is raised and posted before anything else, folded into its last record or not; then the folded records that it ends. -/
def raiseLost (n : Nat) (s : State) : State :=
  match foldsNow s.recorder 0x3000 0x0303 with
  | some o =>
    let s := raiseFold o (stamp s) 0 n s
    match (s.recorder.last.toList ++ s.recorder.prev.toList).find? (fun p => p.1 = o) with
    | some p => repost [p] s
    | none => s
  | none =>
    let r := s.recorder
    let e := newRecord 0x3000 0x0303 (stamp s) 0 n r
    repost (if recRoom r then endedBy 0x3000 0x0303 r else []) (postEvent e { s with recorder := keepRecord e r })

/-- EVENTS_LOST is posted first when room returns (R361). -/
def lostEvents (s : State) : State :=
  if s.host.evtLost != 0 && evtRoom s.host then raiseLost s.host.evtLost { s with host := { s.host with evtLost := 0 } } else s

/-- DOORBELL_FETCH_DONE (R353, R361, R378): the indices are taken; commands that may now start are rows of their own. -/
def execDoorbellFetchDone (line : Bytes) (s : State) : Res :=
  .next (if !(s.host.polled && s.host.enable && bar0Open s) then s
  else
    let (line, s) := takeLine line s
    let h := s.host
    let s' := { s with host := { h with
      polled := false, evtCons := fieldAt line 32 2, echoDue := true
      rings := h.rings.mapFinIdx (fun k (r : Ring) _ => { r with
        cmdProd := fieldAt line (2 * k) 2, cplCons := fieldAt line (16 + 2 * k) 2 }) } }
    lostEvents (takeSeq (BitVec.ofNat 32 (fieldAt line 36 4)) (fetchResult 0 true 0 0 (misusedRings s s'))))

/-- The 64 bytes of the echo line (Table 10). -/
def echoBytes (s : State) : Bytes :=
  let h := s.host
  let seq := leBytes 4 (h.echoSeq + 1).toNat
  let ns := s.time.lc / nsUnit
  seq ++ h.rings.toList.flatMap (fun r => leBytes 2 r.cmdCons) ++ h.rings.toList.flatMap (fun r => leBytes 2 r.cplProd) ++
  leBytes 2 h.evtProd ++ zeros 2 ++ leBytes 8 h.pollTick ++ leBytes 6 (ns / 1000000000) ++ zeros 2 ++
  leBytes 4 (ns % 1000000000) ++ seq

/-- ECHO_LINE_WRITE (R350, R352, R355, R357): the line, then the messages of the rings that it advances. -/
def execEchoLineWrite (s : State) : Res :=
  .next (if !(s.host.echoDue && bar0Open s) then s
  else
    let fresh := (List.finRange 8).filter (fun k => (ring s k).fresh)
    let evt := s.host.evtFresh
    let s := hostWrite s.host.echoAddr.toNat (echoBytes s) s
    let h := s.host
    let idle := (List.finRange 8).all (fun k => (ring s k).busy.isNone)
    let s := { s with host := { h with
      echoSeq := h.echoSeq + 1, echoDue := false, evtFresh := false, polling := h.polling && (h.enable || !idle)
      rings := h.rings.map (fun (r : Ring) => { r with fresh := false }) } }
    let s := fresh.foldl (fun s k => ringMessage k s) s
    if evt then evtMessage s else s)

/-- FOLD_REPOST (R610): the folded records that the event ring has not received since they changed are posted again. -/
def execFoldRepost (s : State) : Res :=
  .next (
    let due := (s.recorder.prev.toList ++ s.recorder.last.toList).filter (fun p => has s.recorder.dirty p.1)
    due.foldl (fun s p => postEvent p.2 { s with recorder := { s.recorder with dirty := dropFrom s.recorder.dirty p.1 } }) s)

/-- PCIE_COMPLETION_TIMEOUT (R369): a read of host memory ends without its data. -/
def execPcieCompletionTimeout (kind : FetchKind) (ring_ : Fin 8) (tag : Half) (addr : DWord) (s : State) : Res :=
  .next (if !(s.host.enable && bar0Open s) then s
  else match kind with
  | .doorbell =>
    if s.host.polled then
      fetchResult 0 false 0 s.host.dbAddr.toNat { s with host := { s.host with polled := false } }
    else s
  | .descriptor =>
    if !mayStart ring_ s then s
    else
      let s := modRing ring_ (fun r => { r with cmdCons := (r.cmdCons + 1) % ringLen r.size, waiting := false }) s
      fetchResult 1 false ring_.val addr.toNat (complete ring_ tag stVerify 0 s)
  | .buffer =>
    if !mayStart ring_ s then s
    else
      let s := modRing ring_ (fun r => { r with cmdCons := (r.cmdCons + 1) % ringLen r.size, waiting := false }) s
      fetchResult 2 false ring_.val addr.toNat (fetchResult 1 true 0 0 (complete ring_ tag stVerify 0 s))
  | .channelEntry => fetchResult 3 false ring_.val addr.toNat
      { s with chan := { s.chan with fetchFails := satAdd 32 s.chan.fetchFails 1 } })

/-! ### The link (R343 to R346, R699) -/

/-- What the function's configuration space reports (R344). -/
structure ConfigSpace where
  vendorId : Half
  deviceId : Half
  subsystemId : Half
  baseClass : Byte
  subClass : Byte
  bar0Bits : Nat
  bar0Prefetch : Bool
  bar0Size : Nat
  otherBars : Nat
  intx : Bool
  srIov : Bool
  rom : Bool
  deriving DecidableEq, Repr

/-- The configuration space of this module (R344); the vendor identifier is Plovique's, which the manual does not give. -/
def configSpace (s : State) : ConfigSpace :=
  { vendorId := Config.vendorId, deviceId := 0xB264, subsystemId := s.factory.variant.setWidth 16, baseClass := 0x08, subClass := 0x80
    bar0Bits := 64, bar0Prefetch := false, bar0Size := 0x10000, otherBars := 0, intx := false, srIov := false, rom := false }

/-- PCIE_LINK_UP (R343, R346, R699), also at the end of the training that a hot reset starts (R352; log entry 10). -/
def execPcieLinkUp (setup : LinkSetup) (width : BitVec 3) (s : State) : Res :=
  let gen := setup.gen
  .next (if (s.host.linkUp && !s.host.training) || s.host.perst || !alive s || (inStartUp s && decide (s.mode.phase < 4)) ||
      gen = 0 || decide (4 < gen.toNat) || !(width = 1 || width = 2 || width = 4) then s
  else
    let s := { s with host := { s.host with
      linkUp := true, training := false, gen := gen, width := width, msixEnable := setup.msix, msixMask := setup.mask } }
    if gen = 4 && width = 4 then s else raise 0x3000 0x0305 0 (gen.toNat + 8 * width.toNat) s)

/-- The host interface returns to its reset values, and HOST_LOST is raised (R345); the link stays up or goes down. A command in progress
stays so until it ends, with its completion discarded. -/
def hostReset (cause : Nat) (up training : Bool) (s : State) : State :=
  let h := s.host
  let lost := (h.rings.toList.filter (fun r => r.busy.any (fun b => !b.discard))).length
  raise 0x3000 0x0301 0 (cause + 2 ^ 8 * lost)
    { s with
      host := { HostIf.zero with
        linkUp := up, training := training, gen := if up then h.gen else 0, width := if up then h.width else 0
        perst := h.perst || cause = 4
        rings := h.rings.map (fun (r : Ring) => { Ring.zero with busy := r.busy.map (fun b => { b with discard := true }) })
        echoSeq := h.echoSeq, pollTick := h.pollTick, evtLost := h.evtLost, failing := h.failing
        msixEnable := up && h.msixEnable, msixMask := up && h.msixMask }
      commit := { s.commit with exports := s.commit.exports.map (fun x => (x.1, { x.2 with flight := none, due := none })) } }

/-- PCIE_LINK_DOWN (R345). -/
def execPcieLinkDown (s : State) : Res := .next (if s.host.linkUp && alive s then hostReset 0 false false s else s)

/-- HOT_RESET (R345, R699): the link returns through training. -/
def execHotReset (s : State) : Res := .next (if s.host.linkUp && alive s then hostReset 1 true true s else s)

/-- FUNCTION_LEVEL_RESET (R345, R699): the link stays as it is. -/
def execFunctionLevelReset (s : State) : Res :=
  .next (if s.host.linkUp && alive s then hostReset 2 true s.host.training s else s)

/-- SURPRISE_REMOVAL (R345). -/
def execSurpriseRemoval (s : State) : Res := .next (if s.host.linkUp && alive s then hostReset 3 false false s else s)

/-- PERST_N_ASSERT (R699): the link does not train while it stays asserted, whatever the module does. -/
def execPerstNAssert (s : State) : Res :=
  .next (if s.host.perst then s
  else if alive s then hostReset 4 false false s
  else { s with host := { s.host with perst := true, linkUp := false } })

/-- PERST_N_RELEASE (R699): the link may train again. -/
def execPerstNRelease (s : State) : Res := .next { s with host := { s.host with perst := false } }

/-! ### BAR0 as read (R16, R18, R343, R347) -/

/-- STATUS (Table 4). -/
def statusWord (s : State) : Nat :=
  s.mode.mode.toNat + 2 ^ 4 * (if inStartUp s then s.mode.phase else 0) + 2 ^ 8 * s.pair.role.toNat + 2 ^ 10 * s.host.gen.toNat +
  2 ^ 13 * s.host.width.toNat

/-- HI_CTRL (Table 5). -/
def ctrlWord (h : HostIf) : Nat := b2n h.enable + 2 * b2n h.polling + 2 ^ 16 * h.timeoutMs.toNat

/-- RING_CFG or EVT_CFG (Table 6). -/
def cfgWord (size : BitVec 13) (en : Bool) : Nat := size.toNat + 2 ^ 31 * b2n en

/-- RING_IRQ or EVT_IRQ (Table 7). -/
def irqWord (i : Irq) : Nat := i.vector.toNat + 2 ^ 8 * b2n i.mask + 2 ^ 16 * i.coalesceUs.toNat

/-- RING_STATE (Table 8). -/
def ringState (r : Ring) : Nat := r.cmdCons % 2 ^ 16 + 2 ^ 16 * b2n r.busy.isSome + 2 ^ 17 * b2n r.waiting

/-- The lower and upper half of an address register. -/
def half (hi : Bool) (a : DWord) : Nat := if hi then a.toNat / 2 ^ 32 else a.toNat % 2 ^ 32

/-- A register of a ring, by its offset in the ring's 32 bytes. -/
def readRing (r : Ring) (off : Nat) : Nat :=
  match off with
  | 0x00 => half false r.cmdBase
  | 0x04 => half true r.cmdBase
  | 0x08 => half false r.cplBase
  | 0x0C => half true r.cplBase
  | 0x10 => cfgWord r.size r.en
  | 0x14 => irqWord r.irq
  | 0x18 => ringState r
  | _ => 0

/-- What a 32-bit read of BAR0 at an aligned offset returns (Tables 1 to 8): reserved bits, write-only bits and offsets that Table 1 does not
list read zero. A read has no row and no effect (R16, R18). -/
def readBar0 (s : State) (off : Nat) : Nat :=
  let h := s.host
  match off with
  | 0x00 => identWord s
  | 0x04 => 1
  | 0x08 => half false s.factory.serial
  | 0x0C => half true s.factory.serial
  | 0x10 => fwVersion s
  | 0x14 => capsWord s
  | 0x18 => statusWord s
  | 0x1C => slotWord s
  | 0x20 => ctrlWord h
  | 0x24 => h.pollUs.toNat
  | 0x30 => half false h.dbAddr
  | 0x34 => half true h.dbAddr
  | 0x38 => half false h.echoAddr
  | 0x3C => half true h.echoAddr
  | 0x40 => half false h.evtBase
  | 0x44 => half true h.evtBase
  | 0x48 => cfgWord h.evtSize h.evtEn
  | 0x4C => irqWord h.evtIrq
  | 0x50 => half false h.exportBase
  | 0x54 => half true h.exportBase
  | 0x58 => h.exportSize.toNat
  | 0x60 => half false h.chanBase
  | 0x64 => half true h.chanBase
  | 0x68 => h.chanCount.toNat
  | 0x9000 => h.msixPending.toNat
  | _ =>
    if 0x100 ≤ off ∧ off < 0x200 then readRing (ring s ⟨(off - 0x100) / 32 % 8, by omega⟩) ((off - 0x100) % 32)
    else if 0x8000 ≤ off ∧ off < 0x8200 then leNat (Mem.read h.msix (off - 0x8000) 4)
    else 0

end Sys2Proof.Machine
end

