-- ==== Sys2Proof/Machine/Boot.lean ====
section
/-! DEFINITION. What start-up takes from the non-volatile stores: the choice between copies, commit numbering, the
recorder, the project; task time and its origin; and a start-up that a fault ends (Retain Store and Event Recorder,
R604 to R607, R707; Power, Clocks and Start-up, R646 to R651, R695). -/

namespace Sys2Proof.Machine

/-! ### Choosing between copies (R604 to R606) -/

/-- The first failing page of a retained copy whose header page is `base`, none when the copy is valid (R604). -/
def copyFail (m : Mem) (base : Nat) : Option Nat :=
  let h := pageOf m base
  if !intact h then some 0
  else ((List.range (min 4095 (fieldAt h 16 2))).find? (fun j =>
    let p := pageOf m (base + 1 + j)
    !(intact p && pageSeq p = pageSeq h))).map (fun j => j + 1)

/-- Whether a copy of one page fails. -/
def pageFail (m : Mem) (p : Nat) : Option Nat := if intact (pageOf m p) then none else some 0

/-- Every byte of `n` pages from page `p` on reads zero. -/
def blankPages (m : Mem) (p n : Nat) : Bool :=
  m.all (fun c => decide (c.1 < 64 * p) || decide (64 * (p + n) ≤ c.1) || c.2 = 0)

/-- RETAIN_COPY_INVALID of a copy (0 A, 1 B) of a pair, unless all its pages read zero. -/
def copyInvalidEvent (pair copy page : Nat) (blank : Bool) (s : State) : State :=
  if blank then s else raise 0x9000 0x0901 0 (pair + 4 * copy + 2 ^ 8 * page) s

/-- One copy of a pair as start-up finds it: its first failing page, whether all its pages read zero, and its SEQ. -/
structure CopyFound where
  fail : Option Nat
  blank : Bool
  seq : Word
  deriving DecidableEq, Repr

/-- The choice between copies A and B (Table 7): 0 none, 1 A, 2 B, with the events of its row. -/
def chooseCopy (pair : Nat) (a b : CopyFound) (same : Bool) (s : State) : BitVec 2 × State :=
  match a.fail, b.fail with
  | some i, some j => (0, copyInvalidEvent pair 1 j b.blank (copyInvalidEvent pair 0 i a.blank s))
  | none, some j => (1, copyInvalidEvent pair 1 j b.blank s)
  | some i, none => (2, copyInvalidEvent pair 0 i a.blank s)
  | none, none =>
    if a.seq < b.seq then (2, s)
    else if b.seq < a.seq || same then (1, s)
    else (1, raise 0x9000 0x0902 0 (pair + 2 ^ 32 * a.seq.toNat) s)

/-- A copy of one page. -/
def foundPage (m : Mem) (p : Nat) : CopyFound :=
  { fail := pageFail m p, blank := blankPages m p 1, seq := pageSeq (pageOf m p) }

/-- A retained copy. -/
def foundCopy (m : Mem) (base : Nat) : CopyFound :=
  { fail := copyFail m base, blank := blankPages m base 4096, seq := pageSeq (pageOf m base) }

/-- DATA of a retained copy: its header page and its data pages. -/
def copyContent (m : Mem) (base : Nat) : Bytes :=
  (List.range (fieldAt (pageOf m base) 16 2 + 1)).flatMap (fun j => (pageOf m (base + j)).take 56)

/-- The counters of a counters page (Table 8). -/
def readCounters (b : Bytes) : Counters :=
  { claim := BitVec.ofNat 32 (fieldAt b 0 4), highestCommit := fieldAt b 4 8, powerCycles := fieldAt b 12 4
    wdtExpiries := fieldAt b 16 2, savesAbandoned := fieldAt b 20 4 }

/-- The retained copies, counters and recorder index that start-up chooses (R605, R606). -/
def chooseCopies (s : State) : State :=
  let m := s.ret.mram
  let a := foundCopy m 8192
  let b := foundCopy m 12288
  let (ret, s) := chooseCopy 0 a b (copyContent m 8192 = copyContent m 12288) s
  let ca := foundPage m 256
  let cb := foundPage m 257
  let (ctr, s) := chooseCopy 1 ca cb ((pageOf m 256).take 56 = (pageOf m 257).take 56) s
  let s := if ctr = 0 then raise 0x9000 0x0904 0 0 s else s
  let ia := foundPage m 258
  let ib := foundPage m 259
  let (idx, s) := chooseCopy 2 ia ib ((pageOf m 258).take 56 = (pageOf m 259).take 56) s
  let seqOf (c : BitVec 2) (a b : CopyFound) : Word := if c = 1 then a.seq else if c = 2 then b.seq else 0
  { s with ret := { s.ret with
      retCopy := (ret, seqOf ret a b), aValid := a.fail.isNone, bValid := b.fail.isNone
      ctrCopy := (ctr, seqOf ctr ca cb), idxCopy := (idx, seqOf idx ia ib)
      ctr := if ctr = 1 then readCounters (pageOf m 256) else if ctr = 2 then readCounters (pageOf m 257)
        else { claim := 0, highestCommit := 0, powerCycles := 0, wdtExpiries := 0, savesAbandoned := 0 } } }

/-- Pages of a copy of a settings block that are intact and carry the SEQ of its first one make it valid (R604). -/
def foundSettings (m : Mem) (base n : Nat) : CopyFound :=
  let seq := pageSeq (pageOf m base)
  let blank := blankPages m base n
  { fail := if blank then some 0 else (List.range n).find? (fun j =>
      let p := pageOf m (base + j)
      !(intact p && pageSeq p = seq))
    blank := blank, seq := seq }

/-- DATA of a copy of a settings block. -/
def settingsContent (m : Mem) (base n : Nat) : Bytes := (List.range n).flatMap (fun j => (pageOf m (base + j)).take 56)

/-- DATA of the events of the settings pair of a block (R613). -/
def settingsInvalid (block copy page : Nat) (blank : Bool) (s : State) : State :=
  if blank then s else raise 0x9000 0x0901 0 (3 + 4 * copy + 2 ^ 8 * page + 2 ^ 32 * block) s

/-- The copy of a settings block that start-up chooses, by Table 7, with the events of its row (R605, R613). -/
def chooseSettings (block : Nat) (a b : CopyFound) (same : Bool) (s : State) : BitVec 2 × State :=
  match a.fail, b.fail with
  | some i, some j => (0, settingsInvalid block 1 j b.blank (settingsInvalid block 0 i a.blank s))
  | none, some j => (1, settingsInvalid block 1 j b.blank s)
  | some i, none => (2, settingsInvalid block 0 i a.blank s)
  | none, none =>
    if a.seq < b.seq then (2, s)
    else if b.seq < a.seq || same then (1, s)
    else (1, raise 0x9000 0x0902 0 (3 + 2 ^ 16 * block + 2 ^ 32 * a.seq.toNat) s)

/-- The settings block as start-up finds it: the chosen copy comes into force; with no valid copy the block takes its defaults, and
SETTINGS_RESET is raised with cause 1 (R605, R606, R670). The stored format version of a block of which nothing is stored is no value of
the manual: it is free (log entry 119). -/
def readSettings (s : State) (block_ : Nat) : State :=
  let len := (blockLen block_).getD 0
  let n := settingsCount len
  let m := s.ret.mram
  let a := foundSettings m (settingsBase block_ 1) n
  let b := foundSettings m (settingsBase block_ 2) n
  let same := settingsContent m (settingsBase block_ 1) n = settingsContent m (settingsBase block_ 2) n
  let (c, s) := chooseSettings block_ a b same s
  if c = 0 then
    let k := takeFree s
    let s := { k.2 with ret := { k.2.ret with blocks := Tab.del k.2.ret.blocks block_, setCopy := Tab.del k.2.ret.setCopy block_ } }
    raise 0xC000 0x0C05 0 (block_ + 2 ^ 16 * (Config.freeNat k.1 % 256) + 2 ^ 24) s
  else
    { s with ret := { s.ret with
        blocks := Tab.set s.ret.blocks block_ ((settingsContent m (settingsBase block_ c.toNat) n).take len)
        setCopy := Tab.set s.ret.setCopy block_ (c, if c = 1 then a.seq else b.seq) } }

/-- The settings blocks of the units present are read in phase 3 (R605, R606), and what start-up has taken from them so far is taken anew. -/
def readAllSettings (s : State) : State :=
  let s := (blockIds.filter (fun b => !blockAbsent s b)).foldl readSettings s
  { s with
    time := { s.time with tickUs := fieldAt (block s 0x0101) 0 4 }
    power := { s.power with
      rideMs := if s.power.interrupted then s.power.rideMs else bitsOf (fieldAt (block s 0x0603) 0 1) 3 0 }
    yard := { s.yard with rules := block s 0x0102 } }

/-- TOTAL of the chosen recorder index copy, 0 with none (R606, R705). -/
def storedTotal (r : RetSt) : Nat :=
  if r.idxCopy.1 = 1 then fieldAt (pageOf r.mram 258) 0 8
  else if r.idxCopy.1 = 2 then fieldAt (pageOf r.mram 259) 0 8 else 0

/-- The records that this start-up has raised so far are numbered on from TOTAL (R705). -/
def rebase (n : Nat) (r : RecSt) : RecSt :=
  { r with
    total := n + r.total, dirty := r.dirty.map (fun o => n + o), queue := r.queue.map (fun e => (n + e.1, e.2))
    last := r.last.map (fun e => (n + e.1, e.2)), prev := r.prev.map (fun e => (n + e.1, e.2)) }

/-- The largest commit number found in the retain store, none where no copy is valid; a HIGHEST_COMMIT of 0 counts (R113, R114, R607). -/
def foundCommit (r : RetSt) : Option Nat :=
  let l := (if r.ctrCopy.1 = 0 then [] else [r.ctr.highestCommit]) ++
    (if r.aValid then [fieldAt (pageOf r.mram 8192) 0 8] else []) ++ (if r.bValid then [fieldAt (pageOf r.mram 12288) 0 8] else [])
  l.max?

/-- What phase 3 reads from the retain store: copies, counters, settings, recording and numbering (R114, R605, R606, R705). -/
def readStore (s : State) : State :=
  let s := readAllSettings (chooseCopies s)
  let s := { s with recorder := rebase (storedTotal s.ret) s.recorder }
  match foundCommit s.ret with
  | some n => { s with commit := { s.commit with last := n, next := max s.commit.next (n + 2 ^ 32) } }
  | none => s

/-! ### Phase 3 writes (R607, R627, R707) -/

/-- A latched record is raised and written to its slot at once; its pages join those written so far. -/
def writeLatched (src code data : Nat) (x : List (Nat × Bytes) × State) : List (Nat × Bytes) × State :=
  let s := raise src code 0 data x.2
  match s.recorder.last with
  | some (o, e) =>
    let p := recordPage s.ret o e
    (x.1 ++ [p, indexPage (storePage p.1 p.2 s.ret) s.recorder.total], { s with
      ret := writeRecord s.recorder.total o e s.ret
      recorder := { s.recorder with queue := s.recorder.queue.filter (fun x => x.1 != o) } })
  | none => (x.1, s)

/-- Page writes of phase 3: the counters page, and each latched record with its index page. -/
def phase3Pages (s : State) : Nat := 1 + 2 * (b2n s.wdt.latch.isSome + b2n s.power.coreLatch.isSome)

/-- The writes of phase 3: their pages in order, and what they leave. -/
def phase3Run (s : State) : List (Nat × Bytes) × State :=
  let c := s.ret.ctr
  let c := { c with
    powerCycles := satAdd 32 c.powerCycles 1
    wdtExpiries := if s.wdt.latchCount then satAdd 16 c.wdtExpiries 1 else c.wdtExpiries }
  let r := { s.ret with ctr := c }
  let p := countersPage r none
  let s := { s with ret := { storePage p.1 p.2 r with ctrCopy := (nextCopy r.ctrCopy.1, nextSeq r.ctrCopy) } }
  let x := match s.wdt.latch with
    | some d => writeLatched 0xA000 0x0A01 d.toNat ([p], s)
    | none => ([p], s)
  let x := match s.power.coreLatch with
    | some above => writeLatched 0xB000 0x0B04 (if above then 2 else 1) x
    | none => x
  (x.1, { x.2 with
    wdt := { x.2.wdt with latch := none, latchCount := false }
    power := { x.2.power with coreLatch := none } })

/-- The writes of phase 3. -/
def phase3Writes (s : State) : State := (phase3Run s).2

/-- SELF_TEST_FAIL (Table 8 of Power, Clocks and Start-up). -/
def selfTestFail (test : Nat) (fatal : Bool) (concerned : Nat) : State → State :=
  raise 0xB000 0x0B06 0 (test + 16 * b2n fatal + 2 ^ 8 * concerned)

/-! ### Project and time (R386, R648, R692) -/

/-- Entries of a list that the cache does not hold are loaded from the entry store, up to the limit of the pinned set (R178, R386, R404). -/
def pinStored (ids : List Nat) (s : State) : State :=
  let ids := (ids.filter (fun id => !isPinned s id)).take (pinLimit s - s.chan.pinned.length)
  let found := (ids.filter (fun id => (Tab.find s.chan.store id).isSome)).length
  let s := { s with chan := { s.chan with storeLoads := satAdd 32 s.chan.storeLoads found } }
  ids.foldl (fun s id => pinChan id (Tab.find s.chan.store id) s) s

/-- The entries of the digital inputs, as input sampling begins (R419, R421). -/
def loadInputs (s : State) : State := pinStored (List.range 64) s

/-- The project with its initial data, the enable states and the pinned set, loaded from the entry store only (R386). -/
def loadStored (s : State) : State :=
  let enabled (t : BitVec 7) : Bool := ((taskRec s t).map (fun r => r.attr.enabled)).getD false
  let s := { s with
    commit := if s.proj.loaded then replaceHome (initialHome s.proj) s.commit else s.commit
    tasks := Vector.ofFn (fun i => { s.tasks[i] with enabled := enabled (taskNo i.val) }) }
  let s := if endsInRun s then restartEnables s else s
  refreshLayout (wantNow (pinStored (pinNow s) (settleHomes s)))

/-- The restart that phase 7 makes when start-up will end in RUN, with T0 as T_RUN (R78, R292, R646, R648). -/
def restartStored (s : State) : State :=
  if !endsInRun s then s
  else
    let r := restartData (!bitAt (block s 0x0101) 4 1) s.time.t0.toNat s
    let s := restartEnables r.2
    { s with mode := { s.mode with restarted := some r.1 } }

/-- T0 is fixed (R47, R648): the sampling grids move to it when its instant comes, at once where it has passed (R649). -/
def fixT0 (t0 : Int) (s : State) : State :=
  let s' := { s with time := { s.time with t0 := t0, t0Fixed := true } }
  if t0 ≤ (nowUs s : Int) then moveGrid s s'
  else { s' with field := { s'.field with provisional := some (s.field.provisional.getD s.time.t0) } }

/-! ### A fault that ends start-up (R651, R660, R695) -/

/-- What start-up would still have brought up, which a mode entered instead of its end relies on. -/
def bringUp (s : State) : State :=
  let p := s.mode.phase
  let s := if p ≤ 1 then { s with time := { s.time with lcRunning := true, lc := 0 } } else s
  let s := if p ≤ 2 then loadInputs { s with field := { s.field with sampling := true } } else s
  let s := if p ≤ 3 then readStore s else s
  let s := if p ≤ 4 then { s with star := { s.star with forwards := true } } else s
  let s := if p ≤ 3 then startTraining s else s
  let s := if telithOn s then s else modPair (fun q => { q with role := 0 }) s
  let s := if s.time.running then s else startTime 0 s
  let s := if p ≤ 7 then loadStored s else s
  if s.time.t0Fixed then s else fixT0 (nowUs s + 1000) s

/-- STARTUP_MS of a start-up that a fault has ended: no row tells it, and it is a free value (R656; log entry 120). -/
def endedStartup (s : State) : State :=
  let n := takeFree s
  { n.2 with power := { n.2.power with startupMs := Config.freeNat n.1 % 65536 } }

/-- A fault puts the module into SAFE with a cause; in start-up, which then ends at once, every direct output stays
de-energised until SAFE is left (R651, R660, R695). -/
def faultSafe (cause : Nat) (s : State) : State :=
  if inStartUp s then
    let p := s.mode.phase
    let s := endedStartup (enterSafe cause 0xFF 0 (bringUp s))
    if p ≤ 4 && nodeOn s then nodeState 1 s else s
  else enterSafe cause 0xFF 0 s

end Sys2Proof.Machine
end

