-- ==== Sys2Proof/Machine/Solver.lean ====
section
/-! DEFINITION. The rung solver: calls, rung words, timers and counters (Rung Solver and Hardware Timers). -/

namespace Sys2Proof.Machine

/-! ### Calls (R262 to R270) -/

/-- Error codes of Table 2. -/
def errOverflow : Nat := 1
def errUnderflow : Nat := 2
def errLimit : Nat := 3
def errEncoding : Nat := 4
def errRecord : Nat := 5
def errNoSolver : Nat := 6

/-- The longest call in solver cycles (R264). -/
def callLimit : Nat := 32768

/-- IMG.RES after a call (Table 2). -/
def returnValue (stack : List Bool) (err : Nat) : Word :=
  BitVec.ofNat 32 (stack.foldr (fun v n => b2n v + 2 * n) 0 + 2 ^ 16 * stack.length + 2 ^ 24 * err)

/-- A call is over: its return is on its way to the stall (R266, R267), with its counters and, for an error, SOLVER_ERROR
at a word address (R295, R296). The calls that wait behind it have waited for it. -/
def endCall (b : Fin 4) (c : Call) (err cycles addr : Nat) (s : State) : State :=
  let s := modBarn b (fun x => { x with
    run := none, returns := x.returns ++ [(c.stall, c.slot, returnValue c.stack err, c.tag)] }) s
  let s := (barn s b).queue.foldl (fun s q => modInst q.stall q.slot (fun i => { i with solveAhead := i.solveAhead + cycles }) s) s
  let s := modInst c.stall c.slot (fun i => { i with solveTook := cycles }) s
  match slotOf s c.stall c.slot with
  | some i =>
    let s := modCtr i.task (fun k => { k with solveMax := max k.solveMax (min cycles 0xFFFF) }) s
    if err = 0 then s else solverError i.task i.copyB err addr s
  | none => s

/-- SOLVER_CALL_START (R262): the oldest queued call begins. -/
def execSolverCallStart (b : Fin 4) (s : State) : Res :=
  let x := barn s b
  .next (match x.run, x.queue with
  | none, c :: q =>
    if x.solverOut || !x.solverOn || !alive s then s else modBarn b (fun x => { x with run := some c, queue := q }) s
  | _, _ => s)

/-- A word of the solver bank an instance uses; unwritten words read as END (R252, R281). -/
def solverWord (p : ProjSt) (bank : Bool) (a : Nat) : RungWord := Tab.getD (if bank then p.bank1 else p.bank0).solver (a % 2 ^ 17) 0xF01

/-- The running call of a barn with its instance and its next word. -/
def rungAt (s : State) (b : Fin 4) : Option (Call × Inst × RungWord) :=
  match (barn s b).run with
  | some c => (slotOf s c.stall c.slot).map (fun i => (c, i, solverWord s.proj i.bank c.pc.toNat))
  | none => none

/-- Primary opcode of a rung word. -/
def opOf (w : RungWord) : Nat := w.toNat / 256
/-- Operand of a rung word. -/
def operandOf (w : RungWord) : Nat := w.toNat % 256

/-! ### Bits (R273 to R277) -/

/-- Bit address of operand `n` in the current bit window. -/
def windowBit (c : Call) (n : Nat) : Nat := 256 * c.window + n

/-- The home line behind a bit of the current window, none when the bit lies beyond the loaded size or in the input image. -/
def bitKey (c : Call) (i : Inst) (n : Nat) : Option Nat :=
  let k := windowBit c n / 8
  if c.region = 0 then (if k < i.record.rungSize then some (privKey i.task (privBase + k)) else none)
  else if c.region = 2 then (if k < i.record.outSize then some (outBase i.task + k) else none)
  else none

/-- A stored bit as the call reads it (R275). -/
def readBit (c : Call) (i : Inst) (n : Nat) (s : State) : Bool × State :=
  let a := windowBit c n
  if c.region = 0 then
    match bitKey c i n with
    | some k => ((readByte s.commit i k).getLsbD (a % 8), noteRead c.stall c.slot i.wb k 1 s)
    | none => (false, addrFault c.stall c.slot s)
  else
    let (b, s) := imageBytes c.stall c.slot (c.region = 2) (a / 8) 1 s
    ((b.map (fun b => (byteAt b 0).getLsbD (a % 8))).getD false, s)

/-- A write word's write of one bit (R276, R277): the fault, or the state after it. -/
def writeBit (c : Call) (i : Inst) (n : Nat) (v : Bool) (s : State) : Option (Nat × Nat) × State :=
  let a := windowBit c n
  match bitKey c i n with
  | none => (some (fcProt, 0xFFFF), s)
  | some k =>
    let old := readByte s.commit i k
    let same := old.getLsbD (a % 8) = v
    if c.region = 0 then
      if same then (none, s)
      else match bufferWrite c.stall c.slot k [withBit old (a % 8) v] s with
        | some s' => (none, s')
        | none => (some (fcOverflow, 0), s)
    else
      if same && (offending i a 1).isEmpty then (none, s)
      else imageWrite c.stall c.slot a 1 (a / 8) [withBit old (a % 8) v] s

/-- The line that a word of the current window accesses, for its cost: a line of the input image lies in the global image memory and has
no home-line key. -/
def costKey (c : Call) (i : Inst) (n : Nat) : Option Nat :=
  if c.region = 1 then (if windowBit c n / 8 < i.record.inSize then some (2 ^ 50 + windowBit c n / 8) else none) else bitKey c i n

/-- Cycles that the first access of the call to a line outside the barn's SRAM adds, at most 4,000, and the lines fetched
then (Table 9). The number of cycles is an operand of the row. -/
def lineCost (s : State) (b : Fin 4) (c : Call) (key : Option Nat) (wait : BitVec 12) : Nat × List Nat :=
  match key with
  | some k =>
    if inBarn s b k || c.fetched.contains (lineOf k) then (0, c.fetched) else (min wait.toNat 4000, lineOf k :: c.fetched)
  | none => (0, c.fetched)

/-! ### Words (R280 to R285) -/

/-- The call goes on after a word. -/
def goWord (b : Fin 4) (c : Call) (cost len : Nat) (stack : List Bool) (s : State) : State :=
  modBarn b (fun x => { x with run := some { c with
    pc := BitVec.ofNat 17 (c.pc.toNat + len), stack := stack, cycles := c.cycles + cost } }) s

/-- A word of `cost` cycles completes within the call's limit (R264); the word that would not changes nothing. -/
def inLimit (c : Call) (cost : Nat) : Bool := decide (c.cycles + cost ≤ callLimit)

/-- The call ends with an error of the word at its address (R282, R285, R289). -/
def wordError (b : Fin 4) (c : Call) (err cost : Nat) : State → State := endCall b c err (c.cycles + cost) c.pc.toNat

/-- A word whose write faults ends the call with no return value (R108, R269), and its instance aborts. -/
def faultCall (b : Fin 4) (c : Call) (code detail : Nat) (s : State) : State :=
  ownFault c.stall c.slot code detail (modBarn b (fun x => { x with run := none }) s)

/-- A word that works on the stack alone: needs entries, and leaves another stack. -/
def stackWord (b : Fin 4) (op sub need : Nat) (g : List Bool → List Bool) (s : State) : State :=
  match rungAt s b with
  | some (c, _, w) =>
    if !(opOf w = op && operandOf w = sub && inLimit c 1) || !alive s then s
    else if c.stack.length < need then wordError b c errUnderflow 1 s
    else if 16 < (g c.stack).length then wordError b c errOverflow 1 s
    else goWord b c 1 1 (g c.stack) s
  | none => s

/-- A word that reads a bit and leaves another stack. -/
def readWord (b : Fin 4) (op need : Nat) (wait : BitVec 12) (g : Bool → List Bool → List Bool) (s : State) : State :=
  match rungAt s b with
  | some (c, i, w) =>
    let n := operandOf w
    let (extra, fetched) := lineCost s b c (costKey c i n) wait
    if !(opOf w = op && inLimit c (1 + extra)) || !alive s then s
    else if c.stack.length < need then wordError b c errUnderflow 1 s
    else if 16 < (g false c.stack).length then wordError b c errOverflow 1 s
    else
      let (v, s) := readBit c i n s
      goWord b { c with fetched := fetched } (1 + extra) 1 (g v c.stack) s
  | none => s

/-- A write word: from TOS and the stored bit it gives the new bit and the new TOS. -/
def writeWord (b : Fin 4) (op : Nat) (wait : BitVec 12) (g : Bool → Bool → Bool × Bool) (s : State) : State :=
  match rungAt s b with
  | some (c, i, w) =>
    let n := operandOf w
    let (extra, fetched) := lineCost s b c (costKey c i n) wait
    if !(opOf w = op && inLimit c (1 + extra)) || !alive s then s
    else match c.stack with
      | [] => wordError b c errUnderflow 1 s
      | v :: rest =>
        let old := ((bitKey c i n).map (fun k => (readByte s.commit i k).getLsbD (windowBit c n % 8))).getD false
        let (bit, tos) := g v old
        match writeBit c i n bit s with
        | (some q, s) => faultCall b c q.1 q.2 s
        | (none, s) => goWord b { c with fetched := fetched } (1 + extra) 1 (tos :: rest) s
  | none => s

/-- TOS replaced by its combination with a bit. -/
def onTos (g : Bool → Bool → Bool) (v : Bool) (l : List Bool) : List Bool :=
  match l with
  | t :: rest => g t v :: rest
  | [] => []

/-- The two top entries replaced by their combination. -/
def onTwo (g : Bool → Bool → Bool) (l : List Bool) : List Bool :=
  match l with
  | a :: t :: rest => g a t :: rest
  | l => l

/-- LD (R283). -/
def execLd (b : Fin 4) (wait : BitVec 12) (s : State) : Res := .next (readWord b 0 0 wait (fun v l => v :: l) s)

/-- LDN (R283). -/
def execLdn (b : Fin 4) (wait : BitVec 12) (s : State) : Res := .next (readWord b 1 0 wait (fun v l => (!v) :: l) s)

/-- AND (R283). -/
def execRungAnd (b : Fin 4) (wait : BitVec 12) (s : State) : Res := .next (readWord b 2 1 wait (onTos (fun t v => t && v)) s)

/-- ANDN (R283). -/
def execRungAndn (b : Fin 4) (wait : BitVec 12) (s : State) : Res := .next (readWord b 3 1 wait (onTos (fun t v => t && !v)) s)

/-- OR (R283). -/
def execRungOr (b : Fin 4) (wait : BitVec 12) (s : State) : Res := .next (readWord b 4 1 wait (onTos (fun t v => t || v)) s)

/-- ORN (R283). -/
def execRungOrn (b : Fin 4) (wait : BitVec 12) (s : State) : Res := .next (readWord b 5 1 wait (onTos (fun t v => t || !v)) s)

/-- XOR (R283). -/
def execRungXor (b : Fin 4) (wait : BitVec 12) (s : State) : Res := .next (readWord b 6 1 wait (onTos (fun t v => t != v)) s)

/-- ST (R276, R277, R283). -/
def execSt (b : Fin 4) (wait : BitVec 12) (s : State) : Res := .next (writeWord b 7 wait (fun t _ => (t, t)) s)

/-- STN (R276, R277, R283). -/
def execStn (b : Fin 4) (wait : BitVec 12) (s : State) : Res := .next (writeWord b 8 wait (fun t _ => (!t, t)) s)

/-- SET (R276, R277, R283). -/
def execRungSet (b : Fin 4) (wait : BitVec 12) (s : State) : Res := .next (writeWord b 9 wait (fun t old => (t || old, t)) s)

/-- RST (R276, R277, R283). -/
def execRst (b : Fin 4) (wait : BitVec 12) (s : State) : Res := .next (writeWord b 10 wait (fun t old => (!t && old, t)) s)

/-- RISE (R276, R277, R283). -/
def execRise (b : Fin 4) (wait : BitVec 12) (s : State) : Res := .next (writeWord b 11 wait (fun t old => (t, t && !old)) s)

/-- FALL (R276, R277, R283). -/
def execFall (b : Fin 4) (wait : BitVec 12) (s : State) : Res := .next (writeWord b 12 wait (fun t old => (t, !t && old)) s)

/-! ### Windows and jumps -/

/-- WIN (R273, R283, R285). -/
def execWin (b : Fin 4) (s : State) : Res :=
  .next (match rungAt s b with
  | some (c, i, w) =>
    if !(opOf w = 0xD && inLimit c 2) || !alive s then s
    else
      let rg := operandOf w / 64
      let e := (solverWord s.proj i.bank (c.pc.toNat + 1)).toNat
      let most := if rg = 0 then 2047 else if rg = 3 then 7 else 127
      if operandOf w % 64 != 0 || most < e then wordError b c errEncoding 2 s
      else goWord b (if rg = 3 then { c with area := e } else { c with region := BitVec.ofNat 2 rg, window := e }) 2 2 c.stack s
  | none => s)

/-- A jump word: it pops what it tests and jumps relative to its own address when the test holds (R284, Table 9). -/
def jumpWord (b : Fin 4) (sub : Nat) (test : Option Bool) (s : State) : State :=
  match rungAt s b with
  | some (c, i, w) =>
    let e := signed 12 (solverWord s.proj i.bank (c.pc.toNat + 1)).toNat
    let go (stack : List Bool) (taken : Bool) : State :=
      if !inLimit c (if taken then 3 else 2) then s
      else if taken then goWord b { c with pc := BitVec.ofInt 17 ((c.pc.toNat : Int) + e) } 3 0 stack s
      else goWord b c 2 2 stack s
    if !(opOf w = 0xF && operandOf w = sub) || !alive s then s
    else match test, c.stack with
      | none, l => go l true
      | some v, t :: rest => go rest (t = v)
      | some _, [] => if inLimit c 2 then wordError b c errUnderflow 2 s else s
  | none => s

/-- JMP (R284). -/
def execJmp (b : Fin 4) (s : State) : Res := .next (jumpWord b 0x04 none s)

/-- JMPC (R284). -/
def execJmpc (b : Fin 4) (s : State) : Res := .next (jumpWord b 0x05 (some true) s)

/-- JMPCN (R284). -/
def execJmpcn (b : Fin 4) (s : State) : Res := .next (jumpWord b 0x06 (some false) s)

/-! ### Ends -/

/-- An end word, under a test of TOS. One that completes at the last cycle of the limit ends the call as it would before it (R264; log
entry 111). -/
def endWord (b : Fin 4) (sub : Nat) (test : Option Bool) (s : State) : State :=
  match rungAt s b with
  | some (c, _, w) =>
    if !(opOf w = 0xF && operandOf w = sub && inLimit c 1) || !alive s then s
    else match test, c.stack with
      | none, _ => endCall b c 0 (c.cycles + 1) c.pc.toNat s
      | some v, t :: _ => if t = v then endCall b c 0 (c.cycles + 1) c.pc.toNat s else goWord b c 1 1 c.stack s
      | some _, [] => wordError b c errUnderflow 1 s
  | none => s

/-- END (R284). -/
def execRungEnd (b : Fin 4) (s : State) : Res := .next (endWord b 0x01 none s)

/-- ENDC (R284). -/
def execEndc (b : Fin 4) (s : State) : Res := .next (endWord b 0x02 (some true) s)

/-- ENDCN (R284). -/
def execEndcn (b : Fin 4) (s : State) : Res := .next (endWord b 0x03 (some false) s)

/-- NOP (R284). -/
def execRungNop (b : Fin 4) (s : State) : Res := .next (stackWord b 0xF 0x00 0 (fun l => l) s)

/-- DUP (R284). -/
def execDup (b : Fin 4) (s : State) : Res := .next (stackWord b 0xF 0x10 1 (fun l => l.take 1 ++ l) s)

/-- POP (R284). -/
def execPop (b : Fin 4) (s : State) : Res := .next (stackWord b 0xF 0x11 1 (fun l => l.drop 1) s)

/-- SWAP (R284). -/
def execSwap (b : Fin 4) (s : State) : Res := .next (stackWord b 0xF 0x12 2 (fun l => (l.take 2).reverse ++ l.drop 2) s)

/-- NOT (R284). -/
def execRungNot (b : Fin 4) (s : State) : Res := .next (stackWord b 0xF 0x13 1 (fun l => (l.take 1).map (fun v => !v) ++ l.drop 1) s)

/-- ANDS (R284). -/
def execAnds (b : Fin 4) (s : State) : Res := .next (stackWord b 0xF 0x14 2 (onTwo (fun a t => a && t)) s)

/-- ORS (R284). -/
def execOrs (b : Fin 4) (s : State) : Res := .next (stackWord b 0xF 0x15 2 (onTwo (fun a t => a || t)) s)

/-- XORS (R284). -/
def execXors (b : Fin 4) (s : State) : Res := .next (stackWord b 0xF 0x16 2 (onTwo (fun a t => a != t)) s)

/-- PUSH0 (R284). -/
def execPush0 (b : Fin 4) (s : State) : Res := .next (stackWord b 0xF 0x17 0 (fun l => false :: l) s)

/-- PUSH1 (R284). -/
def execPush1 (b : Fin 4) (s : State) : Res := .next (stackWord b 0xF 0x18 0 (fun l => true :: l) s)

/-- CLR (R284). -/
def execClr (b : Fin 4) (s : State) : Res := .next (stackWord b 0xF 0x19 0 (fun _ => []) s)

/-- An EXT operand that Table 5 lists. -/
def extListed (n : Nat) : Bool := decide (n ≤ 0x06) || (decide (0x10 ≤ n) && decide (n ≤ 0x19))

/-- EXT: an operand that Table 5 does not list ends the call with ENCODING (R285). -/
def execExt (b : Fin 4) (s : State) : Res :=
  .next (match rungAt s b with
  | some (c, _, w) =>
    if !(opOf w = 0xF && !extListed (operandOf w) && inLimit c 1) || !alive s then s else wordError b c errEncoding 1 s
  | none => s)

/-- The most cycles that the next word takes (Table 9). -/
def wordCost (s : State) (b : Fin 4) (c : Call) (i : Inst) (w : RungWord) : Nat :=
  let far (k : Option Nat) : Nat := (lineCost s b c k 0xFFF).1
  match opOf w with
  | 0xD => 2
  | 0xE =>
    let off := 8192 * c.area + 32 * operandOf w
    4 + far (if off + 32 ≤ i.record.rungSize then some (privKey i.task (privBase + off)) else none)
  | 0xF =>
    if operandOf w = 4 then 3
    else if operandOf w = 5 || operandOf w = 6 then (if c.stack.head? = some (decide (operandOf w = 5)) then 3 else 2)
    else 1
  | _ => 1 + far (costKey c i (operandOf w))

/-- SOLVER_CALL_LIMIT (R264, R295): the count has reached 32,768 at the end of a word, or reaches it within the next one. -/
def execSolverCallLimit (b : Fin 4) (s : State) : Res :=
  .next (match rungAt s b with
  | some (c, i, w) =>
    if decide (callLimit < c.cycles + wordCost s b c i w) && alive s then endCall b c errLimit callLimit c.pc.toNat s else s
  | none => s)

/-! ### Timers and counters (R286 to R291) -/

/-- A timer record (Table 6). -/
structure Timer where
  /-- Q -/
  q : Bool
  /-- IN_PREV -/
  prev : Bool
  /-- RUNNING -/
  on : Bool
  /-- PT -/
  pt : Nat
  /-- ET -/
  et : Nat
  /-- T_START -/
  start : Nat
  deriving DecidableEq, Repr

/-- The timer of a record. -/
def timerOf (b : Bytes) : Timer :=
  { q := bitAt b 1 0, prev := bitAt b 1 1, on := bitAt b 1 2, pt := fieldAt b 4 4, et := fieldAt b 8 4, start := fieldAt b 16 8 }

/-- The record with the timer's fields; reserved fields stay (R289). -/
def putTimer (b : Bytes) (x : Timer) : Bytes :=
  let flags : Byte := (byteAt b 1 &&& 0xF8) ||| BitVec.ofNat 8 (b2n x.q + 2 * b2n x.prev + 4 * b2n x.on)
  patch (patch (patch b 1 [flags]) 8 (leBytes 4 x.et)) 16 (leBytes 8 x.start)

/-- Row "timing": Q takes `running` before PT has passed where the kind says so, and `done` from then on. -/
def timing (t : Nat) (running : Option Bool) (done : Bool) (x : Timer) : Timer :=
  let d := (t + 2 ^ 64 - x.start) % 2 ^ 64
  if x.pt ≤ d then { x with q := done, on := false, et := x.pt } else { x with q := running.getD x.q, et := d }

/-- Timing begins, then time. -/
def startTimer (t : Nat) (running : Option Bool) (done : Bool) (x : Timer) : Timer :=
  timing t running done { x with start := t % 2 ^ 64, on := true }

/-- A timer of a kind evaluated at task time `t` with input `inp` (Table 8). -/
def evalTimer (kind t : Nat) (inp : Bool) (x : Timer) : Timer :=
  let y :=
    if kind = 1 then
      if x.on then timing t (some true) false x
      else if inp && !x.prev then startTimer t (some true) false x
      else if !inp then { x with et := 0 } else x
    else if kind = 2 then
      if !inp then { x with q := false, on := false, et := 0 }
      else if x.on then timing t none true x
      else if !x.q then startTimer t none true x else x
    else
      if inp then { x with q := true, on := false, et := 0 }
      else if x.on then timing t none false x
      else if x.q then startTimer t none false x else x
  { y with prev := inp }

/-- A counter record (Table 7). -/
structure Counter where
  /-- QU -/
  qu : Bool
  /-- CU_PREV -/
  cuPrev : Bool
  /-- QD -/
  qd : Bool
  /-- CD_PREV -/
  cdPrev : Bool
  /-- PV -/
  pv : Int
  /-- CV -/
  cv : Int
  deriving DecidableEq, Repr

/-- The counter of a record. -/
def counterOf (b : Bytes) : Counter :=
  { qu := bitAt b 1 0, cuPrev := bitAt b 1 1, qd := bitAt b 1 3, cdPrev := bitAt b 1 4
    pv := signed 32 (fieldAt b 4 4), cv := signed 32 (fieldAt b 8 4) }

/-- The record with the counter's fields; reserved fields stay (R289). -/
def putCounter (b : Bytes) (x : Counter) : Bytes :=
  let flags : Byte := (byteAt b 1 &&& 0xE4) ||| BitVec.ofNat 8 (b2n x.qu + 2 * b2n x.cuPrev + 8 * b2n x.qd + 16 * b2n x.cdPrev)
  patch (patch b 1 [flags]) 8 (leBytes 4 (unsigned 32 x.cv))

/-- A count up, held at the largest value. -/
def countUp (v : Int) : Int := if v < 2 ^ 31 - 1 then v + 1 else v
/-- A count down, held at the smallest value. -/
def countDown (v : Int) : Int := if -(2 ^ 31) < v then v - 1 else v

/-- A counter of a kind evaluated with reset, load and count inputs (Table 8). -/
def evalCounter (kind : Nat) (r ld cu cd : Bool) (x : Counter) : Counter :=
  let up := cu && !x.cuPrev
  let down := cd && !x.cdPrev
  let cv :=
    if kind = 4 then (if r then 0 else if up then countUp x.cv else x.cv)
    else if kind = 5 then (if ld then x.pv else if down then countDown x.cv else x.cv)
    else if r then 0 else if ld then x.pv else if up && down then x.cv
    else if up && decide (x.cv < 2 ^ 31 - 1) then x.cv + 1 else if down then countDown x.cv else x.cv
  { x with
    cv := cv, qu := decide (x.pv ≤ cv), qd := decide (cv ≤ 0)
    cuPrev := if kind = 5 then false else cu
    cdPrev := if kind = 4 then false else cd }

/-- A record evaluated with the stack's inputs, top first: the new record and the stack after it; none when the stack holds
too few (R282, R290). -/
def evalRecord (t : Nat) (rec : Bytes) (stack : List Bool) : Option (Bytes × List Bool) :=
  let kind := bitsOf (fieldAt rec 0 1) 3 0
  if kind ≤ 3 then
    match stack with
    | v :: l =>
      let x := evalTimer kind t v (timerOf rec)
      some (putTimer rec x, x.q :: l)
    | _ => none
  else if kind = 4 then
    match stack with
    | r :: cu :: l =>
      let x := evalCounter 4 r false cu false (counterOf rec)
      some (putCounter rec x, x.qu :: l)
    | _ => none
  else if kind = 5 then
    match stack with
    | ld :: cd :: l =>
      let x := evalCounter 5 false ld false cd (counterOf rec)
      some (putCounter rec x, x.qd :: l)
    | _ => none
  else
    match stack with
    | ld :: r :: cd :: cu :: l =>
      let x := evalCounter 6 r ld cu cd (counterOf rec)
      some (putCounter rec x, x.qd :: x.qu :: l)
    | _ => none

/-- TMR (R286 to R291). -/
def execTmr (b : Fin 4) (wait : BitVec 12) (s : State) : Res :=
  .next (match rungAt s b with
  | some (c, i, w) =>
    let off := 8192 * c.area + 32 * operandOf w
    let inside := decide (off + 32 ≤ i.record.rungSize)
    let key := privKey i.task (privBase + off)
    let (extra, fetched) := lineCost s b c (if inside then some key else none) wait
    if !(opOf w = 0xE && inLimit c (4 + extra)) || !alive s then s
    else if !inside then wordError b c errRecord 4 s
    else
      let old := readBytes s.commit i key 32
      let s := noteRead c.stall c.slot i.wb key 32 s
      let kind := bitsOf (fieldAt old 0 1) 3 0
      if kind = 0 || 6 < kind then wordError b c errRecord (4 + extra) s
      else match evalRecord i.relTime old c.stack with
        | none => wordError b c errUnderflow (4 + extra) s
        | some (new, stack) =>
          if new = old then goWord b { c with fetched := fetched } (4 + extra) 1 stack s
          else match bufferWrite c.stall c.slot key new s with
            | some s => goWord b { c with fetched := fetched } (4 + extra) 1 stack s
            | none => faultCall b c fcOverflow 0 s
  | none => s)

end Sys2Proof.Machine
end

