-- ==== Sys2Proof/Machine/Placement.lean ====
section
/-! DEFINITION. The placement: its rules, what the yardmaster may publish, turntable steps and their fences, the placement at a release
and home-line moves (The Yardmaster). The yardmaster's choices that the manual leaves to it are operands that the rules check, or free
choices among what the rules allow. -/

namespace Sys2Proof.Machine

/-! ### Base ticks ahead (R47, R50, R147) -/

/-- The next base tick: its number, its task time in µs, and the base tick length and origin from it on (R47, R50). The first tick of a
new length comes, for a member, at the start of an Ihloz cycle, as its last measured offset from the base tick places it (R486), in whole µs
towards the earlier. Whether the module is a member is asked at each tick (log entry 102). -/
def tickPlan (s : State) : Nat × Nat × Nat × Int :=
  let n := nextTick s
  let at_ := tickTime s n
  match s.time.newTick with
  | none => (n, at_, s.time.tickUs, s.time.t0)
  | some (us, done) =>
    match (if s.ihloz.state = 5 || s.ihloz.state = 6 then schedNow s else none) with
    | some c =>
      let m := c.cycleUs / us
      let origin := s.time.t0 + s.ihloz.offsetNs / 1000
      let least : Int := max ((done : Int) + 1000) (if s.time.ticked then (tickTime s s.time.tickNo : Int) + 1 else 0)
      let start := (origin + roundUp (least - origin).toNat c.cycleUs).toNat
      if at_ < start then (n, at_, s.time.tickUs, s.time.t0)
      else
        let big := if s.time.ticked then (s.time.tickNo / m + 1) * m else 0
        (big, start, us, (start : Int) - big * us)
    | none =>
      let t := done + us
      if at_ < t then (n, at_, s.time.tickUs, s.time.t0) else (n, t, us, (t : Int) - n * us)

/-- The state of the base tick once the next tick has come. -/
def tickAfter (s : State) : State :=
  let p := tickPlan s
  let same := p.2.2.1 = s.time.tickUs && p.2.2.2 = s.time.t0
  { s with time := { s.time with
      ticked := true, tickNo := p.1, tickUs := p.2.2.1, t0 := p.2.2.2, newTick := if same then s.time.newTick else none } }

/-- The base ticks up to a task time in µs, each with its number and its time; at most `k` of them. -/
def ticksUntil (us : Nat) : Nat → State → List (Nat × Nat)
  | 0, _ => []
  | k + 1, s =>
    let p := tickPlan s
    if p.2.1 ≤ us then (p.1, p.2.1) :: ticksUntil us k (tickAfter s) else []

/-- A no-migration window is active at base tick `n` (R147). -/
def nmw (b : Bytes) (n : Nat) : Bool :=
  (List.range (min (bitsOf (fieldAt b 1 1) 3 0) 8)).any (fun w =>
    let x := n % fieldAt b (8 + 8 * w) 2
    let st := fieldAt b (10 + 8 * w) 2
    decide (st ≤ x) && decide (x < st + fieldAt b (12 + 8 * w) 2))

/-! ### Stalls that a copy may run on (R63, R107, R144, R696) -/

/-- The write buffer of a stall has room for one more instance, and a context is free (R63, R107). -/
def roomOn (s : State) (u : StallId) : Bool :=
  let rs := residents s u
  let used := (rs.map (fun r => entries r.2)).sum
  let unmet := (rs.map (fun r => 64 - entries r.2)).sum
  decide (rs.length < 4) && decide (64 + unmet + used ≤ 512)

/-- The assigned stall of a copy (R182). -/
def placeOf (k : TaskSt) (copyB : Bool) : Option StallId := if copyB then k.placeB else k.placeA

/-- The stall is in service. -/
def stallActive (s : State) (u : StallId) : Bool := (stall s u).state = 0 && (barn s u.barn).present

/-- The barn has a working solver (R165). -/
def solverWorks (s : State) (b : Fin 4) : Bool := (barn s b).present && !(barn s b).solverOut

/-- Stall `u` lies in another barn than the other copy of a paired task (R297). -/
def diverse (s : State) (t : BitVec 7) (copyB : Bool) (u : StallId) : Bool :=
  !isPaired s t || ((placeOf (task s t) (!copyB)).map (fun v => decide (v.barn ≠ u.barn))).getD true

/-- Stall `u` keeps the rules for a copy of task `t`: BARN_MASK, APART_GROUP (R696), the diversity of copies (R297) and, for a
solver caller, a working solver (R697). -/
def rulesOk (s : State) (b : Bytes) (t : BitVec 7) (copyB : Bool) (u : StallId) : Bool :=
  let g := apartGroup b t.toNat
  (barn s u.barn).present && (barnMask s b t.toNat).testBit u.barn.val && diverse s t copyB u &&
  (!(task s t).caller || solverWorks s u.barn || (List.finRange 4).all (fun x => !solverWorks s x)) &&
  (g = 0 || allTasks.all (fun t' =>
    let same := apartGroup b t'.toNat = g && (taskRec s t').isSome
    let level := apartBarn b t.toNat || apartBarn b t'.toNat
    [false, true].all (fun c =>
      if !same || (t' = t && c = copyB) || (c && !isPaired s t') then true
      else match placeOf (task s t') c with
        | none => true
        | some v => if level then decide (v.barn ≠ u.barn) else decide (v ≠ u))))

/-- Stall `u` is in service and keeps the rules. -/
def servable (s : State) (b : Bytes) (t : BitVec 7) (copyB : Bool) (u : StallId) : Bool :=
  stallActive s u && rulesOk s b t copyB u

/-- Stalls in service, within the rules, that a copy is not assigned to. -/
def candidates (s : State) (b : Bytes) (t : BitVec 7) (copyB : Bool) : List StallId :=
  allStalls.filter (fun u => servable s b t copyB u && placeOf (task s t) copyB != some u)

/-- A copy that is released at base tick `n` may run where it is assigned: on a stall in service within the rules, or, inside a
no-migration window, on its stall as it is, unless it is retired (R144, R149, R163, R697). -/
def placedOk (s : State) (b : Bytes) (n : Nat) (t : BitVec 7) (copyB : Bool) : Bool :=
  match placeOf (task s t) copyB with
  | none => false
  | some u =>
    (barn s u.barn).present && diverse s t copyB u &&
    (servable s b t copyB u || (nmw b n && ((stall s u).state = 0 || (stall s u).state = 3)))

/-- Stall `u` lies in a barn of the other parity than the other copy's (R298). -/
def otherPhase (s : State) (t : BitVec 7) (copyB : Bool) (u : StallId) : Bool :=
  ((placeOf (task s t) (!copyB)).map (fun v => decide (v.barn.val % 2 ≠ u.barn.val % 2))).getD true

/-- Of some stalls those in barns of the other parity, where there are any (R298). -/
def preferPhase (s : State) (t : BitVec 7) (copyB : Bool) (us : List StallId) : List StallId :=
  let l := us.filter (otherPhase s t copyB)
  if l.isEmpty then us else l

/-- An awake stall: its barn is ON. -/
def awake (s : State) (u : StallId) : Bool := (barn s u.barn).power = 2

/-- A barn sensor stands at 100 °C or above (R176). -/
def hot (s : State) : Bool := (List.finRange 4).any (fun b => (barn s b).present && decide (800 ≤ (barn s b).temp))

/-- A turntable step of task `t` may begin: no open instance, no copy in HOLD, no fence in progress (R156, R160). -/
def mayMove (k : TaskSt) : Bool := !((k.inst.map Release.started).getD false) && !(k.held && !k.heldEntry) && k.fence.isNone

/-- The task is released at base tick `n` by its pattern (R56). -/
def patternAt (r : TaskRec) (n : Nat) : Bool :=
  !isEvent r.attr.taskId && decide (r.attr.offset.toNat ≤ n) && (n - r.attr.offset.toNat) % r.attr.period.toNat = 0

/-- The cyclic tasks to be released at base tick `n`, in the order of R57. -/
def dueTasks (s : State) (n : Nat) : List TaskRec :=
  let due := s.proj.cur.tasks.filter (fun r => (task s r.attr.taskId).enabled && patternAt r n)
  (List.range 32).flatMap (fun p => allTasks.filterMap (fun t => due.find? (fun r => r.attr.taskId = t && r.attr.priority.toNat = p)))

/-! ### Home lines and their room (R23, R151, R272) -/

/-- A line of the rung data area of a task (R272). -/
def rungLine (s : State) (line : Nat) : Bool :=
  decide (2 ^ 32 ≤ line) && decide (line / 2 ^ 32 ≤ 128) &&
  ((taskRec s (taskNo (line / 2 ^ 32 - 1))).map (fun r => decide (line % 2 ^ 32 - privBase < r.rungSize))).getD false

/-- Home lines and rings lie in the SRAM of barn `b` within its size: 64 KiB of its 2 MiB are the bit store, which takes rung data
only, and what it cannot take lies beside the rest (R23, R168, R272). -/
def barnFits (s : State) (homeLoc : Tab (Fin 4)) (ringLoc : Tab (Fin 4)) (b : Fin 4) : Bool :=
  let lines := (homeLoc.filter (fun x => x.2 = b)).map Prod.fst
  let rung := (lines.filter (rungLine s)).length
  let rings := (ringLoc.filter (fun x => x.2 = b)).length
  let bad := (s.yard.bad.filter (fun x => x.1 = b.val + 1)).length
  decide (64 * ((lines.length - rung) + (rung - 1024) + bad) + 80 * 1024 * rings ≤ 2 ^ 21 - 2 ^ 16)

/-- Home lines after a move. -/
def moveLine (h : Tab (Fin 4)) (m : Nat × Loc) : Tab (Fin 4) :=
  match m.2 with
  | .global => Tab.del h m.1
  | .barn b => Tab.set h m.1 b

/-- Home lines after the moves that have begun. -/
def finalHome (s : State) : Tab (Fin 4) := s.yard.moves.foldl moveLine s.yard.homeLoc

/-- The private data of a task move to the barn of its assigned stall, as many lines as its SRAM takes, and the rest to the global
image memory (R151, R272). -/
def moveHome (r : TaskRec) (b : Fin 4) (s : State) : State :=
  (privLines r).foldl (fun s line =>
    let h := finalHome s
    if Tab.find h line = some b then s
    else if barnFits s (Tab.set h line b) s.yard.ringLoc b then
      { s with yard := { s.yard with moves := s.yard.moves ++ [(line, .barn b)] } }
    else if (Tab.find h line).isSome && globalFits s (Tab.del h line) then
      { s with yard := { s.yard with moves := s.yard.moves ++ [(line, .global)] } }
    else s) s

/-- Accesses of the stalls of barn `b` to a home line. -/
def accesses (s : State) (line : Nat) (b : Fin 4) : Nat :=
  (allTasks.map (fun t => Tab.getD s.yard.traffic (trafficKey line t.toNat b.val) 0)).sum

/-- Where a line of global data belongs: the barn whose stalls make more than half of its accesses, or the global image memory (R151). -/
def trafficHome (s : State) (line : Nat) : Loc :=
  let all := ((List.finRange 4).map (accesses s line)).sum
  match (List.finRange 4).find? (fun b => decide (all < 2 * accesses s line b)) with
  | some b => .barn b
  | none => .global

/-! ### Publication (R142 to R151) -/

/-- The assigned stall of a copy. -/
def assign (p : PlaceStep) (s : State) : State :=
  modTask p.task (fun k => if p.copyB then { k with placeB := some p.dest } else { k with placeA := some p.dest }) s

/-- The assignments once some steps have been taken. -/
def layoutOf (ps : List PlaceStep) (s : State) : State := ps.foldl (fun s p => assign p s) s

/-- The effective deadline of a task in ns (R68). -/
def deadlineNs (s : State) (r : TaskRec) : Nat :=
  1000 * s.time.tickUs * (if r.attr.deadline = 0 && !isEvent r.attr.taskId then r.attr.period.toNat else r.attr.deadline.toNat)

/-- The slack condition of Table 2 for an estimated execution time (R156). -/
def slackOk (s : State) (b : Bytes) (r : TaskRec) (ns : Nat) : Bool :=
  (isEvent r.attr.taskId && r.attr.deadline = 0) ||
  decide (100 * ns ≤ (100 - fieldAt b (74 + 4 * r.attr.taskId.toNat) 1) * deadlineNs s r)

/-- Voluntary steps of a task are not ruled out at base tick `n` (R156), but for MIG_GAP. -/
def voluntary (b : Bytes) (n : Nat) (t : BitVec 7) : Bool := fieldAt b (74 + 4 * t.toNat) 1 != 255 && !nmw b n

/-- MIG_GAP commits have been made since the previous step (R156). -/
def gapOk (s : State) (b : Bytes) (t : BitVec 7) : Bool := decide (fieldAt b (75 + 4 * t.toNat) 1 ≤ (task s t).sinceStep)

/-- A step is a voluntary one: balance, consolidation or thermal. -/
def isVoluntary (p : PlaceStep) : Bool := p.cause = 0 || p.cause = 1 || p.cause = 5

/-- The destination of a step is in service and keeps the rules in the layout `l` that all steps give. -/
def destOk (l : State) (b : Bytes) (p : PlaceStep) : Bool := servable l b p.task p.copyB p.dest

/-- The copies of a task: A, and B of a paired one. -/
def copyNames (r : TaskRec) : List Bool := if r.attr.paired then [false, true] else [false]

/-- Task copies assigned to a barn. -/
def barnLoad (l : State) (b : Fin 4) : Nat :=
  (l.proj.cur.tasks.flatMap (fun r => (copyNames r).filter (fun c => (placeOf (task l r.attr.taskId) c).any (fun u => u.barn = b)))).length

/-- A published step or first placement has a cause at base tick `n`: a voluntary one that is not ruled out (R156, R176), a rule that
the assigned stall breaks (R149) or a pair in barns of one parity that it parts (R298; log entry 116), a DEGRADED stall or a caller without
a working solver (R163, R697), a failed stall (R164). The copies of a paired task come into barns of one parity only where the rules and the
stalls leave no other (R298). -/
def stepOk (s l : State) (b : Bytes) (n : Nat) (p : PlaceStep) : Bool :=
  let k := task s p.task
  match taskRec s p.task with
  | none => false
  | some r =>
    destOk l b p && (!p.copyB || r.attr.paired) &&
    (otherPhase l p.task p.copyB p.dest ||
      (candidates l b p.task p.copyB).all (fun v => !(otherPhase l p.task p.copyB v && roomOn s v))) &&
    (match placeOf k p.copyB with
     | none => true
     | some u =>
       decide (u ≠ p.dest) &&
       (if isVoluntary p then
          voluntary b n p.task && slackOk s b r p.estimateNs && (p.cause != 1 || !hot s) &&
          (p.cause != 5 || (hot s && awake s p.dest && decide (barnLoad s p.dest.barn < barnLoad s u.barn)))
        else if p.cause = 2 then !nmw b n && (!rulesOk s b p.task p.copyB u || (!otherPhase s p.task p.copyB u && otherPhase l p.task p.copyB p.dest))
        else if p.cause = 3 then !nmw b n && ((stall s u).state = 3 || (k.caller && !solverWorks s u.barn))
        else p.cause = 4 && (stall s u).state = 4))

/-- A task that the placement of base tick `n` must leave where it may run: one released at `n`, one that waits for its start, an event
task with a placement. -/
def mustRun (s : State) (n : Nat) (r : TaskRec) (copyB : Bool) : Bool :=
  let k := task s r.attr.taskId
  mayMove k && (k.inst.isSome || (k.enabled && (patternAt r n || (isEvent r.attr.taskId && (placeOf k copyB).isSome))))

/-- Every such task is placed where it may run, as far as any stall is left to it: first placements and forced steps are taken (R142,
R144, R149, R163, R164, R697). -/
def allPlaced (s l : State) (b : Bytes) (n : Nat) : Bool :=
  s.proj.cur.tasks.all (fun r => (copyNames r).all (fun c =>
    let t := r.attr.taskId
    !mustRun s n r c || placedOk l b n t c || (candidates l b t c).isEmpty))

/-- A stall has not been idle for 60 s (R167). -/
def neverIdle (s : State) (u : StallId) : Bool :=
  (!(residents s u).isEmpty || decide (s.time.task < (stall s u).since + 50 * usUnit)) &&
  decide ((stall s u).lastIdle + 60000000 * usUnit ≤ s.time.task)

/-- A copy may be moved voluntarily for base tick `n`, as far as the slack condition allows (R156). -/
def movable (s : State) (b : Bytes) (n : Nat) (t : BitVec 7) : Bool := mayMove (task s t) && voluntary b n t && gapOk s b t

/-- The publication steps the copy, or states an estimate for it that fails the slack condition. -/
def stepsOrStays (s : State) (b : Bytes) (p : Publication) (r : TaskRec) (c : Bool) : Bool :=
  p.steps.any (fun q => q.task = r.attr.taskId && q.copyB = c) ||
  p.stays.any (fun q => q.1 = r.attr.taskId && q.2.1 = c && !slackOk s b r q.2.2)

/-- The tasks of a stall that has not been idle for 60 s step away, where a voluntary step is open to them: a task that stays has an
estimate that fails the slack condition (R167). -/
def groomFreed (s l : State) (b : Bytes) (n : Nat) (p : Publication) : Bool :=
  s.proj.cur.tasks.all (fun r => (copyNames r).all (fun c =>
    let t := r.attr.taskId
    match placeOf (task s t) c with
    | none => true
    | some u =>
      !(stallActive s u && neverIdle s u && movable s b n t) || (candidates l b t c).isEmpty || stepsOrStays s b p r c))

/-- No pair stays in barns of one parity while the rules and the stalls leave either copy a stall of the other, outside every no-migration
window and when a step of it may begin (R156, R298). -/
def phasesOk (s l : State) (b : Bytes) (n : Nat) : Bool :=
  s.proj.cur.tasks.all (fun r =>
    let t := r.attr.taskId
    !r.attr.paired || otherPhase l t false ((task l t).placeA.getD ⟨0, 0⟩) || (task l t).placeA.isNone || !mayMove (task s t) || nmw b n ||
    [false, true].all (fun c => (candidates l b t c).all (fun v => !(otherPhase l t c v && roomOn s v))))

/-- At 100 °C the load is spread over every powered barn: no copy that may move stays in a barn that has two or more copies more than another
ON barn in which the rules leave it a stall (R176). -/
def spreadOk (s l : State) (b : Bytes) (n : Nat) (p : Publication) : Bool :=
  !hot s || s.proj.cur.tasks.all (fun r => (copyNames r).all (fun c =>
    let t := r.attr.taskId
    match placeOf (task l t) c with
    | none => true
    | some u => !movable s b n t || stepsOrStays s b p r c ||
      (candidates l b t c).all (fun v => !(awake s v && roomOn s v) || decide (barnLoad l u.barn ≤ barnLoad l v.barn + 1))))

/-- A barn that is ON, waking or to be woken by the publication. -/
def barnComes (s : State) (p : Publication) (b : Fin 4) : Bool := (barn s b).power != 0 || p.wake.contains b

/-- The barns of the releases that the next placement could not wake in time are woken: those of the coming tick, and those less than
16 µs after the tick that follows (R171, R174). A release of the coming tick goes to a barn that is up or waking already, where the rules
leave its copy a stall in one. -/
def wakesInTime (s l : State) (b : Bytes) (p : Publication) : Bool :=
  let next := ((ticksUntil (2 ^ 64) 2 s).getLast?.map Prod.snd).getD 0
  (ticksUntil (next + 15) 16 s).all (fun n => (dueTasks s n.1).all (fun r => (copyNames r).all (fun c =>
    let t := r.attr.taskId
    ((placeOf (task l t) c).map (fun u => barnComes s p u.barn &&
      (n.1 != nextTick s || (barn s u.barn).power != 0 || (candidates l b t c).all (fun v => !awake s v)))).getD true)))

/-- ACTIVE stalls of some barns that take no instance at base tick `n`. -/
def reserve (s l : State) (n : Nat) (on : Fin 4 → Bool) : Nat :=
  (allStalls.filter (fun u => stallActive s u && on u.barn && (residents s u).isEmpty &&
    (dueTasks s n).all (fun r => (copyNames r).all (fun c => placeOf (task l r.attr.taskId) c != some u)))).length

/-- WAKE_RESERVE of a placement block. -/
def wakeReserve (b : Bytes) : Nat := bitsOf (fieldAt b 0 1) 2 0

/-- ACTIVE stalls without a resident instance in barns that are up. -/
def emptyStalls (s : State) (on : Fin 4 → Bool) : Nat :=
  (allStalls.filter (fun u => stallActive s u && on u.barn && (residents s u).isEmpty)).length

/-- A stall that takes an instance at base tick `n` in the layout `l`, or holds one. -/
def taken (s l : State) (n : Nat) (u : StallId) : Bool :=
  !(residents s u).isEmpty || (dueTasks s n).any (fun r => (copyNames r).any (fun c => placeOf (task l r.attr.taskId) c = some u))

/-- No copy due at base tick `n` takes an empty stall of an ON barn where the rules leave it an awake one that another instance takes. -/
def sharesStalls (s l : State) (b : Bytes) (n : Nat) : Bool :=
  (dueTasks s n).all (fun r => (copyNames r).all (fun c =>
    let t := r.attr.taskId
    match placeOf (task l t) c with
    | none => true
    | some u => !(awake s u && (residents s u).isEmpty) ||
      (candidates l b t c).all (fun v => !(awake s v && roomOn s v && taken s l n v))))

/-- WAKE_RESERVE stalls of ON barns stay without an instance (R146). Where the instances that are resident and those that are due leave
the ON barns with fewer, however they share stalls, barns are up or come that make up for it, or every barn is. -/
def reserveOk (s l : State) (b : Bytes) (n : Nat) (p : Publication) : Bool :=
  let on (x : Fin 4) : Bool := (barn s x).power = 2 && !p.off.contains x
  let up (x : Fin 4) : Bool := barnComes s p x && !p.off.contains x
  decide (wakeReserve b ≤ reserve s l n on) ||
  (sharesStalls s l b n && (decide (wakeReserve b ≤ reserve s l n up) || (List.finRange 4).all (fun x => !(barn s x).present || up x)))

/-- A published move takes a line where R151 puts it: private data to the barn of an assigned stall, a global to the barn of most
accesses, and any line of a barn that is to be powered off to the global image memory (R153); in a no-migration window only the
private data of a stepping task moves (R152). -/
def moveOk (s l : State) (b : Bytes) (n : Nat) (p : Publication) (m : Nat × Loc) : Bool :=
  let priv := decide (2 ^ 32 ≤ m.1) && decide (m.1 / 2 ^ 32 ≤ 128)
  let k := task l (taskNo (m.1 / 2 ^ 32 - 1))
  let leaves := ((Tab.find (finalHome s) m.1).map (fun x => p.off.contains x || s.yard.offDue.contains x)).getD false
  (!nmw b n || p.steps.any (fun x => m.1 / 2 ^ 32 = x.task.toNat + 1)) && m.1 % 64 = 0 &&
  (match m.2 with
   | .barn x => (barn s x).present && (barn s x).power = 2 && !p.off.contains x &&
      (if priv then k.placeA.any (fun u => u.barn = x) || k.placeB.any (fun u => u.barn = x)
       else decide (globBase ≤ m.1) && decide (m.1 < 0x00800000) && trafficHome s m.1 = .barn x)
   | .global => leaves ||
      (if priv then [k.placeA, k.placeB].all (fun o => (o.map (fun u =>
          !barnFits s (Tab.set (finalHome s) m.1 u.barn) s.yard.ringLoc u.barn)).getD true)
       else trafficHome s m.1 = .global))

/-- Published moves, rings, wakes and power-offs keep the rules, and every SRAM has room for what it is to hold (R23, R151 to R153,
R176). -/
def movesOk (s l : State) (b : Bytes) (n : Nat) (p : Publication) : Bool :=
  let rings := p.rings.foldl (fun t r => Tab.set t r.1.val r.2) s.yard.ringLoc
  let home := p.moves.foldl moveLine (finalHome s)
  p.moves.all (moveOk s l b n p) && (p.moves.isEmpty || globalFits s home) &&
  ((p.moves.isEmpty && p.rings.isEmpty) || (List.finRange 4).all (barnFits s home rings)) &&
  p.rings.all (fun r => decide (r.1.val < nCan s) && (barn s r.2).present && (barn s r.2).power = 2 && !p.off.contains r.2) &&
  p.wake.all (fun x => (barn s x).present) && (p.off.isEmpty || !hot s)

/-- What the yardmaster may publish for base tick `n` under the placement block `b` (R142 to R151, R163 to R167, R171, R298). -/
def publishOk (s : State) (b : Bytes) (n : Nat) (p : Publication) : Bool :=
  let l := layoutOf p.steps s
  p.steps.all (stepOk s l b n) && allPlaced s l b n && groomFreed s l b n p && phasesOk s l b n && spreadOk s l b n p && wakesInTime s l b p && reserveOk s l b n p && movesOk s l b n p

/-- A published placement names a stall that has failed or been retired since (R166). -/
def namesFailed (s : State) : Bool := (s.yard.published.map (fun p => p.steps.any (fun q => !stallActive s q.dest))).getD false

/-- The publication comes in time: at least 2 µs before the tick, or in place of one that a stall's failure has overtaken (R142, R145,
R166). -/
def publishTime (s : State) : Bool :=
  if s.yard.published.isSome then namesFailed s
  else decide (s.time.task + 2 * usUnit ≤ tickTime s (nextTick s) * usUnit)

/-- PAIR_PHASE_SAME of the instance of task `t`, or of its coming one, has been raised. -/
def phaseNoted (s : State) (t : BitVec 7) : Bool :=
  match (task s t).inst with
  | some r => r.phased
  | none => s.yard.phased.contains t.toNat

/-- Copies A and B of a paired task placed in barns of the same parity: once for each instance, the coming one where none is released
(R298). -/
def phaseSame (t : BitVec 7) (a b : Option StallId) (s : State) : State :=
  match isPaired s t, a, b with
  | true, some a, some b =>
    if a.barn.val % 2 = b.barn.val % 2 && !phaseNoted s t then
      let s := if (task s t).inst.isSome then modTask t (fun k => { k with inst := k.inst.map (fun r => { r with phased := true }) }) s
        else { s with yard := { s.yard with phased := t.toNat :: s.yard.phased } }
      raiseTask t 0x0142 0 (a.barn.val + 4 * b.barn.val) (modCtr t (fun c => { c with phaseSame := satAdd 16 c.phaseSame 1 }) s)
    else s
  | _, _, _ => s

/-- PAIR_PHASE_SAME of the tasks that a publication for base tick `n` is about, once for each coming instance (R298). -/
def notePhases (n : Nat) (steps : List PlaceStep) (s : State) : State :=
  let l := layoutOf steps s
  if runs s && !s.mode.pause then
    (dueTasks s n).foldl (fun s r =>
      let t := r.attr.taskId
      if (task s t).inst.isSome then s else phaseSame t (task l t).placeA (task l t).placeB s) s
  else s

/-- PLACEMENT_PUBLISH (R142, R144, R149, R166, R298). The placement settings block in force now applies from its tick on. -/
def execPlacementPublish (p : Publication) (s : State) : Res :=
  let n := nextTick s
  let b := block s 0x0102
  .next (if alive s && s.time.running && s.time.t0Fixed && publishTime s && publishOk s b n p then
    notePhases n p.steps { s with yard := { s.yard with published := some p, rulesDue := some b } }
  else s)

/-! ### Steps (R154 to R160) -/

/-- The stall byte of TASK_MOVED. -/
def movedByte (u : StallId) : Nat := u.stall.val + 8 * u.barn.val

/-- A copy takes its new assigned stall (R157): with a previous one it is a turntable step, whose epoch and fence both copies
share. The task's private data follow it, those of a pair its copy A, directly after the fence of a step (R151, R152; log entry 109).
STEPS_TOTAL saturates, and so does WAKES_TOTAL (R182; log entry 94). -/
def takeStep (again : Bool) (p : PlaceStep) (s : State) : State :=
  let k := task s p.task
  let s1 := assign p s
  let home (s : State) : State := match taskRec s p.task with
    | some r => if p.copyB then s else moveHome r p.dest.barn s
    | none => s
  match placeOf k p.copyB with
  | none => if nmw s.yard.rules s.time.tickNo then s1 else home s1
  | some u =>
    let s2 := if again then s1 else
      modTask p.task (fun k => { k with
        epoch := k.epoch + 1, fence := some s.time.task, markers := 0, inFlight := 0, sinceStep := 0
        ctr := { k.ctr with steps := satAdd 16 k.ctr.steps 1 } })
        { s1 with yard := { s1.yard with stepsTotal := satAdd 32 s1.yard.stepsTotal 1 } }
    raiseTask p.task 0x0201 0 (movedByte u + 2 ^ 8 * movedByte p.dest + 2 ^ 16 * (task s2 p.task).epoch.toNat +
      2 ^ 32 * p.cause.toNat + 2 ^ 40 * b2n p.copyB) (home s2)

/-- The published steps that can begin: the task may move, a voluntary one has its gap, and the destination still keeps the rules in
the layout of those that begin (R144, R156, R166). -/
def liveSteps (s : State) (b : Bytes) : Nat → List PlaceStep → List PlaceStep
  | 0, _ => []
  | k + 1, ps =>
    let l := layoutOf ps s
    let ok := ps.filter (fun p => mayMove (task s p.task) && (!isVoluntary p || (placeOf (task s p.task) p.copyB).isNone || gapOk s b p.task) &&
      destOk l b p)
    if ok.length = ps.length then ps else liveSteps s b k ok

/-- Steps begin one after the other; the second of a paired task shares the first one's epoch and fence. -/
def takeSteps : List (BitVec 7) → List PlaceStep → State → State
  | _, [], s => s
  | done, p :: l, s =>
    takeSteps (if (placeOf (task s p.task) p.copyB).isSome then p.task :: done else done) l (takeStep (done.contains p.task) p s)

/-- A ring goes to a barn whose SRAM has room for it (R23). -/
def placeRing (k : Nat) (b : Fin 4) (s : State) : State :=
  let t := Tab.set s.yard.ringLoc k b
  if barnFits s (finalHome s) t b then { s with yard := { s.yard with ringLoc := t } } else s

/-- A barn that stays powered. -/
def staysOn (s : State) (b : Fin 4) : Bool := (barn s b).power = 2 && !s.yard.offDue.contains b

/-- Every CAN receive ring lies in a powered barn (R151, R153): one that lies in none, or in one to be powered off, goes to the first that
takes it. -/
def placeRings (s : State) : State :=
  (List.range (nCan s)).foldl (fun s k =>
    if (Tab.find s.yard.ringLoc k).any (staysOn s) then s
    else (List.finRange 4).foldl (fun s b =>
      if staysOn s b && !(Tab.find s.yard.ringLoc k).any (staysOn s) then placeRing k b s else s) s) s

/-- The lines of global data that the gateways have counted. -/
def countedLines (s : State) : List Nat :=
  ((s.yard.traffic.map (fun x => x.1 / 512 * 64)).eraseDups).filter (fun l => decide (globBase ≤ l) && decide (l < globBase + s.proj.cur.globalSize))

/-- A line of global data moves to where R151 puts it, where there is room. -/
def moveGlobal (s : State) (line : Nat) : State :=
  let h := finalHome s
  let m := trafficHome s line
  let ok := match m with
    | .barn b => staysOn s b && Tab.find h line != some b && barnFits s (Tab.set h line b) s.yard.ringLoc b
    | .global => (Tab.find h line).isSome && globalFits s (Tab.del h line)
  if ok then { s with yard := { s.yard with moves := s.yard.moves ++ [(line, m)] } } else s

/-- Lines of a barn that holds more than its SRAM takes, because an edit has made rung data less, move to the global image memory (R23,
R272). -/
def relieveBarn (s : State) (b : Fin 4) : State :=
  ((finalHome s).filter (fun x => x.2 = b && !rungLine s x.1)).foldl (fun s x =>
    let h := finalHome s
    if barnFits s h s.yard.ringLoc b || !globalFits s (Tab.del h x.1) then s
    else { s with yard := { s.yard with moves := s.yard.moves ++ [(x.1, .global)] } }) s

/-- The private data of every placed task moves to its barn, and globals and rings go where they belong, as far as there is room (R151, R272):
what a window, a full memory or a dark barn has kept elsewhere is made good at the next base tick outside every window. -/
def homeDuties (s : State) : State :=
  let s := s.proj.cur.tasks.foldl (fun s r => match (task s r.attr.taskId).placeA with
    | some u => if staysOn s u.barn then moveHome r u.barn s else s
    | none => s) s
  (List.finRange 4).foldl relieveBarn (placeRings ((countedLines s).foldl moveGlobal s))

/-- A published placement begins at its base tick: steps, moves, rings, wakes and power-offs (R142, R152). -/
def takePublication (p : Publication) (s : State) : State :=
  let s := takeSteps [] (liveSteps s s.yard.rules (p.steps.length + 1) p.steps) s
  let s := { s with yard := { s.yard with moves := s.yard.moves ++ p.moves, offDue := s.yard.offDue ++ p.off } }
  let s := p.rings.foldl (fun s r => placeRing r.1.val r.2 s) s
  let s := p.wake.foldl (fun s b => wakeBarn b s) s
  if nmw s.yard.rules s.time.tickNo || !s.proj.loaded then s else homeDuties s

/-- The placement of base tick `n` (R142, R143, R149): the published one, with the placement block it was made under, or the standing
one with YARD_LATE. -/
def placeTick (n : Nat) (s : State) : State :=
  match s.yard.published with
  | some p =>
    let b := s.yard.rulesDue.getD s.yard.rules
    takePublication p { s with yard := { s.yard with
      published := none, rulesDue := none, late := false, rules := b
      rulesTick := if b = s.yard.rules then s.yard.rulesTick else n } }
  | none =>
    if s.yard.late then s else raise 0x2000 0x0220 0 n { s with yard := { s.yard with late := true } }

/-! ### The placement at a release (R142, R150, R166, R172, R698) -/

/-- What the release of a task needs another stall for, as the cause of TASK_MOVED: its stall has failed, which moves it at a base tick
only (R156, R166); for an event task it has none, or it lies in a barn that is not ON (R172); it has no room, outside every no-migration
window (R698). At a late base tick every task keeps its stall (R143). -/
def releaseCause (atTick : Bool) (s : State) (t : BitVec 7) (copyB : Bool) : Option Byte :=
  if atTick && s.yard.late then none
  else match placeOf (task s t) copyB with
  | none => if isEvent t then some 6 else none
  | some u =>
    if (stall s u).state = 4 || !(barn s u.barn).present then (if atTick then some 4 else none)
    else if isEvent t && !awake s u then some 6
    else if !roomOn s u && !nmw s.yard.rules s.time.tickNo then some 7
    else none

/-- The stalls that a release may go to instead: within the rules now and with the published steps, with room, awake ones where there
are any and only those for an event placement, of the other parity where there are any: before all else at a first placement and a forced
one (R298), among the awake ones where R172 or R698 asks for those. The reserve of awake stalls is for event tasks: a capacity placement of
another leaves it, and a forced one where it can (R146, R698). -/
def releaseStalls (s : State) (t : BitVec 7) (copyB : Bool) (cause : Byte) : List StallId :=
  let b := s.yard.rules
  let l := layoutOf ((s.yard.published.map (fun p => p.steps)).getD []) s
  let spare (u : StallId) : Bool := isEvent t || !awake s u || !(residents s u).isEmpty ||
    decide (wakeReserve b < emptyStalls s (fun x => (barn s x).power = 2))
  let open_ := (candidates s b t copyB).filter (fun u => roomOn s u && rulesOk l b t copyB u)
  let some_ := open_.filter spare
  let all := if cause != 7 && some_.isEmpty then open_ else some_
  let up (l : List StallId) : List StallId := l.filter (awake s)
  let first (l : List StallId) : List StallId := if (up l).isEmpty then l else up l
  if cause = 6 && (placeOf (task s t) copyB).isSome then preferPhase s t copyB (up all)
  else if cause = 7 then preferPhase s t copyB (first all)
  else first (preferPhase s t copyB all)

/-- What keeps a copy unplaced: nothing where a stall within the rules has room, else R63 or R107 (CAPACITY) where the rules alone leave
one, else the rules (R150). -/
def lackCause (s : State) (t : BitVec 7) (copyB : Bool) : Option Byte :=
  let us := candidates s s.yard.rules t copyB
  if us.any (roomOn s) then none else if us.isEmpty then some 5 else some 4

/-- The cause that a start slip has whatever its parts: CAPACITY where a capacity placement was made or the assigned stall has no
room, RULE or CAPACITY where no stall was left (R150, R698), PIN where entries are still to be loaded (R179). -/
def slipCause (s : State) (r : TaskRec) (copyB moved : Bool) (cause : Option Byte) : Option Byte :=
  let t := r.attr.taskId
  if moved && cause = some 7 then some 4
  else match placeOf (task s t) copyB with
    | none => lackCause s t copyB
    | some u =>
      if !placedOk s s.yard.rules s.time.tickNo t copyB then lackCause s t copyB
      else if !roomOn s u then some 4
      else if pinWait s r then some 6
      else none

/-- The placement of one copy at its release: another stall where it needs one and the rules leave one, the one that the yardmaster
prefers where it is among them, else chosen freely; the dark barn of the stall it takes, or keeps where the rules leave none, is woken
(R172). -/
def placeCopy (atTick : Bool) (r : TaskRec) (want : Option StallId) (again copyB : Bool) (s : State) : Bool × State :=
  let t := r.attr.taskId
  let cause := releaseCause atTick s t copyB
  let done : Bool × State := match cause with
    | none => (false, s)
    | some c =>
      let us := releaseStalls s t copyB c
      if us.isEmpty then
        (false, match placeOf (task s t) copyB with
          | some u => if c = 6 then wakeBarn u.barn s else s
          | none => s)
      else
        let (k, s) := takeFree s
        let u := match want.filter (fun v => us.contains v) with
          | some v => v
          | none => us.getD (Config.freeNat k % us.length) ⟨0, 0⟩
        (true, wakeBarn u.barn (takeStep again { task := t, copyB := copyB, dest := u, cause := c, estimateNs := 0 } s))
  let why := slipCause done.2 r copyB done.1 cause
  (done.1, modTask t (fun k => { k with inst := k.inst.map (fun x =>
    if copyB then { x with slipB := why } else { x with slipA := why }) }) done.2)

/-- The yardmaster names no stall. -/
def noPlace : EventPlace := { a := none, b := none }

/-- The placement of a released task (R142, R166, R172, R298, R698), at a base tick or not. A task whose fence has not completed is placed
when it has (R160). -/
def placeRelease (atTick : Bool) (r : TaskRec) (want : EventPlace) (s : State) : State :=
  let t := r.attr.taskId
  let hadA := (task s t).placeA.isSome
  if (task s t).fence.isSome then s
  else
    let a := placeCopy atTick r want.a false false s
    let s := if r.attr.paired then (placeCopy atTick r want.b (a.1 && hadA) true a.2).2 else a.2
    phaseSame t (task s t).placeA (task s t).placeB s

/-- The release of a task that waits for its start is placed again: after its fence (R160, R172, R698), and at a base tick where its stall
has failed (R156, R166). -/
def replaceTask (atTick : Bool) (t : BitVec 7) (s : State) : State :=
  match taskRec s t, (task s t).inst with
  | some r, some x => if x.started then s else placeRelease atTick r noPlace s
  | _, _ => s

/-- Every task whose release waits on a failed stall is placed again at a base tick (R156, R166). -/
def replaceLost (s : State) : State :=
  allTasks.foldl (fun s t =>
    let lost (c : Bool) : Bool := (placeOf (task s t) c).any (fun u => (stall s u).state = 4)
    if lost false || (isPaired s t && lost true) then replaceTask true t s else s) s

/-! ### Fences and home-line moves (R152, R157, R158) -/

/-- DRAIN_FENCE_COMPLETE (R157, R158): markers arrive; once every source's has, the old placement is released. -/
def execDrainFenceComplete (m : FenceMarkers) (s : State) : Res :=
  let t := m.task
  .next (if (task s t).fence.isSome && alive s then
    let all := (task s t).markers ||| m.markers
    if all = 127 then replaceTask false t (modTask t (fun k => { k with fence := none, markers := 0, inFlight := 0 }) s)
    else modTask t (fun k => { k with markers := all }) s
  else s)

/-- RESULT_FORWARDED (R154, R157, Table 3): a result tagged with the old epoch, from a source whose marker has not arrived, goes on to
the new placement. No instance requested it, so that its start commit number is zero: a requested result cannot occur here (R156). -/
def execResultForwarded (r : Forwarded) (s : State) : Res :=
  let t := r.task
  .next (if (task s t).fence.isSome && alive s && r.tag + 1 = (task s t).epoch && r.start = 0 && !(task s t).markers.getLsbD r.source.val then
    modTask t (fun k => { k with inFlight := k.inFlight + 1 }) s else s)

/-- The task whose private data a line holds takes a step whose fence has not completed. -/
def lineWaits (s : State) (line : Nat) : Bool :=
  decide (2 ^ 32 ≤ line) && decide (line / 2 ^ 32 ≤ 128) && (task s (taskNo (line / 2 ^ 32 - 1))).fence.isSome

/-- HOME_LINE_MOVE (R23, R27, R152): the line is served from its new home; both versions go with it. The target has
room, and a barn is ON. It may be written where a bad line was (R168). -/
def execHomeLineMove (line : Nat) (s : State) : Res :=
  .next (match s.yard.moves.find? (fun m => m.1 = line) with
  | none => s
  | some m =>
    let home := moveLine s.yard.homeLoc m
    let can := match m.2 with
      | .global => globalFits s home
      | .barn b => (barn s b).power = 2 && barnFits s home s.yard.ringLoc b
    if lineWaits s line || !alive s || !can then s
    else liftBad (match m.2 with
        | .global => 0
        | .barn b => b.val + 1) { s with yard := { s.yard with moves := s.yard.moves.erase m, homeLoc := home } })

end Sys2Proof.Machine
end

