-- ==== Sys2Proof/Machine/Yard.lean ====
section
/-! DEFINITION. Barn power, the farrier and the groom (The Yardmaster). -/

namespace Sys2Proof.Machine

/-! ### Barn power (R169, R170) -/

/-- A power operation of `ns` nanoseconds ends now; none when the budget of 1.5 A/µs would have been exceeded at some instant
of it (R170). -/
def powerOp (ns mA : Nat) (s : State) : Option State :=
  let now := s.time.task
  let from_ := now - ns * (usUnit / 1000)
  let ops := s.yard.ledger
  let at_ (x : Nat) : Nat := mA + ((ops.filter (fun o => decide (o.1 ≤ x) && decide (x < o.2.1))).map (fun o => o.2.2)).sum
  if (from_ :: (ops.map (fun o => o.1)).filter (fun x => decide (from_ ≤ x))).all (fun x => decide (at_ x ≤ 1500)) then
    some { s with yard := { s.yard with
      ledger := ops.filter (fun o => decide (now < o.2.1 + 8 * usUnit)) ++ [(from_, now, mA)] } }
  else none

/-- A power operation ends when its occasion holds, with its effect. -/
def powered (on : Bool) (ns mA : Nat) (effect : State → State) (s : State) : State :=
  if on && alive s then ((powerOp ns mA s).map effect).getD s else s

/-- WAKE_DECISION (R169, R172): an OFF barn begins to wake. -/
def execWakeDecision (b : Fin 4) (s : State) : Res :=
  .next (if alive s then wakeBarn b s else s)

/-- A barn is waking and has done operation `n`. -/
def wakeAt (s : State) (b : Fin 4) (n : Nat) : Bool := (barn s b).power = 1 && (barn s b).wake = n

/-- BARN_POWER_SWITCH_ON (R169): 2.0 µs, 0.2 A/µs. -/
def execBarnPowerSwitchOn (b : Fin 4) (s : State) : Res :=
  .next (powered (wakeAt s b 1) 2000 200 (modBarn b (fun x => { x with wake := 2 })) s)

/-- BARN_PLL_LOCK (R168, R169): 6.0 µs, 0.01 A/µs; the SRAM is cleared with valid ECC. -/
def execBarnPllLock (b : Fin 4) (s : State) : Res :=
  .next (powered (wakeAt s b 2) 6000 10 (fun s => modBarn b (fun x => { x with wake := 3 })
    { s with yard := { s.yard with bad := s.yard.bad.filter (fun x => x.1 != b.val + 1) } }) s)

/-- BARN_CLOCK_RAMP (R169): 3.0 µs, 0.5 A/µs; the barn is ON. -/
def execBarnClockRamp (b : Fin 4) (s : State) : Res :=
  .next (powered (wakeAt s b 3) 3000 500 (modBarn b (fun x => { x with wake := 4, power := 2 })) s)

/-- STALL_UNGATE (R169): 0.5 µs, 0.3 A/µs. -/
def execStallUngate (u : StallId) (s : State) : Res :=
  .next (powered ((barn s u.barn).power = 2 && !(stall s u).ungated && (stall s u).state != 4) 500 300
    (modStall u (fun x => { x with ungated := true })) s)

/-- SOLVER_UNGATE (R169): 0.5 µs, 0.4 A/µs. -/
def execSolverUngate (b : Fin 4) (s : State) : Res :=
  .next (powered ((barn s b).power = 2 && !(barn s b).solverOn && !(barn s b).solverOut) 500 400
    (modBarn b (fun x => { x with solverOn := true })) s)

/-- STALL_GATE (R41, R169): an idle stall, or the idle solver, of a barn stops. -/
def execStallGate (b : Fin 4) (k : Option (Fin 5)) (s : State) : Res :=
  .next (match k with
  | some i =>
    let u : StallId := ⟨b, i⟩
    powered ((stall s u).ungated && (residents s u).isEmpty) 500 300 (modStall u (fun x => { x with ungated := false })) s
  | none =>
    powered ((barn s b).solverOn && (barn s b).run.isNone && (barn s b).queue.isEmpty) 500 400
      (modBarn b (fun x => { x with solverOn := false })) s)

/-- The stalls of a barn. -/
def stallsOf (b : Fin 4) : List StallId := (List.finRange 5).map (fun i => ⟨b, i⟩)

/-- A copy of the task is assigned to a stall of the barn. -/
def onBarn (k : TaskSt) (b : Fin 4) : Bool := k.placeA.any (fun u => u.barn = b) || k.placeB.any (fun u => u.barn = b)

/-- Task time in µs of the next instant of an ALARM, or of the release that a latched trigger waits for (R72, R74). -/
def eventDue (s : State) (r : TaskRec) : Option Nat :=
  let k := task s r.attr.taskId
  let p := r.attr.triggerSel.toNat
  let now := nowUs s
  if k.latch then some ((k.lastRelease.map (fun x => x + r.attr.minRetrigger.toNat)).getD 0)
  else if r.attr.triggerType = 5 && p != 0 then some (now + (r.attr.alarmPhase.toNat % p + p - now % p) % p)
  else none

/-- A release planned within the next 100 µs, or one that waits for its start, is assigned to a stall of the barn, now or by the published
steps (R41, R153). -/
def plannedSoon (s : State) (b : Fin 4) : Bool :=
  let l := layoutOf ((s.yard.published.map (fun p => p.steps)).getD []) s
  let soon := nowUs s + 100
  let here (r : TaskRec) : Bool := onBarn (task s r.attr.taskId) b || onBarn (task l r.attr.taskId) b
  runs s && (
    (ticksUntil soon 128 s).any (fun n => (dueTasks s n.1).any here) ||
    s.proj.cur.tasks.any (fun r =>
      let k := task s r.attr.taskId
      here r && ((k.inst.map (fun x => !x.started)).getD false ||
        (isEvent r.attr.taskId && k.enabled && (eventDue s r).any (fun x => decide (x ≤ soon))))))

/-- Nothing is placed in the barn, and nothing is on its way there (R141, R153). -/
def nothingPlaced (s : State) (b : Fin 4) : Bool :=
  (stallsOf b).all (fun u => (residents s u).isEmpty) && s.yard.homeLoc.all (fun x => x.2 != b) &&
  s.yard.ringLoc.all (fun x => x.2 != b) && s.yard.moves.all (fun m => m.2 != .barn b)

/-- WAKE_RESERVE stalls stay awake without an instance when the barn goes dark (R146). -/
def reserveStays (s : State) (b : Fin 4) : Bool :=
  decide (bitsOf (fieldAt s.yard.rules 0 1) 2 0 ≤
    reserve s s (nextTick s) (fun x => x != b && (barn s x).power != 0))

/-- BARN_POWER_OFF (R41, R146, R153, R169, R176): 7.0 µs, 0.3 A/µs; local data does not survive. -/
def execBarnPowerOff (b : Fin 4) (s : State) : Res :=
  .next (powered ((barn s b).power = 2 && s.yard.offDue.contains b && nothingPlaced s b && !plannedSoon s b && reserveStays s b && !hot s)
    7000 300
    (fun s =>
      let s := (stallsOf b).foldl (fun s u => modStall u (fun x => { x with ungated := false, mem := [] }) s) s
      modBarn b (fun x => { x with power := 0, wake := 0, solverOn := false })
        { s with yard := { s.yard with offDue := s.yard.offDue.filter (fun x => x != b) } }) s)

/-! ### The farrier (R161 to R166) -/

/-- SOURCE of a stall's events (R180). -/
def stallSource (u : StallId) : Nat := 0x2010 + 8 * u.barn.val + u.stall.val

/-- SOURCE of a barn's events (R180). -/
def barnSource (b : Fin 4) : Nat := 0x2040 + b.val

/-- A stall becomes DEGRADED (R162). -/
def degrade (u : StallId) (byTest : Bool) (s : State) : State :=
  if (stall s u).state = 3 || (stall s u).state = 4 then s
  else
    let s := modStall u (fun x => { x with state := 3, byTest := byTest }) s
    raise (stallSource u) 0x0211 0 ((stall s u).margin % 256 + 2 ^ 8 * b2n byTest) s

/-- A margin is read (R161, R162). -/
def readMargin (u : StallId) (m : Nat) (s : State) : State :=
  if (stall s u).state = 4 then s
  else
    let aged := (stall s u).aged
    let s := modStall u (fun x => { x with margin := m, aged := x.aged || decide (m < 12) }) s
    let s := if decide (m < 12) && !aged then raise (stallSource u) 0x0210 0 (m % 256) s else s
    if m < 6 then degrade u false s else s

/-- A barn's ACTIVE stalls. -/
def activeLeft (s : State) (b : Fin 4) : Nat := ((stallsOf b).filter (fun u => (stall s u).state = 0)).length

/-- A stall is retired with a cause (R25, R162, R165): the spare of its barn takes its place, or the barn's capacity falls. -/
def retireStall (u : StallId) (cause : Nat) (s : State) : State :=
  let s := modStall u (fun x => { x with state := 4, ungated := false, running := none }) s
  match (stallsOf u.barn).find? (fun v => (stall s v).state = 1) with
  | some v => raise (stallSource u) 0x0213 0 (cause + 2 ^ 8 * v.stall.val) (modStall v (fun x => { x with state := 0 }) s)
  | none => raise (barnSource u.barn) 0x0214 0 (activeLeft s u.barn) (raise (stallSource u) 0x0213 0 (cause + 2 ^ 8 * 0xFF) s)

/-- No task is assigned to the stall. -/
def unassigned (s : State) (u : StallId) : Bool :=
  allTasks.all (fun t => (task s t).placeA != some u && (task s t).placeB != some u)

/-- A solver is retired with a cause (R165, R270): its calls return NO_SOLVER. -/
def retireSolver (b : Fin 4) (cause : Nat) (s : State) : State :=
  let x := barn s b
  let calls := x.run.toList ++ x.queue
  let s := calls.foldl (fun s c => endCall b c errNoSolver c.cycles c.pc.toNat s) (modBarn b (fun x => { x with solverOut := true, solverOn := false }) s)
  let s := modBarn b (fun x => { x with run := none, queue := [] }) s
  raise (barnSource b) 0x0215 0 cause s

/-- FARRIER_READ (R161, R162, R165). -/
def execFarrierRead (stalls : List (StallId × Nat)) (solvers : List (Fin 4 × Nat)) (s : State) : Res :=
  .next (if !alive s then s
  else
    let s := stalls.foldl (fun s x => if (barn s x.1.barn).present then readMargin x.1 x.2 s else s) s
    solvers.foldl (fun s x =>
      if !(barn s x.1).present || (barn s x.1).solverOut then s
      else
        let s := modBarn x.1 (fun y => { y with solverMargin := x.2 }) s
        if x.2 < 6 && (barn s x.1).run.isNone then retireSolver x.1 0 s else s) s)

/-- STALL_RETIRED (R36, R162): the DEGRADED stall holds no instance and no assignment. -/
def execStallRetired (u : StallId) (s : State) : Res :=
  .next (if (stall s u).state = 3 && (residents s u).isEmpty && unassigned s u && alive s then
    retireStall u (b2n (stall s u).byTest) s else s)

/-- STALL_FAILED (R164, R166, R309, R310): the resident instances abort with STALL_LOST, and the stall is retired; releases
that wait for it are placed again at the next base tick (R156). -/
def execStallFailed (u : StallId) (detection : Byte) (s : State) : Res :=
  .next (if (stall s u).state = 4 || !(barn s u.barn).present || detection = 0 || decide (4 < detection.toNat) || !alive s then s
  else
    let rs := residents s u
    let s := rs.foldl (fun s r => faultCopy r.2.task r.2.copyB fcStallLost (2 ^ 8 * u.barn.val + u.stall.val) s) s
    let s := modStall u (fun x => { x with mem := [] }) s
    retireStall u 2 (raise (stallSource u) 0x0212 0 (detection.toNat + 2 ^ 8 * rs.length) s))

/-- SOLVER_RETIRED (R165, R270): for margin or a failed test once no call runs, at once on a failure. -/
def execSolverRetired (b : Fin 4) (cause : Byte) (s : State) : Res :=
  let x := barn s b
  .next (if !x.present || x.solverOut || !alive s then s
  else if cause = 2 || (cause = 1 && x.run.isNone) || (cause = 0 && decide (x.solverMargin < 6) && x.run.isNone) then
    retireSolver b cause.toNat s
  else s)

/-! ### The groom (R167, R168) -/

/-- A stall that the groom may test: a SPARE, or an ACTIVE one without an instance for at least 50 µs (R167). -/
def testable (s : State) (u : StallId) : Bool :=
  (barn s u.barn).present && (residents s u).isEmpty &&
  ((stall s u).state = 1 || (stallActive s u && decide ((stall s u).since + 50 * usUnit ≤ s.time.task)))

/-- GROOM_TEST (R162, R167): a stall is tested; what its local data holds afterwards is not said. -/
def execGroomTest (u : StallId) (passed : Bool) (s : State) : Res :=
  .next (if !testable s u || !alive s then s
  else
    let s := modStall u (fun x => { x with mem := [] }) s
    if passed then s else degrade u true s)

/-- MEMORY_UNCORRECTABLE (R168, R180). -/
def raiseMemory (memory address : Nat) : State → State := raise 0x2000 0x0222 0 (address + 2 ^ 32 * memory)

/-- GROOM_SCRUB (R112, R168, R695): a line that cannot be corrected is not used until it is written again: one of a memory takes no home
line, one of local data reads free values, an entry of a write buffer aborts its transaction with BUFFER_ECC, from RUNNING only (R102). -/
def execGroomScrub (result : ScrubResult) (s : State) : Res :=
  .next (if !alive s then s
  else match result with
  | .clean => s
  | .corrected => s
  | .committed => faultSafe 10 s
  | .memory m a =>
    raiseMemory m.val a.toNat { s with yard := { s.yard with bad := s.yard.bad.filter (fun x => x != (m.val, lineOf a.toNat)) ++ [(m.val, lineOf a.toNat)] } }
  | .localData u a =>
    let b := freeBytes 64 s
    raiseMemory 5 a.toNat (modStall u (fun x => { x with mem := Mem.putAll x.mem (lineOf a.toNat) b.1 }) b.2)
  | .bufferEntry u f => ownFault u f fcBufferEcc 0 s)

/-- THERMAL_HIGH (R176): a barn sensor is read; the event is raised when it reaches 105 °C. -/
def execThermalHigh (b : Fin 4) (temp : Half) (s : State) : Res :=
  .next (if !(barn s b).present || !alive s then s
  else
    let was := (barn s b).temp
    let s := modBarn b (fun x => { x with temp := temp.toInt }) s
    if temp.toInt < 840 || 840 ≤ was then s else raise 0x2000 0x0221 0 (temp.toNat + 2 ^ 16 * b.val) s)

end Sys2Proof.Machine
end

