-- ==== Sys2Proof/Machine/Cycle.lean ====
section
/-! DEFINITION. Base ticks, releases, deadlines, triggers by time and the start of instances (Tasks, Cycle and Modes). -/

namespace Sys2Proof.Machine

/-! ### Deadlines (R68 to R71) -/

/-- Policy applied at an overrun: OVERRUN, a free choice of the three for value 3 (Table 2). -/
def overrunPolicy (r : TaskRec) (s : State) : Nat × State :=
  if r.attr.overrun = 3 then
    let (k, s) := takeFree s
    (Config.freeNat k % 3, s)
  else (r.attr.overrun.toNat, s)

/-- Task `t` overruns (R69, Table 4): counted, recorded, and aborted under ABORT policy. Whether SAFE policy asks for SAFE is answered
too. A pairing deadline of the same instant goes first, and then there is no overrun (R308). -/
def noteOverrun (t : BitVec 7) (s : State) : Bool × State :=
  if pairOver s t then (false, pairAbort t fcPairDeadline 4 0 s)
  else match (task s t).inst, taskRec s t with
    | some r, some rec =>
      let (p, s) := overrunPolicy rec s
      let s := modTask t (fun k => { k with
        inst := k.inst.map (fun r => { r with overrun := true })
        ctr := { k.ctr with deadlines := satAdd 16 k.ctr.deadlines 1 } }) s
      let s := raiseTask t 0x0101 0 (r.deadlineTicks + 2 ^ 16 * p) s
      (p = 2, if p = 1 then abortTask t fcDeadline 0 false s else s)
    | _, _ => (false, s)

/-- The instance of task `t` overruns at base tick `n`: its deadline has come, runs, and has not been handled. -/
def overdue (s : State) (n : Nat) (t : BitVec 7) : Bool :=
  match (task s t).inst with
  | some r => !r.overrun && !r.frozen && (r.deadline.map (fun d => decide (d ≤ n))).getD false
  | none => false

/-- The overruns of base tick `n` (R69, R70, R88), handled before its releases: each is counted and recorded, and SAFE is entered once
where a policy asks for it. The pairing deadlines of the same instant follow, so that an escalation into SAFE leaves no overrun of the
tick uncounted. -/
def overruns (n : Nat) (s : State) : State :=
  let pass (late : Bool) (p : Bool × State) : Bool × State := allTasks.foldl (fun (p : Bool × State) t =>
    if overdue p.2 n t && pairOver p.2 t == late then
      let q := noteOverrun t p.2
      (p.1 || q.1, q.2)
    else p) p
  let r := pass true (pass false (false, s))
  if r.1 then enterSafe 4 0xFF 0 r.2 else r.2

/-- TASK_DEADLINE (R68, R69, R88, R117): the clocks move to the deadline base tick, and every overrun of that tick is handled. -/
def execTaskDeadline (t : BitVec 7) (s : State) : Res :=
  .next (if !(runs s && alive s) || !overdue s (nextTick s) t then s
  else if overdue s s.time.tickNo t then overruns s.time.tickNo s
  else overruns (nextTick s) (advanceTo (tickTime s (nextTick s)) s))

/-! ### Releases (R54 to R59) -/

/-- The release of an instance of a task at base tick `n` (R68, R316). -/
def newRelease (s : State) (r : TaskRec) (n : Nat) (merged : Bool) : Release :=
  let t := r.attr.taskId
  let b := block s 0x0104
  let e := 8 + 4 * t.toNat
  let ticks := if r.attr.deadline = 0 && !isEvent t then r.attr.period.toNat else r.attr.deadline.toNat
  let due := if isEvent t then
      (((nowUs s : Int) + ticks * s.time.tickUs - s.time.t0 + s.time.tickUs - 1) / s.time.tickUs).toNat
    else n + ticks
  { tick := n, time := if isEvent t then nowUs s else tickTime s n, deadline := if ticks = 0 then none else some due, deadlineTicks := ticks
    overrun := false, merged := merged, frozen := false, slipA := none, slipB := none, started := false, startedB := false, firstEnding := none
    pairDue := none, pairRest := none, stepB := none, tornCounted := false, phased := s.yard.phased.contains t.toNat, pairWindow := fieldAt b e 2, pairLimit := bitsOf (fieldAt b (e + 2) 1) 3 0
    pairHandover := bitAt b (e + 2) 4 }

/-- An instance of the task is released. -/
def releaseNow (r : TaskRec) (n : Nat) (merged : Bool) (s : State) : State :=
  modTask r.attr.taskId (fun k => { k with
    inst := some (newRelease s r n merged), lastRelease := some (nowUs s)
    ctr := { k.ctr with releases := satAdd 32 k.ctr.releases 1 } }) s

/-- An enabled cyclic task comes to a release at base tick `n`, and is placed (R56, R59, R69, R94, R95, R667, R698). -/
def releaseCyclic (n : Nat) (s : State) (r : TaskRec) : State :=
  let t := r.attr.taskId
  let k := task s t
  if s.mode.pause then
    modTask t (fun k => { k with
      pauseRelease := some n
      ctr := { k.ctr with skipped := if k.pauseRelease.isSome then satAdd 16 k.ctr.skipped 1 else k.ctr.skipped } }) s
  else if k.held && !(k.heldEntry && k.inst.isNone) then
    modCtr t (fun c => { c with missedHeld := satAdd 16 c.missedHeld 1 }) s
  else if k.inst.isSome then
    raiseTask t 0x0102 0 n (modCtr t (fun c => { c with skipped := satAdd 16 c.skipped 1 }) s)
  else placeRelease true r noPlace (releaseNow r n false s)

/-! ### Base ticks (R47, R50, R128, R142) -/

/-- Values that are at least 2 µs old at the tick are applied; the others wait, and own ones while a claim is being written (R128, R570, R573). -/
def applyAligned (s : State) : State :=
  let old (d : OutDue) : Bool := decide (d.at_ + 2 * usUnit ≤ s.time.task)
  if s.mode.pause then s
  else
    let own (d : OutDue) : Bool := old d && !claimHolds s
    let due := s.commit.aligned.filter own
    let dueP := s.pair.aligned.filter old
    let s := { s with
      commit := { s.commit with aligned := s.commit.aligned.filter (fun d => !own d) }
      pair := { s.pair with aligned := s.pair.aligned.filter (fun d => !old d) } }
    staggered (applyDue (due ++ dueP)) s

/-- The assigned stall of every planned cyclic release of base tick `n` in an ON barn has been ungated before it (R171; log entry 117). -/
def readyStalls (n : Nat) (s : State) : State :=
  if runs s && s.proj.loaded then
    (dueTasks s n).foldl (fun s r => (copyNames r).foldl (fun s c => match placeOf (task s r.attr.taskId) c with
      | some u => if awake s u && (stall s u).state != 4 then modStall u (fun x => { x with ungated := true }) s else s
      | none => s) s) s
  else s

/-- The releases of base tick `n` (R56, R57). -/
def releases (n : Nat) (s : State) : State :=
  if runs s && s.proj.loaded then
    (dueTasks s n).foldl (releaseCyclic n) s
  else s

/-- The time of the tick of a plan has come; where it changes the base tick length, the sampling grids move (R50). -/
def enterTick (p : Nat × Nat × Nat × Int) (s : State) : State :=
  let s := advanceTo p.2.1 s
  let same := p.2.2.1 = s.time.tickUs && p.2.2.2 = s.time.t0
  let s' := { s with time := { s.time with
      ticked := true, tickNo := p.1, tickUs := p.2.2.1, t0 := p.2.2.2
      newTick := if same then s.time.newTick else none } }
  if same then s' else moveGrid s s'

/-- What happens at base tick `n` that has just begun. -/
def atTick (n : Nat) (s : State) : State :=
  let s := readyStalls n (replaceLost (placeTick n { s with prof := { s.prof with before := none } }))
  let s := if runs s then overruns n s else s
  let s := releases n s
  tickPoll (unpinDue (applyAligned { s with yard := { s.yard with phased := [] } }))

/-- BASE_TICK (R47, R50, R56, R57, R128, R142, R143, R328): the clocks move to the next base tick; an edit whose boundary it is has been
applied. -/
def execBaseTick (s : State) : Res :=
  .next (if !(s.time.running && s.time.t0Fixed && alive s) then s
  else
    let p := tickPlan s
    atTick p.1 (enterTick p (editAtTick (advanceTo p.2.1 s))))

/-! ### Event tasks (R58, R72 to R75) -/

/-- ALARM_TRIGGER (R72, R75): the clocks move to the next instant of the alarm. -/
def execAlarmTrigger (t : BitVec 7) (s : State) : Res :=
  .next (match taskRec s t with
  | some r =>
    let p := r.attr.triggerSel.toNat
    if r.attr.triggerType != 5 || p = 0 || !(s.time.running && alive s) then s
    else
      let now := nowUs s
      let ph := r.attr.alarmPhase.toNat % p
      trigger t (advanceTo (now + (ph + p - now % p) % p) s)
  | none => s)

/-- EVENT_TASK_RELEASE (R58, R74, R75, R94, R95, R142, R172, R328): the clocks move to the end of the re-trigger interval; the task is released
and placed. -/
def execEventTaskRelease (t : BitVec 7) (place : EventPlace) (s : State) : Res :=
  .next (match taskRec s t with
  | some r =>
    let k := task s t
    let from_ := (k.lastRelease.map (fun x => x + r.attr.minRetrigger.toNat)).getD 0
    if !isEvent t || !enabledNow s t || !k.latch || k.inst.isSome || !(runs s && alive s) || s.mode.pause || (k.held && !k.heldEntry) then s
    else if editHolds (advanceTo from_ s) t then s
    else
      let s := advanceTo from_ s
      placeRelease false r place (releaseNow r s.time.tickNo k.latchMerged (modTask t (fun k => { k with latch := false, latchMerged := false }) s))
  | none => s)

/-! ### Starts (R37, R99, R173, R175, R299, R300) -/

/-- The stall can take an instance of the task now (R63, R107, R169, R179). -/
def canStart (s : State) (r : TaskRec) (u : StallId) : Bool :=
  (barn s u.barn).present && (barn s u.barn).power = 2 && (stall s u).ungated && roomOn s u && !pinWait s r

/-- Each copy of a release is placed where it may run (R144); one released before the placement rules changed keeps its stall (R149). -/
def startPlaced (s : State) (r : TaskRec) (x : Release) : Bool :=
  (copyNames r).all (fun c =>
    placedOk s s.yard.rules x.tick r.attr.taskId c ||
    (decide (x.tick < s.yard.rulesTick) &&
      (placeOf (task s r.attr.taskId) c).any (fun u => stallActive s u && diverse s r.attr.taskId c u)))

/-- The dominant cause of a slip (R175): what the release fixed, or the largest of the six parts, in the order of Table 7 of The
Yardmaster, the first among equals. -/
def dominant (fixed : Option Byte) (parts : List Nat) : Byte :=
  let l := parts.take 6
  fixed.getD (BitVec.ofNat 8 (1 + ((l.findIdx? (fun x => x = l.foldl max 0)).getD 0)))

/-- The clocks move to the start, not before the NET tick `least`, and the slip in ns is the time from the release less 1 µs (R173). -/
def startClock (r : Release) (delayNs least : Nat) (s : State) : Nat × State :=
  let s := advanceNet least (advanceTo (r.time + delayNs / 1000) s)
  (max delayNs ((nowUs s - r.time) * 1000) - 1000, s)

/-- START_SLIP and its counters (R175, R180, R181). -/
def noteSlip (t : BitVec 7) (copyB : Bool) (slip : Nat) (cause : Byte) (s : State) : State :=
  if slip = 0 then s
  else
    let v := min slip (2 ^ 32 - 1)
    let s := modCtr t (fun c => { c with slips := satAdd 16 c.slips 1, slipMax := max c.slipMax v })
      { s with yard := { s.yard with slipMaxAll := max s.yard.slipMaxAll v } }
    raiseTask t 0x0202 0 (v + 2 ^ 32 * cause.toNat + 2 ^ 40 * b2n copyB) s

/-- The start flags of SYS.STATUS (R256, Table 14 of Morfold Units Reference). -/
def startFlags (k : TaskSt) (restart : BitVec 2) (slipped merged : Bool) : Word :=
  BitVec.ofNat 32 (4 * b2n k.firstRun + 8 * b2n k.firstEdit + 16 * b2n k.firstProfile + 32 * b2n slipped + 64 * b2n merged +
    128 * restart.toNat)

/-- An instance becomes resident in the first free context of its stall, with its initial frame (R61, R63, R210, R212). -/
def makeResident (u : StallId) (i : Inst) (s : State) : State :=
  match (List.finRange 4).find? (fun f => (stall s u).slots[f].isNone) with
  | none => s
  | some f =>
    let ctx := startCtx i.record.entry
    let idle := (residents s u).isEmpty && decide ((stall s u).since + 50 * usUnit ≤ s.time.task)
    let s := modStall u (fun st => { saveFrame f i { st with ctx := ctx } with
      ctx := st.ctx, slots := st.slots.set f (some i) f.isLt, lastIdle := if idle then s.time.task else st.lastIdle }) s
    if (stall s u).running.isNone && bestResident s u = some f then
      modInst u f (fun i => { i with phase := .running }) (modStall u (fun st => { st with running := some f, ctx := ctx }) s)
    else s

/-- An instance as it starts (R37, R120, R254 to R256, R300). -/
def newInst (s : State) (t : BitVec 7) (rec : TaskRec) (r : Release) (flags : Word) : Inst :=
  { task := t, copyB := false, phase := .preempted, priority := rec.attr.priority.toNat, relTick := r.tick, relTime := r.time
    tStart := BitVec.ofNat 64 (nowUs s), startCommit := s.commit.last, epoch := (task s t).epoch, bank := s.proj.active
    inImg := Mem.putAll [] 0 (captureImage s rec), record := rec, warden := padTo 64 (Tab.getD s.chan.warden t.toNat [])
    variant := variantNow s, covers := coverBits s rec, wb := [], events := [], evtDropped := 0, torn := false, tornFrom := 0
    addrFault := false, faultFrom := 0, startFlags := flags, cycle := 0, issued := 0, macReady := 0, chkReady := 0, ldReady := 0
    imgReady := 0, solveReady := 0, solveAt := none, solveTook := 0, solveAhead := 0, blkReady := 0, loads := [], solving := false, blk := none, waits := 0, endPending := false, steps := none
    fault := none, passBreak := false, stopPc := 0, startNet := s.time.net, peak := 0 }

/-- INSTANCE_START (R37, R99, R144, R150, R173, R175, R300): `delayNs` is the time from the release to the start, `parts` what each cause of
Table 7 of The Yardmaster accounts for. -/
def execInstanceStart (t : BitVec 7) (delayNs : Nat) (parts : List Nat) (s : State) : Res :=
  .next (match taskRec s t, (task s t).inst, (task s t).placeA with
  | some rec, some r, some u =>
    let k := task s t
    if r.started || k.fence.isSome || !(runs s && alive s) || s.mode.pause || !canStart s rec u ||
        !startPlaced s rec r then s
    else
      let (slip, s) := startClock r delayNs 0 s
      let s := noteSlip t false slip (dominant r.slipA parts) s
      let i := newInst s t rec r (startFlags k s.mode.restart (slip != 0) r.merged)
      let s := modTask t (fun k => { k with
        inst := k.inst.map (fun r => { r with started := true })
        firstRun := false, firstEdit := false, firstProfile := false }) s
      makeResident u i s
  | _, _, _ => s)

/-- The complement of held bytes (R301). -/
def complement (m : Mem) : Mem := m.map (fun c => (c.1, ~~~c.2))

/-- PAIRED_COPY_B_START (R173, R299 to R301): at least 64 stall cycles (160 ns, 20 NET ticks) after copy A, with the same image,
complemented, and the same start commit and times. -/
def execPairedCopyBStart (t : BitVec 7) (delayNs : Nat) (parts : List Nat) (s : State) : Res :=
  .next (match (task s t).inst, (task s t).placeB, (copies s t).find? (fun c => !c.2.2.copyB) with
  | some r, some u, some a =>
    let i := a.2.2
    if !r.started || r.startedB || !i.record.attr.paired || !(runs s && alive s) || !canStart s i.record u ||
        !((stall s u).state = 0 || (stall s u).state = 3) then s
    else
      let (slip, s) := startClock r delayNs (i.startNet + 20) s
      let s := noteSlip t true slip (dominant r.slipB parts) s
      let base := newInst s t i.record r ((i.startFlags &&& ~~~(32#32)) ||| BitVec.ofNat 32 (32 * b2n (slip != 0)))
      let j := { base with
        copyB := true, tStart := i.tStart, startCommit := i.startCommit, epoch := i.epoch, bank := i.bank
        inImg := complement i.inImg, warden := i.warden, variant := i.variant, covers := i.covers
        steps := r.stepB.getD none, passBreak := r.stepB.isSome }
      makeResident u j (modTask t (fun k => { k with inst := k.inst.map (fun r => { r with startedB := true }) }) s)
  | _, _, _ => s)

end Sys2Proof.Machine
end

