-- ==== Sys2Proof/Machine/Dio.lean ====
section
/-! DEFINITION. Digital inputs and outputs (Digital Inputs and Outputs). -/

namespace Sys2Proof.Machine

/-! ### Inputs (R414 to R427) -/

/-- Change digital input n. -/
def modDi (n : Nat) (f : DiCh → DiCh) (s : State) : State := { s with field := { s.field with di := vmod s.field.di n f } }

/-- The raw sample before INVERT, with thresholds ON and OFF in 0.1 V (R416, R418). -/
def rawSample (limits : Nat × Nat) (l : DiLevel) (before : Bool) : Bool :=
  if 100 * (limits.1 : Int) < l.lowest then true
  else if l.highest < 100 * (limits.2 : Int) then false
  else before

/-- Number of value changes among the last 64 samples. -/
def changesIn (c : BitVec 64) : Nat := ((List.range 64).map (fun k => b2n (c.getLsbD k))).sum

/-- UNSETTLED after a sample (R423). -/
def unsettledNext (was : Bool) (c : BitVec 64) : Bool :=
  if 32 ≤ changesIn c then true else if changesIn c < 8 then false else was

/-- The samples of an input with sample value `v` under entry `e` at task time `t` in µs: filter, UNSETTLED, CHATTER and STUCK
(R421, R423, R427). Whether the accepted level changed is answered too. -/
def sampleLevel (e : Bytes) (frozen : Bool) (t : Nat) (raw v : Bool) (d : DiCh) : DiCh × Bool :=
  let changes : BitVec 64 := (d.changes <<< 1) ||| (if d.raw = raw then 0#64 else 1#64)
  let d1 := { d with raw := raw, changes := changes, unsettled := unsettledNext d.unsettled changes }
  let d1 := if bitAt e 16 3 then d1 else { d1 with chatter := false, flips := [] }
  let d1 := if bitAt e 16 4 then d1 else { d1 with stuck := false }
  let d1 := if bitAt e 16 2 then d1 else { d1 with phase := none }
  match d.level with
  | none => ({ d1 with level := some v, run := 0, changedAt := t }, false)
  | some l =>
    if l = v then ({ d1 with run := 0 }, false)
    else if d.run + 1 < bitsOf (fieldAt e 17 1) 3 0 || frozen then ({ d1 with run := d.run + 1 }, false)
    else
      let win := fieldAt e 20 2 * 1000
      let flips := if bitAt e 16 3 then d1.flips.filter (fun x => decide (t < x + win)) ++ [t] else []
      ({ d1 with
        level := some v, run := 0, stuck := false, flips := flips, changedAt := t
        chatter := d1.chatter || (bitAt e 16 3 && decide (fieldAt e 18 2 ≤ flips.length)) }, true)

/-- One input of a sample (R416 to R423, R703): without a valid entry only the raw sample is kept, and no diagnostic runs. -/
def sampleInput (limits : Nat × Nat) (n : Nat) (l : DiLevel) (t : Nat) (s : State) : State :=
  match s.field.di[n]? with
  | none => s
  | some d =>
    let raw := rawSample limits l d.raw
    match diUsable s n with
    | none => modDi n (fun d => { d with
        raw := raw, level := none, run := 0, changes := 0, unsettled := false, flips := [], chatter := false, stuck := false
        overrate := false, phase := none }) s
    | some e =>
      let frozen := ((s.field.diGrp[n / 8]?).map (fun g => g.refFail)).getD false
      let v := raw != bitAt e 16 0
      let r := sampleLevel e frozen t raw v d
      let s := refreshChan (modDi n (fun _ => r.1) s) n
      if r.2 then fireChange n (some v) s else s

/-- The group's supply and reference after a sample (R427): DI_SUPPLY_LOW and REF_FAIL. -/
def sampleGroup (on : Nat) (r : DiReading) (t : Nat) (g : DiGrp) : DiGrp :=
  let wrong := if g.low then decide (on < r.vsDv) else decide (r.vsDv < on)
  let lowRun := if wrong then g.lowRun + 1 else 0
  let flip := decide (3 ≤ lowRun)
  let refRun := if r.refPermille ≤ 20 then g.refRun + 1 else 0
  { g with
    vs := r.vsDv, low := if flip then !g.low else g.low, lowRun := if flip then 0 else lowRun
    refFail := if 30 < r.refPermille then true else if 16 ≤ refRun then false else g.refFail
    refRun := min refRun 16, last := max g.last t, inProgress := none }

/-- The inputs of group g, each with what the front-end measured; one without a reading has crossed both thresholds. -/
def groupInputs (g : Nat) (r : DiReading) : List (Nat × DiLevel) :=
  (List.range 8).map (fun j => (8 * g + j, (r.inputs[j]?).getD { lowest := -1000000, highest := 1000000 }))

/-- DI_SAMPLE (R417 to R423, R427): the clocks move to the sample instant. Only the activation pause stops sampling (R419): it goes on in
the power-down save. -/
def execDiSample (g : Fin 8) (r : DiReading) (s : State) : Res :=
  .next (if !s.field.sampling || s.mode.pause || s.power.stopped then s
  else
    let at_ := nextSample s g.val
    let limits := sampleLimits s g.val
    let s := if s.time.running then advanceTo at_ s else s
    let t := if s.time.running then at_ else nowUs s
    let s := modDiGrp g.val (sampleGroup limits.1 r t) s
    (groupInputs g.val r).foldl (fun s x => refreshChan (sampleInput limits x.1 x.2 t s) x.1) s)

/-- An input of group g has WETTING set. -/
def wets (s : State) (g : Nat) : Bool :=
  (List.range 8).any (fun j => ((diUsable s (8 * g + j)).map (fun e => bitAt e 16 1)).getD false)

/-- The instant of the next contact-wetting pulse of group g, in µs (R420). -/
def nextPulse (s : State) (g : Nat) : Nat :=
  let base := s.time.t0 + 12500 * (g : Int)
  let from_ : Int := match (s.field.diGrp[g]?).bind (fun k => k.wetting) with
    | some w => max (nowUs s : Int) (w + 1)
    | none => nowUs s
  (base + ((from_ - base + 99999) / 100000) * 100000).toNat

/-- WETTING_PULSE (R420): the clocks move to the pulse, in the activation pause too. -/
def execWettingPulse (g : Fin 8) (s : State) : Res :=
  .next (if !wets s g.val || !s.time.running || !alive s then s
  else
    let t := nextPulse s g.val
    modDiGrp g.val (fun k => { k with wetting := some t }) (advanceTo t s))

/-- The entry of a counting input (R424, R703). -/
def counts (s : State) (n : Nat) : Bool := ((diUsable s n).map (fun e => bitAt e 16 2)).getD false

/-- A phase of a counting input is registered: one of at least 4 µs always, one shorter than 2 µs never; between them it is a free value
(R425). -/
def registers (phaseNs : Nat) (s : State) : Bool × State :=
  if 4000 ≤ phaseNs then (true, s)
  else if phaseNs < 2000 then (false, s)
  else
    let n := takeFree s
    (Config.freeBit n.1, n.2)

/-- A registered phase at a raw level: a rising edge of the level after INVERT, from the phase registered before it, counts (R425). -/
def countPhase (invert raw : Bool) (d : DiCh) : DiCh :=
  let rose := (raw != invert) && d.phase.any (fun p => p = invert)
  { d with phase := some raw, count := if rose then d.count + 1 else d.count }

/-- COUNT_EDGE (R425, R427): a phase of the raw level of a counting input, with its length so far as it matters. -/
def execCountEdge (n : Fin 8) (seen : CountSeen) (s : State) : Res :=
  .next (if !counts s n.val || !alive s then s
  else
    let invert := ((diUsable s n.val).map (fun e => bitAt e 16 0)).getD false
    let r := registers seen.phaseNs s
    let short := decide (seen.phaseNs < 4000)
    refreshChan (modDi n.val (fun d =>
      let d := if r.1 then countPhase invert seen.level d else d
      { d with overrate := d.overrate || short, shortAt := if short then nowUs s else d.shortAt }) r.2) n.val)

/-- CHATTER_WINDOW_EXPIRE (R427): the clocks move to CHATTER_WIN_MS after the last change. -/
def execChatterWindowExpire (n : Fin 64) (s : State) : Res :=
  .next (match diUsable s n.val with
  | some e =>
    let d := s.field.di[n]
    if d.chatter && alive s then
      refreshChan (modDi n.val (fun d => { d with chatter := false, flips := [] })
        (advanceTo (d.changedAt + 1000 * fieldAt e 20 2) s)) n.val
    else s
  | none => s)

/-- STUCK_TIMEOUT (R427): the clocks move to STUCK_S after the last change. -/
def execStuckTimeout (n : Fin 64) (s : State) : Res :=
  .next (match diUsable s n.val with
  | some e =>
    let d := s.field.di[n]
    if bitAt e 16 4 && d.level.isSome && alive s then
      refreshChan (modDi n.val (fun d => { d with stuck := true }) (advanceTo (d.changedAt + 1000000 * fieldAt e 22 2) s)) n.val
    else s
  | none => s)

/-- COUNT_OVERRATE_EXPIRE (R427): the clocks move to 100 ms after the last short phase. -/
def execCountOverrateExpire (n : Fin 8) (s : State) : Res :=
  .next (if (s.field.di[n.val]).overrate && alive s then
    refreshChan (modDi n.val (fun d => { d with overrate := false }) (advanceTo ((s.field.di[n.val]).shortAt + 100000) s)) n.val
  else s)

/-! ### Outputs (R428 to R435) -/

/-- Change digital output group g. -/
def modDoGrp (g : Nat) (f : DoGrp → DoGrp) (s : State) : State := { s with field := { s.field with doGrp := vmod s.field.doGrp g f } }

/-- The states of the outputs of group g are reported. -/
def refreshDoGroup (g : Nat) (s : State) : State :=
  (List.range 8).foldl (fun s j => refreshChan s (64 + 8 * g + j)) s

/-- READBACK_MISMATCH after a sample that differs from the driven state or agrees with it (R434). -/
def compareReadback (differs : Bool) (d : DoCh) : DoCh :=
  if differs = d.mismatch then { d with rbRun := 0 }
  else if 2 ≤ d.rbRun + 1 then { d with mismatch := differs, rbRun := 0 }
  else { d with rbRun := d.rbRun + 1 }

/-- One output's readback sample (R433, R434), with its CHANNEL triggers. -/
def readbackOne (pins : BitVec 64) (s : State) (n : Fin 64) : State :=
  let id := 64 + n.val
  let d := s.field.dout[n]
  let pin := pins.getLsbD n.val
  let e := (entryOf s id).getD []
  let en := bitAt e 16 1
  let low := ((s.field.doGrp[n.val / 8]?).map (fun g => g.low)).getD false
  let open_ := decide (d.edge + fieldAt e 18 2 * usUnit ≤ s.time.task)
  let s := modDo n.val (fun d =>
    let d := { d with readback := pin }
    if !en then { d with mismatch := false, rbRun := 0 }
    else if low || !open_ then { d with rbRun := 0 }
    else compareReadback (pin != driven s.field n.val) d) s
  let s := refreshChan s id
  if d.readback != pin then fireChange id (some pin) s else s

/-- What a readback sample measures of the groups and of the switches (R437). -/
def takeMeasured (r : DoReading) (s : State) : State :=
  { s with field := { s.field with
      doGrp := s.field.doGrp.mapFinIdx (fun g (x : DoGrp) _ => { x with vf := r.vfDv.getD g x.vf, current := r.groupMa.getD g x.current })
      dout := s.field.dout.mapFinIdx (fun n (d : DoCh) _ => { d with temp := r.tempC.getD n d.temp }) } }

/-- READBACK_SAMPLE (R433, R434, R437, R646): readback starts at the end of start-up phase 2. -/
def execReadbackSample (r : DoReading) (s : State) : Res :=
  .next (if s.field.sampling && alive s then (List.finRange 64).foldl (readbackOne r.pins) (takeMeasured r s) else s)

/-- DO_CURRENT_LIMIT (R430, R435). -/
def execDoCurrentLimit (n : Fin 64) (s : State) : Res :=
  .next (if driven s.field n.val && alive s then refreshChan (modDo n.val (fun d => { d with limiting := true }) s) (64 + n.val) else s)

/-- CURRENT_LIMIT_LEFT (R435). -/
def execCurrentLimitLeft (n : Fin 64) (s : State) : Res :=
  .next (if alive s then refreshChan (modDo n.val (fun d => { d with limiting := false }) s) (64 + n.val) else s)

/-- DO_THERMAL_SHUTDOWN (R430): the output opens, to stay open or to retry. -/
def execDoThermalShutdown (n : Fin 64) (s : State) : Res :=
  let retry := bitAt ((entryOf s (64 + n.val)).getD []) 16 0
  .next (if driven s.field n.val && alive s then
    refreshChan (withEdges (modDo n.val (fun d => { d with
      thermal := if retry then 2 else 1, cooled := false, waited := false, shutAt := nowUs s })) s) (64 + n.val)
  else s)

/-- A shut-down output that has waited and cooled, and is applied, switches on again (R430). -/
def retryOn (d : DoCh) : DoCh := if d.thermal = 2 && d.waited && d.cooled && d.applied then { d with thermal := 0 } else d

/-- DO_THERMAL_RETRY (R430): the retry interval ends; the clocks move to its end. -/
def execDoThermalRetry (n : Fin 64) (s : State) : Res :=
  let d := s.field.dout[n]
  let e := (entryOf s (64 + n.val)).getD []
  .next (if d.thermal = 2 && !d.waited && alive s then
    refreshChan (withEdges (modDo n.val (fun d => retryOn { d with waited := true }))
      (advanceTo (d.shutAt + 100000 * fieldAt e 17 1) s)) (64 + n.val)
  else s)

/-- DO_THERMAL_COOLED (R430): the junction has cooled by the restart hysteresis. -/
def execDoThermalCooled (n : Fin 64) (s : State) : Res :=
  .next (if (s.field.dout[n]).thermal = 2 && alive s then
    refreshChan (withEdges (modDo n.val (fun d => retryOn { d with cooled := true })) s) (64 + n.val)
  else s)

/-- GROUP_OVERCURRENT (R432, R435): every output of the group opens. -/
def execGroupOvercurrent (g : Fin 8) (s : State) : Res :=
  .next (if (s.field.doGrp[g]).open_ || !alive s then s
  else refreshDoGroup g.val (withEdges (modDoGrp g.val (fun x => { x with
    tripped := true, open_ := true, tripAt := nowUs s, trips := satAdd 16 x.trips 1 })) s))

/-- GROUP_RETRY (R432): 1 s after the trip, outputs whose applied state is 1 switch on again. -/
def execGroupRetry (g : Fin 8) (s : State) : Res :=
  .next (if (s.field.doGrp[g]).open_ && alive s then
    let s := advanceTo ((s.field.doGrp[g]).tripAt + 1000000) s
    refreshDoGroup g.val (withEdges (modDoGrp g.val (fun x => { x with open_ := false, retryAt := nowUs s })) s)
  else s)

/-- GROUP_OVERCURRENT_LEFT (R435): the retry has held for 500 µs. -/
def execGroupOvercurrentLeft (g : Fin 8) (s : State) : Res :=
  .next (if (s.field.doGrp[g]).open_ || !(s.field.doGrp[g]).tripped || !alive s then s
  else refreshDoGroup g.val (modDoGrp g.val (fun x => { x with tripped := false })
    (advanceTo ((s.field.doGrp[g]).retryAt + 500) s)))

/-- DO_SUPPLY_LOW (R435, R436): VF_DO_g, in 0.1 V, has stayed for 1 ms below VF_LOW_DV, or above VF_LOW_DV + 1.0 V. -/
def execDoSupplyLow (g : Fin 8) (vfDv : Half) (s : State) : Res :=
  let at_ := fieldAt (block s 0x0302) (8 + 4 * g.val) 2
  .next (if alive s then
    refreshDoGroup g.val (modDoGrp g.val (fun x => { x with
      vf := vfDv, low := decide (vfDv.toNat < at_) || (x.low && decide (vfDv.toNat ≤ at_ + 10)) }) s)
  else s)

end Sys2Proof.Machine
end

