-- ==== Sys2Proof/Machine/Loops.lean ====
section
/-! DEFINITION. Current loops and HART (Current Loops and HART). -/

namespace Sys2Proof.Machine

/-! ### Classification (R442, R449) -/

/-- A state is counted in or out: what holds of one conversion, of a state and of its counts. -/
structure Band where
  /-- code of the state -/
  code : Nat
  /-- the conversion lies in the band -/
  inside : Bool
  /-- the conversion lies outside it by the margin -/
  outside : Bool

/-- Distance of a measured current from the expected current of a multidrop loop. -/
def dropOff (devices : Nat) (m : Int) : Nat := (m - 4000000 * devices).natAbs

/-- The bands of an AI (Table 2): those that apply with its settings. -/
def aiBands (range1 supply multi : Bool) (devices : Nat) (r : LoopReading) : List Band :=
  let m := r.measured
  let b (applies : Bool) (code : Nat) (inside outside : Bool) : List Band := if applies then [⟨code, inside, outside⟩] else []
  b supply 0x21 r.supplyLimited (!r.supplyLimited) ++
  b (!range1) 0x22 (decide (m < 500000)) (decide (550000 ≤ m)) ++
  b (!range1 && !multi) 0x23 (decide (500000 ≤ m) && decide (m ≤ 3600000)) (decide (m ≤ 450000) || decide (3650000 ≤ m)) ++
  b (!range1 && !multi) 0x24 (decide (3600000 < m) && decide (m < 3800000)) (decide (m ≤ 3550000) || decide (3850000 ≤ m)) ++
  b (!multi) 0x25 (decide (20500000 < m) && decide (m < 21000000)) (decide (m ≤ 20450000) || decide (21050000 ≤ m)) ++
  b (!multi) 0x26 (decide (21000000 ≤ m)) (decide (m ≤ 20950000)) ++
  b multi 0x27 (decide (1000000 < dropOff devices m)) (decide (dropOff devices m ≤ 950000))

/-- The states of an AO (Table 4), with the mean target of the window. -/
def aoBands (passive : Bool) (target : Int) (r : LoopReading) : List Band :=
  let m := r.measured
  let short := target - m
  (if passive then [⟨0x28, decide (r.terminalCv < 800) || !r.powered, decide (800 ≤ r.terminalCv) && r.powered⟩]
   else [⟨0x29, decide (1000000 ≤ target) && r.stageAtLimit && decide (m < 200000), decide (500000 ≤ m) || decide (target < 1000000)⟩]) ++
  [⟨0x2A, r.stageAtLimit && decide (100000 < short), decide (short ≤ 50000)⟩]

/-- Count one conversion for a state that needs `n` consecutive ones (R442, R449). -/
def countBand (n : Nat) (b : Band) (l : LoopCh) : LoopCh :=
  let code := BitVec.ofNat 8 b.code
  if l.states.contains code then
    let c := if b.outside then Tab.getD l.leave b.code 0 + 1 else 0
    if n ≤ c then { l with states := l.states.erase code, leave := Tab.del l.leave b.code, enter := Tab.del l.enter b.code }
    else { l with leave := Tab.set l.leave b.code c }
  else
    let c := if b.inside then Tab.getD l.enter b.code 0 + 1 else 0
    if n ≤ c then { l with states := l.states ++ [code], enter := Tab.del l.enter b.code, leave := Tab.del l.leave b.code }
    else { l with enter := Tab.set l.enter b.code c }

/-- States that no longer apply with the settings are dropped. -/
def dropBands (bs : List Band) (l : LoopCh) : LoopCh :=
  let keep (c : Nat) : Bool := c = 0x20 || bs.any (fun b => b.code = c)
  { l with
    states := l.states.filter (fun c => keep c.toNat)
    enter := l.enter.filter (fun x => keep x.1), leave := l.leave.filter (fun x => keep x.1) }

/-- The isolated link over one conversion (R448): three not delivered enter LOOP_LINK_FAIL, `n` delivered leave it. -/
def countLink (n : Nat) (delivered : Bool) (l : LoopCh) : LoopCh :=
  let l := { l with missing := if delivered then 0 else l.missing + 1 }
  let b : Band := ⟨0x20, false, delivered⟩
  if !l.states.contains 0x20#8 then (if 3 ≤ l.missing then { l with states := l.states ++ [0x20#8] } else l)
  else countBand n b l

/-! ### Conversions (R439, R440, R444, R446) -/

/-- A target summed from task time `start` to `end_` in µs, given the targets that stood before it, newest first. -/
def targetSum (start : Nat) : Nat → Int → List (Nat × Int) → Int
  | end_, v, [] => v * (end_ - start : Nat)
  | end_, v, (t, w) :: l =>
    let m := max start (min t end_)
    v * (end_ - m : Nat) + targetSum start m w l

/-- Mean target over the window of 1,000 µs that ends at task time `t` in µs (R439, R449, R451). -/
def meanTarget (t : Nat) (l : LoopCh) : Int := roundDiv (targetSum (t - 1000) t l.target l.past) (max 1 (min 1000 t))

/-- The next target: at most SLEW µA per ms towards the goal (R444). -/
def slewTarget (slew : Nat) (goal old : Int) : Int :=
  if slew = 0 then goal else max (old - 1000 * slew) (min (old + 1000 * slew) goal)

/-- The bound on the loop current of an AO after a conversion (R450): its current while it regulates at its limit, and from there SLEW, or
2,000 µA, more per ms until it reaches the target. -/
def rampNext (slew : Nat) (target : Int) (r : LoopReading) (l : LoopCh) : Option Int :=
  if r.stageAtLimit then some r.measured
  else match l.ramp with
    | some v =>
      let v' := v + 1000 * (if slew = 0 then 2000 else slew)
      if target ≤ v' then none else some v'
    | none => none

/-- The loop current that a conversion measures: an AO that regains control has not risen faster than R450 lets it. -/
def heldBack (slew : Nat) (r : LoopReading) (l : LoopCh) : LoopReading :=
  match l.ramp with
  | some v => if r.stageAtLimit then r else { r with measured := min r.measured (v + 1000 * (if slew = 0 then 2000 else slew)) }
  | none => r

/-- A delivered conversion of channel `i` (R440, R446, R450, R453). -/
def takeConversion (s : State) (i : Nat) (mean : Int) (r : LoopReading) (l : LoopCh) : LoopCh :=
  let b := block s 0x0304
  let limit := 10 * fieldAt b (10 + 4 * i) 2
  { l with
    conv := (r.measured :: l.conv).take 1000, terminalCv := r.terminalCv, linkOff := false
    shortfall := if i < 16 then 0 else max 0 (mean - r.measured)
    ramp := if i < 16 then none else rampNext (aoSlew s i) l.target r l
    supplyCv :=
      if i < 16 then (if bitAt b (8 + 4 * i) 0 then r.supplyCv else 0)
      else if aoPassive s i then r.supplyCv
      else min limit (max 450 (r.terminalCv + 300)) }

/-- LOOP_SHORTFALL of an AO that has entered AO_OPEN or AO_COMPLIANCE (R451). -/
def noteShortfall (i : Nat) (before : List Byte) (mean measured : Int) (s : State) : State :=
  [0x29#8, 0x2A#8].foldl (fun s c =>
    if ((s.loops[i]?).map (fun l => l.states.contains c)).getD false && !before.contains c then
      raiseChan (128 + i) 0x0410 (unsigned 32 mean + 2 ^ 32 * unsigned 32 measured) s
    else s) s

/-- One powered channel at the end of a conversion window at task time `t` in µs (R439 to R451). -/
def convertPowered (t : Nat) (s : State) (x : Nat × LoopReading) : State :=
  let i := x.1
  match s.loops[i]? with
  | none => s
  | some l =>
    let r := if i < 16 then x.2 else heldBack (aoSlew s i) x.2 l
    let id := 128 + i
    let b := block s 0x0304
    let mean := meanTarget t l
    let n := if i < 16 then 3 else 5
    let bands := if i < 16 then
        (match entryOf s id with
         | some e =>
           if eBadKind e || eBadField s id e || eMismatch id e then []
           else aiBands (bitAt e 16 0) (bitAt b (8 + 4 * i) 0) (bitAt b (8 + 4 * i) 1) (bitsOf (fieldAt b (9 + 4 * i) 1) 2 0) r
         | none => [])
      else aoBands (aoPassive s i) mean r
    let value (s : State) : Option Bytes := (entryOf s id).map (chanValue s id)
    let s1 := modLoop i (fun l =>
      let l := countLink n r.delivered (dropBands bands l)
      let l := if r.delivered then takeConversion s i mean r (bands.foldl (fun l b => countBand n b l) l) else l
      aoMove t (if i < 16 then l.target else slewTarget (aoSlew s i) (aoGoal s i l) l.target) l) s
    let s2 := refreshChan (noteShortfall i l.states mean r.measured s1) id
    if value s != value s2 then fireChange id none s2 else s2

/-- One channel at the end of a conversion window: an unpowered one, with an absent entry or not pinned, converts nothing and keeps
what it has (R396, R645). -/
def convertOne (t : Nat) (s : State) (x : Nat × LoopReading) : State :=
  if (entryOf s (128 + x.1)).isNone then s
  else convertPowered t s x

/-- LOOP_CONVERSION (R439): a conversion window of all channels ends; the clocks move to its end. Conversions go on in the activation pause
and in the power-down save. -/
def execLoopConversion (r : List LoopReading) (s : State) : Res :=
  .next (if !hasLoop s || !s.field.sampling || s.power.stopped then s
  else
    let at_ := nextConversion s
    let s := if s.time.running then advanceTo at_ s else s
    let t := if s.time.running then at_ else nowUs s
    let s := { s with field := { s.field with convLast := t, convEnd := none } }
    ((List.range 32).zip r).foldl (convertOne t) s)

/-- AO_LINK_TIMEOUT (R448): the AO de-energises itself. -/
def execAoLinkTimeout (n : Fin 16) (s : State) : Res :=
  .next (if hasLoop s && alive s then aoJump (16 + n.val) (modLoop (16 + n.val) (fun l => { l with linkOff := true }) s) else s)

/-! ### HART (R454 to R461) -/

/-- Bytes of the address of a frame: five of a long one, one of a short one. -/
def addressLen (long : Bool) : Nat := if long then 5 else 1

/-- A byte as a character: start bit 0, the data bits from bit 0 on, odd parity, stop bit 1 (R454). -/
def hartChar (b : Byte) : BitVec 11 :=
  let ones := ((List.range 8).map (fun k => b2n (b.getLsbD k))).sum
  BitVec.ofNat 11 (2 * b.toNat + 2 ^ 9 * ((ones + 1) % 2) + 2 ^ 10)

/-- The byte of a character. -/
def hartByte (c : BitVec 11) : Byte := (c >>> 1).setWidth 8

/-- The bytes of a received frame. -/
def frameChars (f : HartFrame) : Bytes := f.raw.map hartByte

/-- Every character has its start bit, odd parity and stop bit, and there are no gaps (R454, R458). -/
def charsGood (f : HartFrame) : Bool := f.gapsGood && f.raw.all (fun c => c = hartChar (hartByte c))

/-- The request of a HART_TRANSACT buffer (Table 9). -/
def hartRequest (buf : Bytes) : Bytes := (buf.drop 8).take (fieldAt buf 0 2)

/-- A request of REQ_LEN `n` has its delimiter and a byte count that matches it (R455); of a buffer that ends before the count, the rest is
not known. -/
def requestGood (n : Nat) (q : Bytes) : Bool :=
  let d := byteAt q 0
  let long := d = 0x82
  let head := 3 + addressLen long
  (d = 0x02 || long) && decide (head ≤ n) && (decide (q.length < head) || decide (n = head + fieldAt q (head - 1) 1))

/-- Channel n has HART_EN in its pinned entry (R455). -/
def hartOn (s : State) (n : Nat) : Bool := ((entryOf s (128 + n)).map (fun e => bitAt e 16 1)).getD false

/-- HART_TRANSACT (R455). -/
def execHartTransact (d : Desc) (channel : Half) (retries : Byte) (buf : Bytes) (s : State) : Res :=
  let n := channel.toNat - 128
  .next (bufferCommand d 0x1B false hartReserved freeBuffer buf (fun d buf =>
    let q := hartRequest buf
    hostCommand d 0x1B false (fun s => [
      (hasLoop s, stAbsent), (!inStartUp s, stMode),
      (decide (128 ≤ channel.toNat) && decide (channel.toNat < 160) && decide (retries.toNat ≤ 7), stVerify),
      (hartOn s n, stVerify),
      (decide (4 ≤ fieldAt buf 0 2) && decide (fieldAt buf 0 2 ≤ 263) && decide (5 ≤ fieldAt buf 2 1) && decide (fieldAt buf 2 1 ≤ 20),
        stVerify),
      (requestGood (fieldAt buf 0 2) q, stVerify), (decide (272 ≤ d.bufLen.toNat), stSpace),
      (((s.loops[n]?).map (fun l => l.hart.isNone)).getD false, stSpace)])
    (fun s =>
      if h : n < 32 then
        defer d 0x1B (.hart ⟨n, h⟩) (modLoop n (fun l => { l with hart := some {
            ring := d.ring, request := q, preambles := fieldAt buf 2 1, retries := retries.toNat, made := 0, sent := false } }) s)
      else s)) s)

/-- The exclusive or of bytes. -/
def xorAll (b : Bytes) : Byte := b.foldl (· ^^^ ·) 0

/-- The request as sent: the primary-master bit set (R456). -/
def asSent (q : Bytes) : Bytes := patch q 1 [byteAt q 1 ||| 0x80#8]

/-- The attempt fails with a cause (R459, Table 10). -/
def hartFail (n : Nat) (cause : Nat) (s : State) : State :=
  match (s.loops[n]?).bind (fun l => l.hart) with
  | none => s
  | some h =>
    let made := if h.sent then h.made else h.made + 1
    if h.retries = 0 then
      let s := modLoop n (fun l => { l with hart := none, hartTx := [], hartFailed := satAdd 8 l.hartFailed 1 }) s
      completeWait h.ring (fun w => match w with
        | .hart k => k.val = n
        | _ => false) stTimeout (cause + 2 ^ 8 * (made % 256)) s
    else modLoop n (fun l => { l with hartTx := [], hart := some { h with retries := h.retries - 1, made := made, sent := false } }) s

/-- The channel cannot carry an attempt (cause 5 of Table 10). -/
def loopOut (l : LoopCh) : Bool := [0x20#8, 0x28#8, 0x29#8, 0x2A#8].any (fun c => l.states.contains c)

/-- The reservoir of a passive output holds less than 4.5 V (R457). -/
def reservoirLow (s : State) (n : Nat) : Bool :=
  decide (16 ≤ n) && aoPassive s n && ((s.loops[n]?).map (fun l => decide (l.supplyCv < 450))).getD false

/-- HART_ATTEMPT (R456, R457): the characters of the attempt are sent, or it fails at once, or waits for the reservoir. -/
def execHartAttempt (n : Fin 32) (s : State) : Res :=
  .next (match (s.loops[n]).hart with
  | none => s
  | some h =>
    if h.sent || !alive s || s.mode.pause then s
    else if loopOut s.loops[n] then hartFail n.val 5 s
    else if reservoirLow s n.val then s
    else
      let q := asSent h.request
      modLoop n.val (fun l => { l with
        hart := some { h with made := h.made + 1, sent := true }
        hartTx := (List.replicate h.preambles 0xFF#8 ++ q ++ [xorAll q]).map hartChar }) s)

/-- A response is valid for a request as sent (R458). -/
def responseGood (q : Bytes) (f : HartFrame) : Bool :=
  let c := frameChars f
  let long := byteAt q 0 = 0x82
  let a := addressLen long
  let body := c.take (c.length - 1)
  decide (2 ≤ f.preambles) && decide (f.preambles ≤ 20) && charsGood f && decide (c.length ≤ 284) &&
  (byteAt c 0 = if long then 0x86 else 0x06) &&
  ((c.drop 1).take a = patch ((q.drop 1).take a) 0 [(byteAt q 1 ||| 0x80#8) &&& 0xBF#8]) &&
  (byteAt c (1 + a) = byteAt q (1 + a)) && decide (c.length = 4 + a + fieldAt c (2 + a) 1) && (xorAll body = byteAt c (c.length - 1))

/-- HART_RESPONSE (R458, R459). -/
def execHartResponse (n : Fin 32) (f : HartFrame) (s : State) : Res :=
  .next (match (s.loops[n]).hart with
  | none => s
  | some h =>
    if !h.sent || !alive s then s
    else if !responseGood (asSent h.request) f then hartFail n.val 2 s
    else
      let body := (frameChars f).take (f.raw.length - 1)
      let mine (w : Wait) : Bool := match w with
        | .hart k => k = n
        | _ => false
      let s := modLoop n.val (fun l => { l with hart := none, hartTx := [], hartOk := satAdd 16 l.hartOk 1 }) s
      completeOut h.ring mine stOk body.length 8 body s)

/-- The current attempt of a channel. -/
def attemptSent (s : State) (n : Fin 32) : Option Bool := (s.loops[n]).hart.map (fun h => h.sent)

/-- HART_NO_RESPONSE (R457). -/
def execHartNoResponse (n : Fin 32) (s : State) : Res :=
  .next (if attemptSent s n = some true && alive s then hartFail n.val 1 s else s)

/-- HART_BUS_BUSY (R457). -/
def execHartBusBusy (n : Fin 32) (s : State) : Res :=
  .next (if attemptSent s n = some false && alive s then hartFail n.val 3 s else s)

/-- HART_NO_ENERGY (R457): a passive output. -/
def execHartNoEnergy (n : Fin 32) (s : State) : Res :=
  .next (if attemptSent s n = some false && reservoirLow s n.val && alive s then hartFail n.val 4 s else s)

/-- HART_STRAY (R461). -/
def execHartStray (n : Fin 32) (s : State) : Res :=
  .next (if hasLoop s && alive s && (s.loops[n]).hart.isNone then modLoop n.val (fun l => { l with hartStray := satAdd 8 l.hartStray 1 }) s else s)

end Sys2Proof.Machine
end

