-- ==== Sys2Proof/Machine/Watchdog.lean ====
section
/-! DEFINITION. The module watchdog and the clock monitors (Watchdogs; R644, R681). -/

namespace Sys2Proof.Machine

/-- Change the watchdog. -/
def modWdt (f : WdtSt → WdtSt) (s : State) : State := { s with wdt := f s.wdt }

/-- WINDOW_TICKS P of the block in force (R616). -/
def wdtP (s : State) : Nat := fieldAt s.wdt.cfg 2 2

/-- CLOSED_TICKS C, taken as 0 in the first window (R618). -/
def wdtC (s : State) : Nat := if s.wdt.first then 0 else fieldAt s.wdt.cfg 4 2

/-- The registered tasks of the window's roll-call that have not checked in (R625). -/
def wdtMissing (s : State) : List Nat :=
  (List.range 128).filter (fun t =>
    s.wdt.roll.getLsbD t && !(s.wdt.checked.getLsbD t && s.wdt.checkedB.getLsbD t))

/-- A window begins at this edge: its roll-call covers the tasks registered and enabled now (R625). -/
def newWindow (first : Bool) (s : State) : State :=
  let roll : Nat := ((List.range 128).filter (fun t =>
    (fieldAt s.wdt.cfg 8 16).testBit t && (task s (taskNo t)).enabled)).foldl (fun n t => n + 2 ^ t) 0
  modWdt (fun w => { w with
    begun := true, first := first, count := 0, checked := 0, checkedB := 0, roll := BitVec.ofNat 128 roll }) s

/-- Task `t` checks in: a paired task counts when both copies have (R625). -/
def checkIn (t : BitVec 7) (copyB : Bool) (s : State) : State :=
  let bit : BitVec 128 := BitVec.ofNat 128 (2 ^ t.toNat)
  let paired := ((taskRec s t).map (fun r => r.attr.paired)).getD false
  modWdt (fun w => { w with
    checked := if paired && copyB then w.checked else w.checked ||| bit
    checkedB := if paired && !copyB then w.checkedB else w.checkedB ||| bit }) s

/-- A pair met an incomplete roll-call at count `n` (R621, R630). -/
def refusePair (n : Nat) (s : State) : State :=
  let missing := wdtMissing s
  raise 0xA000 0x0A02 0 (n % 2 ^ 14 + 2 ^ 16 * min 255 missing.length + 2 ^ 24 * missing.headD 0)
    (modWdt (fun w => { w with refused := satAdd 16 w.refused 1 }) s)

/-- What arrived after a cause of expiry and before the same edge: check-ins and the last key are taken, and no key acts (R619, R630). -/
def absorbArrivals (l : List WdtIn) (s : State) : State :=
  l.foldl (fun s x => match x with
    | .checkin t b => checkIn t b s
    | .key t _ => modWdt (fun w => { w with lastKey := some t }) s) s

/-- What arrived since the previous edge, evaluated in its order of arrival at count `n` (R619 to R621, R706): the cause
of an expiry, 0 for none; whether a pair was accepted; the state. A pair completed after an accepted one falls at count 0
of the window that begins at this edge. -/
def wdtArrivals : List WdtIn → Nat → Bool → State → Nat × Bool × State
  | [], _, moved, s => (0, moved, s)
  | .checkin t b :: rest, n, moved, s => wdtArrivals rest n moved (checkIn t b s)
  | .key t v :: rest, n, moved, s =>
    let s := modWdt (fun w => { w with lastKey := some t }) s
    if v = 0x5A1C && !s.wdt.armed then wdtArrivals rest n moved (modWdt (fun w => { w with armed := true }) s)
    else if !(v = 0xC3E7 && s.wdt.armed) then (3, moved, absorbArrivals rest s)
    else
      let s := modWdt (fun w => { w with armed := false }) s
      if n < wdtC s then (2, moved, absorbArrivals rest s)
      else if (wdtMissing s).isEmpty then wdtArrivals rest 0 true (newWindow false s)
      else wdtArrivals rest n moved (refusePair n s)

/-- WDT_TRIP is driven low for TRIP_MS; a pulse in progress restarts (R626). -/
def tripPulse (s : State) : State := { s with power := { s.power with tripPulse := true, tripLow := true } }

/-- The expiry record and the count increment reach the controller die (R607, R627). -/
def recordExpiry (data : DWord) (s : State) : State :=
  raise 0xA000 0x0A01 0 data.toNat (enqueueOp (.counters none) [(0, [])]
    { s with ret := { s.ret with ctr := { s.ret.ctr with wdtExpiries := satAdd 16 s.ret.ctr.wdtExpiries 1 } } })

/-- DATA of WDT_EXPIRED (R630). -/
def expiryData (cause n : Nat) (s : State) : DWord :=
  let missing := wdtMissing s
  BitVec.ofNat 64 (cause + 2 ^ 8 * min 255 missing.length + 2 ^ 16 * missing.headD 0 + 2 ^ 23 * b2n (!missing.isEmpty) +
    2 ^ 24 * ((s.wdt.lastKey.map (fun t => t.toNat)).getD 0) + 2 ^ 31 * b2n s.wdt.lastKey.isSome +
    2 ^ 32 * (n % 2 ^ 14) + 2 ^ 48 * satAdd 16 s.ret.ctr.wdtExpiries 1)

/-- The watchdog expires with a cause at count `n` (R626, R88). The record and the increment are latched until the controller die has
recorded them (R627); one that no longer works finds them in the latch. -/
def expireWdt (cause n : Nat) (s : State) : State :=
  let data := expiryData cause n s
  let s := modWdt (fun w => { w with state := 2, armed := false, disarm := false, inbox := [] }) s
  let s := cutOutputs (tripPulse s)
  let s := modWdt (fun w => { w with latch := some data, latchCount := true, latchHeld := alive s }) s
  if alive s then recordExpiry data (enterSafe 2 0xFF 0 s) else s

/-- What is latched and not yet in the recorder queue and the counters enters them, for the save that writes them (R603, R627). -/
def takeLatch (s : State) : State :=
  if s.wdt.latchHeld then s
  else
    let c := s.ret.ctr
    let s := { s with ret := { s.ret with ctr := if s.wdt.latchCount then { c with wdtExpiries := satAdd 16 c.wdtExpiries 1 } else c } }
    let s := match s.wdt.latch with
      | some d => raise 0xA000 0x0A01 0 d.toNat s
      | none => s
    modWdt (fun w => { w with latchHeld := true }) s

/-- The watchdog disarms at the edge after a transition (R618). -/
def disarmDue (s : State) : State :=
  if s.wdt.disarm then modWdt (fun w => { w with state := 0, disarm := false, armed := false, inbox := [] }) s else s

/-- Everything that arrived is evaluated at the edge: the count before it, and the outcome (R618, R619). -/
def wdtEvaluate (s : State) : Nat × Nat × Bool × State :=
  let fresh := !s.wdt.begun
  let s := if fresh then newWindow true s else s
  let n := s.wdt.count
  let r := wdtArrivals s.wdt.inbox n fresh (modWdt (fun w => { w with inbox := [] }) s)
  (n, r)

/-- A watchdog tick edge (R618 to R622, R628): in the activation pause what arrived before it is evaluated and the count stays; the first
edge after 3 ms of it expires. -/
def wdtEdge (s : State) : State :=
  if s.wdt.state != 1 then modWdt (fun w => { w with inbox := [] }) s
  else if s.mode.pause && decide ((s.mode.pauseFrom + 3000) * usUnit < s.time.task) then expireWdt 4 s.wdt.count s
  else
    let (n, cause, moved, s) := wdtEvaluate s
    if cause != 0 then expireWdt cause n s
    else if s.mode.pause then disarmDue s
    else if moved then disarmDue (modWdt (fun w => { w with count := 0 }) s)
    else if wdtP s ≤ n then expireWdt 1 n s
    else disarmDue (modWdt (fun w => { w with count := n + 1 }) s)

/-- WATCHDOG_TICK (R619): whenever the module or its hold-up store has power (R40, R643). -/
def execWatchdogTick (s : State) : Res := .next (wdtEdge s)

/-- The edge at which the count would pass P with no accepted pair (R622). -/
def windowEnds (s : State) : Bool :=
  s.wdt.state = 1 && !s.mode.pause && s.wdt.begun &&
  (match wdtEvaluate s with
   | (n, cause, moved, s') => cause = 0 && !moved && decide (wdtP s' ≤ n))

/-- WDT_WINDOW_END (R622). -/
def execWdtWindowEnd (s : State) : Res := .next (if windowEnds s then wdtEdge s else s)

/-- WDT_PAUSE_EXPIRE (R628): the first edge after 3 ms of an activation pause. -/
def execWdtPauseExpire (s : State) : Res :=
  .next (if s.wdt.state = 1 && s.mode.pause then
    let s := advanceTo (s.mode.pauseFrom + 3000) s
    expireWdt 4 s.wdt.count s
  else s)

/-- WDT_TRIP_PULSE_END (R626, R639, R642, R681): the pulse ends; the line stays low while the module is held in reset. -/
def execWdtTripPulseEnd (s : State) : Res :=
  .next { s with power := { s.power with
    tripPulse := false, tripLow := s.power.tripLow && s.power.stopped } }

/-- EXPIRY_RECORD_TIMEOUT (R627): the record stays in the latch, for the save or the start-up that writes it. -/
def execExpiryRecordTimeout (s : State) : Res := .next s

/-! ### Clock monitoring -/

/-- A clock failure: trip, outputs, SAFE and CLOCK_MONITOR_FAIL (R629, R644, R695). -/
def clockFailure (data : Nat) (s : State) : State :=
  let s := cutOutputs (tripPulse s)
  if alive s then raise 0xA000 0x0A03 0 data (faultSafe 9 s) else s

/-- PILOT and WATCH monitor each other whenever the module or its hold-up store has power (R40, R629), from their comparison by
self-test 2 on (R695): a monitor's row in phase 2 comes after that comparison (log entry 80). -/
def monitoring (s : State) : Bool := s.mode.phase = 0 || 2 ≤ s.mode.phase

/-- WATCH cycles are counted over PILOT cycles: of two clocks that have not failed (R629; log entry 60). -/
def monitored (s : State) : Bool := monitoring s && !s.wdt.pilotBad && !s.wdt.watchBad

/-- A count outside 10 % of the self-test value. -/
def countOff (w : WdtSt) (n : Nat) : Bool := 10 * n < 9 * w.watch32 || 11 * w.watch32 < 10 * n

/-- CLOCK_MONITOR_PERIOD (R629): which of the two clocks the second bad period finds failed the manual does not say. -/
def execClockMonitorPeriod (watchCycles : Nat) (s : State) : Res :=
  .next (if !monitored s then s
  else
    let off := countOff s.wdt watchCycles
    let failed := off && s.wdt.badPeriod
    let s := modWdt (fun w => { w with watchCount := watchCycles, badPeriod := off && !failed }) s
    if !failed then s
    else
      let (k, s) := takeFree s
      let watch := Config.freeBit k
      let s := modWdt (fun w => { w with pilotBad := !watch, watchBad := watch }) s
      clockFailure (b2n watch + 2 ^ 16 * (watchCycles % 2 ^ 16)) s)

/-- CLOCK_EDGE_GAP (R629): a stopped clock, of one that had not failed. -/
def execClockEdgeGap (watch : Bool) (s : State) : Res :=
  .next (if !monitoring s || (if watch then s.wdt.watchBad else s.wdt.pilotBad) then s
  else
    let s := modWdt (fun w => { w with pilotBad := w.pilotBad || !watch, watchBad := w.watchBad || watch }) s
    clockFailure (b2n watch + 2 + 2 ^ 16 * (s.wdt.watchCount % 2 ^ 16)) s)

/-- PLL_LOSS_OF_LOCK (R644): the NET or FABRIC PLL, which is restarted. -/
def execPllLossOfLock (fabric : Bool) (s : State) : Res :=
  .next (if s.power.stopped then s else clockFailure (if fabric then 8 else 4) s)

end Sys2Proof.Machine
end

