-- ==== Sys2Proof/Machine/Power.lean ====
section
/-! DEFINITION. The supply, the hold-up store, the power-down save, the core rail, barn clocks, and the phases of
start-up (Power, Clocks and Start-up; R603, R607, R627, R660, R707). -/

namespace Sys2Proof.Machine

/-- Change the power part of the state. -/
def modPower (f : PowerSt → PowerSt) (s : State) : State := { s with power := f s.power }

/-- The store voltage has been measured. -/
def measureStore (mv : Nat) (p : PowerSt) : PowerSt :=
  { p with storeMv := mv, lowestMv := if p.interrupted then min p.lowestMv mv else p.lowestMv }

/-! ### Interruption and power-down (R633 to R640) -/

/-- SUPPLY_UNDERVOLTAGE (R633, R636): in a core supply fault too, while the die is held in reset. -/
def execSupplyUndervoltage (storeMv : Nat) (s : State) : Res :=
  .next (if s.power.interrupted || (s.power.stopped && !s.power.coreFault) then s
  else modPower (fun p => { p with
    interrupted := true, interruptFrom := s.time.net, storeMv := storeMv, lowestMv := storeMv
    rideMs := bitsOf (fieldAt (block s 0x0603) 0 1) 3 0 }) s)

/-- DATA of SUPPLY_INTERRUPTED. -/
def interruptedData (us mv : Nat) (save : Bool) : Nat :=
  min us (2 ^ 32 - 1) + 2 ^ 32 * (mv / 10 % 2 ^ 16) + 2 ^ 48 * b2n save

/-- The pages of the power-down save (R603): the counters page, the records that wait with their index pages, and the
retained copy. -/
def powerDownPages (s : State) : List (Nat × Bytes) :=
  countersPage s.ret none :: recordPages s.ret s.recorder.total s.recorder.queue ++ savePages s 2

/-- POWER_DOWN, which counts its own record among the pages it announces (R603, R655). -/
def raisePowerDown (cause : BitVec 2) (mv : Nat) (s : State) : State :=
  let data (pages : Nat) : Nat := cause.toNat + 2 ^ 16 * (mv / 10 % 2 ^ 16) + 2 ^ 32 * pages
  raise 0xB000 0x0B02 0 (data (powerDownPages (raise 0xB000 0x0B02 0 (data 0) s)).length) s

/-- The page in progress is written, and nothing waits for its operation any more (R603, R638). -/
def lastPage (s : State) : State :=
  finishPage { s with host := { s.host with rings := s.host.rings.map (fun r => { r with busy := none }) } }

/-- Duration in µs and lowest store voltage in mV of the interruption that the save belongs to (R655). -/
def interruption (s : State) : Nat × Nat :=
  if s.power.interrupted then ((s.time.net - s.power.interruptFrom) / netPerUs, s.power.lowestMv)
  else match s.power.endedUs with
    | some us => (us, s.power.lowestMv)
    | none => (0, s.power.storeMv)

/-- The power-down save begins (R137, R603, R638), with the records still latched (R627, R642); they stay latched until it has written
them. -/
def beginSave (cause : BitVec 2) (s : State) : State :=
  let mv := s.power.storeMv
  let s := lastPage s
  let s := modPower (fun p => { p with saving := true, powerDowns := satAdd 32 p.powerDowns 1 }) s
  let s := abortAll fcPower 0 { s with commit := { s.commit with stopped := true } }
  let s := deenergise s
  let s := takeLatch s
  let s := match s.power.coreLatch with
    | some above => raise 0xB000 0x0B04 0 (if above then 2 else 1) s
    | none => s
  let i := interruption s
  let s := raise 0xB000 0x0B01 0 (interruptedData i.1 i.2 true) s
  let s := raisePowerDown cause mv s
  let op : RetOp := { kind := .powerDown (saveNumber s), pages := powerDownPages s, wrote := 0, started := false }
  startPage mv { s with
    ret := { s.ret with ops := [op], saveWaits := [] }
    recorder := { s.recorder with queue := [] } }

/-- The save falls due; in the activation pause it begins at the end of the pause (R640). -/
def dueSaveNow (cause : BitVec 2) (s : State) : State :=
  if !alive s then s
  else if s.mode.pause then modPower (fun p => { p with saveDue := p.saveDue.orElse (fun _ => some cause) }) s
  else beginSave cause s

/-- RIDE_MS is over: the clocks move to that instant and the save falls due (R637). -/
def rideOver (storeMv : Nat) (s : State) : State :=
  let s := advanceNet (s.power.interruptFrom + netPerUs * 1000 * s.power.rideMs) s
  dueSaveNow 0 (modPower (measureStore storeMv) s)

/-- RIDE_MS_EXPIRE (R637). -/
def execRideMsExpire (storeMv : Nat) (s : State) : Res :=
  .next (if !s.power.interrupted || !alive s then s else rideOver storeMv s)

/-- The input is back (R633, R634, R637, R639). -/
def endInterruption (durationUs storeMv : Nat) (s : State) : State :=
  let s := modPower (fun p => { measureStore storeMv p with interrupted := false }) s
  if s.power.saving then s
  else if s.power.saveDue.isSome then modPower (fun p => { p with endedUs := some durationUs }) s
  else
    let s := modPower (fun p => { p with
      interruptions := satAdd 32 p.interruptions 1, longestUs := max p.longestUs (min durationUs (2 ^ 32 - 1)) }) s
    let s := raise 0xB000 0x0B01 0 (interruptedData durationUs s.power.lowestMv false) s
    setStore (if storeMv < 36000 then 1 else storeState storeMv s.power.storeC false) s

/-- SUPPLY_RETURN (R633, R637, R639): `durationUs` is the length of the interruption. The clocks move to its end, by way
of RIDE_MS, whose save an interruption as long as that has begun. -/
def execSupplyReturn (durationUs storeMv : Nat) (s : State) : Res :=
  .next (if !s.power.interrupted then s
  else if s.power.stopped then modPower (fun p => { measureStore storeMv p with interrupted := false }) s
  else
    let from_ := s.power.interruptFrom
    let over_ := decide (1000 * s.power.rideMs ≤ durationUs) && alive s && !s.power.saveDue.isSome
    let s := if over_ then rideOver storeMv s else s
    endInterruption durationUs storeMv (advanceNet (from_ + netPerUs * durationUs) s))

/-- STORE_AT_V_SAVE (R634, R637). -/
def execStoreAtVSave (storeMv : Nat) (s : State) : Res :=
  .next (if !s.power.interrupted || !alive s || vSave s.power < storeMv then s
  else dueSaveNow 1 (modPower (measureStore storeMv) s))

/-- PRSNT_LATE_OPEN (R654): without ride-through, whatever the input voltage. -/
def execPrsntLateOpen (storeMv : Nat) (s : State) : Res :=
  .next (if !s.power.prsntLate then s
  else
    let s := modPower (fun p => { measureStore storeMv p with prsntLate := false, mainSwitch := false }) s
    dueSaveNow 2 s)

/-- The save has no page left to write. -/
def saveOver (s : State) : Bool :=
  s.ret.ops.all (fun o => match o.kind with
    | .powerDown _ => false
    | _ => true)

/-- The controller die stops: its clocks and the host link stop with it (R639, R642, R643). -/
def stopDie (s : State) : State :=
  { s with
    power := { s.power with saving := false, saveDue := none, stopped := true, tripLow := true }
    time := { s.time with running := false, lcRunning := false }
    host := { HostIf.zero with perst := s.host.perst }
    ret := { s.ret with ops := [], saveWaits := [] } }

/-- POWER_DOWN_SAVE_DONE (R639, R681). -/
def execPowerDownSaveDone (s : State) : Res :=
  .next (if s.power.saving && saveOver s then stopDie s else s)

/-! ### The hold-up store (R634) -/

/-- The rows of Table 2 are tested: no interruption and no save in progress. -/
def storeTested (s : State) : Bool := !s.power.interrupted && alive s && s.power.saveDue.isNone

/-- HOLDUP_MEASURE (R634). -/
def execHoldupMeasure (capacitance storeMv : Nat) (s : State) : Res :=
  .next (if !storeTested s then s
  else
    let late := decide (s.power.store = 3)
    setStore (storeState storeMv capacitance late)
      (modPower (fun p => { p with storeC := min capacitance 0xFFFF, storeMv := storeMv }) s))

/-- HOLDUP_CHARGED (R634). -/
def execHoldupCharged (storeMv : Nat) (s : State) : Res :=
  .next (if !storeTested s || s.power.store != 1 || storeMv < 36000 then s
  else setStore (storeState storeMv s.power.storeC false) (modPower (fun p => { p with storeMv := storeMv }) s))

/-- HOLDUP_CHARGE_TIMEOUT (R634). -/
def execHoldupChargeTimeout (s : State) : Res :=
  .next (if !storeTested s || s.power.store != 1 then s else setStore 3 s)

/-! ### Core rail (R640 to R642) -/

/-- A list of page writes is interrupted after `k` of them. -/
def tearList (done : Nat) (mixed : DWord) (k : Nat) (l : List (Nat × Bytes)) (r : RetSt) : RetSt :=
  let r := (l.take k).foldl (fun r p => storePage p.1 p.2 r) r
  match l.drop k with
  | p :: _ => tear done mixed p r
  | [] => r

/-- The page write in progress is interrupted (R592): that of the controller's operation; where none is in progress, one of the recorder or
of phase 3. How many of those pages stand by then no row tells: it is a free value (log entry 120). -/
def tearPage (done : Nat) (mixed : DWord) (s : State) : State :=
  match s.ret.ops.head?.bind (fun o => if o.started then nextPage s.ret o else none) with
  | some p => modRet (tear done mixed p) s
  | none =>
    let n := takeFree s
    let k := Config.freeNat n.1
    if inStartUp s && s.mode.phase = 3 then
      let r := phase3Run (readStore s)
      if energyOk s.power.storeMv r.1.length then
        let k := k % (r.1.length + 1)
        modWdt (fun w => { w with latchCount := w.latchCount && k = 0, latch := if 3 ≤ k then none else w.latch })
          (modRet (tearList done mixed k r.1) n.2)
      else n.2
    else match s.recorder.queue with
      | (o, e) :: _ =>
        let p := recordPage s.ret o e
        if alive s && energyOk s.power.storeMv 2 && k % 4 != 3 then
          modRet (tearList done mixed (k % 4) [p, indexPage (storePage p.1 p.2 s.ret) s.recorder.total]) n.2
        else n.2
      | [] => n.2

/-- CORE_SUPPLY_FAULT (R592, R640, R642). -/
def execCoreSupplyFault (above : Bool) (groupsDone : Nat) (mixed : DWord) (s : State) : Res :=
  .next (if s.power.stopped then s
  else
    let s := cutOutputs (tripPulse s)
    let s := stopDie (tearPage groupsDone mixed s)
    modPower (fun p => { p with coreFault := true, coreLatch := some above }) s)

/-- CORE_RAIL_RECOVERED (R642): start-up begins afresh from phase 1. -/
def execCoreRailRecovered (s : State) : Res := .next (if s.power.coreFault then startUp false s else s)

/-! ### Insertion and power good (R646, R652, R653) -/

/-- PRSNT_EARLY_CLOSE (R652): a module that is being inserted charges its input capacitance and does nothing else. -/
def execPrsntEarlyClose (s : State) : Res :=
  .next (if s.power.prsntLate then s else modPower (fun p => { p with prsntEarly := true, mainSwitch := false }) s)

/-- MAIN_SUPPLY_SWITCH (R652): PRSNT_LATE has stayed closed for 20 ms. -/
def execMainSupplySwitch (s : State) : Res :=
  .next (if !s.power.prsntEarly || s.power.mainSwitch then s
  else modPower (fun p => { p with prsntLate := true, mainSwitch := true }) s)

/-- What the analog/power die latches lasts while the module or its store has power: a store below 12 V feeds nothing (R627; log entry
120). -/
def unlatchedAt (mv : Nat) (s : State) : State :=
  if 12000 ≤ mv then s
  else modPower (fun p => { p with coreLatch := none }) (modWdt (fun w => { w with latch := none, latchCount := false }) s)

/-- POWER_GOOD (R646, R653): of a module that is stopped. -/
def execPowerGood (p : PowerGoodPins) (s : State) : Res :=
  .next (if !s.power.stopped || !(s.power.prsntEarly && s.power.prsntLate && s.power.mainSwitch) then s
  else startUp false (unlatchedAt (10 * p.storeCv) (modPower (fun q => { q with
      slotId := p.slotId, storeMv := 10 * p.storeCv, coreFault := false, interrupted := false }) s)))

/-! ### Barn clocks (R644) -/

/-- A barn loses its clock: its calls return NO_SOLVER (R295), its instances abort, and it is powered off; what global image memory has no
room for goes to other barns (R22, R153). -/
def barnOff (b : Fin 4) (s : State) : State :=
  let calls := (barn s b).run.toList ++ (barn s b).queue
  let s := modBarn b (fun x => { x with queue := [] }) (calls.foldl (fun s c => endCall b c errNoSolver c.cycles c.pc.toNat s) s)
  let s := (stallsOf b).foldl (fun s u =>
    (residents s u).foldl (fun s r =>
      faultCopy r.2.task r.2.copyB fcStallLost (2 ^ 8 * u.barn.val + u.stall.val) s) s) s
  let s := (stallsOf b).foldl (fun s u => modStall u (fun x => { x with ungated := false, mem := [] }) s) s
  let s := modBarn b (fun x => { x with power := 0, wake := 0, solverOn := false, run := none }) s
  settleHomes { s with yard := { s.yard with
      offDue := s.yard.offDue.filter (fun x => x != b), homeLoc := s.yard.homeLoc.filter (fun x => x.2 != b)
      ringLoc := s.yard.ringLoc.filter (fun x => x.2 != b)
      moves := s.yard.moves.filter (fun x => x.2 != .barn b) } }

/-- BARN_CLOCK_FAIL (R644). -/
def execBarnClockFail (b : Fin 4) (solverPll : Bool) (s : State) : Res :=
  .next (if !(barn s b).present || (barn s b).power = 0 || !alive s then s
  else
    let n := ((stallsOf b).map (fun u => (residents s u).length)).sum
    raise 0xB000 0x0B05 0 (b.val + 4 * b2n solverPll + 2 ^ 8 * n) (barnOff b s))

/-! ### Images (R658, R659) -/

/-- The field of `n` bytes at `off` of an image. -/
def imgField (m : Mem) (off n : Nat) : Nat := leNat (Mem.read m off n)

/-- The trusted key hash: the owner's once the seal is locked, else the delivery key's (R659). -/
def trustedHash (s : State) : Bytes := if s.ret.sealLock then (pageOf s.ret.mram 0).take 48 else s.factory.keyHash

/-- VARIANTS and MIN_HW_REV admit this module. -/
def servesModule (s : State) (variants minRev : Nat) : Bool :=
  variants.testBit s.factory.variant.toNat && decide (minRev ≤ s.factory.hwRev.toNat)

/-- LENGTH is a multiple of 16 from 1,024 to 16 MiB (Table 1 of Firmware Update). -/
def lengthGood (n : Nat) : Bool := n % 16 = 0 && decide (1024 ≤ n) && decide (n ≤ 2 ^ 24)

/-- The image of `n` bytes is verified (R658, R659): one whose LENGTH Table 1 does not allow is no image (log entry 125). -/
def imageVerified (s : State) (m : Mem) (n : Nat) : Bool :=
  let key := Mem.read m 64 97
  imgField m 0 4 = 0x42465A42 && imgField m 4 1 = 1 && imgField m 12 4 = n && lengthGood n &&
  servesModule s (imgField m 16 1) (imgField m 17 1) &&
  Config.sha384 key = trustedHash s &&
  Config.ecdsaValid key (Config.sha384 (Mem.read m 0 (n - 96))) (Mem.read m (n - 96) 96)

/-! ### Start-up (R646 to R651) -/

/-- The next phase begins. -/
def enterPhase (n : Nat) (s : State) : State := { s with mode := { s.mode with phase := n } }

/-- The inactive slot. -/
def fwInactive (s : State) : FwSlot := if s.fw.active then s.fw.slot0 else s.fw.slot1

/-- A slot: true names slot 1. -/
def fwSlot (s : State) (one : Bool) : FwSlot := if one then s.fw.slot1 else s.fw.slot0

/-- Change a slot: true names slot 1. -/
def modSlot (one : Bool) (f : FwSlot → FwSlot) (s : State) : State :=
  if one then { s with fw := { s.fw with slot1 := f s.fw.slot1 } } else { s with fw := { s.fw with slot0 := f s.fw.slot0 } }

/-- A slot without an image. -/
def emptySlot : FwSlot := { state := 0, image := [], length := 0 }

/-- The boot stage starts the other slot, and raises FW_SLOT_BAD (R660). -/
def startOther (s : State) : State :=
  let bad := s.fw.active
  let s := modSlot bad (fun _ => emptySlot) (modSlot (!bad) (fun f => { f with state := 3 }) s)
  raise 0xC000 0x0C06 0 (b2n bad) { s with fw := { s.fw with active := !bad } }

/-- The boot stage finds the active slot good (R659, R660): its image is verified, and the slot still gives it (`readable`). The image of a slot
that nothing has written since reset is not known, and only `readable` tells (log entry 127). -/
def slotGood (readable : Bool) (s : State) : Bool :=
  let f := fwActive s
  readable && (f.image.isEmpty || imageVerified s f.image f.length)

/-- STARTUP_PHASE_1_END (R549, R643, R646, R660): `activeSlotGood` says that the active slot can be read as it was written. -/
def execStartupPhase1End (activeSlotGood : Bool) (s : State) : Res :=
  let good := slotGood activeSlotGood s
  .next (if !inPhase s 1 then s
  else if !good && (fwInactive s).state != 2 then faultSafe 5 s
  else
    let s := if good then s else startOther s
    enterPhase 2 { s with time := { s.time with lcRunning := true, lc := 0 } })

/-- What a failed test takes out of service (Table 7); `c` is the barn, stall or group concerned. -/
def testFailed (test : Nat) (c : Nat) (s : State) : State :=
  if test = 4 then (if h : c < 4 then modBarn ⟨c, h⟩ (fun b => { b with present := false }) s else s)
  else if test = 5 then
    (if h : c / 8 < 4 ∧ c % 8 < 5 then
      let u : StallId := { barn := ⟨c / 8, h.1⟩, stall := ⟨c % 8, h.2⟩ }
      if (stall s u).state = 4 then s else retireStall u 2 (raise (stallSource u) 0x0212 0 3 s)
    else s)
  else if test = 6 then
    (if c < 8 then { s with field := { s.field with diGrp := vmod s.field.diGrp c (fun g => { g with refFail := true }) } }
    else if 128 ≤ c && c < 160 then
      modLoop (c - 128) (fun l => { l with missing := 3, states := if l.states.contains 0x20#8 then l.states else l.states ++ [0x20#8] }) s
    else s)
  else if test = 8 then (if storeTested s then setStore 3 s else s)
  else s

/-- A stall of a barn in service passes: it is not RETIRED. -/
def anyStall (s : State) : Bool := allStalls.any (fun u => (barn s u.barn).present && (stall s u).state != 4)

/-- A barn is in service. -/
def anyBarn (s : State) : Bool := s.barns.toList.any (fun b => b.present)

/-- The effects of every failed test (Table 7). -/
def testEffects (r : SelfTest) (s : State) : State :=
  let s := r.failures.foldl (fun s f => testFailed f.1.toNat f.2.toNat s) s
  r.solvers.foldl (fun s b => if (barn s b).solverOut then s else retireSolver b 1 s) s

/-- A failure of the test is fatal (Table 7): for barns and stalls only when none passes. -/
def fatalTest (s : State) (test : Nat) : Bool :=
  test = 1 || test = 2 || test = 3 || test = 7 || (test = 4 && !anyBarn s) || (test = 5 && !anyStall s)

/-- STARTUP_PHASE_2_END (R419, R433, R615, R651). -/
def execStartupPhase2End (r : SelfTest) (s : State) : Res :=
  .next (if !inPhase s 2 then s
  else
    let s := testEffects r (modWdt (fun w => { w with watch32 := r.watchPer32 }) s)
    let s := r.failures.foldl (fun s f => selfTestFail f.1.toNat (fatalTest s f.1.toNat) f.2.toNat s) s
    let s := r.solvers.foldl (fun s b => selfTestFail 5 (fatalTest s 5) b.val s) s
    if r.failures.any (fun f => fatalTest s f.1.toNat) then faultSafe 5 s
    else enterPhase 3 (loadInputs { s with field := { s.field with sampling := true } }))

/-- STARTUP_PHASE_3_END (R605 to R607, R627, R707): `storeMv` is the store voltage at which the writes begin, or 300 ms
after the start of phase 1. Training begins in phase 4. -/
def execStartupPhase3End (storeMv : Nat) (s : State) : Res :=
  .next (if !inPhase s 3 then s
  else
    let s := readStore (modPower (fun p => { p with storeMv := storeMv }) s)
    let s := if energyOk storeMv (phase3Pages s) then phase3Writes s else selfTestFail 8 false 0xFF (if storeTested s then setStore 3 s else s)
    startTraining (enterPhase 4 s))

/-- STARTUP_PHASE_4_END (R481, R490, R561, R562): the role is decided, or solo with no link; the Ihloz node enters
LISTEN in phase 5. -/
def execStartupPhase4End (s : State) : Res :=
  .next (if !inPhase s 4 || (telithOn s && s.pair.role = 3) then s
  else
    let s := if telithOn s then s else modPair (fun p => { p with role := 0 }) s
    let s := enterPhase 5 { s with star := { s.star with forwards := true } }
    if nodeOn s then modIhloz (fun n => { n with startFrom := ihlozTick s }) (nodeState 1 s) else s)

/-- STARTUP_PHASE_5_END (R490): the node is ACTIVE or PASSIVE, or the clocks move to three cycle lengths of START_MODE after it entered
LISTEN. Without an enabled node the phase has nothing to wait for (log entry 4). -/
def execStartupPhase5End (s : State) : Res :=
  let cycle := ((Tab.find s.ihloz.scheds (startMode s)).map (fun c => c.cycleUs)).getD 0
  let joined := s.ihloz.state = 5 || s.ihloz.state = 6
  .next (if !inPhase s 5 then s
    else enterPhase 6 (if !nodeOn s || joined then s else advanceIhloz (s.ihloz.startFrom + 100 * (3 * cycle) : Nat) s))

/-- STARTUP_PHASE_6_END (R568, R648): task time starts at 0; a unit decided STANDBY takes the partner's task time, base
tick numbering and T0, given as `partnerT0`. -/
def execStartupPhase6End (partnerT0 : Int) (s : State) : Res :=
  .next (if !inPhase s 6 then s
  else
    let s := enterPhase 7 s
    match (if s.pair.role = 2 then partnerTime s else none) with
    | some (us, tick) =>
      let s := fixT0 partnerT0 (startTime (us * usUnit) s)
      refreshSource { s with time := { s.time with ticked := true, tickNo := tick } }
    | none => refreshSource (startTime 0 s))

/-- T0 of a unit that is not a standby (R48, R648): the start of the next Ihloz cycle at least 1 ms ahead, `cycle`, or the
instant 1 ms ahead. -/
def chosenT0 (cycle : Nat) (s : State) : Nat :=
  if (s.ihloz.state = 5 || s.ihloz.state = 6) && nowUs s + 1000 ≤ cycle then cycle else nowUs s + 1000

/-- STARTUP_PHASE_7_END (R78, R386, R570, R648). -/
def execStartupPhase7End (nextCycleUs : Nat) (s : State) : Res :=
  .next (if !inPhase s 7 then s
  else
    let s := enterPhase 8 (loadStored s)
    let s := if s.time.t0Fixed then s else fixT0 (chosenT0 nextCycleUs s) s
    let s := restartStored s
    if endsInRun s then takeClaim .startup s else s)

/-- The mode that start-up ends in (Table 11 of Tasks, Cycle and Modes; R567, R571). -/
def endStartup (s : State) : State :=
  let s := if s.mode.restarted.isNone then restartStored s else s
  if endsInRun s && !s.pair.takeoverFail then enterRun (if bitAt (block s 0x0101) 4 1 then 1 else 0) 1 0xFF 0 s
  else if autoRun s && s.proj.loaded && !s.pair.clash && s.pair.role = 2 then
    let diff := pairDiffers s
    let s := modPair (fun p => { p with differs := diff }) s
    if diff = 0 then changeMode mTrack 1 0xFF 0 s else changeMode mStop 1 0xFF 0 (raisePair 0x080B diff.toNat s)
  else changeMode mStop 1 0xFF 0 s

/-- STARTUP_PHASE_8_END (R647, R648): T0, or a standby's next base tick, with the store no longer charging and the claim
written or failed; `startupMs` is the duration of start-up. -/
def execStartupPhase8End (startupMs : Nat) (s : State) : Res :=
  .next (if !inPhase s 8 || s.power.store = 1 || s.pair.claiming.isSome then s
  else
    let s := advanceTo (tickTime s (nextTick s)) s
    endStartup (modPower (fun p => { p with startupMs := min startupMs 0xFFFF }) s))

end Sys2Proof.Machine
end

