-- ==== Sys2Proof/Machine/Firmware.lean ====
section
/-! DEFINITION. Firmware images, their transfer along the chain, and the activation pause (Firmware Update). -/

namespace Sys2Proof.Machine

/-- Firmware events carry SOURCE 0xC000 (R670). -/
def raiseFw (code data : Nat) : State → State := raise 0xC000 code 0 data

/-! ### Transfers (R661 to R664) -/

/-- The transfer of a ring. -/
def xferOf (s : State) (k : Fin 8) : Option Transfer := Tab.find s.fw.xfers k.val

/-- Set the transfer of a ring. -/
def setXfer (k : Fin 8) (x : Transfer) (s : State) : State := { s with fw := { s.fw with xfers := Tab.set s.fw.xfers k.val x } }

/-- A command of the transfer: FW_RECEIVE or FW_FORWARD. -/
def fwWait : Wait → Bool
  | .fwReceive => true
  | .fwForward => true
  | _ => false

/-- The transfer of a ring ends and its command completes. -/
def endXfer (k : Fin 8) (status : Byte) (s : State) : State :=
  completeWait k fwWait status 0 { s with fw := { s.fw with
    xfers := Tab.del s.fw.xfers k.val
    inbox := match xferOf s k with
      | some x => s.fw.inbox.filter (fun p => !(p.ethernet = x.ethernet && p.origin = x.origin))
      | none => s.fw.inbox } }

/-- The bytes of a transfer message (Table 2). -/
def messageBytes (kind id arg count : Nat) (body : Bytes) : Bytes :=
  [BitVec.ofNat 8 kind, 0#8] ++ leBytes 2 id ++ leBytes 4 arg ++ leBytes 4 count ++ zeros 4 ++ body

/-- A message of the transfer of ring `k` is sent: in a frame to the broadcast address of the port, or as freight to the
node (R662). -/
def sendMessage (k : Fin 8) (x : Transfer) (kind arg count : Nat) (body : Bytes) (s : State) : State :=
  let m := messageBytes kind x.transferId.toNat arg count body
  let s := setXfer k { x with sent := m } s
  if x.ethernet then
    let p : Fin 2 := if x.origin = 0 then 0 else 1
    enqueueOwn p (ownFrame (List.replicate 6 0xFF#8 ++ macOf s p ++ [0x88#8, 0xB5#8] ++ padTo (max 46 m.length) m) none) s
  else modIhloz (fun n => { n with freightQ := n.freightQ ++ [(x.origin.toNat, m)] }) s

/-- The bytes of a parcel are a message of a kind (Table 2). -/
def parcelIs (p : Parcel) (kind : Nat) (m : TransferMsg) : Bool :=
  p.ethernet = m.ethernet && p.origin = m.origin && bitsOf (fieldAt p.bytes 0 1) 2 0 = kind &&
  fieldAt p.bytes 2 2 = m.transferId.toNat && fieldAt p.bytes 4 4 = m.arg.toNat && fieldAt p.bytes 8 4 = m.count.toNat &&
  p.bytes.drop 16 = m.body

/-- The firmware takes the oldest message of a port or node, where it is of this kind and content (R502, R662). -/
def hear (kind : Nat) (m : TransferMsg) (s : State) : Option State :=
  match s.fw.inbox.find? (fun p => p.ethernet = m.ethernet && p.origin = m.origin) with
  | some p =>
    if parcelIs p kind m && served s then some { s with fw := { s.fw with inbox := s.fw.inbox.erase p } } else none
  | none => none

/-- A message comes from the port or node of a transfer. -/
def fromPeer (x : Transfer) (m : TransferMsg) : Bool := x.ethernet = m.ethernet && x.origin = m.origin && !x.fromHost

/-- The ring whose transfer a message belongs to, on the sending or the receiving side; `ids` when its TRANSFER_ID must be
that of the transfer. -/
def peerRing (s : State) (sending ids : Bool) (m : TransferMsg) : Option (Fin 8 × Transfer) :=
  ((List.finRange 8).filterMap (fun k => (xferOf s k).map (fun x => (k, x)))).find? (fun kx =>
    kx.2.sending = sending && fromPeer kx.2 m && (!ids || kx.2.transferId = m.transferId))

/-- A receive is in progress. -/
def receiving (s : State) : Bool := s.fw.xfers.any (fun x => !x.2.sending)

/-- FW_ACTIVATE is in progress, in its first millisecond or in the pause. -/
def activating (s : State) : Bool := s.mode.pauseAt.isSome || s.mode.pause

/-- The port or node that a path names exists. -/
def pathGood (path port : Nat) : Bool := (path = 1 && decide (port < 2)) || (path = 2 && decide (port < 32))

/-- A transfer as its command starts. -/
def newXfer (sending fromHost ethernet : Bool) (origin id step length : Nat) (s : State) : Transfer :=
  { sending := sending, fromHost := fromHost, ethernet := ethernet, origin := BitVec.ofNat 5 origin
    transferId := BitVec.ofNat 16 id, step := BitVec.ofNat 2 step, length := length, todo := [], sent := []
    cfg := block s 0x0605, slot := !s.fw.active }

/-- FW_PROGRESS for each PROGRESS_MIB MiB of an image of `n` bytes that is there at once (R664, R670). -/
def progressAll (n : Nat) (s : State) : State :=
  let step := 2 ^ 20 * max 1 (bitsOf (fieldAt (block s 0x0605) 4 1) 3 0)
  (List.range (n / step)).foldl (fun s i => raiseFw 0x0C01 (step * (i + 1)) s) s

/-- FW_RECEIVE (R661, Table 14 of Host Interface): from the host buffer the image is there at once, and its verification
begins. -/
def execFwReceive (d : Desc) (source port : Byte) (length : Word) (image : Bytes) (s : State) : Res :=
  let n := length.toNat
  .next (bufferCommand d 0x1C false (if source = 0 then imageReserved else []) sameBuffer image (fun d image =>
    hostCommand d 0x1C false (fun s => [
      (!inStartUp s && s.fw.xfers.isEmpty && !activating s, stMode),
      (if source = 0 then decide (n = d.bufLen.toNat) else pathGood source.toNat port.toNat, stVerify),
      (decide (n ≤ 2 ^ 24), stSpace)])
    (fun s =>
      let s := defer d 0x1C .fwReceive s
      if source = 0 then
        setXfer d.ring (newXfer false true false 0 0 3 n s)
          (progressAll n (modSlot (!s.fw.active) (fun _ => { state := 1, image := Mem.putAll [] 0 (padTo n image), length := n }) s))
      else setXfer d.ring (newXfer false false (decide (source = 1)) port.toNat 0 0 0 s) s)) s)

/-- The TRANSFER_ID of the next forward; none is zero (R662). -/
def freshId (s : State) : Nat := if s.fw.nextId = 0 then 1 else s.fw.nextId.toNat

/-- FW_FORWARD (R662, R663): the first OFFER is sent. A slot that is not VERIFIED gives VERIFY_FAIL; one that a waiting FW_RECEIVE or an
FW_ACTIVATE could still change is not forwarded (log entry 126). -/
def execFwForward (d : Desc) (path port : Byte) (s : State) : Res :=
  .next (hostCommand d 0x1D false (fun s => [
      (!(receiving s || activating s) || (fwInactive s).state != 2, stMode), (pathGood path.toNat port.toNat && (fwInactive s).state = 2, stVerify)])
    (fun s =>
      let f := fwInactive s
      let x := newXfer true false (decide (path = 1)) port.toNat (freshId s) 0 f.length s
      let s := { defer d 0x1D .fwForward s with fw := { s.fw with nextId := BitVec.ofNat 16 (freshId s + 1) } }
      sendMessage d.ring x 1 f.length 0 (Mem.read f.image 0 24) s) s)

/-- OFFER_REPEAT (R663). -/
def execOfferRepeat (ring : Fin 8) (s : State) : Res :=
  .next (match xferOf s ring with
  | some x =>
    if x.sending && x.step = 0 && served s then sendMessage ring x 1 x.length 0 (Mem.read (fwSlot s x.slot).image 0 24) s else s
  | none => s)

/-- Why the offered bytes already fail R659 (R663): REFUSE reason 2 or 3, 0 where neither holds. -/
def offerRefused (s : State) (m : TransferMsg) : Nat :=
  if 2 ^ 24 < m.arg.toNat then 2
  else if !servesModule s (fieldAt m.body 16 1) (fieldAt m.body 17 1) then 3
  else 0

/-- FW_REFUSED (Table 5). -/
def fwRefused (reason : Nat) (neighbour : Bool) : State → State := raiseFw 0x0C03 (reason % 256 + 256 * b2n neighbour)

/-- OFFER (R662, R663): to a receiver with a pending FW_RECEIVE. -/
def execOffer (m : TransferMsg) (s : State) : Res :=
  .next (match hear 1 m s with
  | none => s
  | some s => match peerRing s false false m with
  | some (k, x) =>
    if m.transferId = 0 then s
    else if x.step = 0 then
      let x := { x with transferId := m.transferId, length := m.arg.toNat }
      let r := offerRefused s m
      if r = 0 then
        sendMessage k { x with step := 1 } 2 0 0 [] (modSlot (!s.fw.active) (fun _ => { state := 1, image := [], length := 0 }) s)
      else endXfer k (if r = 2 then stSpace else stVerify) (fwRefused r false (sendMessage k x 3 r 0 [] s))
    else if x.step = 1 && x.transferId = m.transferId then sendMessage k x 2 0 0 [] s
    else s
  | none => s)

/-- ACCEPT (R663): the sender starts sending. -/
def execAccept (m : TransferMsg) (s : State) : Res :=
  .next (match hear 2 m s with
  | none => s
  | some s => match peerRing s true true m with
  | some (k, x) => if x.step = 0 then setXfer k { x with step := 1, todo := [(0, x.length)] } s else s
  | none => s)

/-- REFUSE (R663): the forward completes with VERIFY_FAIL. -/
def execRefuse (m : TransferMsg) (s : State) : Res :=
  .next (match hear 3 m s with
  | none => s
  | some s => match peerRing s true true m with
  | some (k, _) => endXfer k stVerify (fwRefused m.arg.toNat true s)
  | none => s)

/-- The image bytes that one message of a transfer carries at most: 1,024 over Ethernet, FLEN - 16 in a freight slot
of this node. -/
def chunkLimit (s : State) (x : Transfer) : Nat :=
  if x.ethernet then 1024
  else
    let own := ((schedNow s).map (fun c => c.slots.filter (fun y => y.freight && y.sender = ownNode s))).getD []
    lowest (own.map (fun y => y.length)) - 24

/-- The sender's next DATA message (R663). -/
def sendData (k : Fin 8) (x : Transfer) (s : State) : State :=
  match x.todo with
  | [] => s
  | (a, n) :: rest =>
    let c := min n (chunkLimit s x)
    if c = 0 then s
    else
      let left := if c = n then rest else (a + c, n - c) :: rest
      sendMessage k { x with todo := left } 4 a c (Mem.read (fwSlot s x.slot).image a c) s

/-- FW_PROGRESS events (R664, R670) for bytes received rising from `before` to `now`. -/
def progress (x : Transfer) (before now : Nat) (s : State) : State :=
  let step := 2 ^ 20 * max 1 (bitsOf (fieldAt x.cfg 4 1) 3 0)
  if before / step < now / step then raiseFw 0x0C01 (now + 2 ^ 32 * x.transferId.toNat) s else s

/-- The receiver stores the bytes of a DATA message that lie within the image (R663). -/
def takeData (x : Transfer) (m : TransferMsg) (s : State) : State :=
  let a := m.arg.toNat
  let b := (m.body.take m.count.toNat).take (x.length - a)
  let before := (fwInactive s).image.length
  let s := modSlot (!s.fw.active) (fun f => { f with image := Mem.putAll f.image a b }) s
  progress x before (fwInactive s).image.length s

/-- DATA (R663, R670): the message leaves a sender whose data it is, or reaches the receiver. -/
def execData (m : TransferMsg) (s : State) : Res :=
  .next (match peerRing s true true m with
  | some (k, x) => if x.step = 1 && served s then sendData k x s else s
  | none => match hear 4 m s with
    | none => s
    | some s => match peerRing s false true m with
      | some (_, x) => if x.step = 1 then takeData x m s else s
      | none => s)

/-- NACK (R663): the sender sends the range again. -/
def execNack (m : TransferMsg) (s : State) : Res :=
  .next (match hear 5 m s with
  | none => s
  | some s => match peerRing s true true m with
  | some (k, x) =>
    if x.step = 1 || x.step = 2 then
      let a := min m.arg.toNat x.length
      setXfer k { x with step := 1, todo := x.todo ++ [(a, min m.count.toNat (x.length - a))] } s
    else s
  | none => s)

/-- The ranges of an image still missing from address `a` up to `n`. -/
def missingFrom : Nat → Nat → Mem → List (Nat × Nat)
  | a, n, [] => if a < n then [(a, n - a)] else []
  | a, n, (b, _) :: rest => if a < b then (a, b - a) :: missingFrom (b + 1) n rest else missingFrom (b + 1) n rest

/-- DONE at the receiver (R663): a NACK for each missing range, or the verification begins. -/
def takeDone (k : Fin 8) (x : Transfer) (s : State) : State :=
  let gaps := missingFrom 0 x.length (fwInactive s).image
  if gaps.isEmpty then setXfer k { x with step := 3 } s
  else gaps.foldl (fun s g => sendMessage k x 5 g.1 g.2 [] s) s

/-- DONE (R663): the sender has sent every range, or the receiver hears so. -/
def execDone (m : TransferMsg) (s : State) : Res :=
  .next (match peerRing s true true m with
  | some (k, x) => if x.step = 1 && x.todo.isEmpty && served s then sendMessage k { x with step := 2 } 6 0 0 [] s else s
  | none => match hear 6 m s with
    | none => s
    | some s => match peerRing s false true m with
      | some (k, x) => if x.step = 1 then takeDone k x s else s
      | none => s)

/-- VERIFIED (R663): the forward completes with OK. -/
def execVerified (m : TransferMsg) (s : State) : Res :=
  .next (match hear 7 m s with
  | none => s
  | some s => match peerRing s true true m with
  | some (k, x) => if x.step = 2 then endXfer k stOk s else s
  | none => s)

/-- The receive whose image is being verified. -/
def verifying (s : State) : Option (Fin 8 × Transfer) :=
  ((List.finRange 8).filterMap (fun k => (xferOf s k).map (fun x => (k, x)))).find? (fun kx => !kx.2.sending && kx.2.step = 3)

/-- FW_VERIFY_DONE (R659 to R661, R663, R670). -/
def execFwVerifyDone (s : State) : Res :=
  .next (match verifying s with
  | none => s
  | some (k, x) =>
    if !alive s then s
    else
      let slot := !s.fw.active
      let img := (fwInactive s).image
      if imageVerified s img x.length then
        let s := modSlot slot (fun f => { f with state := 2, length := x.length }) s
        let s := raiseFw 0x0C02 (imgField img 8 3 + 2 ^ 24 * b2n slot + 2 ^ 32 * imgField img 20 4) s
        endXfer k stOk (if x.fromHost then s else sendMessage k x 7 0 0 [] s)
      else
        let reason := if x.fromHost && !servesModule s (imgField img 16 1) (imgField img 17 1) then 3 else 1
        let s := fwRefused reason false (modSlot slot (fun _ => emptySlot) s)
        endXfer k stVerify (if x.fromHost then s else sendMessage k x 3 1 0 [] s))

/-- A transfer ends with TIMEOUT; an image that was being received is lost (R660, R663). -/
def timeoutXfer (k : Fin 8) (x : Transfer) (s : State) : State :=
  let s := if !x.sending && (fwInactive s).state = 1 then modSlot (!s.fw.active) (fun _ => emptySlot) s else s
  endXfer k stTimeout (fwRefused 4 x.sending s)

/-- FW_TRANSFER_IDLE_TIMEOUT (R663): on either side, also while the receiver verifies. -/
def execFwTransferIdleTimeout (ring : Fin 8) (s : State) : Res :=
  .next (match xferOf s ring with
  | some x => if x.step != 0 && !x.fromHost && alive s then timeoutXfer ring x s else s
  | none => s)

/-- FW_OFFER_WAIT_TIMEOUT (R661, R663). -/
def execFwOfferWaitTimeout (ring : Fin 8) (s : State) : Res :=
  .next (match xferOf s ring with
  | some x => if x.step = 0 && alive s then timeoutXfer ring x s else s
  | none => s)

/-! ### Activation (R665 to R669) -/

/-- FW_ACTIVATE may start in this mode (R665, Table 14 of Host Interface), and no FW_FORWARD needs the slot that it would change (R662; log
entry 126). -/
def activateMode (s : State) : Bool :=
  !inStartUp s && s.mode.mode != mSafe && s.mode.mode != mHold && !(pairActive s && s.pair.current) &&
  !s.fw.xfers.any (fun x => x.2.sending)

/-- FW_ACTIVATE (R665, R666): the pause begins at the first base tick at least 1 ms ahead. -/
def execFwActivate (d : Desc) (s : State) : Res :=
  .next (hostCommand d 0x1E true (fun s => [(activateMode s, stMode), ((fwInactive s).state = 2, stVerify)])
    (fun s => { defer d 0x1E .fwActivate s with mode := { s.mode with pauseAt := some (nowUsUp s + 1000) } }) s)

/-- The pause begins now (R98, R419, R454, R481, R488, R628, R666): open instances abort; a release that has not started is not open (R156), and
starts after the pause. -/
def beginPause (s : State) : State :=
  let s := flushOutputs s
  let s := allTasks.foldl (fun s t =>
    if ((task s t).inst.map Release.started).getD false then abortTask t fcMode s.mode.mode.toNat false s else s) s
  let s := modTasks (fun k => { k with pauseRelease := none }) s
  let s := (List.range 32).foldl (fun s n =>
    if ((s.loops[n]?).bind (fun l => l.hart.map (fun h => h.sent))).getD false then hartFail n 2 s else s) s
  let s := if s.ihloz.state = 0 then s else leave 2 0 s
  { s with
    mode := { s.mode with pause := true, pauseAt := none, pauseFrom := nowUs s }
    field := { s.field with frozen := true }
    star := { s.star with forwarding := none } }

/-- ACTIVATION_PAUSE_BEGIN (R666): the clocks move to the base tick. -/
def execActivationPauseBegin (s : State) : Res :=
  .next (match s.mode.pauseAt with
  | none => s
  | some t =>
    if !alive s then s
    else if s.time.ticked && nowUs s = tickTime s s.time.tickNo && decide (t ≤ nowUs s) then beginPause s
    else
      let at_ := tickTime s (nextTick s)
      if at_ < t then s else beginPause (advanceTo at_ s))

/-- A held reception is delivered (R666). -/
def deliverHeld (s : State) : HeldRx → State
  | .can c f sof => receiveCan c f sof s
  | .eth p frame fcsGood sfd => arriveEth p frame fcsGood sfd s

/-- Every reception that the pause held is delivered, the oldest first (R666). -/
def takeHeld (s : State) : State := s.fw.heldRx.foldl deliverHeld { s with fw := { s.fw with heldRx := [] } }

/-- The module goes on: inputs are sampled from the next instant of their grids on, outputs follow again, the Ihloz node integrates (R417,
R490, R666, R667). -/
def endPause (s : State) : State :=
  let s := { s with
    mode := { s.mode with pause := false }
    field := { s.field with
      frozen := false
      diGrp := s.field.diGrp.map (fun g => { g with last := max g.last (nowUs s), inProgress := none }) } }
  if nodeOn s then nodeState 1 s else s

/-- The releases that fell into the pause are made once (R667), as the release of a base tick is: a task that still waits for its start skips it
(R57). -/
def pauseReleases (s : State) : State :=
  let s' := s.proj.cur.tasks.foldl (fun s r => match (task s r.attr.taskId).pauseRelease with
    | some n =>
      let k := task s r.attr.taskId
      if !(runs s && k.enabled) || (k.held && !k.heldEntry) then s
      else if k.inst.isSome then
        raiseTask r.attr.taskId 0x0102 0 n (modCtr r.attr.taskId (fun c => { c with skipped := satAdd 16 c.skipped 1 }) s)
      else releaseNow r n false s
    | none => s) s
  modTasks (fun k => { k with pauseRelease := none }) s'

/-- The blocks that the new firmware does not read are replaced by their defaults, in the retain store too (R668); `reads` gives the format
version it reads of a block where that is not 1. -/
def resetBlocks (reads : List (Half × Byte)) (s : State) : State × Nat :=
  blockIds.foldl (fun (p : State × Nat) id =>
    match reads.find? (fun x => x.1.toNat = id) with
    | some (_, v) =>
      if v != 1 && (Tab.find p.1.ret.blocks id).isSome then
        let s := acceptBlock id (blockDefault id) p.1
        let s := enqueueOp (.settings none id (blockDefault id)) (List.replicate (settingsCount (blockDefault id).length) (0, [])) s
        (raiseFw 0x0C05 (id + 2 ^ 16) { s with ret := { s.ret with blocks := Tab.del s.ret.blocks id } }, p.2 + 1)
      else p
    | none => p) (s, 0)

/-- A save that fell due in the pause begins (R640). -/
def pendingSave (s : State) : State :=
  match s.power.saveDue with
  | some c => beginSave c (modPower (fun p => { p with saveDue := none }) s)
  | none => s

/-- FW_ACTIVATE of the ring that waits for it completes. -/
def completeActivate (status : Byte) (s : State) : State :=
  (List.finRange 8).foldl (fun s k => completeWait k (fun w => w = .fwActivate) status 0 s) s

/-- ACTIVATION_PAUSE_END (R640, R667, R668, R670): the new firmware runs. -/
def execActivationPauseEnd (reads : List (Half × Byte)) (s : State) : Res :=
  .next (if !s.mode.pause || !alive s || (fwInactive s).state != 2 then s
  else
    let us := nowUs s - s.mode.pauseFrom
    let new := !s.fw.active
    let s := modSlot (!new) (fun f => { f with state := 2 }) (modSlot new (fun f => { f with state := 3 }) s)
    let s := takeHeld (endPause { s with fw := { s.fw with active := new } })
    let (s, n) := resetBlocks reads s
    let s := pauseReleases s
    let img := (fwActive s).image
    let s := raiseFw 0x0C04 (imgField img 8 3 + 2 ^ 24 * b2n new + 2 ^ 32 * min us 0xFFFF + 2 ^ 48 * n) s
    pendingSave (completeActivate stOk s))

/-- ACTIVATION_FAILURE (R669): 2 ms after the pause began the previous slot is started again. -/
def execActivationFailure (s : State) : Res :=
  .next (if !s.mode.pause || !alive s then s
  else
    let s := advanceTo (s.mode.pauseFrom + 2000) s
    let s := takeHeld (endPause (modSlot (!s.fw.active) (fun _ => emptySlot) s))
    let s := enterSafe 5 0xFF 0 (modTasks (fun k => { k with pauseRelease := none }) s)
    pendingSave (completeActivate stVerify s))

end Sys2Proof.Machine
end

