-- ==== Sys2Proof/Machine/Stalls.lean ====
section
/-! DEFINITION. The steps of a stall: the issue of a bundle by what it carries, breakpoints, context switches and the
arrival of requested results (Morfold Move Set; Morfold Units Reference; HOLD). -/

namespace Sys2Proof.Machine

/-- BUNDLE_ISSUE: a bundle with no trigger and no immediate (R190, R191). -/
def execBundleIssue (u : StallId) (s : State) : Res :=
  .next (match ready s u with
  | some (f, i, b, cyc) => if isPlain b then issueMoves u f i b cyc s else s
  | none => s)

/-- IMM_HI: an immediate bundle (R196, R197). -/
def execImmHi (u : StallId) (s : State) : Res :=
  .next (match ready s u with
  | some (f, _, b, cyc) => if isImm b then issueImm u f b cyc s else s
  | none => s)

/-- ALU_ADD: A + B (R218). -/
def execAluAdd (u : StallId) (s : State) : Res := .next (issueTrigger u 0x21 s)

/-- ALU_ADC: A + B + Cin (R218, R219). -/
def execAluAdc (u : StallId) (s : State) : Res := .next (issueTrigger u 0x22 s)

/-- ALU_SUB: A - B (R218). -/
def execAluSub (u : StallId) (s : State) : Res := .next (issueTrigger u 0x23 s)

/-- ALU_SBC: A - B - 1 + Cin (R218, R219). -/
def execAluSbc (u : StallId) (s : State) : Res := .next (issueTrigger u 0x24 s)

/-- ALU_AND (R218). -/
def execAluAnd (u : StallId) (s : State) : Res := .next (issueTrigger u 0x25 s)

/-- ALU_OR (R218). -/
def execAluOr (u : StallId) (s : State) : Res := .next (issueTrigger u 0x26 s)

/-- ALU_XOR (R218). -/
def execAluXor (u : StallId) (s : State) : Res := .next (issueTrigger u 0x27 s)

/-- ALU_ANDN: A AND NOT B (R218). -/
def execAluAndn (u : StallId) (s : State) : Res := .next (issueTrigger u 0x28 s)

/-- ALU_SHL (R218). -/
def execAluShl (u : StallId) (s : State) : Res := .next (issueTrigger u 0x29 s)

/-- ALU_SHR (R218). -/
def execAluShr (u : StallId) (s : State) : Res := .next (issueTrigger u 0x2A s)

/-- ALU_SAR (R218). -/
def execAluSar (u : StallId) (s : State) : Res := .next (issueTrigger u 0x2B s)

/-- ALU_ROL (R218). -/
def execAluRol (u : StallId) (s : State) : Res := .next (issueTrigger u 0x2C s)

/-- ALU_MIN (R218). -/
def execAluMin (u : StallId) (s : State) : Res := .next (issueTrigger u 0x2D s)

/-- ALU_MAX (R218). -/
def execAluMax (u : StallId) (s : State) : Res := .next (issueTrigger u 0x2E s)

/-- ALU_CMP (R218). -/
def execAluCmp (u : StallId) (s : State) : Res := .next (issueTrigger u 0x2F s)

/-- MAC_MUL (R221). -/
def execMacMul (u : StallId) (s : State) : Res := .next (issueTrigger u 0x31 s)

/-- MAC_MAC (R221). -/
def execMacMac (u : StallId) (s : State) : Res := .next (issueTrigger u 0x32 s)

/-- MAC_MSU (R221). -/
def execMacMsu (u : StallId) (s : State) : Res := .next (issueTrigger u 0x33 s)

/-- CHK_STEP (R226). -/
def execChkStep (u : StallId) (s : State) : Res := .next (issueTrigger u 0x3B s)

/-- CHK_PAR (R228). -/
def execChkPar (u : StallId) (s : State) : Res := .next (issueTrigger u 0x3C s)

/-- CHK_REV (R229). -/
def execChkRev (u : StallId) (s : State) : Res := .next (issueTrigger u 0x3D s)

/-- LD_W: load a word (R235, R236). -/
def execLdW (u : StallId) (s : State) : Res := .next (issueTrigger u 0x51 s)

/-- LD_HU: load a half-word (R235, R236). -/
def execLdHu (u : StallId) (s : State) : Res := .next (issueTrigger u 0x52 s)

/-- LD_BU: load a byte (R236). -/
def execLdBu (u : StallId) (s : State) : Res := .next (issueTrigger u 0x53 s)

/-- ST_W: store a word (R237). -/
def execStW (u : StallId) (s : State) : Res := .next (issueTrigger u 0x54 s)

/-- ST_H: store a half-word (R237). -/
def execStH (u : StallId) (s : State) : Res := .next (issueTrigger u 0x55 s)

/-- ST_B: store a byte (R237). -/
def execStB (u : StallId) (s : State) : Res := .next (issueTrigger u 0x56 s)

/-- LS_BLK: start a block transfer (R239). -/
def execLsBlk (u : StallId) (s : State) : Res := .next (issueTrigger u 0x57 s)

/-- RPT_GO: start a repeat (R244). -/
def execRptGo (u : StallId) (s : State) : Res := .next (issueTrigger u 0x5C s)

/-- RPT_EXIT (R245). -/
def execRptExit (u : StallId) (s : State) : Res := .next (issueTrigger u 0x5D s)

/-- IMG_RDB: read a bit of the selected image (R250). -/
def execImgRdb (u : StallId) (s : State) : Res := .next (issueTrigger u 0x62 s)

/-- IMG_RDW: read a word of the selected image (R250). -/
def execImgRdw (u : StallId) (s : State) : Res := .next (issueTrigger u 0x63 s)

/-- IMG_WRB: write a bit of the output image (R251). -/
def execImgWrb (u : StallId) (s : State) : Res := .next (issueTrigger u 0x64 s)

/-- IMG_WRW: write a word of the output image (R251). -/
def execImgWrw (u : StallId) (s : State) : Res := .next (issueTrigger u 0x65 s)

/-- SOLVE: call the rung solver of the barn (R252, R262). -/
def execSolve (u : StallId) (s : State) : Res := .next (issueTrigger u 0x66 s)

/-- BR_JMP (R202, R203). -/
def execBrJmp (u : StallId) (s : State) : Res := .next (issueTrigger u 0x68 s)

/-- BR_CALL (R204). -/
def execBrCall (u : StallId) (s : State) : Res := .next (issueTrigger u 0x69 s)

/-- BR_JNZ (R205). -/
def execBrJnz (u : StallId) (s : State) : Res := .next (issueTrigger u 0x6B s)

/-- BR_JZ (R205). -/
def execBrJz (u : StallId) (s : State) : Res := .next (issueTrigger u 0x6C s)

/-- BR_JCC (R206). -/
def execBrJcc (u : StallId) (s : State) : Res := .next (issueTrigger u 0x6D s)

/-- BR_REL (R202). -/
def execBrRel (u : StallId) (s : State) : Res := .next (issueTrigger u 0x6F s)

/-- TX_END, and the end bundle (R187, R208, R209). -/
def execTxEnd (u : StallId) (s : State) : Res := .next (issueTrigger u 0x70 s)

/-- TX_ABORT (R110). -/
def execTxAbort (u : StallId) (s : State) : Res := .next (issueTrigger u 0x71 s)

/-- SYS_EVT (R109, R258, R261). -/
def execSysEvt (u : StallId) (s : State) : Res := .next (issueTrigger u 0x72 s)

/-- SYS_FENCE (R260). -/
def execSysFence (u : StallId) (s : State) : Res := .next (issueTrigger u 0x73 s)

/-- SYS_WAIT (R259). -/
def execSysWait (u : StallId) (s : State) : Res := .next (issueTrigger u 0x74 s)

/-- SYS_WDKEY (R261, R623). -/
def execSysWdkey (u : StallId) (s : State) : Res := .next (issueTrigger u 0x75 s)

/-- SYS_CHECKIN (R261, R625). -/
def execSysCheckin (u : StallId) (s : State) : Res := .next (issueTrigger u 0x76 s)

/-! ### Breakpoints (R92, R95, R97) -/

/-- The context of the instance in slot `f` goes to its frame and the stall executes nothing; the pairing deadline stops (R97). -/
def park (u : StallId) (f : Fin 4) (ph : Phase) (s : State) : State :=
  match slotOf s u f with
  | some i => stopPair i.task (modInst u f (fun j => { j with steps := none, stopPc := (stall s u).ctx.pc }) (toFrame u f ph s))
  | none => s

/-- The task becomes held, with TASK_HELD; its deadline stops, and the module is in HOLD (R92, R93). The deadline counts whole base
ticks; it stands still until the task is resumed, while STEP executes the instance too (log entry 79). -/
def holdTask (t : BitVec 7) (copyB entry : Bool) (addr : Nat) (s : State) : State :=
  let s := modTask t (fun k => { k with
    held := true, heldEntry := false
    inst := k.inst.map (fun r => if r.frozen then r else
      { r with frozen := true, deadline := r.deadline.map (fun n => n - s.time.tickNo) }) }) s
  let s := raiseTask t 0x0104 0 (addr + 2 ^ 16 * b2n copyB + 2 ^ 17 * b2n entry) s
  if s.mode.mode = mRun then changeMode mHold 8 0xFF 0 s else s

/-- The partner copy of a paired copy, when it waits or is held at the same bundle (R97). -/
def partnerWaits (s : State) (i : Inst) (pc : BitVec 15) : Option (StallId × Fin 4) :=
  ((copies s i.task).find? (fun c => c.2.2.copyB != i.copyB && (c.2.2.phase = .waitBreak || c.2.2.phase = .held) &&
    c.2.2.stopPc = pc)).map (fun c => (c.1, c.2.1))

/-- The partner copy of a paired copy has entered ENDING without reaching the breakpoint (R311). -/
def partnerEnding (s : State) (i : Inst) : Bool :=
  (copies s i.task).any (fun c => c.2.2.copyB != i.copyB && c.2.2.phase = .ending)

/-- BREAKPOINT_HIT: the running instance stands before a bundle with a breakpoint, or before its first bundle with its task
held at entry (R92, R95). The first copy of a paired task waits for the second (R97); where the second has entered ENDING, both abort
(R311). A step ends there, with TASK_HELD as at every breakpoint that is reached (R92). -/
def execBreakpointHit (u : StallId) (s : State) : Res :=
  .next (match issuer s u with
  | some (f, i) =>
    let entry := entryHeld s i
    let at_ := (stall s u).ctx.pc
    let pc := at_.toNat
    if !breakHere s u i && !entry then s
    else if partnerEnding s i then pairAbort i.task fcMismatch 0 0 s
    else if i.record.attr.paired && (partnerWaits s i at_).isNone then park u f .waitBreak s
    else
      let s := park u f .held s
      let s := match partnerWaits s i at_ with
        | some (v, g) => modInst v g (fun j => { j with phase := .held }) s
        | none => s
      let s := holdTask i.task i.copyB entry pc s
      if entry then endStep i.task 0 s else settleStep i.task i.issued s
  | none => s)

/-! ### Context switches (R60 to R62, R212) -/

/-- The running context leaves the stall's registers (R212). -/
def switchOut (u : StallId) (s : State) : State :=
  match running s u with
  | some (f, i) => if i.phase = .running then toFrame u f .preempted s else modStall u (fun st => { st with running := none }) s
  | none => modStall u (fun st => { st with running := none }) s

/-- The incoming context is restored; a fault that came while its instance did not run aborts it now (R102). -/
def switchIn (u : StallId) (g : Fin 4) (s : State) : State :=
  match slotOf s u g with
  | some i =>
    let s := modStall u (fun st => { loadFrame g i st with running := some g }) s
    let s := modInst u g (fun i => { i with phase := .running }) s
    match i.fault with
    | some q => selfAbort u g q.1 q.2 s
    | none => tryEnd u g s
  | none => s

/-- CONTEXT_SWITCH (R61, R212): the stall turns to the resident of R60; only a higher priority preempts. -/
def execContextSwitch (u : StallId) (s : State) : Res :=
  .next (match turnOf s u with
  | some g => if (stall s u).running = some g || !alive s then s else switchIn u g (switchOut u s)
  | none => s)

/-! ### Requested results (R155, R159, R213) -/

/-- A result is delivered to a socket of the running instance, or to the frame of another. -/
def deliverSocket (u : StallId) (f : Fin 4) (off : Nat) (v : Word) (g : Ctx → Ctx) (s : State) : State :=
  if (stall s u).running = some f then setCtx u g s
  else modStall u (fun st => { st with mem := Mem.putAll st.mem (frameAddr f + off) ((leBytes 4 v.toNat).map (heldAt s u f)) }) s

/-- The PEND bits of a frame follow what is outstanding (R211). -/
def framePend (u : StallId) (f : Fin 4) (s : State) : State :=
  match slotOf s u f with
  | some i =>
    if (stall s u).running = some f then s
    else modStall u (fun st => { st with mem := Mem.putAll st.mem (frameAddr f + 308) ((leBytes 4 (pendBits i)).map (held i)) }) s
  | none => s

/-- A result of a kind that an aborted instance of frame `f` requested is retired at the stall (R159, R181). -/
def retireStale (u : StallId) (f : Fin 4) (kind : ResKind) (s : State) : State :=
  match (stall s u).stale.find? (fun x => x.slot = f && x.kind = kind) with
  | some x => modCtr x.task (fun k => { k with stale := satAdd 16 k.stale 1 })
      (modStall u (fun st => { st with stale := st.stale.erase x }) s)
  | none => s

/-- The bytes of a load when it is served: what was known at its trigger, the committed version otherwise (R100, R120). -/
def loadBytesNow (u : StallId) (f : Fin 4) (q : LoadReq) (s : State) : Bytes × State :=
  match slotOf s u f with
  | none => (zeros q.width, s)
  | some i =>
    let a := q.addr.toNat
    match regionKey (region s i.record a) with
    | none => (zeros q.width, addrFault u f s)
    | some k =>
      let bytes := (List.range q.width).map (fun j => match Mem.find q.own (a + j) with
        | some b => b
        | none => homeByte s.commit i.task i.startCommit (k + j))
      let known := (List.range q.width).all (fun j => (Mem.find q.own (a + j)).isSome)
      (bytes, if known then s else countAccess u f (lineOf k) (markTorn u f (lineOf k) s))

/-- The cycle at which a load that is served now is ready (R195, R234, R691): within its range after its trigger; after a switch some of that
time has passed without being counted. -/
def loadReady (s : State) (u : StallId) (i : Inst) (q : LoadReq) (k : Nat) : Nat :=
  let range := loadRange s u i q
  if q.apart then q.at_ + Config.freeNat k % (range.2 + 1)
  else q.at_ + range.1 + Config.freeNat k % (range.2 + 1 - range.1)

/-- The instance in slot `f` executes: its cycles count (R195). -/
def waitCounts (s : State) (u : StallId) (f : Fin 4) : Bool := (stall s u).running = some f

/-- LOAD_RESULT_ARRIVE: the oldest outstanding load of the instance in slot `f` is served; its result stands in LD.RES when
no later load has been triggered (R200, R213). With none outstanding, a result of an aborted instance is retired. -/
def execLoadResultArrive (u : StallId) (frame : Fin 4) (s : State) : Res :=
  .next (match (slotOf s u frame).map (fun i => (i, i.loads)) with
  | some (i, q :: l) =>
    let (n, s) := takeFree s
    let at_ := loadReady s u i q n
    let (b, s) := loadBytesNow u frame q s
    let v : Word := BitVec.ofNat 32 (leNat b)
    let s := modInst u frame (fun j =>
      let shows := if waitCounts s u frame then at_ else min at_ j.cycle
      { flagsFrom i shows j with loads := l, ldReady := max j.ldReady shows }) s
    let s := if q.live then deliverSocket u frame 260 v (fun c => { c with ldRes := v }) s else s
    tryEnd u frame (framePend u frame s)
  | _ => retireStale u frame .load s)

/-- Words of a block transfer copied in ascending order until one faults (R239, R240); those of a spoiled one are unpredictable (R242). -/
def copyWords (u : StallId) (f : Fin 4) (spoiled : Bool) (src dst : Nat) : Nat → State → Option (Nat × Nat) × State
  | 0, s => (none, s)
  | n + 1, s =>
    let (b, s) := readData u f src 4 s
    let (b, s) := if spoiled then freeBytes 4 s else (b, s)
    match writeData u f dst b s with
    | (some q, s) => (some q, s)
    | (none, s) => copyWords u f spoiled (src + 4) (dst + 4) n s

/-- The cycle at which a block transfer that completes now has completed (R241). -/
def blkDone (s : State) (u : StallId) (i : Inst) (k : BlkReq) (n : Nat) : Nat :=
  k.at_ + Config.freeNat n % (blkBound s u i k + 1)

/-- BLOCK_TRANSFER_COMPLETE (R239 to R241). A word that faults aborts the instance while the transfer is outstanding, so that its
completion is still to be retired (R159, R240). -/
def execBlockTransferComplete (u : StallId) (frame : Fin 4) (s : State) : Res :=
  .next (match (slotOf s u frame).bind (fun i => i.blk.map (fun k => (i, k))) with
  | some (i, k) =>
    if i.fault.isSome then s
    else
    let (n, s) := takeFree s
    let at_ := blkDone s u i k n
    match copyWords u frame k.spoiled k.src.toNat k.dst.toNat (k.len / 4) s with
    | (some q, s) => ownFault u frame q.1 q.2 s
    | (none, s) =>
      let s := modInst u frame (fun j =>
        let shows := if waitCounts s u frame then at_ else min at_ j.cycle
        { flagsFrom i shows j with blk := none, blkReady := shows }) s
      tryEnd u frame (framePend u frame s)
  | none => retireStale u frame .block s)

/-- The cycle at which the return of a call that arrives now is ready (R264, R266, R270, Table 1): half a stall cycle for each solver cycle of the
call after its SOLVE, and a free part for its way and, where calls ran before it, for them and for the gaps between them; one that no solver
ran returns within 0.1 us. After a switch some of that time
has passed without being counted. -/
def solveDone (i : Inst) (k : Nat) : Nat :=
  let own := (i.solveTook + 1) / 2
  let wait := if i.solveAhead != 0 then 60 + 20 * 19 + (i.solveAhead + 1) / 2 else if i.solveTook = 0 then 40 else 60
  match i.solveAt with
  | some c => c + own + Config.freeNat k % (wait + 1)
  | none => i.cycle + Config.freeNat k % (own + wait + 1)

/-- SOLVER_RESULT_ARRIVE (R213, R266, R267): the return of a call reaches its stall. -/
def execSolverResultArrive (u : StallId) (frame : Fin 4) (s : State) : Res :=
  .next (match (barn s u.barn).returns.find? (fun r => r.1 = u && r.2.1 = frame) with
  | some (_, _, v, _) =>
    let (n, s) := takeFree s
    let s := modBarn u.barn (fun b => { b with returns := b.returns.filter (fun r => !(r.1 = u && r.2.1 = frame)) }) s
    let s := modInst u frame (fun i =>
      let shows := if waitCounts s u frame then solveDone i n else i.cycle
      { i with solving := false, solveReady := shows, imgReady := max i.imgReady shows }) s
    let s := deliverSocket u frame 288 v (fun c => { c with imgRes := v }) s
    tryEnd u frame (framePend u frame s)
  | none => retireStale u frame .solver s)

end Sys2Proof.Machine
end

