-- ==== Sys2Proof/Machine/Standby.lean ====
section
/-! DEFINITION. Bales and the bulk copy as the standby applies them, and REDUNDANCY_CONTROL (Hot Standby and the Telith Link). -/

namespace Sys2Proof.Machine

/-! ### Lines (R579, R586) -/

/-- The key of a line record: private data is that of the task. -/
def lineKey (t : BitVec 7) (l : BaleLine) : Nat :=
  let a := lineOf l.address.toNat
  if privBase ≤ a ∧ a < globBase then privKey t a else a

/-- The bytes of a line record by key. -/
def lineMem (key : Nat) (l : BaleLine) : Mem := Mem.putAll [] key (padTo 64 l.data)

/-- A line is applied when its commit number exceeds that of the line held. -/
def applyLine (t : BitVec 7) (n : Nat) (c : CommitSt) (l : BaleLine) : CommitSt :=
  let k := lineKey t l
  if Tab.getD c.vNew k 0 < n then commitBytes n (lineMem k l) c else c

/-- The outputs follow the task's output image as a bale or the bulk copy gave it (R497, R573). -/
def standbyOutputs (r : TaskRec) (n : Nat) (wins : Bool) (s : State) : State :=
  let t := r.attr.taskId
  let img := Mem.read s.commit.newest (outBase t) r.outSize
  let s := storeTx (variantNow s) r img s
  let v := directValues s r img
  if !wins then s
  else if r.attr.tickAligned then
    let d : OutDue := { commit := n, task := t, at_ := s.time.task, values := v, variant := variantNow s, olds := [] }
    modPair (fun p => { p with aligned := p.aligned.filter (fun x => x.task != t) ++ [d] }) s
  else applyValues (variantNow s) [] v s

/-- The target of the switch whose bale a standby applies: that of its own pending switch or vote. Without one, no record names it: the
bale carries no target, so it is a free value (R339; log entry 87). -/
def baleTarget (s : State) : Nat × Nat × Option (Fin 8) :=
  match s.prof.localSwitch, s.prof.vote with
  | some (t, k), _ => (t.toNat, 0, some k)
  | none, some v => (v.target.toNat, v.agreed.getD 0, v.ring)
  | none, none => (Config.freeNat s.free % 8, 0, none)

/-- The effect of a bale by its type (R333, R339, R573, R579). A TYPE 4 bale only tells the mode: what the outputs follow is the heartbeat's
(R573). -/
def baleEffect (b : Bale) (wins : Bool) (s : State) : State :=
  let n := b.commit.toNat
  if b.type = 1 then
    let s := { s with commit := b.lines.foldl (applyLine b.task n) s.commit }
    match taskRec s b.task with
    | some r => standbyOutputs r n wins s
    | none => s
  else if b.type = 2 then
    match s.proj.pkg with
    | some p =>
      if s.proj.edit = 0 then s
      else
        let back := s.proj.edit = 2
        raise 0x0000 0x0112 n
          (p.editId.toNat + 2 ^ 32 * (allTasks.filter (fun t => p.affected.getLsbD t.toNat)).length + 2 ^ 40 * b2n back)
          (applyEdit p back n s)
    | none => s
  else if b.type = 3 then
    let (t, cycle, k) := baleTarget s
    let s := (takeFree s).2
    match Tab.find s.prof.table t with
    | some p =>
      let s := applyProfile p n cycle k.isSome s
      (match k with
       | some k => completeWait k (fun w => w = .profile) stOk cycle s
       | none => s)
    | none => s
  else s

/-- The partner's edit state, as its identity record gave it, follows its edit commits: the bale of one tells that its edit has been applied, or
rolled back (R333, R567). -/
def notePartnerEdit (b : Bale) (s : State) : State :=
  if b.type != 2 then s
  else modPair (fun p => { p with partner := p.partner.map (fun i => { i with editState := if i.editState = 2 then 1 else 2 }) }) s

/-- The standby has written its claim for a takeover: bales under a lower claim come too late (R584; log entry 90). -/
def baleLate (b : Bale) (s : State) : Bool := s.pair.takeover.isSome && s.pair.claiming.isNone && decide (b.claim < s.ret.ctr.claim)

/-- BALE_APPLY (R569, R572, R573, R579, R584): a bale has been received completely. -/
def execBaleApply (b : Bale) (s : State) : Res :=
  .next (if !(s.pair.trained && alive s) then s
  else if b.crc != baleCrc b then modPair (fun p => { p with discarded := satAdd 32 p.discarded 1 }) s
  else
    let s := seeClaim b.claim (partnerUnit s) 0 (notePartnerEdit b s)
    if s.mode.mode != mTrack || baleLate b s then s
    else
    let wins := decide (highestClaim s ≤ b.claim)
    let s := baleEffect b wins s
    let n := b.commit.toNat
    modPair (fun p => { p with lastBale := n })
      { s with
        commit := { s.commit with last := n }
        ret := { s.ret with ctr := { s.ret.ctr with highestCommit := max s.ret.ctr.highestCommit n } } })

/-- The direct outputs of a standby that has become current again after a refused takeover leave SAFE_ACT for the values they follow
(R573, R582). -/
def followAgain (s : State) : State :=
  s.proj.cur.tasks.foldl (fun s r => if r.outSize = 0 then s else standbyOutputs r s.pair.lastBale true s) s

/-- BULK_DONE (R582, R586): the standby becomes current; an active unit notes that its standby is. -/
def execBulkDone (s : State) : Res :=
  .next (if !(s.pair.trained && alive s) then s
  else if s.mode.mode = mTrack then
    (match s.pair.bulk with
     | some (n, t) =>
       let failed := s.pair.takeoverFail
       let s := raisePair 0x080A (n % 2 ^ 32 + 2 ^ 32 * ((nowUs s - t) % 2 ^ 32))
         (modPair (fun p => { p with bulk := none, current := true, takeoverFail := false, delivered := BitVec.allOnes 128 }) s)
       if failed then followAgain s else s
     | none => s)
  else if s.pair.role = 1 && partnerTracks s then modPair (fun p => { p with current := true }) s
  else s)

/-- The last line of a task's output image. -/
def lastOutLine (r : TaskRec) : Nat := outBase r.attr.taskId + lineOf (r.outSize - 1)

/-- One line of the bulk copy (R586, R587). -/
def bulkLine (s : State) (l : BulkLine) : State :=
  let s : State := { s with
    commit := applyLine l.task l.commit.toNat s.commit l.line
    ret := { s.ret with ctr := { s.ret.ctr with highestCommit := max s.ret.ctr.highestCommit l.commit.toNat } }
    pair := { s.pair with bulk := s.pair.bulk.map (fun b => (b.1 + 1, b.2)) } }
  match s.proj.cur.tasks.find? (fun r => decide (0 < r.outSize) && lineOf l.line.address.toNat = lastOutLine r) with
  | some r =>
    let t := r.attr.taskId
    standbyOutputs r l.commit.toNat true (modPair (fun p => { p with delivered := p.delivered ||| BitVec.twoPow 128 t.toNat }) s)
  | none => s

/-- A standby that is sent a bulk copy again has ceased to be current (R578, R582). -/
def bulkAgain (s : State) : State :=
  if s.pair.bulk.isSome then s else { s with pair := { s.pair with bulk := some (0, nowUs s), current := false } }

/-- BULK_COPY_RECEIVE (R578, R586). -/
def execBulkCopyReceive (lines : List BulkLine) (s : State) : Res :=
  .next (if s.pair.trained && s.mode.mode = mTrack && alive s then lines.foldl bulkLine (bulkAgain s) else s)

/-! ### REDUNDANCY_CONTROL (R583, R584, R589) -/

/-- The redundancy status record (Table 9). -/
def redundancyBytes (s : State) : Bytes :=
  let p := s.pair
  let last := p.lastBale
  mkBlock 64 [
    (0, 1, p.role.toNat + 4 * b2n p.superseded + 8 * b2n p.current + 16 * (if p.trained then p.lanes.toNat else 0)),
    (1, 1, if p.trained then p.rate.toNat else 0), (2, 1, partnerUnit s), (3, 1, ((p.beat.map (fun b => b.mode.toNat)).getD 0)),
    (4, 4, s.ret.ctr.claim.toNat), (8, 4, ((p.beat.map (fun b => b.claim.toNat)).getD 0)),
    (12, 4, (highestClaim s).toNat), (16, 8, last), (24, 4, queueBytes p), (28, 4, p.discarded), (32, 4, p.linksLost)]

/-- REDUNDANCY_CONTROL with action QUERY (R589). -/
def execRedundancyControlQuery (d : Desc) (s : State) : Res :=
  .next (hostCommand d 0x1F true (fun s => [(hasTelith s, stAbsent), (decide (64 ≤ d.bufLen.toNat), stSpace)])
    (fun s => ok d 64 (output d (redundancyBytes s) s)) s)

/-- REDUNDANCY_CONTROL with action HANDOVER (R561, R583, R584): a standby that is trained and in TRACK but not current gives REFUSED_MODE (DESIGN
CHOICE, log entry 115). -/
def execRedundancyControlHandover (d : Desc) (s : State) : Res :=
  .next (hostCommand d 0x1F true (fun s => [(hasTelith s, stAbsent),
      (telithOn s && isActive s.pair.role s.mode.mode && partnerTracks s && s.pair.current, stMode)])
    (fun s => defer d 0x1F .handover
      (modPair (fun p => { p with handover := match p.handover with
        | some h => some h
        | none => some none }) s)) s)

/-- REDUNDANCY_CONTROL with action RETRAIN (R561, R589). -/
def execRedundancyControlRetrain (d : Desc) (s : State) : Res :=
  .next (hostCommand d 0x1F true (fun s => [(hasTelith s, stAbsent), (telithOn s, stMode)])
    (fun s => defer d 0x1F .retrain (startTraining (dropLink 1 s))) s)

end Sys2Proof.Machine
end

