-- ==== Sys2Proof/Machine/Dispatch.lean ====
section
/-! DEFINITION. The meaning of each command: one arm per constructor, one direct call per arm. -/

namespace Sys2Proof.Machine

/-- The command's effect on everything but the queue. -/
def exec (i : Instr) (s : State) : Host.Outcome State Fault Refusal :=
  match i with
  | .nop d => Sys2Proof.Machine.execNop d s
  | .identify d => Sys2Proof.Machine.execIdentify d s
  | .settingsWrite d block format buf => Sys2Proof.Machine.execSettingsWrite d block format buf s
  | .settingsRead d block => Sys2Proof.Machine.execSettingsRead d block s
  | .modeSet d mode start reason => Sys2Proof.Machine.execModeSet d mode start reason s
  | .taskLoad d pkg => Sys2Proof.Machine.execTaskLoad d pkg s
  | .taskControlEnable d task => Sys2Proof.Machine.execTaskControlEnable d task s
  | .taskControlDisable d task => Sys2Proof.Machine.execTaskControlDisable d task s
  | .taskControlTrigger d task => Sys2Proof.Machine.execTaskControlTrigger d task s
  | .taskControlQuery d task => Sys2Proof.Machine.execTaskControlQuery d task s
  | .breakpointSet d task bundle => Sys2Proof.Machine.execBreakpointSet d task bundle s
  | .breakpointClear d task bundle => Sys2Proof.Machine.execBreakpointClear d task bundle s
  | .holdResume d point => Sys2Proof.Machine.execHoldResume d point s
  | .step d task count => Sys2Proof.Machine.execStep d task count s
  | .chanSync d first count reads => Sys2Proof.Machine.execChanSync d first count reads s
  | .wardenWrite d first count buf => Sys2Proof.Machine.execWardenWrite d first count buf s
  | .imageExportSet d region task image offset length area => Sys2Proof.Machine.execImageExportSet d region task image offset length area s
  | .editPrepare d pkg => Sys2Proof.Machine.execEditPrepare d pkg s
  | .editCommit d earliest wait => Sys2Proof.Machine.execEditCommit d earliest wait s
  | .editRollback d earliest wait => Sys2Proof.Machine.execEditRollback d earliest wait s
  | .profileLoad d buf => Sys2Proof.Machine.execProfileLoad d buf s
  | .profileRequest d profile cycles => Sys2Proof.Machine.execProfileRequest d profile cycles s
  | .retainRead d first count => Sys2Proof.Machine.execRetainRead d first count s
  | .retainWrite d first count buf => Sys2Proof.Machine.execRetainWrite d first count buf s
  | .sealLock d confirm buf => Sys2Proof.Machine.execSealLock d confirm buf s
  | .recorderRead d first count => Sys2Proof.Machine.execRecorderRead d first count s
  | .clockRead d => Sys2Proof.Machine.execClockRead d s
  | .clockAdjustSet d seconds nanoseconds => Sys2Proof.Machine.execClockAdjustSet d seconds nanoseconds s
  | .clockAdjustStep d ns => Sys2Proof.Machine.execClockAdjustStep d ns s
  | .clockAdjustFreq d freq => Sys2Proof.Machine.execClockAdjustFreq d freq s
  | .canSend d controller buffer oneShot buf => Sys2Proof.Machine.execCanSend d controller buffer oneShot buf s
  | .canCancel d controller buffer => Sys2Proof.Machine.execCanCancel d controller buffer s
  | .ethSend d port queue launch stamp launchTime buf => Sys2Proof.Machine.execEthSend d port queue launch stamp launchTime buf s
  | .ihlozScheduleLoad d mode buf => Sys2Proof.Machine.execIhlozScheduleLoad d mode buf s
  | .hartTransact d channel retries buf => Sys2Proof.Machine.execHartTransact d channel retries buf s
  | .fwReceive d source port length image => Sys2Proof.Machine.execFwReceive d source port length image s
  | .fwForward d path port => Sys2Proof.Machine.execFwForward d path port s
  | .fwActivate d => Sys2Proof.Machine.execFwActivate d s
  | .redundancyControlQuery d => Sys2Proof.Machine.execRedundancyControlQuery d s
  | .redundancyControlHandover d => Sys2Proof.Machine.execRedundancyControlHandover d s
  | .redundancyControlRetrain d => Sys2Proof.Machine.execRedundancyControlRetrain d s
  | .hiCtrlEnableSet value => Sys2Proof.Machine.execHiCtrlEnableSet value s
  | .hiCtrlEnableClear value => Sys2Proof.Machine.execHiCtrlEnableClear value s
  | .ringCfgEnSet ring value => Sys2Proof.Machine.execRingCfgEnSet ring value s
  | .ringCfgEnClear ring value => Sys2Proof.Machine.execRingCfgEnClear ring value s
  | .bar0Write access value => Sys2Proof.Machine.execBar0Write access value s
  | .doorbellFetchDone line => Sys2Proof.Machine.execDoorbellFetchDone line s
  | .msixCoalesceExpire ring => Sys2Proof.Machine.execMsixCoalesceExpire ring s
  | .pcieLinkUp setup width => Sys2Proof.Machine.execPcieLinkUp setup width s
  | .placementPublish p => Sys2Proof.Machine.execPlacementPublish p s
  | .taskDeadline task => Sys2Proof.Machine.execTaskDeadline task s
  | .alarmTrigger task => Sys2Proof.Machine.execAlarmTrigger task s
  | .eventTaskRelease task place => Sys2Proof.Machine.execEventTaskRelease task place s
  | .instanceStart task delayNs parts => Sys2Proof.Machine.execInstanceStart task delayNs parts s
  | .pairedCopyBStart task delayNs parts => Sys2Proof.Machine.execPairedCopyBStart task delayNs parts s
  | .contextSwitch u => Sys2Proof.Machine.execContextSwitch u s
  | .bundleIssue u => Sys2Proof.Machine.execBundleIssue u s
  | .breakpointHit u => Sys2Proof.Machine.execBreakpointHit u s
  | .immHi u => Sys2Proof.Machine.execImmHi u s
  | .aluAdd u => Sys2Proof.Machine.execAluAdd u s
  | .aluAdc u => Sys2Proof.Machine.execAluAdc u s
  | .aluSub u => Sys2Proof.Machine.execAluSub u s
  | .aluSbc u => Sys2Proof.Machine.execAluSbc u s
  | .aluAnd u => Sys2Proof.Machine.execAluAnd u s
  | .aluOr u => Sys2Proof.Machine.execAluOr u s
  | .aluXor u => Sys2Proof.Machine.execAluXor u s
  | .aluAndn u => Sys2Proof.Machine.execAluAndn u s
  | .aluShl u => Sys2Proof.Machine.execAluShl u s
  | .aluShr u => Sys2Proof.Machine.execAluShr u s
  | .aluSar u => Sys2Proof.Machine.execAluSar u s
  | .aluRol u => Sys2Proof.Machine.execAluRol u s
  | .aluMin u => Sys2Proof.Machine.execAluMin u s
  | .aluMax u => Sys2Proof.Machine.execAluMax u s
  | .aluCmp u => Sys2Proof.Machine.execAluCmp u s
  | .macMul u => Sys2Proof.Machine.execMacMul u s
  | .macMac u => Sys2Proof.Machine.execMacMac u s
  | .macMsu u => Sys2Proof.Machine.execMacMsu u s
  | .chkStep u => Sys2Proof.Machine.execChkStep u s
  | .chkPar u => Sys2Proof.Machine.execChkPar u s
  | .chkRev u => Sys2Proof.Machine.execChkRev u s
  | .ldW u => Sys2Proof.Machine.execLdW u s
  | .ldHu u => Sys2Proof.Machine.execLdHu u s
  | .ldBu u => Sys2Proof.Machine.execLdBu u s
  | .stW u => Sys2Proof.Machine.execStW u s
  | .stH u => Sys2Proof.Machine.execStH u s
  | .stB u => Sys2Proof.Machine.execStB u s
  | .lsBlk u => Sys2Proof.Machine.execLsBlk u s
  | .loadResultArrive u frame => Sys2Proof.Machine.execLoadResultArrive u frame s
  | .blockTransferComplete u frame => Sys2Proof.Machine.execBlockTransferComplete u frame s
  | .rptGo u => Sys2Proof.Machine.execRptGo u s
  | .rptExit u => Sys2Proof.Machine.execRptExit u s
  | .imgRdb u => Sys2Proof.Machine.execImgRdb u s
  | .imgRdw u => Sys2Proof.Machine.execImgRdw u s
  | .imgWrb u => Sys2Proof.Machine.execImgWrb u s
  | .imgWrw u => Sys2Proof.Machine.execImgWrw u s
  | .solve u => Sys2Proof.Machine.execSolve u s
  | .brJmp u => Sys2Proof.Machine.execBrJmp u s
  | .brCall u => Sys2Proof.Machine.execBrCall u s
  | .brJnz u => Sys2Proof.Machine.execBrJnz u s
  | .brJz u => Sys2Proof.Machine.execBrJz u s
  | .brJcc u => Sys2Proof.Machine.execBrJcc u s
  | .brRel u => Sys2Proof.Machine.execBrRel u s
  | .txEnd u => Sys2Proof.Machine.execTxEnd u s
  | .txAbort u => Sys2Proof.Machine.execTxAbort u s
  | .sysEvt u => Sys2Proof.Machine.execSysEvt u s
  | .sysFence u => Sys2Proof.Machine.execSysFence u s
  | .sysWait u => Sys2Proof.Machine.execSysWait u s
  | .sysWdkey u => Sys2Proof.Machine.execSysWdkey u s
  | .sysCheckin u => Sys2Proof.Machine.execSysCheckin u s
  | .solverCallStart b => Sys2Proof.Machine.execSolverCallStart b s
  | .solverCallLimit b => Sys2Proof.Machine.execSolverCallLimit b s
  | .solverResultArrive u frame => Sys2Proof.Machine.execSolverResultArrive u frame s
  | .ld b wait => Sys2Proof.Machine.execLd b wait s
  | .ldn b wait => Sys2Proof.Machine.execLdn b wait s
  | .rungAnd b wait => Sys2Proof.Machine.execRungAnd b wait s
  | .rungAndn b wait => Sys2Proof.Machine.execRungAndn b wait s
  | .rungOr b wait => Sys2Proof.Machine.execRungOr b wait s
  | .rungOrn b wait => Sys2Proof.Machine.execRungOrn b wait s
  | .rungXor b wait => Sys2Proof.Machine.execRungXor b wait s
  | .st b wait => Sys2Proof.Machine.execSt b wait s
  | .stn b wait => Sys2Proof.Machine.execStn b wait s
  | .rungSet b wait => Sys2Proof.Machine.execRungSet b wait s
  | .rst b wait => Sys2Proof.Machine.execRst b wait s
  | .rise b wait => Sys2Proof.Machine.execRise b wait s
  | .fall b wait => Sys2Proof.Machine.execFall b wait s
  | .win b => Sys2Proof.Machine.execWin b s
  | .tmr b wait => Sys2Proof.Machine.execTmr b wait s
  | .rungNop b => Sys2Proof.Machine.execRungNop b s
  | .rungEnd b => Sys2Proof.Machine.execRungEnd b s
  | .endc b => Sys2Proof.Machine.execEndc b s
  | .endcn b => Sys2Proof.Machine.execEndcn b s
  | .jmp b => Sys2Proof.Machine.execJmp b s
  | .jmpc b => Sys2Proof.Machine.execJmpc b s
  | .jmpcn b => Sys2Proof.Machine.execJmpcn b s
  | .dup b => Sys2Proof.Machine.execDup b s
  | .pop b => Sys2Proof.Machine.execPop b s
  | .swap b => Sys2Proof.Machine.execSwap b s
  | .rungNot b => Sys2Proof.Machine.execRungNot b s
  | .ands b => Sys2Proof.Machine.execAnds b s
  | .ors b => Sys2Proof.Machine.execOrs b s
  | .xors b => Sys2Proof.Machine.execXors b s
  | .push0 b => Sys2Proof.Machine.execPush0 b s
  | .push1 b => Sys2Proof.Machine.execPush1 b s
  | .clr b => Sys2Proof.Machine.execClr b s
  | .pairCompare task => Sys2Proof.Machine.execPairCompare task s
  | .pairDeadline task => Sys2Proof.Machine.execPairDeadline task s
  | .imageExportWrite region => Sys2Proof.Machine.execImageExportWrite region s
  | .cacheLoad chan hostRead => Sys2Proof.Machine.execCacheLoad chan hostRead s
  | .channelStale chan => Sys2Proof.Machine.execChannelStale chan s
  | .drainFenceComplete m => Sys2Proof.Machine.execDrainFenceComplete m s
  | .resultForwarded r => Sys2Proof.Machine.execResultForwarded r s
  | .homeLineMove line => Sys2Proof.Machine.execHomeLineMove line s
  | .wakeDecision b => Sys2Proof.Machine.execWakeDecision b s
  | .barnPowerSwitchOn b => Sys2Proof.Machine.execBarnPowerSwitchOn b s
  | .barnPllLock b => Sys2Proof.Machine.execBarnPllLock b s
  | .barnClockRamp b => Sys2Proof.Machine.execBarnClockRamp b s
  | .stallUngate u => Sys2Proof.Machine.execStallUngate u s
  | .solverUngate b => Sys2Proof.Machine.execSolverUngate b s
  | .stallGate b stall => Sys2Proof.Machine.execStallGate b stall s
  | .barnPowerOff b => Sys2Proof.Machine.execBarnPowerOff b s
  | .farrierRead stalls solvers => Sys2Proof.Machine.execFarrierRead stalls solvers s
  | .stallRetired u => Sys2Proof.Machine.execStallRetired u s
  | .stallFailed u detection => Sys2Proof.Machine.execStallFailed u detection s
  | .solverRetired b cause => Sys2Proof.Machine.execSolverRetired b cause s
  | .groomTest u passed => Sys2Proof.Machine.execGroomTest u passed s
  | .groomScrub result => Sys2Proof.Machine.execGroomScrub result s
  | .thermalHigh b temp => Sys2Proof.Machine.execThermalHigh b temp s
  | .diSample g r => Sys2Proof.Machine.execDiSample g r s
  | .wettingPulse g => Sys2Proof.Machine.execWettingPulse g s
  | .countEdge n seen => Sys2Proof.Machine.execCountEdge n seen s
  | .chatterWindowExpire n => Sys2Proof.Machine.execChatterWindowExpire n s
  | .stuckTimeout n => Sys2Proof.Machine.execStuckTimeout n s
  | .countOverrateExpire n => Sys2Proof.Machine.execCountOverrateExpire n s
  | .readbackSample r => Sys2Proof.Machine.execReadbackSample r s
  | .doCurrentLimit n => Sys2Proof.Machine.execDoCurrentLimit n s
  | .doThermalShutdown n => Sys2Proof.Machine.execDoThermalShutdown n s
  | .doThermalRetry n => Sys2Proof.Machine.execDoThermalRetry n s
  | .groupOvercurrent g => Sys2Proof.Machine.execGroupOvercurrent g s
  | .groupRetry g => Sys2Proof.Machine.execGroupRetry g s
  | .doSupplyLow g vfDv => Sys2Proof.Machine.execDoSupplyLow g vfDv s
  | .loopConversion r => Sys2Proof.Machine.execLoopConversion r s
  | .aoLinkTimeout n => Sys2Proof.Machine.execAoLinkTimeout n s
  | .hartAttempt n => Sys2Proof.Machine.execHartAttempt n s
  | .hartResponse n f => Sys2Proof.Machine.execHartResponse n f s
  | .hartNoResponse n => Sys2Proof.Machine.execHartNoResponse n s
  | .hartBusBusy n => Sys2Proof.Machine.execHartBusBusy n s
  | .hartStray n => Sys2Proof.Machine.execHartStray n s
  | .ihlozFrameReceive chanB f arrival => Sys2Proof.Machine.execIhlozFrameReceive chanB f arrival s
  | .payloadFreeze slot => Sys2Proof.Machine.execPayloadFreeze slot s
  | .ihlozSlotSend slot seenA seenB => Sys2Proof.Machine.execIhlozSlotSend slot seenA seenB s
  | .ihlozSlotEnd slot => Sys2Proof.Machine.execIhlozSlotEnd slot s
  | .ihlozCycleStart offsetNs => Sys2Proof.Machine.execIhlozCycleStart offsetNs s
  | .ihlozTWaitExpire seenA seenB => Sys2Proof.Machine.execIhlozTWaitExpire seenA seenB s
  | .collisionMarkerReceive seen port => Sys2Proof.Machine.execCollisionMarkerReceive seen port s
  | .starDelimiterDetect port tick => Sys2Proof.Machine.execStarDelimiterDetect port tick s
  | .starForwardCut port => Sys2Proof.Machine.execStarForwardCut port s
  | .canFrameReceive c f sof => Sys2Proof.Machine.execCanFrameReceive c f sof s
  | .canTxComplete c sof => Sys2Proof.Machine.execCanTxComplete c sof s
  | .canArbitrationLost c sof => Sys2Proof.Machine.execCanArbitrationLost c sof s
  | .canBusError c e sof => Sys2Proof.Machine.execCanBusError c e sof s
  | .canRecoverWaitExpire c => Sys2Proof.Machine.execCanRecoverWaitExpire c s
  | .canBusOffRecovery c => Sys2Proof.Machine.execCanBusOffRecovery c s
  | .canIntegrate c => Sys2Proof.Machine.execCanIntegrate c s
  | .canTxPeriod c chan => Sys2Proof.Machine.execCanTxPeriod c chan s
  | .canBuffer2Load c => Sys2Proof.Machine.execCanBuffer2Load c s
  | .ethFrameReceive p frame fcsGood sfd => Sys2Proof.Machine.execEthFrameReceive p frame fcsGood sfd s
  | .ethLaunch p queue => Sys2Proof.Machine.execEthLaunch p queue s
  | .ethFrameSent p queue sfd => Sys2Proof.Machine.execEthFrameSent p queue sfd s
  | .ethSendTimeout p queue => Sys2Proof.Machine.execEthSendTimeout p queue s
  | .ethLink p up speed => Sys2Proof.Machine.execEthLink p up speed s
  | .ethTxPeriod p chan => Sys2Proof.Machine.execEthTxPeriod p chan s
  | .ptpMessageTimer p message => Sys2Proof.Machine.execPtpMessageTimer p message s
  | .trainingStepDone lanes partner => Sys2Proof.Machine.execTrainingStepDone lanes partner s
  | .linkLane lane => Sys2Proof.Machine.execLinkLane lane s
  | .heartbeatReceive h => Sys2Proof.Machine.execHeartbeatReceive h s
  | .baleApply b => Sys2Proof.Machine.execBaleApply b s
  | .retainPageWrite storeMv => Sys2Proof.Machine.execRetainPageWrite storeMv s
  | .recorderWrite storeMv => Sys2Proof.Machine.execRecorderWrite storeMv s
  | .supplyUndervoltage storeMv => Sys2Proof.Machine.execSupplyUndervoltage storeMv s
  | .supplyReturn durationUs storeMv => Sys2Proof.Machine.execSupplyReturn durationUs storeMv s
  | .rideMsExpire storeMv => Sys2Proof.Machine.execRideMsExpire storeMv s
  | .storeAtVSave storeMv => Sys2Proof.Machine.execStoreAtVSave storeMv s
  | .prsntLateOpen storeMv => Sys2Proof.Machine.execPrsntLateOpen storeMv s
  | .holdupMeasure capacitance storeMv => Sys2Proof.Machine.execHoldupMeasure capacitance storeMv s
  | .holdupCharged storeMv => Sys2Proof.Machine.execHoldupCharged storeMv s
  | .coreSupplyFault above groupsDone mixed => Sys2Proof.Machine.execCoreSupplyFault above groupsDone mixed s
  | .powerGood p => Sys2Proof.Machine.execPowerGood p s
  | .startupPhase1End activeSlotGood => Sys2Proof.Machine.execStartupPhase1End activeSlotGood s
  | .startupPhase2End r => Sys2Proof.Machine.execStartupPhase2End r s
  | .startupPhase3End storeMv => Sys2Proof.Machine.execStartupPhase3End storeMv s
  | .startupPhase6End partnerT0 => Sys2Proof.Machine.execStartupPhase6End partnerT0 s
  | .startupPhase7End nextCycleUs => Sys2Proof.Machine.execStartupPhase7End nextCycleUs s
  | .startupPhase8End startupMs => Sys2Proof.Machine.execStartupPhase8End startupMs s
  | .pllLossOfLock fabric => Sys2Proof.Machine.execPllLossOfLock fabric s
  | .barnClockFail b solverPll => Sys2Proof.Machine.execBarnClockFail b solverPll s
  | .clockMonitorPeriod watchCycles => Sys2Proof.Machine.execClockMonitorPeriod watchCycles s
  | .clockEdgeGap watch => Sys2Proof.Machine.execClockEdgeGap watch s
  | .offer m => Sys2Proof.Machine.execOffer m s
  | .data m => Sys2Proof.Machine.execData m s
  | .done m => Sys2Proof.Machine.execDone m s
  | .activationPauseEnd reads => Sys2Proof.Machine.execActivationPauseEnd reads s
  | .pcieCompletionTimeout kind ring tag addr => Sys2Proof.Machine.execPcieCompletionTimeout kind ring tag addr s
  | .currentLimitLeft n => Sys2Proof.Machine.execCurrentLimitLeft n s
  | .groupOvercurrentLeft g => Sys2Proof.Machine.execGroupOvercurrentLeft g s
  | .doThermalCooled n => Sys2Proof.Machine.execDoThermalCooled n s
  | .hartNoEnergy n => Sys2Proof.Machine.execHartNoEnergy n s
  | .starContinuousCut port => Sys2Proof.Machine.execStarContinuousCut port s
  | .starCutExpire port => Sys2Proof.Machine.execStarCutExpire port s
  | .offerRepeat ring => Sys2Proof.Machine.execOfferRepeat ring s
  | .accept m => Sys2Proof.Machine.execAccept m s
  | .refuse m => Sys2Proof.Machine.execRefuse m s
  | .nack m => Sys2Proof.Machine.execNack m s
  | .verified m => Sys2Proof.Machine.execVerified m s
  | .fwTransferIdleTimeout ring => Sys2Proof.Machine.execFwTransferIdleTimeout ring s
  | .fwOfferWaitTimeout ring => Sys2Proof.Machine.execFwOfferWaitTimeout ring s
  | .bulkCopyReceive lines => Sys2Proof.Machine.execBulkCopyReceive lines s
  | .ext b => Sys2Proof.Machine.execExt b s
  | .doorbellPoll => Sys2Proof.Machine.execDoorbellPoll s
  | .echoLineWrite => Sys2Proof.Machine.execEchoLineWrite s
  | .pcieLinkDown => Sys2Proof.Machine.execPcieLinkDown s
  | .hotReset => Sys2Proof.Machine.execHotReset s
  | .functionLevelReset => Sys2Proof.Machine.execFunctionLevelReset s
  | .surpriseRemoval => Sys2Proof.Machine.execSurpriseRemoval s
  | .perstNAssert => Sys2Proof.Machine.execPerstNAssert s
  | .perstNRelease => Sys2Proof.Machine.execPerstNRelease s
  | .foldRepost => Sys2Proof.Machine.execFoldRepost s
  | .baseTick => Sys2Proof.Machine.execBaseTick s
  | .commit => Sys2Proof.Machine.execCommit s
  | .escalationHandoverTimeout => Sys2Proof.Machine.execEscalationHandoverTimeout s
  | .directOutputApply => Sys2Proof.Machine.execDirectOutputApply s
  | .baleSend => Sys2Proof.Machine.execBaleSend s
  | .editCommitApply => Sys2Proof.Machine.execEditCommitApply s
  | .editCommitTimeout => Sys2Proof.Machine.execEditCommitTimeout s
  | .profileVoteComplete => Sys2Proof.Machine.execProfileVoteComplete s
  | .profileVoteFailed => Sys2Proof.Machine.execProfileVoteFailed s
  | .profileSwitch => Sys2Proof.Machine.execProfileSwitch s
  | .clockSyncCorrection => Sys2Proof.Machine.execClockSyncCorrection s
  | .telithTrainingStart => Sys2Proof.Machine.execTelithTrainingStart s
  | .trainingStepTimeout => Sys2Proof.Machine.execTrainingStepTimeout s
  | .soloTimeout => Sys2Proof.Machine.execSoloTimeout s
  | .roleDecision => Sys2Proof.Machine.execRoleDecision s
  | .telithLinkLost => Sys2Proof.Machine.execTelithLinkLost s
  | .heartbeatSend => Sys2Proof.Machine.execHeartbeatSend s
  | .claimTaken => Sys2Proof.Machine.execClaimTaken s
  | .takeover => Sys2Proof.Machine.execTakeover s
  | .handoverRequestReceive => Sys2Proof.Machine.execHandoverRequestReceive s
  | .handoverTimeout => Sys2Proof.Machine.execHandoverTimeout s
  | .bulkDone => Sys2Proof.Machine.execBulkDone s
  | .retainedSavePeriodic => Sys2Proof.Machine.execRetainedSavePeriodic s
  | .powerDownSaveDone => Sys2Proof.Machine.execPowerDownSaveDone s
  | .holdupChargeTimeout => Sys2Proof.Machine.execHoldupChargeTimeout s
  | .coreRailRecovered => Sys2Proof.Machine.execCoreRailRecovered s
  | .prsntEarlyClose => Sys2Proof.Machine.execPrsntEarlyClose s
  | .mainSupplySwitch => Sys2Proof.Machine.execMainSupplySwitch s
  | .startupPhase4End => Sys2Proof.Machine.execStartupPhase4End s
  | .startupPhase5End => Sys2Proof.Machine.execStartupPhase5End s
  | .watchdogTick => Sys2Proof.Machine.execWatchdogTick s
  | .wdtWindowEnd => Sys2Proof.Machine.execWdtWindowEnd s
  | .wdtPauseExpire => Sys2Proof.Machine.execWdtPauseExpire s
  | .wdtTripPulseEnd => Sys2Proof.Machine.execWdtTripPulseEnd s
  | .expiryRecordTimeout => Sys2Proof.Machine.execExpiryRecordTimeout s
  | .fwVerifyDone => Sys2Proof.Machine.execFwVerifyDone s
  | .activationPauseBegin => Sys2Proof.Machine.execActivationPauseBegin s
  | .activationFailure => Sys2Proof.Machine.execActivationFailure s

end Sys2Proof.Machine
end

