-- ==== Sys2Proof/Machine/Descriptor.lean ====
section
/-! DEFINITION. The 64-byte command descriptor (Table 11 of Host Interface) and the command that each OPCODE and its parameters name (Table 14).
What a command reads beside its descriptor, from its buffer or elsewhere in host memory, comes with it. -/

namespace Sys2Proof.Machine

/-- What a command reads from host memory beside its descriptor: the bytes of its buffer, and the packages, channel entries and partner
report that the rows of their commands carry field by field (log entry 1). -/
structure Fetched where
  buf : Bytes
  load : LoadPackage
  edit : EditPackage
  entries : List (Nat × Option Bytes)
  report : Option EditReport
  deriving DecidableEq, Repr

/-- The bits of a descriptor that Table 11 and the parameters of its OPCODE in Table 14 leave reserved. -/
def descReserved (b : Bytes) : List (Nat × Nat) :=
  let op := fieldAt b 0 1
  let act := fieldAt b 24 1
  let rest (n : Nat) : List (Nat × Nat) := wholeBytes n (64 - n)
  [(1, 255)] ++ wholeBytes 4 4 ++ wholeBytes 20 4 ++ (
    if op = 0x02 then rest 27
    else if op = 0x03 then rest 26
    else if op = 0x04 then rest 28
    else if op = 0x06 then rest 26
    else if op = 0x07 then rest 28
    else if op = 0x08 then (25, 255) :: rest 28
    else if op = 0x09 ∨ op = 0x0A then rest 28
    else if op = 0x0B then (27, 255) :: rest 36
    else if op = 0x0D ∨ op = 0x0E then rest 34
    else if op = 0x10 then rest 26
    else if op = 0x11 ∨ op = 0x12 ∨ op = 0x14 then rest 32
    else if op = 0x13 then rest 28
    else if op = 0x16 then wholeBytes 25 3 ++ (if act = 0 then wholeBytes 34 2 ++ rest 40 else if act = 1 then rest 36 else rest 32)
    else if op = 0x17 then (26, 0xFE) :: rest 27
    else if op = 0x18 then rest 26
    else if op = 0x19 then (26, 0xFC) :: (27, 255) :: rest 36
    else if op = 0x1A then rest 25
    else if op = 0x1B then rest 27
    else if op = 0x1C then wholeBytes 26 2 ++ rest 32
    else if op = 0x1D then rest 26
    else if op = 0x1F then rest 25
    else rest 24)

/-- The fields that every descriptor has (Table 11), of a command fetched from ring k. -/
def descOf (k : Fin 8) (b : Bytes) : Desc :=
  { ring := k, tag := BitVec.ofNat 16 (fieldAt b 2 2), bufAddr := BitVec.ofNat 64 (fieldAt b 8 8)
    bufLen := BitVec.ofNat 32 (fieldAt b 16 4), reserved := !reservedClear (descReserved b) b }

/-- The command that the descriptor `b` fetched from ring k names (R362, R370). An OPCODE that Table 14 does not list, and an ACTION outside
its range, keep their OPCODE and fail the checks of Table 13. -/
def commandOf (k : Fin 8) (b : Bytes) (x : Fetched) : Instr :=
  let d := descOf k b
  let b8 (a : Nat) : Byte := byteAt b a
  let b16 (a : Nat) : Half := BitVec.ofNat 16 (fieldAt b a 2)
  let b32 (a : Nat) : Word := BitVec.ofNat 32 (fieldAt b a 4)
  let b64 (a : Nat) : DWord := BitVec.ofNat 64 (fieldAt b a 8)
  let act := fieldAt b 24 1
  match fieldAt b 0 1 with
  | 0x01 => .identify d
  | 0x02 => .settingsWrite d (b16 24) (b8 26) x.buf
  | 0x03 => .settingsRead d (b16 24)
  | 0x04 => .modeSet d (b8 24) (b8 25) (b16 26)
  | 0x05 => .taskLoad d x.load
  | 0x06 =>
    match fieldAt b 25 1 with
    | 0 => .taskControlEnable d (b8 24)
    | 1 => .taskControlDisable d (b8 24)
    | 2 => .taskControlTrigger d (b8 24)
    | 3 => .taskControlQuery d (b8 24)
    | _ => .nop ⟨d, 0x06#8⟩
  | 0x07 =>
    match fieldAt b 25 1 with
    | 0 => .breakpointSet d (b8 24) (b16 26)
    | 1 => .breakpointClear d (b8 24) (b16 26)
    | 2 => .holdResume d ⟨b8 24, b16 26⟩
    | _ => .nop ⟨d, 0x07#8⟩
  | 0x08 => .step d (b8 24) (b16 26)
  | 0x09 => .chanSync d (b16 24) (b16 26) x.entries
  | 0x0A => .wardenWrite d (b16 24) (b16 26) x.buf
  | 0x0B => .imageExportSet d (b8 24) (b8 25) (b8 26) (b16 28) (b16 30) (b32 32)
  | 0x0C => .editPrepare d x.edit
  | 0x0D => .editCommit d (b64 24) ⟨b16 32, x.report⟩
  | 0x0E => .editRollback d (b64 24) ⟨b16 32, x.report⟩
  | 0x0F => .profileLoad d x.buf
  | 0x10 => .profileRequest d (b8 24) (b8 25)
  | 0x11 => .retainRead d (b32 24) (b32 28)
  | 0x12 => .retainWrite d (b32 24) (b32 28) x.buf
  | 0x13 => .sealLock d (b32 24) x.buf
  | 0x14 => .recorderRead d (b32 24) (b32 28)
  | 0x15 => .clockRead d
  | 0x16 =>
    match act with
    | 0 => .clockAdjustSet d (BitVec.ofNat 48 (fieldAt b 28 6)) (b32 36)
    | 1 => .clockAdjustStep d (b64 28)
    | 2 => .clockAdjustFreq d (b32 28)
    | _ => .nop ⟨d, 0x16#8⟩
  | 0x17 => .canSend d (b8 24) (b8 25) (bitAt b 26 0) x.buf
  | 0x18 => .canCancel d (b8 24) (b8 25)
  | 0x19 => .ethSend d (b8 24) (b8 25) (bitAt b 26 0) (bitAt b 26 1) (b64 28) x.buf
  | 0x1A => .ihlozScheduleLoad d (b8 24) x.buf
  | 0x1B => .hartTransact d (b16 24) (b8 26) x.buf
  | 0x1C => .fwReceive d (b8 24) (b8 25) (b32 28) x.buf
  | 0x1D => .fwForward d (b8 24) (b8 25)
  | 0x1E => .fwActivate d
  | 0x1F =>
    match act with
    | 0 => .redundancyControlQuery d
    | 1 => .redundancyControlHandover d
    | 2 => .redundancyControlRetrain d
    | _ => .nop ⟨d, 0x1F#8⟩
  | _ => .nop ⟨d, b8 0⟩

end Sys2Proof.Machine
end

