-- ==== Sys2Proof/Safety.lean ====
section
/-! DEFINITION. What a safe run is, and the words that the claims share: the canonical form of every memory, what no
command undoes, when a host command starts, and what a bundle has computed before its last effects. -/

namespace Sys2Proof.Machine

/-- The local data of every stall and the image of either firmware slot have their canonical form: addresses rise. -/
def State.localWf (s : State) : Bool :=
  (List.finRange 20).all (fun i => Mem.wf s.stalls[i].mem) && Mem.wf s.fw.slot0.image && Mem.wf s.fw.slot1.image

/-- Every memory of the state has its canonical form: addresses rise, and no listed byte equals what an unlisted address
reads as, where that is a value that the model knows. -/
def State.memWf (s : State) : Bool :=
  Mem.wf s.hostMem && Mem.wf0 s.ret.mram && Mem.wf0 s.commit.newest && Mem.wf0 s.commit.older && s.localWf

/-- What no command changes or undoes: the waiting commands, the factory record, free values already taken, a locked seal,
and the canonical form of the memories. -/
structure Kept (a b : State) : Prop where
  /-- the queue of waiting commands is the same -/
  queue : b.pending = a.pending
  /-- the factory record is the same -/
  factory : b.factory = a.factory
  /-- free values are taken in order and never again -/
  free : a.free ≤ b.free
  /-- a locked seal stays locked (R595) -/
  locked : a.ret.sealLock = true → b.ret.sealLock = true
  /-- the memories keep their canonical form -/
  mem : a.memWf = true → b.memWf = true

/-- A safe state: its memories have their canonical form. Every step from a safe state leads to a safe one. -/
def Safe (s : State) : Prop := s.memWf = true

/-- The state of a host command that has started: CMD_CONS has advanced and its fetches have succeeded (R359, R369). -/
def begun (d : Desc) (op : Nat) (s : State) : State := startNext d.ring op s

/-- A host command starts now, and its descriptor and package are as R17 and R380 ask of the host: reserved fields zero, BUF_ADDR aligned. -/
def startsClean (d : Desc) (op : Nat) (serial : Bool) (s : State) : Bool := starts d op serial s && !malformed d

/-- The context after the moves of a bundle, before its triggers. -/
def moved (u : StallId) (i : Inst) (b : MoveWord × MoveWord) (cyc : Nat) (s : State) : State :=
  let c := (stall s u).ctx
  setCtx u (fun x => writeBoth b (sourceValue u i c cyc (srcOf b.1)) (sourceValue u i c cyc (srcOf b.2)) (advanceAg b x)) s

/-- The state after the moves of a bundle, with the counts of its instance and the wait it made over, before its triggers act (R190, R195,
R201, R257). -/
def armed (u : StallId) (f : Fin 4) (i : Inst) (b : MoveWord × MoveWord) (cyc : Nat) (s : State) : State :=
  modInst u f (fun j => { covered j with
    waits := 0, passBreak := false, issued := j.issued + 1, cycle := cyc + 1, steps := j.steps.map (fun n => n - 1)
    macReady := if touchesMac (dstOf b.1) || touchesMac (dstOf b.2) then cyc + 3 else j.macReady
    chkReady := if touchesChk (dstOf b.1) || touchesChk (dstOf b.2) then cyc + 2 else j.chkReady }) (moved u i b cyc s)

/-- The value that a bundle moves to destination `d`. -/
def movedTo (u : StallId) (i : Inst) (b : MoveWord × MoveWord) (cyc : Nat) (d : Nat) (s : State) : Word :=
  sourceValue u i (stall s u).ctx cyc (if dstOf b.1 = d then srcOf b.1 else srcOf b.2)

/-- A bundle with one trigger, to destination `d`, the other move going to a register or an operand socket, that is not
unpredictable (R191, R214). -/
def onlyTrigger (u : StallId) (i : Inst) (b : MoveWord × MoveWord) (cyc : Nat) (d : Nat) (s : State) : Bool :=
  let c := (stall s u).ctx
  !isEnd b && carries b d && (unitOf (dstOf b.1) = 0 || unitOf (dstOf b.2) = 0) &&
  !bundleOdd c b (sourceValue u i c cyc (srcOf b.1)) (sourceValue u i c cyc (srcOf b.2))

/-- The host commands: descriptor, opcode, and whether the command is serialised (R366, Table 14 of Host Interface). -/
def hostRow : Instr → Option (Desc × Nat × Bool)
  | .nop d => if d.opcode = 0 then some (d.desc, 0x00, false) else none
  | .identify d => some (d, 0x01, false)
  | .settingsWrite d _ _ _ => some (d, 0x02, true)
  | .settingsRead d _ => some (d, 0x03, false)
  | .modeSet d _ _ _ => some (d, 0x04, true)
  | .taskLoad d _ => some (d, 0x05, true)
  | .taskControlEnable d _ => some (d, 0x06, true)
  | .taskControlDisable d _ => some (d, 0x06, true)
  | .taskControlTrigger d _ => some (d, 0x06, false)
  | .taskControlQuery d _ => some (d, 0x06, false)
  | .breakpointSet d _ _ => some (d, 0x07, false)
  | .breakpointClear d _ _ => some (d, 0x07, false)
  | .holdResume d _ => some (d, 0x07, false)
  | .step d _ _ => some (d, 0x08, false)
  | .chanSync d _ _ _ => some (d, 0x09, false)
  | .wardenWrite d _ _ _ => some (d, 0x0A, true)
  | .imageExportSet d _ _ _ _ _ _ => some (d, 0x0B, false)
  | .editPrepare d _ => some (d, 0x0C, true)
  | .editCommit d _ _ => some (d, 0x0D, true)
  | .editRollback d _ _ => some (d, 0x0E, true)
  | .profileLoad d _ => some (d, 0x0F, true)
  | .profileRequest d _ _ => some (d, 0x10, true)
  | .retainRead d _ _ => some (d, 0x11, false)
  | .retainWrite d _ _ _ => some (d, 0x12, false)
  | .sealLock d _ _ => some (d, 0x13, true)
  | .recorderRead d _ _ => some (d, 0x14, false)
  | .clockRead d => some (d, 0x15, false)
  | .clockAdjustSet d _ _ => some (d, 0x16, false)
  | .clockAdjustStep d _ => some (d, 0x16, false)
  | .clockAdjustFreq d _ => some (d, 0x16, false)
  | .canSend d _ _ _ _ => some (d, 0x17, false)
  | .canCancel d _ _ => some (d, 0x18, false)
  | .ethSend d _ _ _ _ _ _ => some (d, 0x19, false)
  | .ihlozScheduleLoad d _ _ => some (d, 0x1A, true)
  | .hartTransact d _ _ _ => some (d, 0x1B, false)
  | .fwReceive d _ _ _ _ => some (d, 0x1C, false)
  | .fwForward d _ _ => some (d, 0x1D, false)
  | .fwActivate d => some (d, 0x1E, true)
  | .redundancyControlQuery d => some (d, 0x1F, true)
  | .redundancyControlHandover d => some (d, 0x1F, true)
  | .redundancyControlRetrain d => some (d, 0x1F, true)
  | _ => none

/-- The rows that issue a bundle with a trigger: the stall and the trigger's destination code (Table 1 of Morfold Move Set). -/
def triggerRow : Instr → Option (StallId × Nat)
  | .aluAdd u => some (u, 0x21)
  | .aluAdc u => some (u, 0x22)
  | .aluSub u => some (u, 0x23)
  | .aluSbc u => some (u, 0x24)
  | .aluAnd u => some (u, 0x25)
  | .aluOr u => some (u, 0x26)
  | .aluXor u => some (u, 0x27)
  | .aluAndn u => some (u, 0x28)
  | .aluShl u => some (u, 0x29)
  | .aluShr u => some (u, 0x2A)
  | .aluSar u => some (u, 0x2B)
  | .aluRol u => some (u, 0x2C)
  | .aluMin u => some (u, 0x2D)
  | .aluMax u => some (u, 0x2E)
  | .aluCmp u => some (u, 0x2F)
  | .macMul u => some (u, 0x31)
  | .macMac u => some (u, 0x32)
  | .macMsu u => some (u, 0x33)
  | .chkStep u => some (u, 0x3B)
  | .chkPar u => some (u, 0x3C)
  | .chkRev u => some (u, 0x3D)
  | .ldW u => some (u, 0x51)
  | .ldHu u => some (u, 0x52)
  | .ldBu u => some (u, 0x53)
  | .stW u => some (u, 0x54)
  | .stH u => some (u, 0x55)
  | .stB u => some (u, 0x56)
  | .lsBlk u => some (u, 0x57)
  | .rptGo u => some (u, 0x5C)
  | .rptExit u => some (u, 0x5D)
  | .imgRdb u => some (u, 0x62)
  | .imgRdw u => some (u, 0x63)
  | .imgWrb u => some (u, 0x64)
  | .imgWrw u => some (u, 0x65)
  | .solve u => some (u, 0x66)
  | .brJmp u => some (u, 0x68)
  | .brCall u => some (u, 0x69)
  | .brJnz u => some (u, 0x6B)
  | .brJz u => some (u, 0x6C)
  | .brJcc u => some (u, 0x6D)
  | .brRel u => some (u, 0x6F)
  | .txEnd u => some (u, 0x70)
  | .txAbort u => some (u, 0x71)
  | .sysEvt u => some (u, 0x72)
  | .sysFence u => some (u, 0x73)
  | .sysWait u => some (u, 0x74)
  | .sysWdkey u => some (u, 0x75)
  | .sysCheckin u => some (u, 0x76)
  | _ => none

/-- ALU.RES, carry and overflow of an ALU row by exact integers, given A, B and Cin (Table 1 of Morfold Units Reference). -/
def aluExact (code : Nat) (a b : Word) (cin : Bool) : Word × Bool × Bool :=
  let s := b.toNat % 32
  let c : Nat := if cin then 1 else 0
  let out (v : Int) : Bool := decide (v < -(2 ^ 31)) || decide (2 ^ 31 ≤ v)
  let less := (decide (b.toNat ≤ a.toNat), out (a.toInt - b.toInt))
  if code = 0x21 then (BitVec.ofNat 32 (a.toNat + b.toNat), decide (2 ^ 32 ≤ a.toNat + b.toNat), out (a.toInt + b.toInt))
  else if code = 0x22 then
    (BitVec.ofNat 32 (a.toNat + b.toNat + c), decide (2 ^ 32 ≤ a.toNat + b.toNat + c), out (a.toInt + b.toInt + c))
  else if code = 0x23 then (BitVec.ofInt 32 (a.toInt - b.toInt), less)
  else if code = 0x24 then
    (BitVec.ofInt 32 (a.toInt - b.toInt - 1 + c), decide (b.toNat + 1 ≤ a.toNat + c), out (a.toInt - b.toInt - 1 + c))
  else if code = 0x25 then (a &&& b, false, false)
  else if code = 0x26 then (a ||| b, false, false)
  else if code = 0x27 then (a ^^^ b, false, false)
  else if code = 0x28 then (a &&& ~~~b, false, false)
  else if code = 0x29 then (BitVec.ofNat 32 (a.toNat * 2 ^ s), decide (1 ≤ s) && a.getLsbD (32 - s), false)
  else if code = 0x2A then (BitVec.ofNat 32 (a.toNat / 2 ^ s), decide (1 ≤ s) && a.getLsbD (s - 1), false)
  else if code = 0x2B then (BitVec.ofInt 32 (a.toInt / 2 ^ s), decide (1 ≤ s) && a.getLsbD (s - 1), false)
  else if code = 0x2C then (BitVec.ofNat 32 (a.toNat * 2 ^ s % 2 ^ 32 + a.toNat * 2 ^ s / 2 ^ 32), false, false)
  else if code = 0x2D then (BitVec.ofInt 32 (min a.toInt b.toInt), less)
  else if code = 0x2E then (BitVec.ofInt 32 (max a.toInt b.toInt), less)
  else (a, less)

/-- Whether an ALU row sets N and Z from the difference A - B (CMP, MIN and MAX) and not from its result. -/
def aluCompares (code : Nat) : Bool := code = 0x2D || code = 0x2E || code = 0x2F

/-- The check register after one step of `sw` data bits of `a` with polynomial `poly` in normal form and a register of `cw`
bits, by plain arithmetic: reflected, the register and the polynomial stand in reversed bit order and the least significant
data bit is taken first (R226). -/
def crcExact (sw cw : Nat) (refin : Bool) (poly a crc : Nat) : Nat :=
  let rev := ((List.range cw).map (fun k => if poly.testBit k then 2 ^ (cw - 1 - k) else 0)).sum
  (List.range sw).foldl (fun c i =>
    if refin then (c / 2) ^^^ (if c.testBit 0 != a.testBit i then rev else 0)
    else (2 * c % 2 ^ cw) ^^^ (if c.testBit (cw - 1) != a.testBit (sw - 1 - i) then poly % 2 ^ cw else 0)) crc

/-- The call that a barn's solver runs stands before a word of primary opcode `op` and operand `n`, in the call's limit for a
word of `cost` cycles. -/
def atWord (s : State) (b : Fin 4) (c : Call) (i : Inst) (op n cost : Nat) : Prop :=
  ∃ w : RungWord, rungAt s b = some (c, i, w) ∧ opOf w = op ∧ operandOf w = n ∧ c.cycles + cost ≤ callLimit ∧ alive s = true

/-- The state after a word of `cost` cycles and `len` words that leaves a stack and changes nothing else. -/
def wordDone (b : Fin 4) (c : Call) (cost len : Nat) (stack : List Bool) (s : State) : State :=
  modBarn b (fun x => { x with run := some { c with
    pc := BitVec.ofNat 17 (c.pc.toNat + len), stack := stack, cycles := c.cycles + cost } }) s

/-- The extra cycles of a word that reads or writes bit operand `n`, and the lines fetched after it (Table 9). -/
def bitCost (s : State) (b : Fin 4) (c : Call) (i : Inst) (n : Nat) (wait : BitVec 12) : Nat × List Nat :=
  lineCost s b c (costKey c i n) wait

end Sys2Proof.Machine
end

