-- ==== Sys2Proof/Certificates/Slice0/Obligations.lean ====
section
/-! DEFINITION. The statements about the model, for the provers. Each says what a command or the machine does, in terms of
the rules of the spec that its entry in OBLIGATIONS.json cites. -/

open Sys2Proof Sys2Proof.Machine

/-- A step takes the command at the front of the queue and runs it on the state with the queue's rest. -/
def Obligations.StepRunsTheFrontCommand : Prop :=
  ∀ (c : Instr) (rest : List Instr) (s : State), s.pending = c :: rest → step s = exec c { s with pending := rest }

/-- On an empty queue one tick of the NET clock passes (the model's choice, log entry 2): the count of ticks rises by one, running
task time gains 8 ns * (1 + s), and 8 ns * (1 + f) where its source is LOCAL, the running local clock, with its 48 bits of
seconds, 8 ns * (1 + f), the IHLOZ clock, while
Ihloz is enabled, 8 ns * (1 + RATE), and nothing else changes. -/
def Obligations.IdleStepPassesOneNetTick : Prop :=
  ∀ s : State, s.pending = [] →
    step s = .next { s with time := { s.time with
      net := s.time.net + 1
      task := if s.time.running then s.time.task + (if s.time.source = 1 then 8 * (65536000000000 + s.time.freq.toInt).toNat
          else 65536 * (8 * (1000000000 + max (-200000) (min 200000 s.time.slewPpb)).toNat))
        else s.time.task
      lc := if s.time.lcRunning then
          (s.time.lc + 8 * (65536000000000 + s.time.freq.toInt).toNat) % (2 ^ 48 * 1000000000 * 65536000000000)
        else s.time.lc
      ihloz := if bitAt (block s 0x0401) 0 0 && !s.power.stopped then
          s.time.ihloz + 8 * (1000000000 + max (-500000) (min 500000 s.ihloz.ratePpb)).toNat
        else s.time.ihloz } }

/-- Reset stands in mode START_UP (7), phase 1, with the host interface off, the link down and the rings idle at index zero; no output
has a value and the outputs are cut; task time and the local clock stand, the Ihloz node is off, the seal is not locked and the
queue is empty. LAYOUT then reads 1 and HI_CTRL, POLL_US and the address registers read zero. Where the spec gives no reset
value, that of log entry 3 is meant. -/
def Obligations.ResetLeavesStartUp : Prop :=
  let s := State.reset
  s.mode.mode = 7 ∧ s.mode.phase = 1 ∧ s.host.enable = false ∧ s.host.linkUp = false ∧
  (∀ k : Fin 8, (ring s k).cmdCons = 0 ∧ (ring s k).cplProd = 0 ∧ (ring s k).en = false ∧ (ring s k).busy = none) ∧
  (∀ n : Fin 64, (s.field.dout[n]).applied = false) ∧ s.field.cut = true ∧ (∀ n : Fin 32, (s.loops[n]).applied = none) ∧
  s.time.running = false ∧ s.time.lcRunning = false ∧ s.ihloz.state = 0 ∧ s.ret.sealLock = false ∧ s.pending = [] ∧
  readBar0 s 0x04 = 1 ∧ ∀ o : Nat, o ∈ [0x20, 0x24, 0x30, 0x34, 0x38, 0x3C, 0x40, 0x44, 0x50, 0x54, 0x58, 0x60, 0x64, 0x68] → readBar0 s o = 0

/-- The state at reset is safe: every memory has its canonical form, host memory, the retain store, the newest and the older committed
version, the local data of every stall and the images of both firmware slots. The canonical form is the model's (log entry 12). -/
def Obligations.ResetIsSafe : Prop := Safe State.reset

/-- Every step from a safe state leads to a safe state, whatever the state and whatever the command: host memory, the retain store, both
committed versions, the local data of every stall and both firmware images keep their canonical form. The canonical form of
memories is the model's (log entry 12). -/
def Obligations.EveryStepKeepsSafety : Prop := ∀ s t : State, Safe s → step s = .next t → Safe t

/-- No command unlocks a locked seal. -/
def Obligations.NoStepUnlocksTheSeal : Prop :=
  ∀ s t : State, s.ret.sealLock = true → step s = .next t → t.ret.sealLock = true

/-- A command changes neither the queue nor the factory record, and takes free values in order only. The count of free values
is the model's own field (log entry 5). -/
def Obligations.CommandsLeaveQueueAndFactoryRecord : Prop :=
  ∀ (c : Instr) (s t : State), exec c s = .next t → t.pending = s.pending ∧ t.factory = s.factory ∧ s.free ≤ t.free

/-- No command ends in a fault or a refusal: every step answers a next state. Where the spec leaves a point
of these open, it is as log entries 11 and 77 choose. -/
def Obligations.EveryStepCompletes : Prop := ∀ s : State, ∃ t, step s = .next t

/-- A host command that its ring may not start yet changes nothing: it waits (R359); so does a descriptor that names no command. A
serialised command that may start but is held back, by another in progress or by a waiting one of a lower ring (R365, R366), sets
the WAITING bit of its ring and changes nothing else. That the row changes nothing else is the model's choice (log entry 11). -/
def Obligations.HostCommandsWaitForTheirTurn : Prop :=
  (∀ (c : Instr) (d : Desc) (op : Nat) (serial : Bool) (s : State),
    hostRow c = some (d, op, serial) → mayStart d.ring s = false → exec c s = .next s) ∧
  (∀ (d : Desc) (o : Byte) (s : State), mayStart d.ring s = false → exec (.nop ⟨d, o⟩) s = .next s) ∧
  (∀ (c : Instr) (d : Desc) (op : Nat) (s : State),
    hostRow c = some (d, op, true) → mayStart d.ring s = true → serialHeld true s = true →
    exec c s = .next (modRing d.ring (fun r => { r with waiting := true }) s))

/-- A host command that its ring holds no right to completes with REFUSED_RIGHTS (3) and RESULT 0, whatever its operands, and has no
other effect (R405, R410, Table 13 of Host Interface). -/
def Obligations.CommandsWithoutRightAreRefused : Prop :=
  ∀ (c : Instr) (d : Desc) (op : Nat) (serial : Bool) (s : State),
    hostRow c = some (d, op, serial) → mayStart d.ring s = true → serialHeld serial s = false →
    ringRight s d.ring op = false → exec c s = .next (complete d.ring d.tag 3 0 (begun d op s))

/-- A completion advances CPL_PROD of its ring by one entry, frees the ring, makes an echo line due, writes 16 bytes at the
old CPL_PROD while the link is up, and changes nothing else. -/
def Obligations.CompletionIsWrittenOnceAndFreesItsRing : Prop :=
  ∀ (k : Fin 8) (tag : Half) (status : Byte) (result : Nat) (s : State),
    let t := complete k tag status result s
    t = { s with host := t.host, hostMem := t.hostMem } ∧
    t.host = { s.host with
      echoDue := true
      rings := s.host.rings.set k { ring s k with
        cplProd := ((ring s k).cplProd + 1) % ringLen (ring s k).size, busy := none, fresh := true } } ∧
    (s.host.linkUp = true → ∀ i : Nat, i < 16 →
      Mem.find t.hostMem ((ring s k).cplBase.toNat + 16 * (ring s k).cplProd + i) =
        (completionBytes tag status (stamp s) result)[i]?) ∧
    (∀ a : Nat, a < (ring s k).cplBase.toNat + 16 * (ring s k).cplProd ∨
        (ring s k).cplBase.toNat + 16 * (ring s k).cplProd + 16 ≤ a → Mem.find t.hostMem a = Mem.find s.hostMem a) ∧
    (s.host.linkUp = false → t.hostMem = s.hostMem)

/-- NOP, IDENTIFY, SETTINGS_READ, TASK_CONTROL QUERY, CLOCK_READ and REDUNDANCY_CONTROL QUERY that start and whose output fits the
buffer complete with OK, the output written to the buffer and its length in RESULT (SETTINGS_READ: with the format version 1).
RETAIN_READ and RECORDER_READ complete with OK, or with PARTIAL (1) when the buffer takes fewer pages or records than asked, and
give the number written. A descriptor with an OPCODE above 0x1F, and one of TASK_CONTROL, HOLD_SET (in RUN or HOLD),
CLOCK_ADJUST (in a mode that takes it) or REDUNDANCY_CONTROL (with a Telith link) with an ACTION outside its range, complete with
VERIFY_FAIL (7). The descriptor is as R17 and R380 ask of the host. -/
def Obligations.ReadingCommandsComplete : Prop :=
  (∀ (d : Desc) (s : State), startsClean d 0x00 false s = true → exec (.nop ⟨d, 0⟩) s = .next (ok d 0 (begun d 0x00 s))) ∧
  (∀ (d : Desc) (o : Byte) (s : State), mayStart d.ring s = true → malformed d = false → 0x1F < o.toNat →
    exec (.nop ⟨d, o⟩) s = .next (complete d.ring d.tag 7 0 (begun d 0 s))) ∧
  (∀ (d : Desc) (o : Byte) (s : State), o.toNat ∈ [0x06, 0x07, 0x16] → startsClean d o.toNat false s = true →
    (o.toNat = 0x07 → runs s = true) → (o.toNat = 0x16 → clockMode s = true) →
    exec (.nop ⟨d, o⟩) s = .next (complete d.ring d.tag 7 0 (begun d o.toNat s))) ∧
  (∀ (d : Desc) (s : State), startsClean d 0x1F true s = true → hasTelith s = true →
    exec (.nop ⟨d, 0x1F⟩) s = .next (complete d.ring d.tag 7 0 (begun d 0x1F s))) ∧
  (∀ (d : Desc) (s : State), startsClean d 0x01 false s = true → (unitBytes (begun d 0x01 s)).length ≤ d.bufLen.toNat →
    exec (.identify d) s = .next (ok d (unitBytes (begun d 0x01 s)).length
      (output d (unitBytes (begun d 0x01 s)) (begun d 0x01 s)))) ∧
  (∀ (d : Desc) (b : Half) (n : Nat) (s : State), startsClean d 0x03 false s = true →
    (blockLen b.toNat = some n ∨ blockLen b.toNat = none ∧ statusLen b.toNat = some n) → n ≤ d.bufLen.toNat →
    exec (.settingsRead d b) s = .next (ok d (1 + 2 ^ 16 * (blockRead s.free (begun d 0x03 s) b.toNat).length)
      (output d (blockRead s.free (begun d 0x03 s) b.toNat) { begun d 0x03 s with free := s.free + 64 }))) ∧
  (∀ (d : Desc) (t : Byte) (s : State), startsClean d 0x06 false s = true → taskNamed s t = true → 64 ≤ d.bufLen.toNat →
    exec (.taskControlQuery d t) s =
      .next (ok d 64 (output d (queryBytes (isPaired (begun d 0x06 s) (taskNo t.toNat)) (task s (taskNo t.toNat))) (begun d 0x06 s)))) ∧
  (∀ (d : Desc) (first count : Word) (s : State), startsClean d 0x11 false s = true → first.toNat + count.toNat ≤ 32768 →
    let n := min count.toNat (d.bufLen.toNat / 64)
    exec (.retainRead d first count) s = .next (complete d.ring d.tag (if n < count.toNat then 1 else 0) n
      (output d ((List.range n).flatMap (fun i => pageRead (begun d 0x11 s) (first.toNat + i))) (begun d 0x11 s)))) ∧
  (∀ (d : Desc) (first count : Word) (s : State), startsClean d 0x14 false s = true → first.toNat < 32768 → 1 ≤ count.toNat →
    count.toNat ≤ 32768 →
    let n := min count.toNat (d.bufLen.toNat / 32)
    exec (.recorderRead d first count) s = .next (complete d.ring d.tag (if n < count.toNat then 1 else 0) n
      (output d ((List.range n).flatMap (fun i => slotBytes s (first.toNat + i))) (begun d 0x14 s)))) ∧
  (∀ (d : Desc) (s : State), startsClean d 0x15 false s = true → 32 ≤ d.bufLen.toNat →
    exec (.clockRead d) s = .next (ok d 32 (output d (clockSample s) (begun d 0x15 s)))) ∧
  (∀ (d : Desc) (s : State), startsClean d 0x1F true s = true → hasTelith s = true → 64 ≤ d.bufLen.toNat →
    exec (.redundancyControlQuery d) s = .next (ok d 64 (output d (redundancyBytes (begun d 0x1F s)) (begun d 0x1F s))))

/-- NOP, with whatever OPCODE it stands for, IDENTIFY, SETTINGS_READ, TASK_CONTROL QUERY, RETAIN_READ, RECORDER_READ, CLOCK_READ and
REDUNDANCY_CONTROL QUERY change the host interface, host memory and the count of free values taken, and nothing else; an
address of host memory outside the buffer (for SETTINGS_READ, the block's length) and the completion reads as before. The descriptor
is as R17 and R380 ask of the host. -/
def Obligations.ReadingCommandsLeaveTheModuleAlone : Prop :=
  ∀ (d : Desc) (c : Instr) (s t : State), malformed d = false →
    ((∃ o, c = .nop ⟨d, o⟩) ∨ c = .identify d ∨ (∃ b, c = .settingsRead d b) ∨ (∃ b, c = .taskControlQuery d b) ∨
      (∃ a n, c = .retainRead d a n) ∨ (∃ a n, c = .recorderRead d a n) ∨ c = .clockRead d ∨ c = .redundancyControlQuery d) →
    exec c s = .next t →
    t = { s with host := t.host, hostMem := t.hostMem, free := t.free } ∧
    ∀ a : Nat, (a < d.bufAddr.toNat ∨ d.bufAddr.toNat + max d.bufLen.toNat (match c with
        | .settingsRead e b => (blockRead s.free (begun e 0x03 s) b.toNat).length
        | _ => 0) ≤ a) →
      (a < (ring s d.ring).cplBase.toNat + 16 * (ring s d.ring).cplProd ∨
        (ring s d.ring).cplBase.toNat + 16 * (ring s d.ring).cplProd + 16 ≤ a) →
      Mem.find t.hostMem a = Mem.find s.hostMem a

/-- SETTINGS_WRITE of a block of a present unit, in a mode and with a content that its chapter accepts, RETAIN_WRITE of pages 2048 to
8191, and SEAL_LOCK of a seal that is not locked, in STOP or SERVICE and with its confirmation, occupy their ring and put their page
writes at the end of the retain controller's queue (the block's pages, one operation per page, and page 0), and change nothing
else. SETTINGS_WRITE of a block of an absent unit completes with ABSENT (4), in a mode that does not allow it with REFUSED_MODE (2),
with a content out of range with VERIFY_FAIL (7); SEAL_LOCK of a locked seal with VERIFY_FAIL (7); none of these has another effect
(R376, R594, R595, R597). Reserved bits of descriptor and buffer are zero, as R17 asks. Where the spec leaves a point
of these open, it is as log entries 7, 44 and 45 choose. -/
def Obligations.StoringCommandsQueueTheirPages : Prop :=
  (∀ (d : Desc) (id : Half) (buf : Bytes) (s : State), startsClean d 0x02 true s = true →
    reservedClear (blockReserved id.toNat) buf = true →
    blockAbsent s id.toNat = false → blockMode (begun d 0x02 s) id.toNat = true →
    blockLen id.toNat = some d.bufLen.toNat →
    blockValid (begun d 0x02 s) id.toNat (padTo d.bufLen.toNat buf) = true →
    ∃ t, exec (.settingsWrite d id 1 buf) s = .next t ∧
      (ring t d.ring).busy = some ⟨d.tag, 0x02, d.bufAddr, d.bufLen, .settings id.toNat, false, false⟩ ∧
      t.ret = { s.ret with ops := s.ret.ops ++ [⟨.settings (some d.ring) id.toNat (padTo d.bufLen.toNat buf),
        List.replicate (((padTo d.bufLen.toNat buf).length + 55) / 56) (0, []), 0, false⟩] } ∧
      t = { s with host := t.host, ret := t.ret }) ∧
  (∀ (d : Desc) (id : Half) (fmt : Byte) (buf : Bytes) (s : State), startsClean d 0x02 true s = true →
    reservedClear (blockReserved id.toNat) buf = true →
    (blockAbsent s id.toNat = true → exec (.settingsWrite d id fmt buf) s = .next (complete d.ring d.tag 4 0 (begun d 0x02 s))) ∧
    (blockAbsent s id.toNat = false → blockMode s id.toNat = false →
      exec (.settingsWrite d id fmt buf) s = .next (complete d.ring d.tag 2 0 (begun d 0x02 s))) ∧
    (blockAbsent s id.toNat = false → blockMode s id.toNat = true →
      blockLen id.toNat ≠ some d.bufLen.toNat ∨ fmt ≠ 1 ∨ blockValid (begun d 0x02 s) id.toNat (padTo d.bufLen.toNat buf) = false →
      exec (.settingsWrite d id fmt buf) s = .next (complete d.ring d.tag 7 0 (begun d 0x02 s)))) ∧
  (∀ (d : Desc) (first count : Word) (buf : Bytes) (s : State), startsClean d 0x12 false s = true → 1 ≤ count.toNat →
    64 * count.toNat ≤ d.bufLen.toNat → 2048 ≤ first.toNat → first.toNat + count.toNat ≤ 8192 →
    ∃ t, exec (.retainWrite d first count buf) s = .next t ∧
      (ring t d.ring).busy = some ⟨d.tag, 0x12, d.bufAddr, d.bufLen, .retain count.toNat, false, false⟩ ∧
      t.ret = { s.ret with ops := s.ret.ops ++ (List.range count.toNat).map (fun i =>
        ⟨.param d.ring (decide (i + 1 = count.toNat)), [(first.toNat + i, padTo 64 (buf.drop (64 * i)))], 0, false⟩) } ∧
      t = { s with host := t.host, ret := t.ret }) ∧
  (∀ (d : Desc) (buf : Bytes) (s : State), startsClean d 0x13 true s = true →
    (s.mode.mode = mStop ∨ s.mode.mode = mService) → s.ret.sealLock = false → 64 ≤ d.bufLen.toNat →
    reservedClear sealReserved buf = true → fieldAt buf 60 4 = 0 →
    ∃ t, exec (.sealLock d 0x5EA110CE#32 buf) s = .next t ∧
      (ring t d.ring).busy =
        some ⟨d.tag, 0x13, d.bufAddr, d.bufLen, .seal (BitVec.ofNat 64 (fieldAt buf 48 8)), false, false⟩ ∧
      t.ret = { s.ret with ops := s.ret.ops ++ [⟨.seal d.ring, [(0, sealPage buf)], 0, false⟩] } ∧
      t = { s with host := t.host, ret := t.ret }) ∧
  (∀ (d : Desc) (confirm : Word) (buf : Bytes) (s : State), startsClean d 0x13 true s = true →
    (s.mode.mode = mStop ∨ s.mode.mode = mService) → s.ret.sealLock = true → reservedClear sealReserved buf = true →
    exec (.sealLock d confirm buf) s = .next (complete d.ring d.tag 7 0 (begun d 0x13 s)))

/-- TASK_CONTROL of a task of the project completes with OK: ENABLE, when the pinned sets fit, sets the task's enable and wants its
pinned entries; DISABLE clears the enable and leaves the latch as it is; TRIGGER, in RUN or HOLD, triggers a host-triggered event
task. Each names a task that the project lacks: VERIFY_FAIL (7); TRIGGER outside RUN and HOLD: REFUSED_MODE (2) (R53, R54, R72).
Reserved fields of the descriptor are zero. -/
def Obligations.TaskControlActsAndCompletes : Prop :=
  (∀ (d : Desc) (t : Byte) (s : State), startsClean d 0x06 true s = true → taskNamed s t = true →
    pinsKeep (begun d 0x06 s) (fun x => x = taskNo t.toNat || (task s x).enabled) (profiles s) = true →
    let e := setEnable (taskNo t.toNat) true (begun d 0x06 s)
    exec (.taskControlEnable d t) s = .next (ok d 0 (wantNow e)) ∧ (task e (taskNo t.toNat)).enabled = true) ∧
  (∀ (d : Desc) (t : Byte) (s : State), startsClean d 0x06 true s = true → taskNamed s t = true →
    ∃ u, exec (.taskControlDisable d t) s = .next u ∧ (task u (taskNo t.toNat)).enabled = false ∧
      u = { s with host := u.host, hostMem := u.hostMem, chan := { s.chan with unpin := true },
                   prof := { s.prof with before := u.prof.before },
                   tasks := s.tasks.set (taskNo t.toNat).toNat { task s (taskNo t.toNat) with enabled := false }
                     (taskNo t.toNat).isLt }) ∧
  (∀ (d : Desc) (t : Byte) (r : TaskRec) (s : State), startsClean d 0x06 false s = true → t.toNat < 128 →
    taskRec s (taskNo t.toNat) = some r → isEvent (taskNo t.toNat) = true → r.attr.triggerType = 4 → runs s = true →
    exec (.taskControlTrigger d t) s = .next (ok d 0 (trigger (taskNo t.toNat) (begun d 0x06 s)))) ∧
  (∀ (d : Desc) (t : Byte) (s : State), startsClean d 0x06 true s = true → taskNamed s t = false →
    exec (.taskControlEnable d t) s = .next (complete d.ring d.tag 7 0 (begun d 0x06 s)) ∧
    exec (.taskControlDisable d t) s = .next (complete d.ring d.tag 7 0 (begun d 0x06 s))) ∧
  (∀ (d : Desc) (t : Byte) (s : State), startsClean d 0x06 false s = true →
    (runs s = false → exec (.taskControlTrigger d t) s = .next (complete d.ring d.tag 2 0 (begun d 0x06 s))) ∧
    (runs s = true → taskNamed s t = false →
      exec (.taskControlTrigger d t) s = .next (complete d.ring d.tag 7 0 (begun d 0x06 s))))

/-- HOLD_SET in RUN and HOLD: SET adds a breakpoint of the task's active bank that does not stand yet, when fewer than 16 stand; a
seventeenth completes with NO_SPACE (8), and one of a task of the watchdog's required set with REFUSED_MODE (2) (R90, R91). CLEAR
takes the breakpoint away. RESUME of a held task ends the STEP that waits for it and lets the task go on. STEP of a held task
occupies its ring and changes, beside the host interface, the tasks and the stalls alone; a copy that stands may then issue as many
bundles as COUNT says, or go on to its end with 0, an immediate bundle counts one off, and after the last one the copy is held again. A
copy that awaits its partner's stop is left to it (the model's choice, log entry 79). SET of a breakpoint that stands already completes
with OK, also when 16 stand (the model's choice, log entry 115). RESUME and STEP of a task that is not
held, and SET, CLEAR and RESUME outside RUN and HOLD, complete with REFUSED_MODE (2) (R95, R96). Reserved fields of the
descriptor are zero. Where the spec leaves a point
of these open, it is as log entries 28, 79 and 107 choose. -/
def Obligations.HoldSetActsAndCompletes : Prop :=
  (∀ (d : Desc) (t : Byte) (b : Half) (s : State), startsClean d 0x07 false s = true → runs s = true → t.toNat < 128 →
    b.toNat < 2 ^ 15 → bitAt (block s 0x0601) (8 + t.toNat / 8) (t.toNat % 8) = false →
    (s.mode.breaks.contains (breakAt s t b) = true → exec (.breakpointSet d t b) s = .next (ok d 0 (begun d 0x07 s))) ∧
    (s.mode.breaks.contains (breakAt s t b) = false → s.mode.breaks.length < 16 → exec (.breakpointSet d t b) s =
      .next (ok d 0 { begun d 0x07 s with mode := { s.mode with breaks := s.mode.breaks ++ [breakAt s t b] } })) ∧
    (s.mode.breaks.contains (breakAt s t b) = false → 16 ≤ s.mode.breaks.length →
      exec (.breakpointSet d t b) s = .next (complete d.ring d.tag 8 0 (begun d 0x07 s)))) ∧
  (∀ (d : Desc) (t : Byte) (b : Half) (s : State), startsClean d 0x07 false s = true →
    (runs s = false ∨ t.toNat < 128 ∧ bitAt (block s 0x0601) (8 + t.toNat / 8) (t.toNat % 8) = true) →
    exec (.breakpointSet d t b) s = .next (complete d.ring d.tag 2 0 (begun d 0x07 s))) ∧
  (∀ (d : Desc) (t : Byte) (b : Half) (s : State), startsClean d 0x07 false s = true → runs s = true → t.toNat < 128 →
    b.toNat < 2 ^ 15 → exec (.breakpointClear d t b) s = .next (ok d 0 { begun d 0x07 s with
      mode := { s.mode with breaks := s.mode.breaks.filter (fun x => x != breakAt s t b) } })) ∧
  (∀ (d : Desc) (t : Byte) (b : Half) (s : State), startsClean d 0x07 false s = true → runs s = false →
    exec (.breakpointClear d t b) s = .next (complete d.ring d.tag 2 0 (begun d 0x07 s))) ∧
  (∀ (d : Desc) (t : Byte) (b : Half) (s : State), startsClean d 0x07 false s = true → t.toNat < 128 →
    (runs s = true → (task s (taskNo t.toNat)).held = true → b.toNat < 2 ^ 15 →
      exec (.holdResume d ⟨t, b⟩) s = .next (ok d 0 (endHold d.ring.val (resumeTask (taskNo t.toNat)
        ((List.finRange 8).foldl (fun s k => completeWait k (fun w => w = .step (taskNo t.toNat)) 2 0 s) (begun d 0x07 s)))))) ∧
    ((runs s = false ∨ (task s (taskNo t.toNat)).held = false) →
      exec (.holdResume d ⟨t, b⟩) s = .next (complete d.ring d.tag 2 0 (begun d 0x07 s)))) ∧
  (∀ (d : Desc) (t : Byte) (n : Half) (s : State), startsClean d 0x08 false s = true → t.toNat < 128 →
    ((task s (taskNo t.toNat)).held = true →
      ∃ u, exec (.step d t n) s = .next u ∧
        (ring u d.ring).busy = some ⟨d.tag, 0x08, d.bufAddr, d.bufLen, .step (taskNo t.toNat), false, false⟩ ∧
        u = { s with host := u.host, stalls := u.stalls, tasks := u.tasks }) ∧
    ((task s (taskNo t.toNat)).held = false →
      exec (.step d t n) s = .next (complete d.ring d.tag 2 0 (begun d 0x08 s)))) ∧
  (∀ (d : Desc) (t : Byte) (n : Half) (u : StallId) (f : Fin 4) (i : Inst) (s : State), startsClean d 0x08 false s = true →
    t.toNat < 128 → (task s (taskNo t.toNat)).held = true → copies s (taskNo t.toNat) = [(u, f, i)] → standing i = true →
    awaited s i = false →
    ∃ (w : State) (j : Inst), exec (.step d t n) s = .next w ∧ slotOf w u f = some j ∧ j.issued = 0 ∧
      j.steps = if n = 0 then none else some n.toNat) ∧
  (∀ (u : StallId) (f : Fin 4) (i : Inst) (b : MoveWord × MoveWord) (cyc k : Nat) (s : State),
    ready s u = some (f, i, b, cyc) → isImm b = true → i.steps = some (k + 1) →
    ∃ (w : State) (j : Inst), exec (.immHi u) s = .next w ∧ slotOf w u f = some j ∧ j.issued = i.issued + 1 ∧
      (1 ≤ k → j.steps = some k ∧ j.phase = .running) ∧ (k = 0 → j.steps = none ∧ j.phase = .held))

/-- MODE_SET to a mode that the module is in completes with OK and changes nothing else; an allowed one to RUN from STOP occupies its
ring and takes a new claim, the mode unchanged; to RUN from HOLD, STOP, SAFE, SERVICE and START_UP it completes with OK and the mode
in RESULT, the transition made by changeMode, enterSafe or startUp, which leave the module in that mode; to TRACK too, when
the projects of the pair are the same, and with REFUSED_MODE (2) when they differ (R567). A transition that is not allowed, MODE_SET
HOLD and every MODE_SET during start-up among them, completes with REFUSED_MODE (2) and has no other effect (R82, R86). Reserved fields of the
descriptor are zero. -/
def Obligations.ModeSetChangesTheMode : Prop :=
  (∀ (d : Desc) (m start : Byte) (reason : Half) (s : State), startsClean d 0x04 true s = true →
    modeAllowed s m.toNat start reason = true → modeCode m.toNat = true → start.toNat ≤ 2 →
    let b := begun d 0x04 s
    exec (.modeSet d m start reason) s = .next (modeBody d m.toNat start reason b) ∧
    (m.toNat = s.mode.mode.toNat → modeBody d m.toNat start reason b = ok d m.toNat b) ∧
    (m = 1 → s.mode.mode = mStop →
      modeBody d 1 start reason b = takeClaim .modeSet (defer d 0x04 (.modeRun start reason 0) b) ∧
      (modeBody d 1 start reason b).pair.claiming = some (highestClaim s + 1, .modeSet) ∧
      (modeBody d 1 start reason b).mode = s.mode) ∧
    (m = 1 → s.mode.mode = mHold →
      modeBody d 1 start reason b = ok d 1 (changeMode mRun 8 d.ring.val reason.toNat (resumeAll b))) ∧
    ((m = 0 ∨ m = 5) → s.mode.mode.toNat ≠ m.toNat → modeBody d m.toNat start reason b =
      ok d m.toNat (changeMode (BitVec.ofNat 4 m.toNat) 0 d.ring.val reason.toNat b)) ∧
    (m = 3 → s.mode.mode ≠ mTrack → pairDiffers b = 0 → modeBody d 3 start reason b =
      ok d 3 (changeMode mTrack 0 d.ring.val reason.toNat (modPair (fun p => { p with differs := 0 }) b))) ∧
    (m = 3 → s.mode.mode ≠ mTrack → pairDiffers b ≠ 0 → modeBody d 3 start reason b =
      complete d.ring d.tag 2 0 (raisePair 0x080B (pairDiffers b).toNat (modPair (fun p => { p with differs := pairDiffers b }) b))) ∧
    (m = 4 → s.mode.mode ≠ mSafe → modeBody d 4 start reason b = ok d 4 (enterSafe 0 d.ring.val reason.toNat b)) ∧
    (m = 7 → s.mode.mode ≠ mStartUp → modeBody d 7 start reason b =
      startUp true (ok d 7 (changeMode mStartUp 0 d.ring.val reason.toNat b)))) ∧
  (∀ (m : BitVec 4) (c r q : Nat) (s : State), (changeMode m c r q s).mode.mode = m) ∧
  (∀ (c r q : Nat) (s : State), (enterSafe c r q s).mode.mode = mSafe) ∧
  (∀ s : State, (startUp true s).mode.mode = mStartUp ∧ (startUp true s).mode.phase = 1) ∧
  (∀ (d : Desc) (m start : Byte) (reason : Half) (s : State), startsClean d 0x04 true s = true →
    (modeAllowed s m.toNat start reason = false ∨ m = 2 ∨ s.mode.mode = mStartUp) →
    exec (.modeSet d m start reason) s = .next (complete d.ring d.tag 2 0 (begun d 0x04 s)))

/-- TASK_LOAD of a package that passes its checks in STOP replaces the project and completes when its pinned entries have
been loaded (R372, R374, R386); EDIT_PREPARE writes the inactive banks and the edited project beside the loaded one and changes nothing
else but the host interface; PROFILE_LOAD puts its record into the place of its ID, and IHLOZ_SCHEDULE_LOAD its schedule into that of its mode or,
with CYCLE_US 0, takes the mode's schedule away. Reserved fields of descriptor and buffer are
zero, as R17 asks. Where the spec leaves a point
of these open, it is as log entries 30, 46, 103 and 110 choose. -/
def Obligations.LoadingCommandsTakeTheirPackage : Prop :=
  (∀ (d : Desc) (p : LoadPackage) (s : State), startsClean d 0x05 true s = true →
    (hasPaired s = true ∨ p.tasks.all (fun r => !r.attr.paired) = true) → s.mode.mode = mStop → loadValid d p = true →
    loadFits (begun d 0x05 s) p = true →
    let l := loadProject p (refuseEdit (begun d 0x05 s))
    exec (.taskLoad d p) s =
      .next (endTaskLoad (defer d 0x05 (.taskLoad (crc32 (loadBytes p))) (refreshChans (wantNow l)))) ∧
    l.proj.loaded = true ∧ l.proj.loadId = p.loadId ∧ l.proj.cur = loadLayout p ∧ l.proj.edit = 0 ∧ l.proj.pkg = none ∧
    l.prof.active = 0xFF ∧ l.mode = { s.mode with resumeOk := false }) ∧
  (∀ (d : Desc) (p : EditPackage) (s : State), startsClean d 0x0C true s = true →
    (hasPaired s = true ∨ p.tasks.all (fun r => !r.attr.paired) = true) → prepareMode (begun d 0x0C s) = true →
    editValid d p s.proj.cur = true → editFits (begun d 0x0C s) p = true →
    ∃ u, exec (.editPrepare d p) s = .next u ∧
      u.proj.edit = 1 ∧ u.proj.pkg = some p ∧ u.proj.prepCrc = crc32 (editBytes p) ∧ u.proj.cur = s.proj.cur ∧
      u.proj.other = editLayout p s.proj.cur ∧
      (if s.proj.active then u.proj.bank0 = bankOf p.stallBank p.solverBank ∧ u.proj.bank1 = s.proj.bank1
       else u.proj.bank1 = bankOf p.stallBank p.solverBank ∧ u.proj.bank0 = s.proj.bank0) ∧
      u = { s with host := u.host, hostMem := u.hostMem, proj := u.proj }) ∧
  (∀ (d : Desc) (buf : Bytes) (s : State), startsClean d 0x0F true s = true → inStartUp s = false →
    reservedClear profileReserved buf = true →
    s.prof.active.toNat ≠ (profileOf buf).id.toNat → isTarget s (profileOf buf).id = false → d.bufLen.toNat = 32 →
    pinsKeep (begun d 0x0F s) (fun t => (task s t).enabled)
      (profileOf buf :: (profiles s).filter (fun x => x.id != (profileOf buf).id)) = true →
    ∃ u, exec (.profileLoad d buf) s = .next u ∧
      u = { s with host := u.host, hostMem := u.hostMem,
                   prof := { s.prof with table := Tab.set s.prof.table (profileOf buf).id.toNat (profileOf buf) } }) ∧
  (∀ (d : Desc) (m : Byte) (buf : Bytes) (s : State), startsClean d 0x1A true s = true → m.toNat < 8 →
    reservedClear (scheduleReserved (fieldAt buf 4 2)) buf = true →
    ((synced s || s.ihloz.state = 2) && s.ihloz.mode.toNat = m.toNat) = false →
    ((s.prof.vote.map (fun v => decide (v.mode.toNat = m.toNat))).getD false) = false →
    let c := schedOf (padTo d.bufLen.toNat buf)
    d.bufLen.toNat = 16 + 8 * c.slots.length → schedValid (begun d 0x1A s) m.toNat c = true →
    (c.cycleUs = 0 →
      exec (.ihlozScheduleLoad d m buf) s = .next (ok d 0 (refreshWhere (fun _ e => (e.map isIhloz).getD false)
        (modIhloz (fun n => { n with scheds := Tab.del n.scheds m.toNat }) (begun d 0x1A s))))) ∧
    (c.cycleUs ≠ 0 →
      exec (.ihlozScheduleLoad d m buf) s = .next (ok d 0 (refreshWhere (fun _ e => (e.map isIhloz).getD false)
        (modIhloz (fun n => { n with scheds := Tab.set n.scheds m.toNat c }) (begun d 0x1A s))))))

/-- EDIT_COMMIT and EDIT_ROLLBACK in a mode and edit state that accept them, with the report of the standby that R332 asks of an active
unit, occupy their ring and become pending, with EARLIEST and the last base tick counted from it or, where it is 0, from the last tick
begun (R331), and change nothing else. PROFILE_REQUEST of a loaded profile occupies its ring and becomes a local switch whose entries
are wanted, or for a member of the network acts as the request of its vote (R335). Reserved fields of the descriptor are zero. Where the spec leaves a point
of these open, it is as log entries 46 and 47 choose. -/
def Obligations.EditAndProfileRequestsBecomePending : Prop :=
  (∀ (d : Desc) (e : DWord) (w : Half) (r : Option EditReport) (s : State), startsClean d 0x0D true s = true →
    editMode (begun d 0x0D s) 1 r = true →
    w ≠ 0 → (e = 0 ∨ nextTick s ≤ e.toNat) →
    ∃ u, exec (.editCommit d e ⟨w, r⟩) s = .next u ∧
      (ring u d.ring).busy = some ⟨d.tag, 0x0D, d.bufAddr, d.bufLen, .edit, false, false⟩ ∧
      u = { s with host := u.host, proj := { s.proj with boundary := none, pend := some (d.ring, false, e.toNat,
        (if e = 0 then nextTick s - 1 else e.toNat) + w.toNat), pendAt := s.time.task } }) ∧
  (∀ (d : Desc) (e : DWord) (w : Half) (r : Option EditReport) (s : State), startsClean d 0x0E true s = true →
    editMode (begun d 0x0E s) 2 r = true →
    w ≠ 0 → (e = 0 ∨ nextTick s ≤ e.toNat) →
    ∃ u, exec (.editRollback d e ⟨w, r⟩) s = .next u ∧
      (ring u d.ring).busy = some ⟨d.tag, 0x0E, d.bufAddr, d.bufLen, .edit, false, false⟩ ∧
      u = { s with host := u.host, proj := { s.proj with boundary := none, pend := some (d.ring, true, e.toNat,
        (if e = 0 then nextTick s - 1 else e.toNat) + w.toNat), pendAt := s.time.task } }) ∧
  (∀ (d : Desc) (n c : Byte) (p : Profile) (s : State), startsClean d 0x10 true s = true →
    (s.mode.mode = mStop ∨ runs s = true) → n.toNat < 8 → c ≠ 0 → Tab.find s.prof.table n.toNat = some p →
    isMember s = false → s.prof.localSwitch = none →
    exec (.profileRequest d n c) s = .next (wantTarget (defer d 0x10 .profile
      { begun d 0x10 s with prof := { s.prof with localSwitch := some (p.id, d.ring) } }))) ∧
  (∀ (d : Desc) (n c : Byte) (p : Profile) (s : State), startsClean d 0x10 true s = true →
    (s.mode.mode = mStop ∨ runs s = true) → n.toNat < 8 → c ≠ 0 → Tab.find s.prof.table n.toNat = some p →
    isMember s = true →
    exec (.profileRequest d n c) s = .next (requestVote d p c.toNat (begun d 0x10 s)))

/-- WARDEN_WRITE replaces its entries of the warden table and raises WARDEN_CHANGED; IMAGE_EXPORT_SET defines an export
region, or with LENGTH 0 removes it. Both complete with OK. CHAN_SYNC of uncached entries below
CHAN_COUNT whose reads all answer replaces each in the entry store and RESULT counts them; of one entry, cached or not, it replaces
that entry wherever it stands; a read that fails leaves its entry as it was, counts no entry and raises HOST_FETCH_FAIL with kind 3
where the last such read did not fail; entries at or above CHAN_COUNT leave the entry store and are not counted (R398, R369). The word
of HOST_FETCH_FAIL names the ring and the address, and the counters of loads and of failed reads advance. Reserved fields of descriptor and buffer are
zero, as R17 asks. -/
def Obligations.TableCommandsReplaceTheirEntries : Prop :=
  (∀ (d : Desc) (first count : Half) (buf : Bytes) (s : State), startsClean d 0x0A true s = true → d.ring = 0 →
    reservedClear (wardenReserved first.toNat count.toNat) buf = true →
    1 ≤ count.toNat → first.toNat + count.toNat ≤ 136 → d.bufLen.toNat = 64 * count.toNat →
    exec (.wardenWrite d first count buf) s = .next (ok d 0
      (raise 0x0000 0x0115 0 (first.toNat + 2 ^ 8 * count.toNat + 2 ^ 16 * (s.commit.last % 2 ^ 48))
        { begun d 0x0A s with chan := { s.chan with warden := (List.range count.toNat).foldl (fun w i =>
            Tab.set w (first.toNat + i) (padTo 64 (buf.drop (64 * i)))) s.chan.warden } }))) ∧
  (∀ (d : Desc) (region t image : Byte) (offset length : Half) (area : Word) (s : State), startsClean d 0x0B false s = true →
    region.toNat < 64 → t.toNat < 128 → image.toNat < 2 → 0 < length.toNat → length.toNat ≤ 4096 → area.toNat % 8 = 0 →
    area.toNat + length.toNat + 24 ≤ exportLimit s.host →
    ∃ u, exec (.imageExportSet d region t image offset length area) s = .next u ∧
      u = { s with host := u.host, hostMem := u.hostMem, commit := { s.commit with
        exports := Tab.set s.commit.exports region.toNat
          ⟨taskNo t.toNat, decide (image = 1), offset.toNat, length.toNat, area.toNat, none, none⟩ } }) ∧
  (∀ (d : Desc) (region t image : Byte) (offset : Half) (area : Word) (s : State), startsClean d 0x0B false s = true →
    region.toNat < 64 → t.toNat < 128 → image.toNat < 2 → area.toNat % 8 = 0 → area.toNat + 24 ≤ exportLimit s.host →
    ∃ u, exec (.imageExportSet d region t image offset 0 area) s = .next u ∧
      u = { s with host := u.host, hostMem := u.hostMem, commit := { s.commit with
        exports := Tab.del s.commit.exports region.toNat } }) ∧
  (∀ (d : Desc) (first count : Half) (reads : List (Nat × Option Bytes)) (s : State), startsClean d 0x09 false s = true →
    1 ≤ count.toNat → count.toNat ≤ 4096 → first.toNat + count.toNat ≤ 4096 → s.host.chanCount.toNat ≤ first.toNat →
    exec (.chanSync d first count reads) s = .next (ok d 0 (refreshChans { begun d 0x09 s with
      chan := { s.chan with store := (List.range count.toNat).foldl (fun m i => Tab.del m (first.toNat + i)) s.chan.store } }))) ∧
  (∀ (d : Desc) (first count : Half) (e : Nat → Bytes) (s : State), startsClean d 0x09 false s = true →
    1 ≤ count.toNat → count.toNat ≤ 4096 → first.toNat + count.toNat ≤ 4096 →
    first.toNat + count.toNat ≤ s.host.chanCount.toNat →
    (∀ i, i < count.toNat → (e i).length = 64 ∧ reservedClear (entryReserved (e i)) (e i) = true ∧
      isPinned s (first.toNat + i) = false) →
    exec (.chanSync d first count ((List.range count.toNat).map (fun i => (first.toNat + i, some (e i))))) s =
      .next (ok d count.toNat (refreshChans ((List.range count.toNat).foldl (fun u i =>
        let v := replaceEntry (first.toNat + i) (e i) { u with chan := { u.chan with hostLoads := satAdd 32 u.chan.hostLoads 1 } }
        { v with host := { v.host with failing := v.host.failing &&& ~~~(8#4) } }) (begun d 0x09 s))))) ∧
  (∀ (d : Desc) (first : Half) (e : Bytes) (s : State), startsClean d 0x09 false s = true → first.toNat < 4096 →
    first.toNat < s.host.chanCount.toNat → e.length = 64 → reservedClear (entryReserved e) e = true →
    let v := replaceEntry first.toNat e { begun d 0x09 s with chan := { s.chan with hostLoads := satAdd 32 s.chan.hostLoads 1 } }
    exec (.chanSync d first 1 [(first.toNat, some e)]) s =
      .next (ok d 1 (refreshChans { v with host := { v.host with failing := v.host.failing &&& ~~~(8#4) } }))) ∧
  (∀ (d : Desc) (first : Half) (s : State), startsClean d 0x09 false s = true → first.toNat < 4096 →
    first.toNat < s.host.chanCount.toNat →
    let t : State := { begun d 0x09 s with
      host := { (begun d 0x09 s).host with failing := (begun d 0x09 s).host.failing ||| 8#4 }
      chan := { s.chan with fetchFails := satAdd 32 s.chan.fetchFails 1 } }
    exec (.chanSync d first 1 [(first.toNat, none)]) s = .next (ok d 0 (refreshChans
      (if s.host.failing.getLsbD 3 then t
       else raise 0x3000 0x0304 0 (3 + 2 ^ 8 * d.ring.val + 2 ^ 16 * ((s.host.chanBase.toNat + 64 * first.toNat) % 2 ^ 48)) t))))

/-- CLOCK_ADJUST, where it is accepted: SET and STEP make the time valid and step the clock to the value given or by the signed number of
nanoseconds; FREQ changes the frequency; each then chooses the time source again and completes. A step leaves task time as it is
(R549, R550). Reserved fields of the descriptor are zero. -/
def Obligations.ClockAdjustSetsTheClock : Prop :=
  (∀ (d : Desc) (sec : BitVec 48) (ns : Word) (s : State), startsClean d 0x16 false s = true → clockMode (begun d 0x16 s) = true →
    ns.toNat < 1000000000 →
    exec (.clockAdjustSet d sec ns) s = .next (ok d 0 (refreshSource
      (stepClock ((sec.toNat * 1000000000 + ns.toNat) * 65536000000000)
        { begun d 0x16 s with time := { s.time with timeValid := true } })))) ∧
  (∀ (d : Desc) (ns : DWord) (s : State), startsClean d 0x16 false s = true → clockMode (begun d 0x16 s) = true →
    0 ≤ stepped s ns → stepped s ns < 2 ^ 48 * 1000000000 →
    exec (.clockAdjustStep d ns) s = .next (ok d 0 (refreshSource
      (stepClock ((s.time.lc : Int) + ns.toInt * 65536000000000).toNat
        { begun d 0x16 s with time := { s.time with timeValid := true } })))) ∧
  (∀ (d : Desc) (f : Word) (s : State), startsClean d 0x16 false s = true → clockMode (begun d 0x16 s) = true →
    exec (.clockAdjustFreq d f) s = .next (ok d 0 (refreshSource { begun d 0x16 s with time := { s.time with freq := f } }))) ∧
  (∀ (v : Nat) (s : State), (stepClock v s).time.lc = v % (2 ^ 48 * 1000000000 * 65536000000000) ∧
    (stepClock v s).time.task = s.time.task)

/-- The senders: CAN_SEND of a valid frame loads a free buffer and completes with OK (R515, R519); CAN_CANCEL of a buffer that was never
loaded completes with OK, of one whose frame has ended with TOO_LATE, and of one whose frame is not on the bus settles it as cancelled and
completes with OK; of one whose frame is known to be on the bus it waits for its end (R520); ETH_SEND of a frame without launch time occupies its ring and queues its frame (R538); HART_TRANSACT puts its
request on its free loop channel, occupies its ring and changes nothing else (R455). Reserved fields of descriptor and buffer are zero,
as R17 asks. -/
def Obligations.SendingCommandsTakeTheirFrame : Prop :=
  (∀ (d : Desc) (c : Fin 4) (b : Fin 3) (one : Bool) (buf : Bytes) (s : State), startsClean d 0x17 false s = true →
    reservedClear canReserved buf = true →
    canAbsent (begun d 0x17 s) (BitVec.ofNat 8 c.val) = false → inStartUp s = false → d.bufLen.toNat = 80 →
    canFlag s c 0 = true → canFlag s c 4 = false → ((frameOf buf).ide = true ∨ (frameOf buf).identifier.toNat < 2048) →
    ((frameOf buf).rtr && (frameOf buf).fdf) = false → ((frameOf buf).fdf = true ∨ (frameOf buf).brs = false) →
    ((frameOf buf).fdf = false ∨ canFlag s c 1 = true) →
    (s.can[c].bufs[b]).frame = none → (b = 2 → servesChannels s c = false) →
    exec (.canSend d (BitVec.ofNat 8 c.val) (BitVec.ofNat 8 b.val) one buf) s = .next (ok d 0 (canLoaded c (modBuf c b
      (fun _ => { CanBuf.zero with frame := some (frameOf buf), everLoaded := true, oneShot := one }) (begun d 0x17 s))))) ∧
  (∀ (d : Desc) (c : Fin 4) (b : Fin 3) (s : State), startsClean d 0x18 false s = true →
    canAbsent (begun d 0x18 s) (BitVec.ofNat 8 c.val) = false → inStartUp s = false → (s.can[c].bufs[b]).frame = none →
    exec (.canCancel d (BitVec.ofNat 8 c.val) (BitVec.ofNat 8 b.val)) s =
      .next (complete d.ring d.tag (if (s.can[c].bufs[b]).everLoaded then 5 else 0) 0 (begun d 0x18 s))) ∧
  (∀ (d : Desc) (c : Fin 4) (b : Fin 3) (s : State), startsClean d 0x18 false s = true →
    canAbsent (begun d 0x18 s) (BitVec.ofNat 8 c.val) = false → inStartUp s = false →
    (s.can[c].bufs[b]).frame ≠ none → (s.can[c].onBus ≠ some b ∨ s.can[c].lost = true ∧ s.can[c].started = false) →
    let u := settle c b 1 0 (begun d 0x18 s)
    exec (.canCancel d (BitVec.ofNat 8 c.val) (BitVec.ofNat 8 b.val)) s =
      .next (ok d 0 (if u.can[c].onBus.isNone then canChoose c u else u))) ∧
  (∀ (d : Desc) (c : Fin 4) (b : Fin 3) (s : State), startsClean d 0x18 false s = true →
    canAbsent (begun d 0x18 s) (BitVec.ofNat 8 c.val) = false → inStartUp s = false →
    (s.can[c].bufs[b]).frame ≠ none → s.can[c].onBus = some b → s.can[c].started = true →
    ∃ u, exec (.canCancel d (BitVec.ofNat 8 c.val) (BitVec.ofNat 8 b.val)) s = .next u ∧
      (ring u d.ring).busy = some ⟨d.tag, 0x18, d.bufAddr, d.bufLen, .canCancel c b, false, false⟩ ∧
      (u.can[c].bufs[b]) = { s.can[c].bufs[b] with cancel := true } ∧ u = { s with host := u.host, can := u.can }) ∧
  (∀ (d : Desc) (p : Fin 2) (q : Fin 8) (stamp : Bool) (buf : Bytes) (s : State), startsClean d 0x19 false s = true →
    reservedClear ethReserved buf = true →
    14 ≤ fieldAt buf 0 2 → fieldAt buf 0 2 ≤ 1518 → 16 + fieldAt buf 0 2 ≤ d.bufLen.toNat →
    bitsOf (fieldAt buf 2 1) 1 0 = 0 → bitAt buf 2 2 = false → ethEnabled s p.val = true →
    exec (.ethSend d (BitVec.ofNat 8 p.val) (BitVec.ofNat 8 q.val) false stamp 0 buf) s =
      .next (enqueueFrame p q
        { bytes := (padTo (16 + fieldAt buf 0 2) buf).drop 16, launch := none, insert_ := 0, udpFix := false
          ptpOffset := fieldAt buf 4 2, fixOffset := fieldAt buf 6 2, ingress := BitVec.ofNat 64 (fieldAt buf 8 8)
          ring := some d.ring, since := s.time.net, chanKey := none } (defer d 0x19 (.ethSend p stamp) (begun d 0x19 s)))) ∧
  (∀ (d : Desc) (n : Fin 32) (retries : Byte) (buf : Bytes) (s : State), startsClean d 0x1B false s = true →
    reservedClear hartReserved buf = true →
    hasLoop s = true → inStartUp s = false → retries.toNat ≤ 7 → hartOn (begun d 0x1B s) n.val = true →
    4 ≤ fieldAt buf 0 2 → fieldAt buf 0 2 ≤ 263 → 5 ≤ fieldAt buf 2 1 → fieldAt buf 2 1 ≤ 20 →
    requestGood (fieldAt buf 0 2) (hartRequest buf) = true → 272 ≤ d.bufLen.toNat → (s.loops[n]).hart = none →
    ∃ u, exec (.hartTransact d (BitVec.ofNat 16 (128 + n.val)) retries buf) s = .next u ∧
      (u.loops[n]).hart = some ⟨d.ring, hartRequest buf, fieldAt buf 2 1, retries.toNat, 0, false⟩ ∧
      (ring u d.ring).busy = some ⟨d.tag, 0x1B, d.bufAddr, d.bufLen, .hart n, false, false⟩ ∧
      u = { s with host := u.host, loops := s.loops.set n { s.loops[n] with hart := (u.loops[n]).hart } })

/-- FW_RECEIVE from the host buffer makes the inactive slot RECEIVING with the image's bytes and reports the progress of its whole length,
its transfer at the verification; from a port or node it begins a transfer that waits for an OFFER. FW_FORWARD of a VERIFIED image
begins a transfer with a TRANSFER_ID that is not zero and sends its OFFER. FW_ACTIVATE sets the earliest pause 1 ms ahead.
REDUNDANCY_CONTROL HANDOVER notes that the request is still to be sent, RETRAIN drops the link and starts its training. Each occupies
its ring. Reserved fields of the descriptor are zero. Where the spec leaves a point
of these open, it is as log entries 38, 70 and 126 choose. -/
def Obligations.FirmwareAndRedundancyCommandsBegin : Prop :=
  (∀ (d : Desc) (port : Byte) (image : Bytes) (s : State), startsClean d 0x1C false s = true → inStartUp s = false →
    s.fw.xfers = [] → activating (begun d 0x1C s) = false → d.bufLen.toNat ≤ 2 ^ 24 → reservedClear imageReserved image = true →
    exec (.fwReceive d 0 port d.bufLen image) s = .next (setXfer d.ring
      (newXfer false true false 0 0 3 d.bufLen.toNat (defer d 0x1C .fwReceive (begun d 0x1C s)))
      (progressAll d.bufLen.toNat (modSlot (!s.fw.active) (fun _ =>
          { state := 1, image := Mem.putAll [] 0 (padTo d.bufLen.toNat image), length := d.bufLen.toNat })
        (defer d 0x1C .fwReceive (begun d 0x1C s)))))) ∧
  (∀ (d : Desc) (source port : Byte) (n : Word) (image : Bytes) (s : State), startsClean d 0x1C false s = true →
    inStartUp s = false → s.fw.xfers = [] → activating (begun d 0x1C s) = false → source ≠ 0 →
    pathGood source.toNat port.toNat = true → n.toNat ≤ 2 ^ 24 →
    exec (.fwReceive d source port n image) s = .next (setXfer d.ring
      (newXfer false false (decide (source = 1)) port.toNat 0 0 0 (defer d 0x1C .fwReceive (begun d 0x1C s)))
      (defer d 0x1C .fwReceive (begun d 0x1C s)))) ∧
  (∀ (d : Desc) (path port : Byte) (s : State), startsClean d 0x1D false s = true → receiving (begun d 0x1D s) = false →
    activating (begun d 0x1D s) = false →
    pathGood path.toNat port.toNat = true → (fwInactive s).state = 2 →
    exec (.fwForward d path port) s =
      .next (sendMessage d.ring
        (newXfer true false (decide (path = 1)) port.toNat (freshId (begun d 0x1D s)) 0 (fwInactive s).length (begun d 0x1D s))
        1 (fwInactive s).length 0 (Mem.read (fwInactive s).image 0 24)
        { defer d 0x1D .fwForward (begun d 0x1D s) with
          fw := { s.fw with nextId := BitVec.ofNat 16 (freshId (begun d 0x1D s) + 1) } })) ∧
  (∀ (d : Desc) (s : State), startsClean d 0x1E true s = true → activateMode (begun d 0x1E s) = true →
    (fwInactive s).state = 2 →
    ∃ u, exec (.fwActivate d) s = .next u ∧ (ring u d.ring).busy = some ⟨d.tag, 0x1E, d.bufAddr, d.bufLen, .fwActivate, false, false⟩ ∧
      u = { s with host := u.host, mode := { s.mode with pauseAt := some (nowUsUp s + 1000) } }) ∧
  (∀ (d : Desc) (s : State), startsClean d 0x1F true s = true → hasTelith s = true → telithOn s = true →
    isActive s.pair.role s.mode.mode = true → partnerTracks s = true → s.pair.current = true → s.pair.handover = none →
    ∃ u, exec (.redundancyControlHandover d) s = .next u ∧
      (ring u d.ring).busy = some ⟨d.tag, 0x1F, d.bufAddr, d.bufLen, .handover, false, false⟩ ∧
      u = { s with host := u.host, pair := { s.pair with handover := some none } }) ∧
  (∀ (d : Desc) (s : State), startsClean d 0x1F true s = true → hasTelith s = true → telithOn s = true →
    exec (.redundancyControlRetrain d) s =
      .next (defer d 0x1F .retrain (startTraining (dropLink 1 (begun d 0x1F s)))))

/-- BAR0 while it is reached. HI_CTRL_ENABLE_SET starts every index at zero and awaits the first poll (R349); HI_CTRL_ENABLE_CLEAR makes the
last echo line due (R350); a ring other than 0 taken into use by RING_CFG_EN_SET starts at index zero, and RING_CFG_EN_CLEAR takes a ring out
of use (R348, R351). BAR0_WRITE of POLL_US, EVT_CFG, EVT_IRQ and RING_IRQ takes their fields at any time, and of an address register,
EXPORT_SIZE, CHAN_COUNT or a ring's address while ENABLE is 0; while ENABLE is 1 those ignore it, and read-only registers and offsets that
Table 1 of Host Interface does not list always do (R18, R347, R348). A write that is not aligned leaves its register unpredictable (R380;
log entry 10). HI_CTRL, POLL_US, RING_CFG and RING_STATE read as Tables 5, 6 and 8 lay them out, and an offset that Table 1 does not list
reads zero (R16). Where the spec leaves a point
of these open, it is as log entries 10 and 32 choose. -/
def Obligations.Bar0WritesActAsTheRegistersSay : Prop :=
  (∀ (v : Word) (s : State), bar0Open s = true → v.getLsbD 0 = true → s.host.enable = false →
    exec (.hiCtrlEnableSet v) s = .next { s with host := { s.host with
      timeoutMs := v.extractLsb' 16 16, enable := true, polling := false, evtProd := 0, nextPoll := none, polled := false
      rings := s.host.rings.map (fun r => { r with cmdCons := 0, cplProd := 0, waiting := false }) } }) ∧
  (∀ (v : Word) (s : State), bar0Open s = true → v.getLsbD 0 = false → s.host.enable = true →
    exec (.hiCtrlEnableClear v) s = .next { s with host := { s.host with
      timeoutMs := v.extractLsb' 16 16, enable := false, nextPoll := none, polled := false, echoDue := true } }) ∧
  (∀ (k : Fin 8) (v : Word) (s : State), bar0Open s = true → v.getLsbD 31 = true → (ring s k).en = false →
    exec (.ringCfgEnSet k v) s = .next { s with host := { s.host with rings := s.host.rings.set k { ring s k with
      en := true
      size := if s.host.enable then (ring s k).size else v.extractLsb' 0 13
      cmdCons := if k = 0 then (ring s k).cmdCons else 0
      cplProd := if k = 0 then (ring s k).cplProd else 0
      waiting := (ring s k).waiting && k = 0 } } }) ∧
  (∀ (k : Fin 8) (v : Word) (s : State), bar0Open s = true → v.getLsbD 31 = false → (ring s k).en = true →
    exec (.ringCfgEnClear k v) s = .next { s with host := { s.host with rings := s.host.rings.set k { ring s k with
      en := false, size := if s.host.enable then (ring s k).size else v.extractLsb' 0 13 } } }) ∧
  (∀ (v : Word) (s : State), bar0Open s = true →
    exec (.bar0Write ⟨0x24, true⟩ v) s = .next { s with host := { s.host with pollUs := v.extractLsb' 0 24 } } ∧
    exec (.bar0Write ⟨0x48, true⟩ v) s = .next { s with host := { s.host with
      evtEn := v.getLsbD 31, evtSize := if s.host.enable then s.host.evtSize else v.extractLsb' 0 13 } } ∧
    exec (.bar0Write ⟨0x4C, true⟩ v) s = .next { s with host := { s.host with evtIrq := irqOf v } }) ∧
  (∀ (k : Fin 8) (v : Word) (s : State), bar0Open s = true →
    exec (.bar0Write ⟨BitVec.ofNat 16 (0x114 + 32 * k.val), true⟩ v) s = .next (modRing k (fun r => { r with irq := irqOf v }) s)) ∧
  (∀ (v : Word) (s : State), bar0Open s = true → s.host.enable = false →
    exec (.bar0Write ⟨0x30, true⟩ v) s = .next { s with host := { s.host with dbAddr := setLo s.host.dbAddr v } } ∧
    exec (.bar0Write ⟨0x34, true⟩ v) s = .next { s with host := { s.host with dbAddr := setHi s.host.dbAddr v } } ∧
    exec (.bar0Write ⟨0x38, true⟩ v) s = .next { s with host := { s.host with echoAddr := setLo s.host.echoAddr v } } ∧
    exec (.bar0Write ⟨0x3C, true⟩ v) s = .next { s with host := { s.host with echoAddr := setHi s.host.echoAddr v } } ∧
    exec (.bar0Write ⟨0x40, true⟩ v) s = .next { s with host := { s.host with evtBase := setLo s.host.evtBase v } } ∧
    exec (.bar0Write ⟨0x44, true⟩ v) s = .next { s with host := { s.host with evtBase := setHi s.host.evtBase v } } ∧
    exec (.bar0Write ⟨0x50, true⟩ v) s = .next { s with host := { s.host with exportBase := setLo s.host.exportBase v } } ∧
    exec (.bar0Write ⟨0x54, true⟩ v) s = .next { s with host := { s.host with exportBase := setHi s.host.exportBase v } } ∧
    exec (.bar0Write ⟨0x58, true⟩ v) s = .next { s with host := { s.host with exportSize := v.extractLsb' 0 25 } } ∧
    exec (.bar0Write ⟨0x60, true⟩ v) s = .next { s with host := { s.host with chanBase := setLo s.host.chanBase v } } ∧
    exec (.bar0Write ⟨0x64, true⟩ v) s = .next { s with host := { s.host with chanBase := setHi s.host.chanBase v } } ∧
    exec (.bar0Write ⟨0x68, true⟩ v) s = .next { s with host := { s.host with chanCount := v.extractLsb' 0 13 } }) ∧
  (∀ (k : Fin 8) (v : Word) (s : State), bar0Open s = true → s.host.enable = false →
    exec (.bar0Write ⟨BitVec.ofNat 16 (0x100 + 32 * k.val), true⟩ v) s =
      .next (modRing k (fun r => { r with cmdBase := setLo r.cmdBase v }) s) ∧
    exec (.bar0Write ⟨BitVec.ofNat 16 (0x104 + 32 * k.val), true⟩ v) s =
      .next (modRing k (fun r => { r with cmdBase := setHi r.cmdBase v }) s) ∧
    exec (.bar0Write ⟨BitVec.ofNat 16 (0x108 + 32 * k.val), true⟩ v) s =
      .next (modRing k (fun r => { r with cplBase := setLo r.cplBase v }) s) ∧
    exec (.bar0Write ⟨BitVec.ofNat 16 (0x10C + 32 * k.val), true⟩ v) s =
      .next (modRing k (fun r => { r with cplBase := setHi r.cplBase v }) s)) ∧
  (∀ (o : Half) (v : Word) (s : State), bar0Open s = true → o.toNat % 4 = 0 →
    (s.host.enable = true ∧ o.toNat ∈ [0x30, 0x34, 0x38, 0x3C, 0x40, 0x44, 0x50, 0x54, 0x58, 0x60, 0x64, 0x68] ∨
      o.toNat < 0x20 ∨ o.toNat ∈ [0x28, 0x2C, 0x5C] ∨ (0x6C ≤ o.toNat ∧ o.toNat < 0x100) ∨ (0x200 ≤ o.toNat ∧ o.toNat < 0x8000) ∨
      0x8200 ≤ o.toNat ∨ (0x100 ≤ o.toNat ∧ o.toNat < 0x200 ∧ 0x18 ≤ o.toNat % 32)) →
    exec (.bar0Write ⟨o, true⟩ v) s = .next s) ∧
  (∀ (o : Half) (w : Bool) (v : Word) (s : State), bar0Open s = true → (w = false ∨ o.toNat % 4 ≠ 0) →
    exec (.bar0Write ⟨o, w⟩ v) s = .next (if Config.freeBit s.free
      then writeBar0 (o.toNat / 4 * 4) (Config.freeWord s.free) { s with free := s.free + 1 } else { s with free := s.free + 1 })) ∧
  (∀ s : State, readBar0 s 0x20 = b2n s.host.enable + 2 * b2n s.host.polling + 2 ^ 16 * s.host.timeoutMs.toNat ∧
    readBar0 s 0x24 = s.host.pollUs.toNat) ∧
  (∀ (k : Fin 8) (s : State), readBar0 s (0x110 + 32 * k.val) = (ring s k).size.toNat + 2 ^ 31 * b2n (ring s k).en ∧
    readBar0 s (0x118 + 32 * k.val) =
      (ring s k).cmdCons % 2 ^ 16 + 2 ^ 16 * b2n (ring s k).busy.isSome + 2 ^ 17 * b2n (ring s k).waiting) ∧
  (∀ (o : Nat) (s : State), o ∈ [0x28, 0x2C, 0x5C] ∨ (0x6C ≤ o ∧ o < 0x100) ∨ (0x200 ≤ o ∧ o < 0x8000) ∨
    (0x8200 ≤ o ∧ o < 0x9000) ∨ 0x9004 ≤ o → readBar0 s o = 0)

/-- The doorbell and echo lines: a due poll takes the settings of R348 into force; a fetched line gives every ring its CMD_PROD and CPL_CONS;
the due echo line is written with ECHO_SEQ one more, and when no producer has advanced it is all that is written. A message held back by
COALESCE_US is sent when that time has passed; folded records not yet posted are posted again, the older first; a read of the doorbell line,
a descriptor, a buffer or a channel entry that ends without data is counted or ends its command. A descriptor gives a command its TAG,
BUF_ADDR and BUF_LEN, and OPCODE and parameters pick it, an OPCODE that Table 14 does not list none of them (R362). Reserved bits of the line
are zero, SIZE and the indices are as R17 and R358 ask, and no producer passes its consumer (Table 22 of Host Interface). Where the spec leaves a point
of these open, it is as log entries 10, 11, 45 and 115 choose. -/
def Obligations.DoorbellEchoAndMessagesAct : Prop :=
  (∀ (t : Nat) (s : State), s.host.nextPoll = some t → s.host.enable = true → bar0Open s = true →
    ∃ u, exec .doorbellPoll s = .next u ∧
      u.host = { s.host with
        polling := true, polled := true, pollTick := s.time.tickNo, pollNow := s.host.pollUs
        timeoutNow := s.host.timeoutMs, evtIrqNow := s.host.evtIrq
        nextPoll := if s.host.pollUs = 0 then none else some (t + min 10000 (max 10 s.host.pollUs.toNat))
        rings := s.host.rings.map (fun r => { r with enNow := r.en, irqNow := r.irq }) } ∧
      u = { advanceTo t s with host := u.host }) ∧
  (∀ (line : Bytes) (s : State), s.host.polled = true → s.host.enable = true → bar0Open s = true →
    reservedClear lineReserved line = true → soundSize s.host.evtSize = true → fieldAt line 32 2 < s.host.evtSize.toNat →
    (∀ k : Fin 8, k = 0 ∨ (ring s k).enNow = true → soundSize (ring s k).size = true ∧
      fieldAt line (2 * k.val) 2 < (ring s k).size.toNat ∧ fieldAt line (16 + 2 * k.val) 2 < (ring s k).size.toNat ∧
      overran (ring s k).cmdProd { ring s k with cmdProd := fieldAt line (2 * k.val) 2 } = false) →
    ∃ u, exec (.doorbellFetchDone line) s = .next u ∧ u.host.polled = false ∧ u.host.evtCons = fieldAt line 32 2 ∧
      ∀ k : Fin 8, (ring u k).cmdProd = fieldAt line (2 * k.val) 2 ∧ (ring u k).cplCons = fieldAt line (16 + 2 * k.val) 2) ∧
  (∀ s : State, s.host.echoDue = true → bar0Open s = true →
    ∃ u, exec .echoLineWrite s = .next u ∧ u.host.echoSeq = s.host.echoSeq + 1 ∧ u.host.echoDue = false ∧
      (∀ k : Fin 8, (ring u k).fresh = false) ∧
      ((∀ k : Fin 8, (ring s k).fresh = false) → s.host.evtFresh = false →
        u.hostMem = Mem.putAll s.hostMem s.host.echoAddr.toNat (echoBytes s))) ∧
  (∀ (k : Fin 8) (s : State), s.host.linkUp = true → served s = true → (ring s k).msgDue = true →
    exec (.msixCoalesceExpire ⟨k.val, by omega⟩) s = .next (ringMessage k (modRing k (fun r => { r with msgDue := false })
      (advanceTo (((ring s k).lastMsg.getD 0) + (ring s k).irqNow.coalesceUs.toNat) s)))) ∧
  (∀ s : State, s.host.linkUp = true → served s = true → s.host.evtMsgDue = true →
    exec (.msixCoalesceExpire 8) s = .next (evtMessage (advanceTo
      ((s.host.evtLastMsg.getD 0) + s.host.evtIrqNow.coalesceUs.toNat) { s with host := { s.host with evtMsgDue := false } }))) ∧
  (∀ s : State, exec .foldRepost s = .next (repost
    ((s.recorder.prev.toList ++ s.recorder.last.toList).filter (fun p => has s.recorder.dirty p.1)) s)) ∧
  (∀ (o : Nat) (e : EventRec) (s : State), s.recorder.prev = none → s.recorder.last = some (o, e) →
    s.recorder.dirty = [o] →
    exec .foldRepost s = .next (postEvent e { s with recorder := { s.recorder with dirty := [] } })) ∧
  (∀ (k : Fin 8) (tag : Half) (addr : DWord) (s : State), s.host.enable = true → bar0Open s = true →
    exec (.pcieCompletionTimeout .channelEntry k tag addr) s = .next (fetchResult 3 false k.val addr.toNat
      { s with chan := { s.chan with fetchFails := satAdd 32 s.chan.fetchFails 1 } })) ∧
  (∀ (k : Fin 8) (tag : Half) (addr : DWord) (s : State), s.host.enable = true → bar0Open s = true → s.host.polled = true →
    exec (.pcieCompletionTimeout .doorbell k tag addr) s =
      .next (fetchResult 0 false 0 s.host.dbAddr.toNat { s with host := { s.host with polled := false } })) ∧
  (∀ (k : Fin 8) (tag : Half) (addr : DWord) (s : State), s.host.enable = true → bar0Open s = true →
    mayStart k s = true →
    let t := complete k tag 7 0 (modRing k (fun r => { r with cmdCons := (r.cmdCons + 1) % ringLen r.size, waiting := false }) s)
    exec (.pcieCompletionTimeout .descriptor k tag addr) s = .next (fetchResult 1 false k.val addr.toNat t) ∧
    exec (.pcieCompletionTimeout .buffer k tag addr) s =
      .next (fetchResult 2 false k.val addr.toNat (fetchResult 1 true 0 0 t))) ∧
  (∀ (k : Fin 8) (b : Bytes) (x : Fetched),
    let d := descOf k b
    d.ring = k ∧ d.tag = BitVec.ofNat 16 (fieldAt b 2 2) ∧ d.bufAddr = BitVec.ofNat 64 (fieldAt b 8 8) ∧
    d.bufLen = BitVec.ofNat 32 (fieldAt b 16 4) ∧
    (fieldAt b 0 1 = 0x01 → commandOf k b x = .identify d) ∧
    (fieldAt b 0 1 = 0x04 → commandOf k b x = .modeSet d (byteAt b 24) (byteAt b 25) (BitVec.ofNat 16 (fieldAt b 26 2))) ∧
    (fieldAt b 0 1 = 0x11 → commandOf k b x =
      .retainRead d (BitVec.ofNat 32 (fieldAt b 24 4)) (BitVec.ofNat 32 (fieldAt b 28 4))) ∧
    (fieldAt b 0 1 = 0 ∨ 0x20 ≤ fieldAt b 0 1 → commandOf k b x = .nop ⟨d, byteAt b 0⟩))

/-- The PCI Express link: it comes up with its rate and width, MSI-X as the enumeration leaves it, and LINK_DEGRADED is raised below 16 GT/s or
four lanes; link-down, hot reset, function-level reset, surprise removal and PERST_N return every register of BAR0 to its reset value and
raise HOST_LOST with their cause; a command in progress goes on with its completion discarded; nothing beyond the host interface, the
export regions' pending writes and the recorded event changes (R345, R699). Where the spec leaves a point
of these open, it is as log entries 10 and 34 choose. -/
def Obligations.HostResetsAffectOnlyTheHostInterface : Prop :=
  (∀ (g w : BitVec 3) (x m : Bool) (s : State), (s.host.linkUp = false ∨ s.host.training = true) → s.host.perst = false →
    alive s = true → (inStartUp s = false ∨ 4 ≤ s.mode.phase) → 1 ≤ g.toNat → g.toNat ≤ 4 → (w = 1 ∨ w = 2 ∨ w = 4) →
    let t := { s with host := { s.host with
      linkUp := true, training := false, gen := g, width := w, msixEnable := x, msixMask := m } }
    exec (.pcieLinkUp ⟨g, x, m⟩ w) s =
      .next (if g = 4 ∧ w = 4 then t else raise 0x3000 0x0305 0 (g.toNat + 8 * w.toNat) t)) ∧
  (∀ (c : Instr) (n : Nat) (up training : Bool) (s : State),
    (c, n, up, training) ∈ [(Instr.pcieLinkDown, 0, false, false), (.hotReset, 1, true, true),
      (.functionLevelReset, 2, true, s.host.training), (.surpriseRemoval, 3, false, false)] →
    s.host.linkUp = true → alive s = true → exec c s = .next (hostReset n up training s)) ∧
  (∀ s : State, s.host.perst = false →
    exec .perstNAssert s = .next (if alive s then hostReset 4 false false s
      else { s with host := { s.host with perst := true, linkUp := false } })) ∧
  (∀ s : State, exec .perstNRelease s = .next { s with host := { s.host with perst := false } }) ∧
  (∀ (n : Nat) (up training : Bool) (s : State),
    let t := hostReset n up training s
    t = { s with host := t.host, recorder := t.recorder, commit := { s.commit with exports := t.commit.exports } } ∧
    t.host.enable = false ∧ t.host.linkUp = up ∧ t.host.training = training ∧ t.host.perst = (s.host.perst || n = 4) ∧
    t.host.pollUs = 0 ∧ t.host.chanCount = 0 ∧ t.host.exportSize = 0 ∧
    (∀ k : Fin 8, (ring t k).cmdBase = 0 ∧ (ring t k).cplBase = 0 ∧ (ring t k).size = 0 ∧ (ring t k).en = false ∧
      (ring t k).busy = (ring s k).busy.map (fun b => { b with discard := true })))

/-- The cycle. BASE_TICK advances the clocks to the next tick of the plan and begins it. PLACEMENT_PUBLISH of a placement that keeps the
rules, made in time, stands for the next tick with the placement block now in force. TASK_DEADLINE of an instance that is overdue at the
next tick handles the overruns of its tick; an overrun under policy RECORD marks the instance, counts and records it (R69). ALARM_TRIGGER
triggers its task at the alarm's next instant. EVENT_TASK_RELEASE of an enabled task whose latch is set, with no instance open, releases
and places it when its re-trigger interval has passed (R75). The order within a tick and the moved clocks are inferences (log entries 4,
26). Where the spec leaves a point
of these open, it is as log entries 25, 97 and 102 choose. -/
def Obligations.TheCycleReleasesAndChecksTasks : Prop :=
  (∀ s : State, s.time.running = true → s.time.t0Fixed = true → alive s = true →
    let a := editAtTick (advanceTo (tickPlan s).2.1 s)
    exec .baseTick s = .next (atTick (tickPlan s).1 (enterTick (tickPlan s) a)) ∧
    (s.proj.boundary ≠ some (nextTick s) → a = advanceTo (tickPlan s).2.1 s) ∧
    (s.time.newTick = none → (enterTick (tickPlan s) a).time.tickNo = nextTick s)) ∧
  (∀ (p : Publication) (s : State), alive s = true → s.time.running = true → s.time.t0Fixed = true →
    publishTime s = true → publishOk s (block s 0x0102) (nextTick s) p = true →
    ∃ u, exec (.placementPublish p) s = .next u ∧ u.yard.published = some p ∧ u.yard.rulesDue = some (block s 0x0102) ∧
      u.mode = s.mode ∧ u.commit = s.commit) ∧
  (∀ (t : BitVec 7) (s : State), runs s = true → alive s = true → overdue s (nextTick s) t = true →
    exec (.taskDeadline t) s = .next (if overdue s s.time.tickNo t then overruns s.time.tickNo s
      else overruns (nextTick s) (advanceTo (tickTime s (nextTick s)) s))) ∧
  (∀ (t : BitVec 7) (r : Release) (rec : TaskRec) (s : State), (task s t).inst = some r → taskRec s t = some rec →
    pairOver s t = false → rec.attr.overrun = 0 →
    noteOverrun t s = (false, raiseTask t 0x0101 0 r.deadlineTicks (modTask t (fun k => { k with
      inst := some { r with overrun := true }, ctr := { k.ctr with deadlines := satAdd 16 k.ctr.deadlines 1 } }) s))) ∧
  (∀ (t : BitVec 7) (r : TaskRec) (s : State), taskRec s t = some r → r.attr.triggerType = 5 → 0 < r.attr.triggerSel.toNat →
    s.time.running = true → alive s = true →
    let p := r.attr.triggerSel.toNat
    exec (.alarmTrigger t) s = .next (trigger t
      (advanceTo (nowUs s + (r.attr.alarmPhase.toNat % p + p - nowUs s % p) % p) s))) ∧
  (∀ (t : BitVec 7) (p : EventPlace) (r : TaskRec) (s : State), taskRec s t = some r → isEvent t = true → enabledNow s t = true →
    (task s t).latch = true → (task s t).inst = none → runs s = true → alive s = true → s.mode.pause = false →
    ((task s t).held = false ∨ (task s t).heldEntry = true) →
    let a := advanceTo (((task s t).lastRelease.map (fun x => x + r.attr.minRetrigger.toNat)).getD 0) s
    editHolds a t = false →
    exec (.eventTaskRelease t p) s = .next (placeRelease false r p (releaseNow r a.time.tickNo (task s t).latchMerged
      (modTask t (fun k => { k with latch := false, latchMerged := false }) a))))

/-- Starts and switches. INSTANCE_START of a released instance that may run where it is placed starts it there with its input image
captured, its slip reported under its dominant cause (R173, R175). PAIRED_COPY_B_START starts copy B with copy A's image complemented, and
its start time, start commit, epoch, bank and channel bits (R301), no earlier than 20 NET ticks (64 stall cycles) after copy A (R299).
CONTEXT_SWITCH turns a stall to the resident of R60 and R61. BREAKPOINT_HIT before a breakpoint parks the copy of a paired task whose
partner has not stopped there, holds an unpaired one and ends a STEP in progress (R92, R95, R97), and aborts a pair whose other copy has entered ENDING (R311). The
complement is byte by byte at the same addresses. Where the spec leaves a point
of these open, it is as log entries 17, 79 and 97 choose. -/
def Obligations.InstancesStartSwitchAndStop : Prop :=
  (∀ (t : BitVec 7) (rec : TaskRec) (r : Release) (u : StallId) (delay : Nat) (parts : List Nat) (s : State),
    taskRec s t = some rec → (task s t).inst = some r → (task s t).placeA = some u → r.started = false →
    (task s t).fence = none → runs s = true → alive s = true → s.mode.pause = false → canStart s rec u = true →
    startPlaced s rec r = true →
    let c := startClock r delay 0 s
    let a := noteSlip t false c.1 (dominant r.slipA parts) c.2
    exec (.instanceStart t delay parts) s = .next (makeResident u
      (newInst a t rec r (startFlags (task s t) a.mode.restart (c.1 != 0) r.merged))
      (modTask t (fun k => { k with
        inst := k.inst.map (fun r => { r with started := true })
        firstRun := false, firstEdit := false, firstProfile := false }) a))) ∧
  (∀ (t : BitVec 7) (r : Release) (u v : StallId) (f : Fin 4) (i : Inst) (delay : Nat) (parts : List Nat) (s : State),
    (task s t).inst = some r → (task s t).placeB = some u →
    (copies s t).find? (fun c => !c.2.2.copyB) = some (v, f, i) → r.started = true → r.startedB = false →
    i.record.attr.paired = true → runs s = true → alive s = true → canStart s i.record u = true →
    ((stall s u).state = 0 ∨ (stall s u).state = 3) →
    ∃ (j : Inst) (b : State), exec (.pairedCopyBStart t delay parts) s = .next (makeResident u j b) ∧ j.copyB = true ∧
      j.inImg = complement i.inImg ∧ j.tStart = i.tStart ∧ j.startCommit = i.startCommit ∧ j.epoch = i.epoch ∧
      j.bank = i.bank ∧ j.covers = i.covers ∧ i.startNet + 20 ≤ b.time.net) ∧
  (∀ (u : StallId) (f : Fin 4) (s : State), turnOf s u = some f → (stall s u).running ≠ some f → alive s = true →
    exec (.contextSwitch u) s = .next (switchIn u f (switchOut u s))) ∧
  (∀ (u : StallId) (f : Fin 4) (i : Inst) (s : State), issuer s u = some (f, i) → breakHere s u i = true →
    partnerEnding s i = false → i.record.attr.paired = true → partnerWaits s i (stall s u).ctx.pc = none →
    exec (.breakpointHit u) s = .next (park u f .waitBreak s)) ∧
  (∀ (u : StallId) (f : Fin 4) (i : Inst) (s : State), issuer s u = some (f, i) → breakHere s u i = true →
    entryHeld s i = false → partnerEnding s i = false → i.record.attr.paired = false →
    partnerWaits (park u f .held s) i (stall s u).ctx.pc = none →
    exec (.breakpointHit u) s = .next (settleStep i.task i.issued
      (holdTask i.task i.copyB false (stall s u).ctx.pc.toNat (park u f .held s)))) ∧
  (∀ (u : StallId) (f : Fin 4) (i : Inst) (s : State), issuer s u = some (f, i) → breakHere s u i = true →
    partnerEnding s i = true → exec (.breakpointHit u) s = .next (pairAbort i.task fcMismatch 0 0 s)) ∧
  (∀ (m : Mem) (a : Nat), Mem.find (complement m) a = (Mem.find m a).map (fun b => ~~~b))

/-- A bundle that the stall issues runs under the row of each of the 48 triggers it may carry, the end bundle under TX_END, an immediate
bundle under IMM_HI and a bundle without trigger under BUNDLE_ISSUE; the issue is the same operation for all of them, so a bundle with two
triggers has both effects whichever of its rows runs it. Which row runs a bundle is read by inference (log entry 48). A bundle that is not
unpredictable, with one trigger to the repeat, branch, transaction or system unit, leaves what its rule says: a repeat begins, is skipped
with a count of 0, or ends with its iteration (R244, R245); a branch is taken at its target under its condition, BR.CALL keeping the
address plus one (R202 to R206); TX.END ends the instance, TX.ABORT aborts it with the code moved (R110, R208); with its right, SYS.EVT
keeps the event, SYS.WDKEY of a copy that is not B and SYS.CHECKIN reach the watchdog; SYS.FENCE and SYS.WAIT hold the next bundle
(R258 to R261); a missing right aborts with PROT. -/
def Obligations.BundlesIssueUnderTheirRows : Prop :=
  (∀ (c : Instr) (u : StallId) (n : Nat) (f : Fin 4) (i : Inst) (b : MoveWord × MoveWord) (cyc : Nat) (s : State),
    (c, n) ∈ [(Instr.aluAdd u, 0x21), (.aluAdc u, 0x22), (.aluSub u, 0x23), (.aluSbc u, 0x24), (.aluAnd u, 0x25), (.aluOr u, 0x26),
      (.aluXor u, 0x27), (.aluAndn u, 0x28), (.aluShl u, 0x29), (.aluShr u, 0x2A), (.aluSar u, 0x2B), (.aluRol u, 0x2C), (.aluMin
      u, 0x2D), (.aluMax u, 0x2E), (.aluCmp u, 0x2F), (.macMul u, 0x31), (.macMac u, 0x32), (.macMsu u, 0x33), (.chkStep u, 0x3B),
      (.chkPar u, 0x3C), (.chkRev u, 0x3D), (.ldW u, 0x51), (.ldHu u, 0x52), (.ldBu u, 0x53), (.stW u, 0x54), (.stH u, 0x55),
      (.stB u, 0x56), (.lsBlk u, 0x57), (.rptGo u, 0x5C), (.rptExit u, 0x5D), (.imgRdb u, 0x62), (.imgRdw u, 0x63), (.imgWrb u,
      0x64), (.imgWrw u, 0x65), (.solve u, 0x66), (.brJmp u, 0x68), (.brCall u, 0x69), (.brJnz u, 0x6B), (.brJz u, 0x6C), (.brJcc
      u, 0x6D), (.brRel u, 0x6F), (.txEnd u, 0x70), (.txAbort u, 0x71), (.sysEvt u, 0x72), (.sysFence u, 0x73), (.sysWait u,
      0x74), (.sysWdkey u, 0x75), (.sysCheckin u, 0x76)] →
    ready s u = some (f, i, b, cyc) → isEnd b = false → carries b n = true → exec c s = .next (issueMoves u f i b cyc s)) ∧
  (∀ (u : StallId) (f : Fin 4) (i : Inst) (b : MoveWord × MoveWord) (cyc : Nat) (s : State),
    ready s u = some (f, i, b, cyc) → isEnd b = true → exec (.txEnd u) s = .next (issueEnd u f cyc s)) ∧
  (∀ (u : StallId) (f : Fin 4) (i : Inst) (b : MoveWord × MoveWord) (cyc : Nat) (s : State),
    ready s u = some (f, i, b, cyc) → isPlain b = true → exec (.bundleIssue u) s = .next (issueMoves u f i b cyc s)) ∧
  (∀ (u : StallId) (f : Fin 4) (i : Inst) (b : MoveWord × MoveWord) (cyc : Nat) (s : State),
    ready s u = some (f, i, b, cyc) → isImm b = true → exec (.immHi u) s = .next (issueImm u f b cyc s)) ∧
  (∀ (u : StallId) (f : Fin 4) (i : Inst) (b : MoveWord × MoveWord) (cyc : Nat) (s : State), ready s u = some (f, i, b, cyc) →
    let t := armed u f i b cyc s
    let m := (stall t u).ctx
    let flags := (stall s u).ctx.aluFlags
    let fin (e : Eff) (r : State) : Host.Outcome State Fault Refusal := .next (finish u f cyc e r)
    let prot : Host.Outcome State Fault Refusal := .next (selfAbort u f fcProt 0xFFFF t)
    let one (n : Nat) : Prop := onlyTrigger u i b cyc n s = true
    let x (n : Nat) : Word := movedTo u i b cyc n s
    (one 0x5C → exec (.rptGo u) s = if x 0x5C = 0
      then fin { noEff with hadGo := true, skip := some ((m.rptEnd.toNat + 1) % 2 ^ 15) } (setCtx u (fun c => { c with rptState := 0 }) t)
      else fin { noEff with hadGo := true } (setCtx u (fun c => { c with rptCount := x 0x5C, rptState := 1 }) t)) ∧
    (one 0x5D → exec (.rptExit u) s = fin noEff
      (setCtx u (fun c => if c.rptState.getLsbD 0 then { c with rptState := c.rptState ||| 2 } else c) t)) ∧
    (one 0x68 → exec (.brJmp u) s = fin { noEff with taken := some ((x 0x68).toNat % 2 ^ 15) } t) ∧
    (one 0x69 → exec (.brCall u) s = fin { noEff with taken := some ((x 0x69).toNat % 2 ^ 15) }
      (setCtx u (fun c => { c with brLink := BitVec.ofNat 32 (c.pc.toNat + 1) }) t)) ∧
    (one 0x6B → exec (.brJnz u) s =
      fin { noEff with taken := if x 0x6B ≠ 0 then some (m.brTarget.toNat % 2 ^ 15) else none } t) ∧
    (one 0x6C → exec (.brJz u) s =
      fin { noEff with taken := if x 0x6C = 0 then some (m.brTarget.toNat % 2 ^ 15) else none } t) ∧
    (one 0x6D → exec (.brJcc u) s =
      fin { noEff with taken := if condition ((x 0x6D).toNat % 16) flags then some (m.brTarget.toNat % 2 ^ 15) else none } t) ∧
    (one 0x6F → exec (.brRel u) s = fin { noEff with taken := some ((m.pc.toNat + (x 0x6F).toNat) % 2 ^ 15) } t) ∧
    (one 0x70 → exec (.txEnd u) s = .next (endBundle u f t)) ∧
    (one 0x71 → exec (.txAbort u) s = .next (selfAbort u f fcAbort ((x 0x71).toNat % 2 ^ 16) t)) ∧
    (one 0x72 → exec (.sysEvt u) s = if sysRight i 0 then fin noEff (modInst u f (fun j =>
        if j.events.length < 16 then { j with events := j.events ++ [(0x8000 ||| ((x 0x72).setWidth 15).setWidth 16, m.evtd)] }
        else { j with evtDropped := j.evtDropped + 1 }) t)
      else prot) ∧
    (one 0x73 → exec (.sysFence u) s = fin { noEff with waits := 0b101 } t) ∧
    (one 0x74 → exec (.sysWait u) s = fin { noEff with waits := waitMask (x 0x74) } t) ∧
    (one 0x75 → exec (.sysWdkey u) s = if sysRight i 1
      then fin noEff (if i.copyB then t else sendWdt (.key i.task ((x 0x75).setWidth 16)) t) else prot) ∧
    (one 0x76 → exec (.sysCheckin u) s = if sysRight i 2 then fin noEff (sendWdt (.checkin i.task i.copyB) t) else prot))

/-- Every ALU trigger sets ALU.RES and the flags N, Z, C and V as Table 1 states, with A the value moved, B the operand
after the bundle's other move and Cin the carry of the previous ALU trigger. -/
def Obligations.AluTriggersSetResultAndFlags : Prop :=
  ∀ (c : Instr) (u : StallId) (n : Nat) (f : Fin 4) (i : Inst) (b : MoveWord × MoveWord) (cyc : Nat) (s : State),
    triggerRow c = some (u, n) → 0x21 ≤ n → n ≤ 0x2F → ready s u = some (f, i, b, cyc) → onlyTrigger u i b cyc n s = true →
    let x := movedTo u i b cyc n s
    let y := (stall (moved u i b cyc s) u).ctx.aluOpb
    let e := aluExact n x y ((stall s u).ctx.aluFlags.getLsbD 1)
    let d := if aluCompares n then BitVec.ofInt 32 (x.toInt - y.toInt) else e.1
    ∃ t, exec c s = .next t ∧ (stall t u).ctx.aluRes = e.1 ∧
      (stall t u).ctx.aluFlags =
        BitVec.ofNat 32 (8 * (d.toNat / 2 ^ 31) + (if d = 0 then 4 else 0) + (if e.2.1 then 2 else 0) + (if e.2.2 then 1 else 0))

/-- MAC.MUL, MAC.MAC and MAC.MSU leave in ACC, modulo 2^72, the product, the sum and the difference, the operands taken as
signed or unsigned as MAC.CFG sets (R221). -/
def Obligations.MacTriggersAccumulateTheProduct : Prop :=
  ∀ (c : Instr) (u : StallId) (n : Nat) (f : Fin 4) (i : Inst) (b : MoveWord × MoveWord) (cyc : Nat) (s : State),
    triggerRow c = some (u, n) → 0x31 ≤ n → n ≤ 0x33 → ready s u = some (f, i, b, cyc) → onlyTrigger u i b cyc n s = true →
    let m := (stall (moved u i b cyc s) u).ctx
    let x : Int := if m.macCfg.getLsbD 0 then (movedTo u i b cyc n s).toInt else (movedTo u i b cyc n s).toNat
    let y : Int := if m.macCfg.getLsbD 1 then m.macOpb.toInt else m.macOpb.toNat
    let old : Int := if n = 0x31 then 0 else m.acc.toNat
    ∃ t, exec c s = .next t ∧
      ((stall t u).ctx.acc.toNat : Int) = (if n = 0x33 then old - x * y else old + x * y) % 2 ^ 72

/-- CHK.PAR sets its result, read at source CHK.PAR, to the XOR of the word in bit 0, of its four bytes in bits 1 to 4 and
zero above (R228); CHK.REV sets its result, read at source CHK.REV, to the low REV_W + 1 bits in reversed order with zeros
above (R229); CHK.STEP folds the low bits of STEP_W into CHK.CRC by the procedure of R226, the polynomial taken in normal
form from the low CRC_W bits of CHK.POLY. -/
def Obligations.CheckTriggersGiveTheirResults : Prop :=
  ∀ (c : Instr) (u : StallId) (n : Nat) (f : Fin 4) (i : Inst) (b : MoveWord × MoveWord) (cyc : Nat) (s : State),
    triggerRow c = some (u, n) → 0x3B ≤ n → n ≤ 0x3D → ready s u = some (f, i, b, cyc) → onlyTrigger u i b cyc n s = true →
    let m := (stall (moved u i b cyc s) u).ctx
    let x := movedTo u i b cyc n s
    let cfg := m.chkCfg.toNat
    ∃ t, exec c s = .next t ∧
      let r := (stall t u).ctx
      (∀ (j : Inst) (k : Nat), sourceValue u j r k 0x3C = r.chkPar ∧ sourceValue u j r k 0x3D = r.chkRev) ∧
      (n = 0x3C → r.chkPar.getLsbD 0 = decide (((List.range 32).countP (fun k => x.getLsbD k)) % 2 = 1) ∧
        (∀ k : Nat, k < 4 → r.chkPar.getLsbD (k + 1) =
          decide (((List.range 8).countP (fun j => x.getLsbD (8 * k + j))) % 2 = 1)) ∧
        ∀ k : Nat, 5 ≤ k → r.chkPar.getLsbD k = false) ∧
      (n = 0x3D → ∀ k : Nat, k < 32 → r.chkRev.getLsbD k =
        (decide (k ≤ cfg / 256 % 32) && x.getLsbD (cfg / 256 % 32 - k))) ∧
      (n = 0x3B → cfg % 4 ≠ 3 → cfg / 4 % 4 ≠ 3 → r.chkCrc.toNat =
        crcExact (8 * 2 ^ (cfg % 4)) (8 * 2 ^ (cfg / 4 % 4)) (m.chkCfg.getLsbD 4) m.chkPoly.toNat x.toNat m.chkCrc.toNat)

/-- What stays through an ALU, multiply-accumulate or check trigger alone in its bundle: every part of the module but its own stall,
the other stalls, the stall's memory, and every register and socket that neither of its moves writes, its source steps or its unit
sets; IMM, LD.RES and IMG.RES in any case, and RPT.COUNT and RPT.STATE while no repeat runs or this is not its last bundle. CHK.CRC keeps
its bits within CRC_W. After the last bundle of a STEP the instance is held again besides: its stall's memory takes the frame, and
tasks, the host interface with its memory and the count of free values taken may change (R95, R97, R209). -/
def Obligations.ArithmeticTriggersLeaveTheRest : Prop :=
  ∀ (c : Instr) (u : StallId) (n : Nat) (f : Fin 4) (i : Inst) (b : MoveWord × MoveWord) (cyc : Nat) (s t : State),
    triggerRow c = some (u, n) → 0x21 ≤ n → n ≤ 0x3D → ready s u = some (f, i, b, cyc) → onlyTrigger u i b cyc n s = true →
    exec c s = .next t →
    let o := (stall s u).ctx
    let m := (stall t u).ctx
    let kept (d : Nat) : Prop := dstOf b.1 ≠ d ∧ dstOf b.2 ≠ d
    t = { s with stalls := t.stalls, tasks := t.tasks, host := t.host, hostMem := t.hostMem, free := t.free } ∧
    ((∀ k : Nat, i.steps = some k → 2 ≤ k) → t = { s with stalls := t.stalls } ∧ (stall t u).mem = (stall s u).mem) ∧
    (∀ v : StallId, v ≠ u → stall t v = stall s v) ∧
    (∀ k : Fin 32, kept k.val → m.gp[k] = o.gp[k]) ∧ m.imm = o.imm ∧
    (kept 0x20 → m.aluOpb = o.aluOpb) ∧ (0x31 ≤ n → m.aluRes = o.aluRes ∧ m.aluFlags = o.aluFlags) ∧
    (kept 0x30 → m.macOpb = o.macOpb) ∧ (kept 0x34 → m.macCfg = o.macCfg) ∧
    ((n ≤ 0x2F ∨ 0x3B ≤ n) → kept 0x35 → kept 0x36 → kept 0x37 → m.acc = o.acc ∧ (kept 0x34 → m.macFlags = o.macFlags)) ∧
    (kept 0x38 → m.chkPoly = o.chkPoly) ∧ (kept 0x39 → m.chkCfg = o.chkCfg) ∧
    (n ≠ 0x3B → kept 0x39 → kept 0x3A → m.chkCrc = lowBits (crcWidth o.chkCfg) o.chkCrc) ∧
    (n ≠ 0x3C → m.chkPar = o.chkPar) ∧ (n ≠ 0x3D → m.chkRev = o.chkRev) ∧
    (∀ k : Fin 4, (kept (0x40 + 4 * k.val) → m.agBase[k] = o.agBase[k]) ∧
      (kept (0x41 + 4 * k.val) → srcOf b.1 ≠ 0x29 + 2 * k.val → srcOf b.2 ≠ 0x29 + 2 * k.val → m.agIdx[k] = o.agIdx[k]) ∧
      (kept (0x42 + 4 * k.val) → m.agMod[k] = o.agMod[k]) ∧ (kept (0x43 + 4 * k.val) → m.agCfg[k] = o.agCfg[k])) ∧
    (kept 0x50 → m.lsAddr = o.lsAddr) ∧ m.ldRes = o.ldRes ∧
    (kept 0x58 → m.rptStart = o.rptStart) ∧ (kept 0x59 → m.rptEnd = o.rptEnd) ∧
    (kept 0x5B → (o.rptState.getLsbD 0 = false ∨ kept 0x59 ∧ o.pc.toNat ≠ o.rptEnd.toNat) →
      m.rptState = o.rptState ∧ (kept 0x5A → m.rptCount = o.rptCount)) ∧
    (kept 0x60 → m.imgSel = o.imgSel) ∧ (kept 0x61 → m.imgAddr = o.imgAddr) ∧ m.imgRes = o.imgRes ∧
    (kept 0x6A → m.brTarget = o.brTarget) ∧ (kept 0x6E → m.brLink = o.brLink) ∧ (kept 0x77 → m.evtd = o.evtd)

/-- Accesses to memory and images, and the results that they request. A bundle that is not unpredictable, with one such trigger: a load
answers from scratch or is requested (R195, R236); a store that no check refuses takes its place, one that a check refuses aborts the
instance (R237); LS.BLK with a valid descriptor requests its transfer (R239); IMG reads take the addressed bit or word of the selected
image (R250); IMG writes of the output image that no check refuses take their place (R251); SOLVE calls the solver of its barn (R252).
Results arrive: the oldest outstanding load leaves its instance, and LD.RES takes its value when no later load has been triggered; a solver
call's return stands in IMG.RES; a block transfer copies its words and ends, or aborts the instance at a word that faults, a preempted one when it runs again (R102); with nothing
outstanding a result of that kind that an aborted instance of the frame left is counted and retired (R159, R181, R240). How long they take is free. Where the spec leaves a point
of these open, it is as log entries 17, 85 and 98 choose. -/
def Obligations.RequestedResultsArrive : Prop :=
  (∀ (u : StallId) (f : Fin 4) (i : Inst) (b : MoveWord × MoveWord) (cyc : Nat) (s : State), ready s u = some (f, i, b, cyc) →
    let t := armed u f i b cyc s
    let m := (stall t u).ctx
    let fin (r : State) : Host.Outcome State Fault Refusal := .next (finish u f cyc noEff r)
    let stores (r : Option (Nat × Nat) × State) : Host.Outcome State Fault Refusal := match r.1 with
      | none => fin r.2
      | some q => .next (selfAbort u f q.1 q.2 r.2)
    let x (n : Nat) : Word := movedTo u i b cyc n s
    (∀ (c : Instr) (n w : Nat), (c, n, w) ∈ [(Instr.ldW u, 0x51, 4), (.ldHu u, 0x52, 2), (.ldBu u, 0x53, 1)] →
      onlyTrigger u i b cyc n s = true → accessOdd i (alignTo w (x n).toNat) w = false →
      exec c s = fin (loadTrig u f cyc w (x n) (noEff, t)).2) ∧
    (∀ (c : Instr) (n w : Nat), (c, n, w) ∈ [(Instr.stW u, 0x54, 4), (.stH u, 0x55, 2), (.stB u, 0x56, 1)] →
      onlyTrigger u i b cyc n s = true → accessOdd i (alignTo w m.lsAddr.toNat) w = false →
      exec c s = stores (writeData u f (alignTo w m.lsAddr.toNat) (leBytes w (x n).toNat) t)) ∧
    (onlyTrigger u i b cyc 0x57 s = true → alignTo 16 (x 0x57).toNat ≤ 0x3BF0 →
      let d := scratchBytes t u f (alignTo 16 (x 0x57).toNat) 16
      let src := alignTo 4 (fieldAt d 0 4)
      let dst := alignTo 4 (fieldAt d 4 4)
      let len := fieldAt d 8 2
      len % 4 = 0 → 4 ≤ len → len ≤ 4096 → fieldAt d 10 6 = 0 → (src < 0x3C00 ∨ dst < 0x3C00) →
      exec (.lsBlk u) s = fin (modInst u f (fun j => { j with
        blk := some ⟨tagOf i, BitVec.ofNat 32 src, BitVec.ofNat 32 dst, len, cyc, false⟩ }) t)) ∧
    (onlyTrigger u i b cyc 0x62 s = true → exec (.imgRdb u) s = fin (imgRead u f cyc true (x 0x62) (noEff, t)).2) ∧
    (onlyTrigger u i b cyc 0x63 s = true → exec (.imgRdw u) s = fin (imgRead u f cyc false (x 0x63) (noEff, t)).2) ∧
    (onlyTrigger u i b cyc 0x64 s = true → selOut t u = true →
      let a := m.imgAddr.toNat
      exec (.imgWrb u) s = stores (imageWrite u f a 1 (a / 8)
        [withBit (readByte t.commit i (outBase i.task + a / 8)) (a % 8) ((x 0x64).getLsbD 0)] t)) ∧
    (onlyTrigger u i b cyc 0x65 s = true → selOut t u = true →
      let a := alignTo 4 m.imgAddr.toNat
      exec (.imgWrw u) s = stores (imageWrite u f (8 * a) 32 a (leBytes 4 (x 0x65).toNat) t)) ∧
    (onlyTrigger u i b cyc 0x66 s = true → exec (.solve u) s = fin (solveTrig u f cyc (x 0x66) (noEff, t)).2)) ∧
  (∀ (u : StallId) (f : Fin 4) (i : Inst) (q : LoadReq) (l : List LoadReq) (s : State), slotOf s u f = some i → i.loads = q :: l →
    (stall s u).running = some f → i.endPending = false →
    ∃ t, exec (.loadResultArrive u f) s = .next t ∧
      (stall t u).ctx.ldRes = (if q.live then BitVec.ofNat 32 (leNat (loadBytesNow u f q { s with free := s.free + 1 }).1)
        else (stall s u).ctx.ldRes) ∧
      ((slotOf t u f).map (fun j => j.loads)) = some l) ∧
  (∀ (u : StallId) (f : Fin 4) (i : Inst) (v : Word) (g : Tag) (s : State), slotOf s u f = some i → i.endPending = false →
    (stall s u).running = some f → (barn s u.barn).returns = [(u, f, v, g)] →
    ∃ t, exec (.solverResultArrive u f) s = .next t ∧ (stall t u).ctx.imgRes = v ∧
      (barn t u.barn).returns = [] ∧ ((slotOf t u f).map (fun j => j.solving)) = some false ∧ t.free = s.free + 1) ∧
  (∀ (u : StallId) (f : Fin 4) (x : StaleRes) (kind : ResKind) (c : Instr) (s : State),
    (c, kind) ∈ [(Instr.loadResultArrive u f, ResKind.load), (.blockTransferComplete u f, .block), (.solverResultArrive u f, .solver)] →
    slotOf s u f = none → (stall s u).stale.find? (fun y => y.slot = f && y.kind = kind) = some x → (barn s u.barn).returns = [] →
    exec c s = .next (modCtr x.task (fun k => { k with stale := satAdd 16 k.stale 1 })
      (modStall u (fun st => { st with stale := st.stale.erase x }) s))) ∧
  (∀ (u : StallId) (f : Fin 4) (i : Inst) (k : BlkReq) (r : State) (s : State), slotOf s u f = some i → i.blk = some k →
    i.fault = none → (copyWords u f k.spoiled k.src.toNat k.dst.toNat (k.len / 4) { s with free := s.free + 1 } = (none, r) →
      let at_ := blkDone { s with free := s.free + 1 } u i k s.free
      exec (.blockTransferComplete u f) s = .next (tryEnd u f (framePend u f (modInst u f (fun j =>
        let shows := if waitCounts r u f then at_ else min at_ j.cycle
        { flagsFrom i shows j with blk := none, blkReady := shows }) r)))) ∧
    (∀ q : Nat × Nat,
      copyWords u f k.spoiled k.src.toNat k.dst.toNat (k.len / 4) { s with free := s.free + 1 } = (some q, r) →
      exec (.blockTransferComplete u f) s = .next (ownFault u f q.1 q.2 r))) ∧
  (∀ (u : StallId) (f : Fin 4) (code detail : Nat) (i : Inst) (s : State), slotOf s u f = some i →
    (i.phase = .running → ownFault u f code detail s = selfAbort u f code detail s) ∧
    (i.phase = .preempted → i.fault = none →
      ownFault u f code detail s = modInst u f (fun j => { j with fault := some (code, detail) }) s))

/-- The words of the stack: each leaves the stack that Table 5 of Rung Solver gives, in one cycle, the call otherwise
unchanged and the program counter at the next word (R284). A word that finds too few entries ends the call with STACK_UNDERFLOW, and one
that would leave more than 16 with STACK_OVERFLOW (R282). Where the spec leaves a point
of these open, it is as log entries 17 and 111 choose. -/
def Obligations.StackWordsLeaveTheirStack : Prop :=
  (∀ (b : Fin 4) (c : Call) (i : Inst) (x y : Bool) (l : List Bool) (s : State), c.stack.length ≤ 16 →
    (c.stack = l → atWord s b c i 0xF 0x00 1 → exec (.rungNop b) s = .next (wordDone b c 1 1 l s)) ∧
    (c.stack = x :: l → l.length ≤ 14 → atWord s b c i 0xF 0x10 1 → exec (.dup b) s = .next (wordDone b c 1 1 (x :: x :: l) s)) ∧
    (c.stack = x :: l → atWord s b c i 0xF 0x11 1 → exec (.pop b) s = .next (wordDone b c 1 1 l s)) ∧
    (c.stack = x :: y :: l → atWord s b c i 0xF 0x12 1 → exec (.swap b) s = .next (wordDone b c 1 1 (y :: x :: l) s)) ∧
    (c.stack = x :: l → atWord s b c i 0xF 0x13 1 → exec (.rungNot b) s = .next (wordDone b c 1 1 ((!x) :: l) s)) ∧
    (c.stack = x :: y :: l → atWord s b c i 0xF 0x14 1 → exec (.ands b) s = .next (wordDone b c 1 1 ((x && y) :: l) s)) ∧
    (c.stack = x :: y :: l → atWord s b c i 0xF 0x15 1 → exec (.ors b) s = .next (wordDone b c 1 1 ((x || y) :: l) s)) ∧
    (c.stack = x :: y :: l → atWord s b c i 0xF 0x16 1 → exec (.xors b) s = .next (wordDone b c 1 1 ((x ^^ y) :: l) s)) ∧
    (c.stack = l → l.length ≤ 15 → atWord s b c i 0xF 0x17 1 → exec (.push0 b) s = .next (wordDone b c 1 1 (false :: l) s)) ∧
    (c.stack = l → l.length ≤ 15 → atWord s b c i 0xF 0x18 1 → exec (.push1 b) s = .next (wordDone b c 1 1 (true :: l) s)) ∧
    (c.stack = l → atWord s b c i 0xF 0x19 1 → exec (.clr b) s = .next (wordDone b c 1 1 [] s))) ∧
  (∀ (b : Fin 4) (c : Call) (i : Inst) (w : Instr) (n : Nat) (s : State), atWord s b c i 0xF n 1 →
    ((w, n) ∈ [(Instr.dup b, 0x10), (.pop b, 0x11), (.rungNot b, 0x13)] → c.stack = [] →
      exec w s = .next (endCall b c errUnderflow (c.cycles + 1) c.pc.toNat s)) ∧
    ((w, n) ∈ [(Instr.swap b, 0x12), (.ands b, 0x14), (.ors b, 0x15), (.xors b, 0x16)] → c.stack.length ≤ 1 →
      exec w s = .next (endCall b c errUnderflow (c.cycles + 1) c.pc.toNat s)) ∧
    ((w, n) ∈ [(Instr.dup b, 0x10), (.push0 b, 0x17), (.push1 b, 0x18)] → c.stack.length = 16 →
      exec w s = .next (endCall b c errOverflow (c.cycles + 1) c.pc.toNat s)))

/-- The reading words push or combine the bit that their operand names, as readBit reads it (R275, R283), within the call's
limit; the lines they fetch are kept with the call. LD and LDN with a full stack end the call with STACK_OVERFLOW, the others with an
empty one with STACK_UNDERFLOW, the stack as it stood and after one cycle (R282). The further cycles of a line outside the barn are an operand (log
entry 50). -/
def Obligations.ReadingWordsCombineTheirBit : Prop :=
  ∀ (b : Fin 4) (c : Call) (i : Inst) (n : Nat) (wait : BitVec 12) (x : Bool) (l : List Bool) (s : State), c.stack.length ≤ 16 →
    let e := bitCost s b c i n wait
    let v := (readBit c i n s).1
    let done (stack : List Bool) : Host.Outcome State Fault Refusal :=
      .next (wordDone b { c with fetched := e.2 } (1 + e.1) 1 stack (readBit c i n s).2)
    (c.stack = l → l.length ≤ 15 → atWord s b c i 0 n (1 + e.1) → exec (.ld b wait) s = done (v :: l)) ∧
    (c.stack = l → l.length ≤ 15 → atWord s b c i 1 n (1 + e.1) → exec (.ldn b wait) s = done ((!v) :: l)) ∧
    (c.stack = x :: l → atWord s b c i 2 n (1 + e.1) → exec (.rungAnd b wait) s = done ((x && v) :: l)) ∧
    (c.stack = x :: l → atWord s b c i 3 n (1 + e.1) → exec (.rungAndn b wait) s = done ((x && !v) :: l)) ∧
    (c.stack = x :: l → atWord s b c i 4 n (1 + e.1) → exec (.rungOr b wait) s = done ((x || v) :: l)) ∧
    (c.stack = x :: l → atWord s b c i 5 n (1 + e.1) → exec (.rungOrn b wait) s = done ((x || !v) :: l)) ∧
    (c.stack = x :: l → atWord s b c i 6 n (1 + e.1) → exec (.rungXor b wait) s = done ((x ^^ v) :: l)) ∧
    (∀ (w : Instr) (op : Nat), (w, op) ∈ [(Instr.ld b wait, 0), (.ldn b wait, 1)] → c.stack.length = 16 →
      atWord s b c i op n (1 + e.1) → exec w s = .next (endCall b c errOverflow (c.cycles + 1) c.pc.toNat s)) ∧
    (∀ (w : Instr) (op : Nat), (w, op) ∈ [(Instr.rungAnd b wait, 2), (.rungAndn b wait, 3), (.rungOr b wait, 4), (.rungOrn b wait, 5),
        (.rungXor b wait, 6)] → c.stack = [] →
      atWord s b c i op n (1 + e.1) → exec w s = .next (endCall b c errUnderflow (c.cycles + 1) c.pc.toNat s))

/-- The writing words store their bit and leave their top of stack as Table 4 of Rung Solver gives them: ST the top, STN its
opposite, SET and RST only when the top is 1, RISE and FALL the top, leaving whether it rose or fell (R276, R277, R283). A
write of any of them that its rights or the write buffer refuse, or whose bit lies outside its image or region, ends the call and aborts
the instance instead (R276). With an empty stack each ends the call with STACK_UNDERFLOW, the stack as it stood and after one cycle
(R282). The further cycles of a line outside the
barn are an operand (log entry 50). -/
def Obligations.WritingWordsStoreTheirBit : Prop :=
  (∀ (b : Fin 4) (c : Call) (i : Inst) (n k : Nat) (wait : BitVec 12) (x : Bool) (l : List Bool) (r : State) (s : State),
    c.stack = x :: l → bitKey c i n = some k →
    let e := bitCost s b c i n wait
    let old := (readByte s.commit i k).getLsbD (windowBit c n % 8)
    let done (tos : Bool) : Host.Outcome State Fault Refusal :=
      .next (wordDone b { c with fetched := e.2 } (1 + e.1) 1 (tos :: l) r)
    (atWord s b c i 7 n (1 + e.1) → writeBit c i n x s = (none, r) → exec (.st b wait) s = done x) ∧
    (atWord s b c i 8 n (1 + e.1) → writeBit c i n (!x) s = (none, r) → exec (.stn b wait) s = done x) ∧
    (atWord s b c i 9 n (1 + e.1) → writeBit c i n (x || old) s = (none, r) → exec (.rungSet b wait) s = done x) ∧
    (atWord s b c i 10 n (1 + e.1) → writeBit c i n (!x && old) s = (none, r) → exec (.rst b wait) s = done x) ∧
    (atWord s b c i 11 n (1 + e.1) → writeBit c i n x s = (none, r) → exec (.rise b wait) s = done (x && !old)) ∧
    (atWord s b c i 12 n (1 + e.1) → writeBit c i n x s = (none, r) → exec (.fall b wait) s = done (!x && old)) ∧
    (∀ (w : Instr) (op : Nat) (v : Bool) (q : Nat × Nat), (w, op, v) ∈ [(Instr.st b wait, 7, x), (.stn b wait, 8, !x),
        (.rungSet b wait, 9, x || old), (.rst b wait, 10, !x && old), (.rise b wait, 11, x), (.fall b wait, 12, x)] →
      atWord s b c i op n (1 + e.1) → writeBit c i n v s = (some q, r) →
      exec w s = .next (ownFault c.stall c.slot q.1 q.2 (modBarn b (fun y => { y with run := none }) r)))) ∧
  (∀ (b : Fin 4) (c : Call) (i : Inst) (n : Nat) (wait : BitVec 12) (w : Instr) (op : Nat) (s : State),
    (w, op) ∈ [(Instr.st b wait, 7), (.stn b wait, 8), (.rungSet b wait, 9), (.rst b wait, 10), (.rise b wait, 11),
      (.fall b wait, 12)] →
    atWord s b c i op n (1 + (bitCost s b c i n wait).1) →
    (c.stack = [] → exec w s = .next (endCall b c errUnderflow (c.cycles + 1) c.pc.toNat s)) ∧
    (c.stack ≠ [] → bitKey c i n = none →
      exec w s = .next (ownFault c.stall c.slot fcProt 0xFFFF (modBarn b (fun y => { y with run := none }) s)))) ∧
  (∀ (u : StallId) (f : Fin 4) (code detail : Nat) (i : Inst) (s : State), slotOf s u f = some i → i.phase = .running →
    ownFault u f code detail s = selfAbort u f code detail s)

/-- WIN selects the bit window or the timer area, the jumps go on at their target or the next word, and the ends return the
stack to the stall (R273, R284). Where the spec leaves a point
of these open, it is as log entries 50 and 111 choose. -/
def Obligations.WindowsJumpsAndEndsOfCalls : Prop :=
  ∀ (b : Fin 4) (c : Call) (i : Inst) (x : Bool) (l : List Bool) (s : State),
    let next := (solverWord s.proj i.bank (c.pc.toNat + 1)).toNat
    let away (stack : List Bool) : Host.Outcome State Fault Refusal := .next (wordDone b
      { c with pc := BitVec.ofInt 17 ((c.pc.toNat : Int) + signed 12 next) } 3 0 stack s)
    let on (stack : List Bool) : Host.Outcome State Fault Refusal := .next (wordDone b c 2 2 stack s)
    let back : Host.Outcome State Fault Refusal := .next (endCall b c 0 (c.cycles + 1) c.pc.toNat s)
    (∀ rg : Nat, rg < 3 → next ≤ (if rg = 0 then 2047 else 127) → atWord s b c i 0xD (64 * rg) 2 →
      exec (.win b) s = .next (wordDone b { c with region := BitVec.ofNat 2 rg, window := next } 2 2 c.stack s)) ∧
    (next ≤ 7 → atWord s b c i 0xD 192 2 → exec (.win b) s = .next (wordDone b { c with area := next } 2 2 c.stack s)) ∧
    (atWord s b c i 0xF 4 3 → exec (.jmp b) s = away c.stack) ∧
    (c.stack = x :: l → atWord s b c i 0xF 5 (if x then 3 else 2) → exec (.jmpc b) s = if x then away l else on l) ∧
    (c.stack = x :: l → atWord s b c i 0xF 6 (if x then 2 else 3) → exec (.jmpcn b) s = if x then on l else away l) ∧
    (atWord s b c i 0xF 1 1 → exec (.rungEnd b) s = back) ∧
    (c.stack = x :: l → atWord s b c i 0xF 2 1 →
      exec (.endc b) s = if x then back else .next (wordDone b c 1 1 (x :: l) s)) ∧
    (c.stack = x :: l → atWord s b c i 0xF 3 1 →
      exec (.endcn b) s = if x then .next (wordDone b c 1 1 (x :: l) s) else back)

/-- A call begins with the oldest one queued (R262); a word that the encoding does not list ends it with ENCODING (4), and one that
would pass 32,768 cycles with LIMIT (3), the stack and the code going to the stall in the return value (R264, R266, R285). Where the spec leaves a point
of these open, it is as log entries 17 and 111 choose. -/
def Obligations.SolverCallsBeginAndEnd : Prop :=
  (∀ (b : Fin 4) (c : Call) (q : List Call) (s : State), (barn s b).run = none → (barn s b).queue = c :: q →
    (barn s b).solverOut = false → (barn s b).solverOn = true → alive s = true →
    exec (.solverCallStart b) s = .next (modBarn b (fun x => { x with run := some c, queue := q }) s)) ∧
  (∀ (b : Fin 4) (c : Call) (i : Inst) (n : Nat) (s : State), atWord s b c i 0xF n 1 → extListed n = false →
    exec (.ext b) s = .next (endCall b c 4 (c.cycles + 1) c.pc.toNat s)) ∧
  (∀ (b : Fin 4) (c : Call) (i : Inst) (w : RungWord) (s : State), rungAt s b = some (c, i, w) → alive s = true →
    32768 < c.cycles + wordCost s b c i w →
    exec (.solverCallLimit b) s = .next (endCall b c 3 32768 c.pc.toNat s)) ∧
  (∀ (b : Fin 4) (c : Call) (err cycles addr : Nat) (s : State),
    (barn (endCall b c err cycles addr s) b).run = none ∧
    (barn (endCall b c err cycles addr s) b).returns = (barn s b).returns ++ [(c.stall, c.slot, returnValue c.stack err, c.tag)])

/-- TMR evaluates the record of the timer area that its operand names at the release time of its instance, buffers the record
when it changes, and leaves the timer's or counter's outputs on the stack (R286 to R291); a record beyond RUNG_SIZE or of a kind that Table 8
of Rung Solver does not list ends the call with RECORD, too few entries with STACK_UNDERFLOW, and a full write buffer aborts the
instance. A pulse timer (TP, kind 1), an on-delay timer (TON, kind 2), an off-delay timer (TOF, kind 3) and the counters CTU (kind 4), CTD
(kind 5) and CTUD (kind 6) evaluate as Table 8 states, with Δ the time since T_START as an unsigned 64-bit value; counts stay
within the signed 32-bit range. The further cycles of a line outside the barn are an operand (log entry 50). -/
def Obligations.TmrEvaluatesItsRecord : Prop :=
  (∀ (b : Fin 4) (c : Call) (i : Inst) (n : Nat) (wait : BitVec 12) (s : State),
    let off := 8192 * c.area + 32 * n
    let key := privKey i.task (privBase + off)
    let e := lineCost s b c (some key) wait
    let old := readBytes s.commit i key 32
    let s1 := noteRead c.stall c.slot i.wb key 32 s
    let kind := bitsOf (fieldAt old 0 1) 3 0
    (i.record.rungSize < off + 32 → atWord s b c i 0xE n (4 + (lineCost s b c none wait).1) →
      exec (.tmr b wait) s = .next (endCall b c errRecord (c.cycles + 4) c.pc.toNat s)) ∧
    (off + 32 ≤ i.record.rungSize → atWord s b c i 0xE n (4 + e.1) →
      ((kind = 0 ∨ 6 < kind) →
        exec (.tmr b wait) s = .next (endCall b c errRecord (c.cycles + (4 + e.1)) c.pc.toNat s1)) ∧
      (1 ≤ kind → kind ≤ 6 → evalRecord i.relTime old c.stack = none →
        exec (.tmr b wait) s = .next (endCall b c errUnderflow (c.cycles + (4 + e.1)) c.pc.toNat s1)) ∧
      (∀ (new : Bytes) (stack : List Bool), 1 ≤ kind → kind ≤ 6 → evalRecord i.relTime old c.stack = some (new, stack) →
        (new = old → exec (.tmr b wait) s = .next (wordDone b { c with fetched := e.2 } (4 + e.1) 1 stack s1)) ∧
        (∀ s2 : State, new ≠ old → bufferWrite c.stall c.slot key new s1 = some s2 →
          exec (.tmr b wait) s = .next (wordDone b { c with fetched := e.2 } (4 + e.1) 1 stack s2)) ∧
        (new ≠ old → bufferWrite c.stall c.slot key new s1 = none → exec (.tmr b wait) s =
          .next (ownFault c.stall c.slot fcOverflow 0 (modBarn b (fun y => { y with run := none }) s1)))))) ∧
  (∀ (t : Nat) (v r ld cu cd : Bool) (l : List Bool) (rec : Bytes),
    let kind := bitsOf (fieldAt rec 0 1) 3 0
    (kind ≤ 3 → evalRecord t rec (v :: l) = some (putTimer rec (evalTimer kind t v (timerOf rec)),
      (evalTimer kind t v (timerOf rec)).q :: l)) ∧
    (kind = 4 → evalRecord t rec (r :: cu :: l) = some (putCounter rec (evalCounter 4 r false cu false (counterOf rec)),
      (evalCounter 4 r false cu false (counterOf rec)).qu :: l)) ∧
    (kind = 5 → evalRecord t rec (ld :: cd :: l) = some (putCounter rec (evalCounter 5 false ld false cd (counterOf rec)),
      (evalCounter 5 false ld false cd (counterOf rec)).qd :: l)) ∧
    (kind = 6 → evalRecord t rec (ld :: r :: cd :: cu :: l) = some (putCounter rec (evalCounter 6 r ld cu cd (counterOf rec)),
      (evalCounter 6 r ld cu cd (counterOf rec)).qd :: (evalCounter 6 r ld cu cd (counterOf rec)).qu :: l))) ∧
  (∀ (t : Nat) (v : Bool) (x : Timer), t < 2 ^ 64 →
    let gone := (t + 2 ^ 64 - x.start) % 2 ^ 64
    (x.on = true → x.pt ≤ gone → evalTimer 1 t v x = { x with q := false, on := false, et := x.pt, prev := v }) ∧
    (x.on = true → gone < x.pt → evalTimer 1 t v x = { x with q := true, et := gone, prev := v }) ∧
    (x.on = false → x.prev = false → evalTimer 1 t true x =
      { x with q := decide (0 < x.pt), on := decide (0 < x.pt), et := 0, start := t, prev := true }) ∧
    (x.on = false → evalTimer 1 t false x = { x with et := 0, prev := false }) ∧
    (x.on = false → x.prev = true → evalTimer 1 t true x = x) ∧
    evalTimer 2 t false x = { x with q := false, on := false, et := 0, prev := false } ∧
    (x.on = true → x.pt ≤ gone → evalTimer 2 t true x = { x with q := true, on := false, et := x.pt, prev := true }) ∧
    (x.on = true → gone < x.pt → evalTimer 2 t true x = { x with et := gone, prev := true }) ∧
    (x.on = false → x.q = false → evalTimer 2 t true x =
      { x with q := decide (x.pt = 0), on := decide (0 < x.pt), et := 0, start := t, prev := true }) ∧
    (x.on = false → x.q = true → evalTimer 2 t true x = { x with prev := true }) ∧
    evalTimer 3 t true x = { x with q := true, on := false, et := 0, prev := true } ∧
    (x.on = true → x.pt ≤ gone → evalTimer 3 t false x = { x with q := false, on := false, et := x.pt, prev := false }) ∧
    (x.on = true → gone < x.pt → evalTimer 3 t false x = { x with et := gone, prev := false }) ∧
    (x.on = false → x.q = true → evalTimer 3 t false x =
      { x with q := decide (0 < x.pt), on := decide (0 < x.pt), et := 0, start := t, prev := false }) ∧
    (x.on = false → x.q = false → evalTimer 3 t false x = { x with prev := false })) ∧
  (∀ (k : Nat) (r ld cu cd : Bool) (x : Counter), k ∈ [4, 5, 6] →
    let y := evalCounter k r ld cu cd x
    let up := cu = true ∧ x.cuPrev = false
    let down := cd = true ∧ x.cdPrev = false
    y.pv = x.pv ∧ y.qu = decide (x.pv ≤ y.cv) ∧ y.qd = decide (y.cv ≤ 0) ∧ y.cuPrev = (cu && k != 5) ∧ y.cdPrev = (cd && k != 4) ∧
    (-(2 ^ 31) ≤ x.cv → x.cv < 2 ^ 31 → -(2 ^ 31) ≤ x.pv → x.pv < 2 ^ 31 → -(2 ^ 31) ≤ y.cv ∧ y.cv < 2 ^ 31) ∧
    (k = 4 → y.cv = if r then 0 else if up ∧ x.cv < 2 ^ 31 - 1 then x.cv + 1 else x.cv) ∧
    (k = 5 → y.cv = if ld then x.pv else if down ∧ -(2 ^ 31) < x.cv then x.cv - 1 else x.cv) ∧
    (k = 6 → y.cv = if r then 0 else if ld then x.pv else if up ∧ down then x.cv
      else if up ∧ x.cv < 2 ^ 31 - 1 then x.cv + 1 else if down ∧ -(2 ^ 31) < x.cv then x.cv - 1 else x.cv))

/-- COMMIT numbers the write set presented first with the next commit number, which is recorded and then one more, and closes its task's
instance (R103, R114, R116). PAIR_COMPARE of copies that agree numbers the instance in its turn with copy A's write set, its latency counted from the first copy's ENDING; copies that differ
in signature or in an output line abort with PAIR_MISMATCH (R302, R304, R307). PAIR_DEADLINE of a copy that has not entered ENDING aborts
both with PAIR_DEADLINE at the deadline (R305). An escalation handover that times out ends in SAFE with cause 3 (R313). The bytes of a
commit take their place in home memory in the order of its write set. Where the spec leaves a point
of these open, it is as log entries 51, 74 and 81 choose. -/
def Obligations.CommitsNumberWriteSets : Prop :=
  (∀ (p : Present) (l : List Present) (i : Inst) (s : State), s.commit.presented = p :: l →
    slotOf s p.stall p.slot = some i → i.phase = .ending → i.record.attr.paired = false → s.commit.stopped = false →
    alive s = true →
    let t := commitInstance i.task i p.at_ s
    exec .commit s = .next t ∧ t.commit.last = s.commit.next ∧ t.commit.next = s.commit.next + 1 ∧
      t.ret.ctr.highestCommit = s.commit.next ∧ (task t i.task).inst = none ∧ t.mode = s.mode) ∧
  (∀ (t : BitVec 7) (a b : Inst) (since : Nat) (s : State), bothCopies s t = some (a, b) → a.phase = .ending →
    b.phase = .ending → s.commit.stopped = false → alive s = true → signature a = signature b → differingLine a b = none →
    pairFirst s t = some since →
    exec (.pairCompare t) s = .next (commitInstance t a (((task s t).inst.bind (fun r => r.firstEnding)).getD since) s)) ∧
  (∀ (t : BitVec 7) (a b : Inst) (s : State), bothCopies s t = some (a, b) → a.phase = .ending → b.phase = .ending →
    s.commit.stopped = false → alive s = true → (signature a ≠ signature b ∨ differingLine a b ≠ none) →
    exec (.pairCompare t) s = .next (pairAbort t fcMismatch
      (b2n (signature a != signature b) + 2 * b2n (differingLine a b).isSome)
      (((differingLine a b).map (fun l => l % 2 ^ 32)).getD 0) s)) ∧
  (∀ (t : BitVec 7) (r : Release) (due : Nat) (s : State), (task s t).inst = some r → r.pairDue = some due →
    pairLate s t = true → alive s = true →
    exec (.pairDeadline t) s = .next (pairAbort t fcPairDeadline 4 0 (advanceNet due s))) ∧
  (∀ (t : BitVec 7) (s : State), s.pair.handover = some (some t) →
    exec .escalationHandoverTimeout s = .next (enterSafe 3 0xFF 0
      (raiseTask t 0x0141 0 (3 + 2 ^ 8 * (task s t).ctr.pairRun) (modPair (fun p => { p with handover := none }) s)))) ∧
  (∀ (n : Nat) (m : Mem) (c : CommitSt), (commitBytes n m c).newest = m.foldl (fun h b => Mem.set h b.1 b.2) c.newest)

/-- What leaves after a commit: the direct outputs of the first commit that waits take their values (R127), but while a claim written
after a role decision is still being stored (R570), which is the model's reading of that rule (log entry 123); an export region in flight is
written into host memory and its newest waiting commit follows (R130, R133), while the module answers the host and has its supply (R638); the first bale of the queue goes to a trained
partner and, of the active unit, is the last one sent (R578). Where the spec leaves a point
of these open, it is as log entries 78 and 92 choose. -/
def Obligations.CommittedDataLeaves : Prop :=
  (∀ (o : OutDue) (l : List OutDue) (s : State), s.commit.direct = o :: l → alive s = true → s.mode.pause = false → claimHolds s = false →
    exec .directOutputApply s = .next (applyDue [o] { s with commit := { s.commit with direct := l } })) ∧
  (∀ (k : Fin 64) (x : Export) (e : Nat × Word × Bytes) (s : State), Tab.find s.commit.exports k.val = some x →
    x.flight = some e → s.host.linkUp = true → served s = true → x.area + x.length + 24 ≤ exportLimit s.host →
    exec (.imageExportWrite k) s = .next { s with
      hostMem := Mem.putAll s.hostMem (s.host.exportBase.toNat + x.area) (exportBytes x e)
      commit := { s.commit with exports := Tab.set s.commit.exports k.val { x with flight := x.due, due := none } } }) ∧
  (∀ (b : BaleSt) (l : List BaleSt) (s : State), s.pair.bales = b :: l → s.pair.trained = true → alive s = true →
    exec .baleSend s = .next { s with pair := { s.pair with
      bales := l, lastSent := some b.bale, lastBale := if s.pair.role = 1 then b.bale.commit.toNat else s.pair.lastBale } })

/-- The boundaries. EDIT_COMMIT_APPLY at the instant that APPLY_LEAD leaves before a base tick within the wait, with no affected instance
open, fixes that tick as the boundary and changes nothing else; at the boundary, when no profile switch is due before it, the edit is
numbered and applied and its command completed, by EDIT_COMMIT_APPLY or, at the latest, by the BASE_TICK of the boundary (R328, R331,
R339; the two steps are the model's, log entry 104). EDIT_COMMIT_TIMEOUT gives it up with TIMEOUT (6) after WAIT_TICKS (R331). PROFILE_VOTE_COMPLETE fixes the switch two cycles on
(R336, R337); PROFILE_VOTE_FAILED of an opposed vote ends it and completes the own request with TIMEOUT (R338). PROFILE_SWITCH brings the
profile of a switch that is due into force under a commit number and completes the own request (R339). Where the spec leaves a point
of these open, it is as log entries 46, 47 and 88 choose. -/
def Obligations.EditsAndProfilesTakeEffectAtTheirBoundary : Prop :=
  (∀ (k : Fin 8) (rb : Bool) (e l : Nat) (p : EditPackage) (s : State), s.proj.pend = some (k, rb, e, l) →
    s.proj.pkg = some p → e ≤ nextTick s → nextTick s ≤ l → affectedOpen s p.affected = false →
    s.time.task ≤ editInstant s (pendMap p rb) → alive s = true →
    s.proj.boundary ≠ some (nextTick s) →
    let a := advanceTask (editInstant s (pendMap p rb)) s
    exec .editCommitApply s = .next { a with proj := { a.proj with boundary := some (nextTick a) } }) ∧
  (∀ (k : Fin 8) (rb : Bool) (e l : Nat) (p : EditPackage) (s : State), s.proj.pend = some (k, rb, e, l) →
    s.proj.pkg = some p → s.proj.boundary = some (nextTick s) →
    let done (a : State) : State := completeWait k (fun w => w = .edit) 0 a.commit.next (queueBale 2 0 a.commit.next []
      (raise 0x0000 0x0112 a.commit.next
        (p.editId.toNat + 2 ^ 32 * (allTasks.filter (fun t => p.affected.getLsbD t.toNat)).length + 2 ^ 40 * b2n rb)
        (applyEdit p rb a.commit.next
          { (numberCommit a).2 with proj := { a.proj with pend := none, boundary := some (nextTick a) } })))
    editAtTick s = done s ∧
    (switchDue s = false → alive s = true →
      exec .editCommitApply s = .next (done (advanceTo (tickTime s (nextTick s)) s))) ∧
    (switchDue s = true → exec .editCommitApply s = .next s)) ∧
  (∀ (k : Fin 8) (rb : Bool) (e l : Nat) (s : State), s.proj.pend = some (k, rb, e, l) → l < nextTick s →
    exec .editCommitTimeout s =
      .next (completeWait k (fun w => w = .edit) 6 0 { s with proj := { s.proj with pend := none } })) ∧
  (∀ (v : Vote) (s : State), s.prof.vote = some v → v.agreed = none → v.opposed = none → windowClosed s v = true →
    s.ihloz.members &&& ~~~v.voted = 0 →
    exec .profileVoteComplete s = .next (wantTarget
      (setVote (some { v with agreed := some (s.ihloz.cycle + 2), agreedFrom := s.ihloz.cycle + 1 }) s))) ∧
  (∀ (v : Vote) (n : BitVec 5) (s : State), s.prof.vote = some v → v.agreed = none → v.opposed = some n →
    let t := raise 0x0000 0x0114 0 (v.target.toNat + 2 ^ 8 + 2 ^ 16 * n.toNat) { s with
      prof := { s.prof with vote := none, ended := some (v.target, v.requester) }, chan := { s.chan with unpin := true } }
    exec .profileVoteFailed s = .next (match v.ring with
      | some k => completeWait k (fun w => w = .profile) 6 0 t
      | none => t)) ∧
  (∀ (t : BitVec 3) (c : Nat) (k : Option (Fin 8)) (p : Profile) (s : State), pendingSwitch s = some (t, c, k) →
    Tab.find s.prof.table t.toNat = some p → switchDue s = true → s.mode.mode ≠ mTrack → alive s = true →
    let a := advanceTo (tickTime s (nextTick s) - 2) s
    let n := a.commit.next
    let b := queueBale 3 0 n [] (applyProfile p n c k.isSome (numberCommit a).2)
    exec .profileSwitch s = .next (match k with
      | some k => completeWait k (fun w => w = .profile) 0 c b
      | none => b))

/-- A wanted entry that the cache has room for is loaded from the host's answer, or from the entry store when the host cannot answer (R383, R384, R403); a
channel whose staleness time has passed is stale (R395). Where the spec leaves a point
of these open, it is as log entries 75, 76 and 115 choose. -/
def Obligations.ChannelEntriesAreLoadedAndGrowStale : Prop :=
  (∀ (c : BitVec 12) (e : Bytes) (s : State), has s.chan.loading c.toNat = true → cacheRoom s = true → alive s = true →
    hostEntry s c.toNat = true →
    exec (.cacheLoad c (some e)) s = .next (endTaskLoad (refreshLayout (loadFromHost c.toNat e s)))) ∧
  (∀ (c : BitVec 12) (r : Option Bytes) (s : State), has s.chan.loading c.toNat = true → cacheRoom s = true → alive s = true →
    hostEntry s c.toNat = false →
    exec (.cacheLoad c r) s = .next (endTaskLoad (refreshLayout (loadFromStore c.toNat s)))) ∧
  (∀ (c : BitVec 12) (e : Bytes) (s : State), entryOf s c.toNat = some e → alive s = true → inStartUp s = false →
    staleDue s c.toNat e = true →
    exec (.channelStale c) s =
      .next (refreshChan { s with chan := { s.chan with stale := addTo s.chan.stale c.toNat } } c.toNat))

/-- The Yardmaster's operations. DRAIN_FENCE_COMPLETE takes markers of a fence in progress, and with the last of the seven sources' the fence
is complete and the task placed again if its stall has failed (R157, R158, R166); RESULT_FORWARDED counts a result with the epoch before,
from a source whose marker has not arrived (R154, R157). HOME_LINE_MOVE takes a line whose task has no fence to its new place, a barn that is
ON and has room or the global image memory that has room (R22, R152); the write may lift bad lines of the memory it goes to, and of no
other (R168; which ones is free, log entry 113). A barn wakes in the order of Table 5, stalls and solvers are ungated and gated, and a
barn that holds nothing and is not needed soon goes off, each within the budget of power operations (R169, R170). Where the spec leaves a point
of these open, it is as log entries 18, 20, 97 and 103 choose. -/
def Obligations.PlacementAndPowerOperationsAct : Prop :=
  (∀ (t m : BitVec 7) (s : State), (task s t).fence ≠ none → alive s = true →
    ((task s t).markers ||| m ≠ 127 →
      exec (.drainFenceComplete ⟨t, m⟩) s = .next (modTask t (fun k => { k with markers := (task s t).markers ||| m }) s)) ∧
    ((task s t).markers ||| m = 127 → exec (.drainFenceComplete ⟨t, m⟩) s =
      .next (replaceTask false t (modTask t (fun k => { k with fence := none, markers := 0, inFlight := 0 }) s)))) ∧
  (∀ (t : BitVec 7) (src : Fin 7) (tag : Half) (s : State), (task s t).fence ≠ none → alive s = true →
    tag + 1 = (task s t).epoch → (task s t).markers.getLsbD src.val = false →
    exec (.resultForwarded ⟨t, src, tag, 0⟩) s = .next (modTask t (fun k => { k with inFlight := k.inFlight + 1 }) s)) ∧
  (∀ (line : Nat) (b : Fin 4) (s : State), s.yard.moves = [(line, .barn b)] → lineWaits s line = false → alive s = true →
    (barn s b).power = 2 → barnFits s (Tab.set s.yard.homeLoc line b) s.yard.ringLoc b = true →
    exec (.homeLineMove line) s = .next (liftBad (b.val + 1) { s with yard := { s.yard with
      moves := [], homeLoc := Tab.set s.yard.homeLoc line b } })) ∧
  (∀ (line : Nat) (s : State), s.yard.moves = [(line, .global)] → lineWaits s line = false → alive s = true →
    globalFits s (Tab.del s.yard.homeLoc line) = true →
    exec (.homeLineMove line) s = .next (liftBad 0 { s with yard := { s.yard with
      moves := [], homeLoc := Tab.del s.yard.homeLoc line } })) ∧
  (∀ (m : Nat) (s : State), liftBad m s = { s with free := (liftBad m s).free, yard := { s.yard with bad := (liftBad m s).yard.bad } } ∧
    ∀ x ∈ s.yard.bad, x.1 ≠ m → x ∈ (liftBad m s).yard.bad) ∧
  (∀ (b : Fin 4) (s : State), (barn s b).present = true → (barn s b).power = 0 → alive s = true →
    ∃ t, exec (.wakeDecision b) s = .next t ∧ (barn t b).power = 1 ∧ (barn t b).wake = 1 ∧
      t.yard.wakesTotal = min (s.yard.wakesTotal + 1) (2 ^ 32 - 1) ∧
      t.yard.offDue = s.yard.offDue.filter (fun x => x != b) ∧ t = { s with yard := t.yard, barns := t.barns }) ∧
  (∀ (b : Fin 4) (s r : State), alive s = true → (barn s b).power = 1 →
    ((barn s b).wake = 1 → powerOp 2000 200 s = some r →
      exec (.barnPowerSwitchOn b) s = .next (modBarn b (fun x => { x with wake := 2 }) r)) ∧
    ((barn s b).wake = 2 → powerOp 6000 10 s = some r →
      exec (.barnPllLock b) s = .next (modBarn b (fun x => { x with wake := 3 })
        { r with yard := { r.yard with bad := r.yard.bad.filter (fun x => x.1 != b.val + 1) } })) ∧
    ((barn s b).wake = 3 → powerOp 3000 500 s = some r →
      exec (.barnClockRamp b) s = .next (modBarn b (fun x => { x with wake := 4, power := 2 }) r))) ∧
  (∀ (u : StallId) (s r : State), alive s = true → (barn s u.barn).power = 2 → (stall s u).ungated = false →
    (stall s u).state ≠ 4 → powerOp 500 300 s = some r →
    exec (.stallUngate u) s = .next (modStall u (fun x => { x with ungated := true }) r)) ∧
  (∀ (b : Fin 4) (s r : State), alive s = true → (barn s b).power = 2 → (barn s b).solverOn = false →
    (barn s b).solverOut = false → powerOp 500 400 s = some r →
    exec (.solverUngate b) s = .next (modBarn b (fun x => { x with solverOn := true }) r)) ∧
  (∀ (u : StallId) (s r : State), alive s = true → (stall s u).ungated = true → residents s u = [] →
    powerOp 500 300 s = some r →
    exec (.stallGate u.barn (some u.stall)) s = .next (modStall u (fun x => { x with ungated := false }) r)) ∧
  (∀ (b : Fin 4) (s r : State), alive s = true → (barn s b).solverOn = true → (barn s b).run = none → (barn s b).queue = [] →
    powerOp 500 400 s = some r →
    exec (.stallGate b none) s = .next (modBarn b (fun x => { x with solverOn := false }) r)) ∧
  (∀ (b : Fin 4) (s r : State), alive s = true → (barn s b).power = 2 → s.yard.offDue.contains b = true →
    nothingPlaced s b = true → plannedSoon s b = false → reserveStays s b = true → hot s = false → powerOp 7000 300 s = some r →
    ∃ t, exec (.barnPowerOff b) s = .next t ∧ (barn t b).power = 0 ∧ (barn t b).wake = 0 ∧
      ∀ u : StallId, u.barn = b → (stall t u).mem = [] ∧ (stall t u).ungated = false) ∧
  (∀ (ns mA : Nat) (s r : State), powerOp ns mA s = some r → r = { s with yard := { s.yard with ledger := r.yard.ledger } })

/-- Ageing and faults of stalls and solvers. FARRIER_READ keeps the readings of stalls and solvers that are in service (R161, R162, R165):
a stall is reported AGED once when it first reads below 12 half per cent, and becomes DEGRADED below 6; a solver read below 6 with no call
running is retired with cause 0.
STALL_RETIRED retires a DEGRADED stall that holds nothing; STALL_FAILED of a stall without instances retires it at once (R36, R164, R166); a retired stall is RETIRED and leaves committed data as it is. SOLVER_RETIRED on a
failure takes the solver out of service with its calls (R165). GROOM_TEST of a stall that may be tested degrades it when it fails (R167).
GROOM_SCRUB keeps the line that it cannot correct out of use and reports it, ends in SAFE with cause 10 for committed state, and aborts the
transaction of a running instance whose write-buffer entry it is with BUFFER_ECC (R112, R168, R695). THERMAL_HIGH is raised when a barn's sensor reaches 105 °C (R176). Where the spec leaves a point
of these open, it is as log entries 22, 23, 83 and 97 choose. -/
def Obligations.HealthCommandsRetireAndReport : Prop :=
  (∀ (u : StallId) (m : Nat) (s : State), alive s = true → (barn s u.barn).present = true →
    exec (.farrierRead [(u, m)] []) s = .next (readMargin u m s)) ∧
  (∀ (u : StallId) (m : Nat) (s : State), (stall s u).state ≠ 4 → 12 ≤ m →
    readMargin u m s = modStall u (fun x => { x with margin := m }) s) ∧
  (∀ (u : StallId) (m : Nat) (s : State), (stall s u).state ≠ 4 → m < 12 →
    let from_ := 0x2010 + 8 * u.barn.val + u.stall.val
    let t := modStall u (fun x => { x with margin := m, aged := true }) s
    let r := if (stall s u).aged then t else raise from_ 0x0210 0 m t
    (6 ≤ m ∨ (stall s u).state = 3 → readMargin u m s = r) ∧
    (m < 6 → (stall s u).state ≠ 3 →
      readMargin u m s = raise from_ 0x0211 0 m (modStall u (fun x => { x with state := 3, byTest := false }) r))) ∧
  (∀ (b : Fin 4) (m : Nat) (s : State), alive s = true → (barn s b).present = true → (barn s b).solverOut = false →
    let t := modBarn b (fun y => { y with solverMargin := m }) s
    exec (.farrierRead [] [(b, m)]) s = .next (if m < 6 ∧ (barn s b).run = none then retireSolver b 0 t else t)) ∧
  (∀ (u : StallId) (s : State), (stall s u).state = 3 → residents s u = [] → unassigned s u = true → alive s = true →
    exec (.stallRetired u) s = .next (retireStall u (b2n (stall s u).byTest) s)) ∧
  (∀ (u : StallId) (d : Byte) (s : State), (stall s u).state ≠ 4 → (barn s u.barn).present = true → 1 ≤ d.toNat →
    d.toNat ≤ 4 → alive s = true → residents s u = [] →
    exec (.stallFailed u d) s = .next (retireStall u 2 (raise (0x2010 + 8 * u.barn.val + u.stall.val) 0x0212 0 d.toNat
      (modStall u (fun x => { x with mem := [] }) s)))) ∧
  (∀ (u : StallId) (c : Nat) (s : State), (stall (retireStall u c s) u).state = 4 ∧ (retireStall u c s).commit = s.commit) ∧
  (∀ (b : Fin 4) (s : State), (barn s b).present = true → (barn s b).solverOut = false → alive s = true →
    exec (.solverRetired b 2) s = .next (retireSolver b 2 s)) ∧
  (∀ (b : Fin 4) (c : Nat) (s : State), (barn (retireSolver b c s) b).solverOut = true ∧
    (barn (retireSolver b c s) b).run = none ∧ (barn (retireSolver b c s) b).queue = []) ∧
  (∀ (u : StallId) (ok : Bool) (s : State), testable s u = true → alive s = true →
    exec (.groomTest u ok) s = .next (if ok then modStall u (fun x => { x with mem := [] }) s
      else degrade u true (modStall u (fun x => { x with mem := [] }) s))) ∧
  (∀ (m : Fin 5) (a : Word) (s : State), alive s = true →
    exec (.groomScrub .clean) s = .next s ∧ exec (.groomScrub .corrected) s = .next s ∧
    exec (.groomScrub .committed) s = .next (faultSafe 10 s) ∧
    ((m.val, lineOf a.toNat) ∉ s.yard.bad →
      exec (.groomScrub (.memory m a)) s = .next (raise 0x2000 0x0222 0 (a.toNat + 2 ^ 32 * m.val)
        { s with yard := { s.yard with bad := s.yard.bad ++ [(m.val, lineOf a.toNat)] } }))) ∧
  (∀ (u : StallId) (f : Fin 4) (i : Inst) (s : State), alive s = true → slotOf s u f = some i → i.phase = .running →
    exec (.groomScrub (.bufferEntry u f)) s = .next (selfAbort u f fcBufferEcc 0 s)) ∧
  (∀ (u : StallId) (a : Half) (s : State), alive s = true →
    let b := freeBytes 64 s
    exec (.groomScrub (.localData u a)) s = .next (raise 0x2000 0x0222 0 (a.toNat + 2 ^ 32 * 5)
      (modStall u (fun x => { x with mem := Mem.putAll x.mem (lineOf a.toNat) b.1 }) b.2))) ∧
  (∀ (b : Fin 4) (temp : Half) (s : State), (barn s b).present = true → alive s = true →
    let t := modBarn b (fun x => { x with temp := temp.toInt }) s
    (840 ≤ temp.toInt → (barn s b).temp < 840 →
      exec (.thermalHigh b temp) s = .next (raise 0x2000 0x0221 0 (temp.toNat + 2 ^ 16 * b.val) t)) ∧
    (temp.toInt < 840 ∨ 840 ≤ (barn s b).temp → exec (.thermalHigh b temp) s = .next t))

/-- Digital inputs: a sample moves the clocks to its instant and gives every input of its group its level (R417 to R423); a wetting pulse
moves them to its instant; a phase of a counting input of 4 µs and more is registered, one
below 2 µs is not and one between may be, a registered rise after INVERT counts, and a phase too short is noted; the ends of the chatter,
stuck and overrate intervals move the clocks to their instants and change their own bits, and the channel's state is reported (R420, R425,
R427). That a row moves the clocks on to its instant is an inference (log entry 4). Where the spec leaves a point
of these open, it is as log entries 53 and 89 choose. -/
def Obligations.DigitalInputsFollowTheirSamples : Prop :=
  (∀ (g : Fin 8) (r : DiReading) (s : State), s.field.sampling = true → s.mode.pause = false →
    s.power.stopped = false → s.time.running = true →
    let t := nextSample s g.val
    let limits := sampleLimits s g.val
    exec (.diSample g r) s = .next ((groupInputs g.val r).foldl (fun s x => refreshChan (sampleInput limits x.1 x.2 t s) x.1)
      (modDiGrp g.val (sampleGroup limits.1 r t) (advanceTo t s)))) ∧
  (∀ (g : Fin 8) (s : State), wets s g.val = true → s.time.running = true → alive s = true →
    exec (.wettingPulse g) s =
      .next (modDiGrp g.val (fun k => { k with wetting := some (nextPulse s g.val) }) (advanceTo (nextPulse s g.val) s))) ∧
  (∀ (n : Fin 8) (level : Bool) (ns : Nat) (e : Bytes) (s : State), counts s n.val = true → alive s = true →
    diUsable s n.val = some e →
    let rises := level ≠ bitAt e 16 0 ∧ (s.field.di[n.val]).phase = some (bitAt e 16 0)
    (4000 ≤ ns → exec (.countEdge n ⟨level, ns⟩) s = .next (refreshChan (modDi n.val (fun d => { d with
      phase := some level, count := if rises then d.count + 1 else d.count }) s) n.val)) ∧
    (ns < 2000 → exec (.countEdge n ⟨level, ns⟩) s = .next (refreshChan (modDi n.val (fun d => { d with
      overrate := true, shortAt := nowUs s }) s) n.val)) ∧
    (2000 ≤ ns → ns < 4000 → ∃ reg : Bool, exec (.countEdge n ⟨level, ns⟩) s = .next (refreshChan (modDi n.val (fun d => { d with
      phase := if reg then some level else d.phase, count := if reg ∧ rises then d.count + 1 else d.count
      overrate := true, shortAt := nowUs s }) { s with free := s.free + 1 }) n.val))) ∧
  (∀ (n : Fin 64) (e : Bytes) (s : State), diUsable s n.val = some e → (s.field.di[n]).chatter = true → alive s = true →
    exec (.chatterWindowExpire n) s = .next (refreshChan (modDi n.val (fun d => { d with chatter := false, flips := [] })
      (advanceTo ((s.field.di[n]).changedAt + 1000 * fieldAt e 20 2) s)) n.val)) ∧
  (∀ (n : Fin 64) (e : Bytes) (s : State), diUsable s n.val = some e → bitAt e 16 4 = true →
    (s.field.di[n]).level ≠ none → alive s = true →
    exec (.stuckTimeout n) s = .next (refreshChan (modDi n.val (fun d => { d with stuck := true })
      (advanceTo ((s.field.di[n]).changedAt + 1000000 * fieldAt e 22 2) s)) n.val)) ∧
  (∀ (n : Fin 8) (s : State), (s.field.di[n.val]).overrate = true → alive s = true →
    exec (.countOverrateExpire n) s = .next (refreshChan (modDi n.val (fun d => { d with overrate := false })
      (advanceTo ((s.field.di[n.val]).shortAt + 100000) s)) n.val))

/-- Digital outputs: a read-back sample keeps what it measures and goes through every output; limiting, thermal shutdown with its retry, group overcurrent with its
retry and a low supply set and clear their bits, at the instants that their intervals fix, open and close the outputs concerned, and the
channels' states are reported (R430 to R436). Where the spec leaves a point
of these open, it is as log entries 4, 53 and 89 choose. -/
def Obligations.DigitalOutputsProtectThemselves : Prop :=
  (∀ (r : DoReading) (s : State), s.field.sampling = true → alive s = true →
    let t := takeMeasured r s
    exec (.readbackSample r) s = .next ((List.finRange 64).foldl (readbackOne r.pins) t) ∧
    (∀ g : Fin 8, g.val < r.vfDv.length → some (t.field.doGrp[g]).vf = r.vfDv[g.val]?) ∧
    (∀ g : Fin 8, g.val < r.groupMa.length → some (t.field.doGrp[g]).current = r.groupMa[g.val]?) ∧
    (∀ n : Fin 64, n.val < r.tempC.length → some (t.field.dout[n]).temp = r.tempC[n.val]?)) ∧
  (∀ (n : Fin 64) (s : State), alive s = true →
    (driven s.field n.val = true → exec (.doCurrentLimit n) s =
      .next (refreshChan (modDo n.val (fun d => { d with limiting := true }) s) (64 + n.val))) ∧
    exec (.currentLimitLeft n) s = .next (refreshChan (modDo n.val (fun d => { d with limiting := false }) s) (64 + n.val))) ∧
  (∀ (n : Fin 64) (s : State), alive s = true → driven s.field n.val = true →
    let e := (entryOf s (64 + n.val)).getD []
    exec (.doThermalShutdown n) s = .next (refreshChan (withEdges (modDo n.val (fun d => { d with
      thermal := if bitAt e 16 0 then 2 else 1, cooled := false, waited := false, shutAt := nowUs s })) s) (64 + n.val))) ∧
  (∀ (n : Fin 64) (s : State), alive s = true → (s.field.dout[n]).thermal = 2 →
    let e := (entryOf s (64 + n.val)).getD []
    ((s.field.dout[n]).waited = false → exec (.doThermalRetry n) s = .next (refreshChan (withEdges (modDo n.val (fun d =>
        if d.cooled && d.applied then { d with waited := true, thermal := 0 } else { d with waited := true }))
      (advanceTo ((s.field.dout[n]).shutAt + 100000 * fieldAt e 17 1) s)) (64 + n.val))) ∧
    exec (.doThermalCooled n) s = .next (refreshChan (withEdges (modDo n.val (fun d =>
      if d.waited && d.applied then { d with cooled := true, thermal := 0 } else { d with cooled := true })) s) (64 + n.val))) ∧
  (∀ (g : Fin 8) (s : State), alive s = true →
    ((s.field.doGrp[g]).open_ = false → exec (.groupOvercurrent g) s = .next (refreshDoGroup g.val
      (withEdges (modDoGrp g.val (fun x => { x with
        tripped := true, open_ := true, tripAt := nowUs s, trips := min (x.trips + 1) 65535 })) s))) ∧
    ((s.field.doGrp[g]).open_ = true →
      let a := advanceTo ((s.field.doGrp[g]).tripAt + 1000000) s
      exec (.groupRetry g) s =
        .next (refreshDoGroup g.val (withEdges (modDoGrp g.val (fun x => { x with open_ := false, retryAt := nowUs a })) a))) ∧
    ((s.field.doGrp[g]).open_ = false → (s.field.doGrp[g]).tripped = true → exec (.groupOvercurrentLeft g) s =
      .next (refreshDoGroup g.val (modDoGrp g.val (fun x => { x with tripped := false })
        (advanceTo ((s.field.doGrp[g]).retryAt + 500) s)))) ∧
    (∀ v : Half,
      let at_ := fieldAt (block s 0x0302) (8 + 4 * g.val) 2
      exec (.doSupplyLow g v) s = .next (refreshDoGroup g.val (modDoGrp g.val (fun x => { x with
        vf := v, low := decide (v.toNat < at_) || (x.low && decide (v.toNat ≤ at_ + 10)) }) s))))

/-- Current loops: a conversion moves the clocks to its end and converts every channel (R439); an AO whose link is dead de-
energises (R448); a HART attempt sends the characters of preambles, request and check byte (R454), its answer completes the transaction, and its
failures are taken under their cause, a stray one counted where no transaction is in progress (R456 to R461). That a row moves the clocks on to its instant is an inference (log
entry 4). Where the spec leaves a point
of these open, it is as log entries 54, 55 and 100 choose. -/
def Obligations.LoopsConvertAndTransact : Prop :=
  (∀ (r : List LoopReading) (s : State), hasLoop s = true → s.field.sampling = true → s.power.stopped = false →
    s.time.running = true →
    let t := nextConversion s
    exec (.loopConversion r) s = .next (((List.range 32).zip r).foldl (convertOne t)
      { advanceTo t s with field := { s.field with convLast := t, convEnd := none } })) ∧
  (∀ (n : Fin 16) (s : State), hasLoop s = true → alive s = true →
    exec (.aoLinkTimeout n) s = .next (aoJump (16 + n.val) (modLoop (16 + n.val) (fun l => { l with linkOff := true }) s))) ∧
  (∀ (n : Fin 32) (h : HartOp) (s : State), (s.loops[n]).hart = some h → h.sent = false → alive s = true →
    s.mode.pause = false → loopOut s.loops[n] = false → reservoirLow s n.val = false →
    exec (.hartAttempt n) s = .next (modLoop n.val (fun l => { l with
      hart := some { h with made := h.made + 1, sent := true }
      hartTx := (List.replicate h.preambles 0xFF#8 ++ asSent h.request ++ [xorAll (asSent h.request)]).map hartChar }) s)) ∧
  (∀ (n : Fin 32) (h : HartOp) (b : Busy) (f : HartFrame) (s : State), (s.loops[n]).hart = some h → h.sent = true →
    alive s = true → responseGood (asSent h.request) f = true → (ring s h.ring).busy = some b → b.wait = .hart n → b.discard = false → b.misuse = false →
    exec (.hartResponse n f) s = .next (complete h.ring b.tag 0 ((frameChars f).take (f.raw.length - 1)).length
      (hostWrite (b.bufAddr.toNat + 8) ((frameChars f).take (f.raw.length - 1)) (modLoop n.val
        (fun l => { l with hart := none, hartTx := [], hartOk := min (l.hartOk + 1) 65535 }) s)))) ∧
  (∀ (n : Fin 32) (h : HartOp) (f : HartFrame) (s : State), (s.loops[n]).hart = some h → alive s = true →
    (h.sent = true → responseGood (asSent h.request) f = false → exec (.hartResponse n f) s = .next (hartFail n.val 2 s)) ∧
    (h.sent = false → s.mode.pause = false → loopOut s.loops[n] = true →
      exec (.hartAttempt n) s = .next (hartFail n.val 5 s))) ∧
  (∀ (n : Fin 32) (s : State), alive s = true →
    (attemptSent s n = some true → exec (.hartNoResponse n) s = .next (hartFail n.val 1 s)) ∧
    (attemptSent s n = some false → exec (.hartBusBusy n) s = .next (hartFail n.val 3 s)) ∧
    (attemptSent s n = some false → reservoirLow s n.val = true →
      exec (.hartNoEnergy n) s = .next (hartFail n.val 4 s)) ∧
    (hasLoop s = true → (s.loops[n]).hart = none → exec (.hartStray n) s =
      .next (modLoop n.val (fun l => { l with hartStray := min (l.hartStray + 1) 255 }) s)))

/-- The Ihloz node: the first valid copy in a slot of the node's mode and cycle is delivered, a second one compared (R468, R495), an invalid
copy counted (R500), and what the copy of channel B delivered carries beside its data is acted on when no copy of A has come by the slot's end
(log entry 14); payloads freeze for their cycle and leave in their slots, assembled as they leave where nothing was frozen (log entry 122), a
copy on each channel in use, freight from the head of its queue (R466, R468, R497, R498, R501); an empty slot of another node is counted (R491); the correction sets the rate within 500 ppm (R483); each cycle start counts one cycle on (R486); a node in
LISTEN or BACKOFF that may cold-start sends its frame when T_WAIT ends, and a collision marker makes a starting node back off (R488, R489).
A marker on a port of the module's star is passed on, but from no cut port (R479, R480). When a commanded row falls and what a frame's loss
leaves are the model's readings (log entries 4 and 14). Where the spec leaves a point
of these open, it is as log entries 40 and 112 choose. -/
def Obligations.TheIhlozNodeFollowsItsSchedule : Prop :=
  (∀ (chB : Bool) (f : IhlozFrame) (a : Int) (s : State), nodeOn s = true → chUsed s chB = true → s.ihloz.state ≠ 0 →
    f.header.sender ≠ ownNode s → reaches s chB f.header.slot = true →
    let u := advanceIhloz a s
    let v := validAdvances chB f a (checkTag f (modIhloz (fun n => { n with heard := true }) u))
    (copyValid u chB f a = false → exec (.ihlozFrameReceive chB f a) s = .next (copyInvalid f u)) ∧
    (copyValid u chB f a = true → (synced v && f.header.mode = v.ihloz.mode && f.header.cycle.toNat = v.ihloz.cycle) = true →
      (v.ihloz.rx = none → exec (.ihlozFrameReceive chB f a) s = .next (deliver chB f a v)) ∧
      (∀ r : SlotRx, v.ihloz.rx = some r → r.slot = f.header.slot → r.payload ≠ none →
        exec (.ihlozFrameReceive chB f a) s = .next (secondCopy chB f a r v)))) ∧
  (∀ (slot : Byte) (c : Sched) (x : Slot) (s : State), ownSlot s slot = some (c, x) → nodeOn s = true →
    (synced s = true ∨ s.ihloz.state = 2) → x.freight = false →
    exec (.payloadFreeze slot) s = .next { s with ihloz := { s.ihloz with
      frozen := Tab.set s.ihloz.frozen slot.toNat
        (if actionPoint c x < 500 then s.ihloz.cycle + 1 else s.ihloz.cycle, assemble s slot.toNat x) } }) ∧
  (∀ (slot : Byte) (c : Sched) (x : Slot) (a b : Bool) (s : State), ownSlot s slot = some (c, x) → sends s = true →
    let u := advanceIhloz (cycleTick s + (actionPoint c x : Nat)) s
    (∀ pay : Bytes, x.freight = false →
      (Tab.find s.ihloz.frozen slot.toNat = some (s.ihloz.cycle, pay) ∧ pay.length = x.length ∨
        Tab.find s.ihloz.frozen slot.toNat = none ∧ pay = assemble u slot.toNat x) →
      let h := ownHeader u c slot.toNat 0 x.length x.sync
      ∃ t, exec (.ihlozSlotSend slot a b) s = .next t ∧
        t.ihloz.lastSent = (if chUsed s false then some (frameSent h pay) else s.ihloz.lastSent) ∧
        t.ihloz.lastSentB = (if chUsed s true then some (frameSent { h with channelB := true } pay) else s.ihloz.lastSentB)) ∧
    (x.freight = true →
      let h := ownHeader u c slot.toNat 2 x.length x.sync
      ∃ t, exec (.ihlozSlotSend slot a b) s = .next t ∧ t.ihloz.freightQ = s.ihloz.freightQ.drop 1 ∧
        t.ihloz.lastSent = (if chUsed s false then some (frameSent h (freightPayload u x)) else s.ihloz.lastSent) ∧
        t.ihloz.lastSentB =
          (if chUsed s true then some (frameSent { h with channelB := true } (freightPayload u x)) else s.ihloz.lastSentB))) ∧
  (∀ (slot : Byte) (c : Sched) (x : Slot) (s : State), schedNow s = some c → c.slots[slot.toNat]? = some x →
    nodeOn s = true → synced s = true → x.sender ≠ ownNode s → s.ihloz.rx = none →
    ∃ t, exec (.ihlozSlotEnd slot) s = .next t ∧
      Tab.getD t.ihloz.empty x.sender.toNat 0 = min (Tab.getD s.ihloz.empty x.sender.toNat 0 + 1) 65535) ∧
  (∀ (slot : Byte) (c : Sched) (x : Slot) (r : SlotRx) (f : IhlozFrame) (s : State), schedNow s = some c →
    c.slots[slot.toNat]? = some x → nodeOn s = true → synced s = true → x.sender ≠ ownNode s → s.ihloz.rx = some r →
    r.slot = slot → r.payload ≠ none → r.held = some f →
    let t := actOnCopy f { s with ihloz := { s.ihloz with rx := some { r with held := none } } }
    exec (.ihlozSlotEnd slot) s = .next { t with ihloz := { t.ihloz with rx := none } }) ∧
  (∀ (c : Sched) (s : State), schedNow s = some c → nodeOn s = true → (synced s = true ∨ s.ihloz.state = 2) →
    2 * c.guard_ ≥ (midpoint2 s.ihloz.devs).natAbs →
    exec .clockSyncCorrection s = .next { s with ihloz := { s.ihloz with
      lastM := midpoint2 s.ihloz.devs * 5, idleNs := midpoint2 s.ihloz.devs * 5
      ratePpb := max (-500000) (min 500000 (s.ihloz.ratePpb +
        roundDiv (midpoint2 s.ihloz.devs * 5 * 1000000) (8 * c.cycleUs)))
      offSync := false, devs := [] } }) ∧
  (∀ (off : Int) (c : Sched) (s : State), schedNow s = some c → nodeOn s = true → (synced s = true ∨ s.ihloz.state = 2) →
    let u := settleCopy s
    let n := newCycle c (slotless c (cycleEnd u))
    let b := advanceIhloz (cycleTick n) n
    let a := cycleState (keptOld (if b.star.sync
      then (List.finRange 8).foldl portCycle { b with star := { b.star with forwarding := none } } else b))
    (s.ihloz.rx = none → u = s) ∧ b.ihloz.cycle = u.ihloz.cycle + 1 ∧
    b.ihloz.cycleAt = u.ihloz.cycleAt + 1000 * c.cycleUs + u.ihloz.idleNs ∧
    exec (.ihlozCycleStart off) s = .next (if a.ihloz.state = 5 || a.ihloz.state = 6 then align off a else a)) ∧
  (∀ (c : Sched) (k : Nat) (s : State), Tab.find s.ihloz.scheds (startMode s) = some c → firstSlot c (ownNode s) = some k →
    nodeOn s = true → bitAt (block s 0x0401) 0 3 = true → (s.ihloz.state = 1 ∨ s.ihloz.state = 3) →
    ∃ (t : State) (h : IhlozHeader), exec (.ihlozTWaitExpire true true) s = .next t ∧ t.ihloz.cycle = 0 ∧
      t.ihloz.lastSent = (if chUsed s false then some (frameSent h []) else s.ihloz.lastSent) ∧
      t.ihloz.lastSentB = (if chUsed s true then some (frameSent { h with channelB := true } []) else s.ihloz.lastSentB) ∧
      h.type = 1 ∧ h.cycle = 0 ∧ h.sender = ownNode s ∧ h.slot.toNat = k % 256) ∧
  (∀ (h : IhlozHeader) (pay : Bytes), (frameSent h pay).header = h ∧ (frameSent h pay).payload = pay) ∧
  (∀ (a b : Bool) (p : Option (Fin 8)) (s : State),
    let onA := a && chUsed s false
    let onB := b && chUsed s true
    nodeOn s = true → (onA || onB) = true → (s.ihloz.state = 1 ∨ s.ihloz.state = 2 ∨ s.ihloz.state = 3) →
    exec (.collisionMarkerReceive ⟨a, b⟩ p) s = .next (backOff onA onB false (passMarker p s))) ∧
  (∀ (p : Fin 8) (s : State), starForwards s = true → s.star.sync = false → isLink s p.val = true →
    exec (.collisionMarkerReceive ⟨false, false⟩ (some p)) s = .next
      (if (s.star.ports[p]).cut = true ∨ (s.star.ports[p]).cutCont = true then s else { s with star := { s.star with
        sentTo := forwardPorts s p, collisions := min (s.star.collisions + 1) (2 ^ 32 - 1) } }))

/-- The star, its clocks at the tick of the delimiter: in sync it forwards a port in the port's window to the ports of R478 and counts a
violation outside it; unsynchronised it forwards the first port that is not cut, and a second one at the same tick is a collision, whose
marker goes to every port, the own node's among them (R474), while one more than 100 µs later is forwarded; the cut of a transmission that
leaves its window, the cut of a continuous transmitter and its end (R477 to R480). Where the spec leaves a point
of these open, it is as log entries 14 and 112 choose. -/
def Obligations.TheStarForwardsAndCuts : Prop :=
  (∀ (p : Fin 8) (tick : Nat) (c : Sched) (s : State), starForwards s = true → s.star.sync = true → schedNow s = some c →
    let u := advanceIhloz tick s
    (windowOpen u c p tick = false → exec (.starDelimiterDetect p tick) s = .next (violation p u)) ∧
    (windowOpen u c p tick = true → (s.star.ports[p]).cut = false → (s.star.ports[p]).cutCont = false →
      exec (.starDelimiterDetect p tick) s = .next { u with star := { s.star with
        forwarding := some (p.castSucc, tick), sentTo := forwardPorts s p } })) ∧
  (∀ (p : Fin 8) (tick : Nat) (s : State), starForwards s = true → s.star.sync = false → (s.star.ports[p]).cut = false →
    (s.star.ports[p]).cutCont = false →
    let u := advanceIhloz tick s
    let take : Host.Outcome State Fault Refusal := .next { u with star := { s.star with
      forwarding := some (p.castSucc, tick), sentTo := forwardPorts s p } }
    (s.star.forwarding = none → exec (.starDelimiterDetect p tick) s = take) ∧
    (∀ (q : Fin 9) (at_ : Int), s.star.forwarding = some (q, at_) → 10000 < tick - at_ →
      exec (.starDelimiterDetect p tick) s = take) ∧
    (∀ q : Fin 9, q ≠ p.castSucc → s.star.forwarding = some (q, (tick : Int)) → exec (.starDelimiterDetect p tick) s =
      .next { u with star := { s.star with
        forwarding := none, sentTo := 0x1FF, collisions := min (s.star.collisions + 1) (2 ^ 32 - 1) } })) ∧
  (∀ (p : Fin 8) (tick : Int) (s : State), starForwards s = true → s.star.sync = true →
    s.star.forwarding = some (p.castSucc, tick) →
    exec (.starForwardCut p) s = .next (violation p { s with star := { s.star with forwarding := none, sentTo := 0 } })) ∧
  (∀ (p : Fin 8) (s : State), starForwards s = true → s.star.sync = false → (s.star.ports[p]).cutCont = false →
    ∃ t, exec (.starContinuousCut p) s = .next t ∧ (t.star.ports[p]).cutCont = true) ∧
  (∀ (p : Fin 8) (s : State), (s.star.ports[p]).cutCont = true → alive s = true →
    ∃ t, exec (.starCutExpire p) s = .next t ∧ (t.star.ports[p]).cutCont = false)

/-- CAN: a received frame is recorded with its sequence number and counted, each nominal-phase bit with TRIPLE the majority of three samples
(R509, R511 to R514), and in the activation pause it is held (R666); a completed transmission settles its buffer and counts the transmitter down; lost arbitration keeps the frame unless
it is one-shot or cancelled; errors count up, for a transmitter by the rules of its attempt; a controller recovers from bus-off, integrates
on its bus; channel frames fall due each period, under the entries that their data is sent by, and load buffer 2 (R399, R515 to R527).
Which frame is on the bus when no row tells it is the model's reading (log entry 14). Where the spec leaves a point
of these open, it is as log entries 13 and 99 choose. -/
def Obligations.CanControllersSendReceiveAndCount : Prop :=
  (∀ (c : Fin 4) (e2 e1 f : CanFrame) (sof : Word) (s : State), canOn s c = true →
    let g := sampledFrame (canFlag s c 2) e2 e1 f
    (g.fdf = false ∨ canFlag s c 1 = true) →
    (s.mode.pause = true → exec (.canFrameReceive c ⟨e2, e1, f⟩ sof) s =
      .next (holdRx (.can c g sof) (modCan c (fun k => { k with lost := false }) s))) ∧
    (s.mode.pause = false → ∃ t, exec (.canFrameReceive c ⟨e2, e1, f⟩ sof) s = .next t ∧ (t.can[c]).seq = (s.can[c]).seq + 1 ∧
      (t.can[c]).rxFrames = min ((s.can[c]).rxFrames + 1) (2 ^ 32 - 1) ∧
      Tab.find (t.can[c]).ring ((s.can[c]).seq.toNat % 1024) = some (canRecord g (s.can[c]).seq sof))) ∧
  (∀ e2 e1 f : CanFrame, sampledFrame false e2 e1 f = f ∧
    (sampledFrame true e2 e1 f).brs = (e2.brs && e1.brs || e1.brs && f.brs || e2.brs && f.brs)) ∧
  (∀ (c : Fin 4) (b : Fin 3) (sof : Word) (s : State), canOn s c = true → canAttempt s c = some b →
    let a := settle c b 0 0 (attempt c b sof s)
    exec (.canTxComplete c sof) s = .next (canChoose c (canCounts c ((a.can[c]).tec - 1) (a.can[c]).recCnt a))) ∧
  (∀ (c : Fin 4) (b : Fin 3) (sof : Word) (s : State), canOn s c = true → canAttempt s c = some b →
    let a := modCan c (fun k => { k with lost := true }) (modBuf c b (fun x => { x with suspects := 0 }) (attempt c b sof s))
    exec (.canArbitrationLost c sof) s = .next (canChoose c (if (a.can[c].bufs[b]).cancel then settle c b 1 0 a
      else if (a.can[c].bufs[b]).oneShot then settle c b 2 1 a else a))) ∧
  (∀ (c : Fin 4) (e : CanError) (sof : Word) (s : State), canOn s c = true → e.transmitter = false →
    exec (.canBusError c e sof) s =
      .next (canChoose c (canCounts c (s.can[c]).tec ((s.can[c]).recCnt + (if e.dominantAfterFlag then 8 else 1))
        (modCan c (fun k => { k with lastError := e.kind, lost := false }) s)))) ∧
  (∀ (c : Fin 4) (b : Fin 3) (e : CanError) (sof : Word) (s : State), canOn s c = true → e.transmitter = true →
    let r := modCan c (fun k => { k with lastError := e.kind, lost := false }) s
    canAttempt r c = some b →
    let a := suspect c b e (attempt c b sof r)
    let x := a.can[c].bufs[b]
    let t := if x.cancel then settle c b 1 0 a else if x.oneShot then settle c b 2 2 a else a
    exec (.canBusError c e sof) s = .next (canChoose c (canCounts c (tecAfter a.can[c] e) (t.can[c]).recCnt t))) ∧
  (∀ (c : Fin 4) (s : State), (s.can[c]).state = 2 → alive s = true →
    exec (.canRecoverWaitExpire c) s = .next (modCan c (fun k => { k with recovering := true }) s) ∧
    ((s.can[c]).recovering = true → exec (.canBusOffRecovery c) s =
      .next (canChoose c (canCounts c 0 0 (modCan c (fun k => { k with recovering := false }) s))))) ∧
  (∀ (c : Fin 4) (s : State), canEnabled s c.val = true → alive s = true → (s.can[c]).integrated = false →
    exec (.canIntegrate c) s = .next (canChoose c (modCan c (fun k => { k with integrated := true }) s))) ∧
  (∀ (c : Fin 4) (ch : BitVec 12) (e : Bytes) (p : Nat × Bytes) (l : List (Nat × Bytes)) (s : State),
    entryOf (sendView s) ch.toNat = some e → eClass e = 8 → eController e = c.val → alive s = true →
    canFrameChans (sendView s) e = p :: l → canFrameTime (p :: l) ≠ 0 → exec (.canTxPeriod c ch) s = .next (canDue c p.1 s)) ∧
  (∀ (c : Fin 4) (k : Nat) (f : CanFrame) (s : State), canOn s c = true → canMaySend s = true → servesChannels s c = true →
    (s.can[c].bufs[2]).frame = none → canFlag s c 4 = false → canFirst s c = some (k, f) →
    exec (.canBuffer2Load c) s = .next (canLoaded c (modBuf c 2 (fun _ => { CanBuf.zero with
        frame := some { f with data := padTo 64 f.data }, everLoaded := true, chanKey := some k })
      (modCan c (fun x => { x with due := dropFrom x.due k }) s))))

/-- Ethernet: a frame with a bad FCS counts as an error and a good one for this port into its sequence (R533, R534), and in the activation pause a frame is held (R666); a frame without launch
time leaves the wire counted, its ETH_SEND completing with OK, and the next one starts; of the ETH_SEND frames not yet started the one
whose limit comes first leaves its queue then, its command completing with TIMEOUT (6); the link goes down, comes up and changes its
speed to one that the port may negotiate; a launch
time moves the clocks and starts frames; channel frames fall due; PTP timers run their engine (R535 to R558). The stamp of a
frame lies within the frame that has just ended, and the delimiter of one sent within its preamble. The moved clocks, the engine of IEEE
1588 and the bounds of the stamps are the model's (log entries 4, 9, 121). Where the spec leaves a point
of these open, it is as log entries 37 and 114 choose. -/
def Obligations.EthernetPortsSendAndReceive : Prop :=
  (∀ (p : Fin 2) (frame : Bytes) (good : Bool) (sfd : Nat) (s : State), ethOn s p = true → s.mode.pause = true →
    let u := advanceLocal sfd s
    exec (.ethFrameReceive p frame good sfd) s = .next (holdRx (.eth p frame good (arrivedAt u p frame sfd)) u)) ∧
  (∀ (p : Fin 2) (frame : Bytes) (sfd : Nat) (s : State),
    let longest := (frame.length + 24) * (if (s.eth[p]).speed = 3 then 8 else if (s.eth[p]).speed = 2 then 80 else 800)
    arrivedAt s p frame sfd =
      if (totalNs s + 2 ^ 64 - sfd % 2 ^ 64) % 2 ^ 64 ≤ longest then sfd else totalNs s - longest) ∧
  (∀ (p : Fin 2) (frame : Bytes) (sfd : Nat) (s : State), ethOn s p = true → s.mode.pause = false →
    exec (.ethFrameReceive p frame false sfd) s =
      .next (modEth p (fun e => { e with rxErrors := min (e.rxErrors + 1) 65535 }) (advanceLocal sfd s))) ∧
  (∀ (p : Fin 2) (frame : Bytes) (sfd : Nat) (s : State), ethOn s p = true → s.mode.pause = false → 14 ≤ frame.length → frame.length ≤ 1518 →
    frame.take 6 = macOf s p →
    ∃ t, exec (.ethFrameReceive p frame true sfd) s = .next t ∧ (t.eth[p]).seq = (s.eth[p]).seq + 1 ∧
      (t.eth[p]).rxFrames = min ((s.eth[p]).rxFrames + 1) (2 ^ 32 - 1)) ∧
  (∀ (p : Fin 2) (q : Fin 8) (f : EthFrame) (l : List EthFrame) (t : Nat) (s : State), (s.eth[p]).queues[q] = f :: l →
    f.launch = some t → alive s = true →
    exec (.ethLaunch p q) s =
      .next (ethStartAll (advanceLocal t s))) ∧
  (∀ (p : Fin 2) (q : Fin 8) (f : EthFrame) (l : List EthFrame) (sfd : Nat) (s : State), (s.eth[p]).wire = some q →
    ethOn s p = true → (s.eth[p]).queues[q] = f :: l → f.launch = none →
    let at_ := delimiterAt s p sfd
    let t := at_ + phyNs s.factory.phyTx (s.eth[p]).speed
    let u := advanceLocal at_ s
    let a := modEth p (fun e => { e with
      wire := none, lastSent := some (withFcs (repaired f (inserted f t))), txFrames := min (e.txFrames + 1) (2 ^ 32 - 1) })
      (modQueue p q (fun _ => l) u)
    (f.ring = none → (f.chanKey ≠ none ∨ isPtp s f.bytes = false) → exec (.ethFrameSent p q sfd) s = .next (ethStart p a)) ∧
    (∀ (k : Fin 8) (b : Busy) (st : Bool), f.ring = some k → (ring s k).busy = some b → b.wait = .ethSend p st →
      exec (.ethFrameSent p q sfd) s =
        .next (ethStart p (completeWait k (fun w => w = .ethSend p st) 0 (if st then t % 2 ^ 32 else 0) a)))) ∧
  (∀ (p : Fin 2) (sfd : Nat) (s : State),
    let from_ := (s.eth[p]).wireFrom
    let last := from_ + 8 * (if (s.eth[p]).speed = 3 then 8 else if (s.eth[p]).speed = 2 then 80 else 800) + 8
    from_ ≤ delimiterAt s p sfd ∧ delimiterAt s p sfd ≤ last ∧ (from_ ≤ sfd → sfd ≤ last → delimiterAt s p sfd = sfd)) ∧
  (∀ (p : Fin 2) (q k : Fin 8) (f : EthFrame) (s : State),
    let n := if (s.eth[p]).wire = some q then 1 else 0
    firstOut s (((s.eth[p]).queues[q]).drop n) = some f → f.ring = some k →
    exec (.ethSendTimeout p q) s = .next (ethStart p (completeWait k (fun w => match w with
      | .ethSend r _ => r = p
      | _ => false) 6 0
      (modQueue p q (fun _ => ((s.eth[p]).queues[q]).take n ++ (((s.eth[p]).queues[q]).drop n).erase f)
        (netTicks (sendLimit s f) s))))) ∧
  (∀ (l : List EthFrame) (f : EthFrame) (s : State), firstOut s l = some f →
    f ∈ l ∧ f.ring ≠ none ∧ ∀ g ∈ l, g.ring ≠ none → sendLimit s f ≤ sendLimit s g) ∧
  (∀ (p : Fin 2) (sp : BitVec 2) (s : State), alive s = true → exec (.ethLink p false sp) s = .next (ethDown p s)) ∧
  (∀ (p : Fin 2) (sp : BitVec 2) (s : State), alive s = true → ethEnabled s p.val = true →
    speedAllowed s p sp = true → ((s.eth[p]).link = false ∨ (s.eth[p]).speed ≠ sp) →
    exec (.ethLink p true sp) s = .next (ethStart p (refreshWhere
      (fun _ e => (e.map (fun e => isEth e && ePort e = p.val)).getD false)
      (raiseEth p 0x0701 (1 + 2 * sp.toNat) (modEth p (fun e => { e with link := true, speed := sp }) s))))) ∧
  (∀ (p : Fin 2) (ch : BitVec 12) (e : Bytes) (s : State), entryOf (sendView s) ch.toNat = some e → eClass e = 10 →
    ePort e = p.val → canFrameTime (ethFrameChans (sendView s) e) ≠ 0 → exec (.ethTxPeriod p ch) s = .next (ethDue e s)) ∧
  (∀ (p : Fin 2) (m : BitVec 4) (s : State), ptpRuns s p = true → ethOn s p = true →
    let x : Config.PtpEvent := ⟨p.val, m.toNat, [], totalNs s⟩
    exec (.ptpMessageTimer p m) s = .next (ptpEffect x (Config.ptpEngine (block s 0x0421)
      (macOf s 0 ++ ipOf s 0 ++ macOf s 1 ++ ipOf s 1) s.ptp.seen x) s) ∧
    ∀ a : Config.PtpAnswer, (ptpEffect x a s).ptp.seen = s.ptp.seen ++ [x])

/-- The Telith link. Training goes from step to step, falls back at a timeout, tries the next lower rate at step 3 (R562), and a unit
that stays alone becomes solo (R565). ROLE_DECISION trains the link, decides the role by its row of Table 4, supersedes the loser of two
active units and lets an active winner whose claim is not above the partner's take a new one (R565, R566, R570, R574); in phase 7 a standby
takes the partner's time, and in phase 8 a unit that is to enter RUN by that decision takes its claim (R568, R570). A lost lane or link
is reported (R564), heartbeats are sent on every trained lane and kept (R580), and a new claim is in force once its page is written, the commits held for it leaving then (R570). That both are
so in these corners is the model's choice (log entry 123). The own identity record is the one of step 5 (Table 3). A link lost in TRACK
is an event of R581. Where the spec leaves a point
of these open, it is as log entries 38 and 90 choose. -/
def Obligations.TheTelithLinkTrainsAndDecides : Prop :=
  (∀ s : State, alive s = true → s.pair.trained = false → s.pair.step = 0 → s.pair.clash = false →
    exec .telithTrainingStart s = .next (startTraining s)) ∧
  (∀ (l : BitVec 2) (p : Option Identity) (s : State), alive s = true → s.pair.trained = false →
    (s.pair.step = 1 → exec (.trainingStepDone l p) s = .next (modPair (fun p => { p with step := 2 }) s)) ∧
    (s.pair.step = 2 → exec (.trainingStepDone l p) s = .next (modPair (fun p => { p with step := 3, rate := 1 }) s)) ∧
    (s.pair.step = 3 → exec (.trainingStepDone l p) s = .next (modPair (fun p => { p with step := 4 }) s)) ∧
    (s.pair.step = 4 → l ≠ 0 →
      exec (.trainingStepDone l p) s =
        .next (modPair (fun p => { p with step := 5, lanes := l, sentIdentity := some (ownIdentity s) }) s)) ∧
    (∀ i : Identity, s.pair.step = 5 → p = some i → exec (.trainingStepDone l p) s = .next (takeIdentity i s)) ∧
    (2 ≤ s.pair.step → (s.pair.step ≠ 3 ∨ s.pair.rate = 3) → exec .trainingStepTimeout s =
      .next (modPair (fun p => { p with step := 1, rate := 0, lanes := 0 }) s)) ∧
    (s.pair.step = 3 → s.pair.rate.toNat < 3 → exec .trainingStepTimeout s =
      .next (modPair (fun p => { p with rate := p.rate + 1 }) s))) ∧
  (∀ (i : Identity) (s : State), i.unitId ≠ s.power.slotId →
    (takeIdentity i s).pair.partner = some i ∧ (takeIdentity i s).pair.step = 6 ∧
    (takeIdentity i s).pair.highest = maxWord s.pair.highest (maxWord i.claim i.highest)) ∧
  (∀ s : State, telithOn s = true → alive s = true → s.pair.trained = false → s.pair.step ≠ 0 →
    exec .soloTimeout s = .next (endRetrain
      (if s.pair.role = 3 ∨ s.pair.role = 0 then decideRole 0 false 1 s else s))) ∧
  (∀ (i : Identity) (s : State), s.pair.partner = some i → alive s = true → s.pair.trained = false → s.pair.step = 6 →
    let r := roleRow s i
    let a := linkTrained i (decideRole r.2.1 r.2.2 r.1 (modPair (fun p => { p with
      trained := true, step := 0, current := false, takeoverFail := p.takeoverFail && inStartUp s
      bulk := if s.mode.mode = mTrack then some (0, nowUs s) else p.bulk }) s))
    let b := if r.2.2 then supersede i.claim 0 a else a
    let c := if r.2.1 = 1 ∧ b.pair.superseded = false ∧ runs b = true ∧ b.ret.ctr.claim ≤ i.claim then takeClaim .roleDecision b else b
    exec .roleDecision s = .next (endRetrain (startupClaim (endsInRun s) (takePartnerTime c)))) ∧
  (∀ (e : Bool) (s : State), inPhase s 7 = false → inPhase s 8 = false → startupClaim e (takePartnerTime s) = s) ∧
  (∀ s : State, inPhase s 8 = true → endsInRun s = true → s.pair.takeoverFail = false → s.pair.claiming = none →
    startupClaim false s = takeClaim .startup s) ∧
  (∀ (lane : Fin 2) (s : State), s.pair.trained = true → alive s = true → s.pair.lanes = 3 →
    exec (.linkLane lane) s = .next (raisePair 0x0803 (2 - lane.val)
      (modPair (fun p => { p with lanes := BitVec.ofNat 2 (2 - lane.val) }) s))) ∧
  (∀ s : State, s.pair.trained = true → alive s = true →
    exec .telithLinkLost s = .next (takeoverEvent false (dropLink 0 s)) ∧
    exec .heartbeatSend s = .next (sendBeats s) ∧
    sendBeats s = { s with pair := { s.pair with sentBeats := (sendBeats s).pair.sentBeats } } ∧
    ∀ l : Fin 2, (sendBeats s).pair.sentBeats[l] = if s.pair.lanes.getLsbD l.val then some (ownBeat s) else s.pair.sentBeats[l]) ∧
  (∀ (h : Heartbeat) (s : State), s.pair.trained = true → alive s = true →
    let a := followPartner h (modPair (fun p => { p with
      beat := some h, skew := some ((s.time.tickNo : Int) - h.tick.toNat, (nowUs s : Int) - h.taskTime.toNat)
      current := p.current && (s.mode.mode = mTrack || h.mode = mTrack) }) s)
    let b := seeClaim (maxWord h.claim h.highest) (if h.claim < h.highest then 0 else partnerUnit a) 0 a
    let c := if b.mode.mode = mTrack ∧ s.pair.beat.map (fun x => x.mode) ≠ some h.mode then settleOutputs directOutputs b else b
    exec (.heartbeatReceive h) s =
      .next (if h.relinquish ∧ bitAt (block c 0x0501) 0 2 = true then takeoverEvent false c else c)) ∧
  (∀ (c : Word) (why : ClaimFor) (s : State), s.pair.claiming = some (c, why) → alive s = true →
    s.ret.ops.any (fun o => match o.kind with
      | .counters (some _) => true
      | _ => false) = false →
    let a := raisePair 0x0805 (c.toNat + 2 ^ 32 * (highestClaim s).toNat) (modPair (fun p => { p with claiming := none })
      { s with ret := { s.ret with ctr := { s.ret.ctr with claim := c } } })
    exec .claimTaken s = .next (match why with
      | .modeSet => modeRunNow a
      | .roleDecision => releaseHeld a
      | _ => a))

/-- The standby. A bale with a wrong CRC is counted and dropped (R579); an intact one takes effect in TRACK, its outputs following where its
claim is the highest seen (R572, R573), and its commit number is kept as the last, but one under a lower claim comes too late once the
claim of a takeover is written (R584; log entry 90); the bale of an edit tells how the partner's edit stands (R567); each of its lines is applied when its number exceeds
that of the line held. Bulk lines are applied in order, a first one after a copy had ended beginning a new copy (the model's choice, log
entry 90); the end of the copy makes the standby current, and its outputs follow again where it had refused to take over (R582, R586). At a takeover the standby enters RUN at the first base tick 25 µs ahead
(R581), with commit numbers 2^32 on (R115); a handover is requested and times out (R583, R584). Where the spec leaves a point
of these open, it is as log entries 39, 52 and 87 choose. -/
def Obligations.TheStandbyFollowsAndTakesOver : Prop :=
  (∀ (b : Bale) (s : State), s.pair.trained = true → alive s = true → b.crc ≠ baleCrc b →
    exec (.baleApply b) s =
      .next { s with pair := { s.pair with discarded := min (s.pair.discarded + 1) (2 ^ 32 - 1) } }) ∧
  (∀ (b : Bale) (s : State), s.pair.trained = true → alive s = true → b.crc = baleCrc b → s.mode.mode = mTrack →
    let a := modPair (fun p => { p with highest := maxWord p.highest b.claim }) (notePartnerEdit b s)
    let c := baleEffect b (decide (highestClaim a ≤ b.claim)) a
    exec (.baleApply b) s = .next (if baleLate b a then a else { c with
      pair := { c.pair with lastBale := b.commit.toNat }
      commit := { c.commit with last := b.commit.toNat }
      ret := { c.ret with ctr := { c.ret.ctr with highestCommit := max c.ret.ctr.highestCommit b.commit.toNat } } })) ∧
  (∀ (b : Bale) (s : State),
    (b.type ≠ 2 → notePartnerEdit b s = s) ∧
    (b.type = 2 → notePartnerEdit b s = modPair (fun p => { p with
      partner := p.partner.map (fun i => { i with editState := if i.editState = 2 then 1 else 2 }) }) s) ∧
    (baleLate b s = true ↔ s.pair.takeover ≠ none ∧ s.pair.claiming = none ∧ b.claim.toNat < s.ret.ctr.claim.toNat)) ∧
  (∀ (b : Bale) (r : TaskRec) (w : Bool) (s : State), b.type = 1 → taskRec s b.task = some r →
    baleEffect b w s = standbyOutputs r b.commit.toNat w
      { s with commit := b.lines.foldl (applyLine b.task b.commit.toNat) s.commit }) ∧
  (∀ (l : List BulkLine) (s : State), s.pair.trained = true → s.mode.mode = mTrack → alive s = true →
    exec (.bulkCopyReceive l) s = .next (l.foldl bulkLine (bulkAgain s))) ∧
  (∀ (l : BulkLine) (s : State), (∀ r ∈ s.proj.cur.tasks, r.outSize = 0 ∨ lineOf l.line.address.toNat ≠ lastOutLine r) →
    bulkLine s l = { s with
      commit := applyLine l.task l.commit.toNat s.commit l.line
      ret := { s.ret with ctr := { s.ret.ctr with highestCommit := max s.ret.ctr.highestCommit l.commit.toNat } }
      pair := { s.pair with bulk := s.pair.bulk.map (fun b => (b.1 + 1, b.2)) } }) ∧
  (∀ (n t : Nat) (s : State), s.pair.trained = true → alive s = true → s.mode.mode = mTrack → s.pair.bulk = some (n, t) →
    let a := raisePair 0x080A (n % 2 ^ 32 + 2 ^ 32 * ((nowUs s - t) % 2 ^ 32)) (modPair (fun p => { p with
      bulk := none, current := true, takeoverFail := false, delivered := BitVec.allOnes 128 }) s)
    exec .bulkDone s = .next (if s.pair.takeoverFail then followAgain a else a)) ∧
  (∀ s : State, s.pair.role = 1 → alive s = true → partnerTracks s = true → s.mode.mode ≠ mTrack →
    exec .bulkDone s = .next (modPair (fun p => { p with current := true }) s)) ∧
  (∀ (t : Nat) (h : Bool) (s : State), s.pair.takeover = some (t, h) → s.mode.mode = mTrack → alive s = true →
    s.pair.claiming = none → t + 25 ≤ tickTime s (nextTick s) →
    exec .takeover s = .next (takeOver (advanceTo (tickTime s (nextTick s)) s))) ∧
  (∀ s : State, (takeOver s).pair.role = 1 ∧ (takeOver s).mode.mode = mRun ∧ (takeOver s).mode.restart = 3) ∧
  (∀ s : State, s.pair.trained = true → alive s = true → exec .handoverRequestReceive s = .next (takeoverEvent true s)) ∧
  (∀ s : State, (s.pair.handover = some none ∨ waiter (fun w => w = .handover) s ≠ none) → exec .handoverTimeout s =
    .next (modPair (fun p => { p with handover := if s.pair.handover = some none then none else s.pair.handover })
      (endHandover 6 s)))

/-- The retain store. A periodic save falls due a period after the last one (R601). The controller finishes the page in progress, and
starts the next only when the hold-up store holds 15 µJ a page and 20 mJ (R594, R592); what the check refuses ends there. The recorder
writes its oldest record and then the index; the events that found its queue full are reported before any record that waits, as soon as
there is room (R608, R611); the record of a watchdog expiry stays latched until all that waits is written (R627). In what order a store
that stops leaves its pages is the model's (log entries 15, 45). Where the spec leaves a point
of these open, it is as log entries 7, 120 and 124 choose. -/
def Obligations.TheRetainStoreWritesPages : Prop :=
  (∀ s : State, fieldAt (block s 0x0510) 0 2 ≠ 0 → working s.mode.mode = true → alive s = true →
    let t := s.mode.saveFrom + 1000000 * fieldAt (block s 0x0510) 0 2
    let a := advanceTo t s
    exec .retainedSavePeriodic s = .next (dueSave 0 { a with mode := { a.mode with saveFrom := t } })) ∧
  (∀ (mv : Nat) (s : State), s.power.stopped = false →
    exec (.retainPageWrite mv) s = .next (startPage mv (finishPage s))) ∧
  (∀ (o : RetOp) (l : List RetOp) (mv : Nat) (s : State), s.ret.ops = o :: l → o.started = false → s.power.stopped = false →
    exec (.retainPageWrite mv) s = .next (if energyOk mv o.pages.length
      then { s with ret := { s.ret with ops := { o with started := true } :: l } }
      else opRefused o mv { s with ret := { s.ret with ops := l } })) ∧
  (∀ (mv : Nat) (s : State), s.ret.ops = [] → s.power.stopped = false → exec (.retainPageWrite mv) s = .next s) ∧
  (∀ (n i : Nat) (b : Bytes) (k : Fin 8) (mv : Nat) (s : State),
    s.ret.ops = [⟨.param k false, [(n, b)], i, true⟩] → s.power.stopped = false →
    exec (.retainPageWrite mv) s = .next { s with ret := { s.ret with
      mram := Mem.setAll s.ret.mram (64 * n) (padTo 64 b), ops := [] } }) ∧
  (∀ (o : Nat) (e : EventRec) (l : List (Nat × EventRec)) (mv : Nat) (s : State), s.recorder.queue = (o, e) :: l →
    s.power.stopped = false → s.power.saving = false → (s.mode.phase = 0 ∨ 4 ≤ s.mode.phase) → energyOk mv 2 = true →
    (s.recorder.lost = 0 ∨ 512 ≤ s.recorder.queue.length) →
    exec (.recorderWrite mv) s = .next (recordedLatch (noteOverflow { s with
      ret := writeRecord s.recorder.total o e s.ret, recorder := { s.recorder with queue := l } }))) ∧
  (∀ (o : Nat) (e : EventRec) (l : List (Nat × EventRec)) (mv : Nat) (s : State), s.power.stopped = false →
    s.power.saving = false → (s.mode.phase = 0 ∨ 4 ≤ s.mode.phase) → energyOk mv 2 = true →
    (noteOverflow s).recorder.queue = (o, e) :: l →
    let u := noteOverflow s
    exec (.recorderWrite mv) s = .next (recordedLatch (noteOverflow { u with
      ret := writeRecord u.recorder.total o e u.ret, recorder := { u.recorder with queue := l } }))) ∧
  (∀ s : State,
    let r := raise 0x9000 0x0905 0 (min s.recorder.lost (2 ^ 32 - 1)) { s with recorder := { s.recorder with lost := 0 } }
    let over_ (e : Nat × EventRec) : Bool := e.2.source = 0x9000 && e.2.code = 0x0905
    (s.recorder.lost = 0 ∨ 512 ≤ s.recorder.queue.length → noteOverflow s = s) ∧
    (s.recorder.lost ≠ 0 → s.recorder.queue.length < 512 → noteOverflow s = { r with recorder := { r.recorder with
      queue := r.recorder.queue.filter over_ ++ r.recorder.queue.filter (fun e => !over_ e) } }) ∧
    recordedLatch s = { s with wdt := { s.wdt with
      latch := if s.recorder.queue = [] ∧ s.wdt.latchHeld = true then none else s.wdt.latch } })

/-- Supply and presence. An interruption begins, ends with its length kept and recorded, and at RIDE_MS, at V_SAVE or when PRSNT_LATE opens
the power-down save begins (R633, R637, R654); when it is over the module stops (R639). A core supply fault tears the page in progress,
trips, and stops the module at once; it starts again from phase 1 when the rail recovers, and with good power after an insertion (R592,
R640, R642, R652, R653); the latched record of a watchdog expiry is lost with a store below 12 V (R627, log entry 120). The hold-up store is measured, charged or given up (R634). Where the spec leaves a point
of these open, it is as log entries 63, 64 and 66 choose. -/
def Obligations.SupplyEventsSaveStopAndRestart : Prop :=
  (∀ (mv : Nat) (s : State), s.power.interrupted = false → s.power.stopped = false →
    exec (.supplyUndervoltage mv) s = .next { s with power := { s.power with
      interrupted := true, interruptFrom := s.time.net, storeMv := mv, lowestMv := mv
      rideMs := bitsOf (fieldAt (block s 0x0603) 0 1) 3 0 } }) ∧
  (∀ (us mv : Nat) (s0 : State), s0.power.interrupted = true → s0.power.stopped = false →
    let s := advanceNet (s0.power.interruptFrom + netPerUs * us)
      (if decide (1000 * s0.power.rideMs ≤ us) && alive s0 && !s0.power.saveDue.isSome then rideOver mv s0 else s0)
    let a := modPower (fun p => { p with storeMv := mv, lowestMv := min p.lowestMv mv, interrupted := false }) s
    let b := raise 0xB000 0x0B01 0 (interruptedData us a.power.lowestMv false) (modPower (fun p => { p with
      interruptions := min (p.interruptions + 1) (2 ^ 32 - 1), longestUs := max p.longestUs (min us (2 ^ 32 - 1)) }) a)
    (s.power.saving = true → exec (.supplyReturn us mv) s0 = .next a) ∧
    (s.power.saving = false → s.power.saveDue ≠ none →
      exec (.supplyReturn us mv) s0 = .next (modPower (fun p => { p with endedUs := some us }) a)) ∧
    (s.power.saving = false → s.power.saveDue = none → exec (.supplyReturn us mv) s0 =
      .next (setStore (if mv < 36000 then 1 else storeState mv b.power.storeC false) b))) ∧
  (∀ (mv : Nat) (s : State), s.power.interrupted = true → alive s = true →
    exec (.rideMsExpire mv) s = .next (rideOver mv s) ∧ rideOver mv s = dueSaveNow 0 (modPower (measureStore mv)
      (advanceNet (s.power.interruptFrom + netPerUs * 1000 * s.power.rideMs) s))) ∧
  (∀ (mv : Nat) (s : State), s.power.interrupted = true → alive s = true → mv ≤ vSave s.power →
    exec (.storeAtVSave mv) s = .next (dueSaveNow 1 (modPower (measureStore mv) s))) ∧
  (∀ (mv : Nat) (s : State), s.power.prsntLate = true →
    exec (.prsntLateOpen mv) s = .next (dueSaveNow 2
      (modPower (fun p => { measureStore mv p with prsntLate := false, mainSwitch := false }) s))) ∧
  (∀ s : State, s.power.saving = true → saveOver s = true → exec .powerDownSaveDone s = .next (stopDie s)) ∧
  (∀ s : State, (stopDie s).power.stopped = true ∧ (stopDie s).power.tripLow = true ∧ (stopDie s).time.running = false) ∧
  (∀ (cap mv : Nat) (s : State), storeTested s = true →
    exec (.holdupMeasure cap mv) s = .next (setStore (storeState mv cap (decide (s.power.store = 3)))
      (modPower (fun p => { p with storeC := min cap 65535, storeMv := mv }) s))) ∧
  (∀ (mv : Nat) (s : State), storeTested s = true → s.power.store = 1 → 36000 ≤ mv →
    exec (.holdupCharged mv) s = .next (setStore (storeState mv s.power.storeC false)
      (modPower (fun p => { p with storeMv := mv }) s))) ∧
  (∀ s : State, storeTested s = true → s.power.store = 1 → exec .holdupChargeTimeout s = .next (setStore 3 s)) ∧
  (∀ (above : Bool) (n : Nat) (m : DWord) (s : State), s.power.stopped = false →
    let t := modPower (fun p => { p with coreFault := true, coreLatch := some above })
      (stopDie (tearPage n m (cutOutputs (tripPulse s))))
    exec (.coreSupplyFault above n m) s = .next t ∧ t.power.stopped = true ∧ t.field.cut = true ∧ t.power.tripLow = true) ∧
  (∀ s : State, s.power.coreFault = true → exec .coreRailRecovered s = .next (startUp false s)) ∧
  (∀ s : State, s.power.prsntLate = false → exec .prsntEarlyClose s =
    .next { s with power := { s.power with prsntEarly := true, mainSwitch := false } }) ∧
  (∀ s : State, s.power.prsntEarly = true → s.power.mainSwitch = false → exec .mainSupplySwitch s =
    .next { s with power := { s.power with prsntLate := true, mainSwitch := true } }) ∧
  (∀ (p : PowerGoodPins) (s : State), s.power.stopped = true → s.power.prsntEarly = true → s.power.prsntLate = true →
    s.power.mainSwitch = true →
    ∃ t, exec (.powerGood p) s = .next t ∧
      t = startUp false (unlatchedAt (10 * p.storeCv) (modPower (fun q => { q with
        slotId := p.slotId, storeMv := 10 * p.storeCv, coreFault := false, interrupted := false }) s)) ∧
      (12000 ≤ 10 * p.storeCv → t.wdt.latch = s.wdt.latch) ∧ (10 * p.storeCv < 12000 → t.wdt.latch = none) ∧
      t.power.stopped = false ∧ t.power.slotId = p.slotId ∧ t.mode.mode = 7 ∧
      t.mode.phase = 1 ∧ t.hostMem = s.hostMem ∧ t.ret.mram = s.ret.mram)

/-- Start-up goes from phase to phase (R646 to R648). The local clock starts at zero with phase 1's end (R549), from the other slot when the
active one is not good (R660; an image that nothing has written since reset is good when it can be read, log entry 127); phase 2 takes failed parts out of service, reports every failure, and goes on with sampling, the entries of
the digital inputs loaded, unless one is fatal (R419, R421, R651); phase 3 reads the retain store and writes under the energy check (R607, R707); phase 4 ends with the role decided (R561);
LISTEN begins with phase 5, which ends when the node is in the network or three cycle lengths later (R490; log entry 4), task time in phase 6, for a standby that of its partner (R568), T0 is fixed and the stored data restored in phase 7 (R78, R646; log entry 120), and phase 8 ends start-up
in the mode that the project, the role and the claim admit. Where the spec leaves a point
of these open, it is as log entries 62, 67, 68 and 75 choose. -/
def Obligations.StartUpRunsThroughItsPhases : Prop :=
  (∀ (r : Bool) (s : State), inPhase s 1 = true →
    (slotGood r s = true → exec (.startupPhase1End r) s = .next { s with
      mode := { s.mode with phase := 2 }, time := { s.time with lcRunning := true, lc := 0 } }) ∧
    (slotGood r s = false → (fwInactive s).state ≠ 2 → exec (.startupPhase1End r) s = .next (faultSafe 5 s)) ∧
    (slotGood r s = false → (fwInactive s).state = 2 → exec (.startupPhase1End r) s = .next (enterPhase 2 { startOther s with
      time := { (startOther s).time with lcRunning := true, lc := 0 } }))) ∧
  (∀ (r : Bool) (s : State), slotGood r s = true ↔
    r = true ∧ ((fwActive s).image = [] ∨ imageVerified s (fwActive s).image (fwActive s).length = true)) ∧
  (∀ (r : SelfTest) (s : State), inPhase s 2 = true →
    let a := testEffects r (modWdt (fun w => { w with watch32 := r.watchPer32 }) s)
    let b := r.failures.foldl (fun s f => selfTestFail f.1.toNat (fatalTest s f.1.toNat) f.2.toNat s) a
    let c := r.solvers.foldl (fun s u => selfTestFail 5 (fatalTest s 5) u.val s) b
    exec (.startupPhase2End r) s = .next (if r.failures.any (fun f => fatalTest c f.1.toNat) then faultSafe 5 c
      else enterPhase 3 (loadInputs { c with field := { c.field with sampling := true } }))) ∧
  (∀ (mv : Nat) (s : State), inPhase s 3 = true →
    let a := readStore (modPower (fun p => { p with storeMv := mv }) s)
    exec (.startupPhase3End mv) s = .next (startTraining (enterPhase 4 (if energyOk mv (phase3Pages a) then phase3Writes a
      else selfTestFail 8 false 0xFF (if storeTested a then setStore 3 a else a))))) ∧
  (∀ s : State, inPhase s 4 = true → telithOn s = false → nodeOn s = false → exec .startupPhase4End s =
    .next { s with mode := { s.mode with phase := 5 }, star := { s.star with forwards := true },
                   pair := { s.pair with role := 0 } }) ∧
  (∀ s : State, inPhase s 4 = true → telithOn s = true → s.pair.role ≠ 3 → nodeOn s = true →
    let a := nodeState 1 (enterPhase 5 { s with star := { s.star with forwards := true } })
    exec .startupPhase4End s = .next { a with ihloz := { a.ihloz with startFrom := ihlozTick a } }) ∧
  (∀ s : State, inPhase s 5 = true →
    (nodeOn s = false ∨ s.ihloz.state = 5 ∨ s.ihloz.state = 6 →
      exec .startupPhase5End s = .next { s with mode := { s.mode with phase := 6 } }) ∧
    (∀ c : Sched, nodeOn s = true → s.ihloz.state ≠ 5 → s.ihloz.state ≠ 6 → Tab.find s.ihloz.scheds (startMode s) = some c →
      exec .startupPhase5End s =
        .next (enterPhase 6 (advanceIhloz ((s.ihloz.startFrom + 100 * (3 * c.cycleUs) : Nat) : Int) s)))) ∧
  (∀ (t0 : Int) (s : State), inPhase s 6 = true → s.pair.role ≠ 2 →
    exec (.startupPhase6End t0) s = .next (refreshSource (startTime 0 (enterPhase 7 s)))) ∧
  (∀ (t0 : Int) (us n : Nat) (s : State), inPhase s 6 = true → s.pair.role = 2 → partnerTime s = some (us, n) →
    let a := fixT0 t0 (startTime (us * usUnit) (enterPhase 7 s))
    exec (.startupPhase6End t0) s = .next (refreshSource { a with time := { a.time with ticked := true, tickNo := n } })) ∧
  (∀ (k : Nat) (s : State), (startTime k s).time.running = true ∧ (startTime k s).time.task = k) ∧
  (∀ (cy : Nat) (s : State), inPhase s 7 = true →
    let a := enterPhase 8 (loadStored s)
    let b := if a.time.t0Fixed then a else fixT0 (chosenT0 cy a) a
    let c := restartStored b
    exec (.startupPhase7End cy) s = .next (if endsInRun c then takeClaim .startup c else c)) ∧
  (∀ (ms : Nat) (s : State), inPhase s 8 = true → s.power.store ≠ 1 → s.pair.claiming = none →
    exec (.startupPhase8End ms) s = .next (endStartup (modPower (fun p => { p with startupMs := min ms 65535 })
      (advanceTo (tickTime s (nextTick s)) s))))

/-- Clocks and watchdog. A lost PLL or a stopped clock trips and enters SAFE (R644, R695); PILOT and WATCH watch each other, and the second
bad period in a row is a failure (R629), of which of the two clocks the manual does not say (a free value, log entry 60), as does the gap of a clock that had not failed; a failed barn clock switches
its barn off (R644). At a watchdog edge what arrived is evaluated: an intact pair in the open window with a complete roll-call begins the
next window, a wrong key value and an early pair make it expire, what arrived after them being taken without effect (R619 to R621), and without a pair it counts until WINDOW_TICKS (R622). It
holds its count in an activation pause and expires 3 ms into it (R628); an expiry trips and cuts the outputs, and the trip pulse ends (R626). Where the spec leaves a point
of these open, it is as log entries 57, 58, 59 and 61 choose. -/
def Obligations.ClocksAndWatchdogTripWhenTheyFail : Prop :=
  (∀ (fabric : Bool) (s : State), s.power.stopped = false →
    exec (.pllLossOfLock fabric) s = .next (clockFailure (if fabric then 8 else 4) s)) ∧
  (∀ (b : Fin 4) (sp : Bool) (s : State), (barn s b).present = true → (barn s b).power ≠ 0 → alive s = true →
    exec (.barnClockFail b sp) s = .next (raise 0xB000 0x0B05 0
      (b.val + 4 * b2n sp + 2 ^ 8 * ((stallsOf b).map (fun u => (residents s u).length)).sum) (barnOff b s))) ∧
  (∀ (n : Nat) (s : State), monitored s = true → (countOff s.wdt n && s.wdt.badPeriod) = false →
    exec (.clockMonitorPeriod n) s =
      .next { s with wdt := { s.wdt with watchCount := n, badPeriod := countOff s.wdt n } }) ∧
  (∀ (n : Nat) (s : State), monitored s = true → countOff s.wdt n = true → s.wdt.badPeriod = true →
    ∃ watch : Bool, exec (.clockMonitorPeriod n) s = .next (clockFailure (b2n watch + 2 ^ 16 * (n % 2 ^ 16))
      { s with free := s.free + 1, wdt := { s.wdt with
        watchCount := n, badPeriod := false, pilotBad := !watch, watchBad := watch } })) ∧
  (∀ (watch : Bool) (s : State), monitoring s = true → (if watch then s.wdt.watchBad else s.wdt.pilotBad) = false →
    exec (.clockEdgeGap watch) s = .next (clockFailure (b2n watch + 2 + 2 ^ 16 * (s.wdt.watchCount % 2 ^ 16))
      { s with wdt := { s.wdt with pilotBad := s.wdt.pilotBad || !watch, watchBad := s.wdt.watchBad || watch } })) ∧
  (∀ (d : Nat) (s : State), alive s = true → (clockFailure d s).power.tripLow = true ∧
    (clockFailure d s).field.cut = true ∧ (clockFailure d s).mode.mode = 4) ∧
  (∀ s : State, s.wdt.state = 1 → s.mode.pause = false → s.wdt.begun = true → s.wdt.inbox = [] →
    s.wdt.disarm = false → s.wdt.count < wdtP s →
    exec .watchdogTick s = .next { s with wdt := { s.wdt with count := s.wdt.count + 1 } }) ∧
  (∀ (t u : BitVec 7) (s : State), s.wdt.state = 1 → s.mode.pause = false → s.wdt.begun = true → s.wdt.armed = false →
    s.wdt.disarm = false → s.wdt.inbox = [.key t 0x5A1C, .key u 0xC3E7] → wdtC s ≤ s.wdt.count → wdtMissing s = [] →
    ∃ n, exec .watchdogTick s = .next n ∧ n.wdt.state = 1 ∧ n.wdt.count = 0 ∧ n.wdt.first = false ∧ n.wdt.checked = 0 ∧
      n.wdt.lastKey = some u ∧ n.mode = s.mode ∧ n.power = s.power) ∧
  (∀ (t : BitVec 7) (v : Half) (l : List WdtIn) (s : State), s.wdt.state = 1 → s.mode.pause = false → s.wdt.begun = true →
    s.wdt.inbox = .key t v :: l → (s.wdt.armed = false → v ≠ 0x5A1C) → (s.wdt.armed = true → v ≠ 0xC3E7) →
    exec .watchdogTick s = .next (expireWdt 3 s.wdt.count
      (absorbArrivals l (modWdt (fun w => { w with inbox := [], lastKey := some t }) s)))) ∧
  (∀ (t : BitVec 7) (l : List WdtIn) (s : State), s.wdt.state = 1 → s.mode.pause = false → s.wdt.begun = true →
    s.wdt.inbox = .key t 0xC3E7 :: l → s.wdt.armed = true → s.wdt.count < wdtC s →
    exec .watchdogTick s =
      .next (expireWdt 2 s.wdt.count
        (absorbArrivals l (modWdt (fun w => { w with inbox := [], lastKey := some t, armed := false }) s)))) ∧
  (∀ (x : WdtIn) (l : List WdtIn) (s : State), absorbArrivals [] s = s ∧ absorbArrivals (x :: l) s = absorbArrivals l (match x with
    | .checkin t b => checkIn t b s
    | .key t _ => modWdt (fun w => { w with lastKey := some t }) s)) ∧
  (∀ s : State, s.wdt.state = 1 → s.mode.pause = true →
    (s.time.task ≤ (s.mode.pauseFrom + 3000) * usUnit → s.wdt.begun = true → s.wdt.inbox = [] → s.wdt.disarm = false →
      exec .watchdogTick s = .next s) ∧
    ((s.mode.pauseFrom + 3000) * usUnit < s.time.task → exec .watchdogTick s = .next (expireWdt 4 s.wdt.count s))) ∧
  (∀ s : State, s.wdt.state = 1 → s.mode.pause = false → s.wdt.begun = true → s.wdt.inbox = [] →
    wdtP s ≤ s.wdt.count →
    exec .watchdogTick s = .next (expireWdt 1 s.wdt.count s) ∧ exec .wdtWindowEnd s = .next (expireWdt 1 s.wdt.count s)) ∧
  (∀ s : State, s.wdt.state = 1 → s.mode.pause = true →
    let a := advanceTo (s.mode.pauseFrom + 3000) s
    exec .wdtPauseExpire s = .next (expireWdt 4 a.wdt.count a)) ∧
  (∀ (c n : Nat) (s : State), (expireWdt c n s).wdt.state = 2 ∧ (expireWdt c n s).power.tripLow = true ∧
    (expireWdt c n s).field.cut = true) ∧
  (∀ s : State, exec .wdtTripPulseEnd s = .next { s with power := { s.power with
    tripPulse := false, tripLow := s.power.tripLow && s.power.stopped } }) ∧
  (∀ s : State, exec .expiryRecordTimeout s = .next s)

/-- Firmware transfer. A row of a message that the module hears takes that message out of its inbox. The sender offers, starts sending when
accepted, sends its ranges and those named again, ends with DONE and completes when verified or refused; the receiver takes offers and data,
asks for what is missing, and a transfer that stands still, a receiver's too while it verifies, times out (R661 to R663). A verified image makes its slot VERIFIED and completes
the receive; one that is not leaves the slot EMPTY and completes it with VERIFY_FAIL (R659, R661); whether it is verified is a free value
of its bytes (log entry 8). The activation pause begins at its base tick (R666), its end makes the other, VERIFIED slot active (R667, R668),
and its failure empties that slot and starts the previous one again in SAFE (R669). Where the spec leaves a point
of these open, it is as log entries 56, 70, 71 and 72 choose. -/
def Obligations.FirmwareTransfersRunTheirProtocol : Prop :=
  (∀ (k : Fin 8) (x : Transfer) (s : State), xferOf s k = some x → x.sending = true → x.step = 0 → served s = true →
    exec (.offerRepeat k) s = .next (sendMessage k x 1 x.length 0 (Mem.read (fwSlot s x.slot).image 0 24) s)) ∧
  (∀ (kind : Nat) (m : TransferMsg) (s a : State), hear kind m s = some a →
    ∃ p ∈ s.fw.inbox, parcelIs p kind m = true ∧ a = { s with fw := { s.fw with inbox := s.fw.inbox.erase p } }) ∧
  (∀ (m : TransferMsg) (k : Fin 8) (x : Transfer) (s a : State), hear 1 m s = some a → peerRing a false false m = some (k, x) →
    m.transferId ≠ 0 → x.step = 0 →
    let y := { x with transferId := m.transferId, length := m.arg.toNat }
    (offerRefused a m = 0 → exec (.offer m) s = .next (sendMessage k { y with step := 1 } 2 0 0 []
      (modSlot (!a.fw.active) (fun _ => { state := 1, image := [], length := 0 }) a))) ∧
    (offerRefused a m ≠ 0 → exec (.offer m) s = .next (endXfer k (if offerRefused a m = 2 then 8 else 7)
      (fwRefused (offerRefused a m) false (sendMessage k y 3 (offerRefused a m) 0 [] a))))) ∧
  (∀ (m : TransferMsg) (k : Fin 8) (x : Transfer) (s a : State), peerRing a true true m = some (k, x) →
    (hear 2 m s = some a → x.step = 0 →
      exec (.accept m) s = .next (setXfer k { x with step := 1, todo := [(0, x.length)] } a)) ∧
    (hear 3 m s = some a → exec (.refuse m) s = .next (endXfer k 7 (fwRefused m.arg.toNat true a))) ∧
    (hear 5 m s = some a → (x.step = 1 ∨ x.step = 2) → exec (.nack m) s = .next (setXfer k { x with
      step := 1
      todo := x.todo ++ [(min m.arg.toNat x.length, min m.count.toNat (x.length - min m.arg.toNat x.length))] } a)) ∧
    (hear 7 m s = some a → x.step = 2 → exec (.verified m) s = .next (endXfer k 0 a))) ∧
  (∀ (m : TransferMsg) (k : Fin 8) (x : Transfer) (s : State), peerRing s true true m = some (k, x) → served s = true →
    x.step = 1 →
    exec (.data m) s = .next (sendData k x s) ∧
    (x.todo = [] → exec (.done m) s = .next (sendMessage k { x with step := 2 } 6 0 0 [] s))) ∧
  (∀ (m : TransferMsg) (k : Fin 8) (x : Transfer) (s a : State), peerRing s true true m = none →
    peerRing a false true m = some (k, x) → x.step = 1 →
    (hear 4 m s = some a → exec (.data m) s = .next (takeData x m a)) ∧
    (hear 6 m s = some a → exec (.done m) s = .next (takeDone k x a))) ∧
  (∀ (k : Fin 8) (x : Transfer) (s : State), xferOf s k = some x → alive s = true →
    (x.step ≠ 0 → x.fromHost = false → exec (.fwTransferIdleTimeout k) s = .next (timeoutXfer k x s)) ∧
    (x.step = 0 → exec (.fwOfferWaitTimeout k) s = .next (timeoutXfer k x s))) ∧
  (∀ (k : Fin 8) (x : Transfer) (s : State), verifying s = some (k, x) → alive s = true →
    let img := (fwInactive s).image
    let good := raiseFw 0x0C02 (imgField img 8 3 + 2 ^ 24 * b2n (!s.fw.active) + 2 ^ 32 * imgField img 20 4)
      (modSlot (!s.fw.active) (fun f => { f with state := 2, length := x.length }) s)
    let bad := fwRefused (if x.fromHost && !servesModule s (imgField img 16 1) (imgField img 17 1) then 3 else 1) false
      (modSlot (!s.fw.active) (fun _ => emptySlot) s)
    exec .fwVerifyDone s = .next (if imageVerified s img x.length
      then endXfer k 0 (if x.fromHost then good else sendMessage k x 7 0 0 [] good)
      else endXfer k 7 (if x.fromHost then bad else sendMessage k x 3 1 0 [] bad))) ∧
  (∀ (t : Nat) (s : State), s.mode.pauseAt = some t → alive s = true →
    (s.time.ticked = true → nowUs s = tickTime s s.time.tickNo → t ≤ nowUs s →
      exec .activationPauseBegin s = .next (beginPause s)) ∧
    ((s.time.ticked = false ∨ nowUs s ≠ tickTime s s.time.tickNo ∨ nowUs s < t) → t ≤ tickTime s (nextTick s) →
      exec .activationPauseBegin s = .next (beginPause (advanceTo (tickTime s (nextTick s)) s)))) ∧
  (∀ (l : List (Half × Byte)) (s : State), s.mode.pause = true → alive s = true → (fwInactive s).state = 2 →
    let a := modSlot s.fw.active (fun f => { f with state := 2 }) (modSlot (!s.fw.active) (fun f => { f with state := 3 }) s)
    let b := resetBlocks l (takeHeld (endPause { a with fw := { a.fw with active := !s.fw.active } }))
    let c := pauseReleases b.1
    exec (.activationPauseEnd l) s = .next (pendingSave (completeActivate 0 (raiseFw 0x0C04
      (imgField (fwActive c).image 8 3 + 2 ^ 24 * b2n (!s.fw.active) + 2 ^ 32 * min (nowUs s - s.mode.pauseFrom) 65535 +
        2 ^ 48 * b.2) c)))) ∧
  (∀ s : State, (endPause s).mode.pause = false ∧ (endPause s).field.frozen = false) ∧
  (∀ s : State, s.mode.pause = true → alive s = true →
    let a := advanceTo (s.mode.pauseFrom + 2000) s
    exec .activationFailure s = .next (pendingSave (completeActivate 7 (enterSafe 5 0xFF 0
      (modTasks (fun k => { k with pauseRelease := none }) (takeHeld (endPause (modSlot (!a.fw.active) (fun _ => emptySlot) a))))))))
end

