-- ==== Sys2Proof/Laws/Dispatch.lean ====
section
/-! SUPPORT. Each arm of `exec` as an equation, so that no proof unfolds the dispatch. -/

namespace Sys2Proof.Machine

@[simp] theorem exec_nop (d : OpDesc) (s : State) :
    exec (.nop d) s = execNop d s := rfl

@[simp] theorem exec_identify (d : Desc) (s : State) :
    exec (.identify d) s = execIdentify d s := rfl

@[simp] theorem exec_settingsWrite (d : Desc) (block : Half) (format : Byte) (buf : Bytes) (s : State) :
    exec (.settingsWrite d block format buf) s = execSettingsWrite d block format buf s := rfl

@[simp] theorem exec_settingsRead (d : Desc) (block : Half) (s : State) :
    exec (.settingsRead d block) s = execSettingsRead d block s := rfl

@[simp] theorem exec_modeSet (d : Desc) (mode : Byte) (start : Byte) (reason : Half) (s : State) :
    exec (.modeSet d mode start reason) s = execModeSet d mode start reason s := rfl

@[simp] theorem exec_taskLoad (d : Desc) (pkg : LoadPackage) (s : State) :
    exec (.taskLoad d pkg) s = execTaskLoad d pkg s := rfl

@[simp] theorem exec_taskControlEnable (d : Desc) (task : Byte) (s : State) :
    exec (.taskControlEnable d task) s = execTaskControlEnable d task s := rfl

@[simp] theorem exec_taskControlDisable (d : Desc) (task : Byte) (s : State) :
    exec (.taskControlDisable d task) s = execTaskControlDisable d task s := rfl

@[simp] theorem exec_taskControlTrigger (d : Desc) (task : Byte) (s : State) :
    exec (.taskControlTrigger d task) s = execTaskControlTrigger d task s := rfl

@[simp] theorem exec_taskControlQuery (d : Desc) (task : Byte) (s : State) :
    exec (.taskControlQuery d task) s = execTaskControlQuery d task s := rfl

@[simp] theorem exec_breakpointSet (d : Desc) (task : Byte) (bundle : Half) (s : State) :
    exec (.breakpointSet d task bundle) s = execBreakpointSet d task bundle s := rfl

@[simp] theorem exec_breakpointClear (d : Desc) (task : Byte) (bundle : Half) (s : State) :
    exec (.breakpointClear d task bundle) s = execBreakpointClear d task bundle s := rfl

@[simp] theorem exec_holdResume (d : Desc) (point : HoldPoint) (s : State) :
    exec (.holdResume d point) s = execHoldResume d point s := rfl

@[simp] theorem exec_step (d : Desc) (task : Byte) (count : Half) (s : State) :
    exec (.step d task count) s = execStep d task count s := rfl

@[simp] theorem exec_chanSync (d : Desc) (first count : Half) (reads : List (Nat × Option Bytes)) (s : State) :
    exec (.chanSync d first count reads) s = execChanSync d first count reads s := rfl

@[simp] theorem exec_wardenWrite (d : Desc) (first count : Half) (buf : Bytes) (s : State) :
    exec (.wardenWrite d first count buf) s = execWardenWrite d first count buf s := rfl

@[simp] theorem exec_imageExportSet (d : Desc) (region task image : Byte) (offset length : Half) (area : Word) (s : State) :
    exec (.imageExportSet d region task image offset length area) s = execImageExportSet d region task image offset length area s := rfl

@[simp] theorem exec_editPrepare (d : Desc) (pkg : EditPackage) (s : State) :
    exec (.editPrepare d pkg) s = execEditPrepare d pkg s := rfl

@[simp] theorem exec_editCommit (d : Desc) (earliest : DWord) (wait : EditWait) (s : State) :
    exec (.editCommit d earliest wait) s = execEditCommit d earliest wait s := rfl

@[simp] theorem exec_editRollback (d : Desc) (earliest : DWord) (wait : EditWait) (s : State) :
    exec (.editRollback d earliest wait) s = execEditRollback d earliest wait s := rfl

@[simp] theorem exec_profileLoad (d : Desc) (buf : Bytes) (s : State) :
    exec (.profileLoad d buf) s = execProfileLoad d buf s := rfl

@[simp] theorem exec_profileRequest (d : Desc) (profile cycles : Byte) (s : State) :
    exec (.profileRequest d profile cycles) s = execProfileRequest d profile cycles s := rfl

@[simp] theorem exec_retainRead (d : Desc) (first count : Word) (s : State) :
    exec (.retainRead d first count) s = execRetainRead d first count s := rfl

@[simp] theorem exec_retainWrite (d : Desc) (first count : Word) (buf : Bytes) (s : State) :
    exec (.retainWrite d first count buf) s = execRetainWrite d first count buf s := rfl

@[simp] theorem exec_sealLock (d : Desc) (confirm : Word) (buf : Bytes) (s : State) :
    exec (.sealLock d confirm buf) s = execSealLock d confirm buf s := rfl

@[simp] theorem exec_recorderRead (d : Desc) (first count : Word) (s : State) :
    exec (.recorderRead d first count) s = execRecorderRead d first count s := rfl

@[simp] theorem exec_clockRead (d : Desc) (s : State) :
    exec (.clockRead d) s = execClockRead d s := rfl

@[simp] theorem exec_clockAdjustSet (d : Desc) (seconds : BitVec 48) (nanoseconds : Word) (s : State) :
    exec (.clockAdjustSet d seconds nanoseconds) s = execClockAdjustSet d seconds nanoseconds s := rfl

@[simp] theorem exec_clockAdjustStep (d : Desc) (ns : DWord) (s : State) :
    exec (.clockAdjustStep d ns) s = execClockAdjustStep d ns s := rfl

@[simp] theorem exec_clockAdjustFreq (d : Desc) (freq : Word) (s : State) :
    exec (.clockAdjustFreq d freq) s = execClockAdjustFreq d freq s := rfl

@[simp] theorem exec_canSend (d : Desc) (controller buffer : Byte) (oneShot : Bool) (buf : Bytes) (s : State) :
    exec (.canSend d controller buffer oneShot buf) s = execCanSend d controller buffer oneShot buf s := rfl

@[simp] theorem exec_canCancel (d : Desc) (controller buffer : Byte) (s : State) :
    exec (.canCancel d controller buffer) s = execCanCancel d controller buffer s := rfl

@[simp] theorem exec_ethSend (d : Desc) (port queue : Byte) (launch stamp : Bool) (launchTime : DWord) (buf : Bytes) (s : State) :
    exec (.ethSend d port queue launch stamp launchTime buf) s = execEthSend d port queue launch stamp launchTime buf s := rfl

@[simp] theorem exec_ihlozScheduleLoad (d : Desc) (mode : Byte) (buf : Bytes) (s : State) :
    exec (.ihlozScheduleLoad d mode buf) s = execIhlozScheduleLoad d mode buf s := rfl

@[simp] theorem exec_hartTransact (d : Desc) (channel : Half) (retries : Byte) (buf : Bytes) (s : State) :
    exec (.hartTransact d channel retries buf) s = execHartTransact d channel retries buf s := rfl

@[simp] theorem exec_fwReceive (d : Desc) (source port : Byte) (length : Word) (image : Bytes) (s : State) :
    exec (.fwReceive d source port length image) s = execFwReceive d source port length image s := rfl

@[simp] theorem exec_fwForward (d : Desc) (path port : Byte) (s : State) :
    exec (.fwForward d path port) s = execFwForward d path port s := rfl

@[simp] theorem exec_fwActivate (d : Desc) (s : State) :
    exec (.fwActivate d) s = execFwActivate d s := rfl

@[simp] theorem exec_redundancyControlQuery (d : Desc) (s : State) :
    exec (.redundancyControlQuery d) s = execRedundancyControlQuery d s := rfl

@[simp] theorem exec_redundancyControlHandover (d : Desc) (s : State) :
    exec (.redundancyControlHandover d) s = execRedundancyControlHandover d s := rfl

@[simp] theorem exec_redundancyControlRetrain (d : Desc) (s : State) :
    exec (.redundancyControlRetrain d) s = execRedundancyControlRetrain d s := rfl

@[simp] theorem exec_hiCtrlEnableSet (value : Word) (s : State) :
    exec (.hiCtrlEnableSet value) s = execHiCtrlEnableSet value s := rfl

@[simp] theorem exec_hiCtrlEnableClear (value : Word) (s : State) :
    exec (.hiCtrlEnableClear value) s = execHiCtrlEnableClear value s := rfl

@[simp] theorem exec_ringCfgEnSet (ring : Fin 8) (value : Word) (s : State) :
    exec (.ringCfgEnSet ring value) s = execRingCfgEnSet ring value s := rfl

@[simp] theorem exec_ringCfgEnClear (ring : Fin 8) (value : Word) (s : State) :
    exec (.ringCfgEnClear ring value) s = execRingCfgEnClear ring value s := rfl

@[simp] theorem exec_bar0Write (access : BarAccess) (value : Word) (s : State) :
    exec (.bar0Write access value) s = execBar0Write access value s := rfl

@[simp] theorem exec_doorbellFetchDone (line : Bytes) (s : State) :
    exec (.doorbellFetchDone line) s = execDoorbellFetchDone line s := rfl

@[simp] theorem exec_msixCoalesceExpire (ring : Fin 9) (s : State) :
    exec (.msixCoalesceExpire ring) s = execMsixCoalesceExpire ring s := rfl

@[simp] theorem exec_pcieLinkUp (setup : LinkSetup) (width : BitVec 3) (s : State) :
    exec (.pcieLinkUp setup width) s = execPcieLinkUp setup width s := rfl

@[simp] theorem exec_placementPublish (p : Publication) (s : State) :
    exec (.placementPublish p) s = execPlacementPublish p s := rfl

@[simp] theorem exec_taskDeadline (task : BitVec 7) (s : State) :
    exec (.taskDeadline task) s = execTaskDeadline task s := rfl

@[simp] theorem exec_alarmTrigger (task : BitVec 7) (s : State) :
    exec (.alarmTrigger task) s = execAlarmTrigger task s := rfl

@[simp] theorem exec_eventTaskRelease (task : BitVec 7) (place : EventPlace) (s : State) :
    exec (.eventTaskRelease task place) s = execEventTaskRelease task place s := rfl

@[simp] theorem exec_instanceStart (task : BitVec 7) (delayNs : Nat) (parts : List Nat) (s : State) :
    exec (.instanceStart task delayNs parts) s = execInstanceStart task delayNs parts s := rfl

@[simp] theorem exec_pairedCopyBStart (task : BitVec 7) (delayNs : Nat) (parts : List Nat) (s : State) :
    exec (.pairedCopyBStart task delayNs parts) s = execPairedCopyBStart task delayNs parts s := rfl

@[simp] theorem exec_contextSwitch (u : StallId) (s : State) :
    exec (.contextSwitch u) s = execContextSwitch u s := rfl

@[simp] theorem exec_bundleIssue (u : StallId) (s : State) :
    exec (.bundleIssue u) s = execBundleIssue u s := rfl

@[simp] theorem exec_breakpointHit (u : StallId) (s : State) :
    exec (.breakpointHit u) s = execBreakpointHit u s := rfl

@[simp] theorem exec_immHi (u : StallId) (s : State) :
    exec (.immHi u) s = execImmHi u s := rfl

@[simp] theorem exec_aluAdd (u : StallId) (s : State) :
    exec (.aluAdd u) s = execAluAdd u s := rfl

@[simp] theorem exec_aluAdc (u : StallId) (s : State) :
    exec (.aluAdc u) s = execAluAdc u s := rfl

@[simp] theorem exec_aluSub (u : StallId) (s : State) :
    exec (.aluSub u) s = execAluSub u s := rfl

@[simp] theorem exec_aluSbc (u : StallId) (s : State) :
    exec (.aluSbc u) s = execAluSbc u s := rfl

@[simp] theorem exec_aluAnd (u : StallId) (s : State) :
    exec (.aluAnd u) s = execAluAnd u s := rfl

@[simp] theorem exec_aluOr (u : StallId) (s : State) :
    exec (.aluOr u) s = execAluOr u s := rfl

@[simp] theorem exec_aluXor (u : StallId) (s : State) :
    exec (.aluXor u) s = execAluXor u s := rfl

@[simp] theorem exec_aluAndn (u : StallId) (s : State) :
    exec (.aluAndn u) s = execAluAndn u s := rfl

@[simp] theorem exec_aluShl (u : StallId) (s : State) :
    exec (.aluShl u) s = execAluShl u s := rfl

@[simp] theorem exec_aluShr (u : StallId) (s : State) :
    exec (.aluShr u) s = execAluShr u s := rfl

@[simp] theorem exec_aluSar (u : StallId) (s : State) :
    exec (.aluSar u) s = execAluSar u s := rfl

@[simp] theorem exec_aluRol (u : StallId) (s : State) :
    exec (.aluRol u) s = execAluRol u s := rfl

@[simp] theorem exec_aluMin (u : StallId) (s : State) :
    exec (.aluMin u) s = execAluMin u s := rfl

@[simp] theorem exec_aluMax (u : StallId) (s : State) :
    exec (.aluMax u) s = execAluMax u s := rfl

@[simp] theorem exec_aluCmp (u : StallId) (s : State) :
    exec (.aluCmp u) s = execAluCmp u s := rfl

@[simp] theorem exec_macMul (u : StallId) (s : State) :
    exec (.macMul u) s = execMacMul u s := rfl

@[simp] theorem exec_macMac (u : StallId) (s : State) :
    exec (.macMac u) s = execMacMac u s := rfl

@[simp] theorem exec_macMsu (u : StallId) (s : State) :
    exec (.macMsu u) s = execMacMsu u s := rfl

@[simp] theorem exec_chkStep (u : StallId) (s : State) :
    exec (.chkStep u) s = execChkStep u s := rfl

@[simp] theorem exec_chkPar (u : StallId) (s : State) :
    exec (.chkPar u) s = execChkPar u s := rfl

@[simp] theorem exec_chkRev (u : StallId) (s : State) :
    exec (.chkRev u) s = execChkRev u s := rfl

@[simp] theorem exec_ldW (u : StallId) (s : State) :
    exec (.ldW u) s = execLdW u s := rfl

@[simp] theorem exec_ldHu (u : StallId) (s : State) :
    exec (.ldHu u) s = execLdHu u s := rfl

@[simp] theorem exec_ldBu (u : StallId) (s : State) :
    exec (.ldBu u) s = execLdBu u s := rfl

@[simp] theorem exec_stW (u : StallId) (s : State) :
    exec (.stW u) s = execStW u s := rfl

@[simp] theorem exec_stH (u : StallId) (s : State) :
    exec (.stH u) s = execStH u s := rfl

@[simp] theorem exec_stB (u : StallId) (s : State) :
    exec (.stB u) s = execStB u s := rfl

@[simp] theorem exec_lsBlk (u : StallId) (s : State) :
    exec (.lsBlk u) s = execLsBlk u s := rfl

@[simp] theorem exec_loadResultArrive (u : StallId) (frame : Fin 4) (s : State) :
    exec (.loadResultArrive u frame) s = execLoadResultArrive u frame s := rfl

@[simp] theorem exec_blockTransferComplete (u : StallId) (frame : Fin 4) (s : State) :
    exec (.blockTransferComplete u frame) s = execBlockTransferComplete u frame s := rfl

@[simp] theorem exec_rptGo (u : StallId) (s : State) :
    exec (.rptGo u) s = execRptGo u s := rfl

@[simp] theorem exec_rptExit (u : StallId) (s : State) :
    exec (.rptExit u) s = execRptExit u s := rfl

@[simp] theorem exec_imgRdb (u : StallId) (s : State) :
    exec (.imgRdb u) s = execImgRdb u s := rfl

@[simp] theorem exec_imgRdw (u : StallId) (s : State) :
    exec (.imgRdw u) s = execImgRdw u s := rfl

@[simp] theorem exec_imgWrb (u : StallId) (s : State) :
    exec (.imgWrb u) s = execImgWrb u s := rfl

@[simp] theorem exec_imgWrw (u : StallId) (s : State) :
    exec (.imgWrw u) s = execImgWrw u s := rfl

@[simp] theorem exec_solve (u : StallId) (s : State) :
    exec (.solve u) s = execSolve u s := rfl

@[simp] theorem exec_brJmp (u : StallId) (s : State) :
    exec (.brJmp u) s = execBrJmp u s := rfl

@[simp] theorem exec_brCall (u : StallId) (s : State) :
    exec (.brCall u) s = execBrCall u s := rfl

@[simp] theorem exec_brJnz (u : StallId) (s : State) :
    exec (.brJnz u) s = execBrJnz u s := rfl

@[simp] theorem exec_brJz (u : StallId) (s : State) :
    exec (.brJz u) s = execBrJz u s := rfl

@[simp] theorem exec_brJcc (u : StallId) (s : State) :
    exec (.brJcc u) s = execBrJcc u s := rfl

@[simp] theorem exec_brRel (u : StallId) (s : State) :
    exec (.brRel u) s = execBrRel u s := rfl

@[simp] theorem exec_txEnd (u : StallId) (s : State) :
    exec (.txEnd u) s = execTxEnd u s := rfl

@[simp] theorem exec_txAbort (u : StallId) (s : State) :
    exec (.txAbort u) s = execTxAbort u s := rfl

@[simp] theorem exec_sysEvt (u : StallId) (s : State) :
    exec (.sysEvt u) s = execSysEvt u s := rfl

@[simp] theorem exec_sysFence (u : StallId) (s : State) :
    exec (.sysFence u) s = execSysFence u s := rfl

@[simp] theorem exec_sysWait (u : StallId) (s : State) :
    exec (.sysWait u) s = execSysWait u s := rfl

@[simp] theorem exec_sysWdkey (u : StallId) (s : State) :
    exec (.sysWdkey u) s = execSysWdkey u s := rfl

@[simp] theorem exec_sysCheckin (u : StallId) (s : State) :
    exec (.sysCheckin u) s = execSysCheckin u s := rfl

@[simp] theorem exec_solverCallStart (b : Fin 4) (s : State) :
    exec (.solverCallStart b) s = execSolverCallStart b s := rfl

@[simp] theorem exec_solverCallLimit (b : Fin 4) (s : State) :
    exec (.solverCallLimit b) s = execSolverCallLimit b s := rfl

@[simp] theorem exec_solverResultArrive (u : StallId) (frame : Fin 4) (s : State) :
    exec (.solverResultArrive u frame) s = execSolverResultArrive u frame s := rfl

@[simp] theorem exec_ld (b : Fin 4) (wait : BitVec 12) (s : State) :
    exec (.ld b wait) s = execLd b wait s := rfl

@[simp] theorem exec_ldn (b : Fin 4) (wait : BitVec 12) (s : State) :
    exec (.ldn b wait) s = execLdn b wait s := rfl

@[simp] theorem exec_rungAnd (b : Fin 4) (wait : BitVec 12) (s : State) :
    exec (.rungAnd b wait) s = execRungAnd b wait s := rfl

@[simp] theorem exec_rungAndn (b : Fin 4) (wait : BitVec 12) (s : State) :
    exec (.rungAndn b wait) s = execRungAndn b wait s := rfl

@[simp] theorem exec_rungOr (b : Fin 4) (wait : BitVec 12) (s : State) :
    exec (.rungOr b wait) s = execRungOr b wait s := rfl

@[simp] theorem exec_rungOrn (b : Fin 4) (wait : BitVec 12) (s : State) :
    exec (.rungOrn b wait) s = execRungOrn b wait s := rfl

@[simp] theorem exec_rungXor (b : Fin 4) (wait : BitVec 12) (s : State) :
    exec (.rungXor b wait) s = execRungXor b wait s := rfl

@[simp] theorem exec_st (b : Fin 4) (wait : BitVec 12) (s : State) :
    exec (.st b wait) s = execSt b wait s := rfl

@[simp] theorem exec_stn (b : Fin 4) (wait : BitVec 12) (s : State) :
    exec (.stn b wait) s = execStn b wait s := rfl

@[simp] theorem exec_rungSet (b : Fin 4) (wait : BitVec 12) (s : State) :
    exec (.rungSet b wait) s = execRungSet b wait s := rfl

@[simp] theorem exec_rst (b : Fin 4) (wait : BitVec 12) (s : State) :
    exec (.rst b wait) s = execRst b wait s := rfl

@[simp] theorem exec_rise (b : Fin 4) (wait : BitVec 12) (s : State) :
    exec (.rise b wait) s = execRise b wait s := rfl

@[simp] theorem exec_fall (b : Fin 4) (wait : BitVec 12) (s : State) :
    exec (.fall b wait) s = execFall b wait s := rfl

@[simp] theorem exec_win (b : Fin 4) (s : State) :
    exec (.win b) s = execWin b s := rfl

@[simp] theorem exec_tmr (b : Fin 4) (wait : BitVec 12) (s : State) :
    exec (.tmr b wait) s = execTmr b wait s := rfl

@[simp] theorem exec_rungNop (b : Fin 4) (s : State) :
    exec (.rungNop b) s = execRungNop b s := rfl

@[simp] theorem exec_rungEnd (b : Fin 4) (s : State) :
    exec (.rungEnd b) s = execRungEnd b s := rfl

@[simp] theorem exec_endc (b : Fin 4) (s : State) :
    exec (.endc b) s = execEndc b s := rfl

@[simp] theorem exec_endcn (b : Fin 4) (s : State) :
    exec (.endcn b) s = execEndcn b s := rfl

@[simp] theorem exec_jmp (b : Fin 4) (s : State) :
    exec (.jmp b) s = execJmp b s := rfl

@[simp] theorem exec_jmpc (b : Fin 4) (s : State) :
    exec (.jmpc b) s = execJmpc b s := rfl

@[simp] theorem exec_jmpcn (b : Fin 4) (s : State) :
    exec (.jmpcn b) s = execJmpcn b s := rfl

@[simp] theorem exec_dup (b : Fin 4) (s : State) :
    exec (.dup b) s = execDup b s := rfl

@[simp] theorem exec_pop (b : Fin 4) (s : State) :
    exec (.pop b) s = execPop b s := rfl

@[simp] theorem exec_swap (b : Fin 4) (s : State) :
    exec (.swap b) s = execSwap b s := rfl

@[simp] theorem exec_rungNot (b : Fin 4) (s : State) :
    exec (.rungNot b) s = execRungNot b s := rfl

@[simp] theorem exec_ands (b : Fin 4) (s : State) :
    exec (.ands b) s = execAnds b s := rfl

@[simp] theorem exec_ors (b : Fin 4) (s : State) :
    exec (.ors b) s = execOrs b s := rfl

@[simp] theorem exec_xors (b : Fin 4) (s : State) :
    exec (.xors b) s = execXors b s := rfl

@[simp] theorem exec_push0 (b : Fin 4) (s : State) :
    exec (.push0 b) s = execPush0 b s := rfl

@[simp] theorem exec_push1 (b : Fin 4) (s : State) :
    exec (.push1 b) s = execPush1 b s := rfl

@[simp] theorem exec_clr (b : Fin 4) (s : State) :
    exec (.clr b) s = execClr b s := rfl

@[simp] theorem exec_pairCompare (task : BitVec 7) (s : State) :
    exec (.pairCompare task) s = execPairCompare task s := rfl

@[simp] theorem exec_pairDeadline (task : BitVec 7) (s : State) :
    exec (.pairDeadline task) s = execPairDeadline task s := rfl

@[simp] theorem exec_imageExportWrite (region : Fin 64) (s : State) :
    exec (.imageExportWrite region) s = execImageExportWrite region s := rfl

@[simp] theorem exec_cacheLoad (chan : BitVec 12) (hostRead : Option Bytes) (s : State) :
    exec (.cacheLoad chan hostRead) s = execCacheLoad chan hostRead s := rfl

@[simp] theorem exec_channelStale (chan : BitVec 12) (s : State) :
    exec (.channelStale chan) s = execChannelStale chan s := rfl

@[simp] theorem exec_drainFenceComplete (m : FenceMarkers) (s : State) :
    exec (.drainFenceComplete m) s = execDrainFenceComplete m s := rfl

@[simp] theorem exec_resultForwarded (r : Forwarded) (s : State) :
    exec (.resultForwarded r) s = execResultForwarded r s := rfl

@[simp] theorem exec_homeLineMove (line : Nat) (s : State) :
    exec (.homeLineMove line) s = execHomeLineMove line s := rfl

@[simp] theorem exec_wakeDecision (b : Fin 4) (s : State) :
    exec (.wakeDecision b) s = execWakeDecision b s := rfl

@[simp] theorem exec_barnPowerSwitchOn (b : Fin 4) (s : State) :
    exec (.barnPowerSwitchOn b) s = execBarnPowerSwitchOn b s := rfl

@[simp] theorem exec_barnPllLock (b : Fin 4) (s : State) :
    exec (.barnPllLock b) s = execBarnPllLock b s := rfl

@[simp] theorem exec_barnClockRamp (b : Fin 4) (s : State) :
    exec (.barnClockRamp b) s = execBarnClockRamp b s := rfl

@[simp] theorem exec_stallUngate (u : StallId) (s : State) :
    exec (.stallUngate u) s = execStallUngate u s := rfl

@[simp] theorem exec_solverUngate (b : Fin 4) (s : State) :
    exec (.solverUngate b) s = execSolverUngate b s := rfl

@[simp] theorem exec_stallGate (b : Fin 4) (stall : Option (Fin 5)) (s : State) :
    exec (.stallGate b stall) s = execStallGate b stall s := rfl

@[simp] theorem exec_barnPowerOff (b : Fin 4) (s : State) :
    exec (.barnPowerOff b) s = execBarnPowerOff b s := rfl

@[simp] theorem exec_farrierRead (stalls : List (StallId × Nat)) (solvers : List (Fin 4 × Nat)) (s : State) :
    exec (.farrierRead stalls solvers) s = execFarrierRead stalls solvers s := rfl

@[simp] theorem exec_stallRetired (u : StallId) (s : State) :
    exec (.stallRetired u) s = execStallRetired u s := rfl

@[simp] theorem exec_stallFailed (u : StallId) (detection : Byte) (s : State) :
    exec (.stallFailed u detection) s = execStallFailed u detection s := rfl

@[simp] theorem exec_solverRetired (b : Fin 4) (cause : Byte) (s : State) :
    exec (.solverRetired b cause) s = execSolverRetired b cause s := rfl

@[simp] theorem exec_groomTest (u : StallId) (passed : Bool) (s : State) :
    exec (.groomTest u passed) s = execGroomTest u passed s := rfl

@[simp] theorem exec_groomScrub (result : ScrubResult) (s : State) :
    exec (.groomScrub result) s = execGroomScrub result s := rfl

@[simp] theorem exec_thermalHigh (b : Fin 4) (temp : Half) (s : State) :
    exec (.thermalHigh b temp) s = execThermalHigh b temp s := rfl

@[simp] theorem exec_diSample (g : Fin 8) (r : DiReading) (s : State) :
    exec (.diSample g r) s = execDiSample g r s := rfl

@[simp] theorem exec_wettingPulse (g : Fin 8) (s : State) :
    exec (.wettingPulse g) s = execWettingPulse g s := rfl

@[simp] theorem exec_countEdge (n : Fin 8) (seen : CountSeen) (s : State) :
    exec (.countEdge n seen) s = execCountEdge n seen s := rfl

@[simp] theorem exec_chatterWindowExpire (n : Fin 64) (s : State) :
    exec (.chatterWindowExpire n) s = execChatterWindowExpire n s := rfl

@[simp] theorem exec_stuckTimeout (n : Fin 64) (s : State) :
    exec (.stuckTimeout n) s = execStuckTimeout n s := rfl

@[simp] theorem exec_countOverrateExpire (n : Fin 8) (s : State) :
    exec (.countOverrateExpire n) s = execCountOverrateExpire n s := rfl

@[simp] theorem exec_readbackSample (r : DoReading) (s : State) :
    exec (.readbackSample r) s = execReadbackSample r s := rfl

@[simp] theorem exec_doCurrentLimit (n : Fin 64) (s : State) :
    exec (.doCurrentLimit n) s = execDoCurrentLimit n s := rfl

@[simp] theorem exec_doThermalShutdown (n : Fin 64) (s : State) :
    exec (.doThermalShutdown n) s = execDoThermalShutdown n s := rfl

@[simp] theorem exec_doThermalRetry (n : Fin 64) (s : State) :
    exec (.doThermalRetry n) s = execDoThermalRetry n s := rfl

@[simp] theorem exec_groupOvercurrent (g : Fin 8) (s : State) :
    exec (.groupOvercurrent g) s = execGroupOvercurrent g s := rfl

@[simp] theorem exec_groupRetry (g : Fin 8) (s : State) :
    exec (.groupRetry g) s = execGroupRetry g s := rfl

@[simp] theorem exec_doSupplyLow (g : Fin 8) (vfDv : Half) (s : State) :
    exec (.doSupplyLow g vfDv) s = execDoSupplyLow g vfDv s := rfl

@[simp] theorem exec_loopConversion (r : List LoopReading) (s : State) :
    exec (.loopConversion r) s = execLoopConversion r s := rfl

@[simp] theorem exec_aoLinkTimeout (n : Fin 16) (s : State) :
    exec (.aoLinkTimeout n) s = execAoLinkTimeout n s := rfl

@[simp] theorem exec_hartAttempt (n : Fin 32) (s : State) :
    exec (.hartAttempt n) s = execHartAttempt n s := rfl

@[simp] theorem exec_hartResponse (n : Fin 32) (f : HartFrame) (s : State) :
    exec (.hartResponse n f) s = execHartResponse n f s := rfl

@[simp] theorem exec_hartNoResponse (n : Fin 32) (s : State) :
    exec (.hartNoResponse n) s = execHartNoResponse n s := rfl

@[simp] theorem exec_hartBusBusy (n : Fin 32) (s : State) :
    exec (.hartBusBusy n) s = execHartBusBusy n s := rfl

@[simp] theorem exec_hartStray (n : Fin 32) (s : State) :
    exec (.hartStray n) s = execHartStray n s := rfl

@[simp] theorem exec_ihlozFrameReceive (chanB : Bool) (f : IhlozFrame) (arrival : Int) (s : State) :
    exec (.ihlozFrameReceive chanB f arrival) s = execIhlozFrameReceive chanB f arrival s := rfl

@[simp] theorem exec_payloadFreeze (slot : Byte) (s : State) :
    exec (.payloadFreeze slot) s = execPayloadFreeze slot s := rfl

@[simp] theorem exec_ihlozSlotSend (slot : Byte) (seenA seenB : Bool) (s : State) :
    exec (.ihlozSlotSend slot seenA seenB) s = execIhlozSlotSend slot seenA seenB s := rfl

@[simp] theorem exec_ihlozSlotEnd (slot : Byte) (s : State) :
    exec (.ihlozSlotEnd slot) s = execIhlozSlotEnd slot s := rfl

@[simp] theorem exec_ihlozCycleStart (offsetNs : Int) (s : State) :
    exec (.ihlozCycleStart offsetNs) s = execIhlozCycleStart offsetNs s := rfl

@[simp] theorem exec_ihlozTWaitExpire (seenA seenB : Bool) (s : State) :
    exec (.ihlozTWaitExpire seenA seenB) s = execIhlozTWaitExpire seenA seenB s := rfl

@[simp] theorem exec_collisionMarkerReceive (seen : MarkerSeen) (port : Option (Fin 8)) (s : State) :
    exec (.collisionMarkerReceive seen port) s = execCollisionMarkerReceive seen port s := rfl

@[simp] theorem exec_starDelimiterDetect (port : Fin 8) (tick : Nat) (s : State) :
    exec (.starDelimiterDetect port tick) s = execStarDelimiterDetect port tick s := rfl

@[simp] theorem exec_starForwardCut (port : Fin 8) (s : State) :
    exec (.starForwardCut port) s = execStarForwardCut port s := rfl

@[simp] theorem exec_canFrameReceive (c : Fin 4) (f : CanSamples) (sof : Word) (s : State) :
    exec (.canFrameReceive c f sof) s = execCanFrameReceive c f sof s := rfl

@[simp] theorem exec_canTxComplete (c : Fin 4) (sof : Word) (s : State) :
    exec (.canTxComplete c sof) s = execCanTxComplete c sof s := rfl

@[simp] theorem exec_canArbitrationLost (c : Fin 4) (sof : Word) (s : State) :
    exec (.canArbitrationLost c sof) s = execCanArbitrationLost c sof s := rfl

@[simp] theorem exec_canBusError (c : Fin 4) (e : CanError) (sof : Word) (s : State) :
    exec (.canBusError c e sof) s = execCanBusError c e sof s := rfl

@[simp] theorem exec_canRecoverWaitExpire (c : Fin 4) (s : State) :
    exec (.canRecoverWaitExpire c) s = execCanRecoverWaitExpire c s := rfl

@[simp] theorem exec_canBusOffRecovery (c : Fin 4) (s : State) :
    exec (.canBusOffRecovery c) s = execCanBusOffRecovery c s := rfl

@[simp] theorem exec_canIntegrate (c : Fin 4) (s : State) :
    exec (.canIntegrate c) s = execCanIntegrate c s := rfl

@[simp] theorem exec_canTxPeriod (c : Fin 4) (chan : BitVec 12) (s : State) :
    exec (.canTxPeriod c chan) s = execCanTxPeriod c chan s := rfl

@[simp] theorem exec_canBuffer2Load (c : Fin 4) (s : State) :
    exec (.canBuffer2Load c) s = execCanBuffer2Load c s := rfl

@[simp] theorem exec_ethFrameReceive (p : Fin 2) (frame : Bytes) (fcsGood : Bool) (sfd : Nat) (s : State) :
    exec (.ethFrameReceive p frame fcsGood sfd) s = execEthFrameReceive p frame fcsGood sfd s := rfl

@[simp] theorem exec_ethLaunch (p : Fin 2) (queue : Fin 8) (s : State) :
    exec (.ethLaunch p queue) s = execEthLaunch p queue s := rfl

@[simp] theorem exec_ethFrameSent (p : Fin 2) (queue : Fin 8) (sfd : Nat) (s : State) :
    exec (.ethFrameSent p queue sfd) s = execEthFrameSent p queue sfd s := rfl

@[simp] theorem exec_ethSendTimeout (p : Fin 2) (queue : Fin 8) (s : State) :
    exec (.ethSendTimeout p queue) s = execEthSendTimeout p queue s := rfl

@[simp] theorem exec_ethLink (p : Fin 2) (up : Bool) (speed : BitVec 2) (s : State) :
    exec (.ethLink p up speed) s = execEthLink p up speed s := rfl

@[simp] theorem exec_ethTxPeriod (p : Fin 2) (chan : BitVec 12) (s : State) :
    exec (.ethTxPeriod p chan) s = execEthTxPeriod p chan s := rfl

@[simp] theorem exec_ptpMessageTimer (p : Fin 2) (message : BitVec 4) (s : State) :
    exec (.ptpMessageTimer p message) s = execPtpMessageTimer p message s := rfl

@[simp] theorem exec_trainingStepDone (lanes : BitVec 2) (partner : Option Identity) (s : State) :
    exec (.trainingStepDone lanes partner) s = execTrainingStepDone lanes partner s := rfl

@[simp] theorem exec_linkLane (lane : Fin 2) (s : State) :
    exec (.linkLane lane) s = execLinkLane lane s := rfl

@[simp] theorem exec_heartbeatReceive (h : Heartbeat) (s : State) :
    exec (.heartbeatReceive h) s = execHeartbeatReceive h s := rfl

@[simp] theorem exec_baleApply (b : Bale) (s : State) :
    exec (.baleApply b) s = execBaleApply b s := rfl

@[simp] theorem exec_retainPageWrite (storeMv : Nat) (s : State) :
    exec (.retainPageWrite storeMv) s = execRetainPageWrite storeMv s := rfl

@[simp] theorem exec_recorderWrite (storeMv : Nat) (s : State) :
    exec (.recorderWrite storeMv) s = execRecorderWrite storeMv s := rfl

@[simp] theorem exec_supplyUndervoltage (storeMv : Nat) (s : State) :
    exec (.supplyUndervoltage storeMv) s = execSupplyUndervoltage storeMv s := rfl

@[simp] theorem exec_supplyReturn (durationUs storeMv : Nat) (s : State) :
    exec (.supplyReturn durationUs storeMv) s = execSupplyReturn durationUs storeMv s := rfl

@[simp] theorem exec_rideMsExpire (storeMv : Nat) (s : State) :
    exec (.rideMsExpire storeMv) s = execRideMsExpire storeMv s := rfl

@[simp] theorem exec_storeAtVSave (storeMv : Nat) (s : State) :
    exec (.storeAtVSave storeMv) s = execStoreAtVSave storeMv s := rfl

@[simp] theorem exec_prsntLateOpen (storeMv : Nat) (s : State) :
    exec (.prsntLateOpen storeMv) s = execPrsntLateOpen storeMv s := rfl

@[simp] theorem exec_holdupMeasure (capacitance storeMv : Nat) (s : State) :
    exec (.holdupMeasure capacitance storeMv) s = execHoldupMeasure capacitance storeMv s := rfl

@[simp] theorem exec_holdupCharged (storeMv : Nat) (s : State) :
    exec (.holdupCharged storeMv) s = execHoldupCharged storeMv s := rfl

@[simp] theorem exec_coreSupplyFault (above : Bool) (groupsDone : Nat) (mixed : DWord) (s : State) :
    exec (.coreSupplyFault above groupsDone mixed) s = execCoreSupplyFault above groupsDone mixed s := rfl

@[simp] theorem exec_powerGood (p : PowerGoodPins) (s : State) :
    exec (.powerGood p) s = execPowerGood p s := rfl

@[simp] theorem exec_startupPhase1End (activeSlotGood : Bool) (s : State) :
    exec (.startupPhase1End activeSlotGood) s = execStartupPhase1End activeSlotGood s := rfl

@[simp] theorem exec_startupPhase2End (r : SelfTest) (s : State) :
    exec (.startupPhase2End r) s = execStartupPhase2End r s := rfl

@[simp] theorem exec_startupPhase3End (storeMv : Nat) (s : State) :
    exec (.startupPhase3End storeMv) s = execStartupPhase3End storeMv s := rfl

@[simp] theorem exec_startupPhase6End (partnerT0 : Int) (s : State) :
    exec (.startupPhase6End partnerT0) s = execStartupPhase6End partnerT0 s := rfl

@[simp] theorem exec_startupPhase7End (nextCycleUs : Nat) (s : State) :
    exec (.startupPhase7End nextCycleUs) s = execStartupPhase7End nextCycleUs s := rfl

@[simp] theorem exec_startupPhase8End (startupMs : Nat) (s : State) :
    exec (.startupPhase8End startupMs) s = execStartupPhase8End startupMs s := rfl

@[simp] theorem exec_pllLossOfLock (fabric : Bool) (s : State) :
    exec (.pllLossOfLock fabric) s = execPllLossOfLock fabric s := rfl

@[simp] theorem exec_barnClockFail (b : Fin 4) (solverPll : Bool) (s : State) :
    exec (.barnClockFail b solverPll) s = execBarnClockFail b solverPll s := rfl

@[simp] theorem exec_clockMonitorPeriod (watchCycles : Nat) (s : State) :
    exec (.clockMonitorPeriod watchCycles) s = execClockMonitorPeriod watchCycles s := rfl

@[simp] theorem exec_clockEdgeGap (watch : Bool) (s : State) :
    exec (.clockEdgeGap watch) s = execClockEdgeGap watch s := rfl

@[simp] theorem exec_offer (m : TransferMsg) (s : State) :
    exec (.offer m) s = execOffer m s := rfl

@[simp] theorem exec_data (m : TransferMsg) (s : State) :
    exec (.data m) s = execData m s := rfl

@[simp] theorem exec_done (m : TransferMsg) (s : State) :
    exec (.done m) s = execDone m s := rfl

@[simp] theorem exec_activationPauseEnd (reads : List (Half × Byte)) (s : State) :
    exec (.activationPauseEnd reads) s = execActivationPauseEnd reads s := rfl

@[simp] theorem exec_pcieCompletionTimeout (kind : FetchKind) (ring : Fin 8) (tag : Half) (addr : DWord) (s : State) :
    exec (.pcieCompletionTimeout kind ring tag addr) s = execPcieCompletionTimeout kind ring tag addr s := rfl

@[simp] theorem exec_currentLimitLeft (n : Fin 64) (s : State) :
    exec (.currentLimitLeft n) s = execCurrentLimitLeft n s := rfl

@[simp] theorem exec_groupOvercurrentLeft (g : Fin 8) (s : State) :
    exec (.groupOvercurrentLeft g) s = execGroupOvercurrentLeft g s := rfl

@[simp] theorem exec_doThermalCooled (n : Fin 64) (s : State) :
    exec (.doThermalCooled n) s = execDoThermalCooled n s := rfl

@[simp] theorem exec_hartNoEnergy (n : Fin 32) (s : State) :
    exec (.hartNoEnergy n) s = execHartNoEnergy n s := rfl

@[simp] theorem exec_starContinuousCut (port : Fin 8) (s : State) :
    exec (.starContinuousCut port) s = execStarContinuousCut port s := rfl

@[simp] theorem exec_starCutExpire (port : Fin 8) (s : State) :
    exec (.starCutExpire port) s = execStarCutExpire port s := rfl

@[simp] theorem exec_offerRepeat (ring : Fin 8) (s : State) :
    exec (.offerRepeat ring) s = execOfferRepeat ring s := rfl

@[simp] theorem exec_accept (m : TransferMsg) (s : State) :
    exec (.accept m) s = execAccept m s := rfl

@[simp] theorem exec_refuse (m : TransferMsg) (s : State) :
    exec (.refuse m) s = execRefuse m s := rfl

@[simp] theorem exec_nack (m : TransferMsg) (s : State) :
    exec (.nack m) s = execNack m s := rfl

@[simp] theorem exec_verified (m : TransferMsg) (s : State) :
    exec (.verified m) s = execVerified m s := rfl

@[simp] theorem exec_fwTransferIdleTimeout (ring : Fin 8) (s : State) :
    exec (.fwTransferIdleTimeout ring) s = execFwTransferIdleTimeout ring s := rfl

@[simp] theorem exec_fwOfferWaitTimeout (ring : Fin 8) (s : State) :
    exec (.fwOfferWaitTimeout ring) s = execFwOfferWaitTimeout ring s := rfl

@[simp] theorem exec_bulkCopyReceive (lines : List BulkLine) (s : State) :
    exec (.bulkCopyReceive lines) s = execBulkCopyReceive lines s := rfl

@[simp] theorem exec_ext (b : Fin 4) (s : State) :
    exec (.ext b) s = execExt b s := rfl

@[simp] theorem exec_doorbellPoll (s : State) :
    exec (.doorbellPoll) s = execDoorbellPoll s := rfl

@[simp] theorem exec_echoLineWrite (s : State) :
    exec (.echoLineWrite) s = execEchoLineWrite s := rfl

@[simp] theorem exec_pcieLinkDown (s : State) :
    exec (.pcieLinkDown) s = execPcieLinkDown s := rfl

@[simp] theorem exec_hotReset (s : State) :
    exec (.hotReset) s = execHotReset s := rfl

@[simp] theorem exec_functionLevelReset (s : State) :
    exec (.functionLevelReset) s = execFunctionLevelReset s := rfl

@[simp] theorem exec_surpriseRemoval (s : State) :
    exec (.surpriseRemoval) s = execSurpriseRemoval s := rfl

@[simp] theorem exec_perstNAssert (s : State) :
    exec (.perstNAssert) s = execPerstNAssert s := rfl

@[simp] theorem exec_perstNRelease (s : State) :
    exec (.perstNRelease) s = execPerstNRelease s := rfl

@[simp] theorem exec_foldRepost (s : State) :
    exec (.foldRepost) s = execFoldRepost s := rfl

@[simp] theorem exec_baseTick (s : State) :
    exec (.baseTick) s = execBaseTick s := rfl

@[simp] theorem exec_commit (s : State) :
    exec (.commit) s = execCommit s := rfl

@[simp] theorem exec_escalationHandoverTimeout (s : State) :
    exec (.escalationHandoverTimeout) s = execEscalationHandoverTimeout s := rfl

@[simp] theorem exec_directOutputApply (s : State) :
    exec (.directOutputApply) s = execDirectOutputApply s := rfl

@[simp] theorem exec_baleSend (s : State) :
    exec (.baleSend) s = execBaleSend s := rfl

@[simp] theorem exec_editCommitApply (s : State) :
    exec (.editCommitApply) s = execEditCommitApply s := rfl

@[simp] theorem exec_editCommitTimeout (s : State) :
    exec (.editCommitTimeout) s = execEditCommitTimeout s := rfl

@[simp] theorem exec_profileVoteComplete (s : State) :
    exec (.profileVoteComplete) s = execProfileVoteComplete s := rfl

@[simp] theorem exec_profileVoteFailed (s : State) :
    exec (.profileVoteFailed) s = execProfileVoteFailed s := rfl

@[simp] theorem exec_profileSwitch (s : State) :
    exec (.profileSwitch) s = execProfileSwitch s := rfl

@[simp] theorem exec_clockSyncCorrection (s : State) :
    exec (.clockSyncCorrection) s = execClockSyncCorrection s := rfl

@[simp] theorem exec_telithTrainingStart (s : State) :
    exec (.telithTrainingStart) s = execTelithTrainingStart s := rfl

@[simp] theorem exec_trainingStepTimeout (s : State) :
    exec (.trainingStepTimeout) s = execTrainingStepTimeout s := rfl

@[simp] theorem exec_soloTimeout (s : State) :
    exec (.soloTimeout) s = execSoloTimeout s := rfl

@[simp] theorem exec_roleDecision (s : State) :
    exec (.roleDecision) s = execRoleDecision s := rfl

@[simp] theorem exec_telithLinkLost (s : State) :
    exec (.telithLinkLost) s = execTelithLinkLost s := rfl

@[simp] theorem exec_heartbeatSend (s : State) :
    exec (.heartbeatSend) s = execHeartbeatSend s := rfl

@[simp] theorem exec_claimTaken (s : State) :
    exec (.claimTaken) s = execClaimTaken s := rfl

@[simp] theorem exec_takeover (s : State) :
    exec (.takeover) s = execTakeover s := rfl

@[simp] theorem exec_handoverRequestReceive (s : State) :
    exec (.handoverRequestReceive) s = execHandoverRequestReceive s := rfl

@[simp] theorem exec_handoverTimeout (s : State) :
    exec (.handoverTimeout) s = execHandoverTimeout s := rfl

@[simp] theorem exec_bulkDone (s : State) :
    exec (.bulkDone) s = execBulkDone s := rfl

@[simp] theorem exec_retainedSavePeriodic (s : State) :
    exec (.retainedSavePeriodic) s = execRetainedSavePeriodic s := rfl

@[simp] theorem exec_powerDownSaveDone (s : State) :
    exec (.powerDownSaveDone) s = execPowerDownSaveDone s := rfl

@[simp] theorem exec_holdupChargeTimeout (s : State) :
    exec (.holdupChargeTimeout) s = execHoldupChargeTimeout s := rfl

@[simp] theorem exec_coreRailRecovered (s : State) :
    exec (.coreRailRecovered) s = execCoreRailRecovered s := rfl

@[simp] theorem exec_prsntEarlyClose (s : State) :
    exec (.prsntEarlyClose) s = execPrsntEarlyClose s := rfl

@[simp] theorem exec_mainSupplySwitch (s : State) :
    exec (.mainSupplySwitch) s = execMainSupplySwitch s := rfl

@[simp] theorem exec_startupPhase4End (s : State) :
    exec (.startupPhase4End) s = execStartupPhase4End s := rfl

@[simp] theorem exec_startupPhase5End (s : State) :
    exec (.startupPhase5End) s = execStartupPhase5End s := rfl

@[simp] theorem exec_watchdogTick (s : State) :
    exec (.watchdogTick) s = execWatchdogTick s := rfl

@[simp] theorem exec_wdtWindowEnd (s : State) :
    exec (.wdtWindowEnd) s = execWdtWindowEnd s := rfl

@[simp] theorem exec_wdtPauseExpire (s : State) :
    exec (.wdtPauseExpire) s = execWdtPauseExpire s := rfl

@[simp] theorem exec_wdtTripPulseEnd (s : State) :
    exec (.wdtTripPulseEnd) s = execWdtTripPulseEnd s := rfl

@[simp] theorem exec_expiryRecordTimeout (s : State) :
    exec (.expiryRecordTimeout) s = execExpiryRecordTimeout s := rfl

@[simp] theorem exec_fwVerifyDone (s : State) :
    exec (.fwVerifyDone) s = execFwVerifyDone s := rfl

@[simp] theorem exec_activationPauseBegin (s : State) :
    exec (.activationPauseBegin) s = execActivationPauseBegin s := rfl

@[simp] theorem exec_activationFailure (s : State) :
    exec (.activationFailure) s = execActivationFailure s := rfl

end Sys2Proof.Machine
end

