-- ==== Sys2Proof/Laws/State.lean ====
section
/-! SUPPORT. What each update of the state leaves as it was: one lemma per field and update, true by unfolding alone, and
what an update of one entry of a vector gives at that entry and at the others. -/

namespace Sys2Proof.Machine

/-! ### netTicks -/

@[simp] theorem netTicks_factory (n : Nat) (s : State) : (netTicks n s).factory = s.factory := rfl
@[simp] theorem netTicks_mode (n : Nat) (s : State) : (netTicks n s).mode = s.mode := rfl
@[simp] theorem netTicks_power (n : Nat) (s : State) : (netTicks n s).power = s.power := rfl
@[simp] theorem netTicks_host (n : Nat) (s : State) : (netTicks n s).host = s.host := rfl
@[simp] theorem netTicks_hostMem (n : Nat) (s : State) : (netTicks n s).hostMem = s.hostMem := rfl
@[simp] theorem netTicks_recorder (n : Nat) (s : State) : (netTicks n s).recorder = s.recorder := rfl
@[simp] theorem netTicks_ret (n : Nat) (s : State) : (netTicks n s).ret = s.ret := rfl
@[simp] theorem netTicks_proj (n : Nat) (s : State) : (netTicks n s).proj = s.proj := rfl
@[simp] theorem netTicks_prof (n : Nat) (s : State) : (netTicks n s).prof = s.prof := rfl
@[simp] theorem netTicks_tasks (n : Nat) (s : State) : (netTicks n s).tasks = s.tasks := rfl
@[simp] theorem netTicks_stalls (n : Nat) (s : State) : (netTicks n s).stalls = s.stalls := rfl
@[simp] theorem netTicks_barns (n : Nat) (s : State) : (netTicks n s).barns = s.barns := rfl
@[simp] theorem netTicks_yard (n : Nat) (s : State) : (netTicks n s).yard = s.yard := rfl
@[simp] theorem netTicks_commit (n : Nat) (s : State) : (netTicks n s).commit = s.commit := rfl
@[simp] theorem netTicks_chan (n : Nat) (s : State) : (netTicks n s).chan = s.chan := rfl
@[simp] theorem netTicks_field (n : Nat) (s : State) : (netTicks n s).field = s.field := rfl
@[simp] theorem netTicks_loops (n : Nat) (s : State) : (netTicks n s).loops = s.loops := rfl
@[simp] theorem netTicks_ihloz (n : Nat) (s : State) : (netTicks n s).ihloz = s.ihloz := rfl
@[simp] theorem netTicks_star (n : Nat) (s : State) : (netTicks n s).star = s.star := rfl
@[simp] theorem netTicks_can (n : Nat) (s : State) : (netTicks n s).can = s.can := rfl
@[simp] theorem netTicks_eth (n : Nat) (s : State) : (netTicks n s).eth = s.eth := rfl
@[simp] theorem netTicks_ptp (n : Nat) (s : State) : (netTicks n s).ptp = s.ptp := rfl
@[simp] theorem netTicks_pair (n : Nat) (s : State) : (netTicks n s).pair = s.pair := rfl
@[simp] theorem netTicks_wdt (n : Nat) (s : State) : (netTicks n s).wdt = s.wdt := rfl
@[simp] theorem netTicks_fw (n : Nat) (s : State) : (netTicks n s).fw = s.fw := rfl
@[simp] theorem netTicks_free (n : Nat) (s : State) : (netTicks n s).free = s.free := rfl
@[simp] theorem netTicks_pending (n : Nat) (s : State) : (netTicks n s).pending = s.pending := rfl

/-! ### advanceTask -/

@[simp] theorem advanceTask_factory (instant : Nat) (s : State) : (advanceTask instant s).factory = s.factory := rfl
@[simp] theorem advanceTask_mode (instant : Nat) (s : State) : (advanceTask instant s).mode = s.mode := rfl
@[simp] theorem advanceTask_power (instant : Nat) (s : State) : (advanceTask instant s).power = s.power := rfl
@[simp] theorem advanceTask_host (instant : Nat) (s : State) : (advanceTask instant s).host = s.host := rfl
@[simp] theorem advanceTask_hostMem (instant : Nat) (s : State) : (advanceTask instant s).hostMem = s.hostMem := rfl
@[simp] theorem advanceTask_recorder (instant : Nat) (s : State) : (advanceTask instant s).recorder = s.recorder := rfl
@[simp] theorem advanceTask_ret (instant : Nat) (s : State) : (advanceTask instant s).ret = s.ret := rfl
@[simp] theorem advanceTask_proj (instant : Nat) (s : State) : (advanceTask instant s).proj = s.proj := rfl
@[simp] theorem advanceTask_prof (instant : Nat) (s : State) : (advanceTask instant s).prof = s.prof := rfl
@[simp] theorem advanceTask_tasks (instant : Nat) (s : State) : (advanceTask instant s).tasks = s.tasks := rfl
@[simp] theorem advanceTask_stalls (instant : Nat) (s : State) : (advanceTask instant s).stalls = s.stalls := rfl
@[simp] theorem advanceTask_barns (instant : Nat) (s : State) : (advanceTask instant s).barns = s.barns := rfl
@[simp] theorem advanceTask_yard (instant : Nat) (s : State) : (advanceTask instant s).yard = s.yard := rfl
@[simp] theorem advanceTask_commit (instant : Nat) (s : State) : (advanceTask instant s).commit = s.commit := rfl
@[simp] theorem advanceTask_chan (instant : Nat) (s : State) : (advanceTask instant s).chan = s.chan := rfl
@[simp] theorem advanceTask_field (instant : Nat) (s : State) : (advanceTask instant s).field = s.field := rfl
@[simp] theorem advanceTask_loops (instant : Nat) (s : State) : (advanceTask instant s).loops = s.loops := rfl
@[simp] theorem advanceTask_ihloz (instant : Nat) (s : State) : (advanceTask instant s).ihloz = s.ihloz := rfl
@[simp] theorem advanceTask_star (instant : Nat) (s : State) : (advanceTask instant s).star = s.star := rfl
@[simp] theorem advanceTask_can (instant : Nat) (s : State) : (advanceTask instant s).can = s.can := rfl
@[simp] theorem advanceTask_eth (instant : Nat) (s : State) : (advanceTask instant s).eth = s.eth := rfl
@[simp] theorem advanceTask_ptp (instant : Nat) (s : State) : (advanceTask instant s).ptp = s.ptp := rfl
@[simp] theorem advanceTask_pair (instant : Nat) (s : State) : (advanceTask instant s).pair = s.pair := rfl
@[simp] theorem advanceTask_wdt (instant : Nat) (s : State) : (advanceTask instant s).wdt = s.wdt := rfl
@[simp] theorem advanceTask_fw (instant : Nat) (s : State) : (advanceTask instant s).fw = s.fw := rfl
@[simp] theorem advanceTask_free (instant : Nat) (s : State) : (advanceTask instant s).free = s.free := rfl
@[simp] theorem advanceTask_pending (instant : Nat) (s : State) : (advanceTask instant s).pending = s.pending := rfl

/-! ### advanceTo -/

@[simp] theorem advanceTo_factory (us : Nat) (s : State) : (advanceTo us s).factory = s.factory := rfl
@[simp] theorem advanceTo_mode (us : Nat) (s : State) : (advanceTo us s).mode = s.mode := rfl
@[simp] theorem advanceTo_power (us : Nat) (s : State) : (advanceTo us s).power = s.power := rfl
@[simp] theorem advanceTo_host (us : Nat) (s : State) : (advanceTo us s).host = s.host := rfl
@[simp] theorem advanceTo_hostMem (us : Nat) (s : State) : (advanceTo us s).hostMem = s.hostMem := rfl
@[simp] theorem advanceTo_recorder (us : Nat) (s : State) : (advanceTo us s).recorder = s.recorder := rfl
@[simp] theorem advanceTo_ret (us : Nat) (s : State) : (advanceTo us s).ret = s.ret := rfl
@[simp] theorem advanceTo_proj (us : Nat) (s : State) : (advanceTo us s).proj = s.proj := rfl
@[simp] theorem advanceTo_prof (us : Nat) (s : State) : (advanceTo us s).prof = s.prof := rfl
@[simp] theorem advanceTo_tasks (us : Nat) (s : State) : (advanceTo us s).tasks = s.tasks := rfl
@[simp] theorem advanceTo_stalls (us : Nat) (s : State) : (advanceTo us s).stalls = s.stalls := rfl
@[simp] theorem advanceTo_barns (us : Nat) (s : State) : (advanceTo us s).barns = s.barns := rfl
@[simp] theorem advanceTo_yard (us : Nat) (s : State) : (advanceTo us s).yard = s.yard := rfl
@[simp] theorem advanceTo_commit (us : Nat) (s : State) : (advanceTo us s).commit = s.commit := rfl
@[simp] theorem advanceTo_chan (us : Nat) (s : State) : (advanceTo us s).chan = s.chan := rfl
@[simp] theorem advanceTo_field (us : Nat) (s : State) : (advanceTo us s).field = s.field := rfl
@[simp] theorem advanceTo_loops (us : Nat) (s : State) : (advanceTo us s).loops = s.loops := rfl
@[simp] theorem advanceTo_ihloz (us : Nat) (s : State) : (advanceTo us s).ihloz = s.ihloz := rfl
@[simp] theorem advanceTo_star (us : Nat) (s : State) : (advanceTo us s).star = s.star := rfl
@[simp] theorem advanceTo_can (us : Nat) (s : State) : (advanceTo us s).can = s.can := rfl
@[simp] theorem advanceTo_eth (us : Nat) (s : State) : (advanceTo us s).eth = s.eth := rfl
@[simp] theorem advanceTo_ptp (us : Nat) (s : State) : (advanceTo us s).ptp = s.ptp := rfl
@[simp] theorem advanceTo_pair (us : Nat) (s : State) : (advanceTo us s).pair = s.pair := rfl
@[simp] theorem advanceTo_wdt (us : Nat) (s : State) : (advanceTo us s).wdt = s.wdt := rfl
@[simp] theorem advanceTo_fw (us : Nat) (s : State) : (advanceTo us s).fw = s.fw := rfl
@[simp] theorem advanceTo_free (us : Nat) (s : State) : (advanceTo us s).free = s.free := rfl
@[simp] theorem advanceTo_pending (us : Nat) (s : State) : (advanceTo us s).pending = s.pending := rfl

/-! ### advanceNet -/

@[simp] theorem advanceNet_factory (n : Nat) (s : State) : (advanceNet n s).factory = s.factory := rfl
@[simp] theorem advanceNet_mode (n : Nat) (s : State) : (advanceNet n s).mode = s.mode := rfl
@[simp] theorem advanceNet_power (n : Nat) (s : State) : (advanceNet n s).power = s.power := rfl
@[simp] theorem advanceNet_host (n : Nat) (s : State) : (advanceNet n s).host = s.host := rfl
@[simp] theorem advanceNet_hostMem (n : Nat) (s : State) : (advanceNet n s).hostMem = s.hostMem := rfl
@[simp] theorem advanceNet_recorder (n : Nat) (s : State) : (advanceNet n s).recorder = s.recorder := rfl
@[simp] theorem advanceNet_ret (n : Nat) (s : State) : (advanceNet n s).ret = s.ret := rfl
@[simp] theorem advanceNet_proj (n : Nat) (s : State) : (advanceNet n s).proj = s.proj := rfl
@[simp] theorem advanceNet_prof (n : Nat) (s : State) : (advanceNet n s).prof = s.prof := rfl
@[simp] theorem advanceNet_tasks (n : Nat) (s : State) : (advanceNet n s).tasks = s.tasks := rfl
@[simp] theorem advanceNet_stalls (n : Nat) (s : State) : (advanceNet n s).stalls = s.stalls := rfl
@[simp] theorem advanceNet_barns (n : Nat) (s : State) : (advanceNet n s).barns = s.barns := rfl
@[simp] theorem advanceNet_yard (n : Nat) (s : State) : (advanceNet n s).yard = s.yard := rfl
@[simp] theorem advanceNet_commit (n : Nat) (s : State) : (advanceNet n s).commit = s.commit := rfl
@[simp] theorem advanceNet_chan (n : Nat) (s : State) : (advanceNet n s).chan = s.chan := rfl
@[simp] theorem advanceNet_field (n : Nat) (s : State) : (advanceNet n s).field = s.field := rfl
@[simp] theorem advanceNet_loops (n : Nat) (s : State) : (advanceNet n s).loops = s.loops := rfl
@[simp] theorem advanceNet_ihloz (n : Nat) (s : State) : (advanceNet n s).ihloz = s.ihloz := rfl
@[simp] theorem advanceNet_star (n : Nat) (s : State) : (advanceNet n s).star = s.star := rfl
@[simp] theorem advanceNet_can (n : Nat) (s : State) : (advanceNet n s).can = s.can := rfl
@[simp] theorem advanceNet_eth (n : Nat) (s : State) : (advanceNet n s).eth = s.eth := rfl
@[simp] theorem advanceNet_ptp (n : Nat) (s : State) : (advanceNet n s).ptp = s.ptp := rfl
@[simp] theorem advanceNet_pair (n : Nat) (s : State) : (advanceNet n s).pair = s.pair := rfl
@[simp] theorem advanceNet_wdt (n : Nat) (s : State) : (advanceNet n s).wdt = s.wdt := rfl
@[simp] theorem advanceNet_fw (n : Nat) (s : State) : (advanceNet n s).fw = s.fw := rfl
@[simp] theorem advanceNet_free (n : Nat) (s : State) : (advanceNet n s).free = s.free := rfl
@[simp] theorem advanceNet_pending (n : Nat) (s : State) : (advanceNet n s).pending = s.pending := rfl

/-! ### modTask -/

@[simp] theorem modTask_factory (t : BitVec 7) (f : TaskSt → TaskSt) (s : State) : (modTask t f s).factory = s.factory := rfl
@[simp] theorem modTask_time (t : BitVec 7) (f : TaskSt → TaskSt) (s : State) : (modTask t f s).time = s.time := rfl
@[simp] theorem modTask_mode (t : BitVec 7) (f : TaskSt → TaskSt) (s : State) : (modTask t f s).mode = s.mode := rfl
@[simp] theorem modTask_power (t : BitVec 7) (f : TaskSt → TaskSt) (s : State) : (modTask t f s).power = s.power := rfl
@[simp] theorem modTask_host (t : BitVec 7) (f : TaskSt → TaskSt) (s : State) : (modTask t f s).host = s.host := rfl
@[simp] theorem modTask_hostMem (t : BitVec 7) (f : TaskSt → TaskSt) (s : State) : (modTask t f s).hostMem = s.hostMem := rfl
@[simp] theorem modTask_recorder (t : BitVec 7) (f : TaskSt → TaskSt) (s : State) : (modTask t f s).recorder = s.recorder := rfl
@[simp] theorem modTask_ret (t : BitVec 7) (f : TaskSt → TaskSt) (s : State) : (modTask t f s).ret = s.ret := rfl
@[simp] theorem modTask_proj (t : BitVec 7) (f : TaskSt → TaskSt) (s : State) : (modTask t f s).proj = s.proj := rfl
@[simp] theorem modTask_prof (t : BitVec 7) (f : TaskSt → TaskSt) (s : State) : (modTask t f s).prof = s.prof := rfl
@[simp] theorem modTask_stalls (t : BitVec 7) (f : TaskSt → TaskSt) (s : State) : (modTask t f s).stalls = s.stalls := rfl
@[simp] theorem modTask_barns (t : BitVec 7) (f : TaskSt → TaskSt) (s : State) : (modTask t f s).barns = s.barns := rfl
@[simp] theorem modTask_yard (t : BitVec 7) (f : TaskSt → TaskSt) (s : State) : (modTask t f s).yard = s.yard := rfl
@[simp] theorem modTask_commit (t : BitVec 7) (f : TaskSt → TaskSt) (s : State) : (modTask t f s).commit = s.commit := rfl
@[simp] theorem modTask_chan (t : BitVec 7) (f : TaskSt → TaskSt) (s : State) : (modTask t f s).chan = s.chan := rfl
@[simp] theorem modTask_field (t : BitVec 7) (f : TaskSt → TaskSt) (s : State) : (modTask t f s).field = s.field := rfl
@[simp] theorem modTask_loops (t : BitVec 7) (f : TaskSt → TaskSt) (s : State) : (modTask t f s).loops = s.loops := rfl
@[simp] theorem modTask_ihloz (t : BitVec 7) (f : TaskSt → TaskSt) (s : State) : (modTask t f s).ihloz = s.ihloz := rfl
@[simp] theorem modTask_star (t : BitVec 7) (f : TaskSt → TaskSt) (s : State) : (modTask t f s).star = s.star := rfl
@[simp] theorem modTask_can (t : BitVec 7) (f : TaskSt → TaskSt) (s : State) : (modTask t f s).can = s.can := rfl
@[simp] theorem modTask_eth (t : BitVec 7) (f : TaskSt → TaskSt) (s : State) : (modTask t f s).eth = s.eth := rfl
@[simp] theorem modTask_ptp (t : BitVec 7) (f : TaskSt → TaskSt) (s : State) : (modTask t f s).ptp = s.ptp := rfl
@[simp] theorem modTask_pair (t : BitVec 7) (f : TaskSt → TaskSt) (s : State) : (modTask t f s).pair = s.pair := rfl
@[simp] theorem modTask_wdt (t : BitVec 7) (f : TaskSt → TaskSt) (s : State) : (modTask t f s).wdt = s.wdt := rfl
@[simp] theorem modTask_fw (t : BitVec 7) (f : TaskSt → TaskSt) (s : State) : (modTask t f s).fw = s.fw := rfl
@[simp] theorem modTask_free (t : BitVec 7) (f : TaskSt → TaskSt) (s : State) : (modTask t f s).free = s.free := rfl
@[simp] theorem modTask_pending (t : BitVec 7) (f : TaskSt → TaskSt) (s : State) : (modTask t f s).pending = s.pending := rfl

/-! ### modTasks -/

@[simp] theorem modTasks_factory (f : TaskSt → TaskSt) (s : State) : (modTasks f s).factory = s.factory := rfl
@[simp] theorem modTasks_time (f : TaskSt → TaskSt) (s : State) : (modTasks f s).time = s.time := rfl
@[simp] theorem modTasks_mode (f : TaskSt → TaskSt) (s : State) : (modTasks f s).mode = s.mode := rfl
@[simp] theorem modTasks_power (f : TaskSt → TaskSt) (s : State) : (modTasks f s).power = s.power := rfl
@[simp] theorem modTasks_host (f : TaskSt → TaskSt) (s : State) : (modTasks f s).host = s.host := rfl
@[simp] theorem modTasks_hostMem (f : TaskSt → TaskSt) (s : State) : (modTasks f s).hostMem = s.hostMem := rfl
@[simp] theorem modTasks_recorder (f : TaskSt → TaskSt) (s : State) : (modTasks f s).recorder = s.recorder := rfl
@[simp] theorem modTasks_ret (f : TaskSt → TaskSt) (s : State) : (modTasks f s).ret = s.ret := rfl
@[simp] theorem modTasks_proj (f : TaskSt → TaskSt) (s : State) : (modTasks f s).proj = s.proj := rfl
@[simp] theorem modTasks_prof (f : TaskSt → TaskSt) (s : State) : (modTasks f s).prof = s.prof := rfl
@[simp] theorem modTasks_stalls (f : TaskSt → TaskSt) (s : State) : (modTasks f s).stalls = s.stalls := rfl
@[simp] theorem modTasks_barns (f : TaskSt → TaskSt) (s : State) : (modTasks f s).barns = s.barns := rfl
@[simp] theorem modTasks_yard (f : TaskSt → TaskSt) (s : State) : (modTasks f s).yard = s.yard := rfl
@[simp] theorem modTasks_commit (f : TaskSt → TaskSt) (s : State) : (modTasks f s).commit = s.commit := rfl
@[simp] theorem modTasks_chan (f : TaskSt → TaskSt) (s : State) : (modTasks f s).chan = s.chan := rfl
@[simp] theorem modTasks_field (f : TaskSt → TaskSt) (s : State) : (modTasks f s).field = s.field := rfl
@[simp] theorem modTasks_loops (f : TaskSt → TaskSt) (s : State) : (modTasks f s).loops = s.loops := rfl
@[simp] theorem modTasks_ihloz (f : TaskSt → TaskSt) (s : State) : (modTasks f s).ihloz = s.ihloz := rfl
@[simp] theorem modTasks_star (f : TaskSt → TaskSt) (s : State) : (modTasks f s).star = s.star := rfl
@[simp] theorem modTasks_can (f : TaskSt → TaskSt) (s : State) : (modTasks f s).can = s.can := rfl
@[simp] theorem modTasks_eth (f : TaskSt → TaskSt) (s : State) : (modTasks f s).eth = s.eth := rfl
@[simp] theorem modTasks_ptp (f : TaskSt → TaskSt) (s : State) : (modTasks f s).ptp = s.ptp := rfl
@[simp] theorem modTasks_pair (f : TaskSt → TaskSt) (s : State) : (modTasks f s).pair = s.pair := rfl
@[simp] theorem modTasks_wdt (f : TaskSt → TaskSt) (s : State) : (modTasks f s).wdt = s.wdt := rfl
@[simp] theorem modTasks_fw (f : TaskSt → TaskSt) (s : State) : (modTasks f s).fw = s.fw := rfl
@[simp] theorem modTasks_free (f : TaskSt → TaskSt) (s : State) : (modTasks f s).free = s.free := rfl
@[simp] theorem modTasks_pending (f : TaskSt → TaskSt) (s : State) : (modTasks f s).pending = s.pending := rfl

/-! ### modCtr -/

@[simp] theorem modCtr_factory (t : BitVec 7) (f : TaskCtr → TaskCtr) (s : State) : (modCtr t f s).factory = s.factory := rfl
@[simp] theorem modCtr_time (t : BitVec 7) (f : TaskCtr → TaskCtr) (s : State) : (modCtr t f s).time = s.time := rfl
@[simp] theorem modCtr_mode (t : BitVec 7) (f : TaskCtr → TaskCtr) (s : State) : (modCtr t f s).mode = s.mode := rfl
@[simp] theorem modCtr_power (t : BitVec 7) (f : TaskCtr → TaskCtr) (s : State) : (modCtr t f s).power = s.power := rfl
@[simp] theorem modCtr_host (t : BitVec 7) (f : TaskCtr → TaskCtr) (s : State) : (modCtr t f s).host = s.host := rfl
@[simp] theorem modCtr_hostMem (t : BitVec 7) (f : TaskCtr → TaskCtr) (s : State) : (modCtr t f s).hostMem = s.hostMem := rfl
@[simp] theorem modCtr_recorder (t : BitVec 7) (f : TaskCtr → TaskCtr) (s : State) : (modCtr t f s).recorder = s.recorder := rfl
@[simp] theorem modCtr_ret (t : BitVec 7) (f : TaskCtr → TaskCtr) (s : State) : (modCtr t f s).ret = s.ret := rfl
@[simp] theorem modCtr_proj (t : BitVec 7) (f : TaskCtr → TaskCtr) (s : State) : (modCtr t f s).proj = s.proj := rfl
@[simp] theorem modCtr_prof (t : BitVec 7) (f : TaskCtr → TaskCtr) (s : State) : (modCtr t f s).prof = s.prof := rfl
@[simp] theorem modCtr_stalls (t : BitVec 7) (f : TaskCtr → TaskCtr) (s : State) : (modCtr t f s).stalls = s.stalls := rfl
@[simp] theorem modCtr_barns (t : BitVec 7) (f : TaskCtr → TaskCtr) (s : State) : (modCtr t f s).barns = s.barns := rfl
@[simp] theorem modCtr_yard (t : BitVec 7) (f : TaskCtr → TaskCtr) (s : State) : (modCtr t f s).yard = s.yard := rfl
@[simp] theorem modCtr_commit (t : BitVec 7) (f : TaskCtr → TaskCtr) (s : State) : (modCtr t f s).commit = s.commit := rfl
@[simp] theorem modCtr_chan (t : BitVec 7) (f : TaskCtr → TaskCtr) (s : State) : (modCtr t f s).chan = s.chan := rfl
@[simp] theorem modCtr_field (t : BitVec 7) (f : TaskCtr → TaskCtr) (s : State) : (modCtr t f s).field = s.field := rfl
@[simp] theorem modCtr_loops (t : BitVec 7) (f : TaskCtr → TaskCtr) (s : State) : (modCtr t f s).loops = s.loops := rfl
@[simp] theorem modCtr_ihloz (t : BitVec 7) (f : TaskCtr → TaskCtr) (s : State) : (modCtr t f s).ihloz = s.ihloz := rfl
@[simp] theorem modCtr_star (t : BitVec 7) (f : TaskCtr → TaskCtr) (s : State) : (modCtr t f s).star = s.star := rfl
@[simp] theorem modCtr_can (t : BitVec 7) (f : TaskCtr → TaskCtr) (s : State) : (modCtr t f s).can = s.can := rfl
@[simp] theorem modCtr_eth (t : BitVec 7) (f : TaskCtr → TaskCtr) (s : State) : (modCtr t f s).eth = s.eth := rfl
@[simp] theorem modCtr_ptp (t : BitVec 7) (f : TaskCtr → TaskCtr) (s : State) : (modCtr t f s).ptp = s.ptp := rfl
@[simp] theorem modCtr_pair (t : BitVec 7) (f : TaskCtr → TaskCtr) (s : State) : (modCtr t f s).pair = s.pair := rfl
@[simp] theorem modCtr_wdt (t : BitVec 7) (f : TaskCtr → TaskCtr) (s : State) : (modCtr t f s).wdt = s.wdt := rfl
@[simp] theorem modCtr_fw (t : BitVec 7) (f : TaskCtr → TaskCtr) (s : State) : (modCtr t f s).fw = s.fw := rfl
@[simp] theorem modCtr_free (t : BitVec 7) (f : TaskCtr → TaskCtr) (s : State) : (modCtr t f s).free = s.free := rfl
@[simp] theorem modCtr_pending (t : BitVec 7) (f : TaskCtr → TaskCtr) (s : State) : (modCtr t f s).pending = s.pending := rfl

/-! ### modStall -/

@[simp] theorem modStall_factory (u : StallId) (f : Stall → Stall) (s : State) : (modStall u f s).factory = s.factory := rfl
@[simp] theorem modStall_time (u : StallId) (f : Stall → Stall) (s : State) : (modStall u f s).time = s.time := rfl
@[simp] theorem modStall_mode (u : StallId) (f : Stall → Stall) (s : State) : (modStall u f s).mode = s.mode := rfl
@[simp] theorem modStall_power (u : StallId) (f : Stall → Stall) (s : State) : (modStall u f s).power = s.power := rfl
@[simp] theorem modStall_host (u : StallId) (f : Stall → Stall) (s : State) : (modStall u f s).host = s.host := rfl
@[simp] theorem modStall_hostMem (u : StallId) (f : Stall → Stall) (s : State) : (modStall u f s).hostMem = s.hostMem := rfl
@[simp] theorem modStall_recorder (u : StallId) (f : Stall → Stall) (s : State) : (modStall u f s).recorder = s.recorder := rfl
@[simp] theorem modStall_ret (u : StallId) (f : Stall → Stall) (s : State) : (modStall u f s).ret = s.ret := rfl
@[simp] theorem modStall_proj (u : StallId) (f : Stall → Stall) (s : State) : (modStall u f s).proj = s.proj := rfl
@[simp] theorem modStall_prof (u : StallId) (f : Stall → Stall) (s : State) : (modStall u f s).prof = s.prof := rfl
@[simp] theorem modStall_tasks (u : StallId) (f : Stall → Stall) (s : State) : (modStall u f s).tasks = s.tasks := rfl
@[simp] theorem modStall_barns (u : StallId) (f : Stall → Stall) (s : State) : (modStall u f s).barns = s.barns := rfl
@[simp] theorem modStall_yard (u : StallId) (f : Stall → Stall) (s : State) : (modStall u f s).yard = s.yard := rfl
@[simp] theorem modStall_commit (u : StallId) (f : Stall → Stall) (s : State) : (modStall u f s).commit = s.commit := rfl
@[simp] theorem modStall_chan (u : StallId) (f : Stall → Stall) (s : State) : (modStall u f s).chan = s.chan := rfl
@[simp] theorem modStall_field (u : StallId) (f : Stall → Stall) (s : State) : (modStall u f s).field = s.field := rfl
@[simp] theorem modStall_loops (u : StallId) (f : Stall → Stall) (s : State) : (modStall u f s).loops = s.loops := rfl
@[simp] theorem modStall_ihloz (u : StallId) (f : Stall → Stall) (s : State) : (modStall u f s).ihloz = s.ihloz := rfl
@[simp] theorem modStall_star (u : StallId) (f : Stall → Stall) (s : State) : (modStall u f s).star = s.star := rfl
@[simp] theorem modStall_can (u : StallId) (f : Stall → Stall) (s : State) : (modStall u f s).can = s.can := rfl
@[simp] theorem modStall_eth (u : StallId) (f : Stall → Stall) (s : State) : (modStall u f s).eth = s.eth := rfl
@[simp] theorem modStall_ptp (u : StallId) (f : Stall → Stall) (s : State) : (modStall u f s).ptp = s.ptp := rfl
@[simp] theorem modStall_pair (u : StallId) (f : Stall → Stall) (s : State) : (modStall u f s).pair = s.pair := rfl
@[simp] theorem modStall_wdt (u : StallId) (f : Stall → Stall) (s : State) : (modStall u f s).wdt = s.wdt := rfl
@[simp] theorem modStall_fw (u : StallId) (f : Stall → Stall) (s : State) : (modStall u f s).fw = s.fw := rfl
@[simp] theorem modStall_free (u : StallId) (f : Stall → Stall) (s : State) : (modStall u f s).free = s.free := rfl
@[simp] theorem modStall_pending (u : StallId) (f : Stall → Stall) (s : State) : (modStall u f s).pending = s.pending := rfl

/-! ### setCtx -/

@[simp] theorem setCtx_factory (u : StallId) (f : Ctx → Ctx) (s : State) : (setCtx u f s).factory = s.factory := rfl
@[simp] theorem setCtx_time (u : StallId) (f : Ctx → Ctx) (s : State) : (setCtx u f s).time = s.time := rfl
@[simp] theorem setCtx_mode (u : StallId) (f : Ctx → Ctx) (s : State) : (setCtx u f s).mode = s.mode := rfl
@[simp] theorem setCtx_power (u : StallId) (f : Ctx → Ctx) (s : State) : (setCtx u f s).power = s.power := rfl
@[simp] theorem setCtx_host (u : StallId) (f : Ctx → Ctx) (s : State) : (setCtx u f s).host = s.host := rfl
@[simp] theorem setCtx_hostMem (u : StallId) (f : Ctx → Ctx) (s : State) : (setCtx u f s).hostMem = s.hostMem := rfl
@[simp] theorem setCtx_recorder (u : StallId) (f : Ctx → Ctx) (s : State) : (setCtx u f s).recorder = s.recorder := rfl
@[simp] theorem setCtx_ret (u : StallId) (f : Ctx → Ctx) (s : State) : (setCtx u f s).ret = s.ret := rfl
@[simp] theorem setCtx_proj (u : StallId) (f : Ctx → Ctx) (s : State) : (setCtx u f s).proj = s.proj := rfl
@[simp] theorem setCtx_prof (u : StallId) (f : Ctx → Ctx) (s : State) : (setCtx u f s).prof = s.prof := rfl
@[simp] theorem setCtx_tasks (u : StallId) (f : Ctx → Ctx) (s : State) : (setCtx u f s).tasks = s.tasks := rfl
@[simp] theorem setCtx_barns (u : StallId) (f : Ctx → Ctx) (s : State) : (setCtx u f s).barns = s.barns := rfl
@[simp] theorem setCtx_yard (u : StallId) (f : Ctx → Ctx) (s : State) : (setCtx u f s).yard = s.yard := rfl
@[simp] theorem setCtx_commit (u : StallId) (f : Ctx → Ctx) (s : State) : (setCtx u f s).commit = s.commit := rfl
@[simp] theorem setCtx_chan (u : StallId) (f : Ctx → Ctx) (s : State) : (setCtx u f s).chan = s.chan := rfl
@[simp] theorem setCtx_field (u : StallId) (f : Ctx → Ctx) (s : State) : (setCtx u f s).field = s.field := rfl
@[simp] theorem setCtx_loops (u : StallId) (f : Ctx → Ctx) (s : State) : (setCtx u f s).loops = s.loops := rfl
@[simp] theorem setCtx_ihloz (u : StallId) (f : Ctx → Ctx) (s : State) : (setCtx u f s).ihloz = s.ihloz := rfl
@[simp] theorem setCtx_star (u : StallId) (f : Ctx → Ctx) (s : State) : (setCtx u f s).star = s.star := rfl
@[simp] theorem setCtx_can (u : StallId) (f : Ctx → Ctx) (s : State) : (setCtx u f s).can = s.can := rfl
@[simp] theorem setCtx_eth (u : StallId) (f : Ctx → Ctx) (s : State) : (setCtx u f s).eth = s.eth := rfl
@[simp] theorem setCtx_ptp (u : StallId) (f : Ctx → Ctx) (s : State) : (setCtx u f s).ptp = s.ptp := rfl
@[simp] theorem setCtx_pair (u : StallId) (f : Ctx → Ctx) (s : State) : (setCtx u f s).pair = s.pair := rfl
@[simp] theorem setCtx_wdt (u : StallId) (f : Ctx → Ctx) (s : State) : (setCtx u f s).wdt = s.wdt := rfl
@[simp] theorem setCtx_fw (u : StallId) (f : Ctx → Ctx) (s : State) : (setCtx u f s).fw = s.fw := rfl
@[simp] theorem setCtx_free (u : StallId) (f : Ctx → Ctx) (s : State) : (setCtx u f s).free = s.free := rfl
@[simp] theorem setCtx_pending (u : StallId) (f : Ctx → Ctx) (s : State) : (setCtx u f s).pending = s.pending := rfl

/-! ### setSlot -/

@[simp] theorem setSlot_factory (u : StallId) (f : Fin 4) (i : Option Inst) (s : State) : (setSlot u f i s).factory = s.factory := rfl
@[simp] theorem setSlot_time (u : StallId) (f : Fin 4) (i : Option Inst) (s : State) : (setSlot u f i s).time = s.time := rfl
@[simp] theorem setSlot_mode (u : StallId) (f : Fin 4) (i : Option Inst) (s : State) : (setSlot u f i s).mode = s.mode := rfl
@[simp] theorem setSlot_power (u : StallId) (f : Fin 4) (i : Option Inst) (s : State) : (setSlot u f i s).power = s.power := rfl
@[simp] theorem setSlot_host (u : StallId) (f : Fin 4) (i : Option Inst) (s : State) : (setSlot u f i s).host = s.host := rfl
@[simp] theorem setSlot_hostMem (u : StallId) (f : Fin 4) (i : Option Inst) (s : State) : (setSlot u f i s).hostMem = s.hostMem := rfl
@[simp] theorem setSlot_recorder (u : StallId) (f : Fin 4) (i : Option Inst) (s : State) : (setSlot u f i s).recorder = s.recorder := rfl
@[simp] theorem setSlot_ret (u : StallId) (f : Fin 4) (i : Option Inst) (s : State) : (setSlot u f i s).ret = s.ret := rfl
@[simp] theorem setSlot_proj (u : StallId) (f : Fin 4) (i : Option Inst) (s : State) : (setSlot u f i s).proj = s.proj := rfl
@[simp] theorem setSlot_prof (u : StallId) (f : Fin 4) (i : Option Inst) (s : State) : (setSlot u f i s).prof = s.prof := rfl
@[simp] theorem setSlot_tasks (u : StallId) (f : Fin 4) (i : Option Inst) (s : State) : (setSlot u f i s).tasks = s.tasks := rfl
@[simp] theorem setSlot_barns (u : StallId) (f : Fin 4) (i : Option Inst) (s : State) : (setSlot u f i s).barns = s.barns := rfl
@[simp] theorem setSlot_yard (u : StallId) (f : Fin 4) (i : Option Inst) (s : State) : (setSlot u f i s).yard = s.yard := rfl
@[simp] theorem setSlot_commit (u : StallId) (f : Fin 4) (i : Option Inst) (s : State) : (setSlot u f i s).commit = s.commit := rfl
@[simp] theorem setSlot_chan (u : StallId) (f : Fin 4) (i : Option Inst) (s : State) : (setSlot u f i s).chan = s.chan := rfl
@[simp] theorem setSlot_field (u : StallId) (f : Fin 4) (i : Option Inst) (s : State) : (setSlot u f i s).field = s.field := rfl
@[simp] theorem setSlot_loops (u : StallId) (f : Fin 4) (i : Option Inst) (s : State) : (setSlot u f i s).loops = s.loops := rfl
@[simp] theorem setSlot_ihloz (u : StallId) (f : Fin 4) (i : Option Inst) (s : State) : (setSlot u f i s).ihloz = s.ihloz := rfl
@[simp] theorem setSlot_star (u : StallId) (f : Fin 4) (i : Option Inst) (s : State) : (setSlot u f i s).star = s.star := rfl
@[simp] theorem setSlot_can (u : StallId) (f : Fin 4) (i : Option Inst) (s : State) : (setSlot u f i s).can = s.can := rfl
@[simp] theorem setSlot_eth (u : StallId) (f : Fin 4) (i : Option Inst) (s : State) : (setSlot u f i s).eth = s.eth := rfl
@[simp] theorem setSlot_ptp (u : StallId) (f : Fin 4) (i : Option Inst) (s : State) : (setSlot u f i s).ptp = s.ptp := rfl
@[simp] theorem setSlot_pair (u : StallId) (f : Fin 4) (i : Option Inst) (s : State) : (setSlot u f i s).pair = s.pair := rfl
@[simp] theorem setSlot_wdt (u : StallId) (f : Fin 4) (i : Option Inst) (s : State) : (setSlot u f i s).wdt = s.wdt := rfl
@[simp] theorem setSlot_fw (u : StallId) (f : Fin 4) (i : Option Inst) (s : State) : (setSlot u f i s).fw = s.fw := rfl
@[simp] theorem setSlot_free (u : StallId) (f : Fin 4) (i : Option Inst) (s : State) : (setSlot u f i s).free = s.free := rfl
@[simp] theorem setSlot_pending (u : StallId) (f : Fin 4) (i : Option Inst) (s : State) : (setSlot u f i s).pending = s.pending := rfl

/-! ### modInst -/

@[simp] theorem modInst_factory (u : StallId) (f : Fin 4) (g : Inst → Inst) (s : State) : (modInst u f g s).factory = s.factory := rfl
@[simp] theorem modInst_time (u : StallId) (f : Fin 4) (g : Inst → Inst) (s : State) : (modInst u f g s).time = s.time := rfl
@[simp] theorem modInst_mode (u : StallId) (f : Fin 4) (g : Inst → Inst) (s : State) : (modInst u f g s).mode = s.mode := rfl
@[simp] theorem modInst_power (u : StallId) (f : Fin 4) (g : Inst → Inst) (s : State) : (modInst u f g s).power = s.power := rfl
@[simp] theorem modInst_host (u : StallId) (f : Fin 4) (g : Inst → Inst) (s : State) : (modInst u f g s).host = s.host := rfl
@[simp] theorem modInst_hostMem (u : StallId) (f : Fin 4) (g : Inst → Inst) (s : State) : (modInst u f g s).hostMem = s.hostMem := rfl
@[simp] theorem modInst_recorder (u : StallId) (f : Fin 4) (g : Inst → Inst) (s : State) : (modInst u f g s).recorder = s.recorder := rfl
@[simp] theorem modInst_ret (u : StallId) (f : Fin 4) (g : Inst → Inst) (s : State) : (modInst u f g s).ret = s.ret := rfl
@[simp] theorem modInst_proj (u : StallId) (f : Fin 4) (g : Inst → Inst) (s : State) : (modInst u f g s).proj = s.proj := rfl
@[simp] theorem modInst_prof (u : StallId) (f : Fin 4) (g : Inst → Inst) (s : State) : (modInst u f g s).prof = s.prof := rfl
@[simp] theorem modInst_tasks (u : StallId) (f : Fin 4) (g : Inst → Inst) (s : State) : (modInst u f g s).tasks = s.tasks := rfl
@[simp] theorem modInst_barns (u : StallId) (f : Fin 4) (g : Inst → Inst) (s : State) : (modInst u f g s).barns = s.barns := rfl
@[simp] theorem modInst_yard (u : StallId) (f : Fin 4) (g : Inst → Inst) (s : State) : (modInst u f g s).yard = s.yard := rfl
@[simp] theorem modInst_commit (u : StallId) (f : Fin 4) (g : Inst → Inst) (s : State) : (modInst u f g s).commit = s.commit := rfl
@[simp] theorem modInst_chan (u : StallId) (f : Fin 4) (g : Inst → Inst) (s : State) : (modInst u f g s).chan = s.chan := rfl
@[simp] theorem modInst_field (u : StallId) (f : Fin 4) (g : Inst → Inst) (s : State) : (modInst u f g s).field = s.field := rfl
@[simp] theorem modInst_loops (u : StallId) (f : Fin 4) (g : Inst → Inst) (s : State) : (modInst u f g s).loops = s.loops := rfl
@[simp] theorem modInst_ihloz (u : StallId) (f : Fin 4) (g : Inst → Inst) (s : State) : (modInst u f g s).ihloz = s.ihloz := rfl
@[simp] theorem modInst_star (u : StallId) (f : Fin 4) (g : Inst → Inst) (s : State) : (modInst u f g s).star = s.star := rfl
@[simp] theorem modInst_can (u : StallId) (f : Fin 4) (g : Inst → Inst) (s : State) : (modInst u f g s).can = s.can := rfl
@[simp] theorem modInst_eth (u : StallId) (f : Fin 4) (g : Inst → Inst) (s : State) : (modInst u f g s).eth = s.eth := rfl
@[simp] theorem modInst_ptp (u : StallId) (f : Fin 4) (g : Inst → Inst) (s : State) : (modInst u f g s).ptp = s.ptp := rfl
@[simp] theorem modInst_pair (u : StallId) (f : Fin 4) (g : Inst → Inst) (s : State) : (modInst u f g s).pair = s.pair := rfl
@[simp] theorem modInst_wdt (u : StallId) (f : Fin 4) (g : Inst → Inst) (s : State) : (modInst u f g s).wdt = s.wdt := rfl
@[simp] theorem modInst_fw (u : StallId) (f : Fin 4) (g : Inst → Inst) (s : State) : (modInst u f g s).fw = s.fw := rfl
@[simp] theorem modInst_free (u : StallId) (f : Fin 4) (g : Inst → Inst) (s : State) : (modInst u f g s).free = s.free := rfl
@[simp] theorem modInst_pending (u : StallId) (f : Fin 4) (g : Inst → Inst) (s : State) : (modInst u f g s).pending = s.pending := rfl

/-! ### modBarn -/

@[simp] theorem modBarn_factory (b : Fin 4) (f : Barn → Barn) (s : State) : (modBarn b f s).factory = s.factory := rfl
@[simp] theorem modBarn_time (b : Fin 4) (f : Barn → Barn) (s : State) : (modBarn b f s).time = s.time := rfl
@[simp] theorem modBarn_mode (b : Fin 4) (f : Barn → Barn) (s : State) : (modBarn b f s).mode = s.mode := rfl
@[simp] theorem modBarn_power (b : Fin 4) (f : Barn → Barn) (s : State) : (modBarn b f s).power = s.power := rfl
@[simp] theorem modBarn_host (b : Fin 4) (f : Barn → Barn) (s : State) : (modBarn b f s).host = s.host := rfl
@[simp] theorem modBarn_hostMem (b : Fin 4) (f : Barn → Barn) (s : State) : (modBarn b f s).hostMem = s.hostMem := rfl
@[simp] theorem modBarn_recorder (b : Fin 4) (f : Barn → Barn) (s : State) : (modBarn b f s).recorder = s.recorder := rfl
@[simp] theorem modBarn_ret (b : Fin 4) (f : Barn → Barn) (s : State) : (modBarn b f s).ret = s.ret := rfl
@[simp] theorem modBarn_proj (b : Fin 4) (f : Barn → Barn) (s : State) : (modBarn b f s).proj = s.proj := rfl
@[simp] theorem modBarn_prof (b : Fin 4) (f : Barn → Barn) (s : State) : (modBarn b f s).prof = s.prof := rfl
@[simp] theorem modBarn_tasks (b : Fin 4) (f : Barn → Barn) (s : State) : (modBarn b f s).tasks = s.tasks := rfl
@[simp] theorem modBarn_stalls (b : Fin 4) (f : Barn → Barn) (s : State) : (modBarn b f s).stalls = s.stalls := rfl
@[simp] theorem modBarn_yard (b : Fin 4) (f : Barn → Barn) (s : State) : (modBarn b f s).yard = s.yard := rfl
@[simp] theorem modBarn_commit (b : Fin 4) (f : Barn → Barn) (s : State) : (modBarn b f s).commit = s.commit := rfl
@[simp] theorem modBarn_chan (b : Fin 4) (f : Barn → Barn) (s : State) : (modBarn b f s).chan = s.chan := rfl
@[simp] theorem modBarn_field (b : Fin 4) (f : Barn → Barn) (s : State) : (modBarn b f s).field = s.field := rfl
@[simp] theorem modBarn_loops (b : Fin 4) (f : Barn → Barn) (s : State) : (modBarn b f s).loops = s.loops := rfl
@[simp] theorem modBarn_ihloz (b : Fin 4) (f : Barn → Barn) (s : State) : (modBarn b f s).ihloz = s.ihloz := rfl
@[simp] theorem modBarn_star (b : Fin 4) (f : Barn → Barn) (s : State) : (modBarn b f s).star = s.star := rfl
@[simp] theorem modBarn_can (b : Fin 4) (f : Barn → Barn) (s : State) : (modBarn b f s).can = s.can := rfl
@[simp] theorem modBarn_eth (b : Fin 4) (f : Barn → Barn) (s : State) : (modBarn b f s).eth = s.eth := rfl
@[simp] theorem modBarn_ptp (b : Fin 4) (f : Barn → Barn) (s : State) : (modBarn b f s).ptp = s.ptp := rfl
@[simp] theorem modBarn_pair (b : Fin 4) (f : Barn → Barn) (s : State) : (modBarn b f s).pair = s.pair := rfl
@[simp] theorem modBarn_wdt (b : Fin 4) (f : Barn → Barn) (s : State) : (modBarn b f s).wdt = s.wdt := rfl
@[simp] theorem modBarn_fw (b : Fin 4) (f : Barn → Barn) (s : State) : (modBarn b f s).fw = s.fw := rfl
@[simp] theorem modBarn_free (b : Fin 4) (f : Barn → Barn) (s : State) : (modBarn b f s).free = s.free := rfl
@[simp] theorem modBarn_pending (b : Fin 4) (f : Barn → Barn) (s : State) : (modBarn b f s).pending = s.pending := rfl

/-! ### modRing -/

@[simp] theorem modRing_factory (k : Fin 8) (f : Ring → Ring) (s : State) : (modRing k f s).factory = s.factory := rfl
@[simp] theorem modRing_time (k : Fin 8) (f : Ring → Ring) (s : State) : (modRing k f s).time = s.time := rfl
@[simp] theorem modRing_mode (k : Fin 8) (f : Ring → Ring) (s : State) : (modRing k f s).mode = s.mode := rfl
@[simp] theorem modRing_power (k : Fin 8) (f : Ring → Ring) (s : State) : (modRing k f s).power = s.power := rfl
@[simp] theorem modRing_hostMem (k : Fin 8) (f : Ring → Ring) (s : State) : (modRing k f s).hostMem = s.hostMem := rfl
@[simp] theorem modRing_recorder (k : Fin 8) (f : Ring → Ring) (s : State) : (modRing k f s).recorder = s.recorder := rfl
@[simp] theorem modRing_ret (k : Fin 8) (f : Ring → Ring) (s : State) : (modRing k f s).ret = s.ret := rfl
@[simp] theorem modRing_proj (k : Fin 8) (f : Ring → Ring) (s : State) : (modRing k f s).proj = s.proj := rfl
@[simp] theorem modRing_prof (k : Fin 8) (f : Ring → Ring) (s : State) : (modRing k f s).prof = s.prof := rfl
@[simp] theorem modRing_tasks (k : Fin 8) (f : Ring → Ring) (s : State) : (modRing k f s).tasks = s.tasks := rfl
@[simp] theorem modRing_stalls (k : Fin 8) (f : Ring → Ring) (s : State) : (modRing k f s).stalls = s.stalls := rfl
@[simp] theorem modRing_barns (k : Fin 8) (f : Ring → Ring) (s : State) : (modRing k f s).barns = s.barns := rfl
@[simp] theorem modRing_yard (k : Fin 8) (f : Ring → Ring) (s : State) : (modRing k f s).yard = s.yard := rfl
@[simp] theorem modRing_commit (k : Fin 8) (f : Ring → Ring) (s : State) : (modRing k f s).commit = s.commit := rfl
@[simp] theorem modRing_chan (k : Fin 8) (f : Ring → Ring) (s : State) : (modRing k f s).chan = s.chan := rfl
@[simp] theorem modRing_field (k : Fin 8) (f : Ring → Ring) (s : State) : (modRing k f s).field = s.field := rfl
@[simp] theorem modRing_loops (k : Fin 8) (f : Ring → Ring) (s : State) : (modRing k f s).loops = s.loops := rfl
@[simp] theorem modRing_ihloz (k : Fin 8) (f : Ring → Ring) (s : State) : (modRing k f s).ihloz = s.ihloz := rfl
@[simp] theorem modRing_star (k : Fin 8) (f : Ring → Ring) (s : State) : (modRing k f s).star = s.star := rfl
@[simp] theorem modRing_can (k : Fin 8) (f : Ring → Ring) (s : State) : (modRing k f s).can = s.can := rfl
@[simp] theorem modRing_eth (k : Fin 8) (f : Ring → Ring) (s : State) : (modRing k f s).eth = s.eth := rfl
@[simp] theorem modRing_ptp (k : Fin 8) (f : Ring → Ring) (s : State) : (modRing k f s).ptp = s.ptp := rfl
@[simp] theorem modRing_pair (k : Fin 8) (f : Ring → Ring) (s : State) : (modRing k f s).pair = s.pair := rfl
@[simp] theorem modRing_wdt (k : Fin 8) (f : Ring → Ring) (s : State) : (modRing k f s).wdt = s.wdt := rfl
@[simp] theorem modRing_fw (k : Fin 8) (f : Ring → Ring) (s : State) : (modRing k f s).fw = s.fw := rfl
@[simp] theorem modRing_free (k : Fin 8) (f : Ring → Ring) (s : State) : (modRing k f s).free = s.free := rfl
@[simp] theorem modRing_pending (k : Fin 8) (f : Ring → Ring) (s : State) : (modRing k f s).pending = s.pending := rfl

/-! ### modDi -/

@[simp] theorem modDi_factory (n : Nat) (f : DiCh → DiCh) (s : State) : (modDi n f s).factory = s.factory := rfl
@[simp] theorem modDi_time (n : Nat) (f : DiCh → DiCh) (s : State) : (modDi n f s).time = s.time := rfl
@[simp] theorem modDi_mode (n : Nat) (f : DiCh → DiCh) (s : State) : (modDi n f s).mode = s.mode := rfl
@[simp] theorem modDi_power (n : Nat) (f : DiCh → DiCh) (s : State) : (modDi n f s).power = s.power := rfl
@[simp] theorem modDi_host (n : Nat) (f : DiCh → DiCh) (s : State) : (modDi n f s).host = s.host := rfl
@[simp] theorem modDi_hostMem (n : Nat) (f : DiCh → DiCh) (s : State) : (modDi n f s).hostMem = s.hostMem := rfl
@[simp] theorem modDi_recorder (n : Nat) (f : DiCh → DiCh) (s : State) : (modDi n f s).recorder = s.recorder := rfl
@[simp] theorem modDi_ret (n : Nat) (f : DiCh → DiCh) (s : State) : (modDi n f s).ret = s.ret := rfl
@[simp] theorem modDi_proj (n : Nat) (f : DiCh → DiCh) (s : State) : (modDi n f s).proj = s.proj := rfl
@[simp] theorem modDi_prof (n : Nat) (f : DiCh → DiCh) (s : State) : (modDi n f s).prof = s.prof := rfl
@[simp] theorem modDi_tasks (n : Nat) (f : DiCh → DiCh) (s : State) : (modDi n f s).tasks = s.tasks := rfl
@[simp] theorem modDi_stalls (n : Nat) (f : DiCh → DiCh) (s : State) : (modDi n f s).stalls = s.stalls := rfl
@[simp] theorem modDi_barns (n : Nat) (f : DiCh → DiCh) (s : State) : (modDi n f s).barns = s.barns := rfl
@[simp] theorem modDi_yard (n : Nat) (f : DiCh → DiCh) (s : State) : (modDi n f s).yard = s.yard := rfl
@[simp] theorem modDi_commit (n : Nat) (f : DiCh → DiCh) (s : State) : (modDi n f s).commit = s.commit := rfl
@[simp] theorem modDi_chan (n : Nat) (f : DiCh → DiCh) (s : State) : (modDi n f s).chan = s.chan := rfl
@[simp] theorem modDi_loops (n : Nat) (f : DiCh → DiCh) (s : State) : (modDi n f s).loops = s.loops := rfl
@[simp] theorem modDi_ihloz (n : Nat) (f : DiCh → DiCh) (s : State) : (modDi n f s).ihloz = s.ihloz := rfl
@[simp] theorem modDi_star (n : Nat) (f : DiCh → DiCh) (s : State) : (modDi n f s).star = s.star := rfl
@[simp] theorem modDi_can (n : Nat) (f : DiCh → DiCh) (s : State) : (modDi n f s).can = s.can := rfl
@[simp] theorem modDi_eth (n : Nat) (f : DiCh → DiCh) (s : State) : (modDi n f s).eth = s.eth := rfl
@[simp] theorem modDi_ptp (n : Nat) (f : DiCh → DiCh) (s : State) : (modDi n f s).ptp = s.ptp := rfl
@[simp] theorem modDi_pair (n : Nat) (f : DiCh → DiCh) (s : State) : (modDi n f s).pair = s.pair := rfl
@[simp] theorem modDi_wdt (n : Nat) (f : DiCh → DiCh) (s : State) : (modDi n f s).wdt = s.wdt := rfl
@[simp] theorem modDi_fw (n : Nat) (f : DiCh → DiCh) (s : State) : (modDi n f s).fw = s.fw := rfl
@[simp] theorem modDi_free (n : Nat) (f : DiCh → DiCh) (s : State) : (modDi n f s).free = s.free := rfl
@[simp] theorem modDi_pending (n : Nat) (f : DiCh → DiCh) (s : State) : (modDi n f s).pending = s.pending := rfl

/-! ### modDo -/

@[simp] theorem modDo_factory (n : Nat) (f : DoCh → DoCh) (s : State) : (modDo n f s).factory = s.factory := rfl
@[simp] theorem modDo_time (n : Nat) (f : DoCh → DoCh) (s : State) : (modDo n f s).time = s.time := rfl
@[simp] theorem modDo_mode (n : Nat) (f : DoCh → DoCh) (s : State) : (modDo n f s).mode = s.mode := rfl
@[simp] theorem modDo_power (n : Nat) (f : DoCh → DoCh) (s : State) : (modDo n f s).power = s.power := rfl
@[simp] theorem modDo_host (n : Nat) (f : DoCh → DoCh) (s : State) : (modDo n f s).host = s.host := rfl
@[simp] theorem modDo_hostMem (n : Nat) (f : DoCh → DoCh) (s : State) : (modDo n f s).hostMem = s.hostMem := rfl
@[simp] theorem modDo_recorder (n : Nat) (f : DoCh → DoCh) (s : State) : (modDo n f s).recorder = s.recorder := rfl
@[simp] theorem modDo_ret (n : Nat) (f : DoCh → DoCh) (s : State) : (modDo n f s).ret = s.ret := rfl
@[simp] theorem modDo_proj (n : Nat) (f : DoCh → DoCh) (s : State) : (modDo n f s).proj = s.proj := rfl
@[simp] theorem modDo_prof (n : Nat) (f : DoCh → DoCh) (s : State) : (modDo n f s).prof = s.prof := rfl
@[simp] theorem modDo_tasks (n : Nat) (f : DoCh → DoCh) (s : State) : (modDo n f s).tasks = s.tasks := rfl
@[simp] theorem modDo_stalls (n : Nat) (f : DoCh → DoCh) (s : State) : (modDo n f s).stalls = s.stalls := rfl
@[simp] theorem modDo_barns (n : Nat) (f : DoCh → DoCh) (s : State) : (modDo n f s).barns = s.barns := rfl
@[simp] theorem modDo_yard (n : Nat) (f : DoCh → DoCh) (s : State) : (modDo n f s).yard = s.yard := rfl
@[simp] theorem modDo_commit (n : Nat) (f : DoCh → DoCh) (s : State) : (modDo n f s).commit = s.commit := rfl
@[simp] theorem modDo_chan (n : Nat) (f : DoCh → DoCh) (s : State) : (modDo n f s).chan = s.chan := rfl
@[simp] theorem modDo_loops (n : Nat) (f : DoCh → DoCh) (s : State) : (modDo n f s).loops = s.loops := rfl
@[simp] theorem modDo_ihloz (n : Nat) (f : DoCh → DoCh) (s : State) : (modDo n f s).ihloz = s.ihloz := rfl
@[simp] theorem modDo_star (n : Nat) (f : DoCh → DoCh) (s : State) : (modDo n f s).star = s.star := rfl
@[simp] theorem modDo_can (n : Nat) (f : DoCh → DoCh) (s : State) : (modDo n f s).can = s.can := rfl
@[simp] theorem modDo_eth (n : Nat) (f : DoCh → DoCh) (s : State) : (modDo n f s).eth = s.eth := rfl
@[simp] theorem modDo_ptp (n : Nat) (f : DoCh → DoCh) (s : State) : (modDo n f s).ptp = s.ptp := rfl
@[simp] theorem modDo_pair (n : Nat) (f : DoCh → DoCh) (s : State) : (modDo n f s).pair = s.pair := rfl
@[simp] theorem modDo_wdt (n : Nat) (f : DoCh → DoCh) (s : State) : (modDo n f s).wdt = s.wdt := rfl
@[simp] theorem modDo_fw (n : Nat) (f : DoCh → DoCh) (s : State) : (modDo n f s).fw = s.fw := rfl
@[simp] theorem modDo_free (n : Nat) (f : DoCh → DoCh) (s : State) : (modDo n f s).free = s.free := rfl
@[simp] theorem modDo_pending (n : Nat) (f : DoCh → DoCh) (s : State) : (modDo n f s).pending = s.pending := rfl

/-! ### modDiGrp -/

@[simp] theorem modDiGrp_factory (n : Nat) (f : DiGrp → DiGrp) (s : State) : (modDiGrp n f s).factory = s.factory := rfl
@[simp] theorem modDiGrp_time (n : Nat) (f : DiGrp → DiGrp) (s : State) : (modDiGrp n f s).time = s.time := rfl
@[simp] theorem modDiGrp_mode (n : Nat) (f : DiGrp → DiGrp) (s : State) : (modDiGrp n f s).mode = s.mode := rfl
@[simp] theorem modDiGrp_power (n : Nat) (f : DiGrp → DiGrp) (s : State) : (modDiGrp n f s).power = s.power := rfl
@[simp] theorem modDiGrp_host (n : Nat) (f : DiGrp → DiGrp) (s : State) : (modDiGrp n f s).host = s.host := rfl
@[simp] theorem modDiGrp_hostMem (n : Nat) (f : DiGrp → DiGrp) (s : State) : (modDiGrp n f s).hostMem = s.hostMem := rfl
@[simp] theorem modDiGrp_recorder (n : Nat) (f : DiGrp → DiGrp) (s : State) : (modDiGrp n f s).recorder = s.recorder := rfl
@[simp] theorem modDiGrp_ret (n : Nat) (f : DiGrp → DiGrp) (s : State) : (modDiGrp n f s).ret = s.ret := rfl
@[simp] theorem modDiGrp_proj (n : Nat) (f : DiGrp → DiGrp) (s : State) : (modDiGrp n f s).proj = s.proj := rfl
@[simp] theorem modDiGrp_prof (n : Nat) (f : DiGrp → DiGrp) (s : State) : (modDiGrp n f s).prof = s.prof := rfl
@[simp] theorem modDiGrp_tasks (n : Nat) (f : DiGrp → DiGrp) (s : State) : (modDiGrp n f s).tasks = s.tasks := rfl
@[simp] theorem modDiGrp_stalls (n : Nat) (f : DiGrp → DiGrp) (s : State) : (modDiGrp n f s).stalls = s.stalls := rfl
@[simp] theorem modDiGrp_barns (n : Nat) (f : DiGrp → DiGrp) (s : State) : (modDiGrp n f s).barns = s.barns := rfl
@[simp] theorem modDiGrp_yard (n : Nat) (f : DiGrp → DiGrp) (s : State) : (modDiGrp n f s).yard = s.yard := rfl
@[simp] theorem modDiGrp_commit (n : Nat) (f : DiGrp → DiGrp) (s : State) : (modDiGrp n f s).commit = s.commit := rfl
@[simp] theorem modDiGrp_chan (n : Nat) (f : DiGrp → DiGrp) (s : State) : (modDiGrp n f s).chan = s.chan := rfl
@[simp] theorem modDiGrp_loops (n : Nat) (f : DiGrp → DiGrp) (s : State) : (modDiGrp n f s).loops = s.loops := rfl
@[simp] theorem modDiGrp_ihloz (n : Nat) (f : DiGrp → DiGrp) (s : State) : (modDiGrp n f s).ihloz = s.ihloz := rfl
@[simp] theorem modDiGrp_star (n : Nat) (f : DiGrp → DiGrp) (s : State) : (modDiGrp n f s).star = s.star := rfl
@[simp] theorem modDiGrp_can (n : Nat) (f : DiGrp → DiGrp) (s : State) : (modDiGrp n f s).can = s.can := rfl
@[simp] theorem modDiGrp_eth (n : Nat) (f : DiGrp → DiGrp) (s : State) : (modDiGrp n f s).eth = s.eth := rfl
@[simp] theorem modDiGrp_ptp (n : Nat) (f : DiGrp → DiGrp) (s : State) : (modDiGrp n f s).ptp = s.ptp := rfl
@[simp] theorem modDiGrp_pair (n : Nat) (f : DiGrp → DiGrp) (s : State) : (modDiGrp n f s).pair = s.pair := rfl
@[simp] theorem modDiGrp_wdt (n : Nat) (f : DiGrp → DiGrp) (s : State) : (modDiGrp n f s).wdt = s.wdt := rfl
@[simp] theorem modDiGrp_fw (n : Nat) (f : DiGrp → DiGrp) (s : State) : (modDiGrp n f s).fw = s.fw := rfl
@[simp] theorem modDiGrp_free (n : Nat) (f : DiGrp → DiGrp) (s : State) : (modDiGrp n f s).free = s.free := rfl
@[simp] theorem modDiGrp_pending (n : Nat) (f : DiGrp → DiGrp) (s : State) : (modDiGrp n f s).pending = s.pending := rfl

/-! ### modDoGrp -/

@[simp] theorem modDoGrp_factory (n : Nat) (f : DoGrp → DoGrp) (s : State) : (modDoGrp n f s).factory = s.factory := rfl
@[simp] theorem modDoGrp_time (n : Nat) (f : DoGrp → DoGrp) (s : State) : (modDoGrp n f s).time = s.time := rfl
@[simp] theorem modDoGrp_mode (n : Nat) (f : DoGrp → DoGrp) (s : State) : (modDoGrp n f s).mode = s.mode := rfl
@[simp] theorem modDoGrp_power (n : Nat) (f : DoGrp → DoGrp) (s : State) : (modDoGrp n f s).power = s.power := rfl
@[simp] theorem modDoGrp_host (n : Nat) (f : DoGrp → DoGrp) (s : State) : (modDoGrp n f s).host = s.host := rfl
@[simp] theorem modDoGrp_hostMem (n : Nat) (f : DoGrp → DoGrp) (s : State) : (modDoGrp n f s).hostMem = s.hostMem := rfl
@[simp] theorem modDoGrp_recorder (n : Nat) (f : DoGrp → DoGrp) (s : State) : (modDoGrp n f s).recorder = s.recorder := rfl
@[simp] theorem modDoGrp_ret (n : Nat) (f : DoGrp → DoGrp) (s : State) : (modDoGrp n f s).ret = s.ret := rfl
@[simp] theorem modDoGrp_proj (n : Nat) (f : DoGrp → DoGrp) (s : State) : (modDoGrp n f s).proj = s.proj := rfl
@[simp] theorem modDoGrp_prof (n : Nat) (f : DoGrp → DoGrp) (s : State) : (modDoGrp n f s).prof = s.prof := rfl
@[simp] theorem modDoGrp_tasks (n : Nat) (f : DoGrp → DoGrp) (s : State) : (modDoGrp n f s).tasks = s.tasks := rfl
@[simp] theorem modDoGrp_stalls (n : Nat) (f : DoGrp → DoGrp) (s : State) : (modDoGrp n f s).stalls = s.stalls := rfl
@[simp] theorem modDoGrp_barns (n : Nat) (f : DoGrp → DoGrp) (s : State) : (modDoGrp n f s).barns = s.barns := rfl
@[simp] theorem modDoGrp_yard (n : Nat) (f : DoGrp → DoGrp) (s : State) : (modDoGrp n f s).yard = s.yard := rfl
@[simp] theorem modDoGrp_commit (n : Nat) (f : DoGrp → DoGrp) (s : State) : (modDoGrp n f s).commit = s.commit := rfl
@[simp] theorem modDoGrp_chan (n : Nat) (f : DoGrp → DoGrp) (s : State) : (modDoGrp n f s).chan = s.chan := rfl
@[simp] theorem modDoGrp_loops (n : Nat) (f : DoGrp → DoGrp) (s : State) : (modDoGrp n f s).loops = s.loops := rfl
@[simp] theorem modDoGrp_ihloz (n : Nat) (f : DoGrp → DoGrp) (s : State) : (modDoGrp n f s).ihloz = s.ihloz := rfl
@[simp] theorem modDoGrp_star (n : Nat) (f : DoGrp → DoGrp) (s : State) : (modDoGrp n f s).star = s.star := rfl
@[simp] theorem modDoGrp_can (n : Nat) (f : DoGrp → DoGrp) (s : State) : (modDoGrp n f s).can = s.can := rfl
@[simp] theorem modDoGrp_eth (n : Nat) (f : DoGrp → DoGrp) (s : State) : (modDoGrp n f s).eth = s.eth := rfl
@[simp] theorem modDoGrp_ptp (n : Nat) (f : DoGrp → DoGrp) (s : State) : (modDoGrp n f s).ptp = s.ptp := rfl
@[simp] theorem modDoGrp_pair (n : Nat) (f : DoGrp → DoGrp) (s : State) : (modDoGrp n f s).pair = s.pair := rfl
@[simp] theorem modDoGrp_wdt (n : Nat) (f : DoGrp → DoGrp) (s : State) : (modDoGrp n f s).wdt = s.wdt := rfl
@[simp] theorem modDoGrp_fw (n : Nat) (f : DoGrp → DoGrp) (s : State) : (modDoGrp n f s).fw = s.fw := rfl
@[simp] theorem modDoGrp_free (n : Nat) (f : DoGrp → DoGrp) (s : State) : (modDoGrp n f s).free = s.free := rfl
@[simp] theorem modDoGrp_pending (n : Nat) (f : DoGrp → DoGrp) (s : State) : (modDoGrp n f s).pending = s.pending := rfl

/-! ### modLoop -/

@[simp] theorem modLoop_factory (n : Nat) (f : LoopCh → LoopCh) (s : State) : (modLoop n f s).factory = s.factory := rfl
@[simp] theorem modLoop_time (n : Nat) (f : LoopCh → LoopCh) (s : State) : (modLoop n f s).time = s.time := rfl
@[simp] theorem modLoop_mode (n : Nat) (f : LoopCh → LoopCh) (s : State) : (modLoop n f s).mode = s.mode := rfl
@[simp] theorem modLoop_power (n : Nat) (f : LoopCh → LoopCh) (s : State) : (modLoop n f s).power = s.power := rfl
@[simp] theorem modLoop_host (n : Nat) (f : LoopCh → LoopCh) (s : State) : (modLoop n f s).host = s.host := rfl
@[simp] theorem modLoop_hostMem (n : Nat) (f : LoopCh → LoopCh) (s : State) : (modLoop n f s).hostMem = s.hostMem := rfl
@[simp] theorem modLoop_recorder (n : Nat) (f : LoopCh → LoopCh) (s : State) : (modLoop n f s).recorder = s.recorder := rfl
@[simp] theorem modLoop_ret (n : Nat) (f : LoopCh → LoopCh) (s : State) : (modLoop n f s).ret = s.ret := rfl
@[simp] theorem modLoop_proj (n : Nat) (f : LoopCh → LoopCh) (s : State) : (modLoop n f s).proj = s.proj := rfl
@[simp] theorem modLoop_prof (n : Nat) (f : LoopCh → LoopCh) (s : State) : (modLoop n f s).prof = s.prof := rfl
@[simp] theorem modLoop_tasks (n : Nat) (f : LoopCh → LoopCh) (s : State) : (modLoop n f s).tasks = s.tasks := rfl
@[simp] theorem modLoop_stalls (n : Nat) (f : LoopCh → LoopCh) (s : State) : (modLoop n f s).stalls = s.stalls := rfl
@[simp] theorem modLoop_barns (n : Nat) (f : LoopCh → LoopCh) (s : State) : (modLoop n f s).barns = s.barns := rfl
@[simp] theorem modLoop_yard (n : Nat) (f : LoopCh → LoopCh) (s : State) : (modLoop n f s).yard = s.yard := rfl
@[simp] theorem modLoop_commit (n : Nat) (f : LoopCh → LoopCh) (s : State) : (modLoop n f s).commit = s.commit := rfl
@[simp] theorem modLoop_chan (n : Nat) (f : LoopCh → LoopCh) (s : State) : (modLoop n f s).chan = s.chan := rfl
@[simp] theorem modLoop_field (n : Nat) (f : LoopCh → LoopCh) (s : State) : (modLoop n f s).field = s.field := rfl
@[simp] theorem modLoop_ihloz (n : Nat) (f : LoopCh → LoopCh) (s : State) : (modLoop n f s).ihloz = s.ihloz := rfl
@[simp] theorem modLoop_star (n : Nat) (f : LoopCh → LoopCh) (s : State) : (modLoop n f s).star = s.star := rfl
@[simp] theorem modLoop_can (n : Nat) (f : LoopCh → LoopCh) (s : State) : (modLoop n f s).can = s.can := rfl
@[simp] theorem modLoop_eth (n : Nat) (f : LoopCh → LoopCh) (s : State) : (modLoop n f s).eth = s.eth := rfl
@[simp] theorem modLoop_ptp (n : Nat) (f : LoopCh → LoopCh) (s : State) : (modLoop n f s).ptp = s.ptp := rfl
@[simp] theorem modLoop_pair (n : Nat) (f : LoopCh → LoopCh) (s : State) : (modLoop n f s).pair = s.pair := rfl
@[simp] theorem modLoop_wdt (n : Nat) (f : LoopCh → LoopCh) (s : State) : (modLoop n f s).wdt = s.wdt := rfl
@[simp] theorem modLoop_fw (n : Nat) (f : LoopCh → LoopCh) (s : State) : (modLoop n f s).fw = s.fw := rfl
@[simp] theorem modLoop_free (n : Nat) (f : LoopCh → LoopCh) (s : State) : (modLoop n f s).free = s.free := rfl
@[simp] theorem modLoop_pending (n : Nat) (f : LoopCh → LoopCh) (s : State) : (modLoop n f s).pending = s.pending := rfl

/-! ### modIhloz -/

@[simp] theorem modIhloz_factory (f : IhlozSt → IhlozSt) (s : State) : (modIhloz f s).factory = s.factory := rfl
@[simp] theorem modIhloz_time (f : IhlozSt → IhlozSt) (s : State) : (modIhloz f s).time = s.time := rfl
@[simp] theorem modIhloz_mode (f : IhlozSt → IhlozSt) (s : State) : (modIhloz f s).mode = s.mode := rfl
@[simp] theorem modIhloz_power (f : IhlozSt → IhlozSt) (s : State) : (modIhloz f s).power = s.power := rfl
@[simp] theorem modIhloz_host (f : IhlozSt → IhlozSt) (s : State) : (modIhloz f s).host = s.host := rfl
@[simp] theorem modIhloz_hostMem (f : IhlozSt → IhlozSt) (s : State) : (modIhloz f s).hostMem = s.hostMem := rfl
@[simp] theorem modIhloz_recorder (f : IhlozSt → IhlozSt) (s : State) : (modIhloz f s).recorder = s.recorder := rfl
@[simp] theorem modIhloz_ret (f : IhlozSt → IhlozSt) (s : State) : (modIhloz f s).ret = s.ret := rfl
@[simp] theorem modIhloz_proj (f : IhlozSt → IhlozSt) (s : State) : (modIhloz f s).proj = s.proj := rfl
@[simp] theorem modIhloz_prof (f : IhlozSt → IhlozSt) (s : State) : (modIhloz f s).prof = s.prof := rfl
@[simp] theorem modIhloz_tasks (f : IhlozSt → IhlozSt) (s : State) : (modIhloz f s).tasks = s.tasks := rfl
@[simp] theorem modIhloz_stalls (f : IhlozSt → IhlozSt) (s : State) : (modIhloz f s).stalls = s.stalls := rfl
@[simp] theorem modIhloz_barns (f : IhlozSt → IhlozSt) (s : State) : (modIhloz f s).barns = s.barns := rfl
@[simp] theorem modIhloz_yard (f : IhlozSt → IhlozSt) (s : State) : (modIhloz f s).yard = s.yard := rfl
@[simp] theorem modIhloz_commit (f : IhlozSt → IhlozSt) (s : State) : (modIhloz f s).commit = s.commit := rfl
@[simp] theorem modIhloz_chan (f : IhlozSt → IhlozSt) (s : State) : (modIhloz f s).chan = s.chan := rfl
@[simp] theorem modIhloz_field (f : IhlozSt → IhlozSt) (s : State) : (modIhloz f s).field = s.field := rfl
@[simp] theorem modIhloz_loops (f : IhlozSt → IhlozSt) (s : State) : (modIhloz f s).loops = s.loops := rfl
@[simp] theorem modIhloz_star (f : IhlozSt → IhlozSt) (s : State) : (modIhloz f s).star = s.star := rfl
@[simp] theorem modIhloz_can (f : IhlozSt → IhlozSt) (s : State) : (modIhloz f s).can = s.can := rfl
@[simp] theorem modIhloz_eth (f : IhlozSt → IhlozSt) (s : State) : (modIhloz f s).eth = s.eth := rfl
@[simp] theorem modIhloz_ptp (f : IhlozSt → IhlozSt) (s : State) : (modIhloz f s).ptp = s.ptp := rfl
@[simp] theorem modIhloz_pair (f : IhlozSt → IhlozSt) (s : State) : (modIhloz f s).pair = s.pair := rfl
@[simp] theorem modIhloz_wdt (f : IhlozSt → IhlozSt) (s : State) : (modIhloz f s).wdt = s.wdt := rfl
@[simp] theorem modIhloz_fw (f : IhlozSt → IhlozSt) (s : State) : (modIhloz f s).fw = s.fw := rfl
@[simp] theorem modIhloz_free (f : IhlozSt → IhlozSt) (s : State) : (modIhloz f s).free = s.free := rfl
@[simp] theorem modIhloz_pending (f : IhlozSt → IhlozSt) (s : State) : (modIhloz f s).pending = s.pending := rfl

/-! ### modPort -/

@[simp] theorem modPort_factory (p : Fin 8) (f : StarPort → StarPort) (s : State) : (modPort p f s).factory = s.factory := rfl
@[simp] theorem modPort_time (p : Fin 8) (f : StarPort → StarPort) (s : State) : (modPort p f s).time = s.time := rfl
@[simp] theorem modPort_mode (p : Fin 8) (f : StarPort → StarPort) (s : State) : (modPort p f s).mode = s.mode := rfl
@[simp] theorem modPort_power (p : Fin 8) (f : StarPort → StarPort) (s : State) : (modPort p f s).power = s.power := rfl
@[simp] theorem modPort_host (p : Fin 8) (f : StarPort → StarPort) (s : State) : (modPort p f s).host = s.host := rfl
@[simp] theorem modPort_hostMem (p : Fin 8) (f : StarPort → StarPort) (s : State) : (modPort p f s).hostMem = s.hostMem := rfl
@[simp] theorem modPort_recorder (p : Fin 8) (f : StarPort → StarPort) (s : State) : (modPort p f s).recorder = s.recorder := rfl
@[simp] theorem modPort_ret (p : Fin 8) (f : StarPort → StarPort) (s : State) : (modPort p f s).ret = s.ret := rfl
@[simp] theorem modPort_proj (p : Fin 8) (f : StarPort → StarPort) (s : State) : (modPort p f s).proj = s.proj := rfl
@[simp] theorem modPort_prof (p : Fin 8) (f : StarPort → StarPort) (s : State) : (modPort p f s).prof = s.prof := rfl
@[simp] theorem modPort_tasks (p : Fin 8) (f : StarPort → StarPort) (s : State) : (modPort p f s).tasks = s.tasks := rfl
@[simp] theorem modPort_stalls (p : Fin 8) (f : StarPort → StarPort) (s : State) : (modPort p f s).stalls = s.stalls := rfl
@[simp] theorem modPort_barns (p : Fin 8) (f : StarPort → StarPort) (s : State) : (modPort p f s).barns = s.barns := rfl
@[simp] theorem modPort_yard (p : Fin 8) (f : StarPort → StarPort) (s : State) : (modPort p f s).yard = s.yard := rfl
@[simp] theorem modPort_commit (p : Fin 8) (f : StarPort → StarPort) (s : State) : (modPort p f s).commit = s.commit := rfl
@[simp] theorem modPort_chan (p : Fin 8) (f : StarPort → StarPort) (s : State) : (modPort p f s).chan = s.chan := rfl
@[simp] theorem modPort_field (p : Fin 8) (f : StarPort → StarPort) (s : State) : (modPort p f s).field = s.field := rfl
@[simp] theorem modPort_loops (p : Fin 8) (f : StarPort → StarPort) (s : State) : (modPort p f s).loops = s.loops := rfl
@[simp] theorem modPort_ihloz (p : Fin 8) (f : StarPort → StarPort) (s : State) : (modPort p f s).ihloz = s.ihloz := rfl
@[simp] theorem modPort_can (p : Fin 8) (f : StarPort → StarPort) (s : State) : (modPort p f s).can = s.can := rfl
@[simp] theorem modPort_eth (p : Fin 8) (f : StarPort → StarPort) (s : State) : (modPort p f s).eth = s.eth := rfl
@[simp] theorem modPort_ptp (p : Fin 8) (f : StarPort → StarPort) (s : State) : (modPort p f s).ptp = s.ptp := rfl
@[simp] theorem modPort_pair (p : Fin 8) (f : StarPort → StarPort) (s : State) : (modPort p f s).pair = s.pair := rfl
@[simp] theorem modPort_wdt (p : Fin 8) (f : StarPort → StarPort) (s : State) : (modPort p f s).wdt = s.wdt := rfl
@[simp] theorem modPort_fw (p : Fin 8) (f : StarPort → StarPort) (s : State) : (modPort p f s).fw = s.fw := rfl
@[simp] theorem modPort_free (p : Fin 8) (f : StarPort → StarPort) (s : State) : (modPort p f s).free = s.free := rfl
@[simp] theorem modPort_pending (p : Fin 8) (f : StarPort → StarPort) (s : State) : (modPort p f s).pending = s.pending := rfl

/-! ### modCan -/

@[simp] theorem modCan_factory (c : Fin 4) (f : CanSt → CanSt) (s : State) : (modCan c f s).factory = s.factory := rfl
@[simp] theorem modCan_time (c : Fin 4) (f : CanSt → CanSt) (s : State) : (modCan c f s).time = s.time := rfl
@[simp] theorem modCan_mode (c : Fin 4) (f : CanSt → CanSt) (s : State) : (modCan c f s).mode = s.mode := rfl
@[simp] theorem modCan_power (c : Fin 4) (f : CanSt → CanSt) (s : State) : (modCan c f s).power = s.power := rfl
@[simp] theorem modCan_host (c : Fin 4) (f : CanSt → CanSt) (s : State) : (modCan c f s).host = s.host := rfl
@[simp] theorem modCan_hostMem (c : Fin 4) (f : CanSt → CanSt) (s : State) : (modCan c f s).hostMem = s.hostMem := rfl
@[simp] theorem modCan_recorder (c : Fin 4) (f : CanSt → CanSt) (s : State) : (modCan c f s).recorder = s.recorder := rfl
@[simp] theorem modCan_ret (c : Fin 4) (f : CanSt → CanSt) (s : State) : (modCan c f s).ret = s.ret := rfl
@[simp] theorem modCan_proj (c : Fin 4) (f : CanSt → CanSt) (s : State) : (modCan c f s).proj = s.proj := rfl
@[simp] theorem modCan_prof (c : Fin 4) (f : CanSt → CanSt) (s : State) : (modCan c f s).prof = s.prof := rfl
@[simp] theorem modCan_tasks (c : Fin 4) (f : CanSt → CanSt) (s : State) : (modCan c f s).tasks = s.tasks := rfl
@[simp] theorem modCan_stalls (c : Fin 4) (f : CanSt → CanSt) (s : State) : (modCan c f s).stalls = s.stalls := rfl
@[simp] theorem modCan_barns (c : Fin 4) (f : CanSt → CanSt) (s : State) : (modCan c f s).barns = s.barns := rfl
@[simp] theorem modCan_yard (c : Fin 4) (f : CanSt → CanSt) (s : State) : (modCan c f s).yard = s.yard := rfl
@[simp] theorem modCan_commit (c : Fin 4) (f : CanSt → CanSt) (s : State) : (modCan c f s).commit = s.commit := rfl
@[simp] theorem modCan_chan (c : Fin 4) (f : CanSt → CanSt) (s : State) : (modCan c f s).chan = s.chan := rfl
@[simp] theorem modCan_field (c : Fin 4) (f : CanSt → CanSt) (s : State) : (modCan c f s).field = s.field := rfl
@[simp] theorem modCan_loops (c : Fin 4) (f : CanSt → CanSt) (s : State) : (modCan c f s).loops = s.loops := rfl
@[simp] theorem modCan_ihloz (c : Fin 4) (f : CanSt → CanSt) (s : State) : (modCan c f s).ihloz = s.ihloz := rfl
@[simp] theorem modCan_star (c : Fin 4) (f : CanSt → CanSt) (s : State) : (modCan c f s).star = s.star := rfl
@[simp] theorem modCan_eth (c : Fin 4) (f : CanSt → CanSt) (s : State) : (modCan c f s).eth = s.eth := rfl
@[simp] theorem modCan_ptp (c : Fin 4) (f : CanSt → CanSt) (s : State) : (modCan c f s).ptp = s.ptp := rfl
@[simp] theorem modCan_pair (c : Fin 4) (f : CanSt → CanSt) (s : State) : (modCan c f s).pair = s.pair := rfl
@[simp] theorem modCan_wdt (c : Fin 4) (f : CanSt → CanSt) (s : State) : (modCan c f s).wdt = s.wdt := rfl
@[simp] theorem modCan_fw (c : Fin 4) (f : CanSt → CanSt) (s : State) : (modCan c f s).fw = s.fw := rfl
@[simp] theorem modCan_free (c : Fin 4) (f : CanSt → CanSt) (s : State) : (modCan c f s).free = s.free := rfl
@[simp] theorem modCan_pending (c : Fin 4) (f : CanSt → CanSt) (s : State) : (modCan c f s).pending = s.pending := rfl

/-! ### modBuf -/

@[simp] theorem modBuf_factory (c : Fin 4) (b : Fin 3) (f : CanBuf → CanBuf) (s : State) : (modBuf c b f s).factory = s.factory := rfl
@[simp] theorem modBuf_time (c : Fin 4) (b : Fin 3) (f : CanBuf → CanBuf) (s : State) : (modBuf c b f s).time = s.time := rfl
@[simp] theorem modBuf_mode (c : Fin 4) (b : Fin 3) (f : CanBuf → CanBuf) (s : State) : (modBuf c b f s).mode = s.mode := rfl
@[simp] theorem modBuf_power (c : Fin 4) (b : Fin 3) (f : CanBuf → CanBuf) (s : State) : (modBuf c b f s).power = s.power := rfl
@[simp] theorem modBuf_host (c : Fin 4) (b : Fin 3) (f : CanBuf → CanBuf) (s : State) : (modBuf c b f s).host = s.host := rfl
@[simp] theorem modBuf_hostMem (c : Fin 4) (b : Fin 3) (f : CanBuf → CanBuf) (s : State) : (modBuf c b f s).hostMem = s.hostMem := rfl
@[simp] theorem modBuf_recorder (c : Fin 4) (b : Fin 3) (f : CanBuf → CanBuf) (s : State) : (modBuf c b f s).recorder = s.recorder := rfl
@[simp] theorem modBuf_ret (c : Fin 4) (b : Fin 3) (f : CanBuf → CanBuf) (s : State) : (modBuf c b f s).ret = s.ret := rfl
@[simp] theorem modBuf_proj (c : Fin 4) (b : Fin 3) (f : CanBuf → CanBuf) (s : State) : (modBuf c b f s).proj = s.proj := rfl
@[simp] theorem modBuf_prof (c : Fin 4) (b : Fin 3) (f : CanBuf → CanBuf) (s : State) : (modBuf c b f s).prof = s.prof := rfl
@[simp] theorem modBuf_tasks (c : Fin 4) (b : Fin 3) (f : CanBuf → CanBuf) (s : State) : (modBuf c b f s).tasks = s.tasks := rfl
@[simp] theorem modBuf_stalls (c : Fin 4) (b : Fin 3) (f : CanBuf → CanBuf) (s : State) : (modBuf c b f s).stalls = s.stalls := rfl
@[simp] theorem modBuf_barns (c : Fin 4) (b : Fin 3) (f : CanBuf → CanBuf) (s : State) : (modBuf c b f s).barns = s.barns := rfl
@[simp] theorem modBuf_yard (c : Fin 4) (b : Fin 3) (f : CanBuf → CanBuf) (s : State) : (modBuf c b f s).yard = s.yard := rfl
@[simp] theorem modBuf_commit (c : Fin 4) (b : Fin 3) (f : CanBuf → CanBuf) (s : State) : (modBuf c b f s).commit = s.commit := rfl
@[simp] theorem modBuf_chan (c : Fin 4) (b : Fin 3) (f : CanBuf → CanBuf) (s : State) : (modBuf c b f s).chan = s.chan := rfl
@[simp] theorem modBuf_field (c : Fin 4) (b : Fin 3) (f : CanBuf → CanBuf) (s : State) : (modBuf c b f s).field = s.field := rfl
@[simp] theorem modBuf_loops (c : Fin 4) (b : Fin 3) (f : CanBuf → CanBuf) (s : State) : (modBuf c b f s).loops = s.loops := rfl
@[simp] theorem modBuf_ihloz (c : Fin 4) (b : Fin 3) (f : CanBuf → CanBuf) (s : State) : (modBuf c b f s).ihloz = s.ihloz := rfl
@[simp] theorem modBuf_star (c : Fin 4) (b : Fin 3) (f : CanBuf → CanBuf) (s : State) : (modBuf c b f s).star = s.star := rfl
@[simp] theorem modBuf_eth (c : Fin 4) (b : Fin 3) (f : CanBuf → CanBuf) (s : State) : (modBuf c b f s).eth = s.eth := rfl
@[simp] theorem modBuf_ptp (c : Fin 4) (b : Fin 3) (f : CanBuf → CanBuf) (s : State) : (modBuf c b f s).ptp = s.ptp := rfl
@[simp] theorem modBuf_pair (c : Fin 4) (b : Fin 3) (f : CanBuf → CanBuf) (s : State) : (modBuf c b f s).pair = s.pair := rfl
@[simp] theorem modBuf_wdt (c : Fin 4) (b : Fin 3) (f : CanBuf → CanBuf) (s : State) : (modBuf c b f s).wdt = s.wdt := rfl
@[simp] theorem modBuf_fw (c : Fin 4) (b : Fin 3) (f : CanBuf → CanBuf) (s : State) : (modBuf c b f s).fw = s.fw := rfl
@[simp] theorem modBuf_free (c : Fin 4) (b : Fin 3) (f : CanBuf → CanBuf) (s : State) : (modBuf c b f s).free = s.free := rfl
@[simp] theorem modBuf_pending (c : Fin 4) (b : Fin 3) (f : CanBuf → CanBuf) (s : State) : (modBuf c b f s).pending = s.pending := rfl

/-! ### modEth -/

@[simp] theorem modEth_factory (p : Fin 2) (f : EthSt → EthSt) (s : State) : (modEth p f s).factory = s.factory := rfl
@[simp] theorem modEth_time (p : Fin 2) (f : EthSt → EthSt) (s : State) : (modEth p f s).time = s.time := rfl
@[simp] theorem modEth_mode (p : Fin 2) (f : EthSt → EthSt) (s : State) : (modEth p f s).mode = s.mode := rfl
@[simp] theorem modEth_power (p : Fin 2) (f : EthSt → EthSt) (s : State) : (modEth p f s).power = s.power := rfl
@[simp] theorem modEth_host (p : Fin 2) (f : EthSt → EthSt) (s : State) : (modEth p f s).host = s.host := rfl
@[simp] theorem modEth_hostMem (p : Fin 2) (f : EthSt → EthSt) (s : State) : (modEth p f s).hostMem = s.hostMem := rfl
@[simp] theorem modEth_recorder (p : Fin 2) (f : EthSt → EthSt) (s : State) : (modEth p f s).recorder = s.recorder := rfl
@[simp] theorem modEth_ret (p : Fin 2) (f : EthSt → EthSt) (s : State) : (modEth p f s).ret = s.ret := rfl
@[simp] theorem modEth_proj (p : Fin 2) (f : EthSt → EthSt) (s : State) : (modEth p f s).proj = s.proj := rfl
@[simp] theorem modEth_prof (p : Fin 2) (f : EthSt → EthSt) (s : State) : (modEth p f s).prof = s.prof := rfl
@[simp] theorem modEth_tasks (p : Fin 2) (f : EthSt → EthSt) (s : State) : (modEth p f s).tasks = s.tasks := rfl
@[simp] theorem modEth_stalls (p : Fin 2) (f : EthSt → EthSt) (s : State) : (modEth p f s).stalls = s.stalls := rfl
@[simp] theorem modEth_barns (p : Fin 2) (f : EthSt → EthSt) (s : State) : (modEth p f s).barns = s.barns := rfl
@[simp] theorem modEth_yard (p : Fin 2) (f : EthSt → EthSt) (s : State) : (modEth p f s).yard = s.yard := rfl
@[simp] theorem modEth_commit (p : Fin 2) (f : EthSt → EthSt) (s : State) : (modEth p f s).commit = s.commit := rfl
@[simp] theorem modEth_chan (p : Fin 2) (f : EthSt → EthSt) (s : State) : (modEth p f s).chan = s.chan := rfl
@[simp] theorem modEth_field (p : Fin 2) (f : EthSt → EthSt) (s : State) : (modEth p f s).field = s.field := rfl
@[simp] theorem modEth_loops (p : Fin 2) (f : EthSt → EthSt) (s : State) : (modEth p f s).loops = s.loops := rfl
@[simp] theorem modEth_ihloz (p : Fin 2) (f : EthSt → EthSt) (s : State) : (modEth p f s).ihloz = s.ihloz := rfl
@[simp] theorem modEth_star (p : Fin 2) (f : EthSt → EthSt) (s : State) : (modEth p f s).star = s.star := rfl
@[simp] theorem modEth_can (p : Fin 2) (f : EthSt → EthSt) (s : State) : (modEth p f s).can = s.can := rfl
@[simp] theorem modEth_ptp (p : Fin 2) (f : EthSt → EthSt) (s : State) : (modEth p f s).ptp = s.ptp := rfl
@[simp] theorem modEth_pair (p : Fin 2) (f : EthSt → EthSt) (s : State) : (modEth p f s).pair = s.pair := rfl
@[simp] theorem modEth_wdt (p : Fin 2) (f : EthSt → EthSt) (s : State) : (modEth p f s).wdt = s.wdt := rfl
@[simp] theorem modEth_fw (p : Fin 2) (f : EthSt → EthSt) (s : State) : (modEth p f s).fw = s.fw := rfl
@[simp] theorem modEth_free (p : Fin 2) (f : EthSt → EthSt) (s : State) : (modEth p f s).free = s.free := rfl
@[simp] theorem modEth_pending (p : Fin 2) (f : EthSt → EthSt) (s : State) : (modEth p f s).pending = s.pending := rfl

/-! ### modQueue -/

@[simp] theorem modQueue_factory (p : Fin 2) (q : Fin 8) (f : List EthFrame → List EthFrame) (s : State) : (modQueue p q f s).factory = s.factory := rfl
@[simp] theorem modQueue_time (p : Fin 2) (q : Fin 8) (f : List EthFrame → List EthFrame) (s : State) : (modQueue p q f s).time = s.time := rfl
@[simp] theorem modQueue_mode (p : Fin 2) (q : Fin 8) (f : List EthFrame → List EthFrame) (s : State) : (modQueue p q f s).mode = s.mode := rfl
@[simp] theorem modQueue_power (p : Fin 2) (q : Fin 8) (f : List EthFrame → List EthFrame) (s : State) : (modQueue p q f s).power = s.power := rfl
@[simp] theorem modQueue_host (p : Fin 2) (q : Fin 8) (f : List EthFrame → List EthFrame) (s : State) : (modQueue p q f s).host = s.host := rfl
@[simp] theorem modQueue_hostMem (p : Fin 2) (q : Fin 8) (f : List EthFrame → List EthFrame) (s : State) : (modQueue p q f s).hostMem = s.hostMem := rfl
@[simp] theorem modQueue_recorder (p : Fin 2) (q : Fin 8) (f : List EthFrame → List EthFrame) (s : State) : (modQueue p q f s).recorder = s.recorder := rfl
@[simp] theorem modQueue_ret (p : Fin 2) (q : Fin 8) (f : List EthFrame → List EthFrame) (s : State) : (modQueue p q f s).ret = s.ret := rfl
@[simp] theorem modQueue_proj (p : Fin 2) (q : Fin 8) (f : List EthFrame → List EthFrame) (s : State) : (modQueue p q f s).proj = s.proj := rfl
@[simp] theorem modQueue_prof (p : Fin 2) (q : Fin 8) (f : List EthFrame → List EthFrame) (s : State) : (modQueue p q f s).prof = s.prof := rfl
@[simp] theorem modQueue_tasks (p : Fin 2) (q : Fin 8) (f : List EthFrame → List EthFrame) (s : State) : (modQueue p q f s).tasks = s.tasks := rfl
@[simp] theorem modQueue_stalls (p : Fin 2) (q : Fin 8) (f : List EthFrame → List EthFrame) (s : State) : (modQueue p q f s).stalls = s.stalls := rfl
@[simp] theorem modQueue_barns (p : Fin 2) (q : Fin 8) (f : List EthFrame → List EthFrame) (s : State) : (modQueue p q f s).barns = s.barns := rfl
@[simp] theorem modQueue_yard (p : Fin 2) (q : Fin 8) (f : List EthFrame → List EthFrame) (s : State) : (modQueue p q f s).yard = s.yard := rfl
@[simp] theorem modQueue_commit (p : Fin 2) (q : Fin 8) (f : List EthFrame → List EthFrame) (s : State) : (modQueue p q f s).commit = s.commit := rfl
@[simp] theorem modQueue_chan (p : Fin 2) (q : Fin 8) (f : List EthFrame → List EthFrame) (s : State) : (modQueue p q f s).chan = s.chan := rfl
@[simp] theorem modQueue_field (p : Fin 2) (q : Fin 8) (f : List EthFrame → List EthFrame) (s : State) : (modQueue p q f s).field = s.field := rfl
@[simp] theorem modQueue_loops (p : Fin 2) (q : Fin 8) (f : List EthFrame → List EthFrame) (s : State) : (modQueue p q f s).loops = s.loops := rfl
@[simp] theorem modQueue_ihloz (p : Fin 2) (q : Fin 8) (f : List EthFrame → List EthFrame) (s : State) : (modQueue p q f s).ihloz = s.ihloz := rfl
@[simp] theorem modQueue_star (p : Fin 2) (q : Fin 8) (f : List EthFrame → List EthFrame) (s : State) : (modQueue p q f s).star = s.star := rfl
@[simp] theorem modQueue_can (p : Fin 2) (q : Fin 8) (f : List EthFrame → List EthFrame) (s : State) : (modQueue p q f s).can = s.can := rfl
@[simp] theorem modQueue_ptp (p : Fin 2) (q : Fin 8) (f : List EthFrame → List EthFrame) (s : State) : (modQueue p q f s).ptp = s.ptp := rfl
@[simp] theorem modQueue_pair (p : Fin 2) (q : Fin 8) (f : List EthFrame → List EthFrame) (s : State) : (modQueue p q f s).pair = s.pair := rfl
@[simp] theorem modQueue_wdt (p : Fin 2) (q : Fin 8) (f : List EthFrame → List EthFrame) (s : State) : (modQueue p q f s).wdt = s.wdt := rfl
@[simp] theorem modQueue_fw (p : Fin 2) (q : Fin 8) (f : List EthFrame → List EthFrame) (s : State) : (modQueue p q f s).fw = s.fw := rfl
@[simp] theorem modQueue_free (p : Fin 2) (q : Fin 8) (f : List EthFrame → List EthFrame) (s : State) : (modQueue p q f s).free = s.free := rfl
@[simp] theorem modQueue_pending (p : Fin 2) (q : Fin 8) (f : List EthFrame → List EthFrame) (s : State) : (modQueue p q f s).pending = s.pending := rfl

/-! ### modPair -/

@[simp] theorem modPair_factory (f : PairSt → PairSt) (s : State) : (modPair f s).factory = s.factory := rfl
@[simp] theorem modPair_time (f : PairSt → PairSt) (s : State) : (modPair f s).time = s.time := rfl
@[simp] theorem modPair_mode (f : PairSt → PairSt) (s : State) : (modPair f s).mode = s.mode := rfl
@[simp] theorem modPair_power (f : PairSt → PairSt) (s : State) : (modPair f s).power = s.power := rfl
@[simp] theorem modPair_host (f : PairSt → PairSt) (s : State) : (modPair f s).host = s.host := rfl
@[simp] theorem modPair_hostMem (f : PairSt → PairSt) (s : State) : (modPair f s).hostMem = s.hostMem := rfl
@[simp] theorem modPair_recorder (f : PairSt → PairSt) (s : State) : (modPair f s).recorder = s.recorder := rfl
@[simp] theorem modPair_ret (f : PairSt → PairSt) (s : State) : (modPair f s).ret = s.ret := rfl
@[simp] theorem modPair_proj (f : PairSt → PairSt) (s : State) : (modPair f s).proj = s.proj := rfl
@[simp] theorem modPair_prof (f : PairSt → PairSt) (s : State) : (modPair f s).prof = s.prof := rfl
@[simp] theorem modPair_tasks (f : PairSt → PairSt) (s : State) : (modPair f s).tasks = s.tasks := rfl
@[simp] theorem modPair_stalls (f : PairSt → PairSt) (s : State) : (modPair f s).stalls = s.stalls := rfl
@[simp] theorem modPair_barns (f : PairSt → PairSt) (s : State) : (modPair f s).barns = s.barns := rfl
@[simp] theorem modPair_yard (f : PairSt → PairSt) (s : State) : (modPair f s).yard = s.yard := rfl
@[simp] theorem modPair_commit (f : PairSt → PairSt) (s : State) : (modPair f s).commit = s.commit := rfl
@[simp] theorem modPair_chan (f : PairSt → PairSt) (s : State) : (modPair f s).chan = s.chan := rfl
@[simp] theorem modPair_field (f : PairSt → PairSt) (s : State) : (modPair f s).field = s.field := rfl
@[simp] theorem modPair_loops (f : PairSt → PairSt) (s : State) : (modPair f s).loops = s.loops := rfl
@[simp] theorem modPair_ihloz (f : PairSt → PairSt) (s : State) : (modPair f s).ihloz = s.ihloz := rfl
@[simp] theorem modPair_star (f : PairSt → PairSt) (s : State) : (modPair f s).star = s.star := rfl
@[simp] theorem modPair_can (f : PairSt → PairSt) (s : State) : (modPair f s).can = s.can := rfl
@[simp] theorem modPair_eth (f : PairSt → PairSt) (s : State) : (modPair f s).eth = s.eth := rfl
@[simp] theorem modPair_ptp (f : PairSt → PairSt) (s : State) : (modPair f s).ptp = s.ptp := rfl
@[simp] theorem modPair_wdt (f : PairSt → PairSt) (s : State) : (modPair f s).wdt = s.wdt := rfl
@[simp] theorem modPair_fw (f : PairSt → PairSt) (s : State) : (modPair f s).fw = s.fw := rfl
@[simp] theorem modPair_free (f : PairSt → PairSt) (s : State) : (modPair f s).free = s.free := rfl
@[simp] theorem modPair_pending (f : PairSt → PairSt) (s : State) : (modPair f s).pending = s.pending := rfl

/-! ### modPower -/

@[simp] theorem modPower_factory (f : PowerSt → PowerSt) (s : State) : (modPower f s).factory = s.factory := rfl
@[simp] theorem modPower_time (f : PowerSt → PowerSt) (s : State) : (modPower f s).time = s.time := rfl
@[simp] theorem modPower_mode (f : PowerSt → PowerSt) (s : State) : (modPower f s).mode = s.mode := rfl
@[simp] theorem modPower_host (f : PowerSt → PowerSt) (s : State) : (modPower f s).host = s.host := rfl
@[simp] theorem modPower_hostMem (f : PowerSt → PowerSt) (s : State) : (modPower f s).hostMem = s.hostMem := rfl
@[simp] theorem modPower_recorder (f : PowerSt → PowerSt) (s : State) : (modPower f s).recorder = s.recorder := rfl
@[simp] theorem modPower_ret (f : PowerSt → PowerSt) (s : State) : (modPower f s).ret = s.ret := rfl
@[simp] theorem modPower_proj (f : PowerSt → PowerSt) (s : State) : (modPower f s).proj = s.proj := rfl
@[simp] theorem modPower_prof (f : PowerSt → PowerSt) (s : State) : (modPower f s).prof = s.prof := rfl
@[simp] theorem modPower_tasks (f : PowerSt → PowerSt) (s : State) : (modPower f s).tasks = s.tasks := rfl
@[simp] theorem modPower_stalls (f : PowerSt → PowerSt) (s : State) : (modPower f s).stalls = s.stalls := rfl
@[simp] theorem modPower_barns (f : PowerSt → PowerSt) (s : State) : (modPower f s).barns = s.barns := rfl
@[simp] theorem modPower_yard (f : PowerSt → PowerSt) (s : State) : (modPower f s).yard = s.yard := rfl
@[simp] theorem modPower_commit (f : PowerSt → PowerSt) (s : State) : (modPower f s).commit = s.commit := rfl
@[simp] theorem modPower_chan (f : PowerSt → PowerSt) (s : State) : (modPower f s).chan = s.chan := rfl
@[simp] theorem modPower_field (f : PowerSt → PowerSt) (s : State) : (modPower f s).field = s.field := rfl
@[simp] theorem modPower_loops (f : PowerSt → PowerSt) (s : State) : (modPower f s).loops = s.loops := rfl
@[simp] theorem modPower_ihloz (f : PowerSt → PowerSt) (s : State) : (modPower f s).ihloz = s.ihloz := rfl
@[simp] theorem modPower_star (f : PowerSt → PowerSt) (s : State) : (modPower f s).star = s.star := rfl
@[simp] theorem modPower_can (f : PowerSt → PowerSt) (s : State) : (modPower f s).can = s.can := rfl
@[simp] theorem modPower_eth (f : PowerSt → PowerSt) (s : State) : (modPower f s).eth = s.eth := rfl
@[simp] theorem modPower_ptp (f : PowerSt → PowerSt) (s : State) : (modPower f s).ptp = s.ptp := rfl
@[simp] theorem modPower_pair (f : PowerSt → PowerSt) (s : State) : (modPower f s).pair = s.pair := rfl
@[simp] theorem modPower_wdt (f : PowerSt → PowerSt) (s : State) : (modPower f s).wdt = s.wdt := rfl
@[simp] theorem modPower_fw (f : PowerSt → PowerSt) (s : State) : (modPower f s).fw = s.fw := rfl
@[simp] theorem modPower_free (f : PowerSt → PowerSt) (s : State) : (modPower f s).free = s.free := rfl
@[simp] theorem modPower_pending (f : PowerSt → PowerSt) (s : State) : (modPower f s).pending = s.pending := rfl

/-! ### modWdt -/

@[simp] theorem modWdt_factory (f : WdtSt → WdtSt) (s : State) : (modWdt f s).factory = s.factory := rfl
@[simp] theorem modWdt_time (f : WdtSt → WdtSt) (s : State) : (modWdt f s).time = s.time := rfl
@[simp] theorem modWdt_mode (f : WdtSt → WdtSt) (s : State) : (modWdt f s).mode = s.mode := rfl
@[simp] theorem modWdt_power (f : WdtSt → WdtSt) (s : State) : (modWdt f s).power = s.power := rfl
@[simp] theorem modWdt_host (f : WdtSt → WdtSt) (s : State) : (modWdt f s).host = s.host := rfl
@[simp] theorem modWdt_hostMem (f : WdtSt → WdtSt) (s : State) : (modWdt f s).hostMem = s.hostMem := rfl
@[simp] theorem modWdt_recorder (f : WdtSt → WdtSt) (s : State) : (modWdt f s).recorder = s.recorder := rfl
@[simp] theorem modWdt_ret (f : WdtSt → WdtSt) (s : State) : (modWdt f s).ret = s.ret := rfl
@[simp] theorem modWdt_proj (f : WdtSt → WdtSt) (s : State) : (modWdt f s).proj = s.proj := rfl
@[simp] theorem modWdt_prof (f : WdtSt → WdtSt) (s : State) : (modWdt f s).prof = s.prof := rfl
@[simp] theorem modWdt_tasks (f : WdtSt → WdtSt) (s : State) : (modWdt f s).tasks = s.tasks := rfl
@[simp] theorem modWdt_stalls (f : WdtSt → WdtSt) (s : State) : (modWdt f s).stalls = s.stalls := rfl
@[simp] theorem modWdt_barns (f : WdtSt → WdtSt) (s : State) : (modWdt f s).barns = s.barns := rfl
@[simp] theorem modWdt_yard (f : WdtSt → WdtSt) (s : State) : (modWdt f s).yard = s.yard := rfl
@[simp] theorem modWdt_commit (f : WdtSt → WdtSt) (s : State) : (modWdt f s).commit = s.commit := rfl
@[simp] theorem modWdt_chan (f : WdtSt → WdtSt) (s : State) : (modWdt f s).chan = s.chan := rfl
@[simp] theorem modWdt_field (f : WdtSt → WdtSt) (s : State) : (modWdt f s).field = s.field := rfl
@[simp] theorem modWdt_loops (f : WdtSt → WdtSt) (s : State) : (modWdt f s).loops = s.loops := rfl
@[simp] theorem modWdt_ihloz (f : WdtSt → WdtSt) (s : State) : (modWdt f s).ihloz = s.ihloz := rfl
@[simp] theorem modWdt_star (f : WdtSt → WdtSt) (s : State) : (modWdt f s).star = s.star := rfl
@[simp] theorem modWdt_can (f : WdtSt → WdtSt) (s : State) : (modWdt f s).can = s.can := rfl
@[simp] theorem modWdt_eth (f : WdtSt → WdtSt) (s : State) : (modWdt f s).eth = s.eth := rfl
@[simp] theorem modWdt_ptp (f : WdtSt → WdtSt) (s : State) : (modWdt f s).ptp = s.ptp := rfl
@[simp] theorem modWdt_pair (f : WdtSt → WdtSt) (s : State) : (modWdt f s).pair = s.pair := rfl
@[simp] theorem modWdt_fw (f : WdtSt → WdtSt) (s : State) : (modWdt f s).fw = s.fw := rfl
@[simp] theorem modWdt_free (f : WdtSt → WdtSt) (s : State) : (modWdt f s).free = s.free := rfl
@[simp] theorem modWdt_pending (f : WdtSt → WdtSt) (s : State) : (modWdt f s).pending = s.pending := rfl

/-! ### modRet -/

@[simp] theorem modRet_factory (f : RetSt → RetSt) (s : State) : (modRet f s).factory = s.factory := rfl
@[simp] theorem modRet_time (f : RetSt → RetSt) (s : State) : (modRet f s).time = s.time := rfl
@[simp] theorem modRet_mode (f : RetSt → RetSt) (s : State) : (modRet f s).mode = s.mode := rfl
@[simp] theorem modRet_power (f : RetSt → RetSt) (s : State) : (modRet f s).power = s.power := rfl
@[simp] theorem modRet_host (f : RetSt → RetSt) (s : State) : (modRet f s).host = s.host := rfl
@[simp] theorem modRet_hostMem (f : RetSt → RetSt) (s : State) : (modRet f s).hostMem = s.hostMem := rfl
@[simp] theorem modRet_recorder (f : RetSt → RetSt) (s : State) : (modRet f s).recorder = s.recorder := rfl
@[simp] theorem modRet_proj (f : RetSt → RetSt) (s : State) : (modRet f s).proj = s.proj := rfl
@[simp] theorem modRet_prof (f : RetSt → RetSt) (s : State) : (modRet f s).prof = s.prof := rfl
@[simp] theorem modRet_tasks (f : RetSt → RetSt) (s : State) : (modRet f s).tasks = s.tasks := rfl
@[simp] theorem modRet_stalls (f : RetSt → RetSt) (s : State) : (modRet f s).stalls = s.stalls := rfl
@[simp] theorem modRet_barns (f : RetSt → RetSt) (s : State) : (modRet f s).barns = s.barns := rfl
@[simp] theorem modRet_yard (f : RetSt → RetSt) (s : State) : (modRet f s).yard = s.yard := rfl
@[simp] theorem modRet_commit (f : RetSt → RetSt) (s : State) : (modRet f s).commit = s.commit := rfl
@[simp] theorem modRet_chan (f : RetSt → RetSt) (s : State) : (modRet f s).chan = s.chan := rfl
@[simp] theorem modRet_field (f : RetSt → RetSt) (s : State) : (modRet f s).field = s.field := rfl
@[simp] theorem modRet_loops (f : RetSt → RetSt) (s : State) : (modRet f s).loops = s.loops := rfl
@[simp] theorem modRet_ihloz (f : RetSt → RetSt) (s : State) : (modRet f s).ihloz = s.ihloz := rfl
@[simp] theorem modRet_star (f : RetSt → RetSt) (s : State) : (modRet f s).star = s.star := rfl
@[simp] theorem modRet_can (f : RetSt → RetSt) (s : State) : (modRet f s).can = s.can := rfl
@[simp] theorem modRet_eth (f : RetSt → RetSt) (s : State) : (modRet f s).eth = s.eth := rfl
@[simp] theorem modRet_ptp (f : RetSt → RetSt) (s : State) : (modRet f s).ptp = s.ptp := rfl
@[simp] theorem modRet_pair (f : RetSt → RetSt) (s : State) : (modRet f s).pair = s.pair := rfl
@[simp] theorem modRet_wdt (f : RetSt → RetSt) (s : State) : (modRet f s).wdt = s.wdt := rfl
@[simp] theorem modRet_fw (f : RetSt → RetSt) (s : State) : (modRet f s).fw = s.fw := rfl
@[simp] theorem modRet_free (f : RetSt → RetSt) (s : State) : (modRet f s).free = s.free := rfl
@[simp] theorem modRet_pending (f : RetSt → RetSt) (s : State) : (modRet f s).pending = s.pending := rfl

/-! ### setVote -/

@[simp] theorem setVote_factory (v : Option Vote) (s : State) : (setVote v s).factory = s.factory := rfl
@[simp] theorem setVote_time (v : Option Vote) (s : State) : (setVote v s).time = s.time := rfl
@[simp] theorem setVote_mode (v : Option Vote) (s : State) : (setVote v s).mode = s.mode := rfl
@[simp] theorem setVote_power (v : Option Vote) (s : State) : (setVote v s).power = s.power := rfl
@[simp] theorem setVote_host (v : Option Vote) (s : State) : (setVote v s).host = s.host := rfl
@[simp] theorem setVote_hostMem (v : Option Vote) (s : State) : (setVote v s).hostMem = s.hostMem := rfl
@[simp] theorem setVote_recorder (v : Option Vote) (s : State) : (setVote v s).recorder = s.recorder := rfl
@[simp] theorem setVote_ret (v : Option Vote) (s : State) : (setVote v s).ret = s.ret := rfl
@[simp] theorem setVote_proj (v : Option Vote) (s : State) : (setVote v s).proj = s.proj := rfl
@[simp] theorem setVote_tasks (v : Option Vote) (s : State) : (setVote v s).tasks = s.tasks := rfl
@[simp] theorem setVote_stalls (v : Option Vote) (s : State) : (setVote v s).stalls = s.stalls := rfl
@[simp] theorem setVote_barns (v : Option Vote) (s : State) : (setVote v s).barns = s.barns := rfl
@[simp] theorem setVote_yard (v : Option Vote) (s : State) : (setVote v s).yard = s.yard := rfl
@[simp] theorem setVote_commit (v : Option Vote) (s : State) : (setVote v s).commit = s.commit := rfl
@[simp] theorem setVote_chan (v : Option Vote) (s : State) : (setVote v s).chan = s.chan := rfl
@[simp] theorem setVote_field (v : Option Vote) (s : State) : (setVote v s).field = s.field := rfl
@[simp] theorem setVote_loops (v : Option Vote) (s : State) : (setVote v s).loops = s.loops := rfl
@[simp] theorem setVote_ihloz (v : Option Vote) (s : State) : (setVote v s).ihloz = s.ihloz := rfl
@[simp] theorem setVote_star (v : Option Vote) (s : State) : (setVote v s).star = s.star := rfl
@[simp] theorem setVote_can (v : Option Vote) (s : State) : (setVote v s).can = s.can := rfl
@[simp] theorem setVote_eth (v : Option Vote) (s : State) : (setVote v s).eth = s.eth := rfl
@[simp] theorem setVote_ptp (v : Option Vote) (s : State) : (setVote v s).ptp = s.ptp := rfl
@[simp] theorem setVote_pair (v : Option Vote) (s : State) : (setVote v s).pair = s.pair := rfl
@[simp] theorem setVote_wdt (v : Option Vote) (s : State) : (setVote v s).wdt = s.wdt := rfl
@[simp] theorem setVote_fw (v : Option Vote) (s : State) : (setVote v s).fw = s.fw := rfl
@[simp] theorem setVote_free (v : Option Vote) (s : State) : (setVote v s).free = s.free := rfl
@[simp] theorem setVote_pending (v : Option Vote) (s : State) : (setVote v s).pending = s.pending := rfl

/-! ### setXfer -/

@[simp] theorem setXfer_factory (k : Fin 8) (x : Transfer) (s : State) : (setXfer k x s).factory = s.factory := rfl
@[simp] theorem setXfer_time (k : Fin 8) (x : Transfer) (s : State) : (setXfer k x s).time = s.time := rfl
@[simp] theorem setXfer_mode (k : Fin 8) (x : Transfer) (s : State) : (setXfer k x s).mode = s.mode := rfl
@[simp] theorem setXfer_power (k : Fin 8) (x : Transfer) (s : State) : (setXfer k x s).power = s.power := rfl
@[simp] theorem setXfer_host (k : Fin 8) (x : Transfer) (s : State) : (setXfer k x s).host = s.host := rfl
@[simp] theorem setXfer_hostMem (k : Fin 8) (x : Transfer) (s : State) : (setXfer k x s).hostMem = s.hostMem := rfl
@[simp] theorem setXfer_recorder (k : Fin 8) (x : Transfer) (s : State) : (setXfer k x s).recorder = s.recorder := rfl
@[simp] theorem setXfer_ret (k : Fin 8) (x : Transfer) (s : State) : (setXfer k x s).ret = s.ret := rfl
@[simp] theorem setXfer_proj (k : Fin 8) (x : Transfer) (s : State) : (setXfer k x s).proj = s.proj := rfl
@[simp] theorem setXfer_prof (k : Fin 8) (x : Transfer) (s : State) : (setXfer k x s).prof = s.prof := rfl
@[simp] theorem setXfer_tasks (k : Fin 8) (x : Transfer) (s : State) : (setXfer k x s).tasks = s.tasks := rfl
@[simp] theorem setXfer_stalls (k : Fin 8) (x : Transfer) (s : State) : (setXfer k x s).stalls = s.stalls := rfl
@[simp] theorem setXfer_barns (k : Fin 8) (x : Transfer) (s : State) : (setXfer k x s).barns = s.barns := rfl
@[simp] theorem setXfer_yard (k : Fin 8) (x : Transfer) (s : State) : (setXfer k x s).yard = s.yard := rfl
@[simp] theorem setXfer_commit (k : Fin 8) (x : Transfer) (s : State) : (setXfer k x s).commit = s.commit := rfl
@[simp] theorem setXfer_chan (k : Fin 8) (x : Transfer) (s : State) : (setXfer k x s).chan = s.chan := rfl
@[simp] theorem setXfer_field (k : Fin 8) (x : Transfer) (s : State) : (setXfer k x s).field = s.field := rfl
@[simp] theorem setXfer_loops (k : Fin 8) (x : Transfer) (s : State) : (setXfer k x s).loops = s.loops := rfl
@[simp] theorem setXfer_ihloz (k : Fin 8) (x : Transfer) (s : State) : (setXfer k x s).ihloz = s.ihloz := rfl
@[simp] theorem setXfer_star (k : Fin 8) (x : Transfer) (s : State) : (setXfer k x s).star = s.star := rfl
@[simp] theorem setXfer_can (k : Fin 8) (x : Transfer) (s : State) : (setXfer k x s).can = s.can := rfl
@[simp] theorem setXfer_eth (k : Fin 8) (x : Transfer) (s : State) : (setXfer k x s).eth = s.eth := rfl
@[simp] theorem setXfer_ptp (k : Fin 8) (x : Transfer) (s : State) : (setXfer k x s).ptp = s.ptp := rfl
@[simp] theorem setXfer_pair (k : Fin 8) (x : Transfer) (s : State) : (setXfer k x s).pair = s.pair := rfl
@[simp] theorem setXfer_wdt (k : Fin 8) (x : Transfer) (s : State) : (setXfer k x s).wdt = s.wdt := rfl
@[simp] theorem setXfer_free (k : Fin 8) (x : Transfer) (s : State) : (setXfer k x s).free = s.free := rfl
@[simp] theorem setXfer_pending (k : Fin 8) (x : Transfer) (s : State) : (setXfer k x s).pending = s.pending := rfl

/-! ### modSlot -/

@[simp] theorem modSlot_factory (o : Bool) (f : FwSlot → FwSlot) (s : State) : (modSlot o f s).factory = s.factory := by cases o <;> rfl
@[simp] theorem modSlot_time (o : Bool) (f : FwSlot → FwSlot) (s : State) : (modSlot o f s).time = s.time := by cases o <;> rfl
@[simp] theorem modSlot_mode (o : Bool) (f : FwSlot → FwSlot) (s : State) : (modSlot o f s).mode = s.mode := by cases o <;> rfl
@[simp] theorem modSlot_power (o : Bool) (f : FwSlot → FwSlot) (s : State) : (modSlot o f s).power = s.power := by cases o <;> rfl
@[simp] theorem modSlot_host (o : Bool) (f : FwSlot → FwSlot) (s : State) : (modSlot o f s).host = s.host := by cases o <;> rfl
@[simp] theorem modSlot_hostMem (o : Bool) (f : FwSlot → FwSlot) (s : State) : (modSlot o f s).hostMem = s.hostMem := by cases o <;> rfl
@[simp] theorem modSlot_recorder (o : Bool) (f : FwSlot → FwSlot) (s : State) : (modSlot o f s).recorder = s.recorder := by cases o <;> rfl
@[simp] theorem modSlot_ret (o : Bool) (f : FwSlot → FwSlot) (s : State) : (modSlot o f s).ret = s.ret := by cases o <;> rfl
@[simp] theorem modSlot_proj (o : Bool) (f : FwSlot → FwSlot) (s : State) : (modSlot o f s).proj = s.proj := by cases o <;> rfl
@[simp] theorem modSlot_prof (o : Bool) (f : FwSlot → FwSlot) (s : State) : (modSlot o f s).prof = s.prof := by cases o <;> rfl
@[simp] theorem modSlot_tasks (o : Bool) (f : FwSlot → FwSlot) (s : State) : (modSlot o f s).tasks = s.tasks := by cases o <;> rfl
@[simp] theorem modSlot_stalls (o : Bool) (f : FwSlot → FwSlot) (s : State) : (modSlot o f s).stalls = s.stalls := by cases o <;> rfl
@[simp] theorem modSlot_barns (o : Bool) (f : FwSlot → FwSlot) (s : State) : (modSlot o f s).barns = s.barns := by cases o <;> rfl
@[simp] theorem modSlot_yard (o : Bool) (f : FwSlot → FwSlot) (s : State) : (modSlot o f s).yard = s.yard := by cases o <;> rfl
@[simp] theorem modSlot_commit (o : Bool) (f : FwSlot → FwSlot) (s : State) : (modSlot o f s).commit = s.commit := by cases o <;> rfl
@[simp] theorem modSlot_chan (o : Bool) (f : FwSlot → FwSlot) (s : State) : (modSlot o f s).chan = s.chan := by cases o <;> rfl
@[simp] theorem modSlot_field (o : Bool) (f : FwSlot → FwSlot) (s : State) : (modSlot o f s).field = s.field := by cases o <;> rfl
@[simp] theorem modSlot_loops (o : Bool) (f : FwSlot → FwSlot) (s : State) : (modSlot o f s).loops = s.loops := by cases o <;> rfl
@[simp] theorem modSlot_ihloz (o : Bool) (f : FwSlot → FwSlot) (s : State) : (modSlot o f s).ihloz = s.ihloz := by cases o <;> rfl
@[simp] theorem modSlot_star (o : Bool) (f : FwSlot → FwSlot) (s : State) : (modSlot o f s).star = s.star := by cases o <;> rfl
@[simp] theorem modSlot_can (o : Bool) (f : FwSlot → FwSlot) (s : State) : (modSlot o f s).can = s.can := by cases o <;> rfl
@[simp] theorem modSlot_eth (o : Bool) (f : FwSlot → FwSlot) (s : State) : (modSlot o f s).eth = s.eth := by cases o <;> rfl
@[simp] theorem modSlot_ptp (o : Bool) (f : FwSlot → FwSlot) (s : State) : (modSlot o f s).ptp = s.ptp := by cases o <;> rfl
@[simp] theorem modSlot_pair (o : Bool) (f : FwSlot → FwSlot) (s : State) : (modSlot o f s).pair = s.pair := by cases o <;> rfl
@[simp] theorem modSlot_wdt (o : Bool) (f : FwSlot → FwSlot) (s : State) : (modSlot o f s).wdt = s.wdt := by cases o <;> rfl
@[simp] theorem modSlot_free (o : Bool) (f : FwSlot → FwSlot) (s : State) : (modSlot o f s).free = s.free := by cases o <;> rfl
@[simp] theorem modSlot_pending (o : Bool) (f : FwSlot → FwSlot) (s : State) : (modSlot o f s).pending = s.pending := by cases o <;> rfl

/-! ### Entries of vectors -/

@[simp] theorem task_modTask_self (t : BitVec 7) (f : TaskSt → TaskSt) (s : State) : task (modTask t f s) t = f (task s t) := by
  simp [task, modTask]

theorem task_modTask_ne {t r : BitVec 7} (f : TaskSt → TaskSt) (s : State) (h : r ≠ t) :
    task (modTask t f s) r = task s r := by
  have : ¬ (t.toNat = r.toNat) := fun e => h (BitVec.eq_of_toNat_eq e.symm)
  simp [task, modTask, this]

@[simp] theorem task_modTasks (t : BitVec 7) (f : TaskSt → TaskSt) (s : State) : task (modTasks f s) t = f (task s t) := by
  simp [task, modTasks]

/-- Stalls have different numbers. -/
theorem stallIx_inj {u v : StallId} (h : (stallIx u).val = (stallIx v).val) : u = v := by
  obtain ⟨b, k⟩ := u
  obtain ⟨c, j⟩ := v
  have e : 5 * b.val + k.val = 5 * c.val + j.val := h
  have := k.isLt
  have := j.isLt
  have hb : b = c := Fin.ext (by omega)
  have hk : k = j := Fin.ext (by omega)
  rw [hb, hk]

@[simp] theorem stall_modStall_self (u : StallId) (f : Stall → Stall) (s : State) : stall (modStall u f s) u = f (stall s u) := by
  simp [stall, modStall]

theorem stall_modStall_ne {u v : StallId} (f : Stall → Stall) (s : State) (h : v ≠ u) :
    stall (modStall u f s) v = stall s v := by
  have : ¬ ((stallIx u).val = (stallIx v).val) := fun e => h (stallIx_inj e).symm
  simp [stall, modStall, this]

@[simp] theorem barn_modBarn_self (b : Fin 4) (f : Barn → Barn) (s : State) : barn (modBarn b f s) b = f (barn s b) := by
  simp [barn, modBarn]

theorem barn_modBarn_ne {b c : Fin 4} (f : Barn → Barn) (s : State) (h : c ≠ b) : barn (modBarn b f s) c = barn s c := by
  have : ¬ (b.val = c.val) := fun e => h (Fin.ext e.symm)
  simp [barn, modBarn, this]

@[simp] theorem ring_modRing_self (k : Fin 8) (f : Ring → Ring) (s : State) : ring (modRing k f s) k = f (ring s k) := by
  simp [ring, modRing]

theorem ring_modRing_ne {k j : Fin 8} (f : Ring → Ring) (s : State) (h : j ≠ k) :
    ring (modRing k f s) j = ring s j := by
  have : ¬ (k.val = j.val) := fun e => h (Fin.ext e.symm)
  simp [ring, modRing, this]

/-- Setting an entry of a vector that has it gives that entry. -/
theorem vmod_self {α : Type} {n : Nat} (v : Vector α n) (i : Nat) (f : α → α) (h : i < n) : (vmod v i f)[i] = f v[i] := by
  simp [vmod, h]

/-- Setting an entry of a vector leaves the others. -/
theorem vmod_ne {α : Type} {n : Nat} (v : Vector α n) (i j : Nat) (f : α → α) (h : j < n) (hij : i ≠ j) :
    (vmod v i f)[j] = v[j] := by
  unfold vmod
  split
  · simp [hij]
  · rfl

end Sys2Proof.Machine
end

