-- ==== Sys2Proof/Laws/Mem.lean ====
section
/-! SUPPORT. Memory: a read after a write, what a write leaves alone, and that every operation keeps the canonical form. -/

namespace Sys2Proof.Machine

/-! ### A read after a write -/

/-- A byte just listed is the one read there. -/
@[simp] theorem Mem.find_put_self (m : Mem) (a : Nat) (b : Byte) : Mem.find (Mem.put m a b) a = some b := by
  induction m with
  | nil => simp [Mem.put, Mem.find]
  | cons x m ih =>
    simp only [Mem.put]
    split
    · simp [Mem.find]
    · split
      · simp [Mem.find]
      · next h => simp [Mem.find, ih, Ne.symm h]

/-- Listing a byte leaves every other address. -/
theorem Mem.find_put_ne (m : Mem) {a c : Nat} (b : Byte) (h : c ≠ a) : Mem.find (Mem.put m a b) c = Mem.find m c := by
  have h' : ¬ a = c := fun e => h e.symm
  induction m with
  | nil => simp [Mem.put, Mem.find, h']
  | cons x m ih =>
    simp only [Mem.put]
    split
    · simp [Mem.find, h']
    · split
      · next e => subst e; simp [Mem.find, h']
      · simp [Mem.find, ih]

/-- Listing bytes leaves every address below and above them. -/
theorem Mem.find_putAll_out (m : Mem) (a : Nat) (bs : Bytes) {c : Nat} (h : c < a ∨ a + bs.length ≤ c) :
    Mem.find (Mem.putAll m a bs) c = Mem.find m c := by
  induction bs generalizing m a with
  | nil => rfl
  | cons b bs ih =>
    simp only [List.length_cons] at h
    rw [Mem.putAll, ih _ _ (by omega), Mem.find_put_ne _ _ (by omega)]

/-- Listed bytes are read back. -/
theorem Mem.find_putAll_in (m : Mem) (a : Nat) (bs : Bytes) (i : Nat) (h : i < bs.length) :
    Mem.find (Mem.putAll m a bs) (a + i) = bs[i]? := by
  induction bs generalizing m a i with
  | nil => simp at h
  | cons b bs ih =>
    rw [Mem.putAll]
    cases i with
    | zero => rw [Mem.find_putAll_out _ _ _ (by omega)]; simp
    | succ i =>
      have := ih (Mem.put m a b) (a + 1) i (by simpa using h)
      rw [show a + (i + 1) = a + 1 + i by omega, this]
      simp

/-! ### The canonical form -/

theorem Mem.risesFrom_mono {lo hi : Nat} {m : Mem} (h : lo ≤ hi) (hm : Mem.risesFrom hi m = true) :
    Mem.risesFrom lo m = true := by
  cases m with
  | nil => rfl
  | cons x m =>
    simp only [Mem.risesFrom, Bool.and_eq_true, decide_eq_true_eq] at hm ⊢
    exact ⟨by omega, hm.2⟩

theorem Mem.risesFrom_put {lo : Nat} {m : Mem} {a : Nat} (b : Byte) (h : lo ≤ a) (hm : Mem.risesFrom lo m = true) :
    Mem.risesFrom lo (Mem.put m a b) = true := by
  induction m generalizing lo with
  | nil => simp [Mem.put, Mem.risesFrom, h]
  | cons x m ih =>
    simp only [Mem.risesFrom, Bool.and_eq_true, decide_eq_true_eq] at hm
    simp only [Mem.put]
    split
    · next h1 => simp only [Mem.risesFrom, Bool.and_eq_true, decide_eq_true_eq]; exact ⟨h, by omega, hm.2⟩
    · split
      · next e =>
          simp only [Mem.risesFrom, Bool.and_eq_true, decide_eq_true_eq]
          exact ⟨h, e ▸ hm.2⟩
      · simp only [Mem.risesFrom, Bool.and_eq_true, decide_eq_true_eq]
        exact ⟨hm.1, ih (by omega) hm.2⟩

theorem Mem.risesFrom_del {lo : Nat} {m : Mem} (a : Nat) (hm : Mem.risesFrom lo m = true) :
    Mem.risesFrom lo (Mem.del m a) = true := by
  induction m generalizing lo with
  | nil => rfl
  | cons x m ih =>
    have hm' := hm
    simp only [Mem.risesFrom, Bool.and_eq_true, decide_eq_true_eq] at hm
    simp only [Mem.del]
    split
    · exact hm'
    · split
      · exact Mem.risesFrom_mono (by omega) hm.2
      · simp only [Mem.risesFrom, Bool.and_eq_true, decide_eq_true_eq]
        exact ⟨hm.1, ih hm.2⟩

/-- Listing a byte keeps the canonical form. -/
theorem Mem.wf_put {m : Mem} (a : Nat) (b : Byte) (h : Mem.wf m = true) : Mem.wf (Mem.put m a b) = true :=
  Mem.risesFrom_put b (Nat.zero_le a) h

/-- Unlisting a byte keeps the canonical form. -/
theorem Mem.wf_del {m : Mem} (a : Nat) (h : Mem.wf m = true) : Mem.wf (Mem.del m a) = true := Mem.risesFrom_del a h

/-- Listing bytes keeps the canonical form. -/
theorem Mem.wf_putAll {m : Mem} (a : Nat) (bs : Bytes) (h : Mem.wf m = true) : Mem.wf (Mem.putAll m a bs) = true := by
  induction bs generalizing m a with
  | nil => exact h
  | cons b bs ih => exact ih (a + 1) (Mem.wf_put a b h)

theorem Mem.all_put {m : Mem} (a : Nat) {b : Byte} (hb : b ≠ 0) (h : m.all (fun c => c.2 != 0) = true) :
    (Mem.put m a b).all (fun c => c.2 != 0) = true := by
  induction m with
  | nil => simpa [Mem.put] using hb
  | cons x m ih =>
    simp only [List.all_cons, Bool.and_eq_true] at h
    simp only [Mem.put]
    split
    · simp only [List.all_cons, Bool.and_eq_true]; exact ⟨by simpa using hb, h⟩
    · split
      · simp only [List.all_cons, Bool.and_eq_true]; exact ⟨by simpa using hb, h.2⟩
      · simp only [List.all_cons, Bool.and_eq_true]; exact ⟨h.1, ih h.2⟩

theorem Mem.all_del {m : Mem} (a : Nat) (h : m.all (fun c => c.2 != 0) = true) :
    (Mem.del m a).all (fun c => c.2 != 0) = true := by
  induction m with
  | nil => rfl
  | cons x m ih =>
    have h' := h
    simp only [List.all_cons, Bool.and_eq_true] at h
    simp only [Mem.del]
    split
    · exact h'
    · split
      · exact h.2
      · simp only [List.all_cons, Bool.and_eq_true]; exact ⟨h.1, ih h.2⟩

/-- Writing a byte of a memory whose unlisted bytes read zero keeps its canonical form. -/
theorem Mem.wf0_set {m : Mem} (a : Nat) (b : Byte) (h : Mem.wf0 m = true) : Mem.wf0 (Mem.set m a b) = true := by
  simp only [Mem.wf0, Bool.and_eq_true] at h ⊢
  unfold Mem.set
  split
  · exact ⟨Mem.wf_del a h.1, Mem.all_del a h.2⟩
  · next hb => exact ⟨Mem.wf_put a b h.1, Mem.all_put a hb h.2⟩

/-- Writing bytes of a memory whose unlisted bytes read zero keeps its canonical form. -/
theorem Mem.wf0_setAll {m : Mem} (a : Nat) (bs : Bytes) (h : Mem.wf0 m = true) : Mem.wf0 (Mem.setAll m a bs) = true := by
  induction bs generalizing m a with
  | nil => exact h
  | cons b bs ih => exact ih (a + 1) (Mem.wf0_set a b h)

/-- Writing listed bytes one by one keeps the canonical form. -/
theorem Mem.wf0_foldl {m : Mem} (l : Mem) (f : Host.Cell → Nat) (h : Mem.wf0 m = true) :
    Mem.wf0 (l.foldl (fun h b => Mem.set h (f b) b.2) m) = true := by
  induction l generalizing m with
  | nil => exact h
  | cons b l ih => exact ih (Mem.wf0_set _ _ h)

theorem Mem.find_none_of_rises {m : Mem} {lo a : Nat} (h : Mem.risesFrom lo m = true) (ha : a < lo) :
    Mem.find m a = none := by
  induction m generalizing lo with
  | nil => rfl
  | cons x m ih =>
    simp only [Mem.risesFrom, Bool.and_eq_true, decide_eq_true_eq] at h
    have : ¬ x.1 = a := by omega
    simp [Mem.find, this, ih h.2 (by omega)]

theorem Mem.find_del_self {m : Mem} {lo : Nat} (a : Nat) (h : Mem.risesFrom lo m = true) :
    Mem.find (Mem.del m a) a = none := by
  induction m generalizing lo with
  | nil => rfl
  | cons x m ih =>
    have h' := h
    simp only [Mem.risesFrom, Bool.and_eq_true, decide_eq_true_eq] at h
    simp only [Mem.del]
    split
    · next hx =>
        refine Mem.find_none_of_rises (lo := x.1) ?_ hx
        simp only [Mem.risesFrom, Bool.and_eq_true, decide_eq_true_eq]
        exact ⟨le_refl _, h.2⟩
    · split
      · next e => subst e; exact Mem.find_none_of_rises h.2 (by omega)
      · next hne => simp [Mem.find, Ne.symm hne, ih h.2]

theorem Mem.find_del_ne {m : Mem} {a c : Nat} (h : c ≠ a) : Mem.find (Mem.del m a) c = Mem.find m c := by
  have h' : ¬ a = c := fun e => h e.symm
  induction m with
  | nil => rfl
  | cons x m ih =>
    simp only [Mem.del]
    split
    · rfl
    · split
      · next e => subst e; simp [Mem.find, h']
      · simp [Mem.find, ih]

/-- A byte just written is the one read there, in a memory that has its canonical form. -/
theorem Mem.get_set_self {m : Mem} (a : Nat) (b : Byte) (h : Mem.wf m = true) : Mem.get (Mem.set m a b) a = b := by
  unfold Mem.get Mem.set
  split
  · next hb => rw [Mem.find_del_self a h, hb]; rfl
  · simp

/-- Writing a byte leaves every other address. -/
theorem Mem.get_set_ne (m : Mem) {a c : Nat} (b : Byte) (h : c ≠ a) : Mem.get (Mem.set m a b) c = Mem.get m c := by
  unfold Mem.get Mem.set
  split
  · rw [Mem.find_del_ne h]
  · rw [Mem.find_put_ne _ _ h]

end Sys2Proof.Machine
end

