-- ==== Sys2Proof/Laws/Ops.lean ====
section
/-! SUPPORT. What the shared operations of host commands do, said once. -/

namespace Sys2Proof.Machine

/-- A host command whose ring may not start it changes nothing. -/
theorem hostCommand_waits {d : Desc} {op : Nat} {serial : Bool} {checks : State → List (Bool × Byte)}
    {body : State → State} {s : State} (h : mayStart d.ring s = false) : hostCommand d op serial checks body s = s := by
  simp [hostCommand, h]

/-- A serialised command that another one holds back only waits (R365, R366). -/
theorem hostCommand_held {d : Desc} {op : Nat} {serial : Bool} {checks : State → List (Bool × Byte)}
    {body : State → State} {s : State} (h : mayStart d.ring s = true) (hh : serialHeld serial s = true) :
    hostCommand d op serial checks body s = modRing d.ring (fun r => { r with waiting := true }) s := by
  simp [hostCommand, h, hh]

/-- A malformed host command that starts is unpredictable. -/
theorem hostCommand_reserved {d : Desc} {op : Nat} {serial : Bool} {checks : State → List (Bool × Byte)}
    {body : State → State} {s : State} (h : starts d op serial s = true) (hd : malformed d = true) :
    hostCommand d op serial checks body s = unpredicted d (checked d checks body) (begun d op s) := by
  unfold starts at h
  simp only [Bool.and_eq_true, Bool.not_eq_true'] at h
  obtain ⟨⟨h1, h2⟩, h3⟩ := h
  have h4 : ringRight (startNext d.ring op s) d.ring op = true := by simpa [startNext, ringRight, modRing] using h3
  unfold hostCommand
  rw [if_neg (by simp [h1]), if_neg (by simp [h2])]
  dsimp only
  rw [if_neg (by simp [h4]), if_pos hd]
  rfl

/-- A host command that starts is checked in order, and acts on the state that it has begun. -/
theorem hostCommand_starts {d : Desc} {op : Nat} {serial : Bool} {checks : State → List (Bool × Byte)}
    {body : State → State} {s : State} (h : starts d op serial s = true) (hd : malformed d = false) :
    hostCommand d op serial checks body s =
      match (checks (begun d op s)).find? (fun c => !c.1) with
      | some c => complete d.ring d.tag c.2 0 (begun d op s)
      | none => body (begun d op s) := by
  unfold starts at h
  simp only [Bool.and_eq_true, Bool.not_eq_true'] at h
  obtain ⟨⟨h1, h2⟩, h3⟩ := h
  have h4 : ringRight (startNext d.ring op s) d.ring op = true := by simpa [startNext, ringRight, modRing] using h3
  unfold hostCommand
  rw [if_neg (by simp [h1]), if_neg (by simp [h2])]
  dsimp only
  rw [if_neg (by simp [h4]), if_neg (by simp [hd])]
  rfl

/-- A host command that starts and passes its checks acts. -/
theorem hostCommand_acts {d : Desc} {op : Nat} {serial : Bool} {checks : State → List (Bool × Byte)}
    {body : State → State} {s : State} (h : starts d op serial s = true) (hd : malformed d = false)
    (hc : ∀ c ∈ checks (begun d op s), c.1 = true) :
    hostCommand d op serial checks body s = body (begun d op s) := by
  rw [hostCommand_starts h hd]
  have : (checks (begun d op s)).find? (fun c => !c.1) = none := by
    rw [List.find?_eq_none]
    intro c hm
    simp [hc c hm]
  rw [this]

/-- A host command with clean reserved fields that starts and passes its checks acts. -/
theorem hostCommand_clean {d : Desc} {op : Nat} {serial : Bool} {checks : State → List (Bool × Byte)}
    {body : State → State} {s : State} (h : startsClean d op serial s = true)
    (hc : ∀ c ∈ checks (begun d op s), c.1 = true) :
    hostCommand d op serial checks body s = body (begun d op s) := by
  simp only [startsClean, Bool.and_eq_true, Bool.not_eq_true'] at h
  exact hostCommand_acts h.1 h.2 hc

/-- A host command whose buffer lies at a multiple of 8 and has its reserved bits zero is the usual command. -/
theorem bufferCommand_clear {d : Desc} {op : Nat} {serial : Bool} {l : List (Nat × Nat)} {other : Bytes → State → Bytes × State}
    {buf : Bytes} {usual : Desc → Bytes → State → State} {s : State} (ha : d.bufAddr.toNat % 8 = 0)
    (h : reservedClear l buf = true) : bufferCommand d op serial l other buf usual s = usual d buf s := by
  simp [bufferCommand, ha, h]

/-- A host command that does not start yet looks at no buffer. -/
theorem bufferCommand_waits {d : Desc} {op : Nat} {serial : Bool} {l : List (Nat × Nat)} {other : Bytes → State → Bytes × State}
    {buf : Bytes} {usual : Desc → Bytes → State → State} {s : State} (h : starts d op serial s = false) :
    bufferCommand d op serial l other buf usual s = usual d buf s := by
  simp [bufferCommand, h]

/-- A channel entry with its reserved bits zero is taken as it is. -/
theorem takeEntry_clear {e : Bytes} {s : State} (h : reservedClear (entryReserved e) e = true) : takeEntry e s = (e, s) := by
  simp [takeEntry, h]

/-- A doorbell line with its reserved bits zero is taken as it is. -/
theorem takeLine_clear {line : Bytes} {s : State} (h : reservedClear lineReserved line = true) :
    takeLine line s = (line, s) := by
  simp [takeLine, h]

/-- Where no ring in use has a wrong SIZE or index, nothing is unpredictable. -/
theorem misusedRings_sound {before s : State} (he : evtBad s.host = false)
    (hr : ∀ k : Fin 8, ringBad k.val (ring before k).cmdProd (ring s k) = false) : misusedRings before s = s := by
  simp only [ring, Fin.getElem_fin] at hr
  simp [misusedRings, he, hr, ring]

end Sys2Proof.Machine
end

