-- ==== Sys2Proof/Laws/Frames.lean ====
section
/-! SUPPORT. What the shared operations of host commands, completions, posted writes and events leave as it was. -/

namespace Sys2Proof.Machine

/-! ### begun and defer -/

@[simp] theorem begun_factory (d : Desc) (op : Nat) (s : State) : (begun d op s).factory = s.factory := rfl
@[simp] theorem begun_time (d : Desc) (op : Nat) (s : State) : (begun d op s).time = s.time := rfl
@[simp] theorem begun_mode (d : Desc) (op : Nat) (s : State) : (begun d op s).mode = s.mode := rfl
@[simp] theorem begun_power (d : Desc) (op : Nat) (s : State) : (begun d op s).power = s.power := rfl
@[simp] theorem begun_hostMem (d : Desc) (op : Nat) (s : State) : (begun d op s).hostMem = s.hostMem := rfl
@[simp] theorem begun_recorder (d : Desc) (op : Nat) (s : State) : (begun d op s).recorder = s.recorder := rfl
@[simp] theorem begun_ret (d : Desc) (op : Nat) (s : State) : (begun d op s).ret = s.ret := rfl
@[simp] theorem begun_proj (d : Desc) (op : Nat) (s : State) : (begun d op s).proj = s.proj := rfl
@[simp] theorem begun_prof (d : Desc) (op : Nat) (s : State) : (begun d op s).prof = s.prof := rfl
@[simp] theorem begun_tasks (d : Desc) (op : Nat) (s : State) : (begun d op s).tasks = s.tasks := rfl
@[simp] theorem begun_stalls (d : Desc) (op : Nat) (s : State) : (begun d op s).stalls = s.stalls := rfl
@[simp] theorem begun_barns (d : Desc) (op : Nat) (s : State) : (begun d op s).barns = s.barns := rfl
@[simp] theorem begun_yard (d : Desc) (op : Nat) (s : State) : (begun d op s).yard = s.yard := rfl
@[simp] theorem begun_commit (d : Desc) (op : Nat) (s : State) : (begun d op s).commit = s.commit := rfl
@[simp] theorem begun_chan (d : Desc) (op : Nat) (s : State) : (begun d op s).chan = s.chan := rfl
@[simp] theorem begun_field (d : Desc) (op : Nat) (s : State) : (begun d op s).field = s.field := rfl
@[simp] theorem begun_loops (d : Desc) (op : Nat) (s : State) : (begun d op s).loops = s.loops := rfl
@[simp] theorem begun_ihloz (d : Desc) (op : Nat) (s : State) : (begun d op s).ihloz = s.ihloz := rfl
@[simp] theorem begun_star (d : Desc) (op : Nat) (s : State) : (begun d op s).star = s.star := rfl
@[simp] theorem begun_can (d : Desc) (op : Nat) (s : State) : (begun d op s).can = s.can := rfl
@[simp] theorem begun_eth (d : Desc) (op : Nat) (s : State) : (begun d op s).eth = s.eth := rfl
@[simp] theorem begun_ptp (d : Desc) (op : Nat) (s : State) : (begun d op s).ptp = s.ptp := rfl
@[simp] theorem begun_pair (d : Desc) (op : Nat) (s : State) : (begun d op s).pair = s.pair := rfl
@[simp] theorem begun_wdt (d : Desc) (op : Nat) (s : State) : (begun d op s).wdt = s.wdt := rfl
@[simp] theorem begun_fw (d : Desc) (op : Nat) (s : State) : (begun d op s).fw = s.fw := rfl
@[simp] theorem begun_free (d : Desc) (op : Nat) (s : State) : (begun d op s).free = s.free := rfl
@[simp] theorem begun_pending (d : Desc) (op : Nat) (s : State) : (begun d op s).pending = s.pending := rfl

@[simp] theorem defer_factory (d : Desc) (op : Nat) (w : Wait) (s : State) : (defer d op w s).factory = s.factory := rfl
@[simp] theorem defer_time (d : Desc) (op : Nat) (w : Wait) (s : State) : (defer d op w s).time = s.time := rfl
@[simp] theorem defer_mode (d : Desc) (op : Nat) (w : Wait) (s : State) : (defer d op w s).mode = s.mode := rfl
@[simp] theorem defer_power (d : Desc) (op : Nat) (w : Wait) (s : State) : (defer d op w s).power = s.power := rfl
@[simp] theorem defer_hostMem (d : Desc) (op : Nat) (w : Wait) (s : State) : (defer d op w s).hostMem = s.hostMem := rfl
@[simp] theorem defer_recorder (d : Desc) (op : Nat) (w : Wait) (s : State) : (defer d op w s).recorder = s.recorder := rfl
@[simp] theorem defer_ret (d : Desc) (op : Nat) (w : Wait) (s : State) : (defer d op w s).ret = s.ret := rfl
@[simp] theorem defer_proj (d : Desc) (op : Nat) (w : Wait) (s : State) : (defer d op w s).proj = s.proj := rfl
@[simp] theorem defer_prof (d : Desc) (op : Nat) (w : Wait) (s : State) : (defer d op w s).prof = s.prof := rfl
@[simp] theorem defer_tasks (d : Desc) (op : Nat) (w : Wait) (s : State) : (defer d op w s).tasks = s.tasks := rfl
@[simp] theorem defer_stalls (d : Desc) (op : Nat) (w : Wait) (s : State) : (defer d op w s).stalls = s.stalls := rfl
@[simp] theorem defer_barns (d : Desc) (op : Nat) (w : Wait) (s : State) : (defer d op w s).barns = s.barns := rfl
@[simp] theorem defer_yard (d : Desc) (op : Nat) (w : Wait) (s : State) : (defer d op w s).yard = s.yard := rfl
@[simp] theorem defer_commit (d : Desc) (op : Nat) (w : Wait) (s : State) : (defer d op w s).commit = s.commit := rfl
@[simp] theorem defer_chan (d : Desc) (op : Nat) (w : Wait) (s : State) : (defer d op w s).chan = s.chan := rfl
@[simp] theorem defer_field (d : Desc) (op : Nat) (w : Wait) (s : State) : (defer d op w s).field = s.field := rfl
@[simp] theorem defer_loops (d : Desc) (op : Nat) (w : Wait) (s : State) : (defer d op w s).loops = s.loops := rfl
@[simp] theorem defer_ihloz (d : Desc) (op : Nat) (w : Wait) (s : State) : (defer d op w s).ihloz = s.ihloz := rfl
@[simp] theorem defer_star (d : Desc) (op : Nat) (w : Wait) (s : State) : (defer d op w s).star = s.star := rfl
@[simp] theorem defer_can (d : Desc) (op : Nat) (w : Wait) (s : State) : (defer d op w s).can = s.can := rfl
@[simp] theorem defer_eth (d : Desc) (op : Nat) (w : Wait) (s : State) : (defer d op w s).eth = s.eth := rfl
@[simp] theorem defer_ptp (d : Desc) (op : Nat) (w : Wait) (s : State) : (defer d op w s).ptp = s.ptp := rfl
@[simp] theorem defer_pair (d : Desc) (op : Nat) (w : Wait) (s : State) : (defer d op w s).pair = s.pair := rfl
@[simp] theorem defer_wdt (d : Desc) (op : Nat) (w : Wait) (s : State) : (defer d op w s).wdt = s.wdt := rfl
@[simp] theorem defer_fw (d : Desc) (op : Nat) (w : Wait) (s : State) : (defer d op w s).fw = s.fw := rfl
@[simp] theorem defer_free (d : Desc) (op : Nat) (w : Wait) (s : State) : (defer d op w s).free = s.free := rfl
@[simp] theorem defer_pending (d : Desc) (op : Nat) (w : Wait) (s : State) : (defer d op w s).pending = s.pending := rfl

/-! ### hostWrite, output, complete, ok, fail and completeWait -/

/-- A posted write changes host memory alone. -/
theorem hostWrite_frame (a : Nat) (b : Bytes) (s : State) :
    hostWrite a b s = { s with hostMem := (hostWrite a b s).hostMem } := by
  unfold hostWrite
  split <;> rfl

@[simp] theorem hostWrite_factory (a : Nat) (b : Bytes) (s : State) : (hostWrite a b s).factory = s.factory := by rw [hostWrite_frame]
@[simp] theorem hostWrite_time (a : Nat) (b : Bytes) (s : State) : (hostWrite a b s).time = s.time := by rw [hostWrite_frame]
@[simp] theorem hostWrite_mode (a : Nat) (b : Bytes) (s : State) : (hostWrite a b s).mode = s.mode := by rw [hostWrite_frame]
@[simp] theorem hostWrite_power (a : Nat) (b : Bytes) (s : State) : (hostWrite a b s).power = s.power := by rw [hostWrite_frame]
@[simp] theorem hostWrite_host (a : Nat) (b : Bytes) (s : State) : (hostWrite a b s).host = s.host := by rw [hostWrite_frame]
@[simp] theorem hostWrite_recorder (a : Nat) (b : Bytes) (s : State) : (hostWrite a b s).recorder = s.recorder := by rw [hostWrite_frame]
@[simp] theorem hostWrite_ret (a : Nat) (b : Bytes) (s : State) : (hostWrite a b s).ret = s.ret := by rw [hostWrite_frame]
@[simp] theorem hostWrite_proj (a : Nat) (b : Bytes) (s : State) : (hostWrite a b s).proj = s.proj := by rw [hostWrite_frame]
@[simp] theorem hostWrite_prof (a : Nat) (b : Bytes) (s : State) : (hostWrite a b s).prof = s.prof := by rw [hostWrite_frame]
@[simp] theorem hostWrite_tasks (a : Nat) (b : Bytes) (s : State) : (hostWrite a b s).tasks = s.tasks := by rw [hostWrite_frame]
@[simp] theorem hostWrite_stalls (a : Nat) (b : Bytes) (s : State) : (hostWrite a b s).stalls = s.stalls := by rw [hostWrite_frame]
@[simp] theorem hostWrite_barns (a : Nat) (b : Bytes) (s : State) : (hostWrite a b s).barns = s.barns := by rw [hostWrite_frame]
@[simp] theorem hostWrite_yard (a : Nat) (b : Bytes) (s : State) : (hostWrite a b s).yard = s.yard := by rw [hostWrite_frame]
@[simp] theorem hostWrite_commit (a : Nat) (b : Bytes) (s : State) : (hostWrite a b s).commit = s.commit := by rw [hostWrite_frame]
@[simp] theorem hostWrite_chan (a : Nat) (b : Bytes) (s : State) : (hostWrite a b s).chan = s.chan := by rw [hostWrite_frame]
@[simp] theorem hostWrite_field (a : Nat) (b : Bytes) (s : State) : (hostWrite a b s).field = s.field := by rw [hostWrite_frame]
@[simp] theorem hostWrite_loops (a : Nat) (b : Bytes) (s : State) : (hostWrite a b s).loops = s.loops := by rw [hostWrite_frame]
@[simp] theorem hostWrite_ihloz (a : Nat) (b : Bytes) (s : State) : (hostWrite a b s).ihloz = s.ihloz := by rw [hostWrite_frame]
@[simp] theorem hostWrite_star (a : Nat) (b : Bytes) (s : State) : (hostWrite a b s).star = s.star := by rw [hostWrite_frame]
@[simp] theorem hostWrite_can (a : Nat) (b : Bytes) (s : State) : (hostWrite a b s).can = s.can := by rw [hostWrite_frame]
@[simp] theorem hostWrite_eth (a : Nat) (b : Bytes) (s : State) : (hostWrite a b s).eth = s.eth := by rw [hostWrite_frame]
@[simp] theorem hostWrite_ptp (a : Nat) (b : Bytes) (s : State) : (hostWrite a b s).ptp = s.ptp := by rw [hostWrite_frame]
@[simp] theorem hostWrite_pair (a : Nat) (b : Bytes) (s : State) : (hostWrite a b s).pair = s.pair := by rw [hostWrite_frame]
@[simp] theorem hostWrite_wdt (a : Nat) (b : Bytes) (s : State) : (hostWrite a b s).wdt = s.wdt := by rw [hostWrite_frame]
@[simp] theorem hostWrite_fw (a : Nat) (b : Bytes) (s : State) : (hostWrite a b s).fw = s.fw := by rw [hostWrite_frame]
@[simp] theorem hostWrite_free (a : Nat) (b : Bytes) (s : State) : (hostWrite a b s).free = s.free := by rw [hostWrite_frame]
@[simp] theorem hostWrite_pending (a : Nat) (b : Bytes) (s : State) : (hostWrite a b s).pending = s.pending := by rw [hostWrite_frame]

/-- Output changes host memory alone. -/
theorem output_frame (d : Desc) (b : Bytes) (s : State) :
    output d b s = { s with hostMem := (output d b s).hostMem } := hostWrite_frame _ _ s

@[simp] theorem output_factory (d : Desc) (b : Bytes) (s : State) : (output d b s).factory = s.factory := by rw [output_frame]
@[simp] theorem output_time (d : Desc) (b : Bytes) (s : State) : (output d b s).time = s.time := by rw [output_frame]
@[simp] theorem output_mode (d : Desc) (b : Bytes) (s : State) : (output d b s).mode = s.mode := by rw [output_frame]
@[simp] theorem output_power (d : Desc) (b : Bytes) (s : State) : (output d b s).power = s.power := by rw [output_frame]
@[simp] theorem output_host (d : Desc) (b : Bytes) (s : State) : (output d b s).host = s.host := by rw [output_frame]
@[simp] theorem output_recorder (d : Desc) (b : Bytes) (s : State) : (output d b s).recorder = s.recorder := by rw [output_frame]
@[simp] theorem output_ret (d : Desc) (b : Bytes) (s : State) : (output d b s).ret = s.ret := by rw [output_frame]
@[simp] theorem output_proj (d : Desc) (b : Bytes) (s : State) : (output d b s).proj = s.proj := by rw [output_frame]
@[simp] theorem output_prof (d : Desc) (b : Bytes) (s : State) : (output d b s).prof = s.prof := by rw [output_frame]
@[simp] theorem output_tasks (d : Desc) (b : Bytes) (s : State) : (output d b s).tasks = s.tasks := by rw [output_frame]
@[simp] theorem output_stalls (d : Desc) (b : Bytes) (s : State) : (output d b s).stalls = s.stalls := by rw [output_frame]
@[simp] theorem output_barns (d : Desc) (b : Bytes) (s : State) : (output d b s).barns = s.barns := by rw [output_frame]
@[simp] theorem output_yard (d : Desc) (b : Bytes) (s : State) : (output d b s).yard = s.yard := by rw [output_frame]
@[simp] theorem output_commit (d : Desc) (b : Bytes) (s : State) : (output d b s).commit = s.commit := by rw [output_frame]
@[simp] theorem output_chan (d : Desc) (b : Bytes) (s : State) : (output d b s).chan = s.chan := by rw [output_frame]
@[simp] theorem output_field (d : Desc) (b : Bytes) (s : State) : (output d b s).field = s.field := by rw [output_frame]
@[simp] theorem output_loops (d : Desc) (b : Bytes) (s : State) : (output d b s).loops = s.loops := by rw [output_frame]
@[simp] theorem output_ihloz (d : Desc) (b : Bytes) (s : State) : (output d b s).ihloz = s.ihloz := by rw [output_frame]
@[simp] theorem output_star (d : Desc) (b : Bytes) (s : State) : (output d b s).star = s.star := by rw [output_frame]
@[simp] theorem output_can (d : Desc) (b : Bytes) (s : State) : (output d b s).can = s.can := by rw [output_frame]
@[simp] theorem output_eth (d : Desc) (b : Bytes) (s : State) : (output d b s).eth = s.eth := by rw [output_frame]
@[simp] theorem output_ptp (d : Desc) (b : Bytes) (s : State) : (output d b s).ptp = s.ptp := by rw [output_frame]
@[simp] theorem output_pair (d : Desc) (b : Bytes) (s : State) : (output d b s).pair = s.pair := by rw [output_frame]
@[simp] theorem output_wdt (d : Desc) (b : Bytes) (s : State) : (output d b s).wdt = s.wdt := by rw [output_frame]
@[simp] theorem output_fw (d : Desc) (b : Bytes) (s : State) : (output d b s).fw = s.fw := by rw [output_frame]
@[simp] theorem output_free (d : Desc) (b : Bytes) (s : State) : (output d b s).free = s.free := by rw [output_frame]
@[simp] theorem output_pending (d : Desc) (b : Bytes) (s : State) : (output d b s).pending = s.pending := by rw [output_frame]

/-- A completion changes the host interface and host memory alone. -/
theorem complete_frame (k : Fin 8) (tag : Half) (status : Byte) (result : Nat) (s : State) :
    complete k tag status result s = { s with host := (complete k tag status result s).host, hostMem := (complete k tag status result s).hostMem } := by
  unfold complete hostWrite
  dsimp only
  split <;> rfl

@[simp] theorem complete_factory (k : Fin 8) (tag : Half) (status : Byte) (result : Nat) (s : State) : (complete k tag status result s).factory = s.factory := by rw [complete_frame]
@[simp] theorem complete_time (k : Fin 8) (tag : Half) (status : Byte) (result : Nat) (s : State) : (complete k tag status result s).time = s.time := by rw [complete_frame]
@[simp] theorem complete_mode (k : Fin 8) (tag : Half) (status : Byte) (result : Nat) (s : State) : (complete k tag status result s).mode = s.mode := by rw [complete_frame]
@[simp] theorem complete_power (k : Fin 8) (tag : Half) (status : Byte) (result : Nat) (s : State) : (complete k tag status result s).power = s.power := by rw [complete_frame]
@[simp] theorem complete_recorder (k : Fin 8) (tag : Half) (status : Byte) (result : Nat) (s : State) : (complete k tag status result s).recorder = s.recorder := by rw [complete_frame]
@[simp] theorem complete_ret (k : Fin 8) (tag : Half) (status : Byte) (result : Nat) (s : State) : (complete k tag status result s).ret = s.ret := by rw [complete_frame]
@[simp] theorem complete_proj (k : Fin 8) (tag : Half) (status : Byte) (result : Nat) (s : State) : (complete k tag status result s).proj = s.proj := by rw [complete_frame]
@[simp] theorem complete_prof (k : Fin 8) (tag : Half) (status : Byte) (result : Nat) (s : State) : (complete k tag status result s).prof = s.prof := by rw [complete_frame]
@[simp] theorem complete_tasks (k : Fin 8) (tag : Half) (status : Byte) (result : Nat) (s : State) : (complete k tag status result s).tasks = s.tasks := by rw [complete_frame]
@[simp] theorem complete_stalls (k : Fin 8) (tag : Half) (status : Byte) (result : Nat) (s : State) : (complete k tag status result s).stalls = s.stalls := by rw [complete_frame]
@[simp] theorem complete_barns (k : Fin 8) (tag : Half) (status : Byte) (result : Nat) (s : State) : (complete k tag status result s).barns = s.barns := by rw [complete_frame]
@[simp] theorem complete_yard (k : Fin 8) (tag : Half) (status : Byte) (result : Nat) (s : State) : (complete k tag status result s).yard = s.yard := by rw [complete_frame]
@[simp] theorem complete_commit (k : Fin 8) (tag : Half) (status : Byte) (result : Nat) (s : State) : (complete k tag status result s).commit = s.commit := by rw [complete_frame]
@[simp] theorem complete_chan (k : Fin 8) (tag : Half) (status : Byte) (result : Nat) (s : State) : (complete k tag status result s).chan = s.chan := by rw [complete_frame]
@[simp] theorem complete_field (k : Fin 8) (tag : Half) (status : Byte) (result : Nat) (s : State) : (complete k tag status result s).field = s.field := by rw [complete_frame]
@[simp] theorem complete_loops (k : Fin 8) (tag : Half) (status : Byte) (result : Nat) (s : State) : (complete k tag status result s).loops = s.loops := by rw [complete_frame]
@[simp] theorem complete_ihloz (k : Fin 8) (tag : Half) (status : Byte) (result : Nat) (s : State) : (complete k tag status result s).ihloz = s.ihloz := by rw [complete_frame]
@[simp] theorem complete_star (k : Fin 8) (tag : Half) (status : Byte) (result : Nat) (s : State) : (complete k tag status result s).star = s.star := by rw [complete_frame]
@[simp] theorem complete_can (k : Fin 8) (tag : Half) (status : Byte) (result : Nat) (s : State) : (complete k tag status result s).can = s.can := by rw [complete_frame]
@[simp] theorem complete_eth (k : Fin 8) (tag : Half) (status : Byte) (result : Nat) (s : State) : (complete k tag status result s).eth = s.eth := by rw [complete_frame]
@[simp] theorem complete_ptp (k : Fin 8) (tag : Half) (status : Byte) (result : Nat) (s : State) : (complete k tag status result s).ptp = s.ptp := by rw [complete_frame]
@[simp] theorem complete_pair (k : Fin 8) (tag : Half) (status : Byte) (result : Nat) (s : State) : (complete k tag status result s).pair = s.pair := by rw [complete_frame]
@[simp] theorem complete_wdt (k : Fin 8) (tag : Half) (status : Byte) (result : Nat) (s : State) : (complete k tag status result s).wdt = s.wdt := by rw [complete_frame]
@[simp] theorem complete_fw (k : Fin 8) (tag : Half) (status : Byte) (result : Nat) (s : State) : (complete k tag status result s).fw = s.fw := by rw [complete_frame]
@[simp] theorem complete_free (k : Fin 8) (tag : Half) (status : Byte) (result : Nat) (s : State) : (complete k tag status result s).free = s.free := by rw [complete_frame]
@[simp] theorem complete_pending (k : Fin 8) (tag : Half) (status : Byte) (result : Nat) (s : State) : (complete k tag status result s).pending = s.pending := by rw [complete_frame]

/-- A completion with OK changes the host interface and host memory alone. -/
theorem ok_frame (d : Desc) (result : Nat) (s : State) :
    ok d result s = { s with host := (ok d result s).host, hostMem := (ok d result s).hostMem } := complete_frame _ _ _ _ s

@[simp] theorem ok_factory (d : Desc) (result : Nat) (s : State) : (ok d result s).factory = s.factory := by rw [ok_frame]
@[simp] theorem ok_time (d : Desc) (result : Nat) (s : State) : (ok d result s).time = s.time := by rw [ok_frame]
@[simp] theorem ok_mode (d : Desc) (result : Nat) (s : State) : (ok d result s).mode = s.mode := by rw [ok_frame]
@[simp] theorem ok_power (d : Desc) (result : Nat) (s : State) : (ok d result s).power = s.power := by rw [ok_frame]
@[simp] theorem ok_recorder (d : Desc) (result : Nat) (s : State) : (ok d result s).recorder = s.recorder := by rw [ok_frame]
@[simp] theorem ok_ret (d : Desc) (result : Nat) (s : State) : (ok d result s).ret = s.ret := by rw [ok_frame]
@[simp] theorem ok_proj (d : Desc) (result : Nat) (s : State) : (ok d result s).proj = s.proj := by rw [ok_frame]
@[simp] theorem ok_prof (d : Desc) (result : Nat) (s : State) : (ok d result s).prof = s.prof := by rw [ok_frame]
@[simp] theorem ok_tasks (d : Desc) (result : Nat) (s : State) : (ok d result s).tasks = s.tasks := by rw [ok_frame]
@[simp] theorem ok_stalls (d : Desc) (result : Nat) (s : State) : (ok d result s).stalls = s.stalls := by rw [ok_frame]
@[simp] theorem ok_barns (d : Desc) (result : Nat) (s : State) : (ok d result s).barns = s.barns := by rw [ok_frame]
@[simp] theorem ok_yard (d : Desc) (result : Nat) (s : State) : (ok d result s).yard = s.yard := by rw [ok_frame]
@[simp] theorem ok_commit (d : Desc) (result : Nat) (s : State) : (ok d result s).commit = s.commit := by rw [ok_frame]
@[simp] theorem ok_chan (d : Desc) (result : Nat) (s : State) : (ok d result s).chan = s.chan := by rw [ok_frame]
@[simp] theorem ok_field (d : Desc) (result : Nat) (s : State) : (ok d result s).field = s.field := by rw [ok_frame]
@[simp] theorem ok_loops (d : Desc) (result : Nat) (s : State) : (ok d result s).loops = s.loops := by rw [ok_frame]
@[simp] theorem ok_ihloz (d : Desc) (result : Nat) (s : State) : (ok d result s).ihloz = s.ihloz := by rw [ok_frame]
@[simp] theorem ok_star (d : Desc) (result : Nat) (s : State) : (ok d result s).star = s.star := by rw [ok_frame]
@[simp] theorem ok_can (d : Desc) (result : Nat) (s : State) : (ok d result s).can = s.can := by rw [ok_frame]
@[simp] theorem ok_eth (d : Desc) (result : Nat) (s : State) : (ok d result s).eth = s.eth := by rw [ok_frame]
@[simp] theorem ok_ptp (d : Desc) (result : Nat) (s : State) : (ok d result s).ptp = s.ptp := by rw [ok_frame]
@[simp] theorem ok_pair (d : Desc) (result : Nat) (s : State) : (ok d result s).pair = s.pair := by rw [ok_frame]
@[simp] theorem ok_wdt (d : Desc) (result : Nat) (s : State) : (ok d result s).wdt = s.wdt := by rw [ok_frame]
@[simp] theorem ok_fw (d : Desc) (result : Nat) (s : State) : (ok d result s).fw = s.fw := by rw [ok_frame]
@[simp] theorem ok_free (d : Desc) (result : Nat) (s : State) : (ok d result s).free = s.free := by rw [ok_frame]
@[simp] theorem ok_pending (d : Desc) (result : Nat) (s : State) : (ok d result s).pending = s.pending := by rw [ok_frame]

/-- A completion with another status changes the host interface and host memory alone. -/
theorem fail_frame (d : Desc) (status : Byte) (s : State) :
    fail d status s = { s with host := (fail d status s).host, hostMem := (fail d status s).hostMem } := complete_frame _ _ _ _ s

@[simp] theorem fail_factory (d : Desc) (status : Byte) (s : State) : (fail d status s).factory = s.factory := by rw [fail_frame]
@[simp] theorem fail_time (d : Desc) (status : Byte) (s : State) : (fail d status s).time = s.time := by rw [fail_frame]
@[simp] theorem fail_mode (d : Desc) (status : Byte) (s : State) : (fail d status s).mode = s.mode := by rw [fail_frame]
@[simp] theorem fail_power (d : Desc) (status : Byte) (s : State) : (fail d status s).power = s.power := by rw [fail_frame]
@[simp] theorem fail_recorder (d : Desc) (status : Byte) (s : State) : (fail d status s).recorder = s.recorder := by rw [fail_frame]
@[simp] theorem fail_ret (d : Desc) (status : Byte) (s : State) : (fail d status s).ret = s.ret := by rw [fail_frame]
@[simp] theorem fail_proj (d : Desc) (status : Byte) (s : State) : (fail d status s).proj = s.proj := by rw [fail_frame]
@[simp] theorem fail_prof (d : Desc) (status : Byte) (s : State) : (fail d status s).prof = s.prof := by rw [fail_frame]
@[simp] theorem fail_tasks (d : Desc) (status : Byte) (s : State) : (fail d status s).tasks = s.tasks := by rw [fail_frame]
@[simp] theorem fail_stalls (d : Desc) (status : Byte) (s : State) : (fail d status s).stalls = s.stalls := by rw [fail_frame]
@[simp] theorem fail_barns (d : Desc) (status : Byte) (s : State) : (fail d status s).barns = s.barns := by rw [fail_frame]
@[simp] theorem fail_yard (d : Desc) (status : Byte) (s : State) : (fail d status s).yard = s.yard := by rw [fail_frame]
@[simp] theorem fail_commit (d : Desc) (status : Byte) (s : State) : (fail d status s).commit = s.commit := by rw [fail_frame]
@[simp] theorem fail_chan (d : Desc) (status : Byte) (s : State) : (fail d status s).chan = s.chan := by rw [fail_frame]
@[simp] theorem fail_field (d : Desc) (status : Byte) (s : State) : (fail d status s).field = s.field := by rw [fail_frame]
@[simp] theorem fail_loops (d : Desc) (status : Byte) (s : State) : (fail d status s).loops = s.loops := by rw [fail_frame]
@[simp] theorem fail_ihloz (d : Desc) (status : Byte) (s : State) : (fail d status s).ihloz = s.ihloz := by rw [fail_frame]
@[simp] theorem fail_star (d : Desc) (status : Byte) (s : State) : (fail d status s).star = s.star := by rw [fail_frame]
@[simp] theorem fail_can (d : Desc) (status : Byte) (s : State) : (fail d status s).can = s.can := by rw [fail_frame]
@[simp] theorem fail_eth (d : Desc) (status : Byte) (s : State) : (fail d status s).eth = s.eth := by rw [fail_frame]
@[simp] theorem fail_ptp (d : Desc) (status : Byte) (s : State) : (fail d status s).ptp = s.ptp := by rw [fail_frame]
@[simp] theorem fail_pair (d : Desc) (status : Byte) (s : State) : (fail d status s).pair = s.pair := by rw [fail_frame]
@[simp] theorem fail_wdt (d : Desc) (status : Byte) (s : State) : (fail d status s).wdt = s.wdt := by rw [fail_frame]
@[simp] theorem fail_fw (d : Desc) (status : Byte) (s : State) : (fail d status s).fw = s.fw := by rw [fail_frame]
@[simp] theorem fail_free (d : Desc) (status : Byte) (s : State) : (fail d status s).free = s.free := by rw [fail_frame]
@[simp] theorem fail_pending (d : Desc) (status : Byte) (s : State) : (fail d status s).pending = s.pending := by rw [fail_frame]

/-- A command in progress ends with output: the host interface, host memory and the free values taken alone change. -/
theorem completeOut_frame (k : Fin 8) (p : Wait → Bool) (status : Byte) (result off : Nat) (out : Bytes) (s : State) :
    completeOut k p status result off out s = { s with host := (completeOut k p status result off out s).host, hostMem := (completeOut k p status result off out s).hostMem, free := (completeOut k p status result off out s).free } := by
  unfold completeOut
  split
  · split
    · rfl
    · split
      · rfl
      · split <;> rw [complete_frame, hostWrite_frame]
  · rfl

@[simp] theorem completeOut_factory (k : Fin 8) (p : Wait → Bool) (status : Byte) (result off : Nat) (out : Bytes) (s : State) : (completeOut k p status result off out s).factory = s.factory := by rw [completeOut_frame]
@[simp] theorem completeOut_time (k : Fin 8) (p : Wait → Bool) (status : Byte) (result off : Nat) (out : Bytes) (s : State) : (completeOut k p status result off out s).time = s.time := by rw [completeOut_frame]
@[simp] theorem completeOut_mode (k : Fin 8) (p : Wait → Bool) (status : Byte) (result off : Nat) (out : Bytes) (s : State) : (completeOut k p status result off out s).mode = s.mode := by rw [completeOut_frame]
@[simp] theorem completeOut_power (k : Fin 8) (p : Wait → Bool) (status : Byte) (result off : Nat) (out : Bytes) (s : State) : (completeOut k p status result off out s).power = s.power := by rw [completeOut_frame]
@[simp] theorem completeOut_recorder (k : Fin 8) (p : Wait → Bool) (status : Byte) (result off : Nat) (out : Bytes) (s : State) : (completeOut k p status result off out s).recorder = s.recorder := by rw [completeOut_frame]
@[simp] theorem completeOut_ret (k : Fin 8) (p : Wait → Bool) (status : Byte) (result off : Nat) (out : Bytes) (s : State) : (completeOut k p status result off out s).ret = s.ret := by rw [completeOut_frame]
@[simp] theorem completeOut_proj (k : Fin 8) (p : Wait → Bool) (status : Byte) (result off : Nat) (out : Bytes) (s : State) : (completeOut k p status result off out s).proj = s.proj := by rw [completeOut_frame]
@[simp] theorem completeOut_prof (k : Fin 8) (p : Wait → Bool) (status : Byte) (result off : Nat) (out : Bytes) (s : State) : (completeOut k p status result off out s).prof = s.prof := by rw [completeOut_frame]
@[simp] theorem completeOut_tasks (k : Fin 8) (p : Wait → Bool) (status : Byte) (result off : Nat) (out : Bytes) (s : State) : (completeOut k p status result off out s).tasks = s.tasks := by rw [completeOut_frame]
@[simp] theorem completeOut_stalls (k : Fin 8) (p : Wait → Bool) (status : Byte) (result off : Nat) (out : Bytes) (s : State) : (completeOut k p status result off out s).stalls = s.stalls := by rw [completeOut_frame]
@[simp] theorem completeOut_barns (k : Fin 8) (p : Wait → Bool) (status : Byte) (result off : Nat) (out : Bytes) (s : State) : (completeOut k p status result off out s).barns = s.barns := by rw [completeOut_frame]
@[simp] theorem completeOut_yard (k : Fin 8) (p : Wait → Bool) (status : Byte) (result off : Nat) (out : Bytes) (s : State) : (completeOut k p status result off out s).yard = s.yard := by rw [completeOut_frame]
@[simp] theorem completeOut_commit (k : Fin 8) (p : Wait → Bool) (status : Byte) (result off : Nat) (out : Bytes) (s : State) : (completeOut k p status result off out s).commit = s.commit := by rw [completeOut_frame]
@[simp] theorem completeOut_chan (k : Fin 8) (p : Wait → Bool) (status : Byte) (result off : Nat) (out : Bytes) (s : State) : (completeOut k p status result off out s).chan = s.chan := by rw [completeOut_frame]
@[simp] theorem completeOut_field (k : Fin 8) (p : Wait → Bool) (status : Byte) (result off : Nat) (out : Bytes) (s : State) : (completeOut k p status result off out s).field = s.field := by rw [completeOut_frame]
@[simp] theorem completeOut_loops (k : Fin 8) (p : Wait → Bool) (status : Byte) (result off : Nat) (out : Bytes) (s : State) : (completeOut k p status result off out s).loops = s.loops := by rw [completeOut_frame]
@[simp] theorem completeOut_ihloz (k : Fin 8) (p : Wait → Bool) (status : Byte) (result off : Nat) (out : Bytes) (s : State) : (completeOut k p status result off out s).ihloz = s.ihloz := by rw [completeOut_frame]
@[simp] theorem completeOut_star (k : Fin 8) (p : Wait → Bool) (status : Byte) (result off : Nat) (out : Bytes) (s : State) : (completeOut k p status result off out s).star = s.star := by rw [completeOut_frame]
@[simp] theorem completeOut_can (k : Fin 8) (p : Wait → Bool) (status : Byte) (result off : Nat) (out : Bytes) (s : State) : (completeOut k p status result off out s).can = s.can := by rw [completeOut_frame]
@[simp] theorem completeOut_eth (k : Fin 8) (p : Wait → Bool) (status : Byte) (result off : Nat) (out : Bytes) (s : State) : (completeOut k p status result off out s).eth = s.eth := by rw [completeOut_frame]
@[simp] theorem completeOut_ptp (k : Fin 8) (p : Wait → Bool) (status : Byte) (result off : Nat) (out : Bytes) (s : State) : (completeOut k p status result off out s).ptp = s.ptp := by rw [completeOut_frame]
@[simp] theorem completeOut_pair (k : Fin 8) (p : Wait → Bool) (status : Byte) (result off : Nat) (out : Bytes) (s : State) : (completeOut k p status result off out s).pair = s.pair := by rw [completeOut_frame]
@[simp] theorem completeOut_wdt (k : Fin 8) (p : Wait → Bool) (status : Byte) (result off : Nat) (out : Bytes) (s : State) : (completeOut k p status result off out s).wdt = s.wdt := by rw [completeOut_frame]
@[simp] theorem completeOut_fw (k : Fin 8) (p : Wait → Bool) (status : Byte) (result off : Nat) (out : Bytes) (s : State) : (completeOut k p status result off out s).fw = s.fw := by rw [completeOut_frame]
@[simp] theorem completeOut_pending (k : Fin 8) (p : Wait → Bool) (status : Byte) (result off : Nat) (out : Bytes) (s : State) : (completeOut k p status result off out s).pending = s.pending := by rw [completeOut_frame]

/-- A command in progress completes: the host interface, host memory and the free values taken alone change. -/
theorem completeWait_frame (k : Fin 8) (p : Wait → Bool) (status : Byte) (result : Nat) (s : State) :
    completeWait k p status result s = { s with host := (completeWait k p status result s).host, hostMem := (completeWait k p status result s).hostMem, free := (completeWait k p status result s).free } := completeOut_frame _ _ _ _ _ _ s

@[simp] theorem completeWait_factory (k : Fin 8) (p : Wait → Bool) (status : Byte) (result : Nat) (s : State) : (completeWait k p status result s).factory = s.factory := by rw [completeWait_frame]
@[simp] theorem completeWait_time (k : Fin 8) (p : Wait → Bool) (status : Byte) (result : Nat) (s : State) : (completeWait k p status result s).time = s.time := by rw [completeWait_frame]
@[simp] theorem completeWait_mode (k : Fin 8) (p : Wait → Bool) (status : Byte) (result : Nat) (s : State) : (completeWait k p status result s).mode = s.mode := by rw [completeWait_frame]
@[simp] theorem completeWait_power (k : Fin 8) (p : Wait → Bool) (status : Byte) (result : Nat) (s : State) : (completeWait k p status result s).power = s.power := by rw [completeWait_frame]
@[simp] theorem completeWait_recorder (k : Fin 8) (p : Wait → Bool) (status : Byte) (result : Nat) (s : State) : (completeWait k p status result s).recorder = s.recorder := by rw [completeWait_frame]
@[simp] theorem completeWait_ret (k : Fin 8) (p : Wait → Bool) (status : Byte) (result : Nat) (s : State) : (completeWait k p status result s).ret = s.ret := by rw [completeWait_frame]
@[simp] theorem completeWait_proj (k : Fin 8) (p : Wait → Bool) (status : Byte) (result : Nat) (s : State) : (completeWait k p status result s).proj = s.proj := by rw [completeWait_frame]
@[simp] theorem completeWait_prof (k : Fin 8) (p : Wait → Bool) (status : Byte) (result : Nat) (s : State) : (completeWait k p status result s).prof = s.prof := by rw [completeWait_frame]
@[simp] theorem completeWait_tasks (k : Fin 8) (p : Wait → Bool) (status : Byte) (result : Nat) (s : State) : (completeWait k p status result s).tasks = s.tasks := by rw [completeWait_frame]
@[simp] theorem completeWait_stalls (k : Fin 8) (p : Wait → Bool) (status : Byte) (result : Nat) (s : State) : (completeWait k p status result s).stalls = s.stalls := by rw [completeWait_frame]
@[simp] theorem completeWait_barns (k : Fin 8) (p : Wait → Bool) (status : Byte) (result : Nat) (s : State) : (completeWait k p status result s).barns = s.barns := by rw [completeWait_frame]
@[simp] theorem completeWait_yard (k : Fin 8) (p : Wait → Bool) (status : Byte) (result : Nat) (s : State) : (completeWait k p status result s).yard = s.yard := by rw [completeWait_frame]
@[simp] theorem completeWait_commit (k : Fin 8) (p : Wait → Bool) (status : Byte) (result : Nat) (s : State) : (completeWait k p status result s).commit = s.commit := by rw [completeWait_frame]
@[simp] theorem completeWait_chan (k : Fin 8) (p : Wait → Bool) (status : Byte) (result : Nat) (s : State) : (completeWait k p status result s).chan = s.chan := by rw [completeWait_frame]
@[simp] theorem completeWait_field (k : Fin 8) (p : Wait → Bool) (status : Byte) (result : Nat) (s : State) : (completeWait k p status result s).field = s.field := by rw [completeWait_frame]
@[simp] theorem completeWait_loops (k : Fin 8) (p : Wait → Bool) (status : Byte) (result : Nat) (s : State) : (completeWait k p status result s).loops = s.loops := by rw [completeWait_frame]
@[simp] theorem completeWait_ihloz (k : Fin 8) (p : Wait → Bool) (status : Byte) (result : Nat) (s : State) : (completeWait k p status result s).ihloz = s.ihloz := by rw [completeWait_frame]
@[simp] theorem completeWait_star (k : Fin 8) (p : Wait → Bool) (status : Byte) (result : Nat) (s : State) : (completeWait k p status result s).star = s.star := by rw [completeWait_frame]
@[simp] theorem completeWait_can (k : Fin 8) (p : Wait → Bool) (status : Byte) (result : Nat) (s : State) : (completeWait k p status result s).can = s.can := by rw [completeWait_frame]
@[simp] theorem completeWait_eth (k : Fin 8) (p : Wait → Bool) (status : Byte) (result : Nat) (s : State) : (completeWait k p status result s).eth = s.eth := by rw [completeWait_frame]
@[simp] theorem completeWait_ptp (k : Fin 8) (p : Wait → Bool) (status : Byte) (result : Nat) (s : State) : (completeWait k p status result s).ptp = s.ptp := by rw [completeWait_frame]
@[simp] theorem completeWait_pair (k : Fin 8) (p : Wait → Bool) (status : Byte) (result : Nat) (s : State) : (completeWait k p status result s).pair = s.pair := by rw [completeWait_frame]
@[simp] theorem completeWait_wdt (k : Fin 8) (p : Wait → Bool) (status : Byte) (result : Nat) (s : State) : (completeWait k p status result s).wdt = s.wdt := by rw [completeWait_frame]
@[simp] theorem completeWait_fw (k : Fin 8) (p : Wait → Bool) (status : Byte) (result : Nat) (s : State) : (completeWait k p status result s).fw = s.fw := by rw [completeWait_frame]
@[simp] theorem completeWait_pending (k : Fin 8) (p : Wait → Bool) (status : Byte) (result : Nat) (s : State) : (completeWait k p status result s).pending = s.pending := by rw [completeWait_frame]

/-! ### Events -/

/-- Posting an event changes the host interface and host memory alone. -/
theorem postEvent_frame (r : EventRec) (s : State) :
    postEvent r s = { s with host := (postEvent r s).host, hostMem := (postEvent r s).hostMem } := by
  unfold postEvent
  split
  · rfl
  · split
    · rw [hostWrite_frame]
    · rfl

@[simp] theorem postEvent_factory (r : EventRec) (s : State) : (postEvent r s).factory = s.factory := by rw [postEvent_frame]
@[simp] theorem postEvent_time (r : EventRec) (s : State) : (postEvent r s).time = s.time := by rw [postEvent_frame]
@[simp] theorem postEvent_mode (r : EventRec) (s : State) : (postEvent r s).mode = s.mode := by rw [postEvent_frame]
@[simp] theorem postEvent_power (r : EventRec) (s : State) : (postEvent r s).power = s.power := by rw [postEvent_frame]
@[simp] theorem postEvent_recorder (r : EventRec) (s : State) : (postEvent r s).recorder = s.recorder := by rw [postEvent_frame]
@[simp] theorem postEvent_ret (r : EventRec) (s : State) : (postEvent r s).ret = s.ret := by rw [postEvent_frame]
@[simp] theorem postEvent_proj (r : EventRec) (s : State) : (postEvent r s).proj = s.proj := by rw [postEvent_frame]
@[simp] theorem postEvent_prof (r : EventRec) (s : State) : (postEvent r s).prof = s.prof := by rw [postEvent_frame]
@[simp] theorem postEvent_tasks (r : EventRec) (s : State) : (postEvent r s).tasks = s.tasks := by rw [postEvent_frame]
@[simp] theorem postEvent_stalls (r : EventRec) (s : State) : (postEvent r s).stalls = s.stalls := by rw [postEvent_frame]
@[simp] theorem postEvent_barns (r : EventRec) (s : State) : (postEvent r s).barns = s.barns := by rw [postEvent_frame]
@[simp] theorem postEvent_yard (r : EventRec) (s : State) : (postEvent r s).yard = s.yard := by rw [postEvent_frame]
@[simp] theorem postEvent_commit (r : EventRec) (s : State) : (postEvent r s).commit = s.commit := by rw [postEvent_frame]
@[simp] theorem postEvent_chan (r : EventRec) (s : State) : (postEvent r s).chan = s.chan := by rw [postEvent_frame]
@[simp] theorem postEvent_field (r : EventRec) (s : State) : (postEvent r s).field = s.field := by rw [postEvent_frame]
@[simp] theorem postEvent_loops (r : EventRec) (s : State) : (postEvent r s).loops = s.loops := by rw [postEvent_frame]
@[simp] theorem postEvent_ihloz (r : EventRec) (s : State) : (postEvent r s).ihloz = s.ihloz := by rw [postEvent_frame]
@[simp] theorem postEvent_star (r : EventRec) (s : State) : (postEvent r s).star = s.star := by rw [postEvent_frame]
@[simp] theorem postEvent_can (r : EventRec) (s : State) : (postEvent r s).can = s.can := by rw [postEvent_frame]
@[simp] theorem postEvent_eth (r : EventRec) (s : State) : (postEvent r s).eth = s.eth := by rw [postEvent_frame]
@[simp] theorem postEvent_ptp (r : EventRec) (s : State) : (postEvent r s).ptp = s.ptp := by rw [postEvent_frame]
@[simp] theorem postEvent_pair (r : EventRec) (s : State) : (postEvent r s).pair = s.pair := by rw [postEvent_frame]
@[simp] theorem postEvent_wdt (r : EventRec) (s : State) : (postEvent r s).wdt = s.wdt := by rw [postEvent_frame]
@[simp] theorem postEvent_fw (r : EventRec) (s : State) : (postEvent r s).fw = s.fw := by rw [postEvent_frame]
@[simp] theorem postEvent_free (r : EventRec) (s : State) : (postEvent r s).free = s.free := by rw [postEvent_frame]
@[simp] theorem postEvent_pending (r : EventRec) (s : State) : (postEvent r s).pending = s.pending := by rw [postEvent_frame]

/-- Posting folded records again changes the recorder, the host interface and host memory alone. -/
theorem repost_frame (l : List (Nat × EventRec)) (s : State) : repost l s =
    { s with host := (repost l s).host, hostMem := (repost l s).hostMem, recorder := (repost l s).recorder } := by
  induction l generalizing s with
  | nil => rfl
  | cons p l ih =>
    refine (ih _).trans ?_
    change _ = { s with
      host := (repost l (postEvent p.2 { s with recorder := { s.recorder with dirty := dropFrom s.recorder.dirty p.1 } })).host
      hostMem := (repost l (postEvent p.2 { s with recorder := { s.recorder with dirty := dropFrom s.recorder.dirty p.1 } })).hostMem
      recorder := (repost l (postEvent p.2 { s with recorder := { s.recorder with dirty := dropFrom s.recorder.dirty p.1 } })).recorder }
    generalize repost l _ = r
    simp

@[simp] theorem repost_factory (l : List (Nat × EventRec)) (s : State) : (repost l s).factory = s.factory := by rw [repost_frame]
@[simp] theorem repost_time (l : List (Nat × EventRec)) (s : State) : (repost l s).time = s.time := by rw [repost_frame]
@[simp] theorem repost_mode (l : List (Nat × EventRec)) (s : State) : (repost l s).mode = s.mode := by rw [repost_frame]
@[simp] theorem repost_power (l : List (Nat × EventRec)) (s : State) : (repost l s).power = s.power := by rw [repost_frame]
@[simp] theorem repost_ret (l : List (Nat × EventRec)) (s : State) : (repost l s).ret = s.ret := by rw [repost_frame]
@[simp] theorem repost_proj (l : List (Nat × EventRec)) (s : State) : (repost l s).proj = s.proj := by rw [repost_frame]
@[simp] theorem repost_prof (l : List (Nat × EventRec)) (s : State) : (repost l s).prof = s.prof := by rw [repost_frame]
@[simp] theorem repost_tasks (l : List (Nat × EventRec)) (s : State) : (repost l s).tasks = s.tasks := by rw [repost_frame]
@[simp] theorem repost_stalls (l : List (Nat × EventRec)) (s : State) : (repost l s).stalls = s.stalls := by rw [repost_frame]
@[simp] theorem repost_barns (l : List (Nat × EventRec)) (s : State) : (repost l s).barns = s.barns := by rw [repost_frame]
@[simp] theorem repost_yard (l : List (Nat × EventRec)) (s : State) : (repost l s).yard = s.yard := by rw [repost_frame]
@[simp] theorem repost_commit (l : List (Nat × EventRec)) (s : State) : (repost l s).commit = s.commit := by rw [repost_frame]
@[simp] theorem repost_chan (l : List (Nat × EventRec)) (s : State) : (repost l s).chan = s.chan := by rw [repost_frame]
@[simp] theorem repost_field (l : List (Nat × EventRec)) (s : State) : (repost l s).field = s.field := by rw [repost_frame]
@[simp] theorem repost_loops (l : List (Nat × EventRec)) (s : State) : (repost l s).loops = s.loops := by rw [repost_frame]
@[simp] theorem repost_ihloz (l : List (Nat × EventRec)) (s : State) : (repost l s).ihloz = s.ihloz := by rw [repost_frame]
@[simp] theorem repost_star (l : List (Nat × EventRec)) (s : State) : (repost l s).star = s.star := by rw [repost_frame]
@[simp] theorem repost_can (l : List (Nat × EventRec)) (s : State) : (repost l s).can = s.can := by rw [repost_frame]
@[simp] theorem repost_eth (l : List (Nat × EventRec)) (s : State) : (repost l s).eth = s.eth := by rw [repost_frame]
@[simp] theorem repost_ptp (l : List (Nat × EventRec)) (s : State) : (repost l s).ptp = s.ptp := by rw [repost_frame]
@[simp] theorem repost_pair (l : List (Nat × EventRec)) (s : State) : (repost l s).pair = s.pair := by rw [repost_frame]
@[simp] theorem repost_wdt (l : List (Nat × EventRec)) (s : State) : (repost l s).wdt = s.wdt := by rw [repost_frame]
@[simp] theorem repost_fw (l : List (Nat × EventRec)) (s : State) : (repost l s).fw = s.fw := by rw [repost_frame]
@[simp] theorem repost_free (l : List (Nat × EventRec)) (s : State) : (repost l s).free = s.free := by rw [repost_frame]
@[simp] theorem repost_pending (l : List (Nat × EventRec)) (s : State) : (repost l s).pending = s.pending := by rw [repost_frame]

/-- Folding an occurrence changes the recorder alone. -/
theorem raiseFold_frame (o : Nat) (now : Word) (commit data : Nat) (s : State) :
    raiseFold o now commit data s = { s with host := (raiseFold o now commit data s).host, hostMem := (raiseFold o now commit data s).hostMem, recorder := (raiseFold o now commit data s).recorder } := by
  unfold raiseFold
  dsimp only
  split <;> rfl

@[simp] theorem raiseFold_factory (o : Nat) (now : Word) (commit data : Nat) (s : State) : (raiseFold o now commit data s).factory = s.factory := by rw [raiseFold_frame]
@[simp] theorem raiseFold_time (o : Nat) (now : Word) (commit data : Nat) (s : State) : (raiseFold o now commit data s).time = s.time := by rw [raiseFold_frame]
@[simp] theorem raiseFold_mode (o : Nat) (now : Word) (commit data : Nat) (s : State) : (raiseFold o now commit data s).mode = s.mode := by rw [raiseFold_frame]
@[simp] theorem raiseFold_power (o : Nat) (now : Word) (commit data : Nat) (s : State) : (raiseFold o now commit data s).power = s.power := by rw [raiseFold_frame]
@[simp] theorem raiseFold_ret (o : Nat) (now : Word) (commit data : Nat) (s : State) : (raiseFold o now commit data s).ret = s.ret := by rw [raiseFold_frame]
@[simp] theorem raiseFold_proj (o : Nat) (now : Word) (commit data : Nat) (s : State) : (raiseFold o now commit data s).proj = s.proj := by rw [raiseFold_frame]
@[simp] theorem raiseFold_prof (o : Nat) (now : Word) (commit data : Nat) (s : State) : (raiseFold o now commit data s).prof = s.prof := by rw [raiseFold_frame]
@[simp] theorem raiseFold_tasks (o : Nat) (now : Word) (commit data : Nat) (s : State) : (raiseFold o now commit data s).tasks = s.tasks := by rw [raiseFold_frame]
@[simp] theorem raiseFold_stalls (o : Nat) (now : Word) (commit data : Nat) (s : State) : (raiseFold o now commit data s).stalls = s.stalls := by rw [raiseFold_frame]
@[simp] theorem raiseFold_barns (o : Nat) (now : Word) (commit data : Nat) (s : State) : (raiseFold o now commit data s).barns = s.barns := by rw [raiseFold_frame]
@[simp] theorem raiseFold_yard (o : Nat) (now : Word) (commit data : Nat) (s : State) : (raiseFold o now commit data s).yard = s.yard := by rw [raiseFold_frame]
@[simp] theorem raiseFold_commit (o : Nat) (now : Word) (commit data : Nat) (s : State) : (raiseFold o now commit data s).commit = s.commit := by rw [raiseFold_frame]
@[simp] theorem raiseFold_chan (o : Nat) (now : Word) (commit data : Nat) (s : State) : (raiseFold o now commit data s).chan = s.chan := by rw [raiseFold_frame]
@[simp] theorem raiseFold_field (o : Nat) (now : Word) (commit data : Nat) (s : State) : (raiseFold o now commit data s).field = s.field := by rw [raiseFold_frame]
@[simp] theorem raiseFold_loops (o : Nat) (now : Word) (commit data : Nat) (s : State) : (raiseFold o now commit data s).loops = s.loops := by rw [raiseFold_frame]
@[simp] theorem raiseFold_ihloz (o : Nat) (now : Word) (commit data : Nat) (s : State) : (raiseFold o now commit data s).ihloz = s.ihloz := by rw [raiseFold_frame]
@[simp] theorem raiseFold_star (o : Nat) (now : Word) (commit data : Nat) (s : State) : (raiseFold o now commit data s).star = s.star := by rw [raiseFold_frame]
@[simp] theorem raiseFold_can (o : Nat) (now : Word) (commit data : Nat) (s : State) : (raiseFold o now commit data s).can = s.can := by rw [raiseFold_frame]
@[simp] theorem raiseFold_eth (o : Nat) (now : Word) (commit data : Nat) (s : State) : (raiseFold o now commit data s).eth = s.eth := by rw [raiseFold_frame]
@[simp] theorem raiseFold_ptp (o : Nat) (now : Word) (commit data : Nat) (s : State) : (raiseFold o now commit data s).ptp = s.ptp := by rw [raiseFold_frame]
@[simp] theorem raiseFold_pair (o : Nat) (now : Word) (commit data : Nat) (s : State) : (raiseFold o now commit data s).pair = s.pair := by rw [raiseFold_frame]
@[simp] theorem raiseFold_wdt (o : Nat) (now : Word) (commit data : Nat) (s : State) : (raiseFold o now commit data s).wdt = s.wdt := by rw [raiseFold_frame]
@[simp] theorem raiseFold_fw (o : Nat) (now : Word) (commit data : Nat) (s : State) : (raiseFold o now commit data s).fw = s.fw := by rw [raiseFold_frame]
@[simp] theorem raiseFold_free (o : Nat) (now : Word) (commit data : Nat) (s : State) : (raiseFold o now commit data s).free = s.free := by rw [raiseFold_frame]
@[simp] theorem raiseFold_pending (o : Nat) (now : Word) (commit data : Nat) (s : State) : (raiseFold o now commit data s).pending = s.pending := by rw [raiseFold_frame]

/-- A new record changes the recorder, the host interface and host memory alone. -/
theorem raiseNew_frame (src code : Half) (now : Word) (commit data : Nat) (s : State) :
    raiseNew src code now commit data s = { s with host := (raiseNew src code now commit data s).host, hostMem := (raiseNew src code now commit data s).hostMem, recorder := (raiseNew src code now commit data s).recorder } := by
  unfold raiseNew
  dsimp only
  split
  · rw [postEvent_frame]
    dsimp only
    rw [repost_frame]
  · rw [postEvent_frame]

@[simp] theorem raiseNew_factory (src code : Half) (now : Word) (commit data : Nat) (s : State) : (raiseNew src code now commit data s).factory = s.factory := by rw [raiseNew_frame]
@[simp] theorem raiseNew_time (src code : Half) (now : Word) (commit data : Nat) (s : State) : (raiseNew src code now commit data s).time = s.time := by rw [raiseNew_frame]
@[simp] theorem raiseNew_mode (src code : Half) (now : Word) (commit data : Nat) (s : State) : (raiseNew src code now commit data s).mode = s.mode := by rw [raiseNew_frame]
@[simp] theorem raiseNew_power (src code : Half) (now : Word) (commit data : Nat) (s : State) : (raiseNew src code now commit data s).power = s.power := by rw [raiseNew_frame]
@[simp] theorem raiseNew_ret (src code : Half) (now : Word) (commit data : Nat) (s : State) : (raiseNew src code now commit data s).ret = s.ret := by rw [raiseNew_frame]
@[simp] theorem raiseNew_proj (src code : Half) (now : Word) (commit data : Nat) (s : State) : (raiseNew src code now commit data s).proj = s.proj := by rw [raiseNew_frame]
@[simp] theorem raiseNew_prof (src code : Half) (now : Word) (commit data : Nat) (s : State) : (raiseNew src code now commit data s).prof = s.prof := by rw [raiseNew_frame]
@[simp] theorem raiseNew_tasks (src code : Half) (now : Word) (commit data : Nat) (s : State) : (raiseNew src code now commit data s).tasks = s.tasks := by rw [raiseNew_frame]
@[simp] theorem raiseNew_stalls (src code : Half) (now : Word) (commit data : Nat) (s : State) : (raiseNew src code now commit data s).stalls = s.stalls := by rw [raiseNew_frame]
@[simp] theorem raiseNew_barns (src code : Half) (now : Word) (commit data : Nat) (s : State) : (raiseNew src code now commit data s).barns = s.barns := by rw [raiseNew_frame]
@[simp] theorem raiseNew_yard (src code : Half) (now : Word) (commit data : Nat) (s : State) : (raiseNew src code now commit data s).yard = s.yard := by rw [raiseNew_frame]
@[simp] theorem raiseNew_commit (src code : Half) (now : Word) (commit data : Nat) (s : State) : (raiseNew src code now commit data s).commit = s.commit := by rw [raiseNew_frame]
@[simp] theorem raiseNew_chan (src code : Half) (now : Word) (commit data : Nat) (s : State) : (raiseNew src code now commit data s).chan = s.chan := by rw [raiseNew_frame]
@[simp] theorem raiseNew_field (src code : Half) (now : Word) (commit data : Nat) (s : State) : (raiseNew src code now commit data s).field = s.field := by rw [raiseNew_frame]
@[simp] theorem raiseNew_loops (src code : Half) (now : Word) (commit data : Nat) (s : State) : (raiseNew src code now commit data s).loops = s.loops := by rw [raiseNew_frame]
@[simp] theorem raiseNew_ihloz (src code : Half) (now : Word) (commit data : Nat) (s : State) : (raiseNew src code now commit data s).ihloz = s.ihloz := by rw [raiseNew_frame]
@[simp] theorem raiseNew_star (src code : Half) (now : Word) (commit data : Nat) (s : State) : (raiseNew src code now commit data s).star = s.star := by rw [raiseNew_frame]
@[simp] theorem raiseNew_can (src code : Half) (now : Word) (commit data : Nat) (s : State) : (raiseNew src code now commit data s).can = s.can := by rw [raiseNew_frame]
@[simp] theorem raiseNew_eth (src code : Half) (now : Word) (commit data : Nat) (s : State) : (raiseNew src code now commit data s).eth = s.eth := by rw [raiseNew_frame]
@[simp] theorem raiseNew_ptp (src code : Half) (now : Word) (commit data : Nat) (s : State) : (raiseNew src code now commit data s).ptp = s.ptp := by rw [raiseNew_frame]
@[simp] theorem raiseNew_pair (src code : Half) (now : Word) (commit data : Nat) (s : State) : (raiseNew src code now commit data s).pair = s.pair := by rw [raiseNew_frame]
@[simp] theorem raiseNew_wdt (src code : Half) (now : Word) (commit data : Nat) (s : State) : (raiseNew src code now commit data s).wdt = s.wdt := by rw [raiseNew_frame]
@[simp] theorem raiseNew_fw (src code : Half) (now : Word) (commit data : Nat) (s : State) : (raiseNew src code now commit data s).fw = s.fw := by rw [raiseNew_frame]
@[simp] theorem raiseNew_free (src code : Half) (now : Word) (commit data : Nat) (s : State) : (raiseNew src code now commit data s).free = s.free := by rw [raiseNew_frame]
@[simp] theorem raiseNew_pending (src code : Half) (now : Word) (commit data : Nat) (s : State) : (raiseNew src code now commit data s).pending = s.pending := by rw [raiseNew_frame]

/-- An event changes the recorder, the host interface and host memory alone. -/
theorem raise_frame (src code commit data : Nat) (s : State) :
    raise src code commit data s = { s with host := (raise src code commit data s).host, hostMem := (raise src code commit data s).hostMem, recorder := (raise src code commit data s).recorder } := by
  unfold raise
  dsimp only
  split
  · rw [raiseFold_frame]
  · rw [raiseNew_frame]

@[simp] theorem raise_factory (src code commit data : Nat) (s : State) : (raise src code commit data s).factory = s.factory := by rw [raise_frame]
@[simp] theorem raise_time (src code commit data : Nat) (s : State) : (raise src code commit data s).time = s.time := by rw [raise_frame]
@[simp] theorem raise_mode (src code commit data : Nat) (s : State) : (raise src code commit data s).mode = s.mode := by rw [raise_frame]
@[simp] theorem raise_power (src code commit data : Nat) (s : State) : (raise src code commit data s).power = s.power := by rw [raise_frame]
@[simp] theorem raise_ret (src code commit data : Nat) (s : State) : (raise src code commit data s).ret = s.ret := by rw [raise_frame]
@[simp] theorem raise_proj (src code commit data : Nat) (s : State) : (raise src code commit data s).proj = s.proj := by rw [raise_frame]
@[simp] theorem raise_prof (src code commit data : Nat) (s : State) : (raise src code commit data s).prof = s.prof := by rw [raise_frame]
@[simp] theorem raise_tasks (src code commit data : Nat) (s : State) : (raise src code commit data s).tasks = s.tasks := by rw [raise_frame]
@[simp] theorem raise_stalls (src code commit data : Nat) (s : State) : (raise src code commit data s).stalls = s.stalls := by rw [raise_frame]
@[simp] theorem raise_barns (src code commit data : Nat) (s : State) : (raise src code commit data s).barns = s.barns := by rw [raise_frame]
@[simp] theorem raise_yard (src code commit data : Nat) (s : State) : (raise src code commit data s).yard = s.yard := by rw [raise_frame]
@[simp] theorem raise_commit (src code commit data : Nat) (s : State) : (raise src code commit data s).commit = s.commit := by rw [raise_frame]
@[simp] theorem raise_chan (src code commit data : Nat) (s : State) : (raise src code commit data s).chan = s.chan := by rw [raise_frame]
@[simp] theorem raise_field (src code commit data : Nat) (s : State) : (raise src code commit data s).field = s.field := by rw [raise_frame]
@[simp] theorem raise_loops (src code commit data : Nat) (s : State) : (raise src code commit data s).loops = s.loops := by rw [raise_frame]
@[simp] theorem raise_ihloz (src code commit data : Nat) (s : State) : (raise src code commit data s).ihloz = s.ihloz := by rw [raise_frame]
@[simp] theorem raise_star (src code commit data : Nat) (s : State) : (raise src code commit data s).star = s.star := by rw [raise_frame]
@[simp] theorem raise_can (src code commit data : Nat) (s : State) : (raise src code commit data s).can = s.can := by rw [raise_frame]
@[simp] theorem raise_eth (src code commit data : Nat) (s : State) : (raise src code commit data s).eth = s.eth := by rw [raise_frame]
@[simp] theorem raise_ptp (src code commit data : Nat) (s : State) : (raise src code commit data s).ptp = s.ptp := by rw [raise_frame]
@[simp] theorem raise_pair (src code commit data : Nat) (s : State) : (raise src code commit data s).pair = s.pair := by rw [raise_frame]
@[simp] theorem raise_wdt (src code commit data : Nat) (s : State) : (raise src code commit data s).wdt = s.wdt := by rw [raise_frame]
@[simp] theorem raise_fw (src code commit data : Nat) (s : State) : (raise src code commit data s).fw = s.fw := by rw [raise_frame]
@[simp] theorem raise_free (src code commit data : Nat) (s : State) : (raise src code commit data s).free = s.free := by rw [raise_frame]
@[simp] theorem raise_pending (src code commit data : Nat) (s : State) : (raise src code commit data s).pending = s.pending := by rw [raise_frame]

/-- A task event changes the recorder, the host interface and host memory alone. -/
theorem raiseTask_frame (t : BitVec 7) (code commit data : Nat) (s : State) :
    raiseTask t code commit data s = { s with host := (raiseTask t code commit data s).host, hostMem := (raiseTask t code commit data s).hostMem, recorder := (raiseTask t code commit data s).recorder } := raise_frame _ _ _ _ s

@[simp] theorem raiseTask_factory (t : BitVec 7) (code commit data : Nat) (s : State) : (raiseTask t code commit data s).factory = s.factory := by rw [raiseTask_frame]
@[simp] theorem raiseTask_time (t : BitVec 7) (code commit data : Nat) (s : State) : (raiseTask t code commit data s).time = s.time := by rw [raiseTask_frame]
@[simp] theorem raiseTask_mode (t : BitVec 7) (code commit data : Nat) (s : State) : (raiseTask t code commit data s).mode = s.mode := by rw [raiseTask_frame]
@[simp] theorem raiseTask_power (t : BitVec 7) (code commit data : Nat) (s : State) : (raiseTask t code commit data s).power = s.power := by rw [raiseTask_frame]
@[simp] theorem raiseTask_ret (t : BitVec 7) (code commit data : Nat) (s : State) : (raiseTask t code commit data s).ret = s.ret := by rw [raiseTask_frame]
@[simp] theorem raiseTask_proj (t : BitVec 7) (code commit data : Nat) (s : State) : (raiseTask t code commit data s).proj = s.proj := by rw [raiseTask_frame]
@[simp] theorem raiseTask_prof (t : BitVec 7) (code commit data : Nat) (s : State) : (raiseTask t code commit data s).prof = s.prof := by rw [raiseTask_frame]
@[simp] theorem raiseTask_tasks (t : BitVec 7) (code commit data : Nat) (s : State) : (raiseTask t code commit data s).tasks = s.tasks := by rw [raiseTask_frame]
@[simp] theorem raiseTask_stalls (t : BitVec 7) (code commit data : Nat) (s : State) : (raiseTask t code commit data s).stalls = s.stalls := by rw [raiseTask_frame]
@[simp] theorem raiseTask_barns (t : BitVec 7) (code commit data : Nat) (s : State) : (raiseTask t code commit data s).barns = s.barns := by rw [raiseTask_frame]
@[simp] theorem raiseTask_yard (t : BitVec 7) (code commit data : Nat) (s : State) : (raiseTask t code commit data s).yard = s.yard := by rw [raiseTask_frame]
@[simp] theorem raiseTask_commit (t : BitVec 7) (code commit data : Nat) (s : State) : (raiseTask t code commit data s).commit = s.commit := by rw [raiseTask_frame]
@[simp] theorem raiseTask_chan (t : BitVec 7) (code commit data : Nat) (s : State) : (raiseTask t code commit data s).chan = s.chan := by rw [raiseTask_frame]
@[simp] theorem raiseTask_field (t : BitVec 7) (code commit data : Nat) (s : State) : (raiseTask t code commit data s).field = s.field := by rw [raiseTask_frame]
@[simp] theorem raiseTask_loops (t : BitVec 7) (code commit data : Nat) (s : State) : (raiseTask t code commit data s).loops = s.loops := by rw [raiseTask_frame]
@[simp] theorem raiseTask_ihloz (t : BitVec 7) (code commit data : Nat) (s : State) : (raiseTask t code commit data s).ihloz = s.ihloz := by rw [raiseTask_frame]
@[simp] theorem raiseTask_star (t : BitVec 7) (code commit data : Nat) (s : State) : (raiseTask t code commit data s).star = s.star := by rw [raiseTask_frame]
@[simp] theorem raiseTask_can (t : BitVec 7) (code commit data : Nat) (s : State) : (raiseTask t code commit data s).can = s.can := by rw [raiseTask_frame]
@[simp] theorem raiseTask_eth (t : BitVec 7) (code commit data : Nat) (s : State) : (raiseTask t code commit data s).eth = s.eth := by rw [raiseTask_frame]
@[simp] theorem raiseTask_ptp (t : BitVec 7) (code commit data : Nat) (s : State) : (raiseTask t code commit data s).ptp = s.ptp := by rw [raiseTask_frame]
@[simp] theorem raiseTask_pair (t : BitVec 7) (code commit data : Nat) (s : State) : (raiseTask t code commit data s).pair = s.pair := by rw [raiseTask_frame]
@[simp] theorem raiseTask_wdt (t : BitVec 7) (code commit data : Nat) (s : State) : (raiseTask t code commit data s).wdt = s.wdt := by rw [raiseTask_frame]
@[simp] theorem raiseTask_fw (t : BitVec 7) (code commit data : Nat) (s : State) : (raiseTask t code commit data s).fw = s.fw := by rw [raiseTask_frame]
@[simp] theorem raiseTask_free (t : BitVec 7) (code commit data : Nat) (s : State) : (raiseTask t code commit data s).free = s.free := by rw [raiseTask_frame]
@[simp] theorem raiseTask_pending (t : BitVec 7) (code commit data : Nat) (s : State) : (raiseTask t code commit data s).pending = s.pending := by rw [raiseTask_frame]

/-- A channel event changes the recorder, the host interface and host memory alone. -/
theorem raiseChan_frame (c code data : Nat) (s : State) :
    raiseChan c code data s = { s with host := (raiseChan c code data s).host, hostMem := (raiseChan c code data s).hostMem, recorder := (raiseChan c code data s).recorder } := raise_frame _ _ _ _ s

@[simp] theorem raiseChan_factory (c code data : Nat) (s : State) : (raiseChan c code data s).factory = s.factory := by rw [raiseChan_frame]
@[simp] theorem raiseChan_time (c code data : Nat) (s : State) : (raiseChan c code data s).time = s.time := by rw [raiseChan_frame]
@[simp] theorem raiseChan_mode (c code data : Nat) (s : State) : (raiseChan c code data s).mode = s.mode := by rw [raiseChan_frame]
@[simp] theorem raiseChan_power (c code data : Nat) (s : State) : (raiseChan c code data s).power = s.power := by rw [raiseChan_frame]
@[simp] theorem raiseChan_ret (c code data : Nat) (s : State) : (raiseChan c code data s).ret = s.ret := by rw [raiseChan_frame]
@[simp] theorem raiseChan_proj (c code data : Nat) (s : State) : (raiseChan c code data s).proj = s.proj := by rw [raiseChan_frame]
@[simp] theorem raiseChan_prof (c code data : Nat) (s : State) : (raiseChan c code data s).prof = s.prof := by rw [raiseChan_frame]
@[simp] theorem raiseChan_tasks (c code data : Nat) (s : State) : (raiseChan c code data s).tasks = s.tasks := by rw [raiseChan_frame]
@[simp] theorem raiseChan_stalls (c code data : Nat) (s : State) : (raiseChan c code data s).stalls = s.stalls := by rw [raiseChan_frame]
@[simp] theorem raiseChan_barns (c code data : Nat) (s : State) : (raiseChan c code data s).barns = s.barns := by rw [raiseChan_frame]
@[simp] theorem raiseChan_yard (c code data : Nat) (s : State) : (raiseChan c code data s).yard = s.yard := by rw [raiseChan_frame]
@[simp] theorem raiseChan_commit (c code data : Nat) (s : State) : (raiseChan c code data s).commit = s.commit := by rw [raiseChan_frame]
@[simp] theorem raiseChan_chan (c code data : Nat) (s : State) : (raiseChan c code data s).chan = s.chan := by rw [raiseChan_frame]
@[simp] theorem raiseChan_field (c code data : Nat) (s : State) : (raiseChan c code data s).field = s.field := by rw [raiseChan_frame]
@[simp] theorem raiseChan_loops (c code data : Nat) (s : State) : (raiseChan c code data s).loops = s.loops := by rw [raiseChan_frame]
@[simp] theorem raiseChan_ihloz (c code data : Nat) (s : State) : (raiseChan c code data s).ihloz = s.ihloz := by rw [raiseChan_frame]
@[simp] theorem raiseChan_star (c code data : Nat) (s : State) : (raiseChan c code data s).star = s.star := by rw [raiseChan_frame]
@[simp] theorem raiseChan_can (c code data : Nat) (s : State) : (raiseChan c code data s).can = s.can := by rw [raiseChan_frame]
@[simp] theorem raiseChan_eth (c code data : Nat) (s : State) : (raiseChan c code data s).eth = s.eth := by rw [raiseChan_frame]
@[simp] theorem raiseChan_ptp (c code data : Nat) (s : State) : (raiseChan c code data s).ptp = s.ptp := by rw [raiseChan_frame]
@[simp] theorem raiseChan_pair (c code data : Nat) (s : State) : (raiseChan c code data s).pair = s.pair := by rw [raiseChan_frame]
@[simp] theorem raiseChan_wdt (c code data : Nat) (s : State) : (raiseChan c code data s).wdt = s.wdt := by rw [raiseChan_frame]
@[simp] theorem raiseChan_fw (c code data : Nat) (s : State) : (raiseChan c code data s).fw = s.fw := by rw [raiseChan_frame]
@[simp] theorem raiseChan_free (c code data : Nat) (s : State) : (raiseChan c code data s).free = s.free := by rw [raiseChan_frame]
@[simp] theorem raiseChan_pending (c code data : Nat) (s : State) : (raiseChan c code data s).pending = s.pending := by rw [raiseChan_frame]

/-! ### Posted bytes -/

@[simp] theorem leBytes_length (n v : Nat) : (leBytes n v).length = n := by
  induction n generalizing v <;> simp [leBytes, *]

/-- A completion has 16 bytes. -/
@[simp] theorem completionBytes_length (tag : Half) (status : Byte) (now : Word) (result : Nat) :
    (completionBytes tag status now result).length = 16 := by
  simp [completionBytes]

/-- A posted write leaves every address below and above it. -/
theorem hostWrite_out (a : Nat) (b : Bytes) (s : State) {x : Nat} (h : x < a ∨ a + b.length ≤ x) :
    Mem.find (hostWrite a b s).hostMem x = Mem.find s.hostMem x := by
  unfold hostWrite
  split
  · exact Mem.find_putAll_out _ _ _ h
  · rfl

/-- A posted write is read back while the link is up. -/
theorem hostWrite_in (a : Nat) (b : Bytes) (s : State) (hl : s.host.linkUp = true) (i : Nat) (h : i < b.length) :
    Mem.find (hostWrite a b s).hostMem (a + i) = b[i]? := by
  unfold hostWrite
  rw [if_pos hl]
  exact Mem.find_putAll_in _ _ _ _ h

end Sys2Proof.Machine
end

