-- ==== Sys2Proof/Laws/Kept.lean ====
section
/-! SUPPORT. How what no command undoes is shown of an operation: the rules for updates, lists and branches. -/

namespace Sys2Proof.Machine

theorem Kept.refl (s : State) : Kept s s := ⟨rfl, rfl, Nat.le_refl _, id, id⟩

theorem Kept.trans {a b c : State} (h : Kept a b) (k : Kept b c) : Kept a c :=
  ⟨k.queue.trans h.queue, k.factory.trans h.factory, Nat.le_trans h.free k.free, fun e => k.locked (h.locked e),
    fun e => k.mem (h.mem e)⟩

/-- An update that keeps the queue, the factory record, the free values taken, the seal and the memories. -/
theorem Kept.upd {a b : State} {time : TimeSt} {mode : ModeSt} {power : PowerSt} {host : HostIf} {recorder : RecSt}
    {ret : RetSt} {proj : ProjSt} {prof : ProfSt} {tasks : Vector TaskSt 128} {stalls : Vector Stall 20} {barns :
    Vector Barn 4} {yard : YardSt} {commit : CommitSt} {chan : ChanSt} {field : FieldSt} {loops : Vector LoopCh 32}
    {ihloz : IhlozSt} {star : StarSt} {can : Vector CanSt 4} {eth : Vector EthSt 2} {ptp : PtpSt} {pair : PairSt} {wdt
    : WdtSt} {fw : FwSt} (h : Kept a b) (hl : ret.sealLock = b.ret.sealLock) (h2 : ret.mram = b.ret.mram) (h3 :
    commit.newest = b.commit.newest) (h4 : commit.older = b.commit.older) (h5 : stalls = b.stalls) (h6 : fw.slot0.image = b.fw.slot0.image) (h7 : fw.slot1.image = b.fw.slot1.image) : Kept
    a ⟨b.factory, time, mode, power,
    host, b.hostMem, recorder, ret, proj, prof, tasks, stalls, barns, yard, commit, chan, field, loops, ihloz, star,
    can, eth, ptp, pair, wdt, fw, b.free, b.pending⟩ := by
  refine h.trans ⟨rfl, rfl, Nat.le_refl _, fun e => hl.trans e, fun e => ?_⟩
  simpa only [State.memWf, State.localWf, h2, h3, h4, h5, h6, h7] using e

/-- An update that takes free values. -/
theorem Kept.take {a b : State} {time : TimeSt} {mode : ModeSt} {power : PowerSt} {host : HostIf} {recorder : RecSt}
    {ret : RetSt} {proj : ProjSt} {prof : ProfSt} {tasks : Vector TaskSt 128} {stalls : Vector Stall 20} {barns :
    Vector Barn 4} {yard : YardSt} {commit : CommitSt} {chan : ChanSt} {field : FieldSt} {loops : Vector LoopCh 32}
    {ihloz : IhlozSt} {star : StarSt} {can : Vector CanSt 4} {eth : Vector EthSt 2} {ptp : PtpSt} {pair : PairSt} {wdt
    : WdtSt} {fw : FwSt} (h : Kept a b) {n : Nat} (hl : ret.sealLock = b.ret.sealLock) (h2 : ret.mram = b.ret.mram)
    (h3 : commit.newest = b.commit.newest) (h4 : commit.older = b.commit.older) (h5 : stalls = b.stalls) (h6 : fw.slot0.image = b.fw.slot0.image) (h7 : fw.slot1.image = b.fw.slot1.image) : Kept
    a ⟨b.factory, time, mode,
    power, host, b.hostMem, recorder, ret, proj, prof, tasks, stalls, barns, yard, commit, chan, field, loops, ihloz,
    star, can, eth, ptp, pair, wdt, fw, b.free + n, b.pending⟩ := by
  refine h.trans ⟨rfl, rfl, Nat.le_add_right _ _, fun e => hl.trans e, fun e => ?_⟩
  simpa only [State.memWf, State.localWf, h2, h3, h4, h5, h6, h7] using e

/-- An update of home memory that keeps its canonical form. -/
theorem Kept.home {a b : State} {time : TimeSt} {mode : ModeSt} {power : PowerSt} {host : HostIf} {recorder : RecSt}
    {ret : RetSt} {proj : ProjSt} {prof : ProfSt} {tasks : Vector TaskSt 128} {stalls : Vector Stall 20} {barns :
    Vector Barn 4} {yard : YardSt} {commit : CommitSt} {chan : ChanSt} {field : FieldSt} {loops : Vector LoopCh 32}
    {ihloz : IhlozSt} {star : StarSt} {can : Vector CanSt 4} {eth : Vector EthSt 2} {ptp : PtpSt} {pair : PairSt} {wdt
    : WdtSt} {fw : FwSt} (h : Kept a b) (hl : ret.sealLock = b.ret.sealLock) (h2 : ret.mram = b.ret.mram) (h3 : Mem.wf0 b.commit.newest = true → Mem.wf0 b.commit.older = true →
    Mem.wf0 commit.newest = true) (h4 : Mem.wf0 b.commit.newest = true → Mem.wf0
    b.commit.older = true → Mem.wf0 commit.older = true) (h5 : stalls = b.stalls) (h6 : fw.slot0.image = b.fw.slot0.image) (h7 : fw.slot1.image = b.fw.slot1.image) : Kept
    a ⟨b.factory, time, mode, power, host, b.hostMem,
    recorder, ret, proj, prof, tasks, stalls, barns, yard, commit, chan, field, loops, ihloz, star, can, eth, ptp,
    pair, wdt, fw, b.free, b.pending⟩ := by
  refine h.trans ⟨rfl, rfl, Nat.le_refl _, fun e => hl.trans e, fun e => ?_⟩
  simp only [State.memWf, State.localWf, Bool.and_eq_true, h2, h5, h6, h7] at e ⊢
  exact ⟨⟨⟨e.1.1.1, h3 e.1.1.2 e.1.2⟩, h4 e.1.1.2 e.1.2⟩, e.2⟩

/-- An update of the retain store that keeps its canonical form and a locked seal. -/
theorem Kept.store {a b : State} {time : TimeSt} {mode : ModeSt} {power : PowerSt} {host : HostIf} {recorder : RecSt}
    {ret : RetSt} {proj : ProjSt} {prof : ProfSt} {tasks : Vector TaskSt 128} {stalls : Vector Stall 20} {barns :
    Vector Barn 4} {yard : YardSt} {commit : CommitSt} {chan : ChanSt} {field : FieldSt} {loops : Vector LoopCh 32}
    {ihloz : IhlozSt} {star : StarSt} {can : Vector CanSt 4} {eth : Vector EthSt 2} {ptp : PtpSt} {pair : PairSt} {wdt
    : WdtSt} {fw : FwSt} (h : Kept a b) (hl : b.ret.sealLock = true → ret.sealLock = true) (h2 : Mem.wf0 b.ret.mram =
    true → Mem.wf0 ret.mram = true) (h3 : commit.newest = b.commit.newest) (h4 : commit.older = b.commit.older) (h5 : stalls = b.stalls) (h6 : fw.slot0.image = b.fw.slot0.image) (h7 : fw.slot1.image = b.fw.slot1.image) : Kept
    a ⟨b.factory, time, mode, power, host, b.hostMem, recorder, ret, proj, prof, tasks, stalls, barns, yard, commit,
    chan, field, loops, ihloz, star, can, eth, ptp, pair, wdt, fw, b.free, b.pending⟩ := by
  refine h.trans ⟨rfl, rfl, Nat.le_refl _, hl, fun e => ?_⟩
  simp only [State.memWf, State.localWf, Bool.and_eq_true, h3, h4, h5, h6, h7] at e ⊢
  exact ⟨⟨⟨⟨e.1.1.1.1, h2 e.1.1.1.2⟩, e.1.1.2⟩, e.1.2⟩, e.2⟩

/-- An update of host memory that keeps its canonical form. -/
theorem Kept.host {a b : State} {time : TimeSt} {mode : ModeSt} {power : PowerSt} {host : HostIf} {hostMem : Mem}
    {recorder : RecSt} {ret : RetSt} {proj : ProjSt} {prof : ProfSt} {tasks : Vector TaskSt 128} {stalls : Vector
    Stall 20} {barns : Vector Barn 4} {yard : YardSt} {commit : CommitSt} {chan : ChanSt} {field : FieldSt} {loops :
    Vector LoopCh 32} {ihloz : IhlozSt} {star : StarSt} {can : Vector CanSt 4} {eth : Vector EthSt 2} {ptp : PtpSt}
    {pair : PairSt} {wdt : WdtSt} {fw : FwSt} (h : Kept a b) (hl : ret.sealLock = b.ret.sealLock) (h2 : ret.mram =
    b.ret.mram) (h3 : commit.newest = b.commit.newest) (h4 : commit.older = b.commit.older) (h1 : Mem.wf b.hostMem =
    true → Mem.wf hostMem = true) (h5 : stalls = b.stalls) (h6 : fw.slot0.image = b.fw.slot0.image) (h7 : fw.slot1.image = b.fw.slot1.image) : Kept
    a ⟨b.factory, time, mode, power, host, hostMem, recorder, ret, proj, prof,
    tasks, stalls, barns, yard, commit, chan, field, loops, ihloz, star, can, eth, ptp, pair, wdt, fw, b.free,
    b.pending⟩ := by
  refine h.trans ⟨rfl, rfl, Nat.le_refl _, fun e => hl.trans e, fun e => ?_⟩
  simp only [State.memWf, State.localWf, Bool.and_eq_true, h2, h3, h4, h5, h6, h7] at e ⊢
  exact ⟨⟨⟨⟨h1 e.1.1.1.1, e.1.1.1.2⟩, e.1.1.2⟩, e.1.2⟩, e.2⟩

/-- An update of the local data of stalls and of the firmware slots that keeps their canonical form. -/
theorem Kept.localData {a b : State} {stalls : Vector Stall 20} {fw : FwSt} (h : Kept a b)
    (hw : b.localWf = true → State.localWf { b with stalls := stalls, fw := fw } = true) :
    Kept a { b with stalls := stalls, fw := fw } := by
  refine h.trans ⟨rfl, rfl, Nat.le_refl _, id, fun e => ?_⟩
  simp only [State.memWf, Bool.and_eq_true] at e ⊢
  exact ⟨e.1, hw e.2⟩

/-- What an operation leads to by way of a state that keeps. -/
theorem Kept.cut {a c : State} (t : State) (h : Kept a t) (k : Kept a t → Kept a c) : Kept a c := k h

/-- A list of operations, each of which keeps. -/
theorem Kept.foldl {α : Type} {a : State} {f : State → α → State} {l : List α} {s : State}
    (hf : ∀ (s : State) (x : α), Kept a s → Kept a (f s x)) (h : Kept a s) : Kept a (l.foldl f s) := by
  induction l generalizing s with
  | nil => exact h
  | cons x l ih => exact ih (hf s x h)

/-- A list of operations that carry something beside the state. -/
theorem Kept.foldl_fst {α β : Type} {a : State} {f : State × β → α → State × β} {l : List α} {p : State × β}
    (hf : ∀ (p : State × β) (x : α), Kept a p.1 → Kept a (f p x).1) (h : Kept a p.1) : Kept a (l.foldl f p).1 := by
  induction l generalizing p with
  | nil => exact h
  | cons x l ih => exact ih (hf p x h)

/-- A list of operations that carry something beside the state. -/
theorem Kept.foldl_snd {α β : Type} {a : State} {f : β × State → α → β × State} {l : List α} {p : β × State}
    (hf : ∀ (p : β × State) (x : α), Kept a p.2 → Kept a (f p x).2) (h : Kept a p.2) : Kept a (l.foldl f p).2 := by
  induction l generalizing p with
  | nil => exact h
  | cons x l ih => exact ih (hf p x h)

/-- Both branches keep. -/
theorem Kept.ite {a s t : State} {c : Prop} [Decidable c] (h : Kept a s) (k : Kept a t) : Kept a (if c then s else t) := by
  split
  · exact h
  · exact k

end Sys2Proof.Machine
end

