-- ==== Sys2Proof/Laws/Home.lean ====
section
/-! SUPPORT. Home memory and the retain store: every way of writing them keeps their canonical form. -/

namespace Sys2Proof.Machine

/-- A list of operations on a memory, each of which keeps the canonical form. -/
theorem Mem.wf0_fold {α : Type} {f : Mem → α → Mem} {l : List α} {m : Mem}
    (hf : ∀ (m : Mem) (x : α), Mem.wf0 m = true → Mem.wf0 (f m x) = true) (h : Mem.wf0 m = true) :
    Mem.wf0 (l.foldl f m) = true := by
  induction l generalizing m with
  | nil => exact h
  | cons x l ih => exact ih (hf m x h)

theorem scatter_wf0 {l : List Sel} {b : Bytes} {m : Mem} (h : Mem.wf0 m = true) : Mem.wf0 (scatter l b m) = true := by
  induction l generalizing b m with
  | nil => exact h
  | cons x l ih => exact ih (Mem.wf0_setAll _ _ h)

theorem resumeTimer_wf0 {now key : Nat} {m : Mem} (h : Mem.wf0 m = true) : Mem.wf0 (resumeTimer now key m) = true := by
  unfold resumeTimer
  dsimp only
  split
  · exact Mem.wf0_setAll _ _ h
  · exact h

theorem resumeTimers_wf0 {p : Layout} {now : Nat} {m : Mem} (h : Mem.wf0 m = true) :
    Mem.wf0 (resumeTimers p now m) = true := by
  refine Mem.wf0_fold (fun m r hm => Mem.wf0_fold (fun m k hk => ?_) hm) h
  split
  · exact resumeTimer_wf0 hk
  · exact hk

theorem initTask_wf0 {p : ProjSt} {r : TaskRec} {m : Mem} (h : Mem.wf0 m = true) : Mem.wf0 (initTask p m r) = true := by
  unfold initTask
  exact Mem.wf0_setAll _ _ (Mem.wf0_setAll _ _ h)

theorem initialHome_wf0 (p : ProjSt) : Mem.wf0 (initialHome p) = true :=
  Mem.wf0_fold (fun _ _ h => initTask_wf0 h) (Mem.wf0_setAll _ _ rfl)

/-- Keeping an older version of lines leaves the newest one. -/
theorem shiftLines_newest (n : Nat) (l : List Nat) (c : CommitSt) : (l.foldl (shiftLine n) c).newest = c.newest := by
  induction l generalizing c with
  | nil => rfl
  | cons x l ih => exact ih (shiftLine n c x)

theorem shiftLines_wf0 (n : Nat) (l : List Nat) (c : CommitSt) (h : Mem.wf0 c.older = true) :
    Mem.wf0 (l.foldl (shiftLine n) c).older = true := by
  induction l generalizing c with
  | nil => exact h
  | cons x l ih => exact ih (shiftLine n c x) (Mem.wf0_setAll _ _ h)

/-- A commit writes its bytes over the newest version. -/
theorem commitBytes_newest (n : Nat) (m : Mem) (c : CommitSt) :
    (commitBytes n m c).newest = m.foldl (fun h b => Mem.set h b.1 b.2) c.newest := by
  unfold commitBytes
  dsimp only
  rw [shiftLines_newest]

theorem commitBytes_newest_wf0 {n : Nat} {m : Mem} {c : CommitSt} (h : Mem.wf0 c.newest = true) :
    Mem.wf0 (commitBytes n m c).newest = true := by
  rw [commitBytes_newest]
  exact Mem.wf0_fold (fun _ _ h => Mem.wf0_set _ _ h) h

theorem commitBytes_older_wf0 {n : Nat} {m : Mem} {c : CommitSt} (h : Mem.wf0 c.older = true) :
    Mem.wf0 (commitBytes n m c).older = true := shiftLines_wf0 n _ c h

/-- A line applied in a standby keeps the canonical form of home memory. -/
theorem applyLine_wf0 {t : BitVec 7} {n : Nat} {c : CommitSt} {l : BaleLine}
    (h : Mem.wf0 c.newest = true ∧ Mem.wf0 c.older = true) :
    Mem.wf0 (applyLine t n c l).newest = true ∧ Mem.wf0 (applyLine t n c l).older = true := by
  unfold applyLine
  dsimp only
  split
  · exact ⟨commitBytes_newest_wf0 h.1, commitBytes_older_wf0 h.2⟩
  · exact h

/-- Lines applied in a standby keep the canonical form of home memory. -/
theorem applyLines_wf0 {t : BitVec 7} {n : Nat} {l : List BaleLine} {c : CommitSt}
    (h : Mem.wf0 c.newest = true ∧ Mem.wf0 c.older = true) :
    Mem.wf0 (l.foldl (applyLine t n) c).newest = true ∧ Mem.wf0 (l.foldl (applyLine t n) c).older = true := by
  induction l generalizing c with
  | nil => exact h
  | cons x l ih => exact ih (applyLine_wf0 h)

/-! ### The retain store -/

/-- Storing a page leaves the seal lock. -/
@[simp] theorem storePage_seal (p : Nat) (b : Bytes) (r : RetSt) : (storePage p b r).sealLock = r.sealLock := rfl

theorem storePage_wf0 {p : Nat} {b : Bytes} {r : RetSt} (h : Mem.wf0 r.mram = true) :
    Mem.wf0 (storePage p b r).mram = true := Mem.wf0_setAll _ _ h

/-- Writing a record leaves the seal lock. -/
@[simp] theorem writeRecord_seal (total o : Nat) (e : EventRec) (r : RetSt) :
    (writeRecord total o e r).sealLock = r.sealLock := rfl

theorem writeRecord_wf0 {total o : Nat} {e : EventRec} {r : RetSt} (h : Mem.wf0 r.mram = true) :
    Mem.wf0 (writeRecord total o e r).mram = true := Mem.wf0_setAll _ _ (Mem.wf0_setAll _ _ h)

theorem writeIndex_wf0 {total : Nat} {r : RetSt} (h : Mem.wf0 r.mram = true) : Mem.wf0 (writeIndex total r).mram = true :=
  Mem.wf0_setAll _ _ h

theorem writeChecked_wf0 {mv total o : Nat} {e : EventRec} {r : RetSt} (h : Mem.wf0 r.mram = true) :
    Mem.wf0 (writeChecked mv total o e r).mram = true := by
  unfold writeChecked
  split
  · dsimp only
    split
    · exact writeIndex_wf0 (storePage_wf0 h)
    · exact storePage_wf0 h
  · exact h

/-- Writing a record under the energy check leaves the seal lock. -/
@[simp] theorem writeChecked_seal (mv total o : Nat) (e : EventRec) (r : RetSt) :
    (writeChecked mv total o e r).sealLock = r.sealLock := by
  unfold writeChecked
  split
  · dsimp only
    split <;> rfl
  · rfl

theorem flushRecorder_wf0 {s : State} (h : Mem.wf0 s.ret.mram = true) : Mem.wf0 (flushRecorder s).mram = true := by
  unfold flushRecorder
  generalize s.recorder.queue = q
  generalize s.ret = r at h
  induction q generalizing r with
  | nil => exact h
  | cons e q ih => exact ih _ (writeChecked_wf0 h)

/-- Marking a copy leaves the seal lock. -/
@[simp] theorem setValid_seal (c : BitVec 2) (v : Bool) (r : RetSt) : (setValid c v r).sealLock = r.sealLock := by
  unfold setValid
  split <;> rfl

/-- Marking a copy leaves the store's bytes. -/
@[simp] theorem setValid_mram (c : BitVec 2) (v : Bool) (r : RetSt) : (setValid c v r).mram = r.mram := by
  unfold setValid
  split <;> rfl

end Sys2Proof.Machine
end

