-- ==== Sys2Proof/Laws/KeptBase.lean ====
section
/-! SUPPORT. What no command undoes, for the shared operations of
operations, home memory, channels, outputs, the retain controller's queue, projects, bales, host errors, the CAN bus and modes: each keeps the queue, the factory record, the free values
taken, a locked seal and the canonical form of every memory. -/

namespace Sys2Proof.Machine

/-! ### Ops -/


theorem netTicks_kept {z0 : State} {n : Nat} {s : State} (h0 : Kept z0 s) : Kept z0 (netTicks n s) := by
  dsimp only [netTicks]
  repeat' first
    | with_reducible assumption
    | fail_if_no_progress (with_reducible refine Kept.upd ?_ rfl rfl rfl rfl rfl rfl rfl)

theorem advanceIhloz_kept {z0 : State} {tick : Int} {s : State} (h0 : Kept z0 s) : Kept z0 (advanceIhloz tick s) := by
  dsimp only [advanceIhloz]
  repeat' first
    | with_reducible assumption
    | with_reducible apply netTicks_kept

theorem advanceLocal_kept {z0 : State} {ns : Nat} {s : State} (h0 : Kept z0 s) : Kept z0 (advanceLocal ns s) := by
  dsimp only [advanceLocal]
  repeat' first
    | with_reducible assumption
    | with_reducible apply netTicks_kept

theorem advanceTask_kept {z0 : State} {instant : Nat} {s : State} (h0 : Kept z0 s) : Kept z0 (advanceTask instant s) :=
    by
  dsimp only [advanceTask]
  repeat' first
    | with_reducible assumption
    | with_reducible apply netTicks_kept

theorem advanceTo_kept {z0 : State} {us : Nat} {s : State} (h0 : Kept z0 s) : Kept z0 (advanceTo us s) := by
  dsimp only [advanceTo]
  repeat' first
    | with_reducible assumption
    | with_reducible apply advanceTask_kept

theorem advanceNet_kept {z0 : State} {n : Nat} {s : State} (h0 : Kept z0 s) : Kept z0 (advanceNet n s) := by
  dsimp only [advanceNet]
  repeat' first
    | with_reducible assumption
    | with_reducible apply netTicks_kept

theorem modTask_kept {z0 : State} {t : BitVec 7} {f : TaskSt → TaskSt} {s : State} (h0 : Kept z0 s) : Kept z0 (modTask t
    f s) := by
  dsimp only [modTask]
  repeat' first
    | with_reducible assumption
    | fail_if_no_progress (with_reducible refine Kept.upd ?_ rfl rfl rfl rfl rfl rfl rfl)

theorem modTasks_kept {z0 : State} {f : TaskSt → TaskSt} {s : State} (h0 : Kept z0 s) : Kept z0 (modTasks f s) := by
  dsimp only [modTasks]
  repeat' first
    | with_reducible assumption
    | fail_if_no_progress (with_reducible refine Kept.upd ?_ rfl rfl rfl rfl rfl rfl rfl)

theorem modCtr_kept {z0 : State} {t : BitVec 7} {f : TaskCtr → TaskCtr} {s : State} (h0 : Kept z0 s) : Kept z0 (modCtr t
    f s) := by
  dsimp only [modCtr]
  repeat' first
    | with_reducible assumption
    | with_reducible apply modTask_kept

theorem modStall_kept {z0 : State} {u : StallId} {f : Stall → Stall} {s : State}
    (hf : ∀ x : Stall, Mem.wf x.mem = true → Mem.wf (f x).mem = true) (h0 : Kept z0 s) : Kept z0 (modStall u f s) := by
  refine Kept.localData h0 (fun e => ?_)
  simp only [State.localWf, Bool.and_eq_true, List.all_eq_true] at e ⊢
  refine ⟨⟨fun i hi => ?_, e.1.2⟩, e.2⟩
  by_cases h : (stallIx u).val = i.val
  · have : Mem.wf (f (stall s u)).mem = true := hf _ (e.1.1 (stallIx u) (List.mem_finRange _))
    simpa [Vector.getElem_set, h] using this
  · simpa [Vector.getElem_set, h] using e.1.1 i hi

theorem modBarn_kept {z0 : State} {b : Fin 4} {f : Barn → Barn} {s : State} (h0 : Kept z0 s) : Kept z0 (modBarn b f s)
    := by
  dsimp only [modBarn]
  repeat' first
    | with_reducible assumption
    | fail_if_no_progress (with_reducible refine Kept.upd ?_ rfl rfl rfl rfl rfl rfl rfl)

theorem modRing_kept {z0 : State} {k : Fin 8} {f : Ring → Ring} {s : State} (h0 : Kept z0 s) : Kept z0 (modRing k f s)
    := by
  dsimp only [modRing]
  repeat' first
    | with_reducible assumption
    | fail_if_no_progress (with_reducible refine Kept.upd ?_ rfl rfl rfl rfl rfl rfl rfl)

theorem hostWrite_kept {z0 : State} {addr : Nat} {b : Bytes} {s : State} (h0 : Kept z0 s) : Kept z0 (hostWrite addr b s)
    := by
  unfold hostWrite
  split
  · exact Kept.host h0 rfl rfl rfl rfl (Mem.wf_putAll _ _) rfl rfl rfl
  · exact h0

theorem writeExport_kept {z0 : State} {x : Export} {e : Nat × Word × Bytes} {s : State} (h0 : Kept z0 s) : Kept z0
    (writeExport x e s) := by
  dsimp only [writeExport]
  repeat' first
    | with_reducible assumption
    | with_reducible apply hostWrite_kept

theorem finishExport_kept {z0 : State} {x : Export} {s : State} (h0 : Kept z0 s) : Kept z0 (finishExport x s) := by
  dsimp only [finishExport]
  repeat' first
    | with_reducible assumption
    | with_reducible apply writeExport_kept
    | with_reducible apply Kept.foldl
    | fail_if_no_progress (with_reducible refine Kept.upd ?_ rfl rfl rfl rfl rfl rfl rfl)
    | split
    | intro _

theorem postEvent_kept {z0 : State} {r : EventRec} {s : State} (h0 : Kept z0 s) : Kept z0 (postEvent r s) := by
  dsimp only [postEvent]
  repeat' first
    | with_reducible assumption
    | with_reducible apply hostWrite_kept
    | fail_if_no_progress (with_reducible refine Kept.upd ?_ rfl rfl rfl rfl rfl rfl rfl)
    | split

theorem repost_kept {z0 : State} {l : List (Nat × EventRec)} {s : State} (h0 : Kept z0 s) : Kept z0 (repost l s) := by
  dsimp only [repost]
  repeat' first
    | with_reducible assumption
    | with_reducible apply postEvent_kept
    | with_reducible apply Kept.foldl
    | fail_if_no_progress (with_reducible refine Kept.upd ?_ rfl rfl rfl rfl rfl rfl rfl)
    | split
    | intro _

theorem raiseFold_kept {z0 : State} {o : Nat} {now : Word} {commit data : Nat} {s : State} (h0 : Kept z0 s) : Kept z0
    (raiseFold o now commit data s) := by
  dsimp only [raiseFold]
  repeat' first
    | with_reducible assumption
    | fail_if_no_progress (with_reducible refine Kept.upd ?_ rfl rfl rfl rfl rfl rfl rfl)
    | split

theorem raiseNew_kept {z0 : State} {src code : Half} {now : Word} {commit data : Nat} {s : State} (h0 : Kept z0 s) :
    Kept z0 (raiseNew src code now commit data s) := by
  dsimp only [raiseNew]
  repeat' first
    | with_reducible assumption
    | with_reducible apply postEvent_kept
    | with_reducible apply repost_kept
    | fail_if_no_progress (with_reducible refine Kept.upd ?_ rfl rfl rfl rfl rfl rfl rfl)
    | split

theorem raise_kept {z0 : State} {src code commit data : Nat} {s : State} (h0 : Kept z0 s) : Kept z0 (raise src code
    commit data s) := by
  dsimp only [raise]
  repeat' first
    | with_reducible assumption
    | with_reducible apply raiseFold_kept
    | with_reducible apply raiseNew_kept
    | fail_if_no_progress (with_reducible refine Kept.upd ?_ rfl rfl rfl rfl rfl rfl rfl)
    | split

theorem raiseTask_kept {z0 : State} {t : BitVec 7} {code commit data : Nat} {s : State} (h0 : Kept z0 s) : Kept z0
    (raiseTask t code commit data s) := by
  dsimp only [raiseTask]
  repeat' first
    | with_reducible assumption
    | with_reducible apply raise_kept

theorem raiseChan_kept {z0 : State} {c code data : Nat} {s : State} (h0 : Kept z0 s) : Kept z0 (raiseChan c code data s)
    := by
  dsimp only [raiseChan]
  repeat' first
    | with_reducible assumption
    | with_reducible apply raise_kept

theorem complete_kept {z0 : State} {k : Fin 8} {tag : Half} {status : Byte} {result : Nat} {s : State} (h0 : Kept z0 s)
    : Kept z0 (complete k tag status result s) := by
  dsimp only [complete]
  repeat' first
    | with_reducible assumption
    | with_reducible apply modRing_kept
    | with_reducible apply hostWrite_kept
    | fail_if_no_progress (with_reducible refine Kept.upd ?_ rfl rfl rfl rfl rfl rfl rfl)

theorem defer_kept {z0 : State} {d : Desc} {op : Nat} {w : Wait} {s : State} (h0 : Kept z0 s) : Kept z0 (defer d op w s)
    := by
  dsimp only [defer]
  repeat' first
    | with_reducible assumption
    | with_reducible apply modRing_kept

theorem completeOut_kept {z0 : State} {k : Fin 8} {p : Wait → Bool} {status : Byte} {result : Nat} {off : Nat} {out :
    Bytes} {s : State} (h0 : Kept z0 s) : Kept z0 (completeOut k p status result off out s) := by
  dsimp only [completeOut]
  repeat' first
    | with_reducible assumption
    | with_reducible apply modRing_kept
    | with_reducible apply hostWrite_kept
    | with_reducible apply complete_kept
    | with_reducible refine Kept.take ?_ rfl rfl rfl rfl rfl rfl rfl
    | fail_if_no_progress (with_reducible refine Kept.upd ?_ rfl rfl rfl rfl rfl rfl rfl)
    | split

theorem completeWait_kept {z0 : State} {k : Fin 8} {p : Wait → Bool} {status : Byte} {result : Nat} {s : State} (h0 :
    Kept z0 s) : Kept z0 (completeWait k p status result s) := by
  dsimp only [completeWait]
  repeat' first
    | with_reducible assumption
    | with_reducible apply completeOut_kept

theorem takeFree_kept {z0 : State} {s : State} (h0 : Kept z0 s) : Kept z0 (takeFree s).2 := by
  dsimp only [takeFree]
  repeat' first
    | with_reducible assumption
    | with_reducible refine Kept.take ?_ rfl rfl rfl rfl rfl rfl rfl

theorem takeFree_kept_eq {z0 : State} {s : State} (h0 : Kept z0 s) {v0} {r0 : State} (e0 : (takeFree s) = (v0, r0)) :
    Kept z0 r0 := by
  have := takeFree_kept (z0 := z0) (s := s)  h0
  rw [e0] at this
  exact this

theorem freeBytes_kept {z0 : State} {n : Nat} {s : State} (h0 : Kept z0 s) : Kept z0 (freeBytes n s).2 := by
  dsimp only [freeBytes]
  repeat' first
    | with_reducible assumption
    | with_reducible refine Kept.take ?_ rfl rfl rfl rfl rfl rfl rfl

theorem freeBytes_kept_eq {z0 : State} {n : Nat} {s : State} (h0 : Kept z0 s) {v0} {r0 : State} (e0 : (freeBytes n s) =
    (v0, r0)) : Kept z0 r0 := by
  have := freeBytes_kept (z0 := z0) (n := n) (s := s)  h0
  rw [e0] at this
  exact this

theorem startNext_kept {z0 : State} {k : Fin 8} {op : Nat} {s : State} (h0 : Kept z0 s) : Kept z0 (startNext k op s) :=
    by
  dsimp only [startNext]
  repeat' first
    | with_reducible assumption
    | with_reducible apply modRing_kept
    | fail_if_no_progress (with_reducible refine Kept.upd ?_ rfl rfl rfl rfl rfl rfl rfl)

theorem checked_kept {z0 : State} {d : Desc} {checks : State → List (Bool × Byte)} {body : State → State} {s : State}
    (hbody : ∀ s : State, Kept z0 s → Kept z0 (body s)) (h0 : Kept z0 s) : Kept z0 (checked d checks body s) := by
  dsimp only [checked]
  repeat' first
    | with_reducible assumption
    | with_reducible apply complete_kept
    | with_reducible apply hbody
    | fail_if_no_progress (with_reducible refine Kept.upd ?_ rfl rfl rfl rfl rfl rfl rfl)
    | split

theorem unpredicted_kept {z0 : State} {d : Desc} {act : State → State} {s : State} (hact : ∀ s : State, Kept z0 s → Kept
    z0 (act s)) (h0 : Kept z0 s) : Kept z0 (unpredicted d act s) := by
  dsimp only [unpredicted]
  repeat' first
    | with_reducible assumption
    | with_reducible apply modRing_kept
    | with_reducible apply hostWrite_kept
    | with_reducible apply complete_kept
    | with_reducible apply freeBytes_kept
    | with_reducible apply hact
    | with_reducible refine Kept.take ?_ rfl rfl rfl rfl rfl rfl rfl
    | fail_if_no_progress (with_reducible refine Kept.upd ?_ rfl rfl rfl rfl rfl rfl rfl)
    | with_reducible refine freeBytes_kept_eq ?_ (by assumption)
    | split

theorem hostCommand_kept {z0 : State} {d : Desc} {op : Nat} {serial : Bool} {checks : State → List (Bool × Byte)} {body
    : State → State} {s : State} (hbody : ∀ s : State, Kept z0 s → Kept z0 (body s)) (h0 : Kept z0 s) : Kept z0
    (hostCommand d op serial checks body s) := by
  dsimp only [hostCommand]
  repeat' first
    | with_reducible assumption
    | with_reducible apply modRing_kept
    | with_reducible apply complete_kept
    | with_reducible apply startNext_kept
    | with_reducible apply checked_kept
    | with_reducible apply unpredicted_kept
    | with_reducible apply hbody
    | fail_if_no_progress (with_reducible refine Kept.upd ?_ rfl rfl rfl rfl rfl rfl rfl)
    | split
    | intro _

theorem ok_kept {z0 : State} {d : Desc} {result : Nat} {s : State} (h0 : Kept z0 s) : Kept z0 (ok d result s) := by
  dsimp only [ok]
  repeat' first
    | with_reducible assumption
    | with_reducible apply complete_kept

theorem fail_kept {z0 : State} {d : Desc} {status : Byte} {s : State} (h0 : Kept z0 s) : Kept z0 (fail d status s) := by
  dsimp only [fail]
  repeat' first
    | with_reducible assumption
    | with_reducible apply complete_kept

theorem output_kept {z0 : State} {d : Desc} {b : Bytes} {s : State} (h0 : Kept z0 s) : Kept z0 (output d b s) := by
  dsimp only [output]
  repeat' first
    | with_reducible assumption
    | with_reducible apply hostWrite_kept

theorem passMessage_kept {z0 : State} {ethernet : Bool} {origin : BitVec 5} {b : Bytes} {s : State} (h0 : Kept z0 s) :
    Kept z0 (passMessage ethernet origin b s) := by
  dsimp only [passMessage]
  repeat' first
    | with_reducible assumption
    | fail_if_no_progress (with_reducible refine Kept.upd ?_ rfl rfl rfl rfl rfl rfl rfl)
    | split

/-! ### Home -/


theorem setSlot_kept {z0 : State} {u : StallId} {f : Fin 4} {i : Option Inst} {s : State} (h0 : Kept z0 s) : Kept z0
    (setSlot u f i s) := by
  dsimp only [setSlot]
  repeat' first
    | with_reducible assumption
    | with_reducible apply modStall_kept
    | fail_if_no_progress (with_reducible refine Kept.upd ?_ rfl rfl rfl rfl rfl rfl rfl)
    | exact fun _ e => e

theorem modInst_kept {z0 : State} {u : StallId} {f : Fin 4} {g : Inst → Inst} {s : State} (h0 : Kept z0 s) : Kept z0
    (modInst u f g s) := by
  dsimp only [modInst]
  repeat' first
    | with_reducible assumption
    | with_reducible apply setSlot_kept

theorem markTorn_kept {z0 : State} {u : StallId} {f : Fin 4} {line : Nat} {s : State} (h0 : Kept z0 s) : Kept z0
    (markTorn u f line s) := by
  dsimp only [markTorn]
  repeat' first
    | with_reducible assumption
    | with_reducible apply modTask_kept
    | with_reducible apply raiseTask_kept
    | with_reducible apply modInst_kept
    | fail_if_no_progress (with_reducible refine Kept.upd ?_ rfl rfl rfl rfl rfl rfl rfl)
    | exact fun _ e => e
    | exact fun _ _ => rfl
    | exact fun _ e => Mem.wf_putAll _ _ e
    | exact fun _ _ => Mem.wf_putAll _ _ rfl
    | split

theorem addrFault_kept {z0 : State} {u : StallId} {f : Fin 4} {s : State} (h0 : Kept z0 s) : Kept z0 (addrFault u f s)
    := by
  dsimp only [addrFault]
  repeat' first
    | with_reducible assumption
    | with_reducible apply modInst_kept

theorem countAccess_kept {z0 : State} {u : StallId} {f : Fin 4} {line : Nat} {s : State} (h0 : Kept z0 s) : Kept z0
    (countAccess u f line s) := by
  dsimp only [countAccess]
  repeat' first
    | with_reducible assumption
    | fail_if_no_progress (with_reducible refine Kept.upd ?_ rfl rfl rfl rfl rfl rfl rfl)
    | split

theorem noteRead_kept {z0 : State} {u : StallId} {f : Fin 4} {own : Mem} {key n : Nat} {s : State} (h0 : Kept z0 s) :
    Kept z0 (noteRead u f own key n s) := by
  dsimp only [noteRead]
  repeat' first
    | with_reducible assumption
    | with_reducible apply markTorn_kept
    | with_reducible apply countAccess_kept
    | fail_if_no_progress (with_reducible refine Kept.upd ?_ rfl rfl rfl rfl rfl rfl rfl)
    | split

theorem bufferWrite_kept {z0 r0 : State} {u : StallId} {f : Fin 4} {key : Nat} {b : Bytes} {s : State} (h0 : Kept z0 s)
    (e0 : (bufferWrite u f key b s) = some r0) : Kept z0 r0 := by
  unfold bufferWrite at e0
  dsimp only at e0
  repeat' split at e0
  all_goals cases e0
  all_goals repeat' first
    | with_reducible assumption
    | with_reducible apply modCtr_kept
    | with_reducible apply setSlot_kept
    | with_reducible apply countAccess_kept

theorem closeCopy_kept {z0 : State} {u : StallId} {f : Fin 4} {s : State} (h0 : Kept z0 s) : Kept z0 (closeCopy u f s)
    := by
  dsimp only [closeCopy]
  repeat' first
    | with_reducible assumption
    | with_reducible apply modTask_kept
    | with_reducible apply modStall_kept
    | with_reducible apply modBarn_kept
    | fail_if_no_progress (with_reducible refine Kept.upd ?_ rfl rfl rfl rfl rfl rfl rfl)
    | exact fun _ e => e
    | exact fun _ _ => rfl
    | exact fun _ e => Mem.wf_putAll _ _ e
    | exact fun _ _ => Mem.wf_putAll _ _ rfl
    | split

theorem raiseAborted_kept {z0 : State} {t : BitVec 7} {copyB : Bool} {code detail held : Nat} {s : State} (h0 : Kept z0
    s) : Kept z0 (raiseAborted t copyB code detail held s) := by
  dsimp only [raiseAborted]
  repeat' first
    | with_reducible assumption
    | with_reducible apply raiseTask_kept

theorem abortInstance_kept {z0 : State} {t : BitVec 7} {code detail : Nat} {bFirst : Bool} {s : State} (h0 : Kept z0 s)
    : Kept z0 (abortInstance t code detail bFirst s) := by
  dsimp only [abortInstance]
  repeat' first
    | with_reducible assumption
    | with_reducible apply modTask_kept
    | with_reducible apply closeCopy_kept
    | with_reducible apply raiseAborted_kept
    | with_reducible apply Kept.foldl
    | fail_if_no_progress (with_reducible refine Kept.upd ?_ rfl rfl rfl rfl rfl rfl rfl)
    | split
    | intro _

theorem abortAll_kept {z0 : State} {code detail : Nat} {s : State} (h0 : Kept z0 s) : Kept z0 (abortAll code detail s)
    := by
  dsimp only [abortAll]
  repeat' first
    | with_reducible assumption
    | with_reducible apply modTasks_kept
    | with_reducible apply abortInstance_kept
    | with_reducible apply Kept.foldl
    | fail_if_no_progress (with_reducible refine Kept.upd ?_ rfl rfl rfl rfl rfl rfl rfl)
    | split
    | intro _

/-! ### Chan -/


theorem setEnable_kept {z0 : State} {t : BitVec 7} {on : Bool} {s : State} (h0 : Kept z0 s) : Kept z0 (setEnable t on s)
    := by
  dsimp only [setEnable]
  repeat' first
    | with_reducible assumption
    | with_reducible apply modTask_kept
    | fail_if_no_progress (with_reducible refine Kept.upd ?_ rfl rfl rfl rfl rfl rfl rfl)

theorem trigger_kept {z0 : State} {t : BitVec 7} {s : State} (h0 : Kept z0 s) : Kept z0 (trigger t s) := by
  dsimp only [trigger]
  repeat' first
    | with_reducible assumption
    | with_reducible apply modTask_kept
    | with_reducible apply raiseTask_kept
    | fail_if_no_progress (with_reducible refine Kept.upd ?_ rfl rfl rfl rfl rfl rfl rfl)
    | split

theorem triggerAll_kept {z0 : State} {ts : List (BitVec 7)} {s : State} (h0 : Kept z0 s) : Kept z0 (triggerAll ts s) :=
    by
  dsimp only [triggerAll]
  repeat' first
    | with_reducible assumption
    | with_reducible apply trigger_kept
    | with_reducible apply Kept.foldl
    | fail_if_no_progress (with_reducible refine Kept.upd ?_ rfl rfl rfl rfl rfl rfl rfl)
    | split
    | intro _

theorem fireChan_kept {z0 : State} {id cond : Nat} {s : State} (h0 : Kept z0 s) : Kept z0 (fireChan id cond s) := by
  dsimp only [fireChan]
  repeat' first
    | with_reducible assumption
    | with_reducible apply triggerAll_kept

theorem fireChange_kept {z0 : State} {id : Nat} {rose : Option Bool} {s : State} (h0 : Kept z0 s) : Kept z0 (fireChange
    id rose s) := by
  dsimp only [fireChange]
  repeat' first
    | with_reducible assumption
    | with_reducible apply takeFree_kept
    | with_reducible apply fireChan_kept
    | fail_if_no_progress (with_reducible refine Kept.upd ?_ rfl rfl rfl rfl rfl rfl rfl)
    | with_reducible refine takeFree_kept_eq ?_ (by assumption)
    | split

theorem refreshChan_kept {z0 : State} {s : State} {id : Nat} (h0 : Kept z0 s) : Kept z0 (refreshChan s id) := by
  dsimp only [refreshChan]
  repeat' first
    | with_reducible assumption
    | with_reducible apply raiseChan_kept
    | with_reducible apply fireChan_kept
    | fail_if_no_progress (with_reducible refine Kept.upd ?_ rfl rfl rfl rfl rfl rfl rfl)
    | split

theorem refreshLayout_kept {z0 : State} {s : State} (h0 : Kept z0 s) : Kept z0 (refreshLayout s) := by
  dsimp only [refreshLayout]
  repeat' first
    | with_reducible assumption
    | with_reducible apply raiseChan_kept
    | with_reducible apply fireChan_kept
    | with_reducible apply Kept.foldl
    | fail_if_no_progress (with_reducible refine Kept.upd ?_ rfl rfl rfl rfl rfl rfl rfl)
    | split
    | intro _

theorem refreshChans_kept {z0 : State} {s : State} (h0 : Kept z0 s) : Kept z0 (refreshChans s) := by
  dsimp only [refreshChans]
  repeat' first
    | with_reducible assumption
    | with_reducible apply refreshChan_kept
    | with_reducible apply refreshLayout_kept
    | with_reducible apply Kept.foldl

theorem refreshWhere_kept {z0 : State} {p : Nat → Option Bytes → Bool} {s : State} (h0 : Kept z0 s) : Kept z0
    (refreshWhere p s) := by
  dsimp only [refreshWhere]
  repeat' first
    | with_reducible assumption
    | with_reducible apply refreshChan_kept
    | with_reducible apply Kept.foldl
    | fail_if_no_progress (with_reducible refine Kept.upd ?_ rfl rfl rfl rfl rfl rfl rfl)
    | split
    | intro _

/-! ### Outputs -/


theorem modDo_kept {z0 : State} {n : Nat} {f : DoCh → DoCh} {s : State} (h0 : Kept z0 s) : Kept z0 (modDo n f s) := by
  dsimp only [modDo]
  repeat' first
    | with_reducible assumption
    | fail_if_no_progress (with_reducible refine Kept.upd ?_ rfl rfl rfl rfl rfl rfl rfl)

theorem modLoop_kept {z0 : State} {i : Nat} {f : LoopCh → LoopCh} {s : State} (h0 : Kept z0 s) : Kept z0 (modLoop i f s)
    := by
  dsimp only [modLoop]
  repeat' first
    | with_reducible assumption
    | fail_if_no_progress (with_reducible refine Kept.upd ?_ rfl rfl rfl rfl rfl rfl rfl)

theorem withEdges_kept {z0 : State} {f : State → State} {s : State} (hf : ∀ s : State, Kept z0 s → Kept z0 (f s)) (h0 :
    Kept z0 s) : Kept z0 (withEdges f s) := by
  dsimp only [withEdges]
  repeat' first
    | with_reducible assumption
    | with_reducible apply hf
    | fail_if_no_progress (with_reducible refine Kept.upd ?_ rfl rfl rfl rfl rfl rfl rfl)

theorem staggered_kept {z0 : State} {f : State → State} {s : State} (hf : ∀ s : State, Kept z0 s → Kept z0 (f s)) (h0 :
    Kept z0 s) : Kept z0 (staggered f s) := by
  dsimp only [staggered]
  repeat' first
    | with_reducible assumption
    | with_reducible apply hf
    | fail_if_no_progress (with_reducible refine Kept.upd ?_ rfl rfl rfl rfl rfl rfl rfl)

theorem aoJump_kept {z0 : State} {i : Nat} {s : State} (h0 : Kept z0 s) : Kept z0 (aoJump i s) := by
  dsimp only [aoJump]
  repeat' first
    | with_reducible assumption
    | with_reducible apply modLoop_kept

theorem applyDirect_kept {z0 : State} {id : Nat} {v : Option Word} {s : State} (h0 : Kept z0 s) : Kept z0 (applyDirect
    id v s) := by
  dsimp only [applyDirect]
  repeat' first
    | with_reducible assumption
    | with_reducible apply modDo_kept
    | with_reducible apply modLoop_kept
    | with_reducible apply withEdges_kept
    | with_reducible apply aoJump_kept
    | fail_if_no_progress (with_reducible refine Kept.upd ?_ rfl rfl rfl rfl rfl rfl rfl)
    | split

theorem endThermal_kept {z0 : State} {id : Nat} {f : State → State} {s : State} (hf : ∀ s : State, Kept z0 s → Kept z0
    (f s)) (h0 : Kept z0 s) : Kept z0 (endThermal id f s) := by
  dsimp only [endThermal]
  repeat' first
    | with_reducible assumption
    | with_reducible apply refreshChan_kept
    | with_reducible apply hf
    | fail_if_no_progress (with_reducible refine Kept.upd ?_ rfl rfl rfl rfl rfl rfl rfl)
    | split

theorem settleOutputs_kept {z0 : State} {ids : List Nat} {s : State} (h0 : Kept z0 s) : Kept z0 (settleOutputs ids s) :=
    by
  dsimp only [settleOutputs]
  repeat' first
    | with_reducible assumption
    | with_reducible apply applyDirect_kept
    | with_reducible apply endThermal_kept
    | with_reducible apply Kept.foldl
    | fail_if_no_progress (with_reducible refine Kept.upd ?_ rfl rfl rfl rfl rfl rfl rfl)
    | split
    | intro _

theorem dropAos_kept {z0 : State} {s : State} (h0 : Kept z0 s) : Kept z0 (dropAos s) := by
  dsimp only [dropAos]
  repeat' first
    | with_reducible assumption
    | with_reducible apply aoJump_kept
    | with_reducible apply Kept.foldl
    | fail_if_no_progress (with_reducible refine Kept.upd ?_ rfl rfl rfl rfl rfl rfl rfl)
    | split
    | intro _

theorem deenergise_kept {z0 : State} {s : State} (h0 : Kept z0 s) : Kept z0 (deenergise s) := by
  dsimp only [deenergise]
  repeat' first
    | with_reducible assumption
    | with_reducible apply applyDirect_kept
    | with_reducible apply endThermal_kept
    | with_reducible apply dropAos_kept
    | with_reducible apply Kept.foldl
    | fail_if_no_progress (with_reducible refine Kept.upd ?_ rfl rfl rfl rfl rfl rfl rfl)
    | split
    | intro _

theorem cutOutputs_kept {z0 : State} {s : State} (h0 : Kept z0 s) : Kept z0 (cutOutputs s) := by
  dsimp only [cutOutputs]
  repeat' first
    | with_reducible assumption
    | with_reducible apply withEdges_kept
    | with_reducible apply deenergise_kept
    | fail_if_no_progress (with_reducible refine Kept.upd ?_ rfl rfl rfl rfl rfl rfl rfl)
    | split
    | intro _

theorem stopAll_kept {z0 : State} {s : State} (h0 : Kept z0 s) : Kept z0 (stopAll s) := by
  dsimp only [stopAll]
  repeat' first
    | with_reducible assumption
    | with_reducible apply applyDirect_kept
    | with_reducible apply endThermal_kept
    | with_reducible apply Kept.foldl
    | fail_if_no_progress (with_reducible refine Kept.upd ?_ rfl rfl rfl rfl rfl rfl rfl)
    | split
    | intro _

theorem underEntry_kept {z0 : State} {id : Nat} {e : Option (Option Bytes)} {f : State → State} {s : State} (hf : ∀ s :
    State, Kept z0 s → Kept z0 (f s)) (h0 : Kept z0 s) : Kept z0 (underEntry id e f s) := by
  dsimp only [underEntry]
  repeat' first
    | with_reducible assumption
    | with_reducible apply hf
    | fail_if_no_progress (with_reducible refine Kept.upd ?_ rfl rfl rfl rfl rfl rfl rfl)
    | split

theorem applyValue_kept {z0 : State} {v : BitVec 3} {id : Nat} {x : Word} {s : State} (h0 : Kept z0 s) : Kept z0
    (applyValue v id x s) := by
  dsimp only [applyValue]
  repeat' first
    | with_reducible assumption
    | with_reducible apply applyDirect_kept
    | fail_if_no_progress (with_reducible refine Kept.upd ?_ rfl rfl rfl rfl rfl rfl rfl)
    | split

theorem applyValues_kept {z0 : State} {v : BitVec 3} {olds : Tab (Option Bytes)} {values : List (Nat × Word)} {s :
    State} (h0 : Kept z0 s) : Kept z0 (applyValues v olds values s) := by
  dsimp only [applyValues]
  repeat' first
    | with_reducible assumption
    | with_reducible apply endThermal_kept
    | with_reducible apply underEntry_kept
    | with_reducible apply applyValue_kept
    | with_reducible apply Kept.foldl
    | fail_if_no_progress (with_reducible refine Kept.upd ?_ rfl rfl rfl rfl rfl rfl rfl)
    | split
    | intro _

theorem storeTx_kept {z0 : State} {v : BitVec 3} {r : TaskRec} {img : Bytes} {s : State} (h0 : Kept z0 s) : Kept z0
    (storeTx v r img s) := by
  dsimp only [storeTx]
  repeat' first
    | with_reducible assumption
    | with_reducible apply Kept.foldl
    | fail_if_no_progress (with_reducible refine Kept.upd ?_ rfl rfl rfl rfl rfl rfl rfl)
    | split
    | intro _

theorem sendView_kept {z0 : State} {s : State} (h0 : Kept z0 s) : Kept z0 (sendView s) := by
  dsimp only [sendView]
  repeat' first
    | with_reducible assumption
    | fail_if_no_progress (with_reducible refine Kept.upd ?_ rfl rfl rfl rfl rfl rfl rfl)
    | split

theorem rekeyCan_kept {z0 : State} {before : State} {s : State} (h0 : Kept z0 s) : Kept z0 (rekeyCan before s) := by
  dsimp only [rekeyCan]
  repeat' first
    | with_reducible assumption
    | with_reducible apply sendView_kept
    | fail_if_no_progress (with_reducible refine Kept.upd ?_ rfl rfl rfl rfl rfl rfl rfl)

theorem offTx_kept {z0 : State} {ids : List Nat} {s : State} (h0 : Kept z0 s) : Kept z0 (offTx ids s) := by
  dsimp only [offTx]
  repeat' first
    | with_reducible assumption
    | with_reducible apply Kept.foldl
    | fail_if_no_progress (with_reducible refine Kept.upd ?_ rfl rfl rfl rfl rfl rfl rfl)

theorem commitTx_kept {z0 : State} {v : BitVec 3} {full r : TaskRec} {img : Bytes} {s : State} (h0 : Kept z0 s) : Kept
    z0 (commitTx v full r img s) := by
  dsimp only [commitTx]
  repeat' first
    | with_reducible assumption
    | with_reducible apply storeTx_kept
    | with_reducible apply rekeyCan_kept
    | with_reducible apply offTx_kept
    | fail_if_no_progress (with_reducible refine Kept.upd ?_ rfl rfl rfl rfl rfl rfl rfl)
    | split

theorem receiveChan_kept {z0 : State} {id : Nat} {e : Bytes} {v : Bytes} {s : State} (h0 : Kept z0 s) : Kept z0
    (receiveChan id e v s) := by
  dsimp only [receiveChan]
  repeat' first
    | with_reducible assumption
    | with_reducible apply fireChange_kept
    | fail_if_no_progress (with_reducible refine Kept.upd ?_ rfl rfl rfl rfl rfl rfl rfl)
    | split

/-! ### Retain -/


theorem enqueueOp_kept {z0 : State} {k : RetKind} {pages : List (Nat × Bytes)} {s : State} (h0 : Kept z0 s) : Kept z0
    (enqueueOp k pages s) := by
  dsimp only [enqueueOp]
  repeat' first
    | with_reducible assumption
    | fail_if_no_progress (with_reducible refine Kept.upd ?_ rfl rfl rfl rfl rfl rfl rfl)

theorem dueSave_kept {z0 : State} {cause : BitVec 2} {s : State} (h0 : Kept z0 s) : Kept z0 (dueSave cause s) := by
  dsimp only [dueSave]
  repeat' first
    | with_reducible assumption
    | with_reducible apply enqueueOp_kept
    | fail_if_no_progress (with_reducible refine Kept.upd ?_ rfl rfl rfl rfl rfl rfl rfl)
    | split

theorem nextSave_kept {z0 : State} {s : State} (h0 : Kept z0 s) : Kept z0 (nextSave s) := by
  dsimp only [nextSave]
  repeat' first
    | with_reducible assumption
    | with_reducible apply dueSave_kept
    | fail_if_no_progress (with_reducible refine Kept.upd ?_ rfl rfl rfl rfl rfl rfl rfl)
    | split

theorem takeClaim_kept {z0 : State} {why : ClaimFor} {s : State} (h0 : Kept z0 s) : Kept z0 (takeClaim why s) := by
  dsimp only [takeClaim]
  repeat' first
    | with_reducible assumption
    | with_reducible apply enqueueOp_kept
    | fail_if_no_progress (with_reducible refine Kept.upd ?_ rfl rfl rfl rfl rfl rfl rfl)

/-! ### Project -/


theorem restartData_kept {z0 : State} {warm : Bool} {runAt : Nat} {s : State} (h0 : Kept z0 s) : Kept z0 (restartData
    warm runAt s).2 := by
  unfold restartData
  dsimp only
  split
  · exact Kept.home h0 rfl rfl (fun _ _ => resumeTimers_wf0 (Mem.wf0_fold (fun _ _ h => Mem.wf0_setAll _ _ h) (scatter_wf0 (initialHome_wf0 _)))) (fun _ _ => rfl) rfl rfl rfl
  · exact modTasks_kept (Kept.home h0 rfl rfl (fun _ _ => initialHome_wf0 _) (fun _ _ => rfl) rfl rfl rfl)

theorem restartData_kept_eq {z0 : State} {warm : Bool} {runAt : Nat} {s : State} (h0 : Kept z0 s) {v0} {r0 : State} (e0
    : (restartData warm runAt s) = (v0, r0)) : Kept z0 r0 := by
  have := restartData_kept (z0 := z0) (warm := warm) (runAt := runAt) (s := s)  h0
  rw [e0] at this
  exact this

theorem restartEnables_kept {z0 : State} {s : State} (h0 : Kept z0 s) : Kept z0 (restartEnables s) := by
  dsimp only [restartEnables]
  repeat' first
    | with_reducible assumption
    | fail_if_no_progress (with_reducible refine Kept.upd ?_ rfl rfl rfl rfl rfl rfl rfl)

theorem wantChans_kept {z0 : State} {ids : List Nat} {s : State} (h0 : Kept z0 s) : Kept z0 (wantChans ids s) := by
  dsimp only [wantChans]
  repeat' first
    | with_reducible assumption
    | fail_if_no_progress (with_reducible refine Kept.upd ?_ rfl rfl rfl rfl rfl rfl rfl)

theorem wantTarget_kept {z0 : State} {s : State} (h0 : Kept z0 s) : Kept z0 (wantTarget s) := by
  dsimp only [wantTarget]
  repeat' first
    | with_reducible assumption
    | with_reducible apply wantChans_kept

theorem diGain_kept {z0 : State} {before : State} {id : Nat} {s : State} (h0 : Kept z0 s) : Kept z0 (diGain before id s)
    := by
  dsimp only [diGain]
  repeat' first
    | with_reducible assumption
    | fail_if_no_progress (with_reducible refine Kept.upd ?_ rfl rfl rfl rfl rfl rfl rfl)
    | split

theorem refreshPeers_kept {z0 : State} {before : State} {id : Nat} {s : State} (h0 : Kept z0 s) : Kept z0 (refreshPeers
    before id s) := by
  dsimp only [refreshPeers]
  repeat' first
    | with_reducible assumption
    | with_reducible apply refreshWhere_kept
    | fail_if_no_progress (with_reducible refine Kept.upd ?_ rfl rfl rfl rfl rfl rfl rfl)
    | split

theorem entryForce_kept {z0 : State} {before : State} {id : Nat} {s : State} (h0 : Kept z0 s) : Kept z0 (entryForce
    before id s) := by
  dsimp only [entryForce]
  repeat' first
    | with_reducible assumption
    | with_reducible apply refreshChan_kept
    | with_reducible apply settleOutputs_kept
    | with_reducible apply rekeyCan_kept
    | with_reducible apply diGain_kept
    | with_reducible apply refreshPeers_kept

theorem pinChan_kept {z0 : State} {id : Nat} {e : Option Bytes} {s : State} (h0 : Kept z0 s) : Kept z0 (pinChan id e s)
    := by
  dsimp only [pinChan]
  repeat' first
    | with_reducible assumption
    | with_reducible apply entryForce_kept
    | fail_if_no_progress (with_reducible refine Kept.upd ?_ rfl rfl rfl rfl rfl rfl rfl)

theorem loadedChan_kept {z0 : State} {id : Nat} {e : Option Bytes} {s : State} (h0 : Kept z0 s) : Kept z0 (loadedChan id
    e s) := by
  dsimp only [loadedChan]
  repeat' first
    | with_reducible assumption
    | with_reducible apply pinChan_kept
    | fail_if_no_progress (with_reducible refine Kept.upd ?_ rfl rfl rfl rfl rfl rfl rfl)
    | split

theorem pinReady_kept {z0 : State} {s : State} (h0 : Kept z0 s) : Kept z0 (pinReady s) := by
  dsimp only [pinReady]
  repeat' first
    | with_reducible assumption
    | with_reducible apply pinChan_kept
    | with_reducible apply Kept.foldl
    | fail_if_no_progress (with_reducible refine Kept.upd ?_ rfl rfl rfl rfl rfl rfl rfl)
    | split
    | intro _

theorem wantNow_kept {z0 : State} {s : State} (h0 : Kept z0 s) : Kept z0 (wantNow s) := by
  dsimp only [wantNow]
  repeat' first
    | with_reducible assumption
    | with_reducible apply wantChans_kept
    | with_reducible apply wantTarget_kept
    | with_reducible apply pinReady_kept

theorem unpinChan_kept {z0 : State} {id : Nat} {s : State} (h0 : Kept z0 s) : Kept z0 (unpinChan id s) := by
  dsimp only [unpinChan]
  repeat' first
    | with_reducible assumption
    | with_reducible apply rekeyCan_kept
    | with_reducible apply refreshPeers_kept
    | fail_if_no_progress (with_reducible refine Kept.upd ?_ rfl rfl rfl rfl rfl rfl rfl)

theorem unpinDue_kept {z0 : State} {s : State} (h0 : Kept z0 s) : Kept z0 (unpinDue s) := by
  dsimp only [unpinDue]
  repeat' first
    | with_reducible assumption
    | with_reducible apply unpinChan_kept
    | with_reducible apply Kept.foldl
    | fail_if_no_progress (with_reducible refine Kept.upd ?_ rfl rfl rfl rfl rfl rfl rfl)
    | split
    | intro _

theorem wakeBarn_kept {z0 : State} {b : Fin 4} {s : State} (h0 : Kept z0 s) : Kept z0 (wakeBarn b s) := by
  dsimp only [wakeBarn]
  repeat' first
    | with_reducible assumption
    | with_reducible apply modBarn_kept
    | fail_if_no_progress (with_reducible refine Kept.upd ?_ rfl rfl rfl rfl rfl rfl rfl)
    | split

theorem liftBad_kept {z0 : State} {m : Nat} {s : State} (h0 : Kept z0 s) : Kept z0 (liftBad m s) := by
  dsimp only [liftBad]
  repeat' first
    | with_reducible assumption
    | with_reducible refine Kept.take ?_ rfl rfl rfl rfl rfl rfl rfl

theorem settleHomes_kept {z0 : State} {s : State} (h0 : Kept z0 s) : Kept z0 (settleHomes s) := by
  dsimp only [settleHomes]
  repeat' first
    | with_reducible assumption
    | with_reducible apply wakeBarn_kept
    | with_reducible apply Kept.foldl
    | fail_if_no_progress (with_reducible refine Kept.upd ?_ rfl rfl rfl rfl rfl rfl rfl)
    | split
    | intro _

/-! ### Bales -/


theorem numberCommit_kept {z0 : State} {s : State} (h0 : Kept z0 s) : Kept z0 (numberCommit s).2 := by
  dsimp only [numberCommit]
  repeat' first
    | with_reducible assumption
    | fail_if_no_progress (with_reducible refine Kept.upd ?_ rfl rfl rfl rfl rfl rfl rfl)

theorem numberCommit_kept_eq {z0 : State} {s : State} (h0 : Kept z0 s) {v0} {r0 : State} (e0 : (numberCommit s) = (v0,
    r0)) : Kept z0 r0 := by
  have := numberCommit_kept (z0 := z0) (s := s)  h0
  rw [e0] at this
  exact this

theorem queueBale_kept {z0 : State} {type : BitVec 3} {t : BitVec 7} {n : Nat} {lines : List BaleLine} {s : State} (h0 :
    Kept z0 s) : Kept z0 (queueBale type t n lines s) := by
  dsimp only [queueBale]
  repeat' first
    | with_reducible assumption
    | with_reducible apply raise_kept
    | fail_if_no_progress (with_reducible refine Kept.upd ?_ rfl rfl rfl rfl rfl rfl rfl)
    | split

/-! ### HostErrors -/


theorem freeBuffer_kept {z0 : State} {buf : Bytes} {s : State} (h0 : Kept z0 s) : Kept z0 (freeBuffer buf s).2 := by
  dsimp only [freeBuffer]
  repeat' first
    | with_reducible assumption
    | with_reducible apply freeBytes_kept

theorem freeBuffer_kept_eq {z0 : State} {buf : Bytes} {s : State} (h0 : Kept z0 s) {v0} {r0 : State} (e0 : (freeBuffer
    buf s) = (v0, r0)) : Kept z0 r0 := by
  have := freeBuffer_kept (z0 := z0) (buf := buf) (s := s)  h0
  rw [e0] at this
  exact this

theorem sameBuffer_kept {z0 : State} {buf : Bytes} {s : State} (h0 : Kept z0 s) : Kept z0 (sameBuffer buf s).2 := by
  dsimp only [sameBuffer]
  repeat' first
    | with_reducible assumption

theorem sameBuffer_kept_eq {z0 : State} {buf : Bytes} {s : State} (h0 : Kept z0 s) {v0} {r0 : State} (e0 : (sameBuffer
    buf s) = (v0, r0)) : Kept z0 r0 := by
  have := sameBuffer_kept (z0 := z0) (buf := buf) (s := s)  h0
  rw [e0] at this
  exact this

theorem lessRights_kept {z0 : State} {n : Nat} {buf : Bytes} {s : State} (h0 : Kept z0 s) : Kept z0 (lessRights n buf
    s).2 := by
  induction n generalizing buf s with
  | zero => exact h0
  | succ n ih => exact ih (takeFree_kept h0)

theorem bufferCommand_kept {z0 : State} {d : Desc} {op : Nat} {serial : Bool} {reserved : List (Nat × Nat)}
    {other : Bytes → State → Bytes × State} {buf : Bytes} {usual : Desc → Bytes → State → State} {s : State}
    (hu : ∀ (d : Desc) (b : Bytes) (s : State), Kept z0 s → Kept z0 (usual d b s))
    (ho : ∀ (b : Bytes) (s : State), Kept z0 s → Kept z0 (other b s).2)
    (h0 : Kept z0 s) : Kept z0 (bufferCommand d op serial reserved other buf usual s) := by
  unfold bufferCommand
  split
  · exact hu _ _ _ h0
  · refine hu _ _ _ ?_
    split
    · exact takeFree_kept h0
    · exact ho _ _ (takeFree_kept h0)

theorem takeEntry_kept {z0 : State} {e : Bytes} {s : State} (h0 : Kept z0 s) : Kept z0 (takeEntry e s).2 := by
  dsimp only [takeEntry]
  repeat' first
    | with_reducible assumption
    | with_reducible apply freeBytes_kept
    | fail_if_no_progress (with_reducible refine Kept.upd ?_ rfl rfl rfl rfl rfl rfl rfl)
    | dsimp only
    | with_reducible refine freeBytes_kept_eq ?_ (by assumption)
    | split

theorem takeEntry_kept_eq {z0 : State} {e : Bytes} {s : State} (h0 : Kept z0 s) {v0} {r0 : State} (e0 : (takeEntry e s)
    = (v0, r0)) : Kept z0 r0 := by
  have := takeEntry_kept (z0 := z0) (e := e) (s := s)  h0
  rw [e0] at this
  exact this

theorem takeLine_kept {z0 : State} {line : Bytes} {s : State} (h0 : Kept z0 s) : Kept z0 (takeLine line s).2 := by
  dsimp only [takeLine]
  repeat' first
    | with_reducible assumption
    | with_reducible apply freeBytes_kept
    | fail_if_no_progress (with_reducible refine Kept.upd ?_ rfl rfl rfl rfl rfl rfl rfl)
    | dsimp only
    | with_reducible refine freeBytes_kept_eq ?_ (by assumption)
    | split

theorem takeLine_kept_eq {z0 : State} {line : Bytes} {s : State} (h0 : Kept z0 s) {v0} {r0 : State} (e0 : (takeLine line
    s) = (v0, r0)) : Kept z0 r0 := by
  have := takeLine_kept (z0 := z0) (line := line) (s := s)  h0
  rw [e0] at this
  exact this

theorem misusedRings_kept {z0 : State} {before s : State} (h0 : Kept z0 s) : Kept z0 (misusedRings before s) := by
  dsimp only [misusedRings]
  repeat' first
    | with_reducible assumption
    | with_reducible refine Kept.take ?_ rfl rfl rfl rfl rfl rfl rfl
    | fail_if_no_progress (with_reducible refine Kept.upd ?_ rfl rfl rfl rfl rfl rfl rfl)
    | split

/-! ### CanBus -/


theorem modCan_kept {z0 : State} {c : Fin 4} {f : CanSt → CanSt} {s : State} (h0 : Kept z0 s) : Kept z0 (modCan c f s)
    := by
  dsimp only [modCan]
  repeat' first
    | with_reducible assumption
    | fail_if_no_progress (with_reducible refine Kept.upd ?_ rfl rfl rfl rfl rfl rfl rfl)

theorem modBuf_kept {z0 : State} {c : Fin 4} {b : Fin 3} {f : CanBuf → CanBuf} {s : State} (h0 : Kept z0 s) : Kept z0
    (modBuf c b f s) := by
  dsimp only [modBuf]
  repeat' first
    | with_reducible assumption
    | with_reducible apply modCan_kept

theorem canChoose_kept {z0 : State} {c : Fin 4} {s : State} (h0 : Kept z0 s) : Kept z0 (canChoose c s) := by
  dsimp only [canChoose]
  repeat' first
    | with_reducible assumption
    | with_reducible apply modCan_kept

theorem hasStarted_kept {z0 : State} {c : Fin 4} {s : State} (h0 : Kept z0 s) : Kept z0 (hasStarted c s).2 := by
  dsimp only [hasStarted]
  repeat' first
    | with_reducible assumption
    | with_reducible apply takeFree_kept
    | with_reducible apply modCan_kept
    | fail_if_no_progress (with_reducible refine Kept.upd ?_ rfl rfl rfl rfl rfl rfl rfl)
    | dsimp only
    | with_reducible refine takeFree_kept_eq ?_ (by assumption)
    | split

theorem hasStarted_kept_eq {z0 : State} {c : Fin 4} {s : State} (h0 : Kept z0 s) {v0} {r0 : State} (e0 : (hasStarted c
    s) = (v0, r0)) : Kept z0 r0 := by
  have := hasStarted_kept (z0 := z0) (c := c) (s := s)  h0
  rw [e0] at this
  exact this

theorem canLoaded_kept {z0 : State} {c : Fin 4} {s : State} (h0 : Kept z0 s) : Kept z0 (canLoaded c s) := by
  dsimp only [canLoaded]
  repeat' first
    | with_reducible assumption
    | with_reducible apply canChoose_kept
    | with_reducible apply hasStarted_kept
    | fail_if_no_progress (with_reducible refine Kept.upd ?_ rfl rfl rfl rfl rfl rfl rfl)
    | with_reducible refine hasStarted_kept_eq ?_ (by assumption)
    | split

theorem recallChannels_kept {z0 : State} {s : State} (h0 : Kept z0 s) : Kept z0 (recallChannels s) := by
  dsimp only [recallChannels]
  repeat' first
    | with_reducible assumption
    | with_reducible apply canLoaded_kept
    | with_reducible apply Kept.foldl
    | fail_if_no_progress (with_reducible refine Kept.upd ?_ rfl rfl rfl rfl rfl rfl rfl)
    | split
    | intro _

/-! ### Modes -/


theorem steer_kept {z0 : State} {diffNs ratePpb : Int} {spanNs : Nat} {s : State} (h0 : Kept z0 s) : Kept z0 (steer
    diffNs ratePpb spanNs s) := by
  dsimp only [steer]
  repeat' first
    | with_reducible assumption
    | with_reducible apply takeFree_kept
    | fail_if_no_progress (with_reducible refine Kept.upd ?_ rfl rfl rfl rfl rfl rfl rfl)

theorem refreshSource_kept {z0 : State} {s : State} (h0 : Kept z0 s) : Kept z0 (refreshSource s) := by
  dsimp only [refreshSource]
  repeat' first
    | with_reducible assumption
    | with_reducible apply raise_kept
    | fail_if_no_progress (with_reducible refine Kept.upd ?_ rfl rfl rfl rfl rfl rfl rfl)
    | split

theorem refuseEdit_kept {z0 : State} {s : State} (h0 : Kept z0 s) : Kept z0 (refuseEdit s) := by
  dsimp only [refuseEdit]
  repeat' first
    | with_reducible assumption
    | with_reducible apply completeWait_kept
    | fail_if_no_progress (with_reducible refine Kept.upd ?_ rfl rfl rfl rfl rfl rfl rfl)
    | split

theorem refuseSteps_kept {z0 : State} {s : State} (h0 : Kept z0 s) : Kept z0 (refuseSteps s) := by
  dsimp only [refuseSteps]
  repeat' first
    | with_reducible assumption
    | with_reducible apply completeWait_kept
    | with_reducible apply Kept.foldl
    | fail_if_no_progress (with_reducible refine Kept.upd ?_ rfl rfl rfl rfl rfl rfl rfl)
    | split
    | intro _

theorem applyDue_kept {z0 : State} {due : List OutDue} {s : State} (h0 : Kept z0 s) : Kept z0 (applyDue due s) := by
  dsimp only [applyDue]
  repeat' first
    | with_reducible assumption
    | with_reducible apply applyValues_kept
    | with_reducible apply Kept.foldl
    | fail_if_no_progress (with_reducible refine Kept.upd ?_ rfl rfl rfl rfl rfl rfl rfl)
    | split
    | intro _

theorem flushOutputs_kept {z0 : State} {s : State} (h0 : Kept z0 s) : Kept z0 (flushOutputs s) := by
  dsimp only [flushOutputs]
  repeat' first
    | with_reducible assumption
    | with_reducible apply applyDue_kept
    | fail_if_no_progress (with_reducible refine Kept.upd ?_ rfl rfl rfl rfl rfl rfl rfl)

theorem leaveRun_kept {z0 : State} {new : BitVec 4} {s : State} (h0 : Kept z0 s) : Kept z0 (leaveRun new s) := by
  dsimp only [leaveRun]
  repeat' first
    | with_reducible assumption
    | with_reducible apply modTasks_kept
    | with_reducible apply abortAll_kept
    | with_reducible apply refuseSteps_kept
    | with_reducible apply flushOutputs_kept
    | fail_if_no_progress (with_reducible refine Kept.upd ?_ rfl rfl rfl rfl rfl rfl rfl)

theorem freshRun_kept {z0 : State} {s : State} (h0 : Kept z0 s) : Kept z0 (freshRun s) := by
  dsimp only [freshRun]
  repeat' first
    | with_reducible assumption
    | with_reducible apply modTasks_kept
    | fail_if_no_progress (with_reducible refine Kept.upd ?_ rfl rfl rfl rfl rfl rfl rfl)

theorem armWdt_kept {z0 : State} {s : State} (h0 : Kept z0 s) : Kept z0 (armWdt s) := by
  dsimp only [armWdt]
  repeat' first
    | with_reducible assumption
    | with_reducible apply checked_kept
    | fail_if_no_progress (with_reducible refine Kept.upd ?_ rfl rfl rfl rfl rfl rfl rfl)
    | split

theorem enterOutputs_kept {z0 : State} {old new : BitVec 4} {s : State} (h0 : Kept z0 s) : Kept z0 (enterOutputs old new
    s) := by
  dsimp only [enterOutputs]
  repeat' first
    | with_reducible assumption
    | with_reducible apply staggered_kept
    | with_reducible apply settleOutputs_kept
    | with_reducible apply dropAos_kept
    | with_reducible apply deenergise_kept
    | with_reducible apply stopAll_kept
    | fail_if_no_progress (with_reducible refine Kept.upd ?_ rfl rfl rfl rfl rfl rfl rfl)
    | split

theorem restartAs_kept {z0 : State} {how : BitVec 2} {s : State} (h0 : Kept z0 s) : Kept z0 (restartAs how s).2 := by
  dsimp only [restartAs]
  repeat' first
    | with_reducible assumption
    | with_reducible apply restartData_kept
    | with_reducible apply restartEnables_kept
    | fail_if_no_progress (with_reducible refine Kept.upd ?_ rfl rfl rfl rfl rfl rfl rfl)
    | dsimp only
    | with_reducible refine restartData_kept_eq ?_ (by assumption)
    | split

theorem restartAs_kept_eq {z0 : State} {how : BitVec 2} {s : State} (h0 : Kept z0 s) {v0} {r0 : State} (e0 : (restartAs
    how s) = (v0, r0)) : Kept z0 r0 := by
  have := restartAs_kept (z0 := z0) (how := how) (s := s)  h0
  rw [e0] at this
  exact this

theorem zeroPairRuns_kept {z0 : State} {s : State} (h0 : Kept z0 s) : Kept z0 (zeroPairRuns s) := by
  dsimp only [zeroPairRuns]
  repeat' first
    | with_reducible assumption
    | with_reducible apply modTasks_kept

theorem changeMode_kept {z0 : State} {new : BitVec 4} {cause ringByte reason : Nat} {s : State} (h0 : Kept z0 s) : Kept
    z0 (changeMode new cause ringByte reason s) := by
  unfold changeMode
  extract_lets old s1 s2 s3 f4 p4 w4 s4 c5 s5 s6 s7 s8
  have h1 : Kept z0 s1 := Kept.ite (zeroPairRuns_kept h0) h0
  have h2 : Kept z0 s2 := Kept.ite (leaveRun_kept h1) h1
  have h3 : Kept z0 s3 := Kept.ite (refuseEdit_kept h2) h2
  have h4 : Kept z0 s4 := Kept.upd h3 rfl rfl rfl rfl rfl rfl rfl
  have h5 : Kept z0 s5 := Kept.ite (Kept.upd h4 rfl rfl rfl rfl rfl rfl rfl) h4
  have h6 : Kept z0 s6 := recallChannels_kept (enterOutputs_kept h5)
  have h7 : Kept z0 s7 := Kept.ite (dueSave_kept h6) h6
  have h8 : Kept z0 s8 := raise_kept h7
  exact refreshSource_kept (queueBale_kept h8)

theorem enterRun_kept {z0 : State} {how : BitVec 2} {cause ringByte reason : Nat} {s : State} (h0 : Kept z0 s) : Kept z0
    (enterRun how cause ringByte reason s) := by
  unfold enterRun
  extract_lets r s1 s2 s3 used m4 s4 c5 s5
  have hr : Kept z0 r.2 := by
    dsimp only [r]
    split
    · exact h0
    · exact restartAs_kept h0
  have h1 : Kept z0 s1 := armWdt_kept (freshRun_kept hr)
  have h2 : Kept z0 s2 := changeMode_kept h1
  have h3 : Kept z0 s3 := modTasks_kept h2
  have h4 : Kept z0 s4 := Kept.upd h3 rfl rfl rfl rfl rfl rfl rfl
  have h5 : Kept z0 s5 := Kept.upd h4 rfl rfl rfl rfl rfl rfl rfl
  exact refreshChans_kept (wantNow_kept (raise_kept h5))

theorem refuseModeRun_kept {z0 : State} {s : State} (h0 : Kept z0 s) : Kept z0 (refuseModeRun s) := by
  dsimp only [refuseModeRun]
  repeat' first
    | with_reducible assumption
    | with_reducible apply completeWait_kept
    | with_reducible apply Kept.foldl
    | fail_if_no_progress (with_reducible refine Kept.upd ?_ rfl rfl rfl rfl rfl rfl rfl)
    | split
    | intro _

theorem enterSafe_kept {z0 : State} {cause : Nat} {ringByte reason : Nat} {s : State} (h0 : Kept z0 s) : Kept z0
    (enterSafe cause ringByte reason s) := by
  dsimp only [enterSafe]
  repeat' first
    | with_reducible assumption
    | with_reducible apply changeMode_kept
    | with_reducible apply refuseModeRun_kept
    | fail_if_no_progress (with_reducible refine Kept.upd ?_ rfl rfl rfl rfl rfl rfl rfl)
    | split

theorem endHold_kept {z0 : State} {ringByte : Nat} {s : State} (h0 : Kept z0 s) : Kept z0 (endHold ringByte s) := by
  dsimp only [endHold]
  repeat' first
    | with_reducible assumption
    | with_reducible apply changeMode_kept
    | fail_if_no_progress (with_reducible refine Kept.upd ?_ rfl rfl rfl rfl rfl rfl rfl)
    | split

end Sys2Proof.Machine
end

