-- ==== Sys2Proof/Laws/KeptField.lean ====
section
/-! SUPPORT. What no command undoes, for the shared operations of
CAN, Ethernet, start-up, the pair, the Ihloz network and settings blocks: each keeps the queue, the factory record, the free values
taken, a locked seal and the canonical form of every memory. -/

namespace Sys2Proof.Machine

/-! ### Can -/


theorem raiseCan_kept {z0 : State} {c : Fin 4} {code data : Nat} {s : State} (h0 : Kept z0 s) : Kept z0 (raiseCan c code
    data s) := by
  dsimp only [raiseCan]
  repeat' first
    | with_reducible assumption
    | with_reducible apply raise_kept

theorem endCancel_kept {z0 : State} {c : Fin 4} {b : Fin 3} {status : Byte} {result : Nat} {s : State} (h0 : Kept z0 s)
    : Kept z0 (endCancel c b status result s) := by
  dsimp only [endCancel]
  repeat' first
    | with_reducible assumption
    | with_reducible apply completeWait_kept
    | with_reducible apply Kept.foldl
    | fail_if_no_progress (with_reducible refine Kept.upd ?_ rfl rfl rfl rfl rfl rfl rfl)
    | split
    | intro _

theorem lastSof_kept {z0 : State} {x : CanBuf} {s : State} (h0 : Kept z0 s) : Kept z0 (lastSof x s).2 := by
  dsimp only [lastSof]
  repeat' first
    | with_reducible assumption
    | with_reducible apply takeFree_kept
    | fail_if_no_progress (with_reducible refine Kept.upd ?_ rfl rfl rfl rfl rfl rfl rfl)
    | dsimp only
    | with_reducible refine takeFree_kept_eq ?_ (by assumption)
    | split

theorem lastSof_kept_eq {z0 : State} {x : CanBuf} {s : State} (h0 : Kept z0 s) {v0} {r0 : State} (e0 : (lastSof x s) =
    (v0, r0)) : Kept z0 r0 := by
  have := lastSof_kept (z0 := z0) (x := x) (s := s)  h0
  rw [e0] at this
  exact this

theorem settle_kept {z0 : State} {c : Fin 4} {b : Fin 3} {outcome cause : Nat} {s : State} (h0 : Kept z0 s) : Kept z0
    (settle c b outcome cause s) := by
  dsimp only [settle]
  repeat' first
    | with_reducible assumption
    | with_reducible apply modCan_kept
    | with_reducible apply modBuf_kept
    | with_reducible apply raiseCan_kept
    | with_reducible apply endCancel_kept
    | with_reducible apply lastSof_kept
    | fail_if_no_progress (with_reducible refine Kept.upd ?_ rfl rfl rfl rfl rfl rfl rfl)
    | with_reducible refine lastSof_kept_eq ?_ (by assumption)
    | split

theorem settleAll_kept {z0 : State} {c : Fin 4} {cause : Nat} {s : State} (h0 : Kept z0 s) : Kept z0 (settleAll c cause
    s) := by
  dsimp only [settleAll]
  repeat' first
    | with_reducible assumption
    | with_reducible apply settle_kept
    | with_reducible apply Kept.foldl
    | fail_if_no_progress (with_reducible refine Kept.upd ?_ rfl rfl rfl rfl rfl rfl rfl)
    | split
    | intro _

theorem refreshCan_kept {z0 : State} {c : Fin 4} {s : State} (h0 : Kept z0 s) : Kept z0 (refreshCan c s) := by
  dsimp only [refreshCan]
  repeat' first
    | with_reducible assumption
    | with_reducible apply refreshWhere_kept

theorem canCounts_kept {z0 : State} {c : Fin 4} {tec rec : Nat} {s : State} (h0 : Kept z0 s) : Kept z0 (canCounts c tec
    rec s) := by
  dsimp only [canCounts]
  repeat' first
    | with_reducible assumption
    | with_reducible apply modCan_kept
    | with_reducible apply raiseCan_kept
    | with_reducible apply settleAll_kept
    | with_reducible apply refreshCan_kept
    | fail_if_no_progress (with_reducible refine Kept.upd ?_ rfl rfl rfl rfl rfl rfl rfl)
    | split

theorem recGood_kept {z0 : State} {rec : Nat} {s : State} (h0 : Kept z0 s) : Kept z0 (recGood rec s).2 := by
  dsimp only [recGood]
  repeat' first
    | with_reducible assumption
    | with_reducible apply takeFree_kept
    | fail_if_no_progress (with_reducible refine Kept.upd ?_ rfl rfl rfl rfl rfl rfl rfl)
    | dsimp only
    | with_reducible refine takeFree_kept_eq ?_ (by assumption)
    | split

theorem recGood_kept_eq {z0 : State} {rec : Nat} {s : State} (h0 : Kept z0 s) {v0} {r0 : State} (e0 : (recGood rec s) =
    (v0, r0)) : Kept z0 r0 := by
  have := recGood_kept (z0 := z0) (rec := rec) (s := s)  h0
  rw [e0] at this
  exact this

theorem attempt_kept {z0 : State} {c : Fin 4} {b : Fin 3} {sof : Word} {s : State} (h0 : Kept z0 s) : Kept z0 (attempt c
    b sof s) := by
  dsimp only [attempt]
  repeat' first
    | with_reducible assumption
    | with_reducible apply modCan_kept
    | with_reducible apply modBuf_kept

theorem canReset_kept {z0 : State} {c : Fin 4} {s : State} (h0 : Kept z0 s) : Kept z0 (canReset c s) := by
  dsimp only [canReset]
  repeat' first
    | with_reducible assumption
    | with_reducible apply modCan_kept
    | with_reducible apply settleAll_kept
    | with_reducible apply canCounts_kept

theorem canAccept_kept {z0 : State} {old new : Bytes} {s : State} (h0 : Kept z0 s) : Kept z0 (canAccept old new s) := by
  dsimp only [canAccept]
  repeat' first
    | with_reducible assumption
    | with_reducible apply refreshCan_kept
    | with_reducible apply canReset_kept
    | with_reducible apply Kept.foldl
    | fail_if_no_progress (with_reducible refine Kept.upd ?_ rfl rfl rfl rfl rfl rfl rfl)
    | split
    | intro _

theorem canDue_kept {z0 : State} {c : Fin 4} {key : Nat} {s : State} (h0 : Kept z0 s) : Kept z0 (canDue c key s) := by
  dsimp only [canDue]
  repeat' first
    | with_reducible assumption
    | with_reducible apply modCan_kept

theorem canFrameDue_kept {z0 : State} {v : State} {e : Bytes} {period : Bool} {s : State} (h0 : Kept z0 s) : Kept z0
    (canFrameDue v e period s) := by
  dsimp only [canFrameDue]
  repeat' first
    | with_reducible assumption
    | with_reducible apply canDue_kept
    | fail_if_no_progress (with_reducible refine Kept.upd ?_ rfl rfl rfl rfl rfl rfl rfl)
    | split

theorem canCommitDue_kept {z0 : State} {t : BitVec 7} {s : State} (h0 : Kept z0 s) : Kept z0 (canCommitDue t s) := by
  dsimp only [canCommitDue]
  repeat' first
    | with_reducible assumption
    | with_reducible apply sendView_kept
    | with_reducible apply canFrameDue_kept
    | with_reducible apply Kept.foldl
    | fail_if_no_progress (with_reducible refine Kept.upd ?_ rfl rfl rfl rfl rfl rfl rfl)
    | split
    | intro _

theorem mirrorWrite_kept {z0 : State} {off size : Nat} {seq : Half} {rec : Bytes} {s : State} (h0 : Kept z0 s) : Kept z0
    (mirrorWrite off size seq rec s) := by
  dsimp only [mirrorWrite]
  repeat' first
    | with_reducible assumption
    | with_reducible apply hostWrite_kept

theorem canToChan_kept {z0 : State} {f : CanFrame} {s : State} {id : Nat} (h0 : Kept z0 s) : Kept z0 (canToChan f s id)
    := by
  dsimp only [canToChan]
  repeat' first
    | with_reducible assumption
    | with_reducible apply refreshChan_kept
    | with_reducible apply receiveChan_kept
    | fail_if_no_progress (with_reducible refine Kept.upd ?_ rfl rfl rfl rfl rfl rfl rfl)
    | split

theorem holdRx_kept {z0 : State} {x : HeldRx} {s : State} (h0 : Kept z0 s) : Kept z0 (holdRx x s) := by
  dsimp only [holdRx]
  repeat' first
    | with_reducible assumption
    | fail_if_no_progress (with_reducible refine Kept.upd ?_ rfl rfl rfl rfl rfl rfl rfl)

theorem receiveCan_kept {z0 : State} {c : Fin 4} {f : CanFrame} {sof : Word} {s : State} (h0 : Kept z0 s) : Kept z0
    (receiveCan c f sof s) := by
  dsimp only [receiveCan]
  repeat' first
    | with_reducible assumption
    | with_reducible apply triggerAll_kept
    | with_reducible apply modCan_kept
    | with_reducible apply canChoose_kept
    | with_reducible apply canCounts_kept
    | with_reducible apply recGood_kept
    | with_reducible apply mirrorWrite_kept
    | with_reducible apply canToChan_kept
    | with_reducible apply Kept.foldl
    | fail_if_no_progress (with_reducible refine Kept.upd ?_ rfl rfl rfl rfl rfl rfl rfl)
    | with_reducible refine recGood_kept_eq ?_ (by assumption)
    | split

theorem offBus_kept {z0 : State} {c : Fin 4} {s : State} (h0 : Kept z0 s) : Kept z0 (offBus c s) := by
  dsimp only [offBus]
  repeat' first
    | with_reducible assumption
    | with_reducible apply modCan_kept
    | fail_if_no_progress (with_reducible refine Kept.upd ?_ rfl rfl rfl rfl rfl rfl rfl)
    | split

theorem suspect_kept {z0 : State} {c : Fin 4} {b : Fin 3} {e : CanError} {s : State} (h0 : Kept z0 s) : Kept z0 (suspect
    c b e s) := by
  dsimp only [suspect]
  repeat' first
    | with_reducible assumption
    | with_reducible apply modCan_kept
    | with_reducible apply modBuf_kept
    | with_reducible apply raiseCan_kept
    | fail_if_no_progress (with_reducible refine Kept.upd ?_ rfl rfl rfl rfl rfl rfl rfl)
    | split

/-! ### Eth -/


theorem modEth_kept {z0 : State} {p : Fin 2} {f : EthSt → EthSt} {s : State} (h0 : Kept z0 s) : Kept z0 (modEth p f s)
    := by
  dsimp only [modEth]
  repeat' first
    | with_reducible assumption
    | fail_if_no_progress (with_reducible refine Kept.upd ?_ rfl rfl rfl rfl rfl rfl rfl)

theorem dropUnsent_kept {z0 : State} {p : Fin 2} {s : State} (h0 : Kept z0 s) : Kept z0 (dropUnsent p s) := by
  dsimp only [dropUnsent]
  repeat' first
    | with_reducible assumption
    | with_reducible apply modEth_kept
    | fail_if_no_progress (with_reducible refine Kept.upd ?_ rfl rfl rfl rfl rfl rfl rfl)
    | split

theorem ethStart_kept {z0 : State} {p : Fin 2} {s : State} (h0 : Kept z0 s) : Kept z0 (ethStart p s) := by
  dsimp only [ethStart]
  repeat' first
    | with_reducible assumption
    | with_reducible apply modEth_kept
    | with_reducible apply dropUnsent_kept
    | fail_if_no_progress (with_reducible refine Kept.upd ?_ rfl rfl rfl rfl rfl rfl rfl)
    | split

theorem ethStartAll_kept {z0 : State} {s : State} (h0 : Kept z0 s) : Kept z0 (ethStartAll s) := by
  dsimp only [ethStartAll]
  repeat' first
    | with_reducible assumption
    | with_reducible apply ethStart_kept
    | with_reducible apply Kept.foldl
    | fail_if_no_progress (with_reducible refine Kept.upd ?_ rfl rfl rfl rfl rfl rfl rfl)
    | split
    | intro _

theorem modQueue_kept {z0 : State} {p : Fin 2} {q : Fin 8} {f : List EthFrame → List EthFrame} {s : State} (h0 : Kept z0
    s) : Kept z0 (modQueue p q f s) := by
  dsimp only [modQueue]
  repeat' first
    | with_reducible assumption
    | with_reducible apply modEth_kept

theorem enqueueFrame_kept {z0 : State} {p : Fin 2} {q : Fin 8} {f : EthFrame} {s : State} (h0 : Kept z0 s) : Kept z0
    (enqueueFrame p q f s) := by
  dsimp only [enqueueFrame]
  repeat' first
    | with_reducible assumption
    | with_reducible apply ethStart_kept
    | with_reducible apply modQueue_kept

theorem enqueueOwn_kept {z0 : State} {p : Fin 2} {f : EthFrame} {s : State} (h0 : Kept z0 s) : Kept z0 (enqueueOwn p f
    s) := by
  dsimp only [enqueueOwn]
  repeat' first
    | with_reducible assumption
    | with_reducible apply takeFree_kept
    | with_reducible apply enqueueFrame_kept

theorem raiseEth_kept {z0 : State} {p : Fin 2} {code data : Nat} {s : State} (h0 : Kept z0 s) : Kept z0 (raiseEth p code
    data s) := by
  dsimp only [raiseEth]
  repeat' first
    | with_reducible assumption
    | with_reducible apply raise_kept

theorem ethDue_kept {z0 : State} {e : Bytes} {s : State} (h0 : Kept z0 s) : Kept z0 (ethDue e s) := by
  dsimp only [ethDue]
  repeat' first
    | with_reducible assumption
    | with_reducible apply sendView_kept
    | with_reducible apply modEth_kept
    | with_reducible apply enqueueFrame_kept
    | fail_if_no_progress (with_reducible refine Kept.upd ?_ rfl rfl rfl rfl rfl rfl rfl)
    | split

theorem ethCommitDue_kept {z0 : State} {t : BitVec 7} {s : State} (h0 : Kept z0 s) : Kept z0 (ethCommitDue t s) := by
  dsimp only [ethCommitDue]
  repeat' first
    | with_reducible assumption
    | with_reducible apply sendView_kept
    | with_reducible apply ethDue_kept
    | with_reducible apply Kept.foldl
    | fail_if_no_progress (with_reducible refine Kept.upd ?_ rfl rfl rfl rfl rfl rfl rfl)
    | split
    | intro _

theorem ethToChan_kept {z0 : State} {pay : Bytes} {s : State} {id : Nat} {e : Bytes} (h0 : Kept z0 s) : Kept z0
    (ethToChan pay s id e) := by
  dsimp only [ethToChan]
  repeat' first
    | with_reducible assumption
    | with_reducible apply refreshChan_kept
    | with_reducible apply receiveChan_kept
    | fail_if_no_progress (with_reducible refine Kept.upd ?_ rfl rfl rfl rfl rfl rfl rfl)
    | split

theorem stepClock_kept {z0 : State} {lc : Nat} {s : State} (h0 : Kept z0 s) : Kept z0 (stepClock lc s) := by
  dsimp only [stepClock]
  repeat' first
    | with_reducible assumption
    | with_reducible apply raise_kept
    | with_reducible apply ethStartAll_kept
    | fail_if_no_progress (with_reducible refine Kept.upd ?_ rfl rfl rfl rfl rfl rfl rfl)

theorem ptpPort_kept {z0 : State} {p : Fin 2} {new : BitVec 4} {gm : DWord} {s : State} (h0 : Kept z0 s) : Kept z0
    (ptpPort p new gm s) := by
  dsimp only [ptpPort]
  repeat' first
    | with_reducible assumption
    | with_reducible apply raise_kept
    | with_reducible apply modEth_kept
    | fail_if_no_progress (with_reducible refine Kept.upd ?_ rfl rfl rfl rfl rfl rfl rfl)
    | split

theorem ptpEffect_kept {z0 : State} {x : Config.PtpEvent} {a : Config.PtpAnswer} {s : State} (h0 : Kept z0 s) : Kept z0
    (ptpEffect x a s) := by
  dsimp only [ptpEffect]
  repeat' first
    | with_reducible assumption
    | with_reducible apply refreshSource_kept
    | with_reducible apply enqueueOwn_kept
    | with_reducible apply stepClock_kept
    | with_reducible apply ptpPort_kept
    | with_reducible apply Kept.foldl
    | fail_if_no_progress (with_reducible refine Kept.upd ?_ rfl rfl rfl rfl rfl rfl rfl)
    | split
    | intro _

theorem ethDown_kept {z0 : State} {p : Fin 2} {s : State} (h0 : Kept z0 s) : Kept z0 (ethDown p s) := by
  dsimp only [ethDown]
  repeat' first
    | with_reducible assumption
    | with_reducible apply refreshWhere_kept
    | with_reducible apply modEth_kept
    | with_reducible apply raiseEth_kept
    | fail_if_no_progress (with_reducible refine Kept.upd ?_ rfl rfl rfl rfl rfl rfl rfl)
    | split

theorem ethAccept_kept {z0 : State} {old new : Bytes} {s : State} (h0 : Kept z0 s) : Kept z0 (ethAccept old new s) := by
  dsimp only [ethAccept]
  repeat' first
    | with_reducible assumption
    | with_reducible apply refreshWhere_kept
    | with_reducible apply ethDown_kept
    | with_reducible apply Kept.foldl
    | fail_if_no_progress (with_reducible refine Kept.upd ?_ rfl rfl rfl rfl rfl rfl rfl)
    | split
    | intro _

theorem timeAccept_kept {z0 : State} {s : State} (h0 : Kept z0 s) : Kept z0 (timeAccept s) := by
  dsimp only [timeAccept]
  repeat' first
    | with_reducible assumption
    | with_reducible apply modEth_kept
    | with_reducible apply Kept.foldl
    | fail_if_no_progress (with_reducible refine Kept.upd ?_ rfl rfl rfl rfl rfl rfl rfl)
    | split
    | intro _

theorem receiveEth_kept {z0 : State} {p : Fin 2} {frame : Bytes} {sfd : Nat} {s : State} (h0 : Kept z0 s) : Kept z0
    (receiveEth p frame sfd s) := by
  dsimp only [receiveEth]
  repeat' first
    | with_reducible assumption
    | with_reducible apply hostWrite_kept
    | with_reducible apply passMessage_kept
    | with_reducible apply modEth_kept
    | with_reducible apply enqueueOwn_kept
    | with_reducible apply ethToChan_kept
    | with_reducible apply ptpEffect_kept
    | with_reducible apply Kept.foldl
    | fail_if_no_progress (with_reducible refine Kept.upd ?_ rfl rfl rfl rfl rfl rfl rfl)
    | split
    | intro _

theorem arriveEth_kept {z0 : State} {p : Fin 2} {frame : Bytes} {fcsGood : Bool} {sfd : Nat} {s : State} (h0 : Kept z0
    s) : Kept z0 (arriveEth p frame fcsGood sfd s) := by
  dsimp only [arriveEth]
  repeat' first
    | with_reducible assumption
    | with_reducible apply modEth_kept
    | with_reducible apply receiveEth_kept
    | fail_if_no_progress (with_reducible refine Kept.upd ?_ rfl rfl rfl rfl rfl rfl rfl)
    | split

/-! ### Startup -/


theorem setStore_kept {z0 : State} {st : BitVec 2} {s : State} (h0 : Kept z0 s) : Kept z0 (setStore st s) := by
  dsimp only [setStore]
  repeat' first
    | with_reducible assumption
    | with_reducible apply raise_kept
    | fail_if_no_progress (with_reducible refine Kept.upd ?_ rfl rfl rfl rfl rfl rfl rfl)
    | split

theorem startAfresh_kept {z0 : State} {powered : Bool} {s : State} (h0 : Kept z0 s) : Kept z0 (startAfresh powered s) :=
    by
  refine h0.trans ⟨rfl, rfl, Nat.le_refl _, id, fun e => ?_⟩
  simp only [State.memWf, State.localWf, Bool.and_eq_true, List.all_eq_true] at e ⊢
  have hm : Mem.wf0 (if powered then flushRecorder s else s.ret).mram = true := by
    split
    · exact flushRecorder_wf0 e.1.1.1.2
    · exact e.1.1.1.2
  have hf (x : FwSlot) (h : Mem.wf x.image = true) : Mem.wf (slotAtStart x).image = true := by
    unfold slotAtStart
    split
    · rfl
    · exact h
  refine ⟨⟨⟨⟨e.1.1.1.1, hm⟩, rfl⟩, rfl⟩, ⟨fun i _ => ?_, hf _ e.2.1.2⟩, hf _ e.2.2⟩
  simp only [startAfresh, Fin.getElem_fin, Vector.getElem_map]
  rfl

theorem startUp_kept {z0 : State} {powered : Bool} {s : State} (h0 : Kept z0 s) : Kept z0 (startUp powered s) := by
  dsimp only [startUp]
  repeat' first
    | with_reducible assumption
    | with_reducible apply setStore_kept
    | with_reducible apply startAfresh_kept
    | fail_if_no_progress (with_reducible refine Kept.upd ?_ rfl rfl rfl rfl rfl rfl rfl)
    | split

/-! ### Pair -/


theorem raisePair_kept {z0 : State} {code data : Nat} {s : State} (h0 : Kept z0 s) : Kept z0 (raisePair code data s) :=
    by
  dsimp only [raisePair]
  repeat' first
    | with_reducible assumption
    | with_reducible apply raise_kept

theorem modPair_kept {z0 : State} {f : PairSt → PairSt} {s : State} (h0 : Kept z0 s) : Kept z0 (modPair f s) := by
  dsimp only [modPair]
  repeat' first
    | with_reducible assumption
    | fail_if_no_progress (with_reducible refine Kept.upd ?_ rfl rfl rfl rfl rfl rfl rfl)

theorem supersede_kept {z0 : State} {claim : Word} {via : Nat} {s : State} (h0 : Kept z0 s) : Kept z0 (supersede claim
    via s) := by
  dsimp only [supersede]
  repeat' first
    | with_reducible assumption
    | with_reducible apply settleOutputs_kept
    | with_reducible apply raisePair_kept
    | with_reducible apply modPair_kept
    | fail_if_no_progress (with_reducible refine Kept.upd ?_ rfl rfl rfl rfl rfl rfl rfl)
    | split

theorem endHandover_kept {z0 : State} {status : Byte} {s : State} (h0 : Kept z0 s) : Kept z0 (endHandover status s) :=
    by
  dsimp only [endHandover]
  repeat' first
    | with_reducible assumption
    | with_reducible apply completeWait_kept
    | with_reducible apply modPair_kept
    | with_reducible apply Kept.foldl
    | fail_if_no_progress (with_reducible refine Kept.upd ?_ rfl rfl rfl rfl rfl rfl rfl)
    | split
    | intro _

theorem handOver_kept {z0 : State} {s : State} (h0 : Kept z0 s) : Kept z0 (handOver s) := by
  dsimp only [handOver]
  repeat' first
    | with_reducible assumption
    | with_reducible apply changeMode_kept
    | with_reducible apply modPair_kept
    | with_reducible apply endHandover_kept

theorem seeClaim_kept {z0 : State} {claim : Word} {unit via : Nat} {s : State} (h0 : Kept z0 s) : Kept z0 (seeClaim
    claim unit via s) := by
  dsimp only [seeClaim]
  repeat' first
    | with_reducible assumption
    | with_reducible apply modPair_kept
    | with_reducible apply supersede_kept
    | with_reducible apply handOver_kept
    | fail_if_no_progress (with_reducible refine Kept.upd ?_ rfl rfl rfl rfl rfl rfl rfl)
    | split

theorem refuseTakeover_kept {z0 : State} {notCurrent failed : Bool} {s : State} (h0 : Kept z0 s) : Kept z0
    (refuseTakeover notCurrent failed s) := by
  dsimp only [refuseTakeover]
  repeat' first
    | with_reducible assumption
    | with_reducible apply settleOutputs_kept
    | with_reducible apply raisePair_kept
    | with_reducible apply modPair_kept

theorem takeoverEvent_kept {z0 : State} {handover : Bool} {s : State} (h0 : Kept z0 s) : Kept z0 (takeoverEvent handover
    s) := by
  dsimp only [takeoverEvent]
  repeat' first
    | with_reducible assumption
    | with_reducible apply takeClaim_kept
    | with_reducible apply modPair_kept
    | with_reducible apply refuseTakeover_kept
    | fail_if_no_progress (with_reducible refine Kept.upd ?_ rfl rfl rfl rfl rfl rfl rfl)
    | split

theorem releaseHeld_kept {z0 : State} {s : State} (h0 : Kept z0 s) : Kept z0 (releaseHeld s) := by
  dsimp only [releaseHeld]
  repeat' first
    | with_reducible assumption
    | with_reducible apply applyDue_kept
    | fail_if_no_progress (with_reducible refine Kept.upd ?_ rfl rfl rfl rfl rfl rfl rfl)
    | split

theorem claimFailed_kept {z0 : State} {claim : Word} {why : ClaimFor} {s : State} (h0 : Kept z0 s) : Kept z0
    (claimFailed claim why s) := by
  dsimp only [claimFailed]
  repeat' first
    | with_reducible assumption
    | with_reducible apply completeWait_kept
    | with_reducible apply raisePair_kept
    | with_reducible apply modPair_kept
    | with_reducible apply seeClaim_kept
    | with_reducible apply refuseTakeover_kept
    | with_reducible apply releaseHeld_kept
    | with_reducible apply Kept.foldl
    | fail_if_no_progress (with_reducible refine Kept.upd ?_ rfl rfl rfl rfl rfl rfl rfl)
    | split
    | intro _

theorem modeRunNow_kept {z0 : State} {s : State} (h0 : Kept z0 s) : Kept z0 (modeRunNow s) := by
  dsimp only [modeRunNow]
  repeat' first
    | with_reducible assumption
    | with_reducible apply completeWait_kept
    | with_reducible apply enterRun_kept
    | with_reducible apply Kept.foldl
    | fail_if_no_progress (with_reducible refine Kept.upd ?_ rfl rfl rfl rfl rfl rfl rfl)
    | split
    | intro _

theorem decideRole_kept {z0 : State} {role : BitVec 2} {beaten : Bool} {row : Nat} {s : State} (h0 : Kept z0 s) : Kept
    z0 (decideRole role beaten row s) := by
  dsimp only [decideRole]
  repeat' first
    | with_reducible assumption
    | with_reducible apply raisePair_kept
    | with_reducible apply modPair_kept

theorem dropLink_kept {z0 : State} {cause : Nat} {s : State} (h0 : Kept z0 s) : Kept z0 (dropLink cause s) := by
  dsimp only [dropLink]
  repeat' first
    | with_reducible assumption
    | with_reducible apply raisePair_kept
    | with_reducible apply modPair_kept
    | fail_if_no_progress (with_reducible refine Kept.upd ?_ rfl rfl rfl rfl rfl rfl rfl)
    | split

theorem startTraining_kept {z0 : State} {s : State} (h0 : Kept z0 s) : Kept z0 (startTraining s) := by
  dsimp only [startTraining]
  repeat' first
    | with_reducible assumption
    | with_reducible apply modPair_kept
    | fail_if_no_progress (with_reducible refine Kept.upd ?_ rfl rfl rfl rfl rfl rfl rfl)
    | split

theorem endRetrain_kept {z0 : State} {s : State} (h0 : Kept z0 s) : Kept z0 (endRetrain s) := by
  dsimp only [endRetrain]
  repeat' first
    | with_reducible assumption
    | with_reducible apply completeWait_kept
    | with_reducible apply Kept.foldl
    | fail_if_no_progress (with_reducible refine Kept.upd ?_ rfl rfl rfl rfl rfl rfl rfl)
    | split
    | intro _

theorem telithAccept_kept {z0 : State} {s : State} (h0 : Kept z0 s) : Kept z0 (telithAccept s) := by
  dsimp only [telithAccept]
  repeat' first
    | with_reducible assumption
    | with_reducible apply modPair_kept
    | with_reducible apply dropLink_kept
    | with_reducible apply startTraining_kept
    | fail_if_no_progress (with_reducible refine Kept.upd ?_ rfl rfl rfl rfl rfl rfl rfl)
    | split

theorem unitClash_kept {z0 : State} {i : Identity} {s : State} (h0 : Kept z0 s) : Kept z0 (unitClash i s) := by
  dsimp only [unitClash]
  repeat' first
    | with_reducible assumption
    | with_reducible apply raisePair_kept
    | with_reducible apply modPair_kept
    | with_reducible apply decideRole_kept

theorem takeIdentity_kept {z0 : State} {i : Identity} {s : State} (h0 : Kept z0 s) : Kept z0 (takeIdentity i s) := by
  dsimp only [takeIdentity]
  repeat' first
    | with_reducible assumption
    | with_reducible apply modPair_kept
    | with_reducible apply unitClash_kept
    | fail_if_no_progress (with_reducible refine Kept.upd ?_ rfl rfl rfl rfl rfl rfl rfl)
    | split

theorem linkTrained_kept {z0 : State} {i : Identity} {s : State} (h0 : Kept z0 s) : Kept z0 (linkTrained i s) := by
  dsimp only [linkTrained]
  repeat' first
    | with_reducible assumption
    | with_reducible apply raisePair_kept

theorem startTime_kept {z0 : State} {task : Nat} {s : State} (h0 : Kept z0 s) : Kept z0 (startTime task s) := by
  dsimp only [startTime]
  repeat' first
    | with_reducible assumption
    | fail_if_no_progress (with_reducible refine Kept.upd ?_ rfl rfl rfl rfl rfl rfl rfl)

theorem takePartnerTime_kept {z0 : State} {s : State} (h0 : Kept z0 s) : Kept z0 (takePartnerTime s) := by
  dsimp only [takePartnerTime]
  repeat' first
    | with_reducible assumption
    | with_reducible apply refreshSource_kept
    | with_reducible apply startTime_kept
    | fail_if_no_progress (with_reducible refine Kept.upd ?_ rfl rfl rfl rfl rfl rfl rfl)
    | split

theorem startupClaim_kept {z0 : State} {ended : Bool} {s : State} (h0 : Kept z0 s) : Kept z0 (startupClaim ended s) :=
    by
  dsimp only [startupClaim]
  repeat' first
    | with_reducible assumption
    | with_reducible apply takeClaim_kept
    | fail_if_no_progress (with_reducible refine Kept.upd ?_ rfl rfl rfl rfl rfl rfl rfl)
    | split

theorem sendBeats_kept {z0 : State} {s : State} (h0 : Kept z0 s) : Kept z0 (sendBeats s) := by
  dsimp only [sendBeats]
  repeat' first
    | with_reducible assumption
    | with_reducible apply modPair_kept

theorem followPartner_kept {z0 : State} {h : Heartbeat} {s : State} (h0 : Kept z0 s) : Kept z0 (followPartner h s) := by
  dsimp only [followPartner]
  repeat' first
    | with_reducible assumption
    | with_reducible apply steer_kept
    | fail_if_no_progress (with_reducible refine Kept.upd ?_ rfl rfl rfl rfl rfl rfl rfl)
    | split

theorem takeOver_kept {z0 : State} {s : State} (h0 : Kept z0 s) : Kept z0 (takeOver s) := by
  dsimp only [takeOver]
  repeat' first
    | with_reducible assumption
    | with_reducible apply modTasks_kept
    | with_reducible apply armWdt_kept
    | with_reducible apply changeMode_kept
    | with_reducible apply raisePair_kept
    | with_reducible apply modPair_kept
    | fail_if_no_progress (with_reducible refine Kept.upd ?_ rfl rfl rfl rfl rfl rfl rfl)

/-! ### Ihloz -/


theorem modIhloz_kept {z0 : State} {f : IhlozSt → IhlozSt} {s : State} (h0 : Kept z0 s) : Kept z0 (modIhloz f s) := by
  dsimp only [modIhloz]
  repeat' first
    | with_reducible assumption
    | fail_if_no_progress (with_reducible refine Kept.upd ?_ rfl rfl rfl rfl rfl rfl rfl)

theorem raiseIhloz_kept {z0 : State} {code data : Nat} {s : State} (h0 : Kept z0 s) : Kept z0 (raiseIhloz code data s)
    := by
  dsimp only [raiseIhloz]
  repeat' first
    | with_reducible assumption
    | with_reducible apply raise_kept

theorem modPort_kept {z0 : State} {p : Fin 8} {f : StarPort → StarPort} {s : State} (h0 : Kept z0 s) : Kept z0 (modPort
    p f s) := by
  dsimp only [modPort]
  repeat' first
    | with_reducible assumption
    | fail_if_no_progress (with_reducible refine Kept.upd ?_ rfl rfl rfl rfl rfl rfl rfl)

theorem refreshStar_kept {z0 : State} {s : State} (h0 : Kept z0 s) : Kept z0 (refreshStar s) := by
  dsimp only [refreshStar]
  repeat' first
    | with_reducible assumption
    | with_reducible apply raise_kept
    | fail_if_no_progress (with_reducible refine Kept.upd ?_ rfl rfl rfl rfl rfl rfl rfl)
    | split

theorem setMembers_kept {z0 : State} {m : BitVec 32} {s : State} (h0 : Kept z0 s) : Kept z0 (setMembers m s) := by
  dsimp only [setMembers]
  repeat' first
    | with_reducible assumption
    | with_reducible apply modIhloz_kept
    | with_reducible apply raiseIhloz_kept
    | fail_if_no_progress (with_reducible refine Kept.upd ?_ rfl rfl rfl rfl rfl rfl rfl)
    | split

theorem viewMembers_kept {z0 : State} {m : BitVec 32} {s : State} (h0 : Kept z0 s) : Kept z0 (viewMembers m s) := by
  dsimp only [viewMembers]
  repeat' first
    | with_reducible assumption
    | with_reducible apply modIhloz_kept
    | with_reducible apply setMembers_kept
    | fail_if_no_progress (with_reducible refine Kept.upd ?_ rfl rfl rfl rfl rfl rfl rfl)
    | split

theorem nodeState_kept {z0 : State} {st : BitVec 3} {s : State} (h0 : Kept z0 s) : Kept z0 (nodeState st s) := by
  dsimp only [nodeState]
  repeat' first
    | with_reducible assumption
    | with_reducible apply refreshWhere_kept
    | with_reducible apply refreshSource_kept
    | with_reducible apply modIhloz_kept
    | with_reducible apply refreshStar_kept

theorem join_kept {z0 : State} {cold passive : Bool} {s : State} (h0 : Kept z0 s) : Kept z0 (join cold passive s) := by
  dsimp only [join]
  repeat' first
    | with_reducible assumption
    | with_reducible apply modIhloz_kept
    | with_reducible apply raiseIhloz_kept
    | with_reducible apply setMembers_kept
    | with_reducible apply nodeState_kept

theorem leaveTick_kept {z0 : State} {s : State} (h0 : Kept z0 s) : Kept z0 (leaveTick s) := by
  dsimp only [leaveTick]
  repeat' first
    | with_reducible assumption
    | fail_if_no_progress (with_reducible refine Kept.upd ?_ rfl rfl rfl rfl rfl rfl rfl)

theorem leave_kept {z0 : State} {cause : Nat} {st : BitVec 3} {s : State} (h0 : Kept z0 s) : Kept z0 (leave cause st s)
    := by
  dsimp only [leave]
  repeat' first
    | with_reducible assumption
    | with_reducible apply modIhloz_kept
    | with_reducible apply raiseIhloz_kept
    | with_reducible apply viewMembers_kept
    | with_reducible apply nodeState_kept
    | with_reducible apply leaveTick_kept
    | fail_if_no_progress (with_reducible refine Kept.upd ?_ rfl rfl rfl rfl rfl rfl rfl)
    | split

theorem toMode_kept {z0 : State} {m : BitVec 3} {s : State} (h0 : Kept z0 s) : Kept z0 (toMode m s) := by
  dsimp only [toMode]
  repeat' first
    | with_reducible assumption
    | with_reducible apply modIhloz_kept
    | with_reducible apply setMembers_kept
    | with_reducible apply nodeState_kept
    | fail_if_no_progress (with_reducible refine Kept.upd ?_ rfl rfl rfl rfl rfl rfl rfl)
    | split

theorem nodeAccept_kept {z0 : State} {s : State} (h0 : Kept z0 s) : Kept z0 (nodeAccept s) := by
  dsimp only [nodeAccept]
  repeat' first
    | with_reducible assumption
    | with_reducible apply nodeState_kept
    | with_reducible apply leave_kept
    | fail_if_no_progress (with_reducible refine Kept.upd ?_ rfl rfl rfl rfl rfl rfl rfl)
    | split

theorem starAccept_kept {z0 : State} {s : State} (h0 : Kept z0 s) : Kept z0 (starAccept s) := by
  dsimp only [starAccept]
  repeat' first
    | with_reducible assumption
    | with_reducible apply raise_kept
    | with_reducible apply refreshStar_kept
    | fail_if_no_progress (with_reducible refine Kept.upd ?_ rfl rfl rfl rfl rfl rfl rfl)
    | split

theorem backOff_kept {z0 : State} {onA onB unseen : Bool} {s : State} (h0 : Kept z0 s) : Kept z0 (backOff onA onB unseen
    s) := by
  dsimp only [backOff]
  repeat' first
    | with_reducible assumption
    | with_reducible apply modIhloz_kept
    | with_reducible apply raiseIhloz_kept
    | with_reducible apply nodeState_kept

theorem setVote_kept {z0 : State} {v : Option Vote} {s : State} (h0 : Kept z0 s) : Kept z0 (setVote v s) := by
  dsimp only [setVote]
  repeat' first
    | with_reducible assumption
    | fail_if_no_progress (with_reducible refine Kept.upd ?_ rfl rfl rfl rfl rfl rfl rfl)

theorem dropVote_kept {z0 : State} {h : IhlozHeader} {s : State} (h0 : Kept z0 s) : Kept z0 (dropVote h s) := by
  dsimp only [dropVote]
  repeat' first
    | with_reducible assumption
    | fail_if_no_progress (with_reducible refine Kept.upd ?_ rfl rfl rfl rfl rfl rfl rfl)

theorem takeVote_kept {z0 : State} {h : IhlozHeader} {s : State} (h0 : Kept z0 s) : Kept z0 (takeVote h s) := by
  dsimp only [takeVote]
  repeat' first
    | with_reducible assumption
    | with_reducible apply raise_kept
    | with_reducible apply completeWait_kept
    | with_reducible apply setVote_kept
    | with_reducible apply dropVote_kept
    | fail_if_no_progress (with_reducible refine Kept.upd ?_ rfl rfl rfl rfl rfl rfl rfl)
    | split

theorem takeAgreed_kept {z0 : State} {h : IhlozHeader} {s : State} (h0 : Kept z0 s) : Kept z0 (takeAgreed h s) := by
  dsimp only [takeAgreed]
  repeat' first
    | with_reducible assumption
    | with_reducible apply wantTarget_kept
    | with_reducible apply setVote_kept
    | fail_if_no_progress (with_reducible refine Kept.upd ?_ rfl rfl rfl rfl rfl rfl rfl)
    | split

theorem checkTag_kept {z0 : State} {f : IhlozFrame} {s : State} (h0 : Kept z0 s) : Kept z0 (checkTag f s) := by
  dsimp only [checkTag]
  repeat' first
    | with_reducible assumption
    | with_reducible apply modIhloz_kept
    | with_reducible apply raiseIhloz_kept
    | fail_if_no_progress (with_reducible refine Kept.upd ?_ rfl rfl rfl rfl rfl rfl rfl)
    | split

theorem copyInvalid_kept {z0 : State} {f : IhlozFrame} {s : State} (h0 : Kept z0 s) : Kept z0 (copyInvalid f s) := by
  dsimp only [copyInvalid]
  repeat' first
    | with_reducible assumption
    | with_reducible apply modIhloz_kept
    | with_reducible apply checkTag_kept

theorem copyClaim_kept {z0 : State} {h : IhlozHeader} {s : State} (h0 : Kept z0 s) : Kept z0 (copyClaim h s) := by
  dsimp only [copyClaim]
  repeat' first
    | with_reducible assumption
    | with_reducible apply seeClaim_kept
    | with_reducible apply modIhloz_kept
    | fail_if_no_progress (with_reducible refine Kept.upd ?_ rfl rfl rfl rfl rfl rfl rfl)
    | split

theorem ihlozToChan_kept {z0 : State} {pay : Bytes} {s : State} {id : Nat} {e : Bytes} (h0 : Kept z0 s) : Kept z0
    (ihlozToChan pay s id e) := by
  dsimp only [ihlozToChan]
  repeat' first
    | with_reducible assumption
    | with_reducible apply refreshChan_kept
    | with_reducible apply receiveChan_kept
    | fail_if_no_progress (with_reducible refine Kept.upd ?_ rfl rfl rfl rfl rfl rfl rfl)
    | split

theorem freightIn_kept {z0 : State} {sender : BitVec 5} {pay : Bytes} {s : State} (h0 : Kept z0 s) : Kept z0 (freightIn
    sender pay s) := by
  dsimp only [freightIn]
  repeat' first
    | with_reducible assumption
    | with_reducible apply passMessage_kept
    | fail_if_no_progress (with_reducible refine Kept.upd ?_ rfl rfl rfl rfl rfl rfl rfl)
    | split

theorem deliverData_kept {z0 : State} {f : IhlozFrame} {s : State} (h0 : Kept z0 s) : Kept z0 (deliverData f s) := by
  dsimp only [deliverData]
  repeat' first
    | with_reducible assumption
    | with_reducible apply modIhloz_kept
    | with_reducible apply ihlozToChan_kept
    | with_reducible apply Kept.foldl
    | fail_if_no_progress (with_reducible refine Kept.upd ?_ rfl rfl rfl rfl rfl rfl rfl)
    | split
    | intro _

theorem actOnCopy_kept {z0 : State} {f : IhlozFrame} {s : State} (h0 : Kept z0 s) : Kept z0 (actOnCopy f s) := by
  dsimp only [actOnCopy]
  repeat' first
    | with_reducible assumption
    | with_reducible apply takeVote_kept
    | with_reducible apply takeAgreed_kept
    | with_reducible apply freightIn_kept
    | fail_if_no_progress (with_reducible refine Kept.upd ?_ rfl rfl rfl rfl rfl rfl rfl)
    | split

theorem settleCopy_kept {z0 : State} {s : State} (h0 : Kept z0 s) : Kept z0 (settleCopy s) := by
  dsimp only [settleCopy]
  repeat' first
    | with_reducible assumption
    | with_reducible apply modIhloz_kept
    | with_reducible apply actOnCopy_kept
    | fail_if_no_progress (with_reducible refine Kept.upd ?_ rfl rfl rfl rfl rfl rfl rfl)
    | split

theorem deliver_kept {z0 : State} {chanB : Bool} {f : IhlozFrame} {arrival : Int} {s : State} (h0 : Kept z0 s) : Kept z0
    (deliver chanB f arrival s) := by
  dsimp only [deliver]
  repeat' first
    | with_reducible assumption
    | with_reducible apply triggerAll_kept
    | with_reducible apply modIhloz_kept
    | with_reducible apply viewMembers_kept
    | with_reducible apply copyClaim_kept
    | with_reducible apply deliverData_kept
    | with_reducible apply actOnCopy_kept
    | with_reducible apply settleCopy_kept
    | fail_if_no_progress (with_reducible refine Kept.upd ?_ rfl rfl rfl rfl rfl rfl rfl)
    | split

theorem secondCopy_kept {z0 : State} {chanB : Bool} {f : IhlozFrame} {arrival : Int} {r : SlotRx} {s : State} (h0 : Kept
    z0 s) : Kept z0 (secondCopy chanB f arrival r s) := by
  dsimp only [secondCopy]
  repeat' first
    | with_reducible assumption
    | with_reducible apply modIhloz_kept
    | with_reducible apply copyClaim_kept
    | with_reducible apply deliverData_kept
    | with_reducible apply actOnCopy_kept
    | with_reducible apply settleCopy_kept
    | fail_if_no_progress (with_reducible refine Kept.upd ?_ rfl rfl rfl rfl rfl rfl rfl)
    | split

theorem integrate_kept {z0 : State} {chanB : Bool} {h : IhlozHeader} {arrival : Int} {s : State} (h0 : Kept z0 s) : Kept
    z0 (integrate chanB h arrival s) := by
  dsimp only [integrate]
  repeat' first
    | with_reducible assumption
    | with_reducible apply modIhloz_kept
    | with_reducible apply nodeState_kept

theorem validAdvances_kept {z0 : State} {chanB : Bool} {f : IhlozFrame} {arrival : Int} {s : State} (h0 : Kept z0 s) :
    Kept z0 (validAdvances chanB f arrival s) := by
  dsimp only [validAdvances]
  repeat' first
    | with_reducible assumption
    | with_reducible apply modIhloz_kept
    | with_reducible apply join_kept
    | with_reducible apply integrate_kept
    | fail_if_no_progress (with_reducible refine Kept.upd ?_ rfl rfl rfl rfl rfl rfl rfl)
    | split

theorem starCollide_kept {z0 : State} {s : State} (h0 : Kept z0 s) : Kept z0 (starCollide s) := by
  dsimp only [starCollide]
  repeat' first
    | with_reducible assumption
    | fail_if_no_progress (with_reducible refine Kept.upd ?_ rfl rfl rfl rfl rfl rfl rfl)

theorem stillForwarding_kept {z0 : State} {p : Fin 9} {tick : Int} {s : State} (h0 : Kept z0 s) : Kept z0
    (stillForwarding p tick s).2 := by
  dsimp only [stillForwarding]
  repeat' first
    | with_reducible assumption
    | with_reducible apply takeFree_kept
    | fail_if_no_progress (with_reducible refine Kept.upd ?_ rfl rfl rfl rfl rfl rfl rfl)
    | dsimp only
    | with_reducible refine takeFree_kept_eq ?_ (by assumption)
    | split

theorem stillForwarding_kept_eq {z0 : State} {p : Fin 9} {tick : Int} {s : State} (h0 : Kept z0 s) {v0} {r0 : State} (e0
    : (stillForwarding p tick s) = (v0, r0)) : Kept z0 r0 := by
  have := stillForwarding_kept (z0 := z0) (p := p) (tick := tick) (s := s)  h0
  rw [e0] at this
  exact this

theorem passOwn_kept {z0 : State} {s : State} (h0 : Kept z0 s) : Kept z0 (passOwn s) := by
  dsimp only [passOwn]
  repeat' first
    | with_reducible assumption
    | with_reducible apply starCollide_kept
    | with_reducible apply stillForwarding_kept
    | fail_if_no_progress (with_reducible refine Kept.upd ?_ rfl rfl rfl rfl rfl rfl rfl)
    | with_reducible refine stillForwarding_kept_eq ?_ (by assumption)
    | split

theorem ownSeen_kept {z0 : State} {seenA seenB : Bool} {s : State} (h0 : Kept z0 s) : Kept z0 (ownSeen seenA seenB s) :=
    by
  dsimp only [ownSeen]
  repeat' first
    | with_reducible assumption
    | with_reducible apply modIhloz_kept

theorem ownVote_kept {z0 : State} {s : State} (h0 : Kept z0 s) : Kept z0 (ownVote s) := by
  dsimp only [ownVote]
  repeat' first
    | with_reducible assumption
    | with_reducible apply setVote_kept
    | fail_if_no_progress (with_reducible refine Kept.upd ?_ rfl rfl rfl rfl rfl rfl rfl)
    | split

theorem sendOwn_kept {z0 : State} {h : IhlozHeader} {pay : Bytes} {s : State} (h0 : Kept z0 s) : Kept z0 (sendOwn h pay
    s) := by
  dsimp only [sendOwn]
  repeat' first
    | with_reducible assumption
    | with_reducible apply modIhloz_kept
    | with_reducible apply passOwn_kept

theorem keptOld_kept {z0 : State} {s : State} (h0 : Kept z0 s) : Kept z0 (keptOld s) := by
  dsimp only [keptOld]
  repeat' first
    | with_reducible assumption
    | with_reducible apply modIhloz_kept
    | with_reducible apply leave_kept
    | fail_if_no_progress (with_reducible refine Kept.upd ?_ rfl rfl rfl rfl rfl rfl rfl)
    | split

theorem cycleState_kept {z0 : State} {s : State} (h0 : Kept z0 s) : Kept z0 (cycleState s) := by
  dsimp only [cycleState]
  repeat' first
    | with_reducible assumption
    | with_reducible apply modIhloz_kept
    | with_reducible apply join_kept
    | with_reducible apply leave_kept
    | fail_if_no_progress (with_reducible refine Kept.upd ?_ rfl rfl rfl rfl rfl rfl rfl)
    | split

theorem cycleEnd_kept {z0 : State} {s : State} (h0 : Kept z0 s) : Kept z0 (cycleEnd s) := by
  dsimp only [cycleEnd]
  repeat' first
    | with_reducible assumption
    | with_reducible apply Kept.foldl
    | fail_if_no_progress (with_reducible refine Kept.upd ?_ rfl rfl rfl rfl rfl rfl rfl)
    | split
    | intro _

theorem slotless_kept {z0 : State} {c : Sched} {s : State} (h0 : Kept z0 s) : Kept z0 (slotless c s) := by
  dsimp only [slotless]
  repeat' first
    | with_reducible assumption
    | with_reducible apply modIhloz_kept
    | with_reducible apply viewMembers_kept
    | with_reducible apply Kept.foldl
    | fail_if_no_progress (with_reducible refine Kept.upd ?_ rfl rfl rfl rfl rfl rfl rfl)
    | split
    | intro _

theorem portCycle_kept {z0 : State} {s : State} {p : Fin 8} (h0 : Kept z0 s) : Kept z0 (portCycle s p) := by
  dsimp only [portCycle]
  repeat' first
    | with_reducible assumption
    | with_reducible apply raise_kept
    | with_reducible apply modPort_kept
    | fail_if_no_progress (with_reducible refine Kept.upd ?_ rfl rfl rfl rfl rfl rfl rfl)
    | split

theorem align_kept {z0 : State} {offset : Int} {s : State} (h0 : Kept z0 s) : Kept z0 (align offset s) := by
  dsimp only [align]
  repeat' first
    | with_reducible assumption
    | with_reducible apply steer_kept
    | with_reducible apply modIhloz_kept
    | with_reducible apply raiseIhloz_kept
    | fail_if_no_progress (with_reducible refine Kept.upd ?_ rfl rfl rfl rfl rfl rfl rfl)
    | split

theorem newCycle_kept {z0 : State} {c : Sched} {s : State} (h0 : Kept z0 s) : Kept z0 (newCycle c s) := by
  dsimp only [newCycle]
  repeat' first
    | with_reducible assumption
    | with_reducible apply modIhloz_kept

theorem passMarker_kept {z0 : State} {port : Option (Fin 8)} {s : State} (h0 : Kept z0 s) : Kept z0 (passMarker port s)
    := by
  dsimp only [passMarker]
  repeat' first
    | with_reducible assumption
    | fail_if_no_progress (with_reducible refine Kept.upd ?_ rfl rfl rfl rfl rfl rfl rfl)
    | split

theorem violation_kept {z0 : State} {p : Fin 8} {s : State} (h0 : Kept z0 s) : Kept z0 (violation p s) := by
  dsimp only [violation]
  repeat' first
    | with_reducible assumption
    | with_reducible apply raise_kept
    | with_reducible apply modPort_kept
    | fail_if_no_progress (with_reducible refine Kept.upd ?_ rfl rfl rfl rfl rfl rfl rfl)
    | split

theorem starTake_kept {z0 : State} {p : Fin 8} {tick : Int} {s : State} (h0 : Kept z0 s) : Kept z0 (starTake p tick s)
    := by
  dsimp only [starTake]
  repeat' first
    | with_reducible assumption
    | fail_if_no_progress (with_reducible refine Kept.upd ?_ rfl rfl rfl rfl rfl rfl rfl)

/-! ### Settings -/


theorem moveGrid_kept {z0 : State} {before s : State} (h0 : Kept z0 s) : Kept z0 (moveGrid before s) := by
  dsimp only [moveGrid]
  repeat' first
    | with_reducible assumption
    | fail_if_no_progress (with_reducible refine Kept.upd ?_ rfl rfl rfl rfl rfl rfl rfl)
    | split

theorem modDiGrp_kept {z0 : State} {g : Nat} {f : DiGrp → DiGrp} {s : State} (h0 : Kept z0 s) : Kept z0 (modDiGrp g f s)
    := by
  dsimp only [modDiGrp]
  repeat' first
    | with_reducible assumption
    | fail_if_no_progress (with_reducible refine Kept.upd ?_ rfl rfl rfl rfl rfl rfl rfl)

theorem diAccept_kept {z0 : State} {before s : State} (h0 : Kept z0 s) : Kept z0 (diAccept before s) := by
  dsimp only [diAccept]
  repeat' first
    | with_reducible assumption
    | with_reducible apply diGain_kept
    | with_reducible apply modDiGrp_kept
    | with_reducible apply Kept.foldl
    | fail_if_no_progress (with_reducible refine Kept.upd ?_ rfl rfl rfl rfl rfl rfl rfl)
    | split
    | intro _

theorem cycleAccept_kept {z0 : State} {old b : Bytes} {s : State} (h0 : Kept z0 s) : Kept z0 (cycleAccept old b s) := by
  dsimp only [cycleAccept]
  repeat' first
    | with_reducible assumption
    | fail_if_no_progress (with_reducible refine Kept.upd ?_ rfl rfl rfl rfl rfl rfl rfl)
    | split

theorem blockEffect_kept {z0 : State} {id : Nat} {old new : Bytes} {before s : State} (h0 : Kept z0 s) : Kept z0
    (blockEffect id old new before s) := by
  unfold blockEffect
  repeat' first
    | with_reducible assumption
    | with_reducible apply canAccept_kept
    | with_reducible apply ethAccept_kept
    | with_reducible apply timeAccept_kept
    | with_reducible apply telithAccept_kept
    | with_reducible apply nodeAccept_kept
    | with_reducible apply starAccept_kept
    | with_reducible apply diAccept_kept
    | with_reducible apply cycleAccept_kept
    | with_reducible refine Kept.ite ?_ ?_
    | with_reducible refine Kept.upd ?_ rfl rfl rfl rfl rfl rfl rfl

theorem acceptBlock_kept {z0 : State} {id : Nat} {new : Bytes} {s : State} (h0 : Kept z0 s) : Kept z0 (acceptBlock id
    new s) := by
  dsimp only [acceptBlock]
  repeat' first
    | with_reducible assumption
    | with_reducible apply refreshChans_kept
    | with_reducible apply refreshSource_kept
    | with_reducible apply blockEffect_kept
    | fail_if_no_progress (with_reducible refine Kept.upd ?_ rfl rfl rfl rfl rfl rfl rfl)

end Sys2Proof.Machine
end

