-- ==== Sys2Proof/Laws/KeptStore.lean ====
section
/-! SUPPORT. What no command undoes, for the shared operations of
the retain store, boot, project and mode commands, and paired execution: each keeps the queue, the factory record, the free values
taken, a locked seal and the canonical form of every memory. -/

namespace Sys2Proof.Machine

/-! ### Store -/


theorem modRet_kept {z0 : State} {f : RetSt → RetSt} {s : State} (hl : s.ret.sealLock = true → (f s.ret).sealLock =
    true)
    (hm : Mem.wf0 s.ret.mram = true → Mem.wf0 (f s.ret).mram = true) (h0 : Kept z0 s) : Kept z0 (modRet f s) :=
  Kept.store h0 hl hm rfl rfl rfl rfl rfl

theorem saveDone_kept {z0 : State} {cause : BitVec 2} {n : Nat} {s : State} (h0 : Kept z0 s) : Kept z0 (saveDone cause n
    s) := by
  unfold saveDone
  dsimp only
  refine modRet_kept ?_ ?_ h0 <;> (intro e; simpa using e)

theorem sealDone_kept {z0 : State} {ring_ : Fin 8} {s : State} (h0 : Kept z0 s) : Kept z0 (sealDone ring_ s) := by
  unfold sealDone
  extract_lets n s1 unit isSeal
  have h1 : Kept z0 s1 := takeFree_kept h0
  clear_value s1
  split
  · exact completeWait_kept (modRet_kept (fun e => (storePage_seal _ _ _).trans e) storePage_wf0 h1)
  · exact completeWait_kept (raise_kept (modRet_kept (fun _ => rfl) (fun e => e) h1))

theorem opDone_kept {z0 : State} {k : RetKind} {s : State} (h0 : Kept z0 s) : Kept z0 (opDone k s) := by
  dsimp only [opDone]
  repeat' first
    | with_reducible assumption
    | with_reducible apply completeWait_kept
    | with_reducible apply nextSave_kept
    | with_reducible apply acceptBlock_kept
    | with_reducible apply modRet_kept
    | with_reducible apply saveDone_kept
    | with_reducible apply sealDone_kept
    | fail_if_no_progress (with_reducible refine Kept.upd ?_ rfl rfl rfl rfl rfl rfl rfl)
    | exact id
    | exact fun _ => rfl
    | exact storePage_wf0
    | exact Mem.wf0_setAll _ _
    | split

theorem saveAbandoned_kept {z0 : State} {cause : BitVec 2} {wrote mv : Nat} {s : State} (h0 : Kept z0 s) : Kept z0
    (saveAbandoned cause wrote mv s) := by
  unfold saveAbandoned
  exact raise_kept (modRet_kept id id h0)

theorem opRefused_kept {z0 : State} {o : RetOp} {mv : Nat} {s : State} (h0 : Kept z0 s) : Kept z0 (opRefused o mv s) :=
    by
  dsimp only [opRefused]
  repeat' first
    | with_reducible assumption
    | with_reducible apply completeWait_kept
    | with_reducible apply nextSave_kept
    | with_reducible apply claimFailed_kept
    | with_reducible apply modRet_kept
    | with_reducible apply saveAbandoned_kept
    | fail_if_no_progress (with_reducible refine Kept.upd ?_ rfl rfl rfl rfl rfl rfl rfl)
    | exact id
    | exact fun _ => rfl
    | exact storePage_wf0
    | exact Mem.wf0_setAll _ _
    | split

theorem unlatch_kept {z0 : State} {o : RetOp} {left : List (Nat × Bytes)} {s : State} (h0 : Kept z0 s) : Kept z0
    (unlatch o left s) := by
  dsimp only [unlatch]
  repeat' first
    | with_reducible assumption
    | fail_if_no_progress (with_reducible refine Kept.upd ?_ rfl rfl rfl rfl rfl rfl rfl)
    | split

theorem storeFails_kept {z0 : State} {o : RetOp} {s : State} (h0 : Kept z0 s) : Kept z0 (storeFails o s).2 := by
  dsimp only [storeFails]
  repeat' first
    | with_reducible assumption
    | with_reducible apply takeFree_kept
    | fail_if_no_progress (with_reducible refine Kept.upd ?_ rfl rfl rfl rfl rfl rfl rfl)
    | dsimp only
    | with_reducible refine takeFree_kept_eq ?_ (by assumption)
    | split

theorem storeFails_kept_eq {z0 : State} {o : RetOp} {s : State} (h0 : Kept z0 s) {v0} {r0 : State} (e0 : (storeFails o
    s) = (v0, r0)) : Kept z0 r0 := by
  have := storeFails_kept (z0 := z0) (o := o) (s := s)  h0
  rw [e0] at this
  exact this

theorem claimTorn_kept {z0 : State} {o : RetOp} {p : Nat × Bytes} {s : State} (h0 : Kept z0 s) : Kept z0 (claimTorn o p
    s) := by
  dsimp only [claimTorn]
  repeat' first
    | with_reducible assumption
    | with_reducible apply takeFree_kept
    | with_reducible apply claimFailed_kept
    | with_reducible apply modRet_kept
    | fail_if_no_progress (with_reducible refine Kept.upd ?_ rfl rfl rfl rfl rfl rfl rfl)
    | with_reducible refine takeFree_kept_eq ?_ (by assumption)
    | exact id
    | exact fun _ => rfl
    | exact storePage_wf0
    | exact Mem.wf0_setAll _ _
    | split

theorem finishPage_kept {z0 : State} {s : State} (h0 : Kept z0 s) : Kept z0 (finishPage s) := by
  unfold finishPage
  split
  · next o rest _ =>
    split
    · exact h0
    · split
      · exact modRet_kept id id h0
      · next p b _ =>
        extract_lets q s0 r r2 left s1
        have h1 : Kept z0 s0 := storeFails_kept h0
        split
        · exact claimTorn_kept (modRet_kept id id h1)
        · have h2 : r2.sealLock = r.sealLock ∧ r2.mram = r.mram := by
            dsimp only [r2]
            split
            · exact ⟨setValid_seal _ _ _, setValid_mram _ _ _⟩
            · split
              · exact ⟨setValid_seal _ _ _, setValid_mram _ _ _⟩
              · exact ⟨rfl, rfl⟩
            · exact ⟨rfl, rfl⟩
          have hs : Kept z0 s1 := unlatch_kept h1
          have hr : s1.ret = s0.ret := by
            dsimp only [s1, unlatch]
            split <;> rfl
          have hl : s1.ret.sealLock = true → r2.sealLock = true := fun e => h2.1.trans (by rw [hr] at e; exact e)
          have hm : Mem.wf0 s1.ret.mram = true → Mem.wf0 r2.mram = true := fun e => by
            rw [h2.2]
            rw [hr] at e
            exact storePage_wf0 e
          clear_value r2 s1
          split
          · exact opDone_kept (Kept.store hs hl hm rfl rfl rfl rfl rfl)
          · exact Kept.store hs hl hm rfl rfl rfl rfl rfl
  · exact h0

theorem startPage_kept {z0 : State} {mv : Nat} {s : State} (h0 : Kept z0 s) : Kept z0 (startPage mv s) := by
  unfold startPage
  split
  · split
    · exact h0
    · split
      · exact modRet_kept id id h0
      · exact opRefused_kept (modRet_kept id id h0)
  · exact h0

theorem noteOverflow_kept {z0 : State} {s : State} (h0 : Kept z0 s) : Kept z0 (noteOverflow s) := by
  dsimp only [noteOverflow]
  repeat' first
    | with_reducible assumption
    | with_reducible apply raise_kept
    | fail_if_no_progress (with_reducible refine Kept.upd ?_ rfl rfl rfl rfl rfl rfl rfl)
    | split

theorem recordedLatch_kept {z0 : State} {s : State} (h0 : Kept z0 s) : Kept z0 (recordedLatch s) := by
  dsimp only [recordedLatch]
  repeat' first
    | with_reducible assumption
    | fail_if_no_progress (with_reducible refine Kept.upd ?_ rfl rfl rfl rfl rfl rfl rfl)
    | split

/-! ### Boot -/


theorem copyInvalidEvent_kept {z0 : State} {pair copy page : Nat} {blank : Bool} {s : State} (h0 : Kept z0 s) : Kept z0
    (copyInvalidEvent pair copy page blank s) := by
  dsimp only [copyInvalidEvent]
  repeat' first
    | with_reducible assumption
    | with_reducible apply raise_kept
    | fail_if_no_progress (with_reducible refine Kept.upd ?_ rfl rfl rfl rfl rfl rfl rfl)
    | split

theorem chooseCopy_kept {z0 : State} {pair : Nat} {a b : CopyFound} {same : Bool} {s : State} (h0 : Kept z0 s) : Kept z0
    (chooseCopy pair a b same s).2 := by
  dsimp only [chooseCopy]
  repeat' first
    | with_reducible assumption
    | with_reducible apply raise_kept
    | with_reducible apply copyInvalidEvent_kept
    | fail_if_no_progress (with_reducible refine Kept.upd ?_ rfl rfl rfl rfl rfl rfl rfl)
    | dsimp only
    | split

theorem chooseCopy_kept_eq {z0 : State} {pair : Nat} {a b : CopyFound} {same : Bool} {s : State} (h0 : Kept z0 s) {v0}
    {r0 : State} (e0 : (chooseCopy pair a b same s) = (v0, r0)) : Kept z0 r0 := by
  have := chooseCopy_kept (z0 := z0) (pair := pair) (a := a) (b := b) (same := same) (s := s)  h0
  rw [e0] at this
  exact this

theorem chooseCopies_kept {z0 : State} {s : State} (h0 : Kept z0 s) : Kept z0 (chooseCopies s) := by
  dsimp only [chooseCopies]
  repeat' first
    | with_reducible assumption
    | with_reducible apply raise_kept
    | with_reducible apply chooseCopy_kept
    | fail_if_no_progress (with_reducible refine Kept.upd ?_ rfl rfl rfl rfl rfl rfl rfl)
    | with_reducible refine chooseCopy_kept_eq ?_ (by assumption)
    | split

theorem settingsInvalid_kept {z0 : State} {block copy page : Nat} {blank : Bool} {s : State} (h0 : Kept z0 s) : Kept z0
    (settingsInvalid block copy page blank s) := by
  dsimp only [settingsInvalid]
  repeat' first
    | with_reducible assumption
    | with_reducible apply raise_kept
    | fail_if_no_progress (with_reducible refine Kept.upd ?_ rfl rfl rfl rfl rfl rfl rfl)
    | split

theorem chooseSettings_kept {z0 : State} {block : Nat} {a b : CopyFound} {same : Bool} {s : State} (h0 : Kept z0 s) :
    Kept z0 (chooseSettings block a b same s).2 := by
  dsimp only [chooseSettings]
  repeat' first
    | with_reducible assumption
    | with_reducible apply raise_kept
    | with_reducible apply settingsInvalid_kept
    | fail_if_no_progress (with_reducible refine Kept.upd ?_ rfl rfl rfl rfl rfl rfl rfl)
    | dsimp only
    | split

theorem chooseSettings_kept_eq {z0 : State} {block : Nat} {a b : CopyFound} {same : Bool} {s : State} (h0 : Kept z0 s)
    {v0} {r0 : State} (e0 : (chooseSettings block a b same s) = (v0, r0)) : Kept z0 r0 := by
  have := chooseSettings_kept (z0 := z0) (block := block) (a := a) (b := b) (same := same) (s := s)  h0
  rw [e0] at this
  exact this

theorem readSettings_kept {z0 : State} {s : State} {block_ : Nat} (h0 : Kept z0 s) : Kept z0 (readSettings s block_) :=
    by
  dsimp only [readSettings]
  repeat' first
    | with_reducible assumption
    | with_reducible apply raise_kept
    | with_reducible apply takeFree_kept
    | with_reducible apply chooseSettings_kept
    | fail_if_no_progress (with_reducible refine Kept.upd ?_ rfl rfl rfl rfl rfl rfl rfl)
    | with_reducible refine takeFree_kept_eq ?_ (by assumption)
    | with_reducible refine chooseSettings_kept_eq ?_ (by assumption)
    | split

theorem readAllSettings_kept {z0 : State} {s : State} (h0 : Kept z0 s) : Kept z0 (readAllSettings s) := by
  dsimp only [readAllSettings]
  repeat' first
    | with_reducible assumption
    | with_reducible apply readSettings_kept
    | with_reducible apply Kept.foldl
    | fail_if_no_progress (with_reducible refine Kept.upd ?_ rfl rfl rfl rfl rfl rfl rfl)

theorem readStore_kept {z0 : State} {s : State} (h0 : Kept z0 s) : Kept z0 (readStore s) := by
  dsimp only [readStore]
  repeat' first
    | with_reducible assumption
    | with_reducible apply chooseCopies_kept
    | with_reducible apply readAllSettings_kept
    | fail_if_no_progress (with_reducible refine Kept.upd ?_ rfl rfl rfl rfl rfl rfl rfl)
    | split

theorem writeLatched_kept {z0 : State} {src code data : Nat} {x : List (Nat × Bytes) × State} (h0 : Kept z0 x.2) : Kept
    z0 (writeLatched src code data x).2 := by
  unfold writeLatched
  have h1 : Kept z0 (raise src code 0 data x.2) := raise_kept h0
  dsimp only
  split
  · exact Kept.store h1 id writeRecord_wf0 rfl rfl rfl rfl rfl
  · exact h1

theorem writeLatched_kept_eq {z0 : State} {src code data : Nat} {x : List (Nat × Bytes) × State} (h0 : Kept z0 x.2) {v0}
    {r0 : State} (e0 : (writeLatched src code data x) = (v0, r0)) : Kept z0 r0 := by
  have := writeLatched_kept (z0 := z0) (src := src) (code := code) (data := data) (x := x)  h0
  rw [e0] at this
  exact this

theorem phase3Run_kept {z0 : State} {s : State} (h0 : Kept z0 s) : Kept z0 (phase3Run s).2 := by
  unfold phase3Run
  extract_lets c c1 q r p q2 s1 x1 x2
  clear_value p
  have h1 : Kept z0 s1 := Kept.store h0 id (fun e => storePage_wf0 (r := r) e) rfl rfl rfl rfl rfl
  clear_value s1
  have h2 : Kept z0 x1.2 := by
    dsimp only [x1]
    split
    · exact writeLatched_kept h1
    · exact h1
  clear_value x1
  have h3 : Kept z0 x2.2 := by
    dsimp only [x2]
    split
    · exact writeLatched_kept h2
    · exact h2
  exact Kept.upd h3 rfl rfl rfl rfl rfl rfl rfl

theorem phase3Run_kept_eq {z0 : State} {s : State} (h0 : Kept z0 s) {v0} {r0 : State} (e0 : (phase3Run s) = (v0, r0)) :
    Kept z0 r0 := by
  have := phase3Run_kept (z0 := z0) (s := s)  h0
  rw [e0] at this
  exact this

theorem phase3Writes_kept {z0 : State} {s : State} (h0 : Kept z0 s) : Kept z0 (phase3Writes s) := by
  exact phase3Run_kept h0

theorem selfTestFail_kept {z0 : State} {test : Nat} {fatal : Bool} {concerned : Nat} {s : State} (h0 : Kept z0 s) : Kept
    z0 (selfTestFail test fatal concerned s) := by
  dsimp only [selfTestFail]
  repeat' first
    | with_reducible assumption
    | with_reducible apply raise_kept

theorem pinStored_kept {z0 : State} {ids : List Nat} {s : State} (h0 : Kept z0 s) : Kept z0 (pinStored ids s) := by
  dsimp only [pinStored]
  repeat' first
    | with_reducible assumption
    | with_reducible apply pinChan_kept
    | with_reducible apply Kept.foldl
    | fail_if_no_progress (with_reducible refine Kept.upd ?_ rfl rfl rfl rfl rfl rfl rfl)
    | split
    | intro _

theorem loadInputs_kept {z0 : State} {s : State} (h0 : Kept z0 s) : Kept z0 (loadInputs s) := by
  dsimp only [loadInputs]
  repeat' first
    | with_reducible assumption
    | with_reducible apply pinStored_kept

theorem loadStored_kept {z0 : State} {s : State} (h0 : Kept z0 s) : Kept z0 (loadStored s) := by
  unfold loadStored
  extract_lets enabled s1 s2
  have h1 : Kept z0 s1 := by
    refine Kept.home h0 rfl rfl (fun e _ => ?_) (fun _ e => ?_) rfl rfl rfl
    · split
      · exact initialHome_wf0 _
      · exact e
    · split
      · rfl
      · exact e
  clear_value s1
  have h2 : Kept z0 s2 := by
    dsimp only [s2]
    split
    · exact restartEnables_kept h1
    · exact h1
  clear_value s2
  exact refreshLayout_kept (wantNow_kept (pinStored_kept (settleHomes_kept h2)))

theorem restartStored_kept {z0 : State} {s : State} (h0 : Kept z0 s) : Kept z0 (restartStored s) := by
  dsimp only [restartStored]
  repeat' first
    | with_reducible assumption
    | with_reducible apply restartData_kept
    | with_reducible apply restartEnables_kept
    | fail_if_no_progress (with_reducible refine Kept.upd ?_ rfl rfl rfl rfl rfl rfl rfl)
    | with_reducible refine restartData_kept_eq ?_ (by assumption)
    | split

theorem fixT0_kept {z0 : State} {t0 : Int} {s : State} (h0 : Kept z0 s) : Kept z0 (fixT0 t0 s) := by
  dsimp only [fixT0]
  repeat' first
    | with_reducible assumption
    | with_reducible apply moveGrid_kept
    | fail_if_no_progress (with_reducible refine Kept.upd ?_ rfl rfl rfl rfl rfl rfl rfl)
    | split

theorem bringUp_kept {z0 : State} {s : State} (h0 : Kept z0 s) : Kept z0 (bringUp s) := by
  unfold bringUp
  extract_lets p q1 s1 q2 s2 s3 q4 s4 s5 s6 s7 s8
  have h1 : Kept z0 s1 := Kept.ite (Kept.upd h0 rfl rfl rfl rfl rfl rfl rfl) h0
  clear_value s1
  have h2 : Kept z0 s2 := Kept.ite (loadInputs_kept (Kept.upd h1 rfl rfl rfl rfl rfl rfl rfl)) h1
  clear_value s2
  have h3 : Kept z0 s3 := Kept.ite (readStore_kept h2) h2
  clear_value s3
  have h4 : Kept z0 s4 := Kept.ite (Kept.upd h3 rfl rfl rfl rfl rfl rfl rfl) h3
  clear_value s4
  have h5 : Kept z0 s5 := Kept.ite (startTraining_kept h4) h4
  clear_value s5
  have h6 : Kept z0 s6 := Kept.ite h5 (modPair_kept h5)
  clear_value s6
  have h7 : Kept z0 s7 := Kept.ite h6 (startTime_kept h6)
  clear_value s7
  have h8 : Kept z0 s8 := Kept.ite (loadStored_kept h7) h7
  clear_value s8
  exact Kept.ite h8 (fixT0_kept h8)

theorem endedStartup_kept {z0 : State} {s : State} (h0 : Kept z0 s) : Kept z0 (endedStartup s) := by
  dsimp only [endedStartup]
  repeat' first
    | with_reducible assumption
    | with_reducible apply takeFree_kept
    | fail_if_no_progress (with_reducible refine Kept.upd ?_ rfl rfl rfl rfl rfl rfl rfl)

theorem faultSafe_kept {z0 : State} {cause : Nat} {s : State} (h0 : Kept z0 s) : Kept z0 (faultSafe cause s) := by
  dsimp only [faultSafe]
  repeat' first
    | with_reducible assumption
    | with_reducible apply enterSafe_kept
    | with_reducible apply nodeState_kept
    | with_reducible apply bringUp_kept
    | with_reducible apply endedStartup_kept
    | fail_if_no_progress (with_reducible refine Kept.upd ?_ rfl rfl rfl rfl rfl rfl rfl)
    | split

/-! ### Commands -/


theorem unlisted_kept {z0 : State} {d : Desc} {s : State} (h0 : Kept z0 s) : Kept z0 (unlisted d s) := by
  dsimp only [unlisted]
  repeat' first
    | with_reducible assumption
    | with_reducible apply complete_kept
    | with_reducible apply startNext_kept
    | with_reducible apply unpredicted_kept
    | fail_if_no_progress (with_reducible refine Kept.upd ?_ rfl rfl rfl rfl rfl rfl rfl)
    | split

theorem badAction_kept {z0 : State} {d : Desc} {op : Nat} {s : State} (h0 : Kept z0 s) : Kept z0 (badAction d op s) :=
    by
  unfold badAction
  split
  · exact hostCommand_kept (fun _ h => h) h0
  · exact h0

theorem goOn_kept {z0 : State} {u : StallId} {f : Fin 4} {g : Inst → Inst} {s : State} (h0 : Kept z0 s) : Kept z0 (goOn
    u f g s) := by
  unfold goOn
  extract_lets s1
  have h1 : Kept z0 s1 := modInst_kept h0
  clear_value s1
  split
  · split
    · exact h1
    · split
      · exact modInst_kept h1
      · split
        · exact modInst_kept (modStall_kept (fun x e => by simp only [loadFrame]; exact e) h1)
        · exact h1
  · exact h1

theorem runPair_kept {z0 : State} {t : BitVec 7} {s : State} (h0 : Kept z0 s) : Kept z0 (runPair t s) := by
  dsimp only [runPair]
  repeat' first
    | with_reducible assumption
    | with_reducible apply modTask_kept

theorem resumeTask_kept {z0 : State} {t : BitVec 7} {s : State} (h0 : Kept z0 s) : Kept z0 (resumeTask t s) := by
  dsimp only [resumeTask]
  repeat' first
    | with_reducible assumption
    | with_reducible apply modTask_kept
    | with_reducible apply raiseTask_kept
    | with_reducible apply modInst_kept
    | with_reducible apply goOn_kept
    | with_reducible apply runPair_kept
    | with_reducible apply Kept.foldl
    | fail_if_no_progress (with_reducible refine Kept.upd ?_ rfl rfl rfl rfl rfl rfl rfl)
    | exact fun _ e => e
    | exact fun _ _ => rfl
    | exact fun _ e => Mem.wf_putAll _ _ e
    | exact fun _ _ => Mem.wf_putAll _ _ rfl
    | split
    | intro _

theorem endStep_kept {z0 : State} {t : BitVec 7} {issued : Nat} {s : State} (h0 : Kept z0 s) : Kept z0 (endStep t issued
    s) := by
  dsimp only [endStep]
  repeat' first
    | with_reducible assumption
    | with_reducible apply completeWait_kept
    | with_reducible apply Kept.foldl
    | fail_if_no_progress (with_reducible refine Kept.upd ?_ rfl rfl rfl rfl rfl rfl rfl)
    | split
    | intro _

theorem resumeAll_kept {z0 : State} {s : State} (h0 : Kept z0 s) : Kept z0 (resumeAll s) := by
  dsimp only [resumeAll]
  repeat' first
    | with_reducible assumption
    | with_reducible apply refuseSteps_kept
    | with_reducible apply resumeTask_kept
    | with_reducible apply Kept.foldl
    | fail_if_no_progress (with_reducible refine Kept.upd ?_ rfl rfl rfl rfl rfl rfl rfl)
    | split
    | intro _

theorem trackSet_kept {z0 : State} {d : Desc} {reason : Half} {s : State} (h0 : Kept z0 s) : Kept z0 (trackSet d reason
    s) := by
  dsimp only [trackSet]
  repeat' first
    | with_reducible assumption
    | with_reducible apply ok_kept
    | with_reducible apply fail_kept
    | with_reducible apply changeMode_kept
    | with_reducible apply raisePair_kept
    | with_reducible apply modPair_kept
    | fail_if_no_progress (with_reducible refine Kept.upd ?_ rfl rfl rfl rfl rfl rfl rfl)
    | split

theorem modeBody_kept {z0 : State} {d : Desc} {m : Nat} {start : Byte} {reason : Half} {s : State} (h0 : Kept z0 s) :
    Kept z0 (modeBody d m start reason s) := by
  dsimp only [modeBody]
  repeat' first
    | with_reducible assumption
    | with_reducible apply defer_kept
    | with_reducible apply ok_kept
    | with_reducible apply takeClaim_kept
    | with_reducible apply changeMode_kept
    | with_reducible apply enterSafe_kept
    | with_reducible apply startUp_kept
    | with_reducible apply resumeAll_kept
    | with_reducible apply trackSet_kept
    | fail_if_no_progress (with_reducible refine Kept.upd ?_ rfl rfl rfl rfl rfl rfl rfl)
    | split

theorem takeImages_kept {z0 : State} {d : Desc} {st : List (Nat × MoveWord)} {so : List (Nat × RungWord)} {init : Bytes}
    {s : State} (h0 : Kept z0 s) : Kept z0 (takeImages d st so init s).2 := by
  dsimp only [takeImages]
  split
  · exact h0
  · split
    · exact h0.trans ⟨rfl, rfl, Nat.le_add_right _ _, id, id⟩
    · exact freeBytes_kept (h0.trans ⟨rfl, rfl, by dsimp only; omega, id, id⟩)

theorem loadProject_kept {z0 : State} {p : LoadPackage} {s : State} (h0 : Kept z0 s) : Kept z0 (loadProject p s) := by
  unfold loadProject
  extract_lets bank proj enabled
  exact settleHomes_kept (Kept.foldl (fun _ _ h => liftBad_kept h)
    (Kept.home h0 rfl rfl (fun _ _ => initialHome_wf0 _) (fun _ _ => rfl) rfl rfl rfl))

theorem endTaskLoad_kept {z0 : State} {s : State} (h0 : Kept z0 s) : Kept z0 (endTaskLoad s) := by
  dsimp only [endTaskLoad]
  repeat' first
    | with_reducible assumption
    | with_reducible apply completeWait_kept
    | with_reducible apply Kept.foldl
    | fail_if_no_progress (with_reducible refine Kept.upd ?_ rfl rfl rfl rfl rfl rfl rfl)
    | split
    | intro _

theorem replaceEntry_kept {z0 : State} {id : Nat} {e : Bytes} {s : State} (h0 : Kept z0 s) : Kept z0 (replaceEntry id e
    s) := by
  dsimp only [replaceEntry]
  repeat' first
    | with_reducible assumption
    | with_reducible apply entryForce_kept
    | fail_if_no_progress (with_reducible refine Kept.upd ?_ rfl rfl rfl rfl rfl rfl rfl)
    | split

theorem syncOne_kept {z0 : State} {s : State} {c : Nat} {read : Option Bytes} (h0 : Kept z0 s) : Kept z0 (syncOne s c
    read).1 := by
  dsimp only [syncOne]
  repeat' first
    | with_reducible assumption
    | with_reducible apply takeEntry_kept
    | with_reducible apply replaceEntry_kept
    | fail_if_no_progress (with_reducible refine Kept.upd ?_ rfl rfl rfl rfl rfl rfl rfl)
    | dsimp only
    | with_reducible refine takeEntry_kept_eq ?_ (by assumption)
    | split

theorem syncOne_kept_eq {z0 : State} {s : State} {c : Nat} {read : Option Bytes} (h0 : Kept z0 s) {v0} {r0 : State} (e0
    : (syncOne s c read) = (r0, v0)) : Kept z0 r0 := by
  have := syncOne_kept (z0 := z0) (s := s) (c := c) (read := read) h0
  rw [e0] at this
  exact this

theorem fetchResult_kept {z0 : State} {kind : Nat} {good : Bool} {ring addr : Nat} {s : State} (h0 : Kept z0 s) : Kept
    z0 (fetchResult kind good ring addr s) := by
  dsimp only [fetchResult]
  repeat' first
    | with_reducible assumption
    | with_reducible apply raise_kept
    | fail_if_no_progress (with_reducible refine Kept.upd ?_ rfl rfl rfl rfl rfl rfl rfl)
    | split

/-! ### Pairing -/


theorem escalate_kept {z0 : State} {t : BitVec 7} {handover : Bool} {count : Nat} {pending : Bool} {s : State} (h0 :
    Kept z0 s) : Kept z0 (escalate t handover count pending s) := by
  dsimp only [escalate]
  repeat' first
    | with_reducible assumption
    | with_reducible apply modCtr_kept
    | with_reducible apply raiseTask_kept
    | with_reducible apply enterSafe_kept
    | with_reducible apply modPair_kept
    | fail_if_no_progress (with_reducible refine Kept.upd ?_ rfl rfl rfl rfl rfl rfl rfl)
    | split

theorem disagree_kept {z0 : State} {t : BitVec 7} {r : Release} {bits line : Nat} {s : State} (h0 : Kept z0 s) : Kept z0
    (disagree t r bits line s) := by
  dsimp only [disagree]
  repeat' first
    | with_reducible assumption
    | with_reducible apply modCtr_kept
    | with_reducible apply raiseTask_kept
    | with_reducible apply escalate_kept
    | fail_if_no_progress (with_reducible refine Kept.upd ?_ rfl rfl rfl rfl rfl rfl rfl)
    | split

theorem startPair_kept {z0 : State} {t : BitVec 7} {s : State} (h0 : Kept z0 s) : Kept z0 (startPair t s) := by
  dsimp only [startPair]
  repeat' first
    | with_reducible assumption
    | with_reducible apply modTask_kept

theorem stopPair_kept {z0 : State} {t : BitVec 7} {s : State} (h0 : Kept z0 s) : Kept z0 (stopPair t s) := by
  dsimp only [stopPair]
  repeat' first
    | with_reducible assumption
    | with_reducible apply modTask_kept

theorem settleStep_kept {z0 : State} {t : BitVec 7} {issued : Nat} {s : State} (h0 : Kept z0 s) : Kept z0 (settleStep t
    issued s) := by
  dsimp only [settleStep]
  repeat' first
    | with_reducible assumption
    | with_reducible apply modTask_kept
    | with_reducible apply endStep_kept
    | with_reducible apply Kept.foldl
    | fail_if_no_progress (with_reducible refine Kept.upd ?_ rfl rfl rfl rfl rfl rfl rfl)
    | split

theorem abortTask_kept {z0 : State} {t : BitVec 7} {code detail : Nat} {bFirst : Bool} {s : State} (h0 : Kept z0 s) :
    Kept z0 (abortTask t code detail bFirst s) := by
  dsimp only [abortTask]
  repeat' first
    | with_reducible assumption
    | with_reducible apply abortInstance_kept
    | with_reducible apply settleStep_kept

theorem faultCopy_kept {z0 : State} {t : BitVec 7} {copyB : Bool} {code detail : Nat} {s : State} (h0 : Kept z0 s) :
    Kept z0 (faultCopy t copyB code detail s) := by
  dsimp only [faultCopy]
  repeat' first
    | with_reducible assumption
    | with_reducible apply disagree_kept
    | with_reducible apply abortTask_kept
    | fail_if_no_progress (with_reducible refine Kept.upd ?_ rfl rfl rfl rfl rfl rfl rfl)
    | split

theorem pairAbort_kept {z0 : State} {t : BitVec 7} {code bits line : Nat} {s : State} (h0 : Kept z0 s) : Kept z0
    (pairAbort t code bits line s) := by
  dsimp only [pairAbort]
  repeat' first
    | with_reducible assumption
    | with_reducible apply modCtr_kept
    | with_reducible apply disagree_kept
    | with_reducible apply abortTask_kept
    | fail_if_no_progress (with_reducible refine Kept.upd ?_ rfl rfl rfl rfl rfl rfl rfl)
    | split

end Sys2Proof.Machine
end

