-- ==== Sys2Proof/Laws/KeptRun.lean ====
section
/-! SUPPORT. What no command undoes, for the shared operations of
bundles, the cache, commits, edits, the host interface, solvers, placement, the Yardmaster and the cycle: each keeps the queue, the factory record, the free values
taken, a locked seal and the canonical form of every memory. -/

namespace Sys2Proof.Machine

/-! ### Bundle -/


theorem putScratch_kept {z0 : State} {u : StallId} {f : Fin 4} {off : Nat} {b : Bytes} {s : State} (h0 : Kept z0 s) :
    Kept z0 (putScratch u f off b s) := by
  dsimp only [putScratch]
  repeat' first
    | with_reducible assumption
    | with_reducible apply modStall_kept
    | fail_if_no_progress (with_reducible refine Kept.upd ?_ rfl rfl rfl rfl rfl rfl rfl)
    | exact fun _ e => e
    | exact fun _ _ => rfl
    | exact fun _ e => Mem.wf_putAll _ _ e

theorem setCtx_kept {z0 : State} {u : StallId} {g : Ctx → Ctx} {s : State} (h0 : Kept z0 s) : Kept z0 (setCtx u g s) :=
    by
  dsimp only [setCtx]
  repeat' first
    | with_reducible assumption
    | with_reducible apply modStall_kept
    | fail_if_no_progress (with_reducible refine Kept.upd ?_ rfl rfl rfl rfl rfl rfl rfl)
    | exact fun _ e => e

theorem takeMany_kept {z0 : State} {n : Nat} {s : State} (h0 : Kept z0 s) : Kept z0 (takeMany n s).2 := by
  dsimp only [takeMany]
  repeat' first
    | with_reducible assumption
    | with_reducible refine Kept.take ?_ rfl rfl rfl rfl rfl rfl rfl

theorem takeMany_kept_eq {z0 : State} {n : Nat} {s : State} (h0 : Kept z0 s) {v0} {r0 : State} (e0 : (takeMany n s) =
    (v0, r0)) : Kept z0 r0 := by
  have := takeMany_kept (z0 := z0) (n := n) (s := s)  h0
  rw [e0] at this
  exact this

theorem readData_kept {z0 : State} {u : StallId} {f : Fin 4} {a n : Nat} {s : State} (h0 : Kept z0 s) : Kept z0
    (readData u f a n s).2 := by
  dsimp only [readData]
  repeat' first
    | with_reducible assumption
    | with_reducible apply addrFault_kept
    | with_reducible apply noteRead_kept
    | fail_if_no_progress (with_reducible refine Kept.upd ?_ rfl rfl rfl rfl rfl rfl rfl)
    | dsimp only
    | split

theorem readData_kept_eq {z0 : State} {u : StallId} {f : Fin 4} {a n : Nat} {s : State} (h0 : Kept z0 s) {v0} {r0 :
    State} (e0 : (readData u f a n s) = (v0, r0)) : Kept z0 r0 := by
  have := readData_kept (z0 := z0) (u := u) (f := f) (a := a) (n := n) (s := s)  h0
  rw [e0] at this
  exact this

theorem writeData_kept {z0 : State} {u : StallId} {f : Fin 4} {a : Nat} {b : Bytes} {s : State} (h0 : Kept z0 s) : Kept
    z0 (writeData u f a b s).2 := by
  dsimp only [writeData]
  repeat' first
    | with_reducible assumption
    | with_reducible apply putScratch_kept
    | fail_if_no_progress (with_reducible refine Kept.upd ?_ rfl rfl rfl rfl rfl rfl rfl)
    | dsimp only
    | with_reducible refine bufferWrite_kept ?_ (by assumption)
    | split

theorem writeData_kept_eq {z0 : State} {u : StallId} {f : Fin 4} {a : Nat} {b : Bytes} {s : State} (h0 : Kept z0 s) {v0}
    {r0 : State} (e0 : (writeData u f a b s) = (v0, r0)) : Kept z0 r0 := by
  have := writeData_kept (z0 := z0) (u := u) (f := f) (a := a) (b := b) (s := s)  h0
  rw [e0] at this
  exact this

theorem loadTrig_kept {z0 : State} {u : StallId} {f : Fin 4} {cyc n : Nat} {a : Word} {p : Eff × State} (h0 : Kept z0
    p.2) : Kept z0 (loadTrig u f cyc n a p).2 := by
  dsimp only [loadTrig]
  repeat' first
    | with_reducible assumption
    | with_reducible apply modInst_kept
    | with_reducible apply addrFault_kept
    | with_reducible apply setCtx_kept
    | with_reducible apply Kept.foldl
    | fail_if_no_progress (with_reducible refine Kept.upd ?_ rfl rfl rfl rfl rfl rfl rfl)
    | dsimp only
    | exact fun _ e => e
    | exact fun _ _ => rfl
    | exact fun _ e => Mem.wf_putAll _ _ e
    | exact fun _ _ => Mem.wf_putAll _ _ rfl
    | split

theorem loadTrig_kept_eq {z0 : State} {u : StallId} {f : Fin 4} {cyc n : Nat} {a : Word} {p : Eff × State} (h0 : Kept z0
    p.2) {v0} {r0 : State} (e0 : (loadTrig u f cyc n a p) = (v0, r0)) : Kept z0 r0 := by
  have := loadTrig_kept (z0 := z0) (u := u) (f := f) (cyc := cyc) (n := n) (a := a) (p := p)  h0
  rw [e0] at this
  exact this

theorem storeTrig_kept {z0 : State} {u : StallId} {f : Fin 4} {n : Nat} {a : Word} {p : Eff × State} (h0 : Kept z0 p.2)
    : Kept z0 (storeTrig u f n a p).2 := by
  dsimp only [storeTrig]
  repeat' first
    | with_reducible assumption
    | with_reducible apply writeData_kept
    | fail_if_no_progress (with_reducible refine Kept.upd ?_ rfl rfl rfl rfl rfl rfl rfl)
    | dsimp only
    | with_reducible refine writeData_kept_eq ?_ (by assumption)
    | split

theorem storeTrig_kept_eq {z0 : State} {u : StallId} {f : Fin 4} {n : Nat} {a : Word} {p : Eff × State} (h0 : Kept z0
    p.2) {v0} {r0 : State} (e0 : (storeTrig u f n a p) = (v0, r0)) : Kept z0 r0 := by
  have := storeTrig_kept (z0 := z0) (u := u) (f := f) (n := n) (a := a) (p := p)  h0
  rw [e0] at this
  exact this

theorem blkTrig_kept {z0 : State} {u : StallId} {f : Fin 4} {cyc : Nat} {a : Word} {p : Eff × State} (h0 : Kept z0 p.2)
    : Kept z0 (blkTrig u f cyc a p).2 := by
  dsimp only [blkTrig]
  repeat' first
    | with_reducible assumption
    | with_reducible apply modInst_kept
    | fail_if_no_progress (with_reducible refine Kept.upd ?_ rfl rfl rfl rfl rfl rfl rfl)
    | dsimp only
    | exact fun _ e => e
    | exact fun _ _ => rfl
    | exact fun _ e => Mem.wf_putAll _ _ e
    | exact fun _ _ => Mem.wf_putAll _ _ rfl
    | split

theorem blkTrig_kept_eq {z0 : State} {u : StallId} {f : Fin 4} {cyc : Nat} {a : Word} {p : Eff × State} (h0 : Kept z0
    p.2) {v0} {r0 : State} (e0 : (blkTrig u f cyc a p) = (v0, r0)) : Kept z0 r0 := by
  have := blkTrig_kept (z0 := z0) (u := u) (f := f) (cyc := cyc) (a := a) (p := p)  h0
  rw [e0] at this
  exact this

theorem imageBytes_kept {z0 : State} {u : StallId} {f : Fin 4} {out : Bool} {off n : Nat} {s : State} (h0 : Kept z0 s) :
    Kept z0 (imageBytes u f out off n s).2 := by
  dsimp only [imageBytes]
  repeat' first
    | with_reducible assumption
    | with_reducible apply addrFault_kept
    | with_reducible apply noteRead_kept
    | fail_if_no_progress (with_reducible refine Kept.upd ?_ rfl rfl rfl rfl rfl rfl rfl)
    | dsimp only
    | split

theorem imageBytes_kept_eq {z0 : State} {u : StallId} {f : Fin 4} {out : Bool} {off n : Nat} {s : State} (h0 : Kept z0
    s) {v0} {r0 : State} (e0 : (imageBytes u f out off n s) = (v0, r0)) : Kept z0 r0 := by
  have := imageBytes_kept (z0 := z0) (u := u) (f := f) (out := out) (off := off) (n := n) (s := s)  h0
  rw [e0] at this
  exact this

theorem imgRead_kept {z0 : State} {u : StallId} {f : Fin 4} {cyc : Nat} {bit : Bool} {a : Word} {p : Eff × State} (h0 :
    Kept z0 p.2) : Kept z0 (imgRead u f cyc bit a p).2 := by
  dsimp only [imgRead]
  repeat' first
    | with_reducible assumption
    | with_reducible apply modInst_kept
    | with_reducible apply setCtx_kept
    | with_reducible apply imageBytes_kept
    | fail_if_no_progress (with_reducible refine Kept.upd ?_ rfl rfl rfl rfl rfl rfl rfl)
    | dsimp only
    | with_reducible refine imageBytes_kept_eq ?_ (by assumption)
    | exact fun _ e => e
    | exact fun _ _ => rfl
    | exact fun _ e => Mem.wf_putAll _ _ e
    | exact fun _ _ => Mem.wf_putAll _ _ rfl
    | split

theorem imgRead_kept_eq {z0 : State} {u : StallId} {f : Fin 4} {cyc : Nat} {bit : Bool} {a : Word} {p : Eff × State} (h0
    : Kept z0 p.2) {v0} {r0 : State} (e0 : (imgRead u f cyc bit a p) = (v0, r0)) : Kept z0 r0 := by
  have := imgRead_kept (z0 := z0) (u := u) (f := f) (cyc := cyc) (bit := bit) (a := a) (p := p)  h0
  rw [e0] at this
  exact this

theorem imageWrite_kept {z0 : State} {u : StallId} {f : Fin 4} {first n off : Nat} {b : Bytes} {s : State} (h0 : Kept z0
    s) : Kept z0 (imageWrite u f first n off b s).2 := by
  dsimp only [imageWrite]
  repeat' first
    | with_reducible assumption
    | with_reducible apply takeFree_kept
    | fail_if_no_progress (with_reducible refine Kept.upd ?_ rfl rfl rfl rfl rfl rfl rfl)
    | dsimp only
    | with_reducible refine takeFree_kept_eq ?_ (by assumption)
    | with_reducible refine bufferWrite_kept ?_ (by assumption)
    | split

theorem imageWrite_kept_eq {z0 : State} {u : StallId} {f : Fin 4} {first n off : Nat} {b : Bytes} {s : State} (h0 : Kept
    z0 s) {v0} {r0 : State} (e0 : (imageWrite u f first n off b s) = (v0, r0)) : Kept z0 r0 := by
  have := imageWrite_kept (z0 := z0) (u := u) (f := f) (first := first) (n := n) (off := off) (b := b) (s := s)  h0
  rw [e0] at this
  exact this

theorem imgWrite_kept {z0 : State} {u : StallId} {f : Fin 4} {bit : Bool} {a : Word} {p : Eff × State} (h0 : Kept z0
    p.2) : Kept z0 (imgWrite u f bit a p).2 := by
  rcases p with ⟨e, s⟩
  dsimp -zeta only [imgWrite]
  extract_lets x r
  have hr : Kept z0 r.2 := by
    dsimp only [r]
    split
    · exact h0
    · split
      · split
        · exact imageWrite_kept h0
        · exact h0
      · exact imageWrite_kept h0
  clear_value r
  rcases r with ⟨_ | q, s1⟩
  · exact hr
  · exact hr

theorem imgWrite_kept_eq {z0 : State} {u : StallId} {f : Fin 4} {bit : Bool} {a : Word} {p : Eff × State} (h0 : Kept z0
    p.2) {v0} {r0 : State} (e0 : (imgWrite u f bit a p) = (v0, r0)) : Kept z0 r0 := by
  have := imgWrite_kept (z0 := z0) (u := u) (f := f) (bit := bit) (a := a) (p := p)  h0
  rw [e0] at this
  exact this

theorem solverError_kept {z0 : State} {t : BitVec 7} {copyB : Bool} {err addr : Nat} {s : State} (h0 : Kept z0 s) : Kept
    z0 (solverError t copyB err addr s) := by
  dsimp only [solverError]
  repeat' first
    | with_reducible assumption
    | with_reducible apply modCtr_kept
    | with_reducible apply raiseTask_kept

theorem solveTrig_kept {z0 : State} {u : StallId} {f : Fin 4} {cyc : Nat} {a : Word} {p : Eff × State} (h0 : Kept z0
    p.2) : Kept z0 (solveTrig u f cyc a p).2 := by
  dsimp only [solveTrig]
  repeat' first
    | with_reducible assumption
    | with_reducible apply modTask_kept
    | with_reducible apply modBarn_kept
    | with_reducible apply takeFree_kept
    | with_reducible apply modInst_kept
    | with_reducible apply solverError_kept
    | fail_if_no_progress (with_reducible refine Kept.upd ?_ rfl rfl rfl rfl rfl rfl rfl)
    | dsimp only
    | with_reducible refine takeFree_kept_eq ?_ (by assumption)
    | exact fun _ e => e
    | exact fun _ _ => rfl
    | exact fun _ e => Mem.wf_putAll _ _ e
    | exact fun _ _ => Mem.wf_putAll _ _ rfl
    | split

theorem solveTrig_kept_eq {z0 : State} {u : StallId} {f : Fin 4} {cyc : Nat} {a : Word} {p : Eff × State} (h0 : Kept z0
    p.2) {v0} {r0 : State} (e0 : (solveTrig u f cyc a p) = (v0, r0)) : Kept z0 r0 := by
  have := solveTrig_kept (z0 := z0) (u := u) (f := f) (cyc := cyc) (a := a) (p := p)  h0
  rw [e0] at this
  exact this

theorem sendWdt_kept {z0 : State} {x : WdtIn} {s : State} (h0 : Kept z0 s) : Kept z0 (sendWdt x s) := by
  dsimp only [sendWdt]
  repeat' first
    | with_reducible assumption
    | fail_if_no_progress (with_reducible refine Kept.upd ?_ rfl rfl rfl rfl rfl rfl rfl)
    | split

theorem sysTrig_kept {z0 : State} {u : StallId} {f : Fin 4} {k : Nat} {g : Inst → State → State} {p : Eff × State} (hg :
    ∀ (i : Inst) (s : State), Kept z0 s → Kept z0 (g i s)) (h0 : Kept z0 p.2) : Kept z0 (sysTrig u f k g p).2 := by
  dsimp only [sysTrig]
  repeat' first
    | with_reducible assumption
    | with_reducible apply hg
    | fail_if_no_progress (with_reducible refine Kept.upd ?_ rfl rfl rfl rfl rfl rfl rfl)
    | dsimp only
    | split

theorem sysTrig_kept_eq {z0 : State} {u : StallId} {f : Fin 4} {k : Nat} {g : Inst → State → State} {p : Eff × State}
    (hg : ∀ (i : Inst) (s : State), Kept z0 s → Kept z0 (g i s)) (h0 : Kept z0 p.2) {v0} {r0 : State} (e0 : (sysTrig u f
    k g p) = (v0, r0)) : Kept z0 r0 := by
  have := sysTrig_kept (z0 := z0) (u := u) (f := f) (k := k) (g := g) (p := p) hg h0
  rw [e0] at this
  exact this

theorem evtTrig_kept {z0 : State} {u : StallId} {f : Fin 4} {a : Word} {p : Eff × State} (h0 : Kept z0 p.2) : Kept z0
    (evtTrig u f a p).2 := by
  dsimp only [evtTrig]
  repeat' first
    | with_reducible assumption
    | with_reducible apply modInst_kept
    | with_reducible apply sysTrig_kept
    | fail_if_no_progress (with_reducible refine Kept.upd ?_ rfl rfl rfl rfl rfl rfl rfl)
    | dsimp only
    | with_reducible refine sysTrig_kept_eq ?_ (by assumption)
    | exact fun _ e => e
    | exact fun _ _ => rfl
    | exact fun _ e => Mem.wf_putAll _ _ e
    | exact fun _ _ => Mem.wf_putAll _ _ rfl
    | split
    | intro _

theorem evtTrig_kept_eq {z0 : State} {u : StallId} {f : Fin 4} {a : Word} {p : Eff × State} (h0 : Kept z0 p.2) {v0} {r0
    : State} (e0 : (evtTrig u f a p) = (v0, r0)) : Kept z0 r0 := by
  have := evtTrig_kept (z0 := z0) (u := u) (f := f) (a := a) (p := p)  h0
  rw [e0] at this
  exact this

theorem branchTo_kept {z0 : State} {target : Nat} {p : Eff × State} (h0 : Kept z0 p.2) : Kept z0 (branchTo target p).2
    := by
  dsimp only [branchTo]
  repeat' first
    | with_reducible assumption

theorem branchTo_kept_eq {z0 : State} {target : Nat} {p : Eff × State} (h0 : Kept z0 p.2) {v0} {r0 : State} (e0 :
    (branchTo target p) = (v0, r0)) : Kept z0 r0 := by
  have := branchTo_kept (z0 := z0) (target := target) (p := p)  h0
  rw [e0] at this
  exact this

theorem branchIf_kept {z0 : State} {u : StallId} {c : Bool} {p : Eff × State} (h0 : Kept z0 p.2) : Kept z0 (branchIf u c
    p).2 := by
  dsimp only [branchIf]
  repeat' first
    | with_reducible assumption
    | with_reducible apply branchTo_kept
    | fail_if_no_progress (with_reducible refine Kept.upd ?_ rfl rfl rfl rfl rfl rfl rfl)
    | dsimp only
    | with_reducible refine branchTo_kept_eq ?_ (by assumption)
    | split

theorem branchIf_kept_eq {z0 : State} {u : StallId} {c : Bool} {p : Eff × State} (h0 : Kept z0 p.2) {v0} {r0 : State}
    (e0 : (branchIf u c p) = (v0, r0)) : Kept z0 r0 := by
  have := branchIf_kept (z0 := z0) (u := u) (c := c) (p := p)  h0
  rw [e0] at this
  exact this

theorem fire_kept {z0 : State} {u : StallId} {f : Fin 4} {cyc : Nat} {flags : Word} {d : Nat} {a : Word} {p : Eff ×
    State} (h0 : Kept z0 p.2) : Kept z0 (fire u f cyc flags d a p).2 := by
  dsimp only [fire]
  repeat' first
    | with_reducible assumption
    | with_reducible apply setCtx_kept
    | with_reducible apply loadTrig_kept
    | with_reducible apply storeTrig_kept
    | with_reducible apply blkTrig_kept
    | with_reducible apply imgRead_kept
    | with_reducible apply imgWrite_kept
    | with_reducible apply solveTrig_kept
    | with_reducible apply sendWdt_kept
    | with_reducible apply sysTrig_kept
    | with_reducible apply evtTrig_kept
    | with_reducible apply branchTo_kept
    | with_reducible apply branchIf_kept
    | fail_if_no_progress (with_reducible refine Kept.upd ?_ rfl rfl rfl rfl rfl rfl rfl)
    | dsimp only
    | with_reducible refine loadTrig_kept_eq ?_ (by assumption)
    | with_reducible refine storeTrig_kept_eq ?_ (by assumption)
    | with_reducible refine blkTrig_kept_eq ?_ (by assumption)
    | with_reducible refine imgRead_kept_eq ?_ (by assumption)
    | with_reducible refine imgWrite_kept_eq ?_ (by assumption)
    | with_reducible refine solveTrig_kept_eq ?_ (by assumption)
    | with_reducible refine sysTrig_kept_eq ?_ (by assumption)
    | with_reducible refine evtTrig_kept_eq ?_ (by assumption)
    | with_reducible refine branchTo_kept_eq ?_ (by assumption)
    | with_reducible refine branchIf_kept_eq ?_ (by assumption)
    | exact fun _ e => e
    | exact fun _ _ => rfl
    | exact fun _ e => Mem.wf_putAll _ _ e
    | exact fun _ _ => Mem.wf_putAll _ _ rfl
    | split
    | intro _

theorem fire_kept_eq {z0 : State} {u : StallId} {f : Fin 4} {cyc : Nat} {flags : Word} {d : Nat} {a : Word} {p : Eff ×
    State} (h0 : Kept z0 p.2) {v0} {r0 : State} (e0 : (fire u f cyc flags d a p) = (v0, r0)) : Kept z0 r0 := by
  have := fire_kept (z0 := z0) (u := u) (f := f) (cyc := cyc) (flags := flags) (d := d) (a := a) (p := p)  h0
  rw [e0] at this
  exact this

theorem toFrame_kept {z0 : State} {u : StallId} {f : Fin 4} {ph : Phase} {s : State} (h0 : Kept z0 s) : Kept z0 (toFrame
    u f ph s) := by
  unfold toFrame
  split
  · next i _ =>
    have h1 : Kept z0 (takeMany 5 s).2 := takeMany_kept h0
    exact modInst_kept (modStall_kept (fun x e => by simp only [saveFrame]; exact Mem.wf_putAll _ _ e) h1)
  · exact h0

theorem present_kept {z0 : State} {u : StallId} {f : Fin 4} {s : State} (h0 : Kept z0 s) : Kept z0 (present u f s) := by
  dsimp only [present]
  repeat' first
    | with_reducible assumption
    | with_reducible apply takeFree_kept
    | fail_if_no_progress (with_reducible refine Kept.upd ?_ rfl rfl rfl rfl rfl rfl rfl)

theorem endingPair_kept {z0 : State} {t : BitVec 7} {copyB : Bool} {s : State} (h0 : Kept z0 s) : Kept z0 (endingPair t
    copyB s) := by
  dsimp only [endingPair]
  repeat' first
    | with_reducible assumption
    | with_reducible apply startPair_kept
    | with_reducible apply pairAbort_kept
    | with_reducible apply present_kept
    | fail_if_no_progress (with_reducible refine Kept.upd ?_ rfl rfl rfl rfl rfl rfl rfl)
    | split

theorem enterEnding_kept {z0 : State} {u : StallId} {f : Fin 4} {s : State} (h0 : Kept z0 s) : Kept z0 (enterEnding u f
    s) := by
  dsimp only [enterEnding]
  repeat' first
    | with_reducible assumption
    | with_reducible apply modCtr_kept
    | with_reducible apply modStall_kept
    | with_reducible apply modInst_kept
    | with_reducible apply settleStep_kept
    | with_reducible apply present_kept
    | with_reducible apply endingPair_kept
    | fail_if_no_progress (with_reducible refine Kept.upd ?_ rfl rfl rfl rfl rfl rfl rfl)
    | exact fun _ e => e
    | exact fun _ _ => rfl
    | exact fun _ e => Mem.wf_putAll _ _ e
    | exact fun _ _ => Mem.wf_putAll _ _ rfl
    | split

theorem tryEnd_kept {z0 : State} {u : StallId} {f : Fin 4} {s : State} (h0 : Kept z0 s) : Kept z0 (tryEnd u f s) := by
  dsimp only [tryEnd]
  repeat' first
    | with_reducible assumption
    | with_reducible apply modInst_kept
    | with_reducible apply enterEnding_kept
    | fail_if_no_progress (with_reducible refine Kept.upd ?_ rfl rfl rfl rfl rfl rfl rfl)
    | exact fun _ e => e
    | exact fun _ _ => rfl
    | exact fun _ e => Mem.wf_putAll _ _ e
    | exact fun _ _ => Mem.wf_putAll _ _ rfl
    | split

theorem selfAbort_kept {z0 : State} {u : StallId} {f : Fin 4} {code detail : Nat} {s : State} (h0 : Kept z0 s) : Kept z0
    (selfAbort u f code detail s) := by
  dsimp only [selfAbort]
  repeat' first
    | with_reducible assumption
    | with_reducible apply faultCopy_kept
    | fail_if_no_progress (with_reducible refine Kept.upd ?_ rfl rfl rfl rfl rfl rfl rfl)
    | split

theorem ownFault_kept {z0 : State} {u : StallId} {f : Fin 4} {code detail : Nat} {s : State} (h0 : Kept z0 s) : Kept z0
    (ownFault u f code detail s) := by
  dsimp only [ownFault]
  repeat' first
    | with_reducible assumption
    | with_reducible apply modInst_kept
    | with_reducible apply selfAbort_kept
    | fail_if_no_progress (with_reducible refine Kept.upd ?_ rfl rfl rfl rfl rfl rfl rfl)
    | exact fun _ e => e
    | exact fun _ _ => rfl
    | exact fun _ e => Mem.wf_putAll _ _ e
    | exact fun _ _ => Mem.wf_putAll _ _ rfl
    | split

theorem endBundle_kept {z0 : State} {u : StallId} {f : Fin 4} {s : State} (h0 : Kept z0 s) : Kept z0 (endBundle u f s)
    := by
  dsimp only [endBundle]
  repeat' first
    | with_reducible assumption
    | with_reducible apply modInst_kept
    | with_reducible apply enterEnding_kept
    | fail_if_no_progress (with_reducible refine Kept.upd ?_ rfl rfl rfl rfl rfl rfl rfl)
    | exact fun _ e => e
    | exact fun _ _ => rfl
    | exact fun _ e => Mem.wf_putAll _ _ e
    | exact fun _ _ => Mem.wf_putAll _ _ rfl
    | split

theorem holdAgain_kept {z0 : State} {u : StallId} {f : Fin 4} {s : State} (h0 : Kept z0 s) : Kept z0 (holdAgain u f s)
    := by
  dsimp only [holdAgain]
  repeat' first
    | with_reducible assumption
    | with_reducible apply modInst_kept
    | with_reducible apply stopPair_kept
    | with_reducible apply settleStep_kept
    | with_reducible apply toFrame_kept
    | fail_if_no_progress (with_reducible refine Kept.upd ?_ rfl rfl rfl rfl rfl rfl rfl)
    | exact fun _ e => e
    | exact fun _ _ => rfl
    | exact fun _ e => Mem.wf_putAll _ _ e
    | exact fun _ _ => Mem.wf_putAll _ _ rfl
    | split

theorem freeStores_kept {z0 : State} {u : StallId} {f : Fin 4} {k n : Nat} {s : State} (h0 : Kept z0 s) :
    Kept z0 (freeStores u f k n s).2 := by
  induction n generalizing s with
  | zero => exact h0
  | succ n ih =>
    unfold freeStores
    split
    · next q s1 e1 => exact writeData_kept_eq h0 e1
    · next s1 e1 => exact ih (writeData_kept_eq h0 e1)

theorem freeStores_kept_eq {z0 : State} {u : StallId} {f : Fin 4} {k n : Nat} {s : State} (h0 : Kept z0 s) {v0} {r0 :
    State}
    (e0 : freeStores u f k n s = (v0, r0)) : Kept z0 r0 := by
  have := freeStores_kept (u := u) (f := f) (k := k) (n := n) h0
  rw [e0] at this
  exact this

theorem freeImage_kept {z0 : State} {u : StallId} {f : Fin 4} {k n : Nat} {s : State} (h0 : Kept z0 s) :
    Kept z0 (freeImage u f k n s).2 := by
  induction n generalizing s with
  | zero => exact h0
  | succ n ih =>
    unfold freeImage
    extract_lets off
    split
    · next q s1 e1 => exact imageWrite_kept_eq h0 e1
    · next s1 e1 => exact ih (imageWrite_kept_eq h0 e1)

theorem freeImage_kept_eq {z0 : State} {u : StallId} {f : Fin 4} {k n : Nat} {s : State} (h0 : Kept z0 s) {v0} {r0 :
    State}
    (e0 : freeImage u f k n s = (v0, r0)) : Kept z0 r0 := by
  have := freeImage_kept (u := u) (f := f) (k := k) (n := n) h0
  rw [e0] at this
  exact this

theorem freeStart_kept {z0 : State} {u : StallId} {f : Fin 4} {cyc d k : Nat} {s : State} (h0 : Kept z0 s) : Kept z0
    (freeStart u f cyc d k s) := by
  dsimp only [freeStart]
  repeat' first
    | with_reducible assumption
    | with_reducible apply fire_kept
    | fail_if_no_progress (with_reducible refine Kept.upd ?_ rfl rfl rfl rfl rfl rfl rfl)
    | with_reducible refine fire_kept_eq ?_ (by assumption)
    | split

theorem havoc_kept {z0 : State} {u : StallId} {f : Fin 4} {b : MoveWord × MoveWord} {a0 a1 : Word} {cyc : Nat} {s :
    State} (h0 : Kept z0 s) : Kept z0 (havoc u f b a0 a1 cyc s) := by
  unfold havoc
  split
  next k s1 e1 =>
  have h1 : Kept z0 s1 := takeMany_kept_eq h0 e1
  extract_lets byte s2 s3 s4 sends a s5 s8
  have h4 : Kept z0 s4 := modInst_kept (putScratch_kept (setCtx_kept h1))
  clear_value s4
  have h5 : Kept z0 s5 := by
    dsimp only [s5]
    split
    · have h6 : ∀ (c : Bool) (x : WdtIn), Kept z0 (if c = true then sendWdt x s4 else s4) := fun c x => by
        split
        · exact sendWdt_kept h4
        · exact h4
      split
      · exact sendWdt_kept (h6 _ _)
      · exact h6 _ _
    · exact h4
  clear_value s5
  have h8 : Kept z0 s8 := freeStart_kept (freeStart_kept h5)
  clear_value s8
  split
  · next q s6 e6 => exact selfAbort_kept (freeStores_kept_eq h8 e6)
  · next s6 e6 =>
    have h6 : Kept z0 s6 := freeStores_kept_eq h8 e6
    split
    · next q s7 e7 => exact selfAbort_kept (freeImage_kept_eq h6 e7)
    · next s7 e7 =>
      have h7 : Kept z0 s7 := freeImage_kept_eq h6 e7
      split
      · exact endBundle_kept h7
      · split
        · exact selfAbort_kept h7
        · exact holdAgain_kept h7

theorem finish_kept {z0 : State} {u : StallId} {f : Fin 4} {cyc : Nat} {e : Eff} {s : State} (h0 : Kept z0 s) : Kept z0
    (finish u f cyc e s) := by
  dsimp only [finish]
  repeat' first
    | with_reducible assumption
    | with_reducible apply takeFree_kept
    | with_reducible apply modInst_kept
    | with_reducible apply setCtx_kept
    | with_reducible apply selfAbort_kept
    | with_reducible apply endBundle_kept
    | with_reducible apply holdAgain_kept
    | fail_if_no_progress (with_reducible refine Kept.upd ?_ rfl rfl rfl rfl rfl rfl rfl)
    | with_reducible refine takeFree_kept_eq ?_ (by assumption)
    | exact fun _ e => e
    | exact fun _ _ => rfl
    | exact fun _ e => Mem.wf_putAll _ _ e
    | exact fun _ _ => Mem.wf_putAll _ _ rfl
    | split

theorem issueMoves_kept {z0 : State} {u : StallId} {f : Fin 4} {i : Inst} {b : MoveWord × MoveWord} {cyc : Nat} {s :
    State} (h0 : Kept z0 s) : Kept z0 (issueMoves u f i b cyc s) := by
  dsimp only [issueMoves]
  repeat' first
    | with_reducible assumption
    | with_reducible apply modInst_kept
    | with_reducible apply setCtx_kept
    | with_reducible apply fire_kept
    | with_reducible apply havoc_kept
    | with_reducible apply finish_kept
    | fail_if_no_progress (with_reducible refine Kept.upd ?_ rfl rfl rfl rfl rfl rfl rfl)
    | with_reducible refine fire_kept_eq ?_ (by assumption)
    | exact fun _ e => e
    | exact fun _ _ => rfl
    | exact fun _ e => Mem.wf_putAll _ _ e
    | exact fun _ _ => Mem.wf_putAll _ _ rfl
    | split

theorem issueImm_kept {z0 : State} {u : StallId} {f : Fin 4} {b : MoveWord × MoveWord} {cyc : Nat} {s : State} (h0 :
    Kept z0 s) : Kept z0 (issueImm u f b cyc s) := by
  dsimp only [issueImm]
  repeat' first
    | with_reducible assumption
    | with_reducible apply modInst_kept
    | with_reducible apply setCtx_kept
    | with_reducible apply finish_kept

theorem issueEnd_kept {z0 : State} {u : StallId} {f : Fin 4} {cyc : Nat} {s : State} (h0 : Kept z0 s) : Kept z0
    (issueEnd u f cyc s) := by
  dsimp only [issueEnd]
  repeat' first
    | with_reducible assumption
    | with_reducible apply modInst_kept
    | with_reducible apply finish_kept

theorem issueTrigger_kept {z0 : State} {u : StallId} {d : Nat} {s : State} (h0 : Kept z0 s) : Kept z0 (issueTrigger u d
    s) := by
  dsimp only [issueTrigger]
  repeat' first
    | with_reducible assumption
    | with_reducible apply issueMoves_kept
    | with_reducible apply issueEnd_kept
    | fail_if_no_progress (with_reducible refine Kept.upd ?_ rfl rfl rfl rfl rfl rfl rfl)
    | split

/-! ### Cache -/


theorem loadFromStore_kept {z0 : State} {c : Nat} {s : State} (h0 : Kept z0 s) : Kept z0 (loadFromStore c s) := by
  dsimp only [loadFromStore]
  repeat' first
    | with_reducible assumption
    | with_reducible apply loadedChan_kept
    | fail_if_no_progress (with_reducible refine Kept.upd ?_ rfl rfl rfl rfl rfl rfl rfl)

theorem loadFromHost_kept {z0 : State} {c : Nat} {e : Bytes} {s : State} (h0 : Kept z0 s) : Kept z0 (loadFromHost c e s)
    := by
  dsimp only [loadFromHost]
  repeat' first
    | with_reducible assumption
    | with_reducible apply loadedChan_kept
    | with_reducible apply takeEntry_kept
    | with_reducible apply fetchResult_kept
    | fail_if_no_progress (with_reducible refine Kept.upd ?_ rfl rfl rfl rfl rfl rfl rfl)

/-! ### Commit -/


theorem commitEvents_kept {z0 : State} {t : BitVec 7} {n : Nat} {i : Inst} {s : State} (h0 : Kept z0 s) : Kept z0
    (commitEvents t n i s) := by
  dsimp only [commitEvents]
  repeat' first
    | with_reducible assumption
    | with_reducible apply raiseTask_kept
    | with_reducible apply Kept.foldl
    | fail_if_no_progress (with_reducible refine Kept.upd ?_ rfl rfl rfl rfl rfl rfl rfl)
    | split
    | intro _

theorem directDue_kept {z0 : State} {t : BitVec 7} {n : Nat} {v : BitVec 3} {full r : TaskRec} {img : Bytes} {s : State}
    (h0 : Kept z0 s) : Kept z0 (directDue t n v full r img s) := by
  dsimp only [directDue]
  repeat' first
    | with_reducible assumption
    | fail_if_no_progress (with_reducible refine Kept.upd ?_ rfl rfl rfl rfl rfl rfl rfl)
    | split

theorem exportDue_kept {z0 : State} {t : BitVec 7} {n : Nat} {i : Inst} {img : Bytes} {s : State} (h0 : Kept z0 s) :
    Kept z0 (exportDue t n i img s) := by
  dsimp only [exportDue]
  repeat' first
    | with_reducible assumption
    | with_reducible apply modCtr_kept
    | with_reducible apply raiseTask_kept
    | with_reducible apply Kept.foldl
    | fail_if_no_progress (with_reducible refine Kept.upd ?_ rfl rfl rfl rfl rfl rfl rfl)
    | split
    | intro _

theorem freeLine_kept {z0 : State} {line : Nat} {s : State} (h0 : Kept z0 s) : Kept z0 (freeLine line s) := by
  unfold freeLine
  exact Kept.home (freeBytes_kept h0) rfl rfl (fun e _ => Mem.wf0_setAll _ _ e) (fun _ e => e) rfl rfl rfl

theorem claimLines_kept {z0 : State} {t : BitVec 7} {lines : List Nat} {s : State} (h0 : Kept z0 s) : Kept z0
    (claimLines t lines s) := by
  dsimp only [claimLines]
  repeat' first
    | with_reducible assumption
    | with_reducible apply freeLine_kept
    | with_reducible apply Kept.foldl
    | fail_if_no_progress (with_reducible refine Kept.upd ?_ rfl rfl rfl rfl rfl rfl rfl)
    | split
    | intro _

theorem commitInstance_kept {z0 : State} {t : BitVec 7} {i : Inst} {since : Nat} {s : State} (h0 : Kept z0 s) : Kept z0
    (commitInstance t i since s) := by
  unfold commitInstance
  extract_lets writes lines
  split
  next n s1 e1 =>
  have h1 : Kept z0 s1 := numberCommit_kept_eq h0 e1
  split
  next k s2 e2 =>
  have h2 : Kept z0 s2 := takeFree_kept_eq h1 e2
  extract_lets s3 s4 s5 s6 img r s7 s8 s9
  have h3 : Kept z0 s3 := Kept.foldl (fun _ _ h => closeCopy_kept h) h2
  have h4 : Kept z0 s4 := Kept.home h3 rfl rfl (fun e _ => commitBytes_newest_wf0 e) (fun _ e => commitBytes_older_wf0 e) rfl rfl rfl
  have h5 : Kept z0 s5 := claimLines_kept h4
  have h6 : Kept z0 s6 := commitEvents_kept (modTask_kept h5)
  have h7 : Kept z0 s7 := directDue_kept h6
  have h8 : Kept z0 s8 := ethCommitDue_kept (canCommitDue_kept (commitTx_kept h7))
  have h9 : Kept z0 s9 := exportDue_kept h8
  exact queueBale_kept h9

/-! ### Edit -/


theorem editTake_kept {z0 : State} {d : Desc} {op : Nat} {rollback : Bool} {earliest : DWord} {wait : Half} {report :
    Option EditReport} {s : State} (h0 : Kept z0 s) : Kept z0 (editTake d op rollback earliest wait report s) := by
  dsimp only [editTake]
  repeat' first
    | with_reducible assumption
    | with_reducible apply defer_kept
    | with_reducible apply hostCommand_kept
    | with_reducible apply fail_kept
    | fail_if_no_progress (with_reducible refine Kept.upd ?_ rfl rfl rfl rfl rfl rfl rfl)
    | split
    | intro _

theorem applyEdit_kept {z0 : State} {p : EditPackage} {rollback : Bool} {n : Nat} {s : State} (h0 : Kept z0 s) : Kept z0
    (applyEdit p rollback n s) := by
  unfold applyEdit
  extract_lets map old new w s1 c c2 s2
  have h1 : Kept z0 s1 := Kept.foldl (fun _ _ h => finishExport_kept h) h0
  clear_value s1
  exact refreshChans_kept (wantNow_kept (settleHomes_kept (liftBad_kept
    (Kept.home h1 rfl rfl (fun e _ => commitBytes_newest_wf0 e) (fun _ e => commitBytes_older_wf0 e) rfl rfl rfl))))

theorem commitEdit_kept {z0 : State} {k : Fin 8} {rollback : Bool} {p : EditPackage} {s : State} (h0 : Kept z0 s) : Kept
    z0 (commitEdit k rollback p s) := by
  dsimp only [commitEdit]
  repeat' first
    | with_reducible assumption
    | with_reducible apply raise_kept
    | with_reducible apply completeWait_kept
    | with_reducible apply numberCommit_kept
    | with_reducible apply queueBale_kept
    | with_reducible apply applyEdit_kept
    | fail_if_no_progress (with_reducible refine Kept.upd ?_ rfl rfl rfl rfl rfl rfl rfl)

theorem editAtTick_kept {z0 : State} {s : State} (h0 : Kept z0 s) : Kept z0 (editAtTick s) := by
  dsimp only [editAtTick]
  repeat' first
    | with_reducible assumption
    | with_reducible apply commitEdit_kept
    | fail_if_no_progress (with_reducible refine Kept.upd ?_ rfl rfl rfl rfl rfl rfl rfl)
    | split

theorem requestVote_kept {z0 : State} {d : Desc} {p : Profile} {cycles : Nat} {s : State} (h0 : Kept z0 s) : Kept z0
    (requestVote d p cycles s) := by
  dsimp only [requestVote]
  repeat' first
    | with_reducible assumption
    | with_reducible apply defer_kept
    | with_reducible apply fail_kept
    | with_reducible apply setVote_kept
    | fail_if_no_progress (with_reducible refine Kept.upd ?_ rfl rfl rfl rfl rfl rfl rfl)
    | split

theorem applyProfile_kept {z0 : State} {p : Profile} {n cycle : Nat} {here : Bool} {s : State} (h0 : Kept z0 s) : Kept
    z0 (applyProfile p n cycle here s) := by
  dsimp only [applyProfile]
  repeat' first
    | with_reducible assumption
    | with_reducible apply raise_kept
    | with_reducible apply refreshChans_kept
    | with_reducible apply settleOutputs_kept
    | with_reducible apply wantNow_kept
    | with_reducible apply applyDue_kept
    | with_reducible apply toMode_kept
    | fail_if_no_progress (with_reducible refine Kept.upd ?_ rfl rfl rfl rfl rfl rfl rfl)

/-! ### HostIf -/


theorem sendVector_kept {z0 : State} {v : BitVec 5} {s : State} (h0 : Kept z0 s) : Kept z0 (sendVector v s) := by
  dsimp only [sendVector]
  repeat' first
    | with_reducible assumption
    | with_reducible apply hostWrite_kept
    | fail_if_no_progress (with_reducible refine Kept.upd ?_ rfl rfl rfl rfl rfl rfl rfl)
    | split

theorem ringMessage_kept {z0 : State} {k : Fin 8} {s : State} (h0 : Kept z0 s) : Kept z0 (ringMessage k s) := by
  dsimp only [ringMessage]
  repeat' first
    | with_reducible assumption
    | with_reducible apply modRing_kept
    | with_reducible apply sendVector_kept
    | fail_if_no_progress (with_reducible refine Kept.upd ?_ rfl rfl rfl rfl rfl rfl rfl)
    | split

theorem evtMessage_kept {z0 : State} {s : State} (h0 : Kept z0 s) : Kept z0 (evtMessage s) := by
  dsimp only [evtMessage]
  repeat' first
    | with_reducible assumption
    | with_reducible apply sendVector_kept
    | fail_if_no_progress (with_reducible refine Kept.upd ?_ rfl rfl rfl rfl rfl rfl rfl)
    | split

theorem enableSet_kept {z0 : State} {s : State} (h0 : Kept z0 s) : Kept z0 (enableSet s) := by
  dsimp only [enableSet]
  repeat' first
    | with_reducible assumption
    | fail_if_no_progress (with_reducible refine Kept.upd ?_ rfl rfl rfl rfl rfl rfl rfl)

theorem enableClear_kept {z0 : State} {s : State} (h0 : Kept z0 s) : Kept z0 (enableClear s) := by
  dsimp only [enableClear]
  repeat' first
    | with_reducible assumption
    | fail_if_no_progress (with_reducible refine Kept.upd ?_ rfl rfl rfl rfl rfl rfl rfl)

theorem writeCtrl_kept {z0 : State} {v : Word} {s : State} (h0 : Kept z0 s) : Kept z0 (writeCtrl v s) := by
  dsimp only [writeCtrl]
  repeat' first
    | with_reducible assumption
    | with_reducible apply enableSet_kept
    | with_reducible apply enableClear_kept
    | fail_if_no_progress (with_reducible refine Kept.upd ?_ rfl rfl rfl rfl rfl rfl rfl)
    | split

theorem writeCfg_kept {z0 : State} {k : Fin 8} {v : Word} {s : State} (h0 : Kept z0 s) : Kept z0 (writeCfg k v s) := by
  dsimp only [writeCfg]
  repeat' first
    | with_reducible assumption
    | with_reducible apply modRing_kept

theorem writeRing_kept {z0 : State} {k : Fin 8} {off : Nat} {v : Word} {s : State} (h0 : Kept z0 s) : Kept z0 (writeRing
    k off v s) := by
  dsimp only [writeRing]
  repeat' first
    | with_reducible assumption
    | with_reducible apply modRing_kept
    | with_reducible apply writeCfg_kept
    | fail_if_no_progress (with_reducible refine Kept.upd ?_ rfl rfl rfl rfl rfl rfl rfl)
    | split

theorem writeMsix_kept {z0 : State} {off : Nat} {v : Word} {s : State} (h0 : Kept z0 s) : Kept z0 (writeMsix off v s) :=
    by
  dsimp only [writeMsix]
  repeat' first
    | with_reducible assumption
    | with_reducible apply sendVector_kept
    | fail_if_no_progress (with_reducible refine Kept.upd ?_ rfl rfl rfl rfl rfl rfl rfl)
    | split

theorem writeBar0_kept {z0 : State} {off : Nat} {v : Word} {s : State} (h0 : Kept z0 s) : Kept z0 (writeBar0 off v s) :=
    by
  unfold writeBar0
  extract_lets h set
  have hs : ∀ f : HostIf → HostIf, Kept z0 (set f) := fun f => by
    dsimp only [set]
    split
    · exact h0
    · exact Kept.upd h0 rfl rfl rfl rfl rfl rfl rfl
  clear_value set
  repeat' first
    | with_reducible exact hs _
    | with_reducible exact h0
    | with_reducible exact writeCtrl_kept h0
    | with_reducible exact writeRing_kept h0
    | with_reducible exact writeMsix_kept h0
    | with_reducible exact Kept.upd h0 rfl rfl rfl rfl rfl rfl rfl
    | with_reducible refine Kept.ite ?_ ?_

theorem misaligned_kept {z0 : State} {off : Nat} {s : State} (h0 : Kept z0 s) : Kept z0 (misaligned off s) := by
  dsimp only [misaligned]
  repeat' first
    | with_reducible assumption
    | with_reducible apply takeFree_kept
    | with_reducible apply writeBar0_kept
    | fail_if_no_progress (with_reducible refine Kept.upd ?_ rfl rfl rfl rfl rfl rfl rfl)
    | with_reducible refine takeFree_kept_eq ?_ (by assumption)
    | split

theorem tickPoll_kept {z0 : State} {s : State} (h0 : Kept z0 s) : Kept z0 (tickPoll s) := by
  dsimp only [tickPoll]
  repeat' first
    | with_reducible assumption
    | fail_if_no_progress (with_reducible refine Kept.upd ?_ rfl rfl rfl rfl rfl rfl rfl)
    | split

theorem takeSeq_kept {z0 : State} {seq : Word} {s : State} (h0 : Kept z0 s) : Kept z0 (takeSeq seq s) := by
  dsimp only [takeSeq]
  repeat' first
    | with_reducible assumption
    | with_reducible apply raise_kept
    | fail_if_no_progress (with_reducible refine Kept.upd ?_ rfl rfl rfl rfl rfl rfl rfl)
    | split

theorem raiseLost_kept {z0 : State} {n : Nat} {s : State} (h0 : Kept z0 s) : Kept z0 (raiseLost n s) := by
  dsimp only [raiseLost]
  repeat' first
    | with_reducible assumption
    | with_reducible apply postEvent_kept
    | with_reducible apply repost_kept
    | with_reducible apply raiseFold_kept
    | fail_if_no_progress (with_reducible refine Kept.upd ?_ rfl rfl rfl rfl rfl rfl rfl)
    | split

theorem lostEvents_kept {z0 : State} {s : State} (h0 : Kept z0 s) : Kept z0 (lostEvents s) := by
  dsimp only [lostEvents]
  repeat' first
    | with_reducible assumption
    | with_reducible apply raiseLost_kept
    | fail_if_no_progress (with_reducible refine Kept.upd ?_ rfl rfl rfl rfl rfl rfl rfl)
    | split

theorem hostReset_kept {z0 : State} {cause : Nat} {up training : Bool} {s : State} (h0 : Kept z0 s) : Kept z0 (hostReset
    cause up training s) := by
  dsimp only [hostReset]
  repeat' first
    | with_reducible assumption
    | with_reducible apply raise_kept
    | fail_if_no_progress (with_reducible refine Kept.upd ?_ rfl rfl rfl rfl rfl rfl rfl)

/-! ### Solver -/


theorem endCall_kept {z0 : State} {b : Fin 4} {c : Call} {err cycles addr : Nat} {s : State} (h0 : Kept z0 s) : Kept z0
    (endCall b c err cycles addr s) := by
  dsimp only [endCall]
  repeat' first
    | with_reducible assumption
    | with_reducible apply modCtr_kept
    | with_reducible apply modBarn_kept
    | with_reducible apply modInst_kept
    | with_reducible apply solverError_kept
    | with_reducible apply Kept.foldl
    | fail_if_no_progress (with_reducible refine Kept.upd ?_ rfl rfl rfl rfl rfl rfl rfl)
    | exact fun _ e => e
    | exact fun _ _ => rfl
    | exact fun _ e => Mem.wf_putAll _ _ e
    | exact fun _ _ => Mem.wf_putAll _ _ rfl
    | split
    | intro _

theorem readBit_kept {z0 : State} {c : Call} {i : Inst} {n : Nat} {s : State} (h0 : Kept z0 s) : Kept z0 (readBit c i n
    s).2 := by
  dsimp only [readBit]
  repeat' first
    | with_reducible assumption
    | with_reducible apply addrFault_kept
    | with_reducible apply noteRead_kept
    | with_reducible apply imageBytes_kept
    | fail_if_no_progress (with_reducible refine Kept.upd ?_ rfl rfl rfl rfl rfl rfl rfl)
    | dsimp only
    | with_reducible refine imageBytes_kept_eq ?_ (by assumption)
    | split

theorem readBit_kept_eq {z0 : State} {c : Call} {i : Inst} {n : Nat} {s : State} (h0 : Kept z0 s) {v0} {r0 : State} (e0
    : (readBit c i n s) = (v0, r0)) : Kept z0 r0 := by
  have := readBit_kept (z0 := z0) (c := c) (i := i) (n := n) (s := s)  h0
  rw [e0] at this
  exact this

theorem writeBit_kept {z0 : State} {c : Call} {i : Inst} {n : Nat} {v : Bool} {s : State} (h0 : Kept z0 s) : Kept z0
    (writeBit c i n v s).2 := by
  dsimp only [writeBit]
  repeat' first
    | with_reducible assumption
    | with_reducible apply imageWrite_kept
    | fail_if_no_progress (with_reducible refine Kept.upd ?_ rfl rfl rfl rfl rfl rfl rfl)
    | dsimp only
    | with_reducible refine bufferWrite_kept ?_ (by assumption)
    | with_reducible refine imageWrite_kept_eq ?_ (by assumption)
    | split

theorem writeBit_kept_eq {z0 : State} {c : Call} {i : Inst} {n : Nat} {v : Bool} {s : State} (h0 : Kept z0 s) {v0} {r0 :
    State} (e0 : (writeBit c i n v s) = (v0, r0)) : Kept z0 r0 := by
  have := writeBit_kept (z0 := z0) (c := c) (i := i) (n := n) (v := v) (s := s)  h0
  rw [e0] at this
  exact this

theorem goWord_kept {z0 : State} {b : Fin 4} {c : Call} {cost len : Nat} {stack : List Bool} {s : State} (h0 : Kept z0
    s) : Kept z0 (goWord b c cost len stack s) := by
  dsimp only [goWord]
  repeat' first
    | with_reducible assumption
    | with_reducible apply modBarn_kept

theorem wordError_kept {z0 : State} {b : Fin 4} {c : Call} {err cost : Nat} {s : State} (h0 : Kept z0 s) : Kept z0
    (wordError b c err cost s) := by
  dsimp only [wordError]
  repeat' first
    | with_reducible assumption
    | with_reducible apply endCall_kept

theorem faultCall_kept {z0 : State} {b : Fin 4} {c : Call} {code detail : Nat} {s : State} (h0 : Kept z0 s) : Kept z0
    (faultCall b c code detail s) := by
  dsimp only [faultCall]
  repeat' first
    | with_reducible assumption
    | with_reducible apply modBarn_kept
    | with_reducible apply ownFault_kept

theorem stackWord_kept {z0 : State} {b : Fin 4} {op sub need : Nat} {g : List Bool → List Bool} {s : State} (h0 : Kept
    z0 s) : Kept z0 (stackWord b op sub need g s) := by
  dsimp only [stackWord]
  repeat' first
    | with_reducible assumption
    | with_reducible apply goWord_kept
    | with_reducible apply wordError_kept
    | fail_if_no_progress (with_reducible refine Kept.upd ?_ rfl rfl rfl rfl rfl rfl rfl)
    | split

theorem readWord_kept {z0 : State} {b : Fin 4} {op need : Nat} {wait : BitVec 12} {g : Bool → List Bool → List Bool} {s
    : State} (h0 : Kept z0 s) : Kept z0 (readWord b op need wait g s) := by
  dsimp only [readWord]
  repeat' first
    | with_reducible assumption
    | with_reducible apply readBit_kept
    | with_reducible apply goWord_kept
    | with_reducible apply wordError_kept
    | fail_if_no_progress (with_reducible refine Kept.upd ?_ rfl rfl rfl rfl rfl rfl rfl)
    | with_reducible refine readBit_kept_eq ?_ (by assumption)
    | split

theorem writeWord_kept {z0 : State} {b : Fin 4} {op : Nat} {wait : BitVec 12} {g : Bool → Bool → Bool × Bool} {s :
    State} (h0 : Kept z0 s) : Kept z0 (writeWord b op wait g s) := by
  dsimp only [writeWord]
  repeat' first
    | with_reducible assumption
    | with_reducible apply writeBit_kept
    | with_reducible apply goWord_kept
    | with_reducible apply wordError_kept
    | with_reducible apply faultCall_kept
    | fail_if_no_progress (with_reducible refine Kept.upd ?_ rfl rfl rfl rfl rfl rfl rfl)
    | with_reducible refine writeBit_kept_eq ?_ (by assumption)
    | split

theorem jumpWord_kept {z0 : State} {b : Fin 4} {sub : Nat} {test : Option Bool} {s : State} (h0 : Kept z0 s) : Kept z0
    (jumpWord b sub test s) := by
  dsimp only [jumpWord]
  repeat' first
    | with_reducible assumption
    | with_reducible apply goWord_kept
    | with_reducible apply wordError_kept
    | fail_if_no_progress (with_reducible refine Kept.upd ?_ rfl rfl rfl rfl rfl rfl rfl)
    | split

theorem endWord_kept {z0 : State} {b : Fin 4} {sub : Nat} {test : Option Bool} {s : State} (h0 : Kept z0 s) : Kept z0
    (endWord b sub test s) := by
  dsimp only [endWord]
  repeat' first
    | with_reducible assumption
    | with_reducible apply endCall_kept
    | with_reducible apply goWord_kept
    | with_reducible apply wordError_kept
    | fail_if_no_progress (with_reducible refine Kept.upd ?_ rfl rfl rfl rfl rfl rfl rfl)
    | split

/-! ### Placement -/


theorem tickAfter_kept {z0 : State} {s : State} (h0 : Kept z0 s) : Kept z0 (tickAfter s) := by
  dsimp only [tickAfter]
  repeat' first
    | with_reducible assumption
    | fail_if_no_progress (with_reducible refine Kept.upd ?_ rfl rfl rfl rfl rfl rfl rfl)

theorem moveHome_kept {z0 : State} {r : TaskRec} {b : Fin 4} {s : State} (h0 : Kept z0 s) : Kept z0 (moveHome r b s) :=
    by
  dsimp only [moveHome]
  repeat' first
    | with_reducible assumption
    | with_reducible apply Kept.foldl
    | fail_if_no_progress (with_reducible refine Kept.upd ?_ rfl rfl rfl rfl rfl rfl rfl)
    | split
    | intro _

theorem assign_kept {z0 : State} {p : PlaceStep} {s : State} (h0 : Kept z0 s) : Kept z0 (assign p s) := by
  dsimp only [assign]
  repeat' first
    | with_reducible assumption
    | with_reducible apply modTask_kept

theorem layoutOf_kept {z0 : State} {ps : List PlaceStep} {s : State} (h0 : Kept z0 s) : Kept z0 (layoutOf ps s) := by
  dsimp only [layoutOf]
  repeat' first
    | with_reducible assumption
    | with_reducible apply assign_kept
    | with_reducible apply Kept.foldl
    | fail_if_no_progress (with_reducible refine Kept.upd ?_ rfl rfl rfl rfl rfl rfl rfl)
    | split
    | intro _

theorem phaseSame_kept {z0 : State} {t : BitVec 7} {a b : Option StallId} {s : State} (h0 : Kept z0 s) : Kept z0
    (phaseSame t a b s) := by
  dsimp only [phaseSame]
  repeat' first
    | with_reducible assumption
    | with_reducible apply modTask_kept
    | with_reducible apply modCtr_kept
    | with_reducible apply raiseTask_kept
    | fail_if_no_progress (with_reducible refine Kept.upd ?_ rfl rfl rfl rfl rfl rfl rfl)
    | split

theorem notePhases_kept {z0 : State} {n : Nat} {steps : List PlaceStep} {s : State} (h0 : Kept z0 s) : Kept z0
    (notePhases n steps s) := by
  dsimp only [notePhases]
  repeat' first
    | with_reducible assumption
    | with_reducible apply layoutOf_kept
    | with_reducible apply phaseSame_kept
    | with_reducible apply Kept.foldl
    | fail_if_no_progress (with_reducible refine Kept.upd ?_ rfl rfl rfl rfl rfl rfl rfl)
    | split
    | intro _

theorem takeStep_kept {z0 : State} {again : Bool} {p : PlaceStep} {s : State} (h0 : Kept z0 s) : Kept z0 (takeStep again
    p s) := by
  dsimp only [takeStep]
  repeat' first
    | with_reducible assumption
    | with_reducible apply modTask_kept
    | with_reducible apply raiseTask_kept
    | with_reducible apply moveHome_kept
    | with_reducible apply assign_kept
    | fail_if_no_progress (with_reducible refine Kept.upd ?_ rfl rfl rfl rfl rfl rfl rfl)
    | split

theorem takeSteps_kept {z0 : State} {done : List (BitVec 7)} {l : List PlaceStep} {s : State} (h0 : Kept z0 s) :
    Kept z0 (takeSteps done l s) := by
  induction l generalizing done s with
  | nil => exact h0
  | cons p l ih =>
    unfold takeSteps
    exact ih (takeStep_kept h0)

theorem placeRing_kept {z0 : State} {k : Nat} {b : Fin 4} {s : State} (h0 : Kept z0 s) : Kept z0 (placeRing k b s) := by
  dsimp only [placeRing]
  repeat' first
    | with_reducible assumption
    | fail_if_no_progress (with_reducible refine Kept.upd ?_ rfl rfl rfl rfl rfl rfl rfl)
    | split

theorem placeRings_kept {z0 : State} {s : State} (h0 : Kept z0 s) : Kept z0 (placeRings s) := by
  dsimp only [placeRings]
  repeat' first
    | with_reducible assumption
    | with_reducible apply placeRing_kept
    | with_reducible apply Kept.foldl
    | fail_if_no_progress (with_reducible refine Kept.upd ?_ rfl rfl rfl rfl rfl rfl rfl)
    | split
    | intro _

theorem moveGlobal_kept {z0 : State} {s : State} {line : Nat} (h0 : Kept z0 s) : Kept z0 (moveGlobal s line) := by
  dsimp only [moveGlobal]
  repeat' first
    | with_reducible assumption
    | with_reducible apply ok_kept
    | fail_if_no_progress (with_reducible refine Kept.upd ?_ rfl rfl rfl rfl rfl rfl rfl)
    | split

theorem relieveBarn_kept {z0 : State} {s : State} {b : Fin 4} (h0 : Kept z0 s) : Kept z0 (relieveBarn s b) := by
  dsimp only [relieveBarn]
  repeat' first
    | with_reducible assumption
    | with_reducible apply Kept.foldl
    | fail_if_no_progress (with_reducible refine Kept.upd ?_ rfl rfl rfl rfl rfl rfl rfl)
    | split
    | intro _

theorem homeDuties_kept {z0 : State} {s : State} (h0 : Kept z0 s) : Kept z0 (homeDuties s) := by
  dsimp only [homeDuties]
  repeat' first
    | with_reducible assumption
    | with_reducible apply moveHome_kept
    | with_reducible apply placeRings_kept
    | with_reducible apply moveGlobal_kept
    | with_reducible apply relieveBarn_kept
    | with_reducible apply Kept.foldl
    | fail_if_no_progress (with_reducible refine Kept.upd ?_ rfl rfl rfl rfl rfl rfl rfl)
    | split
    | intro _

theorem takePublication_kept {z0 : State} {p : Publication} {s : State} (h0 : Kept z0 s) : Kept z0 (takePublication p s)
    := by
  dsimp only [takePublication]
  repeat' first
    | with_reducible assumption
    | with_reducible apply wakeBarn_kept
    | with_reducible apply takeSteps_kept
    | with_reducible apply placeRing_kept
    | with_reducible apply homeDuties_kept
    | with_reducible apply Kept.foldl
    | fail_if_no_progress (with_reducible refine Kept.upd ?_ rfl rfl rfl rfl rfl rfl rfl)
    | split
    | intro _

theorem placeTick_kept {z0 : State} {n : Nat} {s : State} (h0 : Kept z0 s) : Kept z0 (placeTick n s) := by
  dsimp only [placeTick]
  repeat' first
    | with_reducible assumption
    | with_reducible apply raise_kept
    | with_reducible apply takePublication_kept
    | fail_if_no_progress (with_reducible refine Kept.upd ?_ rfl rfl rfl rfl rfl rfl rfl)
    | split

theorem placeCopy_kept {z0 : State} {atTick : Bool} {r : TaskRec} {want : Option StallId} {again copyB : Bool} {s :
    State} (h0 : Kept z0 s) : Kept z0 (placeCopy atTick r want again copyB s).2 := by
  dsimp only [placeCopy]
  repeat' first
    | with_reducible assumption
    | with_reducible apply modTask_kept
    | with_reducible apply takeFree_kept
    | with_reducible apply wakeBarn_kept
    | with_reducible apply takeStep_kept
    | fail_if_no_progress (with_reducible refine Kept.upd ?_ rfl rfl rfl rfl rfl rfl rfl)
    | dsimp only
    | with_reducible refine takeFree_kept_eq ?_ (by assumption)
    | split

theorem placeCopy_kept_eq {z0 : State} {atTick : Bool} {r : TaskRec} {want : Option StallId} {again copyB : Bool} {s :
    State} (h0 : Kept z0 s) {v0} {r0 : State} (e0 : (placeCopy atTick r want again copyB s) = (v0, r0)) : Kept z0 r0 :=
    by
  have := placeCopy_kept (z0 := z0) (atTick := atTick) (r := r) (want := want) (again := again) (copyB := copyB) (s := s)  h0
  rw [e0] at this
  exact this

theorem placeRelease_kept {z0 : State} {atTick : Bool} {r : TaskRec} {want : EventPlace} {s : State} (h0 : Kept z0 s) :
    Kept z0 (placeRelease atTick r want s) := by
  dsimp only [placeRelease]
  repeat' first
    | with_reducible assumption
    | with_reducible apply phaseSame_kept
    | with_reducible apply placeCopy_kept
    | fail_if_no_progress (with_reducible refine Kept.upd ?_ rfl rfl rfl rfl rfl rfl rfl)
    | with_reducible refine placeCopy_kept_eq ?_ (by assumption)
    | split

theorem replaceTask_kept {z0 : State} {atTick : Bool} {t : BitVec 7} {s : State} (h0 : Kept z0 s) : Kept z0 (replaceTask
    atTick t s) := by
  dsimp only [replaceTask]
  repeat' first
    | with_reducible assumption
    | with_reducible apply placeRelease_kept
    | fail_if_no_progress (with_reducible refine Kept.upd ?_ rfl rfl rfl rfl rfl rfl rfl)
    | split

theorem replaceLost_kept {z0 : State} {s : State} (h0 : Kept z0 s) : Kept z0 (replaceLost s) := by
  dsimp only [replaceLost]
  repeat' first
    | with_reducible assumption
    | with_reducible apply replaceTask_kept
    | with_reducible apply Kept.foldl
    | fail_if_no_progress (with_reducible refine Kept.upd ?_ rfl rfl rfl rfl rfl rfl rfl)
    | split
    | intro _

/-! ### Yard -/


theorem powerOp_kept {z0 r0 : State} {ns mA : Nat} {s : State} (h0 : Kept z0 s) (e0 : (powerOp ns mA s) = some r0) :
    Kept z0 r0 := by
  unfold powerOp at e0
  dsimp only at e0
  repeat' split at e0
  all_goals cases e0
  all_goals repeat' first
    | with_reducible assumption
    | fail_if_no_progress (with_reducible refine Kept.upd ?_ rfl rfl rfl rfl rfl rfl rfl)

theorem powered_kept {z0 : State} {on : Bool} {ns mA : Nat} {effect : State → State} {s : State} (heffect : ∀ s : State,
    Kept z0 s → Kept z0 (effect s)) (h0 : Kept z0 s) : Kept z0 (powered on ns mA effect s) := by
  unfold powered
  split
  · cases e : powerOp ns mA s with
    | none => exact h0
    | some r => exact heffect _ (powerOp_kept h0 e)
  · exact h0

theorem degrade_kept {z0 : State} {u : StallId} {byTest : Bool} {s : State} (h0 : Kept z0 s) : Kept z0 (degrade u byTest
    s) := by
  dsimp only [degrade]
  repeat' first
    | with_reducible assumption
    | with_reducible apply modStall_kept
    | with_reducible apply raise_kept
    | fail_if_no_progress (with_reducible refine Kept.upd ?_ rfl rfl rfl rfl rfl rfl rfl)
    | exact fun _ e => e
    | exact fun _ _ => rfl
    | exact fun _ e => Mem.wf_putAll _ _ e
    | exact fun _ _ => Mem.wf_putAll _ _ rfl
    | split

theorem readMargin_kept {z0 : State} {u : StallId} {m : Nat} {s : State} (h0 : Kept z0 s) : Kept z0 (readMargin u m s)
    := by
  dsimp only [readMargin]
  repeat' first
    | with_reducible assumption
    | with_reducible apply modStall_kept
    | with_reducible apply raise_kept
    | with_reducible apply degrade_kept
    | fail_if_no_progress (with_reducible refine Kept.upd ?_ rfl rfl rfl rfl rfl rfl rfl)
    | exact fun _ e => e
    | exact fun _ _ => rfl
    | exact fun _ e => Mem.wf_putAll _ _ e
    | exact fun _ _ => Mem.wf_putAll _ _ rfl
    | split

theorem retireStall_kept {z0 : State} {u : StallId} {cause : Nat} {s : State} (h0 : Kept z0 s) : Kept z0 (retireStall u
    cause s) := by
  dsimp only [retireStall]
  repeat' first
    | with_reducible assumption
    | with_reducible apply modStall_kept
    | with_reducible apply raise_kept
    | fail_if_no_progress (with_reducible refine Kept.upd ?_ rfl rfl rfl rfl rfl rfl rfl)
    | exact fun _ e => e
    | exact fun _ _ => rfl
    | exact fun _ e => Mem.wf_putAll _ _ e
    | exact fun _ _ => Mem.wf_putAll _ _ rfl
    | split

theorem retireSolver_kept {z0 : State} {b : Fin 4} {cause : Nat} {s : State} (h0 : Kept z0 s) : Kept z0 (retireSolver b
    cause s) := by
  dsimp only [retireSolver]
  repeat' first
    | with_reducible assumption
    | with_reducible apply modBarn_kept
    | with_reducible apply raise_kept
    | with_reducible apply endCall_kept
    | with_reducible apply Kept.foldl
    | fail_if_no_progress (with_reducible refine Kept.upd ?_ rfl rfl rfl rfl rfl rfl rfl)
    | split
    | intro _

theorem raiseMemory_kept {z0 : State} {memory address : Nat} {s : State} (h0 : Kept z0 s) : Kept z0 (raiseMemory memory
    address s) := by
  dsimp only [raiseMemory]
  repeat' first
    | with_reducible assumption
    | with_reducible apply raise_kept

/-! ### Cycle -/


theorem overrunPolicy_kept {z0 : State} {r : TaskRec} {s : State} (h0 : Kept z0 s) : Kept z0 (overrunPolicy r s).2 := by
  dsimp only [overrunPolicy]
  repeat' first
    | with_reducible assumption
    | with_reducible apply takeFree_kept
    | fail_if_no_progress (with_reducible refine Kept.upd ?_ rfl rfl rfl rfl rfl rfl rfl)
    | dsimp only
    | with_reducible refine takeFree_kept_eq ?_ (by assumption)
    | split

theorem overrunPolicy_kept_eq {z0 : State} {r : TaskRec} {s : State} (h0 : Kept z0 s) {v0} {r0 : State} (e0 :
    (overrunPolicy r s) = (v0, r0)) : Kept z0 r0 := by
  have := overrunPolicy_kept (z0 := z0) (r := r) (s := s)  h0
  rw [e0] at this
  exact this

theorem noteOverrun_kept {z0 : State} {t : BitVec 7} {s : State} (h0 : Kept z0 s) : Kept z0 (noteOverrun t s).2 := by
  dsimp only [noteOverrun]
  repeat' first
    | with_reducible assumption
    | with_reducible apply modTask_kept
    | with_reducible apply raiseTask_kept
    | with_reducible apply abortTask_kept
    | with_reducible apply pairAbort_kept
    | with_reducible apply overrunPolicy_kept
    | fail_if_no_progress (with_reducible refine Kept.upd ?_ rfl rfl rfl rfl rfl rfl rfl)
    | dsimp only
    | with_reducible refine overrunPolicy_kept_eq ?_ (by assumption)
    | split

theorem noteOverrun_kept_eq {z0 : State} {t : BitVec 7} {s : State} (h0 : Kept z0 s) {v0} {r0 : State} (e0 :
    (noteOverrun t s) = (v0, r0)) : Kept z0 r0 := by
  have := noteOverrun_kept (z0 := z0) (t := t) (s := s)  h0
  rw [e0] at this
  exact this

theorem overruns_kept {z0 : State} {n : Nat} {s : State} (h0 : Kept z0 s) : Kept z0 (overruns n s) := by
  unfold overruns
  extract_lets pass r
  have hp : ∀ (b : Bool) (p : Bool × State), Kept z0 p.2 → Kept z0 (pass b p).2 := fun b p h =>
    Kept.foldl_snd (fun p t h => by
      dsimp only
      split
      · exact noteOverrun_kept h
      · exact h) h
  have h1 : Kept z0 r.2 := hp _ _ (hp _ _ h0)
  exact Kept.ite (enterSafe_kept h1) h1

theorem releaseNow_kept {z0 : State} {r : TaskRec} {n : Nat} {merged : Bool} {s : State} (h0 : Kept z0 s) : Kept z0
    (releaseNow r n merged s) := by
  dsimp only [releaseNow]
  repeat' first
    | with_reducible assumption
    | with_reducible apply modTask_kept

theorem releaseCyclic_kept {z0 : State} {n : Nat} {s : State} {r : TaskRec} (h0 : Kept z0 s) : Kept z0 (releaseCyclic n
    s r) := by
  dsimp only [releaseCyclic]
  repeat' first
    | with_reducible assumption
    | with_reducible apply modTask_kept
    | with_reducible apply modCtr_kept
    | with_reducible apply raiseTask_kept
    | with_reducible apply placeRelease_kept
    | with_reducible apply releaseNow_kept
    | fail_if_no_progress (with_reducible refine Kept.upd ?_ rfl rfl rfl rfl rfl rfl rfl)
    | split

theorem applyAligned_kept {z0 : State} {s : State} (h0 : Kept z0 s) : Kept z0 (applyAligned s) := by
  dsimp only [applyAligned]
  repeat' first
    | with_reducible assumption
    | with_reducible apply staggered_kept
    | with_reducible apply applyDue_kept
    | fail_if_no_progress (with_reducible refine Kept.upd ?_ rfl rfl rfl rfl rfl rfl rfl)
    | split

theorem readyStalls_kept {z0 : State} {n : Nat} {s : State} (h0 : Kept z0 s) : Kept z0 (readyStalls n s) := by
  dsimp only [readyStalls]
  repeat' first
    | with_reducible assumption
    | with_reducible apply modStall_kept
    | with_reducible apply Kept.foldl
    | fail_if_no_progress (with_reducible refine Kept.upd ?_ rfl rfl rfl rfl rfl rfl rfl)
    | exact fun _ e => e
    | exact fun _ _ => rfl
    | exact fun _ e => Mem.wf_putAll _ _ e
    | exact fun _ _ => Mem.wf_putAll _ _ rfl
    | split
    | intro _

theorem releases_kept {z0 : State} {n : Nat} {s : State} (h0 : Kept z0 s) : Kept z0 (releases n s) := by
  dsimp only [releases]
  repeat' first
    | with_reducible assumption
    | with_reducible apply releaseCyclic_kept
    | with_reducible apply Kept.foldl
    | fail_if_no_progress (with_reducible refine Kept.upd ?_ rfl rfl rfl rfl rfl rfl rfl)
    | split

theorem enterTick_kept {z0 : State} {p : Nat × Nat × Nat × Int} {s : State} (h0 : Kept z0 s) : Kept z0 (enterTick p s)
    := by
  dsimp only [enterTick]
  repeat' first
    | with_reducible assumption
    | with_reducible apply advanceTo_kept
    | with_reducible apply moveGrid_kept
    | fail_if_no_progress (with_reducible refine Kept.upd ?_ rfl rfl rfl rfl rfl rfl rfl)
    | split

theorem atTick_kept {z0 : State} {n : Nat} {s : State} (h0 : Kept z0 s) : Kept z0 (atTick n s) := by
  dsimp only [atTick]
  repeat' first
    | with_reducible assumption
    | with_reducible apply unpinDue_kept
    | with_reducible apply tickPoll_kept
    | with_reducible apply placeTick_kept
    | with_reducible apply replaceLost_kept
    | with_reducible apply overruns_kept
    | with_reducible apply applyAligned_kept
    | with_reducible apply readyStalls_kept
    | with_reducible apply releases_kept
    | fail_if_no_progress (with_reducible refine Kept.upd ?_ rfl rfl rfl rfl rfl rfl rfl)
    | split

theorem startClock_kept {z0 : State} {r : Release} {delayNs least : Nat} {s : State} (h0 : Kept z0 s) : Kept z0
    (startClock r delayNs least s).2 := by
  dsimp only [startClock]
  repeat' first
    | with_reducible assumption
    | with_reducible apply advanceTo_kept
    | with_reducible apply advanceNet_kept

theorem startClock_kept_eq {z0 : State} {r : Release} {delayNs least : Nat} {s : State} (h0 : Kept z0 s) {v0} {r0 :
    State} (e0 : (startClock r delayNs least s) = (v0, r0)) : Kept z0 r0 := by
  have := startClock_kept (z0 := z0) (r := r) (delayNs := delayNs) (least := least) (s := s)  h0
  rw [e0] at this
  exact this

theorem noteSlip_kept {z0 : State} {t : BitVec 7} {copyB : Bool} {slip : Nat} {cause : Byte} {s : State} (h0 : Kept z0
    s) : Kept z0 (noteSlip t copyB slip cause s) := by
  dsimp only [noteSlip]
  repeat' first
    | with_reducible assumption
    | with_reducible apply modCtr_kept
    | with_reducible apply raiseTask_kept
    | fail_if_no_progress (with_reducible refine Kept.upd ?_ rfl rfl rfl rfl rfl rfl rfl)
    | split

theorem makeResident_kept {z0 : State} {u : StallId} {i : Inst} {s : State} (h0 : Kept z0 s) : Kept z0 (makeResident u i
    s) := by
  unfold makeResident
  split
  · exact h0
  · next f _ =>
    extract_lets ctx idle s1
    have h1 : Kept z0 s1 :=
      modStall_kept (fun x e => by simp only [saveFrame]; exact Mem.wf_putAll _ _ e) h0
    clear_value s1
    split
    · exact modInst_kept (modStall_kept (fun _ e => e) h1)
    · exact h1

end Sys2Proof.Machine
end

