-- ==== Sys2Proof/Laws/KeptRest.lean ====
section
/-! SUPPORT. What no command undoes, for the shared operations of
digital channels, loops, the watchdog, power, firmware, stalls and the standby: each keeps the queue, the factory record, the free values
taken, a locked seal and the canonical form of every memory. -/

namespace Sys2Proof.Machine

/-! ### Dio -/


theorem modDi_kept {z0 : State} {n : Nat} {f : DiCh → DiCh} {s : State} (h0 : Kept z0 s) : Kept z0 (modDi n f s) := by
  dsimp only [modDi]
  repeat' first
    | with_reducible assumption
    | fail_if_no_progress (with_reducible refine Kept.upd ?_ rfl rfl rfl rfl rfl rfl rfl)

theorem sampleInput_kept {z0 : State} {limits : Nat × Nat} {n : Nat} {l : DiLevel} {t : Nat} {s : State} (h0 : Kept z0
    s) : Kept z0 (sampleInput limits n l t s) := by
  dsimp only [sampleInput]
  repeat' first
    | with_reducible assumption
    | with_reducible apply fireChange_kept
    | with_reducible apply refreshChan_kept
    | with_reducible apply modDi_kept
    | fail_if_no_progress (with_reducible refine Kept.upd ?_ rfl rfl rfl rfl rfl rfl rfl)
    | split

theorem registers_kept {z0 : State} {phaseNs : Nat} {s : State} (h0 : Kept z0 s) : Kept z0 (registers phaseNs s).2 := by
  dsimp only [registers]
  repeat' first
    | with_reducible assumption
    | with_reducible apply takeFree_kept
    | fail_if_no_progress (with_reducible refine Kept.upd ?_ rfl rfl rfl rfl rfl rfl rfl)
    | dsimp only
    | with_reducible refine takeFree_kept_eq ?_ (by assumption)
    | split

theorem registers_kept_eq {z0 : State} {phaseNs : Nat} {s : State} (h0 : Kept z0 s) {v0} {r0 : State} (e0 : (registers
    phaseNs s) = (v0, r0)) : Kept z0 r0 := by
  have := registers_kept (z0 := z0) (phaseNs := phaseNs) (s := s)  h0
  rw [e0] at this
  exact this

theorem modDoGrp_kept {z0 : State} {g : Nat} {f : DoGrp → DoGrp} {s : State} (h0 : Kept z0 s) : Kept z0 (modDoGrp g f s)
    := by
  dsimp only [modDoGrp]
  repeat' first
    | with_reducible assumption
    | fail_if_no_progress (with_reducible refine Kept.upd ?_ rfl rfl rfl rfl rfl rfl rfl)

theorem refreshDoGroup_kept {z0 : State} {g : Nat} {s : State} (h0 : Kept z0 s) : Kept z0 (refreshDoGroup g s) := by
  dsimp only [refreshDoGroup]
  repeat' first
    | with_reducible assumption
    | with_reducible apply refreshChan_kept
    | with_reducible apply Kept.foldl
    | fail_if_no_progress (with_reducible refine Kept.upd ?_ rfl rfl rfl rfl rfl rfl rfl)
    | split
    | intro _

theorem readbackOne_kept {z0 : State} {pins : BitVec 64} {s : State} {n : Fin 64} (h0 : Kept z0 s) : Kept z0
    (readbackOne pins s n) := by
  dsimp only [readbackOne]
  repeat' first
    | with_reducible assumption
    | with_reducible apply fireChange_kept
    | with_reducible apply refreshChan_kept
    | with_reducible apply modDo_kept
    | fail_if_no_progress (with_reducible refine Kept.upd ?_ rfl rfl rfl rfl rfl rfl rfl)
    | split

theorem takeMeasured_kept {z0 : State} {r : DoReading} {s : State} (h0 : Kept z0 s) : Kept z0 (takeMeasured r s) := by
  dsimp only [takeMeasured]
  repeat' first
    | with_reducible assumption
    | fail_if_no_progress (with_reducible refine Kept.upd ?_ rfl rfl rfl rfl rfl rfl rfl)

/-! ### Loops -/


theorem noteShortfall_kept {z0 : State} {i : Nat} {before : List Byte} {mean measured : Int} {s : State} (h0 : Kept z0
    s) : Kept z0 (noteShortfall i before mean measured s) := by
  dsimp only [noteShortfall]
  repeat' first
    | with_reducible assumption
    | with_reducible apply raiseChan_kept
    | with_reducible apply Kept.foldl
    | fail_if_no_progress (with_reducible refine Kept.upd ?_ rfl rfl rfl rfl rfl rfl rfl)
    | split
    | intro _

theorem convertPowered_kept {z0 : State} {t : Nat} {s : State} {x : Nat × LoopReading} (h0 : Kept z0 s) : Kept z0
    (convertPowered t s x) := by
  dsimp only [convertPowered]
  repeat' first
    | with_reducible assumption
    | with_reducible apply fireChange_kept
    | with_reducible apply refreshChan_kept
    | with_reducible apply modLoop_kept
    | with_reducible apply noteShortfall_kept
    | with_reducible apply Kept.foldl
    | fail_if_no_progress (with_reducible refine Kept.upd ?_ rfl rfl rfl rfl rfl rfl rfl)
    | split

theorem convertOne_kept {z0 : State} {t : Nat} {s : State} {x : Nat × LoopReading} (h0 : Kept z0 s) : Kept z0
    (convertOne t s x) := by
  dsimp only [convertOne]
  repeat' first
    | with_reducible assumption
    | with_reducible apply convertPowered_kept
    | fail_if_no_progress (with_reducible refine Kept.upd ?_ rfl rfl rfl rfl rfl rfl rfl)
    | split

theorem hartFail_kept {z0 : State} {n : Nat} {cause : Nat} {s : State} (h0 : Kept z0 s) : Kept z0 (hartFail n cause s)
    := by
  dsimp only [hartFail]
  repeat' first
    | with_reducible assumption
    | with_reducible apply completeWait_kept
    | with_reducible apply modLoop_kept
    | fail_if_no_progress (with_reducible refine Kept.upd ?_ rfl rfl rfl rfl rfl rfl rfl)
    | split

/-! ### Watchdog -/


theorem modWdt_kept {z0 : State} {f : WdtSt → WdtSt} {s : State} (h0 : Kept z0 s) : Kept z0 (modWdt f s) := by
  dsimp only [modWdt]
  repeat' first
    | with_reducible assumption
    | fail_if_no_progress (with_reducible refine Kept.upd ?_ rfl rfl rfl rfl rfl rfl rfl)

theorem newWindow_kept {z0 : State} {first : Bool} {s : State} (h0 : Kept z0 s) : Kept z0 (newWindow first s) := by
  dsimp only [newWindow]
  repeat' first
    | with_reducible assumption
    | with_reducible apply checked_kept
    | with_reducible apply modWdt_kept

theorem checkIn_kept {z0 : State} {t : BitVec 7} {copyB : Bool} {s : State} (h0 : Kept z0 s) : Kept z0 (checkIn t copyB
    s) := by
  dsimp only [checkIn]
  repeat' first
    | with_reducible assumption
    | with_reducible apply checked_kept
    | with_reducible apply modWdt_kept

theorem refusePair_kept {z0 : State} {n : Nat} {s : State} (h0 : Kept z0 s) : Kept z0 (refusePair n s) := by
  dsimp only [refusePair]
  repeat' first
    | with_reducible assumption
    | with_reducible apply raise_kept
    | with_reducible apply modWdt_kept

theorem absorbArrivals_kept {z0 : State} {l : List WdtIn} {s : State} (h0 : Kept z0 s) : Kept z0 (absorbArrivals l s) :=
    by
  dsimp only [absorbArrivals]
  repeat' first
    | with_reducible assumption
    | with_reducible apply modWdt_kept
    | with_reducible apply checkIn_kept
    | with_reducible apply Kept.foldl
    | fail_if_no_progress (with_reducible refine Kept.upd ?_ rfl rfl rfl rfl rfl rfl rfl)
    | split
    | intro _

theorem wdtArrivals_kept {z0 : State} {l : List WdtIn} {n : Nat} {moved : Bool} {s : State} (h0 : Kept z0 s) :
    Kept z0 (wdtArrivals l n moved s).2.2 := by
  induction l generalizing n moved s with
  | nil => exact h0
  | cons x l ih =>
    cases x with
    | checkin t b => exact ih (checkIn_kept h0)
    | key t v =>
      unfold wdtArrivals
      extract_lets s1 s2
      have h1 : Kept z0 s1 := modWdt_kept h0
      have h2 : Kept z0 s2 := modWdt_kept h1
      split
      · exact ih (modWdt_kept h1)
      · split
        · exact absorbArrivals_kept h1
        · split
          · exact absorbArrivals_kept h2
          · split
            · exact ih (newWindow_kept h2)
            · exact ih (refusePair_kept h2)

theorem tripPulse_kept {z0 : State} {s : State} (h0 : Kept z0 s) : Kept z0 (tripPulse s) := by
  dsimp only [tripPulse]
  repeat' first
    | with_reducible assumption
    | fail_if_no_progress (with_reducible refine Kept.upd ?_ rfl rfl rfl rfl rfl rfl rfl)

theorem recordExpiry_kept {z0 : State} {data : DWord} {s : State} (h0 : Kept z0 s) : Kept z0 (recordExpiry data s) := by
  dsimp only [recordExpiry]
  repeat' first
    | with_reducible assumption
    | with_reducible apply raise_kept
    | with_reducible apply enqueueOp_kept
    | fail_if_no_progress (with_reducible refine Kept.upd ?_ rfl rfl rfl rfl rfl rfl rfl)

theorem expireWdt_kept {z0 : State} {cause n : Nat} {s : State} (h0 : Kept z0 s) : Kept z0 (expireWdt cause n s) := by
  dsimp only [expireWdt]
  repeat' first
    | with_reducible assumption
    | with_reducible apply cutOutputs_kept
    | with_reducible apply enterSafe_kept
    | with_reducible apply modWdt_kept
    | with_reducible apply tripPulse_kept
    | with_reducible apply recordExpiry_kept
    | fail_if_no_progress (with_reducible refine Kept.upd ?_ rfl rfl rfl rfl rfl rfl rfl)
    | split

theorem takeLatch_kept {z0 : State} {s : State} (h0 : Kept z0 s) : Kept z0 (takeLatch s) := by
  dsimp only [takeLatch]
  repeat' first
    | with_reducible assumption
    | with_reducible apply raise_kept
    | with_reducible apply modWdt_kept
    | fail_if_no_progress (with_reducible refine Kept.upd ?_ rfl rfl rfl rfl rfl rfl rfl)
    | split

theorem disarmDue_kept {z0 : State} {s : State} (h0 : Kept z0 s) : Kept z0 (disarmDue s) := by
  dsimp only [disarmDue]
  repeat' first
    | with_reducible assumption
    | with_reducible apply modWdt_kept
    | fail_if_no_progress (with_reducible refine Kept.upd ?_ rfl rfl rfl rfl rfl rfl rfl)
    | split

theorem wdtEvaluate_kept {z0 : State} {s : State} (h0 : Kept z0 s) : Kept z0 (wdtEvaluate s).2.2.2 := by
  unfold wdtEvaluate
  refine wdtArrivals_kept (modWdt_kept ?_)
  split
  · exact newWindow_kept h0
  · exact h0

theorem wdtEdge_kept {z0 : State} {s : State} (h0 : Kept z0 s) : Kept z0 (wdtEdge s) := by
  unfold wdtEdge
  refine Kept.ite (modWdt_kept h0) (Kept.ite (expireWdt_kept h0) ?_)
  split
  next n cause moved s1 e1 =>
  have h1 : Kept z0 s1 := by
    have := wdtEvaluate_kept h0
    rw [e1] at this
    exact this
  exact Kept.ite (expireWdt_kept h1) (Kept.ite (disarmDue_kept h1) (Kept.ite (disarmDue_kept (modWdt_kept h1))
    (Kept.ite (expireWdt_kept h1) (disarmDue_kept (modWdt_kept h1)))))

theorem clockFailure_kept {z0 : State} {data : Nat} {s : State} (h0 : Kept z0 s) : Kept z0 (clockFailure data s) := by
  dsimp only [clockFailure]
  repeat' first
    | with_reducible assumption
    | with_reducible apply raise_kept
    | with_reducible apply cutOutputs_kept
    | with_reducible apply faultSafe_kept
    | with_reducible apply tripPulse_kept
    | fail_if_no_progress (with_reducible refine Kept.upd ?_ rfl rfl rfl rfl rfl rfl rfl)
    | split

/-! ### Power -/


theorem modPower_kept {z0 : State} {f : PowerSt → PowerSt} {s : State} (h0 : Kept z0 s) : Kept z0 (modPower f s) := by
  dsimp only [modPower]
  repeat' first
    | with_reducible assumption
    | fail_if_no_progress (with_reducible refine Kept.upd ?_ rfl rfl rfl rfl rfl rfl rfl)

theorem raisePowerDown_kept {z0 : State} {cause : BitVec 2} {mv : Nat} {s : State} (h0 : Kept z0 s) : Kept z0
    (raisePowerDown cause mv s) := by
  dsimp only [raisePowerDown]
  repeat' first
    | with_reducible assumption
    | with_reducible apply raise_kept

theorem lastPage_kept {z0 : State} {s : State} (h0 : Kept z0 s) : Kept z0 (lastPage s) := by
  dsimp only [lastPage]
  repeat' first
    | with_reducible assumption
    | with_reducible apply finishPage_kept
    | fail_if_no_progress (with_reducible refine Kept.upd ?_ rfl rfl rfl rfl rfl rfl rfl)

theorem beginSave_kept {z0 : State} {cause : BitVec 2} {s : State} (h0 : Kept z0 s) : Kept z0 (beginSave cause s) := by
  dsimp only [beginSave]
  repeat' first
    | with_reducible assumption
    | with_reducible apply raise_kept
    | with_reducible apply abortAll_kept
    | with_reducible apply deenergise_kept
    | with_reducible apply startPage_kept
    | with_reducible apply takeLatch_kept
    | with_reducible apply modPower_kept
    | with_reducible apply raisePowerDown_kept
    | with_reducible apply lastPage_kept
    | fail_if_no_progress (with_reducible refine Kept.upd ?_ rfl rfl rfl rfl rfl rfl rfl)
    | split

theorem dueSaveNow_kept {z0 : State} {cause : BitVec 2} {s : State} (h0 : Kept z0 s) : Kept z0 (dueSaveNow cause s) :=
    by
  dsimp only [dueSaveNow]
  repeat' first
    | with_reducible assumption
    | with_reducible apply modPower_kept
    | with_reducible apply beginSave_kept
    | fail_if_no_progress (with_reducible refine Kept.upd ?_ rfl rfl rfl rfl rfl rfl rfl)
    | split

theorem rideOver_kept {z0 : State} {storeMv : Nat} {s : State} (h0 : Kept z0 s) : Kept z0 (rideOver storeMv s) := by
  dsimp only [rideOver]
  repeat' first
    | with_reducible assumption
    | with_reducible apply advanceNet_kept
    | with_reducible apply modPower_kept
    | with_reducible apply dueSaveNow_kept

theorem endInterruption_kept {z0 : State} {durationUs storeMv : Nat} {s : State} (h0 : Kept z0 s) : Kept z0
    (endInterruption durationUs storeMv s) := by
  dsimp only [endInterruption]
  repeat' first
    | with_reducible assumption
    | with_reducible apply raise_kept
    | with_reducible apply setStore_kept
    | with_reducible apply modPower_kept
    | fail_if_no_progress (with_reducible refine Kept.upd ?_ rfl rfl rfl rfl rfl rfl rfl)
    | split

theorem stopDie_kept {z0 : State} {s : State} (h0 : Kept z0 s) : Kept z0 (stopDie s) := by
  dsimp only [stopDie]
  repeat' first
    | with_reducible assumption
    | fail_if_no_progress (with_reducible refine Kept.upd ?_ rfl rfl rfl rfl rfl rfl rfl)

theorem tearPage_kept {z0 : State} {done : Nat} {mixed : DWord} {s : State} (h0 : Kept z0 s) : Kept z0 (tearPage done
    mixed s) := by
  have hl (k : Nat) (ps : List (Nat × Bytes)) (r : RetSt) : (tearList done mixed k ps r).sealLock = r.sealLock ∧
      (Mem.wf0 r.mram = true → Mem.wf0 (tearList done mixed k ps r).mram = true) := by
    induction ps generalizing k r with
    | nil => cases k <;> exact ⟨rfl, id⟩
    | cons p ps ih =>
      cases k with
      | zero => exact ⟨rfl, storePage_wf0⟩
      | succ k => exact ⟨(ih k _).1, fun e => (ih k _).2 (storePage_wf0 e)⟩
  have hk {k : Nat} {ps : List (Nat × Bytes)} {s : State} (h : Kept z0 s) : Kept z0 (modRet (tearList done mixed k ps) s) :=
    modRet_kept (fun e => (hl _ _ _).1.trans e) (hl _ _ _).2 h
  have hn : Kept z0 (takeFree s).2 := takeFree_kept h0
  unfold tearPage
  split
  · exact modRet_kept id storePage_wf0 h0
  · extract_lets
    refine Kept.ite ?_ ?_
    · extract_lets
      exact Kept.ite (modWdt_kept (hk hn)) hn
    · split
      · extract_lets
        exact Kept.ite (hk hn) hn
      · exact hn

theorem unlatchedAt_kept {z0 : State} {mv : Nat} {s : State} (h0 : Kept z0 s) : Kept z0 (unlatchedAt mv s) := by
  dsimp only [unlatchedAt]
  repeat' first
    | with_reducible assumption
    | with_reducible apply modWdt_kept
    | with_reducible apply modPower_kept
    | fail_if_no_progress (with_reducible refine Kept.upd ?_ rfl rfl rfl rfl rfl rfl rfl)
    | split

theorem barnOff_kept {z0 : State} {b : Fin 4} {s : State} (h0 : Kept z0 s) : Kept z0 (barnOff b s) := by
  dsimp only [barnOff]
  repeat' first
    | with_reducible assumption
    | with_reducible apply modStall_kept
    | with_reducible apply modBarn_kept
    | with_reducible apply settleHomes_kept
    | with_reducible apply faultCopy_kept
    | with_reducible apply endCall_kept
    | with_reducible apply Kept.foldl
    | fail_if_no_progress (with_reducible refine Kept.upd ?_ rfl rfl rfl rfl rfl rfl rfl)
    | exact fun _ e => e
    | exact fun _ _ => rfl
    | exact fun _ e => Mem.wf_putAll _ _ e
    | exact fun _ _ => Mem.wf_putAll _ _ rfl
    | split
    | intro _

theorem enterPhase_kept {z0 : State} {n : Nat} {s : State} (h0 : Kept z0 s) : Kept z0 (enterPhase n s) := by
  dsimp only [enterPhase]
  repeat' first
    | with_reducible assumption
    | fail_if_no_progress (with_reducible refine Kept.upd ?_ rfl rfl rfl rfl rfl rfl rfl)

theorem modSlot_kept {z0 : State} {one : Bool} {f : FwSlot → FwSlot} {s : State}
    (hf : ∀ x : FwSlot, Mem.wf x.image = true → Mem.wf (f x).image = true) (h0 : Kept z0 s) : Kept z0 (modSlot one f s) := by
  unfold modSlot
  split
  · refine Kept.localData h0 (fun e => ?_)
    simp only [State.localWf, Bool.and_eq_true] at e ⊢
    exact ⟨e.1, hf _ e.2⟩
  · refine Kept.localData h0 (fun e => ?_)
    simp only [State.localWf, Bool.and_eq_true] at e ⊢
    exact ⟨⟨e.1.1, hf _ e.1.2⟩, e.2⟩

theorem startOther_kept {z0 : State} {s : State} (h0 : Kept z0 s) : Kept z0 (startOther s) := by
  dsimp only [startOther]
  repeat' first
    | with_reducible assumption
    | with_reducible apply raise_kept
    | with_reducible apply modSlot_kept
    | fail_if_no_progress (with_reducible refine Kept.upd ?_ rfl rfl rfl rfl rfl rfl rfl)
    | exact fun _ e => e
    | exact fun _ _ => rfl

theorem testFailed_kept {z0 : State} {test : Nat} {c : Nat} {s : State} (h0 : Kept z0 s) : Kept z0 (testFailed test c s)
    := by
  dsimp only [testFailed]
  repeat' first
    | with_reducible assumption
    | with_reducible apply modBarn_kept
    | with_reducible apply raise_kept
    | with_reducible apply modLoop_kept
    | with_reducible apply setStore_kept
    | with_reducible apply present_kept
    | with_reducible apply retireStall_kept
    | fail_if_no_progress (with_reducible refine Kept.upd ?_ rfl rfl rfl rfl rfl rfl rfl)
    | split

theorem testEffects_kept {z0 : State} {r : SelfTest} {s : State} (h0 : Kept z0 s) : Kept z0 (testEffects r s) := by
  dsimp only [testEffects]
  repeat' first
    | with_reducible assumption
    | with_reducible apply retireSolver_kept
    | with_reducible apply testFailed_kept
    | with_reducible apply Kept.foldl
    | fail_if_no_progress (with_reducible refine Kept.upd ?_ rfl rfl rfl rfl rfl rfl rfl)
    | split
    | intro _

theorem endStartup_kept {z0 : State} {s : State} (h0 : Kept z0 s) : Kept z0 (endStartup s) := by
  dsimp only [endStartup]
  repeat' first
    | with_reducible assumption
    | with_reducible apply changeMode_kept
    | with_reducible apply enterRun_kept
    | with_reducible apply raisePair_kept
    | with_reducible apply modPair_kept
    | with_reducible apply restartStored_kept
    | fail_if_no_progress (with_reducible refine Kept.upd ?_ rfl rfl rfl rfl rfl rfl rfl)
    | split

/-! ### Firmware -/


theorem raiseFw_kept {z0 : State} {code data : Nat} {s : State} (h0 : Kept z0 s) : Kept z0 (raiseFw code data s) := by
  dsimp only [raiseFw]
  repeat' first
    | with_reducible assumption
    | with_reducible apply raise_kept

theorem setXfer_kept {z0 : State} {k : Fin 8} {x : Transfer} {s : State} (h0 : Kept z0 s) : Kept z0 (setXfer k x s) :=
    by
  dsimp only [setXfer]
  repeat' first
    | with_reducible assumption
    | fail_if_no_progress (with_reducible refine Kept.upd ?_ rfl rfl rfl rfl rfl rfl rfl)

theorem endXfer_kept {z0 : State} {k : Fin 8} {status : Byte} {s : State} (h0 : Kept z0 s) : Kept z0 (endXfer k status
    s) := by
  dsimp only [endXfer]
  repeat' first
    | with_reducible assumption
    | with_reducible apply completeWait_kept
    | fail_if_no_progress (with_reducible refine Kept.upd ?_ rfl rfl rfl rfl rfl rfl rfl)

theorem sendMessage_kept {z0 : State} {k : Fin 8} {x : Transfer} {kind arg count : Nat} {body : Bytes} {s : State} (h0 :
    Kept z0 s) : Kept z0 (sendMessage k x kind arg count body s) := by
  dsimp only [sendMessage]
  repeat' first
    | with_reducible assumption
    | with_reducible apply enqueueOwn_kept
    | with_reducible apply modIhloz_kept
    | with_reducible apply setXfer_kept
    | fail_if_no_progress (with_reducible refine Kept.upd ?_ rfl rfl rfl rfl rfl rfl rfl)
    | split

theorem hear_kept {z0 r0 : State} {kind : Nat} {m : TransferMsg} {s : State} (h0 : Kept z0 s) (e0 : (hear kind m s) =
    some r0) : Kept z0 r0 := by
  unfold hear at e0
  dsimp only at e0
  repeat' split at e0
  all_goals cases e0
  all_goals repeat' first
    | with_reducible assumption
    | fail_if_no_progress (with_reducible refine Kept.upd ?_ rfl rfl rfl rfl rfl rfl rfl)

theorem progressAll_kept {z0 : State} {n : Nat} {s : State} (h0 : Kept z0 s) : Kept z0 (progressAll n s) := by
  dsimp only [progressAll]
  repeat' first
    | with_reducible assumption
    | with_reducible apply raiseFw_kept
    | with_reducible apply Kept.foldl
    | fail_if_no_progress (with_reducible refine Kept.upd ?_ rfl rfl rfl rfl rfl rfl rfl)
    | split
    | intro _

theorem fwRefused_kept {z0 : State} {reason : Nat} {neighbour : Bool} {s : State} (h0 : Kept z0 s) : Kept z0 (fwRefused
    reason neighbour s) := by
  dsimp only [fwRefused]
  repeat' first
    | with_reducible assumption
    | with_reducible apply raiseFw_kept

theorem sendData_kept {z0 : State} {k : Fin 8} {x : Transfer} {s : State} (h0 : Kept z0 s) : Kept z0 (sendData k x s) :=
    by
  dsimp only [sendData]
  repeat' first
    | with_reducible assumption
    | with_reducible apply sendMessage_kept
    | fail_if_no_progress (with_reducible refine Kept.upd ?_ rfl rfl rfl rfl rfl rfl rfl)
    | split

theorem progress_kept {z0 : State} {x : Transfer} {before now : Nat} {s : State} (h0 : Kept z0 s) : Kept z0 (progress x
    before now s) := by
  dsimp only [progress]
  repeat' first
    | with_reducible assumption
    | with_reducible apply raiseFw_kept
    | fail_if_no_progress (with_reducible refine Kept.upd ?_ rfl rfl rfl rfl rfl rfl rfl)
    | split

theorem takeData_kept {z0 : State} {x : Transfer} {m : TransferMsg} {s : State} (h0 : Kept z0 s) : Kept z0 (takeData x m
    s) := by
  dsimp only [takeData]
  repeat' first
    | with_reducible assumption
    | with_reducible apply modSlot_kept
    | with_reducible apply progress_kept
    | fail_if_no_progress (with_reducible refine Kept.upd ?_ rfl rfl rfl rfl rfl rfl rfl)
    | exact fun _ e => e
    | exact fun _ _ => rfl
    | exact fun _ e => Mem.wf_putAll _ _ e

theorem takeDone_kept {z0 : State} {k : Fin 8} {x : Transfer} {s : State} (h0 : Kept z0 s) : Kept z0 (takeDone k x s) :=
    by
  dsimp only [takeDone]
  repeat' first
    | with_reducible assumption
    | with_reducible apply setXfer_kept
    | with_reducible apply sendMessage_kept
    | with_reducible apply Kept.foldl
    | fail_if_no_progress (with_reducible refine Kept.upd ?_ rfl rfl rfl rfl rfl rfl rfl)
    | split
    | intro _

theorem timeoutXfer_kept {z0 : State} {k : Fin 8} {x : Transfer} {s : State} (h0 : Kept z0 s) : Kept z0 (timeoutXfer k x
    s) := by
  dsimp only [timeoutXfer]
  repeat' first
    | with_reducible assumption
    | with_reducible apply modSlot_kept
    | with_reducible apply endXfer_kept
    | with_reducible apply fwRefused_kept
    | fail_if_no_progress (with_reducible refine Kept.upd ?_ rfl rfl rfl rfl rfl rfl rfl)
    | exact fun _ e => e
    | exact fun _ _ => rfl
    | exact fun _ e => Mem.wf_putAll _ _ e
    | exact fun _ _ => Mem.wf_putAll _ _ rfl
    | split

theorem beginPause_kept {z0 : State} {s : State} (h0 : Kept z0 s) : Kept z0 (beginPause s) := by
  dsimp only [beginPause]
  repeat' first
    | with_reducible assumption
    | with_reducible apply modTasks_kept
    | with_reducible apply flushOutputs_kept
    | with_reducible apply leave_kept
    | with_reducible apply abortTask_kept
    | with_reducible apply hartFail_kept
    | with_reducible apply Kept.foldl
    | fail_if_no_progress (with_reducible refine Kept.upd ?_ rfl rfl rfl rfl rfl rfl rfl)
    | split
    | intro _

theorem deliverHeld_kept {z0 : State} {h : HeldRx} {s : State} (h0 : Kept z0 s) : Kept z0 (deliverHeld s h) := by
  cases h with
  | can c f sof => exact receiveCan_kept h0
  | eth p frame fcsGood sfd => exact arriveEth_kept h0

theorem takeHeld_kept {z0 : State} {s : State} (h0 : Kept z0 s) : Kept z0 (takeHeld s) := by
  dsimp only [takeHeld]
  repeat' first
    | with_reducible assumption
    | with_reducible apply deliverHeld_kept
    | with_reducible apply Kept.foldl
    | fail_if_no_progress (with_reducible refine Kept.upd ?_ rfl rfl rfl rfl rfl rfl rfl)
    | split
    | intro _

theorem endPause_kept {z0 : State} {s : State} (h0 : Kept z0 s) : Kept z0 (endPause s) := by
  dsimp only [endPause]
  repeat' first
    | with_reducible assumption
    | with_reducible apply nodeState_kept
    | fail_if_no_progress (with_reducible refine Kept.upd ?_ rfl rfl rfl rfl rfl rfl rfl)
    | split

theorem pauseReleases_kept {z0 : State} {s : State} (h0 : Kept z0 s) : Kept z0 (pauseReleases s) := by
  dsimp only [pauseReleases]
  repeat' first
    | with_reducible assumption
    | with_reducible apply modTasks_kept
    | with_reducible apply modCtr_kept
    | with_reducible apply raiseTask_kept
    | with_reducible apply releaseNow_kept
    | with_reducible apply Kept.foldl
    | fail_if_no_progress (with_reducible refine Kept.upd ?_ rfl rfl rfl rfl rfl rfl rfl)
    | split
    | intro _

theorem resetBlocks_kept {z0 : State} {reads : List (Half × Byte)} {s : State} (h0 : Kept z0 s) : Kept z0 (resetBlocks
    reads s).1 := by
  unfold resetBlocks
  refine Kept.foldl_fst (fun p id h => ?_) h0
  split
  · split
    · extract_lets s1 s2
      have h2 : Kept z0 s2 := enqueueOp_kept (acceptBlock_kept h)
      clear_value s2
      exact raiseFw_kept (Kept.upd h2 rfl rfl rfl rfl rfl rfl rfl)
    · exact h
  · exact h

theorem resetBlocks_kept_eq {z0 : State} {reads : List (Half × Byte)} {s : State} (h0 : Kept z0 s) {v0} {r0 : State} (e0
    : (resetBlocks reads s) = (r0, v0)) : Kept z0 r0 := by
  have := resetBlocks_kept (z0 := z0) (reads := reads) (s := s) h0
  rw [e0] at this
  exact this

theorem pendingSave_kept {z0 : State} {s : State} (h0 : Kept z0 s) : Kept z0 (pendingSave s) := by
  dsimp only [pendingSave]
  repeat' first
    | with_reducible assumption
    | with_reducible apply modPower_kept
    | with_reducible apply beginSave_kept
    | fail_if_no_progress (with_reducible refine Kept.upd ?_ rfl rfl rfl rfl rfl rfl rfl)
    | split

theorem completeActivate_kept {z0 : State} {status : Byte} {s : State} (h0 : Kept z0 s) : Kept z0 (completeActivate
    status s) := by
  dsimp only [completeActivate]
  repeat' first
    | with_reducible assumption
    | with_reducible apply completeWait_kept
    | with_reducible apply Kept.foldl
    | fail_if_no_progress (with_reducible refine Kept.upd ?_ rfl rfl rfl rfl rfl rfl rfl)
    | split
    | intro _

/-! ### Stalls -/


theorem park_kept {z0 : State} {u : StallId} {f : Fin 4} {ph : Phase} {s : State} (h0 : Kept z0 s) : Kept z0 (park u f
    ph s) := by
  dsimp only [park]
  repeat' first
    | with_reducible assumption
    | with_reducible apply modInst_kept
    | with_reducible apply stopPair_kept
    | with_reducible apply toFrame_kept
    | fail_if_no_progress (with_reducible refine Kept.upd ?_ rfl rfl rfl rfl rfl rfl rfl)
    | exact fun _ e => e
    | exact fun _ _ => rfl
    | exact fun _ e => Mem.wf_putAll _ _ e
    | exact fun _ _ => Mem.wf_putAll _ _ rfl
    | split

theorem holdTask_kept {z0 : State} {t : BitVec 7} {copyB entry : Bool} {addr : Nat} {s : State} (h0 : Kept z0 s) : Kept
    z0 (holdTask t copyB entry addr s) := by
  dsimp only [holdTask]
  repeat' first
    | with_reducible assumption
    | with_reducible apply modTask_kept
    | with_reducible apply raiseTask_kept
    | with_reducible apply changeMode_kept
    | fail_if_no_progress (with_reducible refine Kept.upd ?_ rfl rfl rfl rfl rfl rfl rfl)
    | split

theorem switchOut_kept {z0 : State} {u : StallId} {s : State} (h0 : Kept z0 s) : Kept z0 (switchOut u s) := by
  dsimp only [switchOut]
  repeat' first
    | with_reducible assumption
    | with_reducible apply modStall_kept
    | with_reducible apply toFrame_kept
    | fail_if_no_progress (with_reducible refine Kept.upd ?_ rfl rfl rfl rfl rfl rfl rfl)
    | exact fun _ e => e
    | exact fun _ _ => rfl
    | exact fun _ e => Mem.wf_putAll _ _ e
    | exact fun _ _ => Mem.wf_putAll _ _ rfl
    | split

theorem switchIn_kept {z0 : State} {u : StallId} {g : Fin 4} {s : State} (h0 : Kept z0 s) : Kept z0 (switchIn u g s) :=
    by
  unfold switchIn
  split
  · extract_lets s1 s2
    have h2 : Kept z0 s2 := modInst_kept (modStall_kept (fun x e => by simp only [loadFrame]; exact e) h0)
    clear_value s2
    split
    · exact selfAbort_kept h2
    · exact tryEnd_kept h2
  · exact h0

theorem deliverSocket_kept {z0 : State} {u : StallId} {f : Fin 4} {off : Nat} {v : Word} {g : Ctx → Ctx} {s : State} (h0
    : Kept z0 s) : Kept z0 (deliverSocket u f off v g s) := by
  dsimp only [deliverSocket]
  repeat' first
    | with_reducible assumption
    | with_reducible apply modStall_kept
    | with_reducible apply setCtx_kept
    | fail_if_no_progress (with_reducible refine Kept.upd ?_ rfl rfl rfl rfl rfl rfl rfl)
    | exact fun _ e => e
    | exact fun _ _ => rfl
    | exact fun _ e => Mem.wf_putAll _ _ e
    | exact fun _ _ => Mem.wf_putAll _ _ rfl
    | split

theorem framePend_kept {z0 : State} {u : StallId} {f : Fin 4} {s : State} (h0 : Kept z0 s) : Kept z0 (framePend u f s)
    := by
  dsimp only [framePend]
  repeat' first
    | with_reducible assumption
    | with_reducible apply modStall_kept
    | fail_if_no_progress (with_reducible refine Kept.upd ?_ rfl rfl rfl rfl rfl rfl rfl)
    | exact fun _ e => e
    | exact fun _ _ => rfl
    | exact fun _ e => Mem.wf_putAll _ _ e
    | exact fun _ _ => Mem.wf_putAll _ _ rfl
    | split

theorem retireStale_kept {z0 : State} {u : StallId} {f : Fin 4} {kind : ResKind} {s : State} (h0 : Kept z0 s) : Kept z0
    (retireStale u f kind s) := by
  dsimp only [retireStale]
  repeat' first
    | with_reducible assumption
    | with_reducible apply modCtr_kept
    | with_reducible apply modStall_kept
    | fail_if_no_progress (with_reducible refine Kept.upd ?_ rfl rfl rfl rfl rfl rfl rfl)
    | exact fun _ e => e
    | exact fun _ _ => rfl
    | exact fun _ e => Mem.wf_putAll _ _ e
    | exact fun _ _ => Mem.wf_putAll _ _ rfl
    | split

theorem loadBytesNow_kept {z0 : State} {u : StallId} {f : Fin 4} {q : LoadReq} {s : State} (h0 : Kept z0 s) : Kept z0
    (loadBytesNow u f q s).2 := by
  dsimp only [loadBytesNow]
  repeat' first
    | with_reducible assumption
    | with_reducible apply markTorn_kept
    | with_reducible apply addrFault_kept
    | with_reducible apply countAccess_kept
    | fail_if_no_progress (with_reducible refine Kept.upd ?_ rfl rfl rfl rfl rfl rfl rfl)
    | dsimp only
    | split

theorem loadBytesNow_kept_eq {z0 : State} {u : StallId} {f : Fin 4} {q : LoadReq} {s : State} (h0 : Kept z0 s) {v0} {r0
    : State} (e0 : (loadBytesNow u f q s) = (v0, r0)) : Kept z0 r0 := by
  have := loadBytesNow_kept (z0 := z0) (u := u) (f := f) (q := q) (s := s)  h0
  rw [e0] at this
  exact this

theorem copyWords_kept {z0 : State} {u : StallId} {f : Fin 4} {spoiled : Bool} {src dst n : Nat} {s : State}
    (h0 : Kept z0 s) : Kept z0 (copyWords u f spoiled src dst n s).2 := by
  induction n generalizing s src dst with
  | zero => exact h0
  | succ n ih =>
    unfold copyWords
    split
    next b s1 e1 =>
    have h1 : Kept z0 s1 := readData_kept_eq h0 e1
    dsimp only
    have h2 : Kept z0 (if spoiled then freeBytes 4 s1 else (b, s1)).2 := by
      split
      · exact freeBytes_kept h1
      · exact h1
    split
    · next q s2 e2 => exact writeData_kept_eq h2 e2
    · next s2 e2 => exact ih (writeData_kept_eq h2 e2)

theorem copyWords_kept_eq {z0 : State} {u : StallId} {f : Fin 4} {spoiled : Bool} {src dst n : Nat} {s : State}
    (h0 : Kept z0 s) {v0} {r0 : State} (e0 : copyWords u f spoiled src dst n s = (v0, r0)) : Kept z0 r0 := by
  have := copyWords_kept (u := u) (f := f) (spoiled := spoiled) (src := src) (dst := dst) (n := n) h0
  rw [e0] at this
  exact this

/-! ### Standby -/


theorem standbyOutputs_kept {z0 : State} {r : TaskRec} {n : Nat} {wins : Bool} {s : State} (h0 : Kept z0 s) : Kept z0
    (standbyOutputs r n wins s) := by
  dsimp only [standbyOutputs]
  repeat' first
    | with_reducible assumption
    | with_reducible apply applyValues_kept
    | with_reducible apply storeTx_kept
    | with_reducible apply modPair_kept
    | fail_if_no_progress (with_reducible refine Kept.upd ?_ rfl rfl rfl rfl rfl rfl rfl)
    | split

theorem baleEffect_kept {z0 : State} {b : Bale} {wins : Bool} {s : State} (h0 : Kept z0 s) : Kept z0 (baleEffect b wins
    s) := by
  unfold baleEffect
  extract_lets n s1
  split
  · have h1 : Kept z0 s1 := Kept.home h0 rfl rfl
      (fun e f => (applyLines_wf0 ⟨e, f⟩).1) (fun e f => (applyLines_wf0 ⟨e, f⟩).2) rfl rfl rfl
    split
    · exact standbyOutputs_kept h1
    · exact h1
  · split
    · split
      · split
        · exact h0
        · exact raise_kept (applyEdit_kept h0)
      · exact h0
    · split
      · split
        next t cycle k _ =>
        have h2 : Kept z0 (takeFree s).2 := takeFree_kept h0
        split
        · extract_lets s3
          have h3 : Kept z0 s3 := applyProfile_kept h2
          split
          · exact completeWait_kept h3
          · exact h3
        · exact h2
      · exact h0

theorem notePartnerEdit_kept {z0 : State} {b : Bale} {s : State} (h0 : Kept z0 s) : Kept z0 (notePartnerEdit b s) := by
  dsimp only [notePartnerEdit]
  repeat' first
    | with_reducible assumption
    | with_reducible apply modPair_kept
    | fail_if_no_progress (with_reducible refine Kept.upd ?_ rfl rfl rfl rfl rfl rfl rfl)
    | split

theorem followAgain_kept {z0 : State} {s : State} (h0 : Kept z0 s) : Kept z0 (followAgain s) := by
  dsimp only [followAgain]
  repeat' first
    | with_reducible assumption
    | with_reducible apply standbyOutputs_kept
    | with_reducible apply Kept.foldl
    | fail_if_no_progress (with_reducible refine Kept.upd ?_ rfl rfl rfl rfl rfl rfl rfl)
    | split
    | intro _

theorem bulkLine_kept {z0 : State} {s : State} {l : BulkLine} (h0 : Kept z0 s) : Kept z0 (bulkLine s l) := by
  unfold bulkLine
  extract_lets q q2 q3 s1
  have h1 : Kept z0 s1 := Kept.home h0 rfl rfl
    (fun e f => (applyLine_wf0 ⟨e, f⟩).1) (fun e f => (applyLine_wf0 ⟨e, f⟩).2) rfl rfl rfl
  split
  · exact standbyOutputs_kept (modPair_kept h1)
  · exact h1

theorem bulkAgain_kept {z0 : State} {s : State} (h0 : Kept z0 s) : Kept z0 (bulkAgain s) := by
  dsimp only [bulkAgain]
  repeat' first
    | with_reducible assumption
    | fail_if_no_progress (with_reducible refine Kept.upd ?_ rfl rfl rfl rfl rfl rfl rfl)
    | split

end Sys2Proof.Machine
end

