-- ==== Sys2Proof/Laws/PerInstr.lean ====
section
/-! SUPPORT. Facts about each command as syntax: a host command names its opcode and whether it is serialised, a trigger
row its destination code. -/

namespace Sys2Proof.Laws.rows

open Sys2Proof Sys2Proof.Machine

/-- A row is a host command or a trigger row or neither. A host command's opcode lies below 32 (Table 14 of Host
Interface), and it is serialised as its opcode says, but for TASK_CONTROL, whose actions differ (R366). A trigger's
destination code lies in the trigger columns (Table 1 of Morfold Move Set). -/
def Statement (i : Instr) : Prop :=
  ((hostRow i).isSome && (triggerRow i).isSome) = false ∧
  (∀ r, hostRow i = some r → r.2.1 < 32 ∧ (r.2.2 = serialOp r.2.1 ∨ r.2.1 = 6)) ∧
  ∀ r, triggerRow i = some r → 0x21 ≤ r.2 ∧ r.2 ≤ 0x76

/-- A row that is neither. -/
theorem of_other {i : Instr} (h : hostRow i = none) (h' : triggerRow i = none) : Statement i := by
  simp [Statement, h, h']

/-- A host command. -/
theorem of_host {i : Instr} {d : Desc} {op : Nat} {ser : Bool} (h : hostRow i = some (d, op, ser))
    (h' : triggerRow i = none) (hr : op < 32 ∧ (ser = serialOp op ∨ op = 6)) : Statement i := by
  simpa [Statement, h, h'] using hr

/-- A trigger row. -/
theorem of_trigger {i : Instr} {u : StallId} {code : Nat} (h : hostRow i = none) (h' : triggerRow i = some (u, code))
    (hr : 0x21 ≤ code ∧ code ≤ 0x76) : Statement i := by
  simpa [Statement, h, h'] using hr

theorem nop (d : OpDesc) : Statement (.nop d) := by
  by_cases h : d.opcode = 0
  · exact of_host (if_pos h) rfl (by decide)
  · exact of_other (if_neg h) rfl
theorem identify (d : Desc) : Statement (.identify d) := of_host rfl rfl (by decide)
theorem settingsWrite (d : Desc) (block : Half) (format : Byte) (buf : Bytes) :
    Statement (.settingsWrite d block format buf) := of_host rfl rfl (by decide)
theorem settingsRead (d : Desc) (block : Half) : Statement (.settingsRead d block) := of_host rfl rfl (by decide)
theorem modeSet (d : Desc) (mode : Byte) (start : Byte) (reason : Half) :
    Statement (.modeSet d mode start reason) := of_host rfl rfl (by decide)
theorem taskLoad (d : Desc) (pkg : LoadPackage) : Statement (.taskLoad d pkg) := of_host rfl rfl (by decide)
theorem taskControlEnable (d : Desc) (task : Byte) :
    Statement (.taskControlEnable d task) := of_host rfl rfl (by decide)
theorem taskControlDisable (d : Desc) (task : Byte) :
    Statement (.taskControlDisable d task) := of_host rfl rfl (by decide)
theorem taskControlTrigger (d : Desc) (task : Byte) :
    Statement (.taskControlTrigger d task) := of_host rfl rfl (by decide)
theorem taskControlQuery (d : Desc) (task : Byte) : Statement (.taskControlQuery d task) := of_host rfl rfl (by decide)
theorem breakpointSet (d : Desc) (task : Byte) (bundle : Half) :
    Statement (.breakpointSet d task bundle) := of_host rfl rfl (by decide)
theorem breakpointClear (d : Desc) (task : Byte) (bundle : Half) :
    Statement (.breakpointClear d task bundle) := of_host rfl rfl (by decide)
theorem holdResume (d : Desc) (point : HoldPoint) : Statement (.holdResume d point) := of_host rfl rfl (by decide)
theorem step (d : Desc) (task : Byte) (count : Half) : Statement (.step d task count) := of_host rfl rfl (by decide)
theorem chanSync (d : Desc) (first count : Half) (reads : List (Nat × Option Bytes)) :
    Statement (.chanSync d first count reads) := of_host rfl rfl (by decide)
theorem wardenWrite (d : Desc) (first count : Half) (buf : Bytes) :
    Statement (.wardenWrite d first count buf) := of_host rfl rfl (by decide)
theorem imageExportSet (d : Desc) (region task image : Byte) (offset length : Half) (area : Word) :
    Statement (.imageExportSet d region task image offset length area) := of_host rfl rfl (by decide)
theorem editPrepare (d : Desc) (pkg : EditPackage) : Statement (.editPrepare d pkg) := of_host rfl rfl (by decide)
theorem editCommit (d : Desc) (earliest : DWord) (wait : EditWait) :
    Statement (.editCommit d earliest wait) := of_host rfl rfl (by decide)
theorem editRollback (d : Desc) (earliest : DWord) (wait : EditWait) :
    Statement (.editRollback d earliest wait) := of_host rfl rfl (by decide)
theorem profileLoad (d : Desc) (buf : Bytes) : Statement (.profileLoad d buf) := of_host rfl rfl (by decide)
theorem profileRequest (d : Desc) (profile cycles : Byte) :
    Statement (.profileRequest d profile cycles) := of_host rfl rfl (by decide)
theorem retainRead (d : Desc) (first count : Word) :
    Statement (.retainRead d first count) := of_host rfl rfl (by decide)
theorem retainWrite (d : Desc) (first count : Word) (buf : Bytes) :
    Statement (.retainWrite d first count buf) := of_host rfl rfl (by decide)
theorem sealLock (d : Desc) (confirm : Word) (buf : Bytes) :
    Statement (.sealLock d confirm buf) := of_host rfl rfl (by decide)
theorem recorderRead (d : Desc) (first count : Word) :
    Statement (.recorderRead d first count) := of_host rfl rfl (by decide)
theorem clockRead (d : Desc) : Statement (.clockRead d) := of_host rfl rfl (by decide)
theorem clockAdjustSet (d : Desc) (seconds : BitVec 48) (nanoseconds : Word) :
    Statement (.clockAdjustSet d seconds nanoseconds) := of_host rfl rfl (by decide)
theorem clockAdjustStep (d : Desc) (ns : DWord) : Statement (.clockAdjustStep d ns) := of_host rfl rfl (by decide)
theorem clockAdjustFreq (d : Desc) (freq : Word) : Statement (.clockAdjustFreq d freq) := of_host rfl rfl (by decide)
theorem canSend (d : Desc) (controller buffer : Byte) (oneShot : Bool) (buf : Bytes) :
    Statement (.canSend d controller buffer oneShot buf) := of_host rfl rfl (by decide)
theorem canCancel (d : Desc) (controller buffer : Byte) :
    Statement (.canCancel d controller buffer) := of_host rfl rfl (by decide)
theorem ethSend (d : Desc) (port queue : Byte) (launch stamp : Bool) (launchTime : DWord) (buf : Bytes) :
    Statement (.ethSend d port queue launch stamp launchTime buf) := of_host rfl rfl (by decide)
theorem ihlozScheduleLoad (d : Desc) (mode : Byte) (buf : Bytes) :
    Statement (.ihlozScheduleLoad d mode buf) := of_host rfl rfl (by decide)
theorem hartTransact (d : Desc) (channel : Half) (retries : Byte) (buf : Bytes) :
    Statement (.hartTransact d channel retries buf) := of_host rfl rfl (by decide)
theorem fwReceive (d : Desc) (source port : Byte) (length : Word) (image : Bytes) :
    Statement (.fwReceive d source port length image) := of_host rfl rfl (by decide)
theorem fwForward (d : Desc) (path port : Byte) : Statement (.fwForward d path port) := of_host rfl rfl (by decide)
theorem fwActivate (d : Desc) : Statement (.fwActivate d) := of_host rfl rfl (by decide)
theorem redundancyControlQuery (d : Desc) : Statement (.redundancyControlQuery d) := of_host rfl rfl (by decide)
theorem redundancyControlHandover (d : Desc) : Statement (.redundancyControlHandover d) := of_host rfl rfl (by decide)
theorem redundancyControlRetrain (d : Desc) : Statement (.redundancyControlRetrain d) := of_host rfl rfl (by decide)
theorem hiCtrlEnableSet (value : Word) : Statement (.hiCtrlEnableSet value) := of_other rfl rfl
theorem hiCtrlEnableClear (value : Word) : Statement (.hiCtrlEnableClear value) := of_other rfl rfl
theorem ringCfgEnSet (ring : Fin 8) (value : Word) : Statement (.ringCfgEnSet ring value) := of_other rfl rfl
theorem ringCfgEnClear (ring : Fin 8) (value : Word) : Statement (.ringCfgEnClear ring value) := of_other rfl rfl
theorem bar0Write (access : BarAccess) (value : Word) : Statement (.bar0Write access value) := of_other rfl rfl
theorem doorbellFetchDone (line : Bytes) : Statement (.doorbellFetchDone line) := of_other rfl rfl
theorem msixCoalesceExpire (ring : Fin 9) : Statement (.msixCoalesceExpire ring) := of_other rfl rfl
theorem pcieLinkUp (setup : LinkSetup) (width : BitVec 3) : Statement (.pcieLinkUp setup width) := of_other rfl rfl
theorem placementPublish (p : Publication) : Statement (.placementPublish p) := of_other rfl rfl
theorem taskDeadline (task : BitVec 7) : Statement (.taskDeadline task) := of_other rfl rfl
theorem alarmTrigger (task : BitVec 7) : Statement (.alarmTrigger task) := of_other rfl rfl
theorem eventTaskRelease (task : BitVec 7) (place : EventPlace) :
    Statement (.eventTaskRelease task place) := of_other rfl rfl
theorem instanceStart (task : BitVec 7) (delayNs : Nat) (parts : List Nat) :
    Statement (.instanceStart task delayNs parts) := of_other rfl rfl
theorem pairedCopyBStart (task : BitVec 7) (delayNs : Nat) (parts : List Nat) :
    Statement (.pairedCopyBStart task delayNs parts) := of_other rfl rfl
theorem contextSwitch (u : StallId) : Statement (.contextSwitch u) := of_other rfl rfl
theorem bundleIssue (u : StallId) : Statement (.bundleIssue u) := of_other rfl rfl
theorem breakpointHit (u : StallId) : Statement (.breakpointHit u) := of_other rfl rfl
theorem immHi (u : StallId) : Statement (.immHi u) := of_other rfl rfl
theorem aluAdd (u : StallId) : Statement (.aluAdd u) := of_trigger rfl rfl (by decide)
theorem aluAdc (u : StallId) : Statement (.aluAdc u) := of_trigger rfl rfl (by decide)
theorem aluSub (u : StallId) : Statement (.aluSub u) := of_trigger rfl rfl (by decide)
theorem aluSbc (u : StallId) : Statement (.aluSbc u) := of_trigger rfl rfl (by decide)
theorem aluAnd (u : StallId) : Statement (.aluAnd u) := of_trigger rfl rfl (by decide)
theorem aluOr (u : StallId) : Statement (.aluOr u) := of_trigger rfl rfl (by decide)
theorem aluXor (u : StallId) : Statement (.aluXor u) := of_trigger rfl rfl (by decide)
theorem aluAndn (u : StallId) : Statement (.aluAndn u) := of_trigger rfl rfl (by decide)
theorem aluShl (u : StallId) : Statement (.aluShl u) := of_trigger rfl rfl (by decide)
theorem aluShr (u : StallId) : Statement (.aluShr u) := of_trigger rfl rfl (by decide)
theorem aluSar (u : StallId) : Statement (.aluSar u) := of_trigger rfl rfl (by decide)
theorem aluRol (u : StallId) : Statement (.aluRol u) := of_trigger rfl rfl (by decide)
theorem aluMin (u : StallId) : Statement (.aluMin u) := of_trigger rfl rfl (by decide)
theorem aluMax (u : StallId) : Statement (.aluMax u) := of_trigger rfl rfl (by decide)
theorem aluCmp (u : StallId) : Statement (.aluCmp u) := of_trigger rfl rfl (by decide)
theorem macMul (u : StallId) : Statement (.macMul u) := of_trigger rfl rfl (by decide)
theorem macMac (u : StallId) : Statement (.macMac u) := of_trigger rfl rfl (by decide)
theorem macMsu (u : StallId) : Statement (.macMsu u) := of_trigger rfl rfl (by decide)
theorem chkStep (u : StallId) : Statement (.chkStep u) := of_trigger rfl rfl (by decide)
theorem chkPar (u : StallId) : Statement (.chkPar u) := of_trigger rfl rfl (by decide)
theorem chkRev (u : StallId) : Statement (.chkRev u) := of_trigger rfl rfl (by decide)
theorem ldW (u : StallId) : Statement (.ldW u) := of_trigger rfl rfl (by decide)
theorem ldHu (u : StallId) : Statement (.ldHu u) := of_trigger rfl rfl (by decide)
theorem ldBu (u : StallId) : Statement (.ldBu u) := of_trigger rfl rfl (by decide)
theorem stW (u : StallId) : Statement (.stW u) := of_trigger rfl rfl (by decide)
theorem stH (u : StallId) : Statement (.stH u) := of_trigger rfl rfl (by decide)
theorem stB (u : StallId) : Statement (.stB u) := of_trigger rfl rfl (by decide)
theorem lsBlk (u : StallId) : Statement (.lsBlk u) := of_trigger rfl rfl (by decide)
theorem loadResultArrive (u : StallId) (frame : Fin 4) : Statement (.loadResultArrive u frame) := of_other rfl rfl
theorem blockTransferComplete (u : StallId) (frame : Fin 4) :
    Statement (.blockTransferComplete u frame) := of_other rfl rfl
theorem rptGo (u : StallId) : Statement (.rptGo u) := of_trigger rfl rfl (by decide)
theorem rptExit (u : StallId) : Statement (.rptExit u) := of_trigger rfl rfl (by decide)
theorem imgRdb (u : StallId) : Statement (.imgRdb u) := of_trigger rfl rfl (by decide)
theorem imgRdw (u : StallId) : Statement (.imgRdw u) := of_trigger rfl rfl (by decide)
theorem imgWrb (u : StallId) : Statement (.imgWrb u) := of_trigger rfl rfl (by decide)
theorem imgWrw (u : StallId) : Statement (.imgWrw u) := of_trigger rfl rfl (by decide)
theorem solve (u : StallId) : Statement (.solve u) := of_trigger rfl rfl (by decide)
theorem brJmp (u : StallId) : Statement (.brJmp u) := of_trigger rfl rfl (by decide)
theorem brCall (u : StallId) : Statement (.brCall u) := of_trigger rfl rfl (by decide)
theorem brJnz (u : StallId) : Statement (.brJnz u) := of_trigger rfl rfl (by decide)
theorem brJz (u : StallId) : Statement (.brJz u) := of_trigger rfl rfl (by decide)
theorem brJcc (u : StallId) : Statement (.brJcc u) := of_trigger rfl rfl (by decide)
theorem brRel (u : StallId) : Statement (.brRel u) := of_trigger rfl rfl (by decide)
theorem txEnd (u : StallId) : Statement (.txEnd u) := of_trigger rfl rfl (by decide)
theorem txAbort (u : StallId) : Statement (.txAbort u) := of_trigger rfl rfl (by decide)
theorem sysEvt (u : StallId) : Statement (.sysEvt u) := of_trigger rfl rfl (by decide)
theorem sysFence (u : StallId) : Statement (.sysFence u) := of_trigger rfl rfl (by decide)
theorem sysWait (u : StallId) : Statement (.sysWait u) := of_trigger rfl rfl (by decide)
theorem sysWdkey (u : StallId) : Statement (.sysWdkey u) := of_trigger rfl rfl (by decide)
theorem sysCheckin (u : StallId) : Statement (.sysCheckin u) := of_trigger rfl rfl (by decide)
theorem solverCallStart (b : Fin 4) : Statement (.solverCallStart b) := of_other rfl rfl
theorem solverCallLimit (b : Fin 4) : Statement (.solverCallLimit b) := of_other rfl rfl
theorem solverResultArrive (u : StallId) (frame : Fin 4) : Statement (.solverResultArrive u frame) := of_other rfl rfl
theorem ld (b : Fin 4) (wait : BitVec 12) : Statement (.ld b wait) := of_other rfl rfl
theorem ldn (b : Fin 4) (wait : BitVec 12) : Statement (.ldn b wait) := of_other rfl rfl
theorem rungAnd (b : Fin 4) (wait : BitVec 12) : Statement (.rungAnd b wait) := of_other rfl rfl
theorem rungAndn (b : Fin 4) (wait : BitVec 12) : Statement (.rungAndn b wait) := of_other rfl rfl
theorem rungOr (b : Fin 4) (wait : BitVec 12) : Statement (.rungOr b wait) := of_other rfl rfl
theorem rungOrn (b : Fin 4) (wait : BitVec 12) : Statement (.rungOrn b wait) := of_other rfl rfl
theorem rungXor (b : Fin 4) (wait : BitVec 12) : Statement (.rungXor b wait) := of_other rfl rfl
theorem st (b : Fin 4) (wait : BitVec 12) : Statement (.st b wait) := of_other rfl rfl
theorem stn (b : Fin 4) (wait : BitVec 12) : Statement (.stn b wait) := of_other rfl rfl
theorem rungSet (b : Fin 4) (wait : BitVec 12) : Statement (.rungSet b wait) := of_other rfl rfl
theorem rst (b : Fin 4) (wait : BitVec 12) : Statement (.rst b wait) := of_other rfl rfl
theorem rise (b : Fin 4) (wait : BitVec 12) : Statement (.rise b wait) := of_other rfl rfl
theorem fall (b : Fin 4) (wait : BitVec 12) : Statement (.fall b wait) := of_other rfl rfl
theorem win (b : Fin 4) : Statement (.win b) := of_other rfl rfl
theorem tmr (b : Fin 4) (wait : BitVec 12) : Statement (.tmr b wait) := of_other rfl rfl
theorem rungNop (b : Fin 4) : Statement (.rungNop b) := of_other rfl rfl
theorem rungEnd (b : Fin 4) : Statement (.rungEnd b) := of_other rfl rfl
theorem endc (b : Fin 4) : Statement (.endc b) := of_other rfl rfl
theorem endcn (b : Fin 4) : Statement (.endcn b) := of_other rfl rfl
theorem jmp (b : Fin 4) : Statement (.jmp b) := of_other rfl rfl
theorem jmpc (b : Fin 4) : Statement (.jmpc b) := of_other rfl rfl
theorem jmpcn (b : Fin 4) : Statement (.jmpcn b) := of_other rfl rfl
theorem dup (b : Fin 4) : Statement (.dup b) := of_other rfl rfl
theorem pop (b : Fin 4) : Statement (.pop b) := of_other rfl rfl
theorem swap (b : Fin 4) : Statement (.swap b) := of_other rfl rfl
theorem rungNot (b : Fin 4) : Statement (.rungNot b) := of_other rfl rfl
theorem ands (b : Fin 4) : Statement (.ands b) := of_other rfl rfl
theorem ors (b : Fin 4) : Statement (.ors b) := of_other rfl rfl
theorem xors (b : Fin 4) : Statement (.xors b) := of_other rfl rfl
theorem push0 (b : Fin 4) : Statement (.push0 b) := of_other rfl rfl
theorem push1 (b : Fin 4) : Statement (.push1 b) := of_other rfl rfl
theorem clr (b : Fin 4) : Statement (.clr b) := of_other rfl rfl
theorem pairCompare (task : BitVec 7) : Statement (.pairCompare task) := of_other rfl rfl
theorem pairDeadline (task : BitVec 7) : Statement (.pairDeadline task) := of_other rfl rfl
theorem imageExportWrite (region : Fin 64) : Statement (.imageExportWrite region) := of_other rfl rfl
theorem cacheLoad (chan : BitVec 12) (hostRead : Option Bytes) :
    Statement (.cacheLoad chan hostRead) := of_other rfl rfl
theorem channelStale (chan : BitVec 12) : Statement (.channelStale chan) := of_other rfl rfl
theorem drainFenceComplete (m : FenceMarkers) : Statement (.drainFenceComplete m) := of_other rfl rfl
theorem resultForwarded (r : Forwarded) : Statement (.resultForwarded r) := of_other rfl rfl
theorem homeLineMove (line : Nat) : Statement (.homeLineMove line) := of_other rfl rfl
theorem wakeDecision (b : Fin 4) : Statement (.wakeDecision b) := of_other rfl rfl
theorem barnPowerSwitchOn (b : Fin 4) : Statement (.barnPowerSwitchOn b) := of_other rfl rfl
theorem barnPllLock (b : Fin 4) : Statement (.barnPllLock b) := of_other rfl rfl
theorem barnClockRamp (b : Fin 4) : Statement (.barnClockRamp b) := of_other rfl rfl
theorem stallUngate (u : StallId) : Statement (.stallUngate u) := of_other rfl rfl
theorem solverUngate (b : Fin 4) : Statement (.solverUngate b) := of_other rfl rfl
theorem stallGate (b : Fin 4) (stall : Option (Fin 5)) : Statement (.stallGate b stall) := of_other rfl rfl
theorem barnPowerOff (b : Fin 4) : Statement (.barnPowerOff b) := of_other rfl rfl
theorem farrierRead (stalls : List (StallId × Nat)) (solvers : List (Fin 4 × Nat)) :
    Statement (.farrierRead stalls solvers) := of_other rfl rfl
theorem stallRetired (u : StallId) : Statement (.stallRetired u) := of_other rfl rfl
theorem stallFailed (u : StallId) (detection : Byte) : Statement (.stallFailed u detection) := of_other rfl rfl
theorem solverRetired (b : Fin 4) (cause : Byte) : Statement (.solverRetired b cause) := of_other rfl rfl
theorem groomTest (u : StallId) (passed : Bool) : Statement (.groomTest u passed) := of_other rfl rfl
theorem groomScrub (result : ScrubResult) : Statement (.groomScrub result) := of_other rfl rfl
theorem thermalHigh (b : Fin 4) (temp : Half) : Statement (.thermalHigh b temp) := of_other rfl rfl
theorem diSample (g : Fin 8) (r : DiReading) : Statement (.diSample g r) := of_other rfl rfl
theorem wettingPulse (g : Fin 8) : Statement (.wettingPulse g) := of_other rfl rfl
theorem countEdge (n : Fin 8) (seen : CountSeen) : Statement (.countEdge n seen) := of_other rfl rfl
theorem chatterWindowExpire (n : Fin 64) : Statement (.chatterWindowExpire n) := of_other rfl rfl
theorem stuckTimeout (n : Fin 64) : Statement (.stuckTimeout n) := of_other rfl rfl
theorem countOverrateExpire (n : Fin 8) : Statement (.countOverrateExpire n) := of_other rfl rfl
theorem readbackSample (r : DoReading) : Statement (.readbackSample r) := of_other rfl rfl
theorem doCurrentLimit (n : Fin 64) : Statement (.doCurrentLimit n) := of_other rfl rfl
theorem doThermalShutdown (n : Fin 64) : Statement (.doThermalShutdown n) := of_other rfl rfl
theorem doThermalRetry (n : Fin 64) : Statement (.doThermalRetry n) := of_other rfl rfl
theorem groupOvercurrent (g : Fin 8) : Statement (.groupOvercurrent g) := of_other rfl rfl
theorem groupRetry (g : Fin 8) : Statement (.groupRetry g) := of_other rfl rfl
theorem doSupplyLow (g : Fin 8) (vfDv : Half) : Statement (.doSupplyLow g vfDv) := of_other rfl rfl
theorem loopConversion (r : List LoopReading) : Statement (.loopConversion r) := of_other rfl rfl
theorem aoLinkTimeout (n : Fin 16) : Statement (.aoLinkTimeout n) := of_other rfl rfl
theorem hartAttempt (n : Fin 32) : Statement (.hartAttempt n) := of_other rfl rfl
theorem hartResponse (n : Fin 32) (f : HartFrame) : Statement (.hartResponse n f) := of_other rfl rfl
theorem hartNoResponse (n : Fin 32) : Statement (.hartNoResponse n) := of_other rfl rfl
theorem hartBusBusy (n : Fin 32) : Statement (.hartBusBusy n) := of_other rfl rfl
theorem hartStray (n : Fin 32) : Statement (.hartStray n) := of_other rfl rfl
theorem ihlozFrameReceive (chanB : Bool) (f : IhlozFrame) (arrival : Int) :
    Statement (.ihlozFrameReceive chanB f arrival) := of_other rfl rfl
theorem payloadFreeze (slot : Byte) : Statement (.payloadFreeze slot) := of_other rfl rfl
theorem ihlozSlotSend (slot : Byte) (seenA seenB : Bool) :
    Statement (.ihlozSlotSend slot seenA seenB) := of_other rfl rfl
theorem ihlozSlotEnd (slot : Byte) : Statement (.ihlozSlotEnd slot) := of_other rfl rfl
theorem ihlozCycleStart (offsetNs : Int) : Statement (.ihlozCycleStart offsetNs) := of_other rfl rfl
theorem ihlozTWaitExpire (seenA seenB : Bool) : Statement (.ihlozTWaitExpire seenA seenB) := of_other rfl rfl
theorem collisionMarkerReceive (seen : MarkerSeen) (port : Option (Fin 8)) :
    Statement (.collisionMarkerReceive seen port) := of_other rfl rfl
theorem starDelimiterDetect (port : Fin 8) (tick : Nat) : Statement (.starDelimiterDetect port tick) := of_other rfl rfl
theorem starForwardCut (port : Fin 8) : Statement (.starForwardCut port) := of_other rfl rfl
theorem canFrameReceive (c : Fin 4) (f : CanSamples) (sof : Word) :
    Statement (.canFrameReceive c f sof) := of_other rfl rfl
theorem canTxComplete (c : Fin 4) (sof : Word) : Statement (.canTxComplete c sof) := of_other rfl rfl
theorem canArbitrationLost (c : Fin 4) (sof : Word) : Statement (.canArbitrationLost c sof) := of_other rfl rfl
theorem canBusError (c : Fin 4) (e : CanError) (sof : Word) : Statement (.canBusError c e sof) := of_other rfl rfl
theorem canRecoverWaitExpire (c : Fin 4) : Statement (.canRecoverWaitExpire c) := of_other rfl rfl
theorem canBusOffRecovery (c : Fin 4) : Statement (.canBusOffRecovery c) := of_other rfl rfl
theorem canIntegrate (c : Fin 4) : Statement (.canIntegrate c) := of_other rfl rfl
theorem canTxPeriod (c : Fin 4) (chan : BitVec 12) : Statement (.canTxPeriod c chan) := of_other rfl rfl
theorem canBuffer2Load (c : Fin 4) : Statement (.canBuffer2Load c) := of_other rfl rfl
theorem ethFrameReceive (p : Fin 2) (frame : Bytes) (fcsGood : Bool) (sfd : Nat) :
    Statement (.ethFrameReceive p frame fcsGood sfd) := of_other rfl rfl
theorem ethLaunch (p : Fin 2) (queue : Fin 8) : Statement (.ethLaunch p queue) := of_other rfl rfl
theorem ethFrameSent (p : Fin 2) (queue : Fin 8) (sfd : Nat) : Statement (.ethFrameSent p queue sfd) := of_other rfl rfl
theorem ethSendTimeout (p : Fin 2) (queue : Fin 8) : Statement (.ethSendTimeout p queue) := of_other rfl rfl
theorem ethLink (p : Fin 2) (up : Bool) (speed : BitVec 2) : Statement (.ethLink p up speed) := of_other rfl rfl
theorem ethTxPeriod (p : Fin 2) (chan : BitVec 12) : Statement (.ethTxPeriod p chan) := of_other rfl rfl
theorem ptpMessageTimer (p : Fin 2) (message : BitVec 4) : Statement (.ptpMessageTimer p message) := of_other rfl rfl
theorem trainingStepDone (lanes : BitVec 2) (partner : Option Identity) :
    Statement (.trainingStepDone lanes partner) := of_other rfl rfl
theorem linkLane (lane : Fin 2) : Statement (.linkLane lane) := of_other rfl rfl
theorem heartbeatReceive (h : Heartbeat) : Statement (.heartbeatReceive h) := of_other rfl rfl
theorem baleApply (b : Bale) : Statement (.baleApply b) := of_other rfl rfl
theorem retainPageWrite (storeMv : Nat) : Statement (.retainPageWrite storeMv) := of_other rfl rfl
theorem recorderWrite (storeMv : Nat) : Statement (.recorderWrite storeMv) := of_other rfl rfl
theorem supplyUndervoltage (storeMv : Nat) : Statement (.supplyUndervoltage storeMv) := of_other rfl rfl
theorem supplyReturn (durationUs storeMv : Nat) : Statement (.supplyReturn durationUs storeMv) := of_other rfl rfl
theorem rideMsExpire (storeMv : Nat) : Statement (.rideMsExpire storeMv) := of_other rfl rfl
theorem storeAtVSave (storeMv : Nat) : Statement (.storeAtVSave storeMv) := of_other rfl rfl
theorem prsntLateOpen (storeMv : Nat) : Statement (.prsntLateOpen storeMv) := of_other rfl rfl
theorem holdupMeasure (capacitance storeMv : Nat) : Statement (.holdupMeasure capacitance storeMv) := of_other rfl rfl
theorem holdupCharged (storeMv : Nat) : Statement (.holdupCharged storeMv) := of_other rfl rfl
theorem coreSupplyFault (above : Bool) (groupsDone : Nat) (mixed : DWord) :
    Statement (.coreSupplyFault above groupsDone mixed) := of_other rfl rfl
theorem powerGood (p : PowerGoodPins) : Statement (.powerGood p) := of_other rfl rfl
theorem startupPhase1End (activeSlotGood : Bool) : Statement (.startupPhase1End activeSlotGood) := of_other rfl rfl
theorem startupPhase2End (r : SelfTest) : Statement (.startupPhase2End r) := of_other rfl rfl
theorem startupPhase3End (storeMv : Nat) : Statement (.startupPhase3End storeMv) := of_other rfl rfl
theorem startupPhase6End (partnerT0 : Int) : Statement (.startupPhase6End partnerT0) := of_other rfl rfl
theorem startupPhase7End (nextCycleUs : Nat) : Statement (.startupPhase7End nextCycleUs) := of_other rfl rfl
theorem startupPhase8End (startupMs : Nat) : Statement (.startupPhase8End startupMs) := of_other rfl rfl
theorem pllLossOfLock (fabric : Bool) : Statement (.pllLossOfLock fabric) := of_other rfl rfl
theorem barnClockFail (b : Fin 4) (solverPll : Bool) : Statement (.barnClockFail b solverPll) := of_other rfl rfl
theorem clockMonitorPeriod (watchCycles : Nat) : Statement (.clockMonitorPeriod watchCycles) := of_other rfl rfl
theorem clockEdgeGap (watch : Bool) : Statement (.clockEdgeGap watch) := of_other rfl rfl
theorem offer (m : TransferMsg) : Statement (.offer m) := of_other rfl rfl
theorem data (m : TransferMsg) : Statement (.data m) := of_other rfl rfl
theorem done (m : TransferMsg) : Statement (.done m) := of_other rfl rfl
theorem activationPauseEnd (reads : List (Half × Byte)) : Statement (.activationPauseEnd reads) := of_other rfl rfl
theorem pcieCompletionTimeout (kind : FetchKind) (ring : Fin 8) (tag : Half) (addr : DWord) :
    Statement (.pcieCompletionTimeout kind ring tag addr) := of_other rfl rfl
theorem currentLimitLeft (n : Fin 64) : Statement (.currentLimitLeft n) := of_other rfl rfl
theorem groupOvercurrentLeft (g : Fin 8) : Statement (.groupOvercurrentLeft g) := of_other rfl rfl
theorem doThermalCooled (n : Fin 64) : Statement (.doThermalCooled n) := of_other rfl rfl
theorem hartNoEnergy (n : Fin 32) : Statement (.hartNoEnergy n) := of_other rfl rfl
theorem starContinuousCut (port : Fin 8) : Statement (.starContinuousCut port) := of_other rfl rfl
theorem starCutExpire (port : Fin 8) : Statement (.starCutExpire port) := of_other rfl rfl
theorem offerRepeat (ring : Fin 8) : Statement (.offerRepeat ring) := of_other rfl rfl
theorem accept (m : TransferMsg) : Statement (.accept m) := of_other rfl rfl
theorem refuse (m : TransferMsg) : Statement (.refuse m) := of_other rfl rfl
theorem nack (m : TransferMsg) : Statement (.nack m) := of_other rfl rfl
theorem verified (m : TransferMsg) : Statement (.verified m) := of_other rfl rfl
theorem fwTransferIdleTimeout (ring : Fin 8) : Statement (.fwTransferIdleTimeout ring) := of_other rfl rfl
theorem fwOfferWaitTimeout (ring : Fin 8) : Statement (.fwOfferWaitTimeout ring) := of_other rfl rfl
theorem bulkCopyReceive (lines : List BulkLine) : Statement (.bulkCopyReceive lines) := of_other rfl rfl
theorem ext (b : Fin 4) : Statement (.ext b) := of_other rfl rfl
theorem doorbellPoll : Statement (.doorbellPoll) := of_other rfl rfl
theorem echoLineWrite : Statement (.echoLineWrite) := of_other rfl rfl
theorem pcieLinkDown : Statement (.pcieLinkDown) := of_other rfl rfl
theorem hotReset : Statement (.hotReset) := of_other rfl rfl
theorem functionLevelReset : Statement (.functionLevelReset) := of_other rfl rfl
theorem surpriseRemoval : Statement (.surpriseRemoval) := of_other rfl rfl
theorem perstNAssert : Statement (.perstNAssert) := of_other rfl rfl
theorem perstNRelease : Statement (.perstNRelease) := of_other rfl rfl
theorem foldRepost : Statement (.foldRepost) := of_other rfl rfl
theorem baseTick : Statement (.baseTick) := of_other rfl rfl
theorem commit : Statement (.commit) := of_other rfl rfl
theorem escalationHandoverTimeout : Statement (.escalationHandoverTimeout) := of_other rfl rfl
theorem directOutputApply : Statement (.directOutputApply) := of_other rfl rfl
theorem baleSend : Statement (.baleSend) := of_other rfl rfl
theorem editCommitApply : Statement (.editCommitApply) := of_other rfl rfl
theorem editCommitTimeout : Statement (.editCommitTimeout) := of_other rfl rfl
theorem profileVoteComplete : Statement (.profileVoteComplete) := of_other rfl rfl
theorem profileVoteFailed : Statement (.profileVoteFailed) := of_other rfl rfl
theorem profileSwitch : Statement (.profileSwitch) := of_other rfl rfl
theorem clockSyncCorrection : Statement (.clockSyncCorrection) := of_other rfl rfl
theorem telithTrainingStart : Statement (.telithTrainingStart) := of_other rfl rfl
theorem trainingStepTimeout : Statement (.trainingStepTimeout) := of_other rfl rfl
theorem soloTimeout : Statement (.soloTimeout) := of_other rfl rfl
theorem roleDecision : Statement (.roleDecision) := of_other rfl rfl
theorem telithLinkLost : Statement (.telithLinkLost) := of_other rfl rfl
theorem heartbeatSend : Statement (.heartbeatSend) := of_other rfl rfl
theorem claimTaken : Statement (.claimTaken) := of_other rfl rfl
theorem takeover : Statement (.takeover) := of_other rfl rfl
theorem handoverRequestReceive : Statement (.handoverRequestReceive) := of_other rfl rfl
theorem handoverTimeout : Statement (.handoverTimeout) := of_other rfl rfl
theorem bulkDone : Statement (.bulkDone) := of_other rfl rfl
theorem retainedSavePeriodic : Statement (.retainedSavePeriodic) := of_other rfl rfl
theorem powerDownSaveDone : Statement (.powerDownSaveDone) := of_other rfl rfl
theorem holdupChargeTimeout : Statement (.holdupChargeTimeout) := of_other rfl rfl
theorem coreRailRecovered : Statement (.coreRailRecovered) := of_other rfl rfl
theorem prsntEarlyClose : Statement (.prsntEarlyClose) := of_other rfl rfl
theorem mainSupplySwitch : Statement (.mainSupplySwitch) := of_other rfl rfl
theorem startupPhase4End : Statement (.startupPhase4End) := of_other rfl rfl
theorem startupPhase5End : Statement (.startupPhase5End) := of_other rfl rfl
theorem watchdogTick : Statement (.watchdogTick) := of_other rfl rfl
theorem wdtWindowEnd : Statement (.wdtWindowEnd) := of_other rfl rfl
theorem wdtPauseExpire : Statement (.wdtPauseExpire) := of_other rfl rfl
theorem wdtTripPulseEnd : Statement (.wdtTripPulseEnd) := of_other rfl rfl
theorem expiryRecordTimeout : Statement (.expiryRecordTimeout) := of_other rfl rfl
theorem fwVerifyDone : Statement (.fwVerifyDone) := of_other rfl rfl
theorem activationPauseBegin : Statement (.activationPauseBegin) := of_other rfl rfl
theorem activationFailure : Statement (.activationFailure) := of_other rfl rfl

end Sys2Proof.Laws.rows
end

