-- ==== Sys2Proof/WellFormed.lean ====
section
/-! DEFINITION. Which commands are well formed: the data that come with a command have the sizes and ranges that the
spec gives them on their way into the block. The meanings are total and do not rest on this check. -/

namespace Sys2Proof

/-- A buffer holds at most BUF_LEN bytes (R362, Table 11 of Host Interface). -/
def bufFits (d : Desc) (b : Bytes) : Bool := decide (b.length ≤ d.bufLen.toNat)

/-- A channel table entry or a doorbell line has 64 bytes (R353, R382). -/
def line64 (b : Bytes) : Bool := b.length = 64

/-- A CAN frame: an 11-bit identifier without IDE, BRS only with FDF, no remote FD frame, at most 8 or 64 data bytes
(Table 3 of CAN Controllers). -/
def CanFrame.wf (f : CanFrame) : Bool :=
  (f.ide || decide (f.identifier.toNat < 2 ^ 11)) && (f.fdf || !f.brs) && !(f.fdf && f.rtr) &&
  decide (f.data.length ≤ if f.fdf then 64 else 8)

/-- A bale line carries the 64 bytes of its line (R577). -/
def BaleLine.wf (l : BaleLine) : Bool := line64 l.data && l.address.toNat % 64 = 0

/-- The lines of a bale rise by address (R577). -/
def risingLines : List BaleLine → Bool
  | a :: b :: l => decide (a.address.toNat < b.address.toNat) && risingLines (b :: l)
  | _ => true

/-- A bale (R577). -/
def Bale.wf (b : Bale) : Bool := b.lines.all BaleLine.wf && risingLines b.lines

/-- A transfer message of a firmware transfer carries a TRANSFER_ID (R662). -/
def TransferMsg.wf (m : TransferMsg) : Bool := m.transferId != 0

/-- A DATA message carries COUNT bytes (R662). -/
def dataWf (m : TransferMsg) : Bool := m.wf && m.body.length = m.count.toNat

/-- An OFFER carries image bytes 0 to 23 (R662). -/
def offerWf (m : TransferMsg) : Bool := m.wf && m.body.length = 24

/-- The frame on an Ethernet port, FCS excluded, has at least a header and at most the 1,568 bytes of a mirror record (Table 4 of Ethernet and Time). -/
def frameWf (b : Bytes) : Bool := decide (14 ≤ b.length) && decide (b.length ≤ 1568)

/-- The commands that are well formed. -/
def Instr.wf : Instr → Bool
  | .settingsWrite d _ _ buf => bufFits d buf
  | .wardenWrite d _ _ buf => bufFits d buf
  | .retainWrite d _ _ buf => bufFits d buf
  | .sealLock d _ buf => bufFits d buf
  | .profileLoad d buf => bufFits d buf
  | .ihlozScheduleLoad d _ buf => bufFits d buf
  | .hartTransact d _ _ buf => bufFits d buf
  | .canSend d _ _ _ buf => bufFits d buf
  | .ethSend d _ _ _ _ _ buf => bufFits d buf
  | .fwReceive d _ _ _ image => bufFits d image
  | .chanSync _ _ _ reads => reads.all (fun r => (r.2.map line64).getD true)
  | .cacheLoad _ r => (r.map line64).getD true
  | .doorbellFetchDone line => line64 line
  | .canFrameReceive _ f _ => f.frame.wf
  | .baleApply b => b.wf
  | .bulkCopyReceive l => l.all (fun x => x.line.wf)
  | .offer m => offerWf m
  | .data m => dataWf m
  | .accept m => m.wf
  | .refuse m => m.wf
  | .nack m => m.wf
  | .done m => m.wf
  | .verified m => m.wf
  | .ethFrameReceive _ frame _ _ => frameWf frame
  | .coreSupplyFault _ groups _ => decide (groups < 8)
  | _ => true

end Sys2Proof
end

