-- ==== Sys2Proof/Tests/Slice0.lean ====
section
/-! SUPPORT. Tests: well-formedness refuses what is ill formed, single commands on small states (expected values from the
worked examples of the spec or by hand), and a witness of the hypotheses of every statement. -/

open Sys2Proof Sys2Proof.Machine

namespace Sys2Proof.Tests

set_option Elab.async false

/-! ### Small states -/

/-- A descriptor of ring `k` with a buffer of `n` bytes. -/
def dsc (k : Fin 8) (n : Nat) : Desc := ⟨k, 7, 0x10000, BitVec.ofNat 32 n, false⟩

/-- A load record: task `t` with a trigger. -/
def trec (t : BitVec 7) (trig : Byte) (sel : Word) (paired : Bool) : TaskRec :=
  { attr := { taskId := t, priority := 5, paired := paired, tickAligned := false, enabled := true, overrun := 0
              period := if isEvent t then 0 else 4, offset := 0, deadline := 0, triggerType := trig, triggerCond := 0
              triggerSel := sel, minRetrigger := if isEvent t then 100 else 0, alarmPhase := if isEvent t then 30 else 0 }
    entry := 0, inSize := 64, outSize := 64, inMap := [], outMap := [], sel := [], privSize := 8192, rungSize := 8192
    privInit := 0xFFFFFFFF, outInit := 0xFFFFFFFF }

/-- A ring in use with a command waiting. -/
def ring1 : Ring := { Ring.zero with size := 16, en := true, enNow := true, cmdProd := 1 }

/-- A module in RUN at base tick 5, its host connected, four barns awake, a project of four tasks loaded. -/
def run : State :=
  let r := State.reset
  { r with
    time := { r.time with running := true, task := 1250 * usUnit, t0Fixed := true, ticked := true, tickNo := 5, lcRunning := true }
    mode := { r.mode with mode := mRun, phase := 0 }
    power := { r.power with store := 2, storeMv := 40000 }
    host := { r.host with linkUp := true, gen := 4, width := 4, enable := true, polling := true, exportSize := 4096, evtSize := 16
                          rings := Vector.replicate 8 ring1 }
    proj := { r.proj with loaded := true, loadId := 9, cur := { Layout.empty with
      tasks := [trec 0 0 0 false, trec 1 0 0 true, trec 64 4 0 false, trec 65 5 1000 false] } }
    barns := Vector.replicate 4 { Barn.zero with power := 2, wake := 4, solverOn := true }
    stalls := r.stalls.map (fun x => { x with ungated := true })
    field := { r.field with sampling := true, cut := false } }

/-- The same module with a command waiting in ring `k` alone. -/
def alone (k : Fin 8) : State := { run with host := { run.host with rings := (Vector.replicate 8 { ring1 with cmdProd := 0 }).set k ring1 } }

/-- The same module in STOP. -/
def stop : State := { run with mode := { run.mode with mode := mStop } }

/-- A module at the end of start-up phase `n`. -/
def phase (n : Nat) : State := { State.reset with mode := { State.reset.mode with phase := n } }

/-- The settings block `id` with fields (offset, bytes, value) changed. -/
def withBlock (id : Nat) (fs : List (Nat × Nat × Nat)) (s : State) : State :=
  let b := fs.foldl (fun b f => patch b f.1 (leBytes f.2.1 f.2.2)) (block s id)
  { s with ret := { s.ret with blocks := Tab.set s.ret.blocks id b } }

/-- A channel entry pinned in the cache. -/
def pin (c : Nat) (fs : List (Nat × Nat × Nat)) (s : State) : State :=
  { s with chan := { s.chan with pinned := Tab.set s.chan.pinned c (some (mkBlock 64 fs)) } }

/-- The first stall of barn 0. -/
def st0 : StallId := ⟨0, 0⟩

/-- An instance of a task that has just been released. -/
def inst (r : TaskRec) : Inst :=
  { newInst run r.attr.taskId r (newRelease run r 5 false) 0 with inImg := [], phase := .running }

/-- The instance resident and running in slot 0 of a stall. -/
def withInst (u : StallId) (i : Inst) (c : Ctx) (s : State) : State :=
  modStall u (fun x => { x with slots := x.slots.set 0 (some i), running := some 0, ctx := c }) s

/-- The bundle with two moves (destination, source) at bundle address 0. -/
def withBundle (a b : Nat × Nat) (s : State) : State :=
  { s with proj := { s.proj with bank0 := { s.proj.bank0 with
      stall := [(0, BitVec.ofNat 14 (128 * a.1 + a.2)), (1, BitVec.ofNat 14 (128 * b.1 + b.2))] } } }

/-- An instance of task 0 before a bundle that moves GP 1 to `d` and GP 2 to GP 3. -/
def before (d : Nat) : State :=
  withBundle (d, 1) (3, 2) (withInst st0 (inst (trec 0 0 0 false))
    { Ctx.zero with gp := (Ctx.zero.gp.set 1 0x80000005).set 2 7, aluOpb := 3, macOpb := 9, chkPoly := 0x04C11DB7, chkCfg := 0x1F08 } run)

/-- A solver call of task 0 whose next word is `w`, with a stack. -/
def call (stack : List Bool) : Call :=
  { tag := ⟨0, 0⟩, stall := st0, slot := 0, entry := 0, pc := 0, stack := stack, region := 0, window := 0, area := 0, cycles := 0, fetched := []
    at_ := 0, group := 0 }

/-- Barn 0 before the rung words `ws`. -/
def rung (ws : List Nat) (stack : List Bool) : State :=
  let s := modBarn 0 (fun x => { x with run := some (call stack) })
    (withInst st0 { inst (trec 0 0 0 false) with solving := true } Ctx.zero run)
  { s with proj := { s.proj with bank0 := { s.proj.bank0 with solver := ws.mapIdx (fun k w => (k, BitVec.ofNat 12 w)) } } }

/-- Both copies of task 1, copy A in stall 0 of barn 0 and copy B in that of barn 1. -/
def pair (a b : Phase) : State :=
  modTask 1 (fun k => { k with inst := some (newRelease run (trec 1 0 0 true) 5 false), placeA := some st0, placeB := some ⟨1, 0⟩ })
    (withInst st0 { inst (trec 1 0 0 true) with phase := a } Ctx.zero
      (withInst ⟨1, 0⟩ { inst (trec 1 0 0 true) with copyB := true, phase := b } Ctx.zero run))

/-- A vote that is open, nobody having voted. -/
def vote1 : Vote :=
  { target := 1, mode := 0, requester := 0, ring := none, voted := 0, opposed := none, openCycle := some 0
    lastCycle := 0, agreed := none, fromCycle := 0, agreedFrom := 0, stopped := false }

/-- A schedule of 1 ms with a slot of node 0 and a slot of node 1. -/
def sched1 : Sched :=
  { cycleUs := 1000, guard_ := 25, tag := 0x77
    slots := [⟨100, 0, true, 2000, 0, false⟩, ⟨3000, 4, true, 2000, 1, false⟩] }

/-- Node 0 of the network on both channels, in a state, at cycle 3. -/
def node (st : BitVec 3) : State :=
  { withBlock 0x0401 [(0, 1, 0x0F)] run with
    ihloz := { run.ihloz with state := st, scheds := [(0, sched1)], cycle := 3, confirmed := true, since := 2 } }

/-- The frame of node 1 in slot 1 of cycle 3 on channel B. -/
def frame1 : IhlozFrame :=
  let h : IhlozHeader := { ownHeader (node 5) sched1 1 0 4 true with sender := 1, channelB := true }
  { header := h, payload := zeros 4, crc := crc32 (headerBytes h ++ zeros 4) }

/-- The star unit in use. -/
def star (sync : Bool) : State :=
  { withBlock 0x0402 [(0, 1, 1), (8, 4, 1)] (node 5) with star := { run.star with sync := sync, forwards := true } }

/-- CAN controller 0 integrated on its bus. -/
def canRun : State := modCan 0 (fun k => { k with integrated := true }) (withBlock 0x0410 [(8, 1, 1)] run)

/-- A CAN frame of one byte. -/
def can1 : CanFrame :=
  { identifier := 5, ide := false, rtr := false, fdf := false, brs := false, esi := false, dlc := 1, data := [7#8] }

/-- Ethernet port 0 with a link. -/
def ethRun : State := modEth 0 (fun x => { x with link := true }) (withBlock 0x0420 [(8, 1, 1)] run)

/-- A frame queued at port 0 by the module itself. -/
def eth1 : EthFrame :=
  { bytes := zeros 60, launch := none, insert_ := 0, udpFix := false, ptpOffset := 0, fixOffset := 0, ingress := 0
    ring := none, since := 0, chanKey := none }

/-- A trained pair, this unit in TRACK. -/
def track : State :=
  { run with mode := { run.mode with mode := mTrack }, pair := { run.pair with trained := true, role := 2, lanes := 3, rate := 3 } }

/-- A partner in TRACK. -/
def beat1 : Heartbeat :=
  { lane := 0, claim := 1, highest := 1, role := 2, mode := mTrack, taskTime := 1250, tick := 5, lastBale := 0, relinquish := false }

/-- The identity of a partner in STOP. -/
def ident1 : Identity :=
  { serial := 1, unitId := 1, mode := mStop, role := 3, baleFormat := 1, claim := 1, highest := 1, loadId := 0, editId := 0
    editState := 0, taskTime := 2500, tick := 10 }

/-- A firmware transfer with port 0 of Ethernet. -/
def xfer (sending : Bool) (step : BitVec 2) : Transfer :=
  { sending := sending, fromHost := false, ethernet := true, origin := 0, transferId := 4, step := step, length := 256
    todo := [], sent := [], cfg := zeros 8, slot := true }

/-- The module with that transfer on ring 0. -/
def moving (x : Transfer) : State := { run with fw := { run.fw with xfers := [(0, x)] } }

/-- A transfer message of the peer. -/
def msg (n : Nat) : TransferMsg :=
  { ethernet := true, origin := 0, transferId := 4, arg := BitVec.ofNat 32 n, count := 256, body := [] }

/-- An instance whose first record is a TON timer of 100 that stands still. -/
def tmrInst : Inst :=
  { inst (trec 0 0 0 false) with solving := true, wb := [(privKey 0 privBase, 2), (privKey 0 privBase + 4, 100)] }

/-- Barn 0 before a TMR word of that instance. -/
def tmrRung (stack : List Bool) : State :=
  withInst st0 tmrInst Ctx.zero (rung [0xE00] stack)

/-- An instance whose write buffer is full, its record committed. -/
def fullInst : Inst := { tmrInst with wb := (List.range 512).map (fun k => (64 * k, 1)) }

/-- Barn 0 before a TMR word of that instance. -/
def tmrFull : State :=
  let s := withInst st0 fullInst Ctx.zero (rung [0xE00] [true])
  { s with commit := { s.commit with newest := tmrInst.wb } }

/-- Output 63 driven. -/
def drivenRun : State := modDo 63 (fun x => { x with applied := true }) run

/-- An attempt of HART at channel 31, a passive output, sent or not. -/
def hart (sent : Bool) : State :=
  { pin 159 [(16, 1, 3)] run with
    loops := run.loops.set 31 { LoopCh.zero with hart := some ⟨0, [2#8, 0#8, 0#8, 0#8], 5, 0, 1, sent⟩ } }

/-- A word whose line takes no further cycle fits a call that has just begun. -/
theorem line_fits (k : Nat) (s : State) (b : Fin 4) (c : Call) (key : Option Nat) (hk : k ≤ 4) (h : c.cycles = 0) :
    c.cycles + (k + (lineCost s b c key (BitVec.ofNat 12 0)).1) ≤ callLimit := by
  have h0 : (lineCost s b c key (BitVec.ofNat 12 0)).1 = 0 := by
    unfold lineCost; split
    · split <;> rfl
    · rfl
  rw [h0, h]; unfold callLimit; omega

/-- A word at a bit fits a call that has just begun. -/
theorem bit_fits (s : State) (b : Fin 4) (c : Call) (i : Inst) (n : Nat) (h : c.cycles = 0) :
    c.cycles + (1 + (bitCost s b c i n (BitVec.ofNat 12 0)).1) ≤ callLimit := line_fits 1 s b c _ (by decide) h

/-- An answer that is there is the answer read with a default. -/
theorem some_getD {α : Type} {x : Option α} {d : α} (h : x.isSome = true) : x = some (x.getD d) := by
  cases x with
  | none => cases h
  | some v => rfl

/-- The module with a transfer message of the peer received. -/
def heard (kind : Nat) (m : TransferMsg) (s : State) : State :=
  { s with fw := { s.fw with inbox :=
    [⟨m.ethernet, m.origin, messageBytes kind m.transferId.toNat m.arg.toNat m.count.toNat m.body⟩] } }

/-! ### Well-formedness refuses what is ill formed -/

theorem test_wf_buffer_longer_than_its_length :
    (Instr.settingsWrite (dsc 0 4) 0x0603 1 (zeros 4)).wf = true ∧ (Instr.settingsWrite (dsc 0 4) 0x0603 1 (zeros 5)).wf = false ∧
    (Instr.wardenWrite (dsc 0 4) 0 1 (zeros 5)).wf = false ∧ (Instr.retainWrite (dsc 0 4) 0 1 (zeros 5)).wf = false ∧
    (Instr.sealLock (dsc 0 4) 0 (zeros 5)).wf = false ∧ (Instr.fwReceive (dsc 0 4) 0 0 5 (zeros 5)).wf = false ∧
    (Instr.profileLoad (dsc 0 4) (zeros 5)).wf = false ∧ (Instr.ihlozScheduleLoad (dsc 0 4) 0 (zeros 5)).wf = false ∧
    (Instr.hartTransact (dsc 0 4) 128 0 (zeros 5)).wf = false ∧ (Instr.ethSend (dsc 0 4) 0 0 false false 0 (zeros 5)).wf = false := by
  decide +kernel

theorem test_wf_lines_of_other_lengths :
    (Instr.chanSync (dsc 0 64) 0 1 [(0, some (zeros 64)), (1, none)]).wf = true ∧
    (Instr.chanSync (dsc 0 64) 0 1 [(0, some (zeros 63))]).wf = false ∧ (Instr.cacheLoad 0 (some (zeros 65))).wf = false ∧
    (Instr.doorbellFetchDone (zeros 63)).wf = false := by decide +kernel

theorem test_wf_can_frames :
    (Instr.canFrameReceive 0 ⟨can1, can1, can1⟩ 0).wf = true ∧ (Instr.canFrameReceive 0 ⟨can1, can1, { can1 with identifier := 0x800 }⟩ 0).wf = false ∧
    (Instr.canFrameReceive 0 ⟨can1, can1, { can1 with brs := true }⟩ 0).wf = false ∧
    (Instr.canFrameReceive 0 ⟨can1, can1, { can1 with fdf := true, rtr := true }⟩ 0).wf = false ∧
    (Instr.canFrameReceive 0 ⟨can1, can1, { can1 with data := zeros 9 }⟩ 0).wf = false ∧
    (Instr.canFrameReceive 0 ⟨can1, can1, { can1 with fdf := true, data := zeros 65 }⟩ 0).wf = false := by decide +kernel

theorem test_wf_bales :
    let line (a : Word) (n : Nat) : BaleLine := { address := a, mask := 0, data := zeros n }
    let bale (l : List BaleLine) : Bale := 
      { type := 0, task := 0, claim := 1, commit := 1, tCommit := 0, mode := mRun, lines := l, crc := 0 }
    (Instr.baleApply (bale [line 0 64, line 64 64])).wf = true ∧ (Instr.baleApply (bale [line 64 64, line 0 64])).wf = false ∧
    (Instr.baleApply (bale [line 0 63])).wf = false ∧ (Instr.baleApply (bale [line 32 64])).wf = false := by decide +kernel

theorem test_wf_transfer_messages :
    (Instr.data { msg 0 with count := 2, body := zeros 2 }).wf = true ∧
    (Instr.data { msg 0 with count := 3, body := zeros 2 }).wf = false ∧ (Instr.offer { msg 0 with body := zeros 23 }).wf = false ∧
    (Instr.accept { msg 0 with transferId := 0 }).wf = false ∧ (Instr.refuse { msg 0 with transferId := 0 }).wf = false ∧
    (Instr.nack { msg 0 with transferId := 0 }).wf = false ∧ (Instr.done { msg 0 with transferId := 0 }).wf = false ∧
    (Instr.verified { msg 0 with transferId := 0 }).wf = false := by decide +kernel

theorem test_wf_frames_and_groups :
    (Instr.ethFrameReceive 0 (zeros 14) true 0).wf = true ∧ (Instr.ethFrameReceive 0 (zeros 13) true 0).wf = false ∧
    (Instr.ethFrameReceive 0 (zeros 1569) true 0).wf = false ∧ (Instr.coreSupplyFault true 7 0).wf = true ∧
    (Instr.coreSupplyFault true 8 0).wf = false := by decide +kernel

/-! ### Single commands -/

/-- The state that a command answers. -/
def after (r : Host.Outcome State Fault Refusal) : State :=
  match r with
  | .next t => t
  | _ => State.reset

/-- The stall of `before` with the two words of a bundle at its program counter, and sockets set. -/
def fragment (a b : Nat) (g : Ctx → Ctx) : State :=
  let s := withInst st0 (inst (trec 0 0 0 false)) (g Ctx.zero) run
  { s with proj := { s.proj with bank0 := { s.proj.bank0 with stall := [(0, BitVec.ofNat 14 a), (1, BitVec.ofNat 14 b)] } } }

/-- Bundles 0x0120 and 0x0121 of the worked example of Morfold Encoding. -/
theorem test_imm_hi_twice :
    (stall (after (exec (.immHi st0) (fragment 0x3F40 0x0A5C id))) st0).ctx.imm = 0xA5C ∧
    (stall (after (exec (.immHi st0) (fragment 0x3F0C 0x0F1E (fun c => { c with imm := 0xA5C })))) st0).ctx.imm = 0xA5C30F1E := by
  decide +kernel

/-- Bundle 0x0123 of the worked example: the operand is written in the bundle of its trigger. -/
theorem test_xor_with_operand_of_the_same_bundle :
    let c := (stall (after (exec (.aluXor st0) (fragment 0x1005 0x13A7
      (fun c => { c with gp := c.gp.set 5 0xA5C30F1E, ldRes := 0xA5C30F1E })))) st0).ctx
    c.aluRes = 0 ∧ c.aluOpb = 0xA5C30F1E ∧ c.aluFlags = 4 := by decide +kernel

/-- Bundle 0x0124 of the worked example: the branch is taken because the moved value is zero. -/
theorem test_jz_is_taken :
    (stall (after (exec (.brJz st0) (fragment 0x0320 0x3620 (fun c => { c with brTarget := 0x0130 })))) st0).ctx.pc = 0x0130 ∧
    (stall (after (exec (.brJz st0) (fragment 0x0320 0x3620 (fun c => { c with brTarget := 0x0130, aluRes := 1 })))) st0).ctx.pc = 1 := by
  decide +kernel

theorem test_add_wraps_with_carry :
    let c := (stall (after (exec (.aluAdd st0) (fragment (128 * 0x21 + 1) 0x182
      (fun c => { c with gp := c.gp.set 1 0xFFFFFFFF, aluOpb := 1 })))) st0).ctx
    c.aluRes = 0 ∧ c.aluFlags = 6 := by decide +kernel

theorem test_sub_overflows :
    let c := (stall (after (exec (.aluSub st0) (fragment (128 * 0x23 + 1) 0x182
      (fun c => { c with gp := c.gp.set 1 0x80000000, aluOpb := 1 })))) st0).ctx
    c.aluRes = 0x7FFFFFFF ∧ c.aluFlags = 3 := by decide +kernel

theorem test_mac_msu_wraps_below_zero :
    (stall (after (exec (.macMsu st0) (fragment (128 * 0x33 + 1) 0x182
      (fun c => { c with gp := c.gp.set 1 2, macOpb := 3 })))) st0).ctx.acc = 0xFFFFFFFFFFFFFFFFFA := by decide +kernel

/-- The check value of the Ethernet CRC, which R593 and R471 use. -/
theorem test_crc32_of_nine_digits : crc32 (([1, 2, 3, 4, 5, 6, 7, 8, 9] : List Nat).map (fun n => BitVec.ofNat 8 (0x30 + n))) = 0xCBF43926 := by
  decide +kernel

/-- RISE and ST of the worked example of Rung Solver, with their words. -/
theorem test_rise_sees_its_edge :
    let s := after (exec (.rise 0 0) (rung [0xB08] [true]))
    ((barn s 0).run.map (fun c => (c.stack, c.pc.toNat, c.cycles))) = some ([true], 1, 1) ∧
    ((slotOf s st0 0).map (fun i => i.wb.map (fun x => x.2))) = some [1] := by decide +kernel

theorem test_andn_and_swap :
    ((barn (after (exec (.rungAndn 0 0) (rung [0x30A] [true]))) 0).run.map (fun c => c.stack)) = some [true] ∧
    ((barn (after (exec (.swap 0) (rung [0xF12] [true, false]))) 0).run.map (fun c => c.stack)) = some [false, true] := by
  decide +kernel

/-- The TON of Table 12 of Rung Solver. -/
theorem test_ton_of_half_a_second :
    let x0 : Timer := evalTimer 2 1000 true ⟨false, false, false, 500000, 0, 0⟩
    let x49 := evalTimer 2 491000 true x0
    let x50 := evalTimer 2 501000 true x49
    (x0.q, x0.on, x0.start, x0.et) = (false, true, 1000, 0) ∧ (x49.q, x49.et) = (false, 490000) ∧
    (x50.q, x50.on, x50.et) = (true, false, 500000) := by decide +kernel

/-- Ring 3 of the worked example of Host Interface wraps from slot 15 to slot 0. -/
theorem test_ring_wraps :
    let s := modRing 3 (fun r => { r with cmdCons := 15, cplProd := 15, cmdProd := 1, cplCons := 11 }) (alone 3)
    ((ring (after (exec (.nop ⟨dsc 3 0, 0⟩) s)) 3).cmdCons, (ring (after (exec (.nop ⟨dsc 3 0, 0⟩) s)) 3).cplProd) = (0, 0) := by
  decide +kernel

/-- E_REQ of 2,161 pages is 52.4 mJ, which a store of 37.1 V holds above 12 V and one of 13 V does not. -/
theorem test_energy_of_a_save : energyOk 37100 2161 = true ∧ energyOk 13000 2161 = false := by decide +kernel

theorem test_nop_leaves_ring_free : (ring (after (exec (.nop ⟨dsc 0 0, 0⟩) run)) 0).busy = none := by decide +kernel

theorem test_mode_set_stops_and_runs :
    (after (exec (.modeSet (dsc 0 0) 0 0 0) run)).mode.mode = mStop ∧
    (ring (after (exec (.modeSet (dsc 0 0) 1 0 0) stop)) 0).busy.isSome = true := by
  decide +kernel

theorem test_task_disable : (task (after (exec (.taskControlDisable (dsc 0 64) 1) run)) 1).enabled = false := by decide +kernel

theorem test_base_tick_counts : (after (exec .baseTick run)).time.tickNo = 6 := by decide +kernel

theorem test_pcie_link_up : (after (exec (.pcieLinkUp ⟨3, true, false⟩ 2) { run with host := { run.host with linkUp := false } })).host.linkUp = true := by
  decide +kernel

theorem test_supply_undervoltage_begins_an_interruption :
    (after (exec (.supplyUndervoltage 40000) run)).power.interrupted = true := by decide +kernel

theorem test_handover_needs_a_partner :
    Mem.find (after (exec (.redundancyControlHandover (dsc 0 64)) run)).hostMem 2 ≠ some 0 := by decide +kernel

/-- BR.CALL in the last bundle: BR.LINK holds the address plus one (R204). -/
theorem test_br_call_links_past_the_top :
    let s0 := fragment 0 0 (fun c => { c with pc := 0x7FFF })
    let s := { s0 with proj := { s0.proj with bank0 := { s0.proj.bank0 with
      stall := [(0xFFFE, BitVec.ofNat 14 (128 * 0x69 + 1)), (0xFFFF, 0x182)] } } }
    (stall (after (exec (.brCall st0) s)) st0).ctx.brLink = 0x8000 := by decide +kernel

/-- With TRIPLE a bit of the nominal phase is the majority of its three samples (R509). -/
theorem test_majority_of_three_samples :
    let a := { can1 with identifier := 0b110 }
    let b := { can1 with identifier := 0b011 }
    let c := { can1 with identifier := 0b101 }
    (sampledFrame true a b c).identifier = 0b111 ∧ (sampledFrame false a b c).identifier = 0b101 := by decide +kernel

/-- The word at 0x20 of Table 2 of Host Interface reads back what was written, and an address between the registers reads 0. -/
theorem test_bar0_reads_its_registers :
    readBar0 (after (exec (.hiCtrlEnableSet 1) { run with host := { run.host with enable := false } })) 0x20 = 1 ∧
    readBar0 run 0x9004 = 0 := by decide +kernel

theorem test_bus_off_recovery_clears_counts :
    let s := modCan 0 (fun k => { k with state := 2, recovering := true, tec := 256, recCnt := 5 }) canRun
    ((after (exec (.canBusOffRecovery 0) s)).can[0]).tec = 0 ∧ ((after (exec (.canBusOffRecovery 0) s)).can[0]).recCnt = 0 := by
  decide +kernel

theorem test_thermal_shutdown_de_energises :
    driven (after (exec (.doThermalShutdown 63) drivenRun)).field 63 = false := by decide +kernel

theorem test_idle_step_on_an_empty_queue : (after (step run)).pending = [] ∧ (after (step run)).mode = run.mode := by decide +kernel

theorem test_step_takes_the_front :
    (after (step { run with pending := [.baseTick, .heartbeatSend] })).pending = [.heartbeatSend] := by decide +kernel

theorem test_no_word_spells_a_command : (run.withFetchWord 32 0xFFFFFFFF).pending = [] := by decide +kernel

/-! ### Witnesses: for every statement, states and operands that meet its hypotheses, clause by clause -/

theorem meets_step_runs_the_front_command : ∃ (c : Instr) (rest : List Instr) (s : State),
    s.pending = c :: rest :=
  ⟨.clr 0, [.clr 1], { run with pending := [.clr 0, .clr 1] }, by decide +kernel⟩

theorem meets_idle_step_passes_one_net_tick : ∃ (s : State),
    s.pending = [] :=
  ⟨run, by decide +kernel⟩

theorem meets_reset_leaves_start_up : ∃ o : Nat, o ∈ [0x20, 0x24, 0x30, 0x34, 0x38, 0x3C, 0x40, 0x44, 0x50, 0x54, 0x58, 0x60,
      0x64, 0x68] :=
  ⟨0x68, by decide⟩

theorem meets_every_step_keeps_safety : ∃ s t : State, Safe s ∧ step s = .next t :=
  ⟨{ run with pending := [.commit] }, _, by unfold Safe; decide +kernel, rfl⟩

theorem meets_no_step_unlocks_the_seal : ∃ s t : State, s.ret.sealLock = true ∧ step s = .next t :=
  ⟨{ run with ret := { run.ret with sealLock := true }, pending := [.commit] }, _, rfl, rfl⟩

theorem meets_commands_leave_queue_and_factory_record : ∃ (c : Instr) (s t : State), exec c s = .next t :=
  ⟨.baseTick, run, _, rfl⟩

theorem meets_host_commands_wait_for_their_turn :
  (∃ (c : Instr) (d : Desc) (op : Nat) (serial : Bool) (s : State),
    hostRow c = some (d, op, serial) ∧
    mayStart d.ring s = false) ∧
  (∃ (d : Desc) (s : State),
    mayStart d.ring s = false) ∧
  (∃ (c : Instr) (d : Desc) (op : Nat) (s : State),
    hostRow c = some (d, op, true) ∧
    mayStart d.ring s = true ∧
    serialHeld true s = true) :=
  ⟨⟨.clockRead (dsc 0 32), dsc 0 32, 0x15, false, State.reset, by decide +kernel⟩,
   ⟨dsc 7 32, State.reset, by decide +kernel⟩,
   ⟨.fwActivate (dsc 1 32), dsc 1 32, 0x1E,
      modRing 0 (fun r => { r with busy := some ⟨1, 0x02, 0, 8, .settings 0x0101, false, false⟩ }) run, by decide +kernel⟩⟩

theorem meets_commands_without_right_are_refused : ∃ (c : Instr) (d : Desc) (op : Nat) (serial : Bool) (s : State),
    hostRow c = some (d, op, serial) ∧
    mayStart d.ring s = true ∧
    serialHeld serial s = false ∧
    ringRight s d.ring op = false :=
  ⟨.clockRead (dsc 3 32), dsc 3 32, 0x15, false, alone 3, by decide +kernel⟩

theorem meets_completion_is_written_once_and_frees_its_ring :
  (∃ (s : State) (i : Nat), s.host.linkUp = true ∧ i < 16) ∧
  (∃ (k : Fin 8) (s : State) (a : Nat), a < (ring s k).cplBase.toNat + 16 * (ring s k).cplProd ∨
    (ring s k).cplBase.toNat + 16 * (ring s k).cplProd + 16 ≤ a) ∧
  (∃ s : State, s.host.linkUp = false) :=
  ⟨⟨run, 15, by decide⟩,
   ⟨7, run, 16, by decide +kernel⟩,
   ⟨State.reset, rfl⟩⟩

theorem meets_reading_commands_complete :
  (∃ (d : Desc) (s : State),
    startsClean d 0x00 false s = true) ∧
  (∃ (d : Desc) (o : Byte) (s : State),
    mayStart d.ring s = true ∧
    malformed d = false ∧
    0x1F < o.toNat) ∧
  (∃ (d : Desc) (o : Byte) (s : State),
    o.toNat ∈ [0x06, 0x07, 0x16] ∧
    startsClean d o.toNat false s = true ∧
    (o.toNat = 0x07 → runs s = true) ∧
    (o.toNat = 0x16 → clockMode s = true)) ∧
  (∃ (d : Desc) (s : State),
    startsClean d 0x1F true s = true ∧
    hasTelith s = true) ∧
  (∃ (d : Desc) (s : State),
    startsClean d 0x01 false s = true ∧
    (unitBytes (begun d 0x01 s)).length ≤ d.bufLen.toNat) ∧
  (∃ (d : Desc) (b : Half) (n : Nat) (s : State),
    startsClean d 0x03 false s = true ∧
    (blockLen b.toNat = some n ∨ blockLen b.toNat = none ∧ statusLen b.toNat = some n) ∧
    n ≤ d.bufLen.toNat) ∧
  (∃ (d : Desc) (t : Byte) (s : State),
    startsClean d 0x06 false s = true ∧
    taskNamed s t = true ∧
    64 ≤ d.bufLen.toNat) ∧
  (∃ (d : Desc) (first : Word) (count : Word) (s : State),
    startsClean d 0x11 false s = true ∧
    first.toNat + count.toNat ≤ 32768) ∧
  (∃ (d : Desc) (first : Word) (count : Word) (s : State),
    startsClean d 0x14 false s = true ∧
    first.toNat < 32768 ∧
    1 ≤ count.toNat ∧
    count.toNat ≤ 32768) ∧
  (∃ (d : Desc) (s : State),
    startsClean d 0x15 false s = true ∧
    32 ≤ d.bufLen.toNat) ∧
  (∃ (d : Desc) (s : State),
    startsClean d 0x1F true s = true ∧
    hasTelith s = true ∧
    64 ≤ d.bufLen.toNat) :=
  ⟨⟨dsc 0 1024, run, by decide +kernel⟩,
   ⟨dsc 0 1024, 0x20, run, by decide +kernel⟩,
   ⟨dsc 0 1024, 0x16, run, by decide +kernel⟩,
   ⟨dsc 0 1024, run, by decide +kernel⟩,
   ⟨dsc 0 1024, run, by decide +kernel⟩,
   ⟨dsc 0 1024, 0x0511, 64, run, by decide +kernel⟩,
   ⟨dsc 0 1024, 0, run, by decide +kernel⟩,
   ⟨dsc 0 1024, 32767, 1, run, by decide +kernel⟩,
   ⟨dsc 0 1024, 32767, 1, run, by decide +kernel⟩,
   ⟨dsc 0 32, run, by decide +kernel⟩,
   ⟨dsc 0 1024, run, by decide +kernel⟩⟩

theorem meets_reading_commands_leave_the_module_alone : ∃ (d : Desc) (c : Instr) (s t : State) (a : Nat), malformed d = false ∧
      (∃ b, c = .settingsRead d b) ∧ exec c s = .next t ∧
    d.bufAddr.toNat + max d.bufLen.toNat (blockRead s.free (begun d 0x03 s) 0x0101).length ≤ a ∧
    (ring s d.ring).cplBase.toNat + 16 * (ring s d.ring).cplProd + 16 ≤ a :=
  ⟨dsc 0 64, .settingsRead (dsc 0 64) 0x0101, run, _, 0x20000, rfl, ⟨_, rfl⟩, rfl, by decide +kernel, by decide +kernel⟩

theorem meets_storing_commands_queue_their_pages :
  (∃ (d : Desc) (id : Half) (buf : Bytes) (s : State),
    startsClean d 0x02 true s = true ∧
    reservedClear (blockReserved id.toNat) buf = true ∧
    blockAbsent s id.toNat = false ∧
    blockMode (begun d 0x02 s) id.toNat = true ∧
    blockLen id.toNat = some d.bufLen.toNat ∧
    blockValid (begun d 0x02 s) id.toNat (padTo d.bufLen.toNat buf) = true) ∧
  (∃ (d : Desc) (id : Half) (buf : Bytes) (s : State),
    startsClean d 0x02 true s = true ∧
    reservedClear (blockReserved id.toNat) buf = true ∧
    blockAbsent s id.toNat = true) ∧
  (∃ (d : Desc) (id : Half) (buf : Bytes) (s : State),
    startsClean d 0x02 true s = true ∧
    reservedClear (blockReserved id.toNat) buf = true ∧
    blockAbsent s id.toNat = false ∧
    blockMode s id.toNat = false) ∧
  (∃ (d : Desc) (id : Half) (fmt : Byte) (buf : Bytes) (s : State),
    startsClean d 0x02 true s = true ∧
    reservedClear (blockReserved id.toNat) buf = true ∧
    blockAbsent s id.toNat = false ∧
    blockMode s id.toNat = true ∧
    (blockLen id.toNat ≠ some d.bufLen.toNat ∨ fmt ≠ 1 ∨ blockValid (begun d 0x02 s) id.toNat (padTo d.bufLen.toNat buf) = false)) ∧
  (∃ (d : Desc) (first : Word) (count : Word) (s : State),
    startsClean d 0x12 false s = true ∧
    1 ≤ count.toNat ∧
    64 * count.toNat ≤ d.bufLen.toNat ∧
    2048 ≤ first.toNat ∧
    first.toNat + count.toNat ≤ 8192) ∧
  (∃ (d : Desc) (buf : Bytes) (s : State),
    startsClean d 0x13 true s = true ∧
    (s.mode.mode = mStop ∨ s.mode.mode = mService) ∧
    s.ret.sealLock = false ∧
    64 ≤ d.bufLen.toNat ∧
    reservedClear sealReserved buf = true ∧
    fieldAt buf 60 4 = 0) ∧
  (∃ (d : Desc) (buf : Bytes) (s : State),
    startsClean d 0x13 true s = true ∧
    (s.mode.mode = mStop ∨ s.mode.mode = mService) ∧
    s.ret.sealLock = true ∧
    reservedClear sealReserved buf = true) :=
  ⟨⟨dsc 0 8, 0x0603, [4#8], run, by decide +kernel⟩,
   ⟨dsc 0 1024, 0x0501, [], { run with factory := { run.factory with variant := 4 } }, by decide +kernel⟩,
   ⟨dsc 0 1024, 0x0603, [], { run with mode := { run.mode with mode := mStartUp, phase := 5 } }, by decide +kernel⟩,
   ⟨dsc 0 8, 0x0603, 2, [4#8], run, by decide +kernel⟩,
   ⟨dsc 0 64, 8191, 1, run, by decide +kernel⟩,
   ⟨dsc 0 64, [], stop, by decide +kernel⟩,
   ⟨dsc 0 1024, [], { stop with ret := { stop.ret with sealLock := true } }, by decide +kernel⟩⟩

theorem meets_task_control_acts_and_completes :
  (∃ (d : Desc) (t : Byte) (s : State),
    startsClean d 0x06 true s = true ∧
    taskNamed s t = true ∧
    pinsKeep (begun d 0x06 s) (fun x => x = taskNo t.toNat || (task s x).enabled) (profiles s) = true) ∧
  (∃ (d : Desc) (t : Byte) (s : State),
    startsClean d 0x06 true s = true ∧
    taskNamed s t = true) ∧
  (∃ (d : Desc) (t : Byte) (r : TaskRec) (s : State),
    startsClean d 0x06 false s = true ∧
    t.toNat < 128 ∧
    taskRec s (taskNo t.toNat) = some r ∧
    isEvent (taskNo t.toNat) = true ∧
    r.attr.triggerType = 4 ∧
    runs s = true) ∧
  (∃ (d : Desc) (t : Byte) (s : State),
    startsClean d 0x06 true s = true ∧
    taskNamed s t = false) ∧
  (∃ (d : Desc) (s : State),
    startsClean d 0x06 false s = true ∧
    runs s = false) ∧
  (∃ (d : Desc) (t : Byte) (s : State),
    startsClean d 0x06 false s = true ∧
    runs s = true ∧
    taskNamed s t = false) :=
  ⟨⟨dsc 0 1024, 0, run, by decide +kernel⟩,
   ⟨dsc 0 1024, 0, run, by decide +kernel⟩,
   ⟨dsc 0 1024, 64, trec 64 4 0 false, run, by decide +kernel⟩,
   ⟨dsc 0 1024, 200, run, by decide +kernel⟩,
   ⟨dsc 0 1024, stop, by decide +kernel⟩,
   ⟨dsc 0 1024, 2, run, by decide +kernel⟩⟩

theorem meets_hold_set_acts_and_completes :
  (∃ (d : Desc) (t : Byte) (b : Half) (s : State),
    startsClean d 0x07 false s = true ∧
    runs s = true ∧
    t.toNat < 128 ∧
    b.toNat < 2 ^ 15 ∧
    bitAt (block s 0x0601) (8 + t.toNat / 8) (t.toNat % 8) = false ∧
    s.mode.breaks.contains (breakAt s t b) = true) ∧
  (∃ (d : Desc) (t : Byte) (b : Half) (s : State),
    startsClean d 0x07 false s = true ∧
    runs s = true ∧
    t.toNat < 128 ∧
    b.toNat < 2 ^ 15 ∧
    bitAt (block s 0x0601) (8 + t.toNat / 8) (t.toNat % 8) = false ∧
    s.mode.breaks.contains (breakAt s t b) = false ∧
    s.mode.breaks.length < 16) ∧
  (∃ (d : Desc) (t : Byte) (b : Half) (s : State),
    startsClean d 0x07 false s = true ∧
    runs s = true ∧
    t.toNat < 128 ∧
    b.toNat < 2 ^ 15 ∧
    bitAt (block s 0x0601) (8 + t.toNat / 8) (t.toNat % 8) = false ∧
    s.mode.breaks.contains (breakAt s t b) = false ∧
    16 ≤ s.mode.breaks.length) ∧
  (∃ (d : Desc) (t : Byte) (s : State),
    startsClean d 0x07 false s = true ∧
    (runs s = false ∨ t.toNat < 128 ∧ bitAt (block s 0x0601) (8 + t.toNat / 8) (t.toNat % 8) = true)) ∧
  (∃ (d : Desc) (t : Byte) (b : Half) (s : State),
    startsClean d 0x07 false s = true ∧
    runs s = true ∧
    t.toNat < 128 ∧
    b.toNat < 2 ^ 15) ∧
  (∃ (d : Desc) (s : State),
    startsClean d 0x07 false s = true ∧
    runs s = false) ∧
  (∃ (d : Desc) (t : Byte) (b : Half) (s : State),
    startsClean d 0x07 false s = true ∧
    t.toNat < 128 ∧
    runs s = true ∧
    (task s (taskNo t.toNat)).held = true ∧
    b.toNat < 2 ^ 15) ∧
  (∃ (d : Desc) (t : Byte) (s : State),
    startsClean d 0x07 false s = true ∧
    t.toNat < 128 ∧
    (runs s = false ∨ (task s (taskNo t.toNat)).held = false)) ∧
  (∃ (d : Desc) (t : Byte) (s : State),
    startsClean d 0x08 false s = true ∧
    t.toNat < 128 ∧
    (task s (taskNo t.toNat)).held = true) ∧
  (∃ (d : Desc) (t : Byte) (s : State),
    startsClean d 0x08 false s = true ∧
    t.toNat < 128 ∧
    (task s (taskNo t.toNat)).held = false) ∧
  (∃ (d : Desc) (t : Byte) (u : StallId) (f : Fin 4) (i : Inst) (s : State),
    startsClean d 0x08 false s = true ∧
    t.toNat < 128 ∧
    (task s (taskNo t.toNat)).held = true ∧
    copies s (taskNo t.toNat) = [(u, f, i)] ∧
    standing i = true ∧
    awaited s i = false) ∧
  (∃ (u : StallId) (f : Fin 4) (i : Inst) (b : MoveWord × MoveWord) (cyc : Nat) (k : Nat) (s : State),
    ready s u = some (f, i, b, cyc) ∧
    isImm b = true ∧
    i.steps = some (k + 1)) ∧
  (∃ (u : StallId) (f : Fin 4) (i : Inst) (b : MoveWord × MoveWord) (cyc : Nat) (s : State),
    ready s u = some (f, i, b, cyc) ∧ isImm b = true ∧ i.steps = some (0 + 1)) :=
  ⟨⟨dsc 0 1024, 127, 0x7FFF, { run with mode := { run.mode with breaks := [(127, false, 0x7FFF)] } }, by decide +kernel⟩,
   ⟨dsc 0 1024, 127, 0x7FFF, run, by decide +kernel⟩,
   ⟨dsc 0 1024, 127, 0x7FFF,
      { run with mode := { run.mode with breaks := (List.range 16).map (fun k => (0, false, BitVec.ofNat 15 k)) } },
      by decide +kernel⟩,
   ⟨dsc 0 1024, 0, stop, by decide +kernel⟩,
   ⟨dsc 0 1024, 127, 0x7FFF, { run with mode := { run.mode with breaks := [(127, false, 0x7FFF)] } }, by decide +kernel⟩,
   ⟨dsc 0 1024, stop, by decide +kernel⟩,
   ⟨dsc 0 1024, 127, 0, modTask 127 (fun k => { k with held := true }) run, by decide +kernel⟩,
   ⟨dsc 0 1024, 127, run, by decide +kernel⟩,
   ⟨dsc 0 1024, 127, modTask 127 (fun k => { k with held := true }) run, by decide +kernel⟩,
   ⟨dsc 0 1024, 127, run, by decide +kernel⟩,
   ⟨dsc 0 1024, 0, st0, 0, { inst (trec 0 0 0 false) with phase := .held },
      withInst st0 { inst (trec 0 0 0 false) with phase := .held } Ctx.zero (modTask 0 (fun k => { k with held := true }) run),
      by decide +kernel⟩,
   ⟨st0, 0, { inst (trec 0 0 0 false) with steps := some 2 }, (0x3F01, 0x182), 0, 1,
      modInst st0 0 (fun i => { i with steps := some 2 }) (before 0x7E), by decide +kernel⟩,
   ⟨st0, 0, { inst (trec 0 0 0 false) with steps := some 1 }, (0x3F01, 0x182), 0,
    modInst st0 0 (fun i => { i with steps := some 1 }) (before 0x7E), by decide +kernel⟩⟩

theorem meets_mode_set_changes_the_mode :
  (∃ (d : Desc) (m : Byte) (start : Byte) (reason : Half) (s : State),
    startsClean d 0x04 true s = true ∧
    modeAllowed s m.toNat start reason = true ∧
    modeCode m.toNat = true ∧
    start.toNat ≤ 2) ∧
  (∃ (d : Desc) (m : Byte) (start : Byte) (reason : Half) (s : State),
    startsClean d 0x04 true s = true ∧
    modeAllowed s m.toNat start reason = true ∧
    modeCode m.toNat = true ∧
    start.toNat ≤ 2 ∧
    m.toNat = s.mode.mode.toNat) ∧
  (∃ (d : Desc) (m : Byte) (start : Byte) (reason : Half) (s : State),
    startsClean d 0x04 true s = true ∧
    modeAllowed s m.toNat start reason = true ∧
    modeCode m.toNat = true ∧
    start.toNat ≤ 2 ∧
    m = 1 ∧
    s.mode.mode = mStop) ∧
  (∃ (d : Desc) (m : Byte) (start : Byte) (reason : Half) (s : State),
    startsClean d 0x04 true s = true ∧
    modeAllowed s m.toNat start reason = true ∧
    modeCode m.toNat = true ∧
    start.toNat ≤ 2 ∧
    m = 1 ∧
    s.mode.mode = mHold) ∧
  (∃ (d : Desc) (m : Byte) (start : Byte) (reason : Half) (s : State),
    startsClean d 0x04 true s = true ∧
    modeAllowed s m.toNat start reason = true ∧
    modeCode m.toNat = true ∧
    start.toNat ≤ 2 ∧
    (m = 0 ∨ m = 5) ∧
    s.mode.mode.toNat ≠ m.toNat) ∧
  (∃ (d : Desc) (m : Byte) (start : Byte) (reason : Half) (s : State),
    startsClean d 0x04 true s = true ∧
    modeAllowed s m.toNat start reason = true ∧
    modeCode m.toNat = true ∧
    start.toNat ≤ 2 ∧ (
    let b := begun d 0x04 s
    m = 3 ∧
    s.mode.mode ≠ mTrack ∧
    pairDiffers b = 0)) ∧
  (∃ (d : Desc) (m : Byte) (start : Byte) (reason : Half) (s : State),
    startsClean d 0x04 true s = true ∧
    modeAllowed s m.toNat start reason = true ∧
    modeCode m.toNat = true ∧
    start.toNat ≤ 2 ∧ (
    let b := begun d 0x04 s
    m = 3 ∧
    s.mode.mode ≠ mTrack ∧
    pairDiffers b ≠ 0)) ∧
  (∃ (d : Desc) (m : Byte) (start : Byte) (reason : Half) (s : State),
    startsClean d 0x04 true s = true ∧
    modeAllowed s m.toNat start reason = true ∧
    modeCode m.toNat = true ∧
    start.toNat ≤ 2 ∧
    m = 4 ∧
    s.mode.mode ≠ mSafe) ∧
  (∃ (d : Desc) (m : Byte) (start : Byte) (reason : Half) (s : State),
    startsClean d 0x04 true s = true ∧
    modeAllowed s m.toNat start reason = true ∧
    modeCode m.toNat = true ∧
    start.toNat ≤ 2 ∧
    m = 7 ∧
    s.mode.mode ≠ mStartUp) ∧
  (∃ (d : Desc) (m : Byte) (start : Byte) (reason : Half) (s : State),
    startsClean d 0x04 true s = true ∧
    (modeAllowed s m.toNat start reason = false ∨ m = 2 ∨ s.mode.mode = mStartUp)) :=
  ⟨⟨dsc 0 1024, 0, 0, 0, run, by decide +kernel⟩,
   ⟨dsc 0 1024, 1, 0, 0, run, by decide +kernel⟩,
   ⟨dsc 0 1024, 1, 0, 0, stop, by decide +kernel⟩,
   ⟨dsc 0 1024, 1, 0, 0, { run with mode := { run.mode with mode := mHold } }, by decide +kernel⟩,
   ⟨dsc 0 1024, 0, 0, 0, run, by decide +kernel⟩,
   ⟨dsc 0 1024, 3, 0, 0,
      { stop with pair := { run.pair with trained := true, role := 2, beat := some { beat1 with role := 1, mode := mRun }, partner := some { ident1 with loadId := 9, role := 1, mode := mRun, baleFormat := 1 }, skew := some (0, 0) } }, by decide +kernel⟩,
   ⟨dsc 0 1024, 3, 0, 0,
      { stop with pair := { run.pair with trained := true, role := 2, beat := some { beat1 with role := 1, mode := mRun }, partner := some { ident1 with loadId := 9, role := 1, mode := mRun, baleFormat := 2 }, skew := some (0, 0) } }, by decide +kernel⟩,
   ⟨dsc 0 1024, 4, 0, 0, run, by decide +kernel⟩,
   ⟨dsc 0 1024, 7, 0, 0, stop, by decide +kernel⟩,
   ⟨dsc 0 1024, 2, 0, 0, run, by decide +kernel⟩⟩

theorem meets_loading_commands_take_their_package :
  (∃ (d : Desc) (p : LoadPackage) (s : State),
    startsClean d 0x05 true s = true ∧
    (hasPaired s = true ∨ p.tasks.all (fun r => !r.attr.paired) = true) ∧
    s.mode.mode = mStop ∧
    loadValid d p = true ∧
    loadFits (begun d 0x05 s) p = true) ∧
  (∃ (d : Desc) (p : EditPackage) (s : State),
    startsClean d 0x0C true s = true ∧
    (hasPaired s = true ∨ p.tasks.all (fun r => !r.attr.paired) = true) ∧
    prepareMode (begun d 0x0C s) = true ∧
    editValid d p s.proj.cur = true ∧
    editFits (begun d 0x0C s) p = true) ∧
  (∃ (d : Desc) (buf : Bytes) (s : State),
    startsClean d 0x0F true s = true ∧
    inStartUp s = false ∧
    reservedClear profileReserved buf = true ∧
    s.prof.active.toNat ≠ (profileOf buf).id.toNat ∧
    isTarget s (profileOf buf).id = false ∧
    d.bufLen.toNat = 32 ∧
    pinsKeep (begun d 0x0F s) (fun t => (task s t).enabled) (profileOf buf :: (profiles s).filter (fun x => x.id != (profileOf buf).id)) = true) ∧
  (∃ (d : Desc) (m : Byte) (buf : Bytes) (s : State),
    startsClean d 0x1A true s = true ∧
    m.toNat < 8 ∧
    reservedClear (scheduleReserved (fieldAt buf 4 2)) buf = true ∧
    ((synced s || s.ihloz.state = 2) && s.ihloz.mode.toNat = m.toNat) = false ∧
    ((s.prof.vote.map (fun v => decide (v.mode.toNat = m.toNat))).getD false) = false ∧ (
    let c := schedOf (padTo d.bufLen.toNat buf)
    d.bufLen.toNat = 16 + 8 * c.slots.length ∧
    schedValid (begun d 0x1A s) m.toNat c = true ∧
    c.cycleUs = 0)) ∧
  (∃ (d : Desc) (m : Byte) (buf : Bytes) (s : State),
    startsClean d 0x1A true s = true ∧
    m.toNat < 8 ∧
    reservedClear (scheduleReserved (fieldAt buf 4 2)) buf = true ∧
    ((synced s || s.ihloz.state = 2) && s.ihloz.mode.toNat = m.toNat) = false ∧
    ((s.prof.vote.map (fun v => decide (v.mode.toNat = m.toNat))).getD false) = false ∧ (
    let c := schedOf (padTo d.bufLen.toNat buf)
    d.bufLen.toNat = 16 + 8 * c.slots.length ∧
    schedValid (begun d 0x1A s) m.toNat c = true ∧
    c.cycleUs ≠ 0)) :=
  ⟨⟨dsc 0 0x100000, { loadId := 1, globalSize := 64, globalInit := 0xFFFFFFFF, stallBank := [], solverBank := [], tasks := [trec 0 0 0 false], gsel := [], init := [] }, stop, by decide +kernel⟩,
   ⟨dsc 0 0x100000, { editId := 1, affected := 1, removed := 1, stallBank := [], solverBank := [], tasks := [], fwd := [], rev := [], init := [] }, run, by decide +kernel⟩,
   ⟨dsc 0 32, [], run, by decide +kernel⟩,
   ⟨dsc 0 24, 0, mkBlock 24 [(4, 2, 1), (6, 2, 25), (20, 2, 2000)], run, by decide +kernel⟩,
   ⟨dsc 0 24, 0, mkBlock 24 [(0, 4, 1000), (4, 2, 1), (6, 2, 25), (20, 2, 2000)], run, by decide +kernel⟩⟩

theorem meets_edit_and_profile_requests_become_pending :
  (∃ (d : Desc) (e : DWord) (w : Half) (r : Option EditReport) (s : State),
    startsClean d 0x0D true s = true ∧
    editMode (begun d 0x0D s) 1 r = true ∧
    w ≠ 0 ∧
    (e = 0 ∨ nextTick s ≤ e.toNat)) ∧
  (∃ (d : Desc) (e : DWord) (w : Half) (r : Option EditReport) (s : State),
    startsClean d 0x0E true s = true ∧
    editMode (begun d 0x0E s) 2 r = true ∧
    w ≠ 0 ∧
    (e = 0 ∨ nextTick s ≤ e.toNat)) ∧
  (∃ (d : Desc) (n : Byte) (c : Byte) (p : Profile) (s : State),
    startsClean d 0x10 true s = true ∧
    (s.mode.mode = mStop ∨ runs s = true) ∧
    n.toNat < 8 ∧
    c ≠ 0 ∧
    Tab.find s.prof.table n.toNat = some p ∧
    isMember s = false ∧
    s.prof.localSwitch = none) ∧
  (∃ (d : Desc) (n : Byte) (c : Byte) (p : Profile) (s : State),
    startsClean d 0x10 true s = true ∧
    (s.mode.mode = mStop ∨ runs s = true) ∧
    n.toNat < 8 ∧
    c ≠ 0 ∧
    Tab.find s.prof.table n.toNat = some p ∧
    isMember s = true) :=
  ⟨⟨dsc 0 1024, 6, 1, none, { run with proj := { run.proj with edit := 1 } }, by decide +kernel⟩,
   ⟨dsc 0 1024, 6, 1, none, { run with proj := { run.proj with edit := 2 } }, by decide +kernel⟩,
   ⟨dsc 0 1024, 0, 1, ⟨0, 0, 0, [], 0⟩, { run with prof := { run.prof with table := [(0, ⟨0, 0, 0, [], 0⟩)] } },
      by decide +kernel⟩,
   ⟨dsc 0 1024, 0, 1, ⟨0, 0, 0, [], 0⟩,
      { run with prof := { run.prof with table := [(0, ⟨0, 0, 0, [], 0⟩)] }, ihloz := { run.ihloz with state := 5 } },
      by decide +kernel⟩⟩

theorem meets_table_commands_replace_their_entries :
  (∃ (d : Desc) (first : Half) (count : Half) (buf : Bytes) (s : State),
    startsClean d 0x0A true s = true ∧
    d.ring = 0 ∧
    reservedClear (wardenReserved first.toNat count.toNat) buf = true ∧
    1 ≤ count.toNat ∧
    first.toNat + count.toNat ≤ 136 ∧
    d.bufLen.toNat = 64 * count.toNat) ∧
  (∃ (d : Desc) (region : Byte) (t : Byte) (image : Byte) (length : Half) (area : Word) (s : State),
    startsClean d 0x0B false s = true ∧
    region.toNat < 64 ∧
    t.toNat < 128 ∧
    image.toNat < 2 ∧
    0 < length.toNat ∧
    length.toNat ≤ 4096 ∧
    area.toNat % 8 = 0 ∧
    area.toNat + length.toNat + 24 ≤ exportLimit s.host) ∧
  (∃ (d : Desc) (region : Byte) (t : Byte) (image : Byte) (area : Word) (s : State),
    startsClean d 0x0B false s = true ∧
    region.toNat < 64 ∧
    t.toNat < 128 ∧
    image.toNat < 2 ∧
    area.toNat % 8 = 0 ∧
    area.toNat + 24 ≤ exportLimit s.host) ∧
  (∃ (d : Desc) (first : Half) (count : Half) (s : State),
    startsClean d 0x09 false s = true ∧
    1 ≤ count.toNat ∧
    count.toNat ≤ 4096 ∧
    first.toNat + count.toNat ≤ 4096 ∧
    s.host.chanCount.toNat ≤ first.toNat) ∧
  (∃ (d : Desc) (first : Half) (count : Half) (e : Nat → Bytes) (s : State),
    startsClean d 0x09 false s = true ∧
    1 ≤ count.toNat ∧
    count.toNat ≤ 4096 ∧
    first.toNat + count.toNat ≤ 4096 ∧
    first.toNat + count.toNat ≤ s.host.chanCount.toNat ∧
    (∀ i, i < count.toNat → (e i).length = 64 ∧ reservedClear (entryReserved (e i)) (e i) = true ∧
      isPinned s (first.toNat + i) = false)) ∧
  (∃ (d : Desc) (first : Half) (e : Bytes) (s : State),
    startsClean d 0x09 false s = true ∧
    first.toNat < 4096 ∧
    first.toNat < s.host.chanCount.toNat ∧
    e.length = 64 ∧
    reservedClear (entryReserved e) e = true) ∧
  (∃ (d : Desc) (first : Half) (s : State),
    startsClean d 0x09 false s = true ∧
    first.toNat < 4096 ∧
    first.toNat < s.host.chanCount.toNat) :=
  ⟨⟨dsc 0 64, 135, 1, [], run, by decide +kernel⟩,
   ⟨dsc 0 1024, 63, 127, 1, 4072, 0, run, by decide +kernel⟩,
   ⟨dsc 0 1024, 63, 127, 1, 0, run, by decide +kernel⟩,
   ⟨dsc 0 1024, 4095, 1, run, by decide +kernel⟩,
   ⟨dsc 0 1024, 7, 1, (fun _ => zeros 64), { run with host := { run.host with chanCount := 8 } }, by decide +kernel⟩,
   ⟨dsc 0 1024, 4094, zeros 64, { run with host := { run.host with chanCount := 4096 } }, by decide +kernel⟩,
   ⟨dsc 0 1024, 4095, { run with host := { run.host with chanCount := 4096 } }, by decide +kernel⟩⟩

theorem meets_clock_adjust_sets_the_clock :
  (∃ (d : Desc) (ns : Word) (s : State),
    startsClean d 0x16 false s = true ∧
    clockMode (begun d 0x16 s) = true ∧
    ns.toNat < 1000000000) ∧
  (∃ (d : Desc) (ns : DWord) (s : State),
    startsClean d 0x16 false s = true ∧
    clockMode (begun d 0x16 s) = true ∧
    0 ≤ stepped s ns ∧
    stepped s ns < 2 ^ 48 * 1000000000) ∧
  (∃ (d : Desc) (s : State),
    startsClean d 0x16 false s = true ∧
    clockMode (begun d 0x16 s) = true) :=
  ⟨⟨dsc 0 1024, 999999999, run, by decide +kernel⟩,
   ⟨dsc 0 1024, 1, run, by decide +kernel⟩,
   ⟨dsc 0 1024, run, by decide +kernel⟩⟩

theorem meets_sending_commands_take_their_frame :
  (∃ (d : Desc) (c : Fin 4) (b : Fin 3) (buf : Bytes) (s : State),
    startsClean d 0x17 false s = true ∧
    reservedClear canReserved buf = true ∧
    canAbsent (begun d 0x17 s) (BitVec.ofNat 8 c.val) = false ∧
    inStartUp s = false ∧
    d.bufLen.toNat = 80 ∧
    canFlag s c 0 = true ∧
    canFlag s c 4 = false ∧
    ((frameOf buf).ide = true ∨ (frameOf buf).identifier.toNat < 2048) ∧
    ((frameOf buf).rtr && (frameOf buf).fdf) = false ∧
    ((frameOf buf).fdf = true ∨ (frameOf buf).brs = false) ∧
    ((frameOf buf).fdf = false ∨ canFlag s c 1 = true) ∧
    (s.can[c].bufs[b]).frame = none ∧
    (b = 2 → servesChannels s c = false)) ∧
  (∃ (d : Desc) (c : Fin 4) (b : Fin 3) (s : State),
    startsClean d 0x18 false s = true ∧
    canAbsent (begun d 0x18 s) (BitVec.ofNat 8 c.val) = false ∧
    inStartUp s = false ∧
    (s.can[c].bufs[b]).frame = none) ∧
  (∃ (d : Desc) (c : Fin 4) (b : Fin 3) (s : State),
    startsClean d 0x18 false s = true ∧
    canAbsent (begun d 0x18 s) (BitVec.ofNat 8 c.val) = false ∧
    inStartUp s = false ∧
    (s.can[c].bufs[b]).frame ≠ none ∧
    (s.can[c].onBus ≠ some b ∨ s.can[c].lost = true ∧ s.can[c].started = false)) ∧
  (∃ (d : Desc) (c : Fin 4) (b : Fin 3) (s : State),
    startsClean d 0x18 false s = true ∧
    canAbsent (begun d 0x18 s) (BitVec.ofNat 8 c.val) = false ∧
    inStartUp s = false ∧
    (s.can[c].bufs[b]).frame ≠ none ∧
    s.can[c].onBus = some b ∧
    s.can[c].started = true) ∧
  (∃ (d : Desc) (p : Fin 2) (buf : Bytes) (s : State),
    startsClean d 0x19 false s = true ∧
    reservedClear ethReserved buf = true ∧
    14 ≤ fieldAt buf 0 2 ∧
    fieldAt buf 0 2 ≤ 1518 ∧
    16 + fieldAt buf 0 2 ≤ d.bufLen.toNat ∧
    bitsOf (fieldAt buf 2 1) 1 0 = 0 ∧
    bitAt buf 2 2 = false ∧
    ethEnabled s p.val = true) ∧
  (∃ (d : Desc) (n : Fin 32) (retries : Byte) (buf : Bytes) (s : State),
    startsClean d 0x1B false s = true ∧
    reservedClear hartReserved buf = true ∧
    hasLoop s = true ∧
    inStartUp s = false ∧
    retries.toNat ≤ 7 ∧
    hartOn (begun d 0x1B s) n.val = true ∧
    4 ≤ fieldAt buf 0 2 ∧
    fieldAt buf 0 2 ≤ 263 ∧
    5 ≤ fieldAt buf 2 1 ∧
    fieldAt buf 2 1 ≤ 20 ∧
    requestGood (fieldAt buf 0 2) (hartRequest buf) = true ∧
    272 ≤ d.bufLen.toNat ∧
    (s.loops[n]).hart = none) :=
  ⟨⟨dsc 0 80, 0, 2, mkBlock 80 [(0, 4, 5), (5, 1, 1), (16, 1, 7)], withBlock 0x0410 [(8, 1, 1)] run, by decide +kernel⟩,
   ⟨dsc 0 1024, 0, 0, run, by decide +kernel⟩,
   ⟨dsc 0 1024, 0, 0, modBuf 0 0 (fun x => { x with frame := some can1 }) run, by decide +kernel⟩,
   ⟨dsc 0 1024, 0, 0, modCan 0 (fun k => { k with onBus := some 0, started := true }) (modBuf 0 0 (fun x => { x with frame := some can1 }) run), by decide +kernel⟩,
   ⟨dsc 0 1024, 0, mkBlock 30 [(0, 2, 14)], withBlock 0x0420 [(8, 1, 1)] run, by decide +kernel⟩,
   ⟨dsc 0 1024, 0, 7, mkBlock 16 [(0, 2, 4), (2, 1, 5), (8, 1, 2)], pin 128 [(16, 1, 2)] run, by decide +kernel⟩⟩

theorem meets_firmware_and_redundancy_commands_begin :
  (∃ (d : Desc) (image : Bytes) (s : State),
    startsClean d 0x1C false s = true ∧
    inStartUp s = false ∧
    s.fw.xfers = [] ∧
    activating (begun d 0x1C s) = false ∧
    d.bufLen.toNat ≤ 2 ^ 24 ∧
    reservedClear imageReserved image = true) ∧
  (∃ (d : Desc) (source : Byte) (port : Byte) (n : Word) (s : State),
    startsClean d 0x1C false s = true ∧
    inStartUp s = false ∧
    s.fw.xfers = [] ∧
    activating (begun d 0x1C s) = false ∧
    source ≠ 0 ∧
    pathGood source.toNat port.toNat = true ∧
    n.toNat ≤ 2 ^ 24) ∧
  (∃ (d : Desc) (path : Byte) (port : Byte) (s : State),
    startsClean d 0x1D false s = true ∧
    receiving (begun d 0x1D s) = false ∧
    activating (begun d 0x1D s) = false ∧
    pathGood path.toNat port.toNat = true ∧
    (fwInactive s).state = 2) ∧
  (∃ (d : Desc) (s : State),
    startsClean d 0x1E true s = true ∧
    activateMode (begun d 0x1E s) = true ∧
    (fwInactive s).state = 2) ∧
  (∃ (d : Desc) (s : State),
    startsClean d 0x1F true s = true ∧
    hasTelith s = true ∧
    telithOn s = true ∧
    isActive s.pair.role s.mode.mode = true ∧
    partnerTracks s = true ∧
    s.pair.current = true ∧
    s.pair.handover = none) ∧
  (∃ (d : Desc) (s : State),
    startsClean d 0x1F true s = true ∧
    hasTelith s = true ∧
    telithOn s = true) :=
  ⟨⟨dsc 0 1024, [], run, by decide +kernel⟩,
   ⟨dsc 0 1024, 2, 31, 0, run, by decide +kernel⟩,
   ⟨dsc 0 1024, 1, 1, { run with fw := { run.fw with slot1 := ⟨2, [], 256⟩ } }, by decide +kernel⟩,
   ⟨dsc 0 1024, { run with fw := { run.fw with slot1 := ⟨2, [], 256⟩ } }, by decide +kernel⟩,
   ⟨dsc 0 1024, { withBlock 0x0501 [(0, 1, 1)] run with pair := { run.pair with trained := true, role := 1, current := true, beat := some beat1 } }, by decide +kernel⟩,
   ⟨dsc 0 1024, withBlock 0x0501 [(0, 1, 1)] run, by decide +kernel⟩⟩

theorem meets_bar0_writes_act_as_the_registers_say :
  (∃ (v : Word) (s : State),
    bar0Open s = true ∧
    v.getLsbD 0 = true ∧
    s.host.enable = false) ∧
  (∃ (v : Word) (s : State),
    bar0Open s = true ∧
    v.getLsbD 0 = false ∧
    s.host.enable = true) ∧
  (∃ (k : Fin 8) (v : Word) (s : State),
    bar0Open s = true ∧
    v.getLsbD 31 = true ∧
    (ring s k).en = false) ∧
  (∃ (k : Fin 8) (v : Word) (s : State),
    bar0Open s = true ∧
    v.getLsbD 31 = false ∧
    (ring s k).en = true) ∧
  (∃ (s : State),
    bar0Open s = true) ∧
  (∃ (s : State),
    bar0Open s = true) ∧
  (∃ (s : State),
    bar0Open s = true ∧
    s.host.enable = false) ∧
  (∃ (s : State),
    bar0Open s = true ∧
    s.host.enable = false) ∧
  (∃ (o : Half) (s : State),
    bar0Open s = true ∧
    o.toNat % 4 = 0 ∧
    (s.host.enable = true ∧ o.toNat ∈ [0x30, 0x34, 0x38, 0x3C, 0x40, 0x44, 0x50, 0x54, 0x58, 0x60, 0x64,
      0x68] ∨ o.toNat < 0x20 ∨ o.toNat ∈ [0x28, 0x2C, 0x5C] ∨ (0x6C ≤ o.toNat ∧ o.toNat < 0x100) ∨ (0x200 ≤ o.toNat ∧
      o.toNat < 0x8000) ∨ 0x8200 ≤ o.toNat ∨ (0x100 ≤ o.toNat ∧ o.toNat < 0x200 ∧ 0x18 ≤ o.toNat % 32))) ∧
  (∃ (o : Half) (w : Bool) (s : State),
    bar0Open s = true ∧
    (w = false ∨ o.toNat % 4 ≠ 0)) ∧
  (∃ (o : Nat),
    (o ∈ [0x28, 0x2C, 0x5C] ∨ (0x6C ≤ o ∧ o < 0x100) ∨ (0x200 ≤ o ∧ o < 0x8000) ∨ (0x8200 ≤ o ∧ o < 0x9000) ∨ 0x9004 ≤ o)) :=
  ⟨⟨1, { run with host := { run.host with enable := false } }, by decide +kernel⟩,
   ⟨0, run, by decide +kernel⟩,
   ⟨7, 0x80000010, modRing 7 (fun r => { r with en := false }) run, by decide +kernel⟩,
   ⟨7, 0, run, by decide +kernel⟩,
   ⟨run, by decide +kernel⟩,
   ⟨run, by decide +kernel⟩,
   ⟨{ run with host := { run.host with enable := false } }, by decide +kernel⟩,
   ⟨{ run with host := { run.host with enable := false } }, by decide +kernel⟩,
   ⟨0x30, run, by decide +kernel⟩,
   ⟨0x31, false, run, by decide +kernel⟩,
   ⟨0x9004, by decide +kernel⟩⟩

theorem meets_doorbell_echo_and_messages_act :
  (∃ (t : Nat) (s : State),
    s.host.nextPoll = some t ∧
    s.host.enable = true ∧
    bar0Open s = true) ∧
  (∃ (line : Bytes) (s : State),
    s.host.polled = true ∧
    s.host.enable = true ∧
    bar0Open s = true ∧
    reservedClear lineReserved line = true ∧
    soundSize s.host.evtSize = true ∧
    fieldAt line 32 2 < s.host.evtSize.toNat ∧
    (∀ k : Fin 8, k = 0 ∨ (ring s k).enNow = true → soundSize (ring s k).size = true ∧
      fieldAt line (2 * k.val) 2 < (ring s k).size.toNat ∧ fieldAt line (16 + 2 * k.val) 2 < (ring s k).size.toNat ∧
      overran (ring s k).cmdProd { ring s k with cmdProd := fieldAt line (2 * k.val) 2 } = false)) ∧
  (∃ (s : State),
    s.host.echoDue = true ∧
    bar0Open s = true) ∧
  (∃ (k : Fin 8) (s : State),
    s.host.linkUp = true ∧
    served s = true ∧
    (ring s k).msgDue = true) ∧
  (∃ (s : State),
    s.host.linkUp = true ∧
    served s = true ∧
    s.host.evtMsgDue = true) ∧
  (∃ (o : Nat) (e : EventRec) (s : State),
    s.recorder.prev = none ∧
    s.recorder.last = some (o, e) ∧
    s.recorder.dirty = [o]) ∧
  (∃ (s : State),
    s.host.enable = true ∧
    bar0Open s = true) ∧
  (∃ (s : State),
    s.host.enable = true ∧
    bar0Open s = true ∧
    s.host.polled = true) ∧
  (∃ (k : Fin 8) (s : State),
    s.host.enable = true ∧
    bar0Open s = true ∧
    mayStart k s = true) ∧
  (∃ (b : Bytes),
    fieldAt b 0 1 = 0x01) ∧
  (∃ (b : Bytes),
    fieldAt b 0 1 = 0x04) ∧
  (∃ (b : Bytes),
    fieldAt b 0 1 = 0x11) ∧
  (∃ (b : Bytes),
    (fieldAt b 0 1 = 0 ∨ 0x20 ≤ fieldAt b 0 1)) :=
  ⟨⟨1250, { run with host := { run.host with nextPoll := some 1250 } }, by decide +kernel⟩,
   ⟨mkBlock 64 ((List.range 8).map (fun k => (2 * k, 2, 1))), { run with host := { run.host with polled := true } },
      by decide +kernel⟩,
   ⟨{ run with host := { run.host with echoDue := true } }, by decide +kernel⟩,
   ⟨7, modRing 7 (fun r => { r with msgDue := true }) run, by decide +kernel⟩,
   ⟨{ run with host := { run.host with evtMsgDue := true } }, by decide +kernel⟩,
   ⟨3, ⟨0, 1, 0x0110, 2, 0, 0, 0, 0⟩,
      { run with recorder := { run.recorder with last := some (3, ⟨0, 1, 0x0110, 2, 0, 0, 0, 0⟩), dirty := [3] } },
      by decide +kernel⟩,
   ⟨run, by decide +kernel⟩,
   ⟨{ run with host := { run.host with polled := true } }, by decide +kernel⟩,
   ⟨7, alone 7, by decide +kernel⟩,
   ⟨mkBlock 64 [(0, 1, 1)], by decide +kernel⟩,
   ⟨mkBlock 64 [(0, 1, 4)], by decide +kernel⟩,
   ⟨mkBlock 64 [(0, 1, 0x11)], by decide +kernel⟩,
   ⟨mkBlock 64 [(0, 1, 0x20)], by decide +kernel⟩⟩

theorem meets_host_resets_affect_only_the_host_interface :
  (∃ (g : BitVec 3) (w : BitVec 3) (s : State),
    (s.host.linkUp = false ∨ s.host.training = true) ∧
    s.host.perst = false ∧
    alive s = true ∧
    (inStartUp s = false ∨ 4 ≤ s.mode.phase) ∧
    1 ≤ g.toNat ∧
    g.toNat ≤ 4 ∧
    (w = 1 ∨ w = 2 ∨ w = 4)) ∧
  (∃ (c : Instr) (n : Nat) (up : Bool) (training : Bool) (s : State),
    (c, n, up, training) ∈ [(Instr.pcieLinkDown, 0, false, false), (.hotReset, 1, true, true), (.functionLevelReset, 2, true,
      s.host.training), (.surpriseRemoval, 3, false, false)] ∧
    s.host.linkUp = true ∧
    alive s = true) ∧
  (∃ (s : State),
    s.host.perst = false) :=
  ⟨⟨4, 4, { run with host := { run.host with linkUp := false } }, by decide +kernel⟩,
   ⟨.surpriseRemoval, 3, false, false, run, by decide +kernel⟩,
   ⟨run, by decide +kernel⟩⟩

theorem meets_the_cycle_releases_and_checks_tasks :
  (∃ (s : State),
    s.time.running = true ∧
    s.time.t0Fixed = true ∧
    alive s = true) ∧
  (∃ (s : State),
    s.time.running = true ∧
    s.time.t0Fixed = true ∧
    alive s = true ∧
    s.proj.boundary ≠ some (nextTick s)) ∧
  (∃ (s : State),
    s.time.running = true ∧
    s.time.t0Fixed = true ∧
    alive s = true ∧
    s.time.newTick = none) ∧
  (∃ (p : Publication) (s : State),
    alive s = true ∧
    s.time.running = true ∧
    s.time.t0Fixed = true ∧
    publishTime s = true ∧
    publishOk s (block s 0x0102) (nextTick s) p = true) ∧
  (∃ (t : BitVec 7) (s : State),
    runs s = true ∧
    alive s = true ∧
    overdue s (nextTick s) t = true) ∧
  (∃ (t : BitVec 7) (r : Release) (rec : TaskRec) (s : State),
    (task s t).inst = some r ∧
    taskRec s t = some rec ∧
    pairOver s t = false ∧
    rec.attr.overrun = 0) ∧
  (∃ (t : BitVec 7) (r : TaskRec) (s : State),
    taskRec s t = some r ∧
    r.attr.triggerType = 5 ∧
    0 < r.attr.triggerSel.toNat ∧
    s.time.running = true ∧
    alive s = true) ∧
  (∃ (t : BitVec 7) (r : TaskRec) (s : State),
    taskRec s t = some r ∧
    isEvent t = true ∧
    enabledNow s t = true ∧
    (task s t).latch = true ∧
    (task s t).inst = none ∧
    runs s = true ∧
    alive s = true ∧
    s.mode.pause = false ∧
    ((task s t).held = false ∨ (task s t).heldEntry = true) ∧ (
    let a := advanceTo (((task s t).lastRelease.map (fun x => x + r.attr.minRetrigger.toNat)).getD 0) s
    editHolds a t = false)) :=
  ⟨⟨run, by decide +kernel⟩,
   ⟨run, by decide +kernel⟩,
   ⟨run, by decide +kernel⟩,
   ⟨⟨[], [], [], [], [], []⟩, run, by decide +kernel⟩,
   ⟨0, modTask 0 (fun k => { k with inst := some ({ newRelease run (trec 0 0 0 false) 1 false with deadlineTicks := 2 }) }) run,
      by decide +kernel⟩,
   ⟨0, newRelease run (trec 0 0 0 false) 1 false, trec 0 0 0 false,
      modTask 0 (fun k => { k with inst := some (newRelease run (trec 0 0 0 false) 1 false) }) run, by decide +kernel⟩,
   ⟨65, trec 65 5 1000 false, run, by decide +kernel⟩,
   ⟨64, trec 64 4 0 false, modTask 64 (fun k => { k with latch := true, enabled := true }) run, by decide +kernel⟩⟩

theorem meets_instances_start_switch_and_stop :
  (∃ (t : BitVec 7) (rec : TaskRec) (r : Release) (u : StallId) (s : State),
    taskRec s t = some rec ∧
    (task s t).inst = some r ∧
    (task s t).placeA = some u ∧
    r.started = false ∧
    (task s t).fence = none ∧
    runs s = true ∧
    alive s = true ∧
    s.mode.pause = false ∧
    canStart s rec u = true ∧
    startPlaced s rec r = true) ∧
  (∃ (t : BitVec 7) (r : Release) (u : StallId) (v : StallId) (f : Fin 4) (i : Inst) (s : State),
    (task s t).inst = some r ∧
    (task s t).placeB = some u ∧
    (copies s t).find? (fun c => !c.2.2.copyB) = some (v, f, i) ∧
    r.started = true ∧
    r.startedB = false ∧
    i.record.attr.paired = true ∧
    runs s = true ∧
    alive s = true ∧
    canStart s i.record u = true ∧
    ((stall s u).state = 0 ∨ (stall s u).state = 3)) ∧
  (∃ (u : StallId) (f : Fin 4) (s : State),
    turnOf s u = some f ∧
    (stall s u).running ≠ some f ∧
    alive s = true) ∧
  (∃ (u : StallId) (f : Fin 4) (i : Inst) (s : State),
    issuer s u = some (f, i) ∧
    breakHere s u i = true ∧
    partnerEnding s i = false ∧
    i.record.attr.paired = true ∧
    partnerWaits s i (stall s u).ctx.pc = none) ∧
  (∃ (u : StallId) (f : Fin 4) (i : Inst) (s : State),
    issuer s u = some (f, i) ∧
    breakHere s u i = true ∧
    entryHeld s i = false ∧
    partnerEnding s i = false ∧
    i.record.attr.paired = false ∧
    partnerWaits (park u f .held s) i (stall s u).ctx.pc = none) ∧
  (∃ (u : StallId) (f : Fin 4) (i : Inst) (s : State),
    issuer s u = some (f, i) ∧
    breakHere s u i = true ∧
    partnerEnding s i = true) :=
  ⟨⟨0, trec 0 0 0 false, newRelease run (trec 0 0 0 false) 5 false, st0,
      modTask 0 (fun k => { k with inst := some (newRelease run (trec 0 0 0 false) 5 false), placeA := some st0 }) run,
      by decide +kernel⟩,
   ⟨1, { newRelease run (trec 1 0 0 true) 5 false with started := true }, ⟨1, 0⟩, st0, 0, inst (trec 1 0 0 true),
      modTask 1 (fun k => { k with inst := some { newRelease run (trec 1 0 0 true) 5 false with started := true }, placeB := some ⟨1, 0⟩ })
      (withInst st0 (inst (trec 1 0 0 true)) Ctx.zero run), by decide +kernel⟩,
   ⟨st0, 0, modStall st0 (fun x => { x with running := none }) (before 0x21), by decide +kernel⟩,
   ⟨st0, 0, inst (trec 1 0 0 true), { pair .running .running with mode := { run.mode with breaks := [(1, false, 0)] } },
      by decide +kernel⟩,
   ⟨st0, 0, inst (trec 0 0 0 false),
      { withInst st0 (inst (trec 0 0 0 false)) Ctx.zero run with mode := { run.mode with breaks := [(0, false, 0)] } },
      by decide +kernel⟩,
   ⟨st0, 0, inst (trec 1 0 0 true), { pair .running .ending with mode := { run.mode with breaks := [(1, false, 0)] } },
      by decide +kernel⟩⟩

theorem meets_bundles_issue_under_their_rows :
  (∃ (c : Instr) (u : StallId) (n : Nat) (f : Fin 4) (i : Inst) (b : MoveWord × MoveWord) (cyc : Nat) (s : State),
    (c, n) ∈ [(Instr.aluAdd u, 0x21), (.aluAdc u, 0x22), (.aluSub u, 0x23), (.aluSbc u, 0x24), (.aluAnd u, 0x25), (.aluOr u,
      0x26), (.aluXor u, 0x27), (.aluAndn u, 0x28), (.aluShl u, 0x29), (.aluShr u, 0x2A), (.aluSar u, 0x2B), (.aluRol u, 0x2C),
      (.aluMin u, 0x2D), (.aluMax u, 0x2E), (.aluCmp u, 0x2F), (.macMul u, 0x31), (.macMac u, 0x32), (.macMsu u, 0x33),
      (.chkStep u, 0x3B), (.chkPar u, 0x3C), (.chkRev u, 0x3D), (.ldW u, 0x51), (.ldHu u, 0x52), (.ldBu u, 0x53), (.stW u, 0x54),
      (.stH u, 0x55), (.stB u, 0x56), (.lsBlk u, 0x57), (.rptGo u, 0x5C), (.rptExit u, 0x5D), (.imgRdb u, 0x62), (.imgRdw u,
      0x63), (.imgWrb u, 0x64), (.imgWrw u, 0x65), (.solve u, 0x66), (.brJmp u, 0x68), (.brCall u, 0x69), (.brJnz u, 0x6B),
      (.brJz u, 0x6C), (.brJcc u, 0x6D), (.brRel u, 0x6F), (.txEnd u, 0x70), (.txAbort u, 0x71), (.sysEvt u, 0x72), (.sysFence u,
      0x73), (.sysWait u, 0x74), (.sysWdkey u, 0x75), (.sysCheckin u, 0x76)] ∧
    ready s u = some (f, i, b, cyc) ∧
    isEnd b = false ∧
    carries b n = true) ∧
  (∃ (u : StallId) (f : Fin 4) (i : Inst) (b : MoveWord × MoveWord) (cyc : Nat) (s : State),
    ready s u = some (f, i, b, cyc) ∧
    isEnd b = true) ∧
  (∃ (u : StallId) (f : Fin 4) (i : Inst) (b : MoveWord × MoveWord) (cyc : Nat) (s : State),
    ready s u = some (f, i, b, cyc) ∧
    isPlain b = true) ∧
  (∃ (u : StallId) (f : Fin 4) (i : Inst) (b : MoveWord × MoveWord) (cyc : Nat) (s : State),
    ready s u = some (f, i, b, cyc) ∧
    isImm b = true) ∧
  (∃ (u : StallId) (f : Fin 4) (i : Inst) (b : MoveWord × MoveWord) (cyc : Nat) (s : State),
    ready s u = some (f, i, b, cyc) ∧
    onlyTrigger u i b cyc 0x5C s = true) ∧
  (∃ (u : StallId) (f : Fin 4) (i : Inst) (b : MoveWord × MoveWord) (cyc : Nat) (s : State),
    ready s u = some (f, i, b, cyc) ∧
    onlyTrigger u i b cyc 0x5D s = true) ∧
  (∃ (u : StallId) (f : Fin 4) (i : Inst) (b : MoveWord × MoveWord) (cyc : Nat) (s : State),
    ready s u = some (f, i, b, cyc) ∧
    onlyTrigger u i b cyc 0x68 s = true) ∧
  (∃ (u : StallId) (f : Fin 4) (i : Inst) (b : MoveWord × MoveWord) (cyc : Nat) (s : State),
    ready s u = some (f, i, b, cyc) ∧
    onlyTrigger u i b cyc 0x69 s = true) ∧
  (∃ (u : StallId) (f : Fin 4) (i : Inst) (b : MoveWord × MoveWord) (cyc : Nat) (s : State),
    ready s u = some (f, i, b, cyc) ∧
    onlyTrigger u i b cyc 0x6B s = true) ∧
  (∃ (u : StallId) (f : Fin 4) (i : Inst) (b : MoveWord × MoveWord) (cyc : Nat) (s : State),
    ready s u = some (f, i, b, cyc) ∧
    onlyTrigger u i b cyc 0x6C s = true) ∧
  (∃ (u : StallId) (f : Fin 4) (i : Inst) (b : MoveWord × MoveWord) (cyc : Nat) (s : State),
    ready s u = some (f, i, b, cyc) ∧
    onlyTrigger u i b cyc 0x6D s = true) ∧
  (∃ (u : StallId) (f : Fin 4) (i : Inst) (b : MoveWord × MoveWord) (cyc : Nat) (s : State),
    ready s u = some (f, i, b, cyc) ∧
    onlyTrigger u i b cyc 0x6F s = true) ∧
  (∃ (u : StallId) (f : Fin 4) (i : Inst) (b : MoveWord × MoveWord) (cyc : Nat) (s : State),
    ready s u = some (f, i, b, cyc) ∧
    onlyTrigger u i b cyc 0x70 s = true) ∧
  (∃ (u : StallId) (f : Fin 4) (i : Inst) (b : MoveWord × MoveWord) (cyc : Nat) (s : State),
    ready s u = some (f, i, b, cyc) ∧
    onlyTrigger u i b cyc 0x71 s = true) ∧
  (∃ (u : StallId) (f : Fin 4) (i : Inst) (b : MoveWord × MoveWord) (cyc : Nat) (s : State),
    ready s u = some (f, i, b, cyc) ∧
    onlyTrigger u i b cyc 0x72 s = true) ∧
  (∃ (u : StallId) (f : Fin 4) (i : Inst) (b : MoveWord × MoveWord) (cyc : Nat) (s : State),
    ready s u = some (f, i, b, cyc) ∧
    onlyTrigger u i b cyc 0x73 s = true) ∧
  (∃ (u : StallId) (f : Fin 4) (i : Inst) (b : MoveWord × MoveWord) (cyc : Nat) (s : State),
    ready s u = some (f, i, b, cyc) ∧
    onlyTrigger u i b cyc 0x74 s = true) ∧
  (∃ (u : StallId) (f : Fin 4) (i : Inst) (b : MoveWord × MoveWord) (cyc : Nat) (s : State),
    ready s u = some (f, i, b, cyc) ∧
    onlyTrigger u i b cyc 0x75 s = true) ∧
  (∃ (u : StallId) (f : Fin 4) (i : Inst) (b : MoveWord × MoveWord) (cyc : Nat) (s : State),
    ready s u = some (f, i, b, cyc) ∧
    onlyTrigger u i b cyc 0x76 s = true) :=
  ⟨⟨.stW st0, st0, 0x54, 0, inst (trec 0 0 0 false), (BitVec.ofNat 14 (128 * 0x54 + 1), 0x182), 0, before 0x54,
      by decide +kernel⟩,
   ⟨st0, 0, inst (trec 0 0 0 false), (0x3FFF, 0x3FFF), 0, withBundle (0x7F, 0x7F) (0x7F, 0x7F) (before 0x21), by decide +kernel⟩,
   ⟨st0, 0, inst (trec 0 0 0 false), (0x81, 0x182), 0, before 1, by decide +kernel⟩,
   ⟨st0, 0, inst (trec 0 0 0 false), (0x3F01, 0x182), 0, before 0x7E, by decide +kernel⟩,
   ⟨st0, 0, inst (trec 0 0 0 false), (BitVec.ofNat 14 (128 * 0x5c + 1), 0x182), 0, before 0x5c, by decide +kernel⟩,
   ⟨st0, 0, inst (trec 0 0 0 false), (BitVec.ofNat 14 (128 * 0x5d + 1), 0x182), 0, before 0x5d, by decide +kernel⟩,
   ⟨st0, 0, inst (trec 0 0 0 false), (BitVec.ofNat 14 (128 * 0x68 + 1), 0x182), 0, before 0x68, by decide +kernel⟩,
   ⟨st0, 0, inst (trec 0 0 0 false), (BitVec.ofNat 14 (128 * 0x69 + 1), 0x182), 0, before 0x69, by decide +kernel⟩,
   ⟨st0, 0, inst (trec 0 0 0 false), (BitVec.ofNat 14 (128 * 0x6b + 1), 0x182), 0, before 0x6b, by decide +kernel⟩,
   ⟨st0, 0, inst (trec 0 0 0 false), (BitVec.ofNat 14 (128 * 0x6c + 1), 0x182), 0, before 0x6c, by decide +kernel⟩,
   ⟨st0, 0, inst (trec 0 0 0 false), (BitVec.ofNat 14 (128 * 0x6d + 1), 0x182), 0, before 0x6d, by decide +kernel⟩,
   ⟨st0, 0, inst (trec 0 0 0 false), (BitVec.ofNat 14 (128 * 0x6f + 1), 0x182), 0, before 0x6f, by decide +kernel⟩,
   ⟨st0, 0, inst (trec 0 0 0 false), (BitVec.ofNat 14 (128 * 0x70 + 1), 0x182), 0, before 0x70, by decide +kernel⟩,
   ⟨st0, 0, inst (trec 0 0 0 false), (BitVec.ofNat 14 (128 * 0x71 + 1), 0x182), 0, before 0x71, by decide +kernel⟩,
   ⟨st0, 0, inst (trec 0 0 0 false), (BitVec.ofNat 14 (128 * 0x72 + 1), 0x182), 0, before 0x72, by decide +kernel⟩,
   ⟨st0, 0, inst (trec 0 0 0 false), (BitVec.ofNat 14 (128 * 0x73 + 1), 0x182), 0, before 0x73, by decide +kernel⟩,
   ⟨st0, 0, inst (trec 0 0 0 false), (BitVec.ofNat 14 (128 * 0x74 + 1), 0x182), 0, before 0x74, by decide +kernel⟩,
   ⟨st0, 0, inst (trec 0 0 0 false), (BitVec.ofNat 14 (128 * 0x75 + 1), 0x182), 0, before 0x75, by decide +kernel⟩,
   ⟨st0, 0, inst (trec 0 0 0 false), (BitVec.ofNat 14 (128 * 0x76 + 1), 0x182), 0, before 0x76, by decide +kernel⟩⟩

theorem meets_alu_triggers_set_result_and_flags : ∃ (c : Instr) (u : StallId) (n : Nat) (f : Fin 4) (i : Inst) (b : MoveWord × MoveWord) (cyc : Nat) (s : State),
    triggerRow c = some (u, n) ∧
    0x21 ≤ n ∧
    n ≤ 0x2F ∧
    ready s u = some (f, i, b, cyc) ∧
    onlyTrigger u i b cyc n s = true :=
  ⟨.aluAdc st0, st0, 0x22, 0, inst (trec 0 0 0 false), (BitVec.ofNat 14 (128 * 0x22 + 1), 0x182), 0, before 0x22,
      by decide +kernel⟩

theorem meets_mac_triggers_accumulate_the_product : ∃ (c : Instr) (u : StallId) (n : Nat) (f : Fin 4) (i : Inst) (b : MoveWord × MoveWord) (cyc : Nat) (s : State),
    triggerRow c = some (u, n) ∧
    0x31 ≤ n ∧
    n ≤ 0x33 ∧
    ready s u = some (f, i, b, cyc) ∧
    onlyTrigger u i b cyc n s = true :=
  ⟨.macMsu st0, st0, 0x33, 0, inst (trec 0 0 0 false), (BitVec.ofNat 14 (128 * 0x33 + 1), 0x182), 0, before 0x33,
      by decide +kernel⟩

theorem meets_check_triggers_give_their_results : ∃ (c : Instr) (u : StallId) (n : Nat) (f : Fin 4) (i : Inst) (b : MoveWord × MoveWord) (cyc : Nat) (s : State),
    triggerRow c = some (u, n) ∧
    0x3B ≤ n ∧
    n ≤ 0x3D ∧
    ready s u = some (f, i, b, cyc) ∧
    onlyTrigger u i b cyc n s = true :=
  ⟨.chkStep st0, st0, 0x3b, 0, inst (trec 0 0 0 false), (BitVec.ofNat 14 (128 * 0x3b + 1), 0x182), 0, before 0x3b,
      by decide +kernel⟩

theorem meets_arithmetic_triggers_leave_the_rest :
  (∃ (c : Instr) (u : StallId) (n : Nat) (f : Fin 4) (i : Inst) (b : MoveWord × MoveWord) (cyc : Nat) (s t : State) (v : StallId),
    triggerRow c = some (u, n) ∧ 0x21 ≤ n ∧ n ≤ 0x3D ∧ ready s u = some (f, i, b, cyc) ∧ onlyTrigger u i b cyc n s = true ∧
    exec c s = .next t ∧ (∀ k : Nat, i.steps = some k → 2 ≤ k) ∧ v ≠ u ∧ n ≤ 0x2F ∧
    (∀ d : Nat, d ∈ [31, 0x20, 0x30, 0x34, 0x35, 0x36, 0x37, 0x38, 0x39, 0x3A, 0x40, 0x41, 0x42, 0x43, 0x4C, 0x4D, 0x4E, 0x4F,
      0x50,
      0x58, 0x59, 0x5A, 0x5B, 0x60, 0x61, 0x6A, 0x6E, 0x77] → dstOf b.1 ≠ d ∧ dstOf b.2 ≠ d) ∧
    (∀ k : Fin 4, srcOf b.1 ≠ 0x29 + 2 * k.val ∧ srcOf b.2 ≠ 0x29 + 2 * k.val) ∧ (stall s u).ctx.rptState.getLsbD 0 = false) ∧
  (∃ (c : Instr) (u : StallId) (n : Nat) (f : Fin 4) (i : Inst) (b : MoveWord × MoveWord) (cyc : Nat) (s t : State),
    triggerRow c = some (u, n) ∧ 0x21 ≤ n ∧ n ≤ 0x3D ∧ ready s u = some (f, i, b, cyc) ∧ onlyTrigger u i b cyc n s = true ∧
    exec c s = .next t ∧ 0x31 ≤ n ∧ n ≠ 0x3B ∧ n ≠ 0x3C ∧ n ≠ 0x3D) :=
  ⟨⟨.aluAdc st0, st0, 0x22, 0, inst (trec 0 0 0 false), (BitVec.ofNat 14 (128 * 0x22 + 1), 0x182), 0, before 0x22, _, ⟨3, 4⟩, rfl,
    by decide, by decide, by decide +kernel, by decide +kernel, rfl,
    (by intro k hk; cases hk), by decide, by decide, by decide, by decide, by decide +kernel⟩,
   ⟨.macMsu st0, st0, 0x33, 0, inst (trec 0 0 0 false), (BitVec.ofNat 14 (128 * 0x33 + 1), 0x182), 0, before 0x33, _, rfl,
    by decide, by decide, by decide +kernel, by decide +kernel, rfl, by decide, by decide, by decide, by decide⟩⟩

theorem meets_requested_results_arrive :
  (∃ (u : StallId) (f : Fin 4) (i : Inst) (b : MoveWord × MoveWord) (cyc : Nat) (s : State) (c : Instr) (n : Nat) (w : Nat),
    ready s u = some (f, i, b, cyc) ∧ (
    let x (n : Nat) : Word := movedTo u i b cyc n s
    (c, n, w) ∈ [(Instr.ldW u, 0x51, 4), (.ldHu u, 0x52, 2), (.ldBu u, 0x53, 1)] ∧
    onlyTrigger u i b cyc n s = true ∧
    accessOdd i (alignTo w (x n).toNat) w = false)) ∧
  (∃ (u : StallId) (f : Fin 4) (i : Inst) (b : MoveWord × MoveWord) (cyc : Nat) (s : State) (c : Instr) (n : Nat) (w : Nat),
    ready s u = some (f, i, b, cyc) ∧ (
    let t := armed u f i b cyc s
    let m := (stall t u).ctx
    (c, n, w) ∈ [(Instr.stW u, 0x54, 4), (.stH u, 0x55, 2), (.stB u, 0x56, 1)] ∧
    onlyTrigger u i b cyc n s = true ∧
    accessOdd i (alignTo w m.lsAddr.toNat) w = false)) ∧
  (∃ (u : StallId) (f : Fin 4) (i : Inst) (b : MoveWord × MoveWord) (cyc : Nat) (s : State),
    ready s u = some (f, i, b, cyc) ∧ (
    let t := armed u f i b cyc s
    let x (n : Nat) : Word := movedTo u i b cyc n s
    onlyTrigger u i b cyc 0x57 s = true ∧
    alignTo 16 (x 0x57).toNat ≤ 0x3BF0 ∧ (
    let d := scratchBytes t u f (alignTo 16 (x 0x57).toNat) 16
    let src := alignTo 4 (fieldAt d 0 4)
    let dst := alignTo 4 (fieldAt d 4 4)
    let len := fieldAt d 8 2
    len % 4 = 0 ∧
    4 ≤ len ∧
    len ≤ 4096 ∧
    fieldAt d 10 6 = 0 ∧
    (src < 0x3C00 ∨ dst < 0x3C00)))) ∧
  (∃ (u : StallId) (f : Fin 4) (i : Inst) (b : MoveWord × MoveWord) (cyc : Nat) (s : State),
    ready s u = some (f, i, b, cyc) ∧
    onlyTrigger u i b cyc 0x62 s = true) ∧
  (∃ (u : StallId) (f : Fin 4) (i : Inst) (b : MoveWord × MoveWord) (cyc : Nat) (s : State),
    ready s u = some (f, i, b, cyc) ∧
    onlyTrigger u i b cyc 0x63 s = true) ∧
  (∃ (u : StallId) (f : Fin 4) (i : Inst) (b : MoveWord × MoveWord) (cyc : Nat) (s : State),
    ready s u = some (f, i, b, cyc) ∧ (
    let t := armed u f i b cyc s
    onlyTrigger u i b cyc 0x64 s = true ∧
    selOut t u = true)) ∧
  (∃ (u : StallId) (f : Fin 4) (i : Inst) (b : MoveWord × MoveWord) (cyc : Nat) (s : State),
    ready s u = some (f, i, b, cyc) ∧ (
    let t := armed u f i b cyc s
    onlyTrigger u i b cyc 0x65 s = true ∧
    selOut t u = true)) ∧
  (∃ (u : StallId) (f : Fin 4) (i : Inst) (b : MoveWord × MoveWord) (cyc : Nat) (s : State),
    ready s u = some (f, i, b, cyc) ∧
    onlyTrigger u i b cyc 0x66 s = true) ∧
  (∃ (u : StallId) (f : Fin 4) (i : Inst) (q : LoadReq) (l : List LoadReq) (s : State),
    slotOf s u f = some i ∧
    i.loads = q :: l ∧
    (stall s u).running = some f ∧
    i.endPending = false) ∧
  (∃ (u : StallId) (f : Fin 4) (i : Inst) (v : Word) (g : Tag) (s : State),
    slotOf s u f = some i ∧
    i.endPending = false ∧
    (stall s u).running = some f ∧
    (barn s u.barn).returns = [(u, f, v, g)]) ∧
  (∃ (u : StallId) (f : Fin 4) (x : StaleRes) (kind : ResKind) (c : Instr) (s : State),
    (c, kind) ∈ [(Instr.loadResultArrive u f, ResKind.load), (.blockTransferComplete u f, .block), (.solverResultArrive u f,
      .solver)] ∧
    slotOf s u f = none ∧
    (stall s u).stale.find? (fun y => y.slot = f && y.kind = kind) = some x ∧
    (barn s u.barn).returns = []) ∧
  (∃ (u : StallId) (f : Fin 4) (i : Inst) (k : BlkReq) (r : State) (s : State),
    slotOf s u f = some i ∧
    i.blk = some k ∧
    i.fault = none ∧
    copyWords u f k.spoiled k.src.toNat k.dst.toNat (k.len / 4) { s with free := s.free + 1 } = (none, r)) ∧
  (∃ (u : StallId) (f : Fin 4) (i : Inst) (k : BlkReq) (r : State) (s : State) (q : Nat × Nat),
    slotOf s u f = some i ∧
    i.blk = some k ∧
    i.fault = none ∧
    copyWords u f k.spoiled k.src.toNat k.dst.toNat (k.len / 4) { s with free := s.free + 1 } = (some q, r)) ∧
  (∃ (u : StallId) (f : Fin 4) (i : Inst) (s : State),
    slotOf s u f = some i ∧
    i.phase = .running) ∧
  (∃ (u : StallId) (f : Fin 4) (i : Inst) (s : State),
    slotOf s u f = some i ∧
    i.phase = .preempted ∧
    i.fault = none) :=
  ⟨⟨st0, 0, inst (trec 0 0 0 false), (BitVec.ofNat 14 (128 * 0x51 + 1), 0x182), 0, before 0x51, .ldW st0, 0x51, 4,
      by decide +kernel⟩,
   ⟨st0, 0, inst (trec 0 0 0 false), (BitVec.ofNat 14 (128 * 0x54 + 1), 0x182), 0, before 0x54, .stW st0, 0x54, 4,
      by decide +kernel⟩,
   ⟨st0, 0, inst (trec 0 0 0 false), (BitVec.ofNat 14 (128 * 0x57 + 1), 0x182), 0,
      modStall st0 (fun x => { x with ctx := { x.ctx with gp := x.ctx.gp.set 1 0 }, mem := (List.range 16).map (fun k => (k, if k = 8 then 4 else 0)) }) (before 0x57), by decide +kernel⟩,
   ⟨st0, 0, inst (trec 0 0 0 false), (BitVec.ofNat 14 (128 * 0x62 + 1), 0x182), 0, before 0x62, by decide +kernel⟩,
   ⟨st0, 0, inst (trec 0 0 0 false), (BitVec.ofNat 14 (128 * 0x63 + 1), 0x182), 0, before 0x63, by decide +kernel⟩,
   ⟨st0, 0, inst (trec 0 0 0 false), (BitVec.ofNat 14 (128 * 0x64 + 1), 0x182), 0,
      modStall st0 (fun x => { x with ctx := { x.ctx with imgSel := 1, gp := x.ctx.gp.set 1 5 } }) (before 0x64),
      by decide +kernel⟩,
   ⟨st0, 0, inst (trec 0 0 0 false), (BitVec.ofNat 14 (128 * 0x65 + 1), 0x182), 0,
      modStall st0 (fun x => { x with ctx := { x.ctx with imgSel := 1, gp := x.ctx.gp.set 1 5 } }) (before 0x65),
      by decide +kernel⟩,
   ⟨st0, 0, inst (trec 0 0 0 false), (BitVec.ofNat 14 (128 * 0x66 + 1), 0x182), 0, before 0x66, by decide +kernel⟩,
   ⟨st0, 0, { inst (trec 0 0 0 false) with loads := [⟨⟨0, 0⟩, 4, 0x20, [], 0, true, true⟩, ⟨⟨0, 0⟩, 4, 0x20, [], 0, true, false⟩] }, ⟨⟨0, 0⟩, 4, 0x20, [], 0, true, true⟩, [⟨⟨0, 0⟩, 4, 0x20, [], 0, true, false⟩], withInst st0 { inst (trec 0 0 0 false) with loads := [⟨⟨0, 0⟩, 4, 0x20, [], 0, true, true⟩, ⟨⟨0, 0⟩, 4, 0x20, [], 0, true, false⟩] } Ctx.zero run, by decide +kernel⟩,
   ⟨st0, 0, { inst (trec 0 0 0 false) with solving := true }, 5, ⟨0, 0⟩,
      modBarn 0 (fun x => { x with returns := [(st0, 0, 5, ⟨0, 0⟩)] }) (withInst st0 { inst (trec 0 0 0 false) with solving := true } Ctx.zero run), by decide +kernel⟩,
   ⟨st0, 0, ⟨0, .block, 3, ⟨0, 0⟩⟩, .block, .blockTransferComplete st0 0,
      modStall st0 (fun x => { x with stale := [⟨0, .load, 2, ⟨0, 0⟩⟩, ⟨0, .block, 3, ⟨0, 0⟩⟩] }) run, by decide +kernel⟩,
   ⟨st0, 0, { inst (trec 0 0 0 false) with blk := some ⟨⟨0, 0⟩, 0x100, 0x200, 4, 0, false⟩ }, ⟨⟨0, 0⟩, 0x100, 0x200, 4, 0,
      false⟩, (copyWords st0 0 false 0x100 0x200 1 { withInst st0 { inst (trec 0 0 0 false) with blk := some ⟨⟨0, 0⟩, 0x100, 0x200, 4, 0, false⟩ } Ctx.zero run with free := 1 }).2, withInst st0 { inst (trec 0 0 0 false) with blk := some ⟨⟨0, 0⟩, 0x100, 0x200, 4, 0, false⟩ } Ctx.zero run, by decide +kernel, by decide +kernel, by decide +kernel, Prod.ext (by decide +kernel) rfl⟩,
   ⟨st0, 0, { inst (trec 0 0 0 false) with blk := some ⟨⟨0, 0⟩, 0x100, 0x80000000, 4, 0, false⟩ }, ⟨⟨0, 0⟩, 0x100, 0x80000000, 4,
      0, false⟩, (copyWords st0 0 false 0x100 0x80000000 1 { withInst st0 { inst (trec 0 0 0 false) with blk := some ⟨⟨0, 0⟩, 0x100, 0x80000000, 4, 0, false⟩ } Ctx.zero run with free := 1 }).2, withInst st0 { inst (trec 0 0 0 false) with blk := some ⟨⟨0, 0⟩, 0x100, 0x80000000, 4, 0, false⟩ } Ctx.zero run, ((copyWords st0 0 false 0x100 0x80000000 1 { withInst st0 { inst (trec 0 0 0 false) with blk := some ⟨⟨0, 0⟩, 0x100, 0x80000000, 4, 0, false⟩ } Ctx.zero run with free := 1 }).1).getD (0, 0), by decide +kernel, by decide +kernel, by decide +kernel, Prod.ext (by decide +kernel) rfl⟩,
   ⟨st0, 0, inst (trec 0 0 0 false), withInst st0 (inst (trec 0 0 0 false)) Ctx.zero run, by decide +kernel⟩,
   ⟨st0, 0, { inst (trec 0 0 0 false) with phase := .preempted },
      withInst st0 { inst (trec 0 0 0 false) with phase := .preempted } Ctx.zero run, by decide +kernel⟩⟩

theorem meets_stack_words_leave_their_stack :
  (∃ (b : Fin 4) (c : Call) (i : Inst) (l : List Bool) (s : State),
    c.stack.length ≤ 16 ∧
    c.stack = l ∧
    atWord s b c i 0xF 0x00 1) ∧
  (∃ (b : Fin 4) (c : Call) (i : Inst) (x : Bool) (l : List Bool) (s : State),
    c.stack.length ≤ 16 ∧
    c.stack = x :: l ∧
    l.length ≤ 14 ∧
    atWord s b c i 0xF 0x10 1) ∧
  (∃ (b : Fin 4) (c : Call) (i : Inst) (x : Bool) (l : List Bool) (s : State),
    c.stack.length ≤ 16 ∧
    c.stack = x :: l ∧
    atWord s b c i 0xF 0x11 1) ∧
  (∃ (b : Fin 4) (c : Call) (i : Inst) (x : Bool) (y : Bool) (l : List Bool) (s : State),
    c.stack.length ≤ 16 ∧
    c.stack = x :: y :: l ∧
    atWord s b c i 0xF 0x12 1) ∧
  (∃ (b : Fin 4) (c : Call) (i : Inst) (x : Bool) (l : List Bool) (s : State),
    c.stack.length ≤ 16 ∧
    c.stack = x :: l ∧
    atWord s b c i 0xF 0x13 1) ∧
  (∃ (b : Fin 4) (c : Call) (i : Inst) (x : Bool) (y : Bool) (l : List Bool) (s : State),
    c.stack.length ≤ 16 ∧
    c.stack = x :: y :: l ∧
    atWord s b c i 0xF 0x14 1) ∧
  (∃ (b : Fin 4) (c : Call) (i : Inst) (x : Bool) (y : Bool) (l : List Bool) (s : State),
    c.stack.length ≤ 16 ∧
    c.stack = x :: y :: l ∧
    atWord s b c i 0xF 0x15 1) ∧
  (∃ (b : Fin 4) (c : Call) (i : Inst) (x : Bool) (y : Bool) (l : List Bool) (s : State),
    c.stack.length ≤ 16 ∧
    c.stack = x :: y :: l ∧
    atWord s b c i 0xF 0x16 1) ∧
  (∃ (b : Fin 4) (c : Call) (i : Inst) (l : List Bool) (s : State),
    c.stack.length ≤ 16 ∧
    c.stack = l ∧
    l.length ≤ 15 ∧
    atWord s b c i 0xF 0x17 1) ∧
  (∃ (b : Fin 4) (c : Call) (i : Inst) (l : List Bool) (s : State),
    c.stack.length ≤ 16 ∧
    c.stack = l ∧
    l.length ≤ 15 ∧
    atWord s b c i 0xF 0x18 1) ∧
  (∃ (b : Fin 4) (c : Call) (i : Inst) (l : List Bool) (s : State),
    c.stack.length ≤ 16 ∧
    c.stack = l ∧
    atWord s b c i 0xF 0x19 1) ∧
  (∃ (b : Fin 4) (c : Call) (i : Inst) (w : Instr) (n : Nat) (s : State),
    atWord s b c i 0xF n 1 ∧
    (w, n) ∈ [(Instr.dup b, 0x10), (.pop b, 0x11), (.rungNot b, 0x13)] ∧
    c.stack = []) ∧
  (∃ (b : Fin 4) (c : Call) (i : Inst) (w : Instr) (n : Nat) (s : State),
    atWord s b c i 0xF n 1 ∧
    (w, n) ∈ [(Instr.swap b, 0x12), (.ands b, 0x14), (.ors b, 0x15), (.xors b, 0x16)] ∧
    c.stack.length ≤ 1) ∧
  (∃ (b : Fin 4) (c : Call) (i : Inst) (w : Instr) (n : Nat) (s : State),
    atWord s b c i 0xF n 1 ∧
    (w, n) ∈ [(Instr.dup b, 0x10), (.push0 b, 0x17), (.push1 b, 0x18)] ∧
    c.stack.length = 16) :=
  ⟨⟨0, call [], { inst (trec 0 0 0 false) with solving := true }, [], rung [0xF00] [], by decide +kernel, by decide +kernel,
      ⟨0xF00, by decide +kernel⟩⟩,
   ⟨0, call [true], { inst (trec 0 0 0 false) with solving := true }, true, [], rung [0xF10] [true], by decide +kernel,
      by decide +kernel, by decide +kernel, ⟨0xF10, by decide +kernel⟩⟩,
   ⟨0, call [true], { inst (trec 0 0 0 false) with solving := true }, true, [], rung [0xF11] [true], by decide +kernel,
      by decide +kernel, ⟨0xF11, by decide +kernel⟩⟩,
   ⟨0, call [true, false], { inst (trec 0 0 0 false) with solving := true }, true, false, [], rung [0xF12] [true, false],
      by decide +kernel, by decide +kernel, ⟨0xF12, by decide +kernel⟩⟩,
   ⟨0, call [true], { inst (trec 0 0 0 false) with solving := true }, true, [], rung [0xF13] [true], by decide +kernel,
      by decide +kernel, ⟨0xF13, by decide +kernel⟩⟩,
   ⟨0, call [true, false], { inst (trec 0 0 0 false) with solving := true }, true, false, [], rung [0xF14] [true, false],
      by decide +kernel, by decide +kernel, ⟨0xF14, by decide +kernel⟩⟩,
   ⟨0, call [true, false], { inst (trec 0 0 0 false) with solving := true }, true, false, [], rung [0xF15] [true, false],
      by decide +kernel, by decide +kernel, ⟨0xF15, by decide +kernel⟩⟩,
   ⟨0, call [true, false], { inst (trec 0 0 0 false) with solving := true }, true, false, [], rung [0xF16] [true, false],
      by decide +kernel, by decide +kernel, ⟨0xF16, by decide +kernel⟩⟩,
   ⟨0, call [], { inst (trec 0 0 0 false) with solving := true }, [], rung [0xF17] [], by decide +kernel, by decide +kernel,
      by decide +kernel, ⟨0xF17, by decide +kernel⟩⟩,
   ⟨0, call [], { inst (trec 0 0 0 false) with solving := true }, [], rung [0xF18] [], by decide +kernel, by decide +kernel,
      by decide +kernel, ⟨0xF18, by decide +kernel⟩⟩,
   ⟨0, call [], { inst (trec 0 0 0 false) with solving := true }, [], rung [0xF19] [], by decide +kernel, by decide +kernel,
      ⟨0xF19, by decide +kernel⟩⟩,
   ⟨0, call [], { inst (trec 0 0 0 false) with solving := true }, .pop 0, 0x11, rung [0xF11] [], ⟨0xF11, by decide +kernel⟩,
      by decide +kernel, by decide +kernel⟩,
   ⟨0, call [true], { inst (trec 0 0 0 false) with solving := true }, .xors 0, 0x16, rung [0xF16] [true], ⟨0xF16,
      by decide +kernel⟩, by decide +kernel, by decide +kernel⟩,
   ⟨0, call (List.replicate 16 true), { inst (trec 0 0 0 false) with solving := true }, .dup 0, 0x10,
      rung [0xF10] (List.replicate 16 true), ⟨0xF10, by decide +kernel⟩, by decide +kernel, by decide +kernel⟩⟩

theorem meets_reading_words_combine_their_bit :
  (∃ (b : Fin 4) (c : Call) (i : Inst) (n : Nat) (wait : BitVec 12) (l : List Bool) (s : State),
    c.stack.length ≤ 16 ∧ (
    let e := bitCost s b c i n wait
    c.stack = l ∧
    l.length ≤ 15 ∧
    atWord s b c i 0 n (1 + e.1))) ∧
  (∃ (b : Fin 4) (c : Call) (i : Inst) (n : Nat) (wait : BitVec 12) (l : List Bool) (s : State),
    c.stack.length ≤ 16 ∧ (
    let e := bitCost s b c i n wait
    c.stack = l ∧
    l.length ≤ 15 ∧
    atWord s b c i 1 n (1 + e.1))) ∧
  (∃ (b : Fin 4) (c : Call) (i : Inst) (n : Nat) (wait : BitVec 12) (x : Bool) (l : List Bool) (s : State),
    c.stack.length ≤ 16 ∧ (
    let e := bitCost s b c i n wait
    c.stack = x :: l ∧
    atWord s b c i 2 n (1 + e.1))) ∧
  (∃ (b : Fin 4) (c : Call) (i : Inst) (n : Nat) (wait : BitVec 12) (x : Bool) (l : List Bool) (s : State),
    c.stack.length ≤ 16 ∧ (
    let e := bitCost s b c i n wait
    c.stack = x :: l ∧
    atWord s b c i 3 n (1 + e.1))) ∧
  (∃ (b : Fin 4) (c : Call) (i : Inst) (n : Nat) (wait : BitVec 12) (x : Bool) (l : List Bool) (s : State),
    c.stack.length ≤ 16 ∧ (
    let e := bitCost s b c i n wait
    c.stack = x :: l ∧
    atWord s b c i 4 n (1 + e.1))) ∧
  (∃ (b : Fin 4) (c : Call) (i : Inst) (n : Nat) (wait : BitVec 12) (x : Bool) (l : List Bool) (s : State),
    c.stack.length ≤ 16 ∧ (
    let e := bitCost s b c i n wait
    c.stack = x :: l ∧
    atWord s b c i 5 n (1 + e.1))) ∧
  (∃ (b : Fin 4) (c : Call) (i : Inst) (n : Nat) (wait : BitVec 12) (x : Bool) (l : List Bool) (s : State),
    c.stack.length ≤ 16 ∧ (
    let e := bitCost s b c i n wait
    c.stack = x :: l ∧
    atWord s b c i 6 n (1 + e.1))) ∧
  (∃ (b : Fin 4) (c : Call) (i : Inst) (n : Nat) (wait : BitVec 12) (s : State) (w : Instr) (op : Nat),
    c.stack.length ≤ 16 ∧ (
    let e := bitCost s b c i n wait
    (w, op) ∈ [(Instr.ld b wait, 0), (.ldn b wait, 1)] ∧
    c.stack.length = 16 ∧
    atWord s b c i op n (1 + e.1))) ∧
  (∃ (b : Fin 4) (c : Call) (i : Inst) (n : Nat) (wait : BitVec 12) (s : State) (w : Instr) (op : Nat),
    c.stack.length ≤ 16 ∧ (
    let e := bitCost s b c i n wait
    (w, op) ∈ [(Instr.rungAnd b wait, 2), (.rungAndn b wait, 3), (.rungOr b wait, 4), (.rungOrn b wait, 5), (.rungXor b wait,
      6)] ∧
    c.stack = [] ∧
    atWord s b c i op n (1 + e.1))) :=
  ⟨⟨0, call [], { inst (trec 0 0 0 false) with solving := true }, 255, 0, [], rung [0x0FF] [], by decide +kernel,
      by decide +kernel, by decide +kernel, ⟨0x0FF, by decide +kernel⟩⟩,
   ⟨0, call [], { inst (trec 0 0 0 false) with solving := true }, 255, 0, [], rung [0x1FF] [], by decide +kernel,
      by decide +kernel, by decide +kernel, ⟨0x1FF, by decide +kernel⟩⟩,
   ⟨0, call [true], { inst (trec 0 0 0 false) with solving := true }, 255, 0, true, [], rung [0x2FF] [true], by decide +kernel,
      by decide +kernel, ⟨0x2FF, by decide +kernel⟩⟩,
   ⟨0, call [true], { inst (trec 0 0 0 false) with solving := true }, 255, 0, true, [], rung [0x3FF] [true], by decide +kernel,
      by decide +kernel, ⟨0x3FF, by decide +kernel⟩⟩,
   ⟨0, call [true], { inst (trec 0 0 0 false) with solving := true }, 255, 0, true, [], rung [0x4FF] [true], by decide +kernel,
      by decide +kernel, ⟨0x4FF, by decide +kernel⟩⟩,
   ⟨0, call [true], { inst (trec 0 0 0 false) with solving := true }, 255, 0, true, [], rung [0x5FF] [true], by decide +kernel,
      by decide +kernel, ⟨0x5FF, by decide +kernel⟩⟩,
   ⟨0, call [true], { inst (trec 0 0 0 false) with solving := true }, 255, 0, true, [], rung [0x6FF] [true], by decide +kernel,
      by decide +kernel, ⟨0x6FF, by decide +kernel⟩⟩,
   ⟨0, call (List.replicate 16 true), { inst (trec 0 0 0 false) with solving := true }, 255, 0,
      rung [0x0FF] (List.replicate 16 true), .ld 0 0, 0, by decide +kernel, by decide +kernel, by decide +kernel, ⟨0x0FF,
      by decide +kernel⟩⟩,
   ⟨0, call [], { inst (trec 0 0 0 false) with solving := true }, 255, 0, rung [0x2FF] [], .rungAnd 0 0, 2, by decide +kernel,
      by decide +kernel, by decide +kernel, ⟨0x2FF, by decide +kernel⟩⟩⟩

theorem meets_writing_words_store_their_bit :
  (∃ (b : Fin 4) (c : Call) (i : Inst) (n : Nat) (k : Nat) (wait : BitVec 12) (x : Bool) (l : List Bool) (r : State) (s : State),
    c.stack = x :: l ∧
    bitKey c i n = some k ∧ (
    let e := bitCost s b c i n wait
    atWord s b c i 7 n (1 + e.1) ∧
    writeBit c i n x s = (none, r))) ∧
  (∃ (b : Fin 4) (c : Call) (i : Inst) (n : Nat) (k : Nat) (wait : BitVec 12) (x : Bool) (l : List Bool) (r : State) (s : State),
    c.stack = x :: l ∧
    bitKey c i n = some k ∧ (
    let e := bitCost s b c i n wait
    atWord s b c i 8 n (1 + e.1) ∧
    writeBit c i n (!x) s = (none, r))) ∧
  (∃ (b : Fin 4) (c : Call) (i : Inst) (n : Nat) (k : Nat) (wait : BitVec 12) (x : Bool) (l : List Bool) (r : State) (s : State),
    c.stack = x :: l ∧
    bitKey c i n = some k ∧ (
    let e := bitCost s b c i n wait
    let old := (readByte s.commit i k).getLsbD (windowBit c n % 8)
    atWord s b c i 9 n (1 + e.1) ∧
    writeBit c i n (x || old) s = (none, r))) ∧
  (∃ (b : Fin 4) (c : Call) (i : Inst) (n : Nat) (k : Nat) (wait : BitVec 12) (x : Bool) (l : List Bool) (r : State) (s : State),
    c.stack = x :: l ∧
    bitKey c i n = some k ∧ (
    let e := bitCost s b c i n wait
    let old := (readByte s.commit i k).getLsbD (windowBit c n % 8)
    atWord s b c i 10 n (1 + e.1) ∧
    writeBit c i n (!x && old) s = (none, r))) ∧
  (∃ (b : Fin 4) (c : Call) (i : Inst) (n : Nat) (k : Nat) (wait : BitVec 12) (x : Bool) (l : List Bool) (r : State) (s : State),
    c.stack = x :: l ∧
    bitKey c i n = some k ∧ (
    let e := bitCost s b c i n wait
    atWord s b c i 11 n (1 + e.1) ∧
    writeBit c i n x s = (none, r))) ∧
  (∃ (b : Fin 4) (c : Call) (i : Inst) (n : Nat) (k : Nat) (wait : BitVec 12) (x : Bool) (l : List Bool) (r : State) (s : State),
    c.stack = x :: l ∧
    bitKey c i n = some k ∧ (
    let e := bitCost s b c i n wait
    atWord s b c i 12 n (1 + e.1) ∧
    writeBit c i n x s = (none, r))) ∧
  (∃ (b : Fin 4) (c : Call) (i : Inst) (n : Nat) (k : Nat) (wait : BitVec 12) (x : Bool) (l : List Bool) (r : State) (s : State) (w : Instr) (op : Nat) (v : Bool) (q : Nat × Nat),
    c.stack = x :: l ∧
    bitKey c i n = some k ∧ (
    let e := bitCost s b c i n wait
    let old := (readByte s.commit i k).getLsbD (windowBit c n % 8)
    (w, op, v) ∈ [(Instr.st b wait, 7, x), (.stn b wait, 8, !x), (.rungSet b wait, 9, x || old), (.rst b wait, 10, !x && old),
      (.rise b wait, 11, x), (.fall b wait, 12, x)] ∧
    atWord s b c i op n (1 + e.1) ∧
    writeBit c i n v s = (some q, r))) ∧
  (∃ (b : Fin 4) (c : Call) (i : Inst) (n : Nat) (wait : BitVec 12) (w : Instr) (op : Nat) (s : State),
    (w, op) ∈ [(Instr.st b wait, 7), (.stn b wait, 8), (.rungSet b wait, 9), (.rst b wait, 10), (.rise b wait, 11),
      (.fall b wait, 12)] ∧
    atWord s b c i op n (1 + (bitCost s b c i n wait).1) ∧
    c.stack = []) ∧
  (∃ (b : Fin 4) (c : Call) (i : Inst) (n : Nat) (wait : BitVec 12) (w : Instr) (op : Nat) (s : State),
    (w, op) ∈ [(Instr.st b wait, 7), (.stn b wait, 8), (.rungSet b wait, 9), (.rst b wait, 10), (.rise b wait, 11),
      (.fall b wait, 12)] ∧
    atWord s b c i op n (1 + (bitCost s b c i n wait).1) ∧
    c.stack ≠ [] ∧
    bitKey c i n = none) ∧
  (∃ (u : StallId) (f : Fin 4) (i : Inst) (s : State),
    slotOf s u f = some i ∧
    i.phase = .running) :=
  ⟨⟨0, call [true], { inst (trec 0 0 0 false) with solving := true }, 5, privKey 0 privBase, 0, true, [],
      (writeBit (call [true]) ({ inst (trec 0 0 0 false) with solving := true }) 5 true (rung [0x705] [true])).2,
      rung [0x705] [true], by decide +kernel, by decide +kernel, ⟨0x705, by decide +kernel⟩, Prod.ext (by decide +kernel) rfl⟩,
   ⟨0, call [true], { inst (trec 0 0 0 false) with solving := true }, 5, privKey 0 privBase, 0, true, [],
      (writeBit (call [true]) ({ inst (trec 0 0 0 false) with solving := true }) 5 false (rung [0x805] [true])).2,
      rung [0x805] [true], by decide +kernel, by decide +kernel, ⟨0x805, by decide +kernel⟩, Prod.ext (by decide +kernel) rfl⟩,
   ⟨0, call [true], { inst (trec 0 0 0 false) with solving := true }, 5, privKey 0 privBase, 0, true, [],
      (writeBit (call [true]) ({ inst (trec 0 0 0 false) with solving := true }) 5 true (rung [0x905] [true])).2,
      rung [0x905] [true], by decide +kernel, by decide +kernel, ⟨0x905, by decide +kernel⟩, Prod.ext (by decide +kernel) rfl⟩,
   ⟨0, call [true], { inst (trec 0 0 0 false) with solving := true }, 5, privKey 0 privBase, 0, true, [],
      (writeBit (call [true]) ({ inst (trec 0 0 0 false) with solving := true }) 5 false (rung [0xA05] [true])).2,
      rung [0xA05] [true], by decide +kernel, by decide +kernel, ⟨0xA05, by decide +kernel⟩, Prod.ext (by decide +kernel) rfl⟩,
   ⟨0, call [true], { inst (trec 0 0 0 false) with solving := true }, 5, privKey 0 privBase, 0, true, [],
      (writeBit (call [true]) ({ inst (trec 0 0 0 false) with solving := true }) 5 true (rung [0xB05] [true])).2,
      rung [0xB05] [true], by decide +kernel, by decide +kernel, ⟨0xB05, by decide +kernel⟩, Prod.ext (by decide +kernel) rfl⟩,
   ⟨0, call [true], { inst (trec 0 0 0 false) with solving := true }, 5, privKey 0 privBase, 0, true, [],
      (writeBit (call [true]) ({ inst (trec 0 0 0 false) with solving := true }) 5 true (rung [0xC05] [true])).2,
      rung [0xC05] [true], by decide +kernel, by decide +kernel, ⟨0xC05, by decide +kernel⟩, Prod.ext (by decide +kernel) rfl⟩,
   ⟨0, { call [true] with region := 2 }, { inst (trec 0 0 0 false) with solving := true, covers := [(64, 5, 1)] }, 5, outBase 0,
      0, true, [], (writeBit { call [true] with region := 2 } ({ inst (trec 0 0 0 false) with solving := true, covers := [(64, 5, 1)] }) 5 true (modInst st0 0 (fun i => { i with covers := [(64, 5, 1)] })
      (modBarn 0 (fun x => { x with run := some { call [true] with region := 2 } }) (rung [0x705] [true])))).2,
      modInst st0 0 (fun i => { i with covers := [(64, 5, 1)] })
      (modBarn 0 (fun x => { x with run := some { call [true] with region := 2 } }) (rung [0x705] [true])), .st 0 0, 7, true,
      ((writeBit { call [true] with region := 2 } ({ inst (trec 0 0 0 false) with solving := true, covers := [(64, 5, 1)] }) 5 true (modInst st0 0 (fun i => { i with covers := [(64, 5, 1)] })
      (modBarn 0 (fun x => { x with run := some { call [true] with region := 2 } }) (rung [0x705] [true])))).1).getD (0, 0),
      by decide +kernel, by decide +kernel, by decide +kernel, ⟨0x705, by decide +kernel⟩,
      Prod.ext (some_getD (by decide +kernel)) rfl⟩,
   ⟨0, call [], { inst (trec 0 0 0 false) with solving := true }, 5, 0, .fall 0 0, 12, rung [0xC05] [], by decide +kernel,
      ⟨0xC05, by decide +kernel⟩, by decide +kernel⟩,
   ⟨0, { call [true] with region := 1 }, { inst (trec 0 0 0 false) with solving := true }, 5, 0, .st 0 0, 7,
      modBarn 0 (fun x => { x with run := some { call [true] with region := 1 } }) (rung [0x705] [true]), by decide +kernel,
      ⟨0x705, by decide +kernel⟩, by decide +kernel, by decide +kernel⟩,
   ⟨st0, 0, inst (trec 0 0 0 false), withInst st0 (inst (trec 0 0 0 false)) Ctx.zero run, by decide +kernel⟩⟩

theorem meets_windows_jumps_and_ends_of_calls :
  (∃ (b : Fin 4) (c : Call) (i : Inst) (s : State) (rg : Nat),
    let next := (solverWord s.proj i.bank (c.pc.toNat + 1)).toNat
    rg < 3 ∧
    next ≤ (if rg = 0 then 2047 else 127) ∧
    atWord s b c i 0xD (64 * rg) 2) ∧
  (∃ (b : Fin 4) (c : Call) (i : Inst) (s : State),
    let next := (solverWord s.proj i.bank (c.pc.toNat + 1)).toNat
    next ≤ 7 ∧
    atWord s b c i 0xD 192 2) ∧
  (∃ (b : Fin 4) (c : Call) (i : Inst) (s : State),
    atWord s b c i 0xF 4 3) ∧
  (∃ (b : Fin 4) (c : Call) (i : Inst) (x : Bool) (l : List Bool) (s : State),
    c.stack = x :: l ∧
    atWord s b c i 0xF 5 (if x then 3 else 2)) ∧
  (∃ (b : Fin 4) (c : Call) (i : Inst) (x : Bool) (l : List Bool) (s : State),
    c.stack = x :: l ∧
    atWord s b c i 0xF 6 (if x then 2 else 3)) ∧
  (∃ (b : Fin 4) (c : Call) (i : Inst) (s : State),
    atWord s b c i 0xF 1 1) ∧
  (∃ (b : Fin 4) (c : Call) (i : Inst) (x : Bool) (l : List Bool) (s : State),
    c.stack = x :: l ∧
    atWord s b c i 0xF 2 1) ∧
  (∃ (b : Fin 4) (c : Call) (i : Inst) (x : Bool) (l : List Bool) (s : State),
    c.stack = x :: l ∧
    atWord s b c i 0xF 3 1) :=
  ⟨⟨0, call [], { inst (trec 0 0 0 false) with solving := true }, rung [0xD80, 0x07F] [], 2, by decide +kernel,
      by decide +kernel, ⟨0xD80, by decide +kernel⟩⟩,
   ⟨0, call [], { inst (trec 0 0 0 false) with solving := true }, rung [0xDC0, 0x007] [], by decide +kernel, ⟨0xDC0,
      by decide +kernel⟩⟩,
   ⟨0, call [], { inst (trec 0 0 0 false) with solving := true }, rung [0xF04, 0xFFE] [], ⟨0xF04, by decide +kernel⟩⟩,
   ⟨0, call [true], { inst (trec 0 0 0 false) with solving := true }, true, [], rung [0xF05, 0xFFE] [true], by decide +kernel,
      ⟨0xF05, by decide +kernel⟩⟩,
   ⟨0, call [true], { inst (trec 0 0 0 false) with solving := true }, true, [], rung [0xF06, 0xFFE] [true], by decide +kernel,
      ⟨0xF06, by decide +kernel⟩⟩,
   ⟨0, call [], { inst (trec 0 0 0 false) with solving := true }, rung [0xF01, 0x000] [], ⟨0xF01, by decide +kernel⟩⟩,
   ⟨0, call [true], { inst (trec 0 0 0 false) with solving := true }, true, [], rung [0xF02, 0x000] [true], by decide +kernel,
      ⟨0xF02, by decide +kernel⟩⟩,
   ⟨0, call [true], { inst (trec 0 0 0 false) with solving := true }, true, [], rung [0xF03, 0x000] [true], by decide +kernel,
      ⟨0xF03, by decide +kernel⟩⟩⟩

theorem meets_solver_calls_begin_and_end :
  (∃ (b : Fin 4) (c : Call) (q : List Call) (s : State),
    (barn s b).run = none ∧
    (barn s b).queue = c :: q ∧
    (barn s b).solverOut = false ∧
    (barn s b).solverOn = true ∧
    alive s = true) ∧
  (∃ (b : Fin 4) (c : Call) (i : Inst) (n : Nat) (s : State),
    atWord s b c i 0xF n 1 ∧
    extListed n = false) ∧
  (∃ (b : Fin 4) (c : Call) (i : Inst) (w : RungWord) (s : State),
    rungAt s b = some (c, i, w) ∧
    alive s = true ∧
    32768 < c.cycles + wordCost s b c i w) :=
  ⟨⟨0, call [], [], modBarn 0 (fun x => { x with queue := [call []] }) run, by decide +kernel⟩,
   ⟨0, call [], { inst (trec 0 0 0 false) with solving := true }, 0x80, rung [0xF80] [], ⟨0xF80, by decide +kernel⟩,
      by decide +kernel⟩,
   ⟨0, { call [] with cycles := 32768 }, { inst (trec 0 0 0 false) with solving := true }, 0xF10,
      modBarn 0 (fun x => { x with run := some { call [] with cycles := 32768 } }) (rung [0xF10] []), by decide +kernel⟩⟩

theorem meets_tmr_evaluates_its_record :
  (∃ (b : Fin 4) (c : Call) (i : Inst) (n : Nat) (wait : BitVec 12) (s : State),
    let off := 8192 * c.area + 32 * n
    i.record.rungSize < off + 32 ∧
    atWord s b c i 0xE n (4 + (lineCost s b c none wait).1)) ∧
  (∃ (b : Fin 4) (c : Call) (i : Inst) (n : Nat) (wait : BitVec 12) (s : State),
    let off := 8192 * c.area + 32 * n
    let key := privKey i.task (privBase + off)
    let e := lineCost s b c (some key) wait
    let old := readBytes s.commit i key 32
    let kind := bitsOf (fieldAt old 0 1) 3 0
    off + 32 ≤ i.record.rungSize ∧
    atWord s b c i 0xE n (4 + e.1) ∧
    (kind = 0 ∨ 6 < kind)) ∧
  (∃ (b : Fin 4) (c : Call) (i : Inst) (n : Nat) (wait : BitVec 12) (s : State),
    let off := 8192 * c.area + 32 * n
    let key := privKey i.task (privBase + off)
    let e := lineCost s b c (some key) wait
    let old := readBytes s.commit i key 32
    let kind := bitsOf (fieldAt old 0 1) 3 0
    off + 32 ≤ i.record.rungSize ∧
    atWord s b c i 0xE n (4 + e.1) ∧
    1 ≤ kind ∧
    kind ≤ 6 ∧
    evalRecord i.relTime old c.stack = none) ∧
  (∃ (b : Fin 4) (c : Call) (i : Inst) (n : Nat) (wait : BitVec 12) (s : State) (new : Bytes) (stack : List Bool),
    let off := 8192 * c.area + 32 * n
    let key := privKey i.task (privBase + off)
    let e := lineCost s b c (some key) wait
    let old := readBytes s.commit i key 32
    let kind := bitsOf (fieldAt old 0 1) 3 0
    off + 32 ≤ i.record.rungSize ∧
    atWord s b c i 0xE n (4 + e.1) ∧
    1 ≤ kind ∧
    kind ≤ 6 ∧
    evalRecord i.relTime old c.stack = some (new, stack) ∧
    new = old) ∧
  (∃ (b : Fin 4) (c : Call) (i : Inst) (n : Nat) (wait : BitVec 12) (s : State) (new : Bytes) (stack : List Bool) (s2 : State),
    let off := 8192 * c.area + 32 * n
    let key := privKey i.task (privBase + off)
    let e := lineCost s b c (some key) wait
    let old := readBytes s.commit i key 32
    let s1 := noteRead c.stall c.slot i.wb key 32 s
    let kind := bitsOf (fieldAt old 0 1) 3 0
    off + 32 ≤ i.record.rungSize ∧
    atWord s b c i 0xE n (4 + e.1) ∧
    1 ≤ kind ∧
    kind ≤ 6 ∧
    evalRecord i.relTime old c.stack = some (new, stack) ∧
    new ≠ old ∧
    bufferWrite c.stall c.slot key new s1 = some s2) ∧
  (∃ (b : Fin 4) (c : Call) (i : Inst) (n : Nat) (wait : BitVec 12) (s : State) (new : Bytes) (stack : List Bool),
    let off := 8192 * c.area + 32 * n
    let key := privKey i.task (privBase + off)
    let e := lineCost s b c (some key) wait
    let old := readBytes s.commit i key 32
    let s1 := noteRead c.stall c.slot i.wb key 32 s
    let kind := bitsOf (fieldAt old 0 1) 3 0
    off + 32 ≤ i.record.rungSize ∧
    atWord s b c i 0xE n (4 + e.1) ∧
    1 ≤ kind ∧
    kind ≤ 6 ∧
    evalRecord i.relTime old c.stack = some (new, stack) ∧
    new ≠ old ∧
    bufferWrite c.stall c.slot key new s1 = none) ∧
  (∃ (rec : Bytes),
    let kind := bitsOf (fieldAt rec 0 1) 3 0
    kind ≤ 3) ∧
  (∃ (rec : Bytes),
    let kind := bitsOf (fieldAt rec 0 1) 3 0
    kind = 4) ∧
  (∃ (rec : Bytes),
    let kind := bitsOf (fieldAt rec 0 1) 3 0
    kind = 5) ∧
  (∃ (rec : Bytes),
    let kind := bitsOf (fieldAt rec 0 1) 3 0
    kind = 6) ∧
  (∃ (t : Nat) (x : Timer),
    t < 2 ^ 64 ∧ (
    let gone := (t + 2 ^ 64 - x.start) % 2 ^ 64
    x.on = true ∧
    x.pt ≤ gone)) ∧
  (∃ (t : Nat) (x : Timer),
    t < 2 ^ 64 ∧ (
    let gone := (t + 2 ^ 64 - x.start) % 2 ^ 64
    x.on = true ∧
    gone < x.pt)) ∧
  (∃ (t : Nat) (x : Timer),
    t < 2 ^ 64 ∧
    x.on = false ∧
    x.prev = false) ∧
  (∃ (t : Nat) (x : Timer),
    t < 2 ^ 64 ∧
    x.on = false) ∧
  (∃ (t : Nat) (x : Timer),
    t < 2 ^ 64 ∧
    x.on = false ∧
    x.prev = true) ∧
  (∃ (t : Nat),
    t < 2 ^ 64) ∧
  (∃ (t : Nat) (x : Timer),
    t < 2 ^ 64 ∧
    x.on = false ∧
    x.q = false) ∧
  (∃ (t : Nat) (x : Timer),
    t < 2 ^ 64 ∧
    x.on = false ∧
    x.q = true) ∧
  (∃ (k : Nat),
    k ∈ [4, 5, 6]) ∧
  (∃ (k : Nat) (x : Counter),
    k ∈ [4, 5, 6] ∧
    -(2 ^ 31) ≤ x.cv ∧
    x.cv < 2 ^ 31 ∧
    -(2 ^ 31) ≤ x.pv ∧
    x.pv < 2 ^ 31) ∧
  (∃ (k : Nat),
    k ∈ [4, 5, 6] ∧
    k = 4) ∧
  (∃ (k : Nat),
    k ∈ [4, 5, 6] ∧
    k = 5) ∧
  (∃ (k : Nat),
    k ∈ [4, 5, 6] ∧
    k = 6) :=
  ⟨⟨0, { call [true] with area := 1 }, tmrInst, 0, 0,
      modBarn 0 (fun x => { x with run := some { call [true] with area := 1 } }) (tmrRung [true]), by decide +kernel, ⟨0xE00,
      by decide +kernel⟩⟩,
   ⟨0, call [true], { tmrInst with wb := [] }, 0, 0, withInst st0 { tmrInst with wb := [] } Ctx.zero (rung [0xE00] [true]),
      by decide +kernel, ⟨0xE00, by decide +kernel⟩, by decide +kernel⟩,
   ⟨0, call [], tmrInst, 0, 0, tmrRung [], by decide +kernel, ⟨0xE00, by decide +kernel⟩, by decide +kernel, by decide +kernel,
      by decide +kernel⟩,
   ⟨0, call [false], tmrInst, 0, 0, tmrRung [false],
      ((evalRecord tmrInst.relTime (readBytes (tmrRung [false]).commit tmrInst (privKey 0 privBase) 32) [false]).getD ([],
      [])).1, ((evalRecord tmrInst.relTime (readBytes (tmrRung [false]).commit tmrInst (privKey 0 privBase) 32) [false]).getD ([], [])).2, by decide +kernel, ⟨0xE00, by decide +kernel⟩, by decide +kernel, by decide +kernel, by decide +kernel, by decide +kernel⟩,
   ⟨0, call [true], tmrInst, 0, 0, tmrRung [true],
      ((evalRecord tmrInst.relTime (readBytes (tmrRung [true]).commit tmrInst (privKey 0 privBase) 32) [true]).getD ([], [])).1,
      ((evalRecord tmrInst.relTime (readBytes (tmrRung [true]).commit tmrInst (privKey 0 privBase) 32) [true]).getD ([], [])).2,
      (bufferWrite st0 0 (privKey 0 privBase) ((evalRecord tmrInst.relTime (readBytes (tmrRung [true]).commit tmrInst (privKey 0 privBase) 32) [true]).getD ([], [])).1
    (noteRead st0 0 tmrInst.wb (privKey 0 privBase) 32 (tmrRung [true]))).getD run, by decide +kernel, ⟨0xE00,
      by decide +kernel⟩, by decide +kernel, by decide +kernel, by decide +kernel, by decide +kernel, by decide +kernel⟩,
   ⟨0, call [true], fullInst, 0, 0, tmrFull,
      ((evalRecord tmrInst.relTime (readBytes tmrFull.commit fullInst (privKey 0 privBase) 32) [true]).getD ([], [])).1,
      ((evalRecord tmrInst.relTime (readBytes tmrFull.commit fullInst (privKey 0 privBase) 32) [true]).getD ([], [])).2,
      by decide +kernel, ⟨0xE00, by decide +kernel⟩, by decide +kernel, by decide +kernel, by decide +kernel, by decide +kernel,
      by decide +kernel⟩,
   ⟨mkBlock 32 [(0, 1, 3), (4, 4, 100)], by decide +kernel⟩,
   ⟨mkBlock 32 [(0, 1, 4), (4, 4, 9)], by decide +kernel⟩,
   ⟨mkBlock 32 [(0, 1, 5), (4, 4, 9)], by decide +kernel⟩,
   ⟨mkBlock 32 [(0, 1, 6), (4, 4, 9)], by decide +kernel⟩,
   ⟨2 ^ 64 - 1, ⟨true, true, true, 100, 0, 2 ^ 64 - 101⟩, by decide +kernel⟩,
   ⟨3, ⟨false, true, true, 100, 0, 2 ^ 64 - 96⟩, by decide +kernel⟩,
   ⟨9, ⟨false, false, false, 100, 0, 0⟩, by decide +kernel⟩,
   ⟨9, ⟨true, true, false, 0, 7, 0⟩, by decide +kernel⟩,
   ⟨9, ⟨true, true, false, 100, 7, 0⟩, by decide +kernel⟩,
   ⟨9, by decide +kernel⟩,
   ⟨9, ⟨false, true, false, 100, 7, 0⟩, by decide +kernel⟩,
   ⟨9, ⟨true, true, false, 100, 7, 0⟩, by decide +kernel⟩,
   ⟨6, by decide +kernel⟩,
   ⟨5, ⟨false, false, false, false, 5, -(2 ^ 31)⟩, by decide +kernel⟩,
   ⟨4, by decide +kernel⟩,
   ⟨5, by decide +kernel⟩,
   ⟨6, by decide +kernel⟩⟩

theorem meets_commits_number_write_sets :
  (∃ (p : Present) (l : List Present) (i : Inst) (s : State),
    s.commit.presented = p :: l ∧
    slotOf s p.stall p.slot = some i ∧
    i.phase = .ending ∧
    i.record.attr.paired = false ∧
    s.commit.stopped = false ∧
    alive s = true) ∧
  (∃ (t : BitVec 7) (a : Inst) (b : Inst) (since : Nat) (s : State),
    bothCopies s t = some (a, b) ∧
    a.phase = .ending ∧
    b.phase = .ending ∧
    s.commit.stopped = false ∧
    alive s = true ∧
    signature a = signature b ∧
    differingLine a b = none ∧
    pairFirst s t = some since) ∧
  (∃ (t : BitVec 7) (a : Inst) (b : Inst) (s : State),
    bothCopies s t = some (a, b) ∧
    a.phase = .ending ∧
    b.phase = .ending ∧
    s.commit.stopped = false ∧
    alive s = true ∧
    (signature a ≠ signature b ∨ differingLine a b ≠ none)) ∧
  (∃ (t : BitVec 7) (r : Release) (due : Nat) (s : State),
    (task s t).inst = some r ∧
    r.pairDue = some due ∧
    pairLate s t = true ∧
    alive s = true) ∧
  (∃ (t : BitVec 7) (s : State),
    s.pair.handover = some (some t)) :=
  ⟨⟨⟨st0, 0, 0, 0⟩, [], { inst (trec 0 0 0 false) with phase := .ending },
      { withInst st0 { inst (trec 0 0 0 false) with phase := .ending } Ctx.zero run with commit := { run.commit with presented := [⟨st0, 0, 0, 0⟩] } }, by decide +kernel⟩,
   ⟨1, { inst (trec 1 0 0 true) with phase := .ending }, { inst (trec 1 0 0 true) with copyB := true, phase := .ending }, 0,
      { pair .ending .ending with commit := { run.commit with presented := [⟨st0, 0, 0, 0⟩] } }, by decide +kernel⟩,
   ⟨1, { inst (trec 1 0 0 true) with phase := .ending, events := [(1, 2)] },
      { inst (trec 1 0 0 true) with copyB := true, phase := .ending },
      modInst st0 0 (fun i => { i with events := [(1, 2)] }) (pair .ending .ending), by decide +kernel⟩,
   ⟨1, { newRelease run (trec 1 0 0 true) 5 false with pairDue := some 2600 }, 2600,
      modTask 1 (fun k => { k with inst := k.inst.map (fun r => { r with pairDue := some 2600 }) }) (pair .ending .running),
      by decide +kernel⟩,
   ⟨1, { run with pair := { run.pair with handover := some (some 1) } }, by decide +kernel⟩⟩

theorem meets_committed_data_leaves :
  (∃ (o : OutDue) (l : List OutDue) (s : State),
    s.commit.direct = o :: l ∧
    alive s = true ∧
    s.mode.pause = false ∧
    claimHolds s = false) ∧
  (∃ (k : Fin 64) (x : Export) (e : Nat × Word × Bytes) (s : State),
    Tab.find s.commit.exports k.val = some x ∧
    x.flight = some e ∧
    s.host.linkUp = true ∧
    served s = true ∧
    x.area + x.length + 24 ≤ exportLimit s.host) ∧
  (∃ (b : BaleSt) (l : List BaleSt) (s : State),
    s.pair.bales = b :: l ∧
    s.pair.trained = true ∧
    alive s = true) :=
  ⟨⟨⟨1, 0, 0, [(64, 1)], 0, []⟩, [], { run with commit := { run.commit with direct := [⟨1, 0, 0, [(64, 1)], 0, []⟩] } },
      by decide +kernel⟩,
   ⟨63, ⟨0, true, 0, 64, 0, some (1, 0, zeros 64), none⟩, (1, 0, zeros 64),
      { run with commit := { run.commit with exports := [(63, ⟨0, true, 0, 64, 0, some (1, 0, zeros 64), none⟩)] } },
      by decide +kernel⟩,
   ⟨⟨{ type := 4, task := 0, claim := 0, commit := 1, tCommit := 0, mode := 1, lines := [], crc := 0 }, 0⟩, [],
      { run with pair := { run.pair with trained := true, role := 1, beat := some beat1, bales := [⟨{ type := 4, task := 0, claim := 0, commit := 1, tCommit := 0, mode := 1, lines := [], crc := 0 }, 0⟩] } }, by decide +kernel⟩⟩

theorem meets_edits_and_profiles_take_effect_at_their_boundary :
  (∃ (k : Fin 8) (rb : Bool) (e : Nat) (l : Nat) (p : EditPackage) (s : State),
    s.proj.pend = some (k, rb, e, l) ∧
    s.proj.pkg = some p ∧
    e ≤ nextTick s ∧
    nextTick s ≤ l ∧
    affectedOpen s p.affected = false ∧
    s.time.task ≤ editInstant s (pendMap p rb) ∧
    alive s = true ∧
    s.proj.boundary ≠ some (nextTick s)) ∧
  (∃ (k : Fin 8) (rb : Bool) (e : Nat) (l : Nat) (p : EditPackage) (s : State),
    s.proj.pend = some (k, rb, e, l) ∧
    s.proj.pkg = some p ∧
    s.proj.boundary = some (nextTick s)) ∧
  (∃ (k : Fin 8) (rb : Bool) (e : Nat) (l : Nat) (p : EditPackage) (s : State),
    s.proj.pend = some (k, rb, e, l) ∧
    s.proj.pkg = some p ∧
    s.proj.boundary = some (nextTick s) ∧
    switchDue s = false ∧
    alive s = true) ∧
  (∃ (k : Fin 8) (rb : Bool) (e : Nat) (l : Nat) (p : EditPackage) (s : State),
    s.proj.pend = some (k, rb, e, l) ∧
    s.proj.pkg = some p ∧
    s.proj.boundary = some (nextTick s) ∧
    switchDue s = true) ∧
  (∃ (k : Fin 8) (rb : Bool) (e : Nat) (l : Nat) (s : State),
    s.proj.pend = some (k, rb, e, l) ∧
    l < nextTick s) ∧
  (∃ (v : Vote) (s : State),
    s.prof.vote = some v ∧
    v.agreed = none ∧
    v.opposed = none ∧
    windowClosed s v = true ∧
    s.ihloz.members &&& ~~~v.voted = 0) ∧
  (∃ (v : Vote) (n : BitVec 5) (s : State),
    s.prof.vote = some v ∧
    v.agreed = none ∧
    v.opposed = some n) ∧
  (∃ (t : BitVec 3) (c : Nat) (k : Option (Fin 8)) (p : Profile) (s : State),
    pendingSwitch s = some (t, c, k) ∧
    Tab.find s.prof.table t.toNat = some p ∧
    switchDue s = true ∧
    s.mode.mode ≠ mTrack ∧
    alive s = true) :=
  ⟨⟨0, false, 6, 6, { editId := 1, affected := 1, removed := 1, stallBank := [], solverBank := [], tasks := [], fwd := [], rev := [], init := [] }, { run with proj := { run.proj with edit := 1, pkg := some { editId := 1, affected := 1, removed := 1, stallBank := [], solverBank := [], tasks := [], fwd := [], rev := [], init := [] }, pend := some (0, false, 6, 6) } }, by decide +kernel⟩,
   ⟨0, false, 6, 6, { editId := 1, affected := 1, removed := 1, stallBank := [], solverBank := [], tasks := [], fwd := [], rev := [], init := [] }, { run with proj := { run.proj with edit := 1, pkg := some { editId := 1, affected := 1, removed := 1, stallBank := [], solverBank := [], tasks := [], fwd := [], rev := [], init := [] }, pend := some (0, false, 6, 6), boundary := some 6 } }, by decide +kernel⟩,
   ⟨0, false, 6, 6, { editId := 1, affected := 1, removed := 1, stallBank := [], solverBank := [], tasks := [], fwd := [], rev := [], init := [] }, { run with proj := { run.proj with edit := 1, pkg := some { editId := 1, affected := 1, removed := 1, stallBank := [], solverBank := [], tasks := [], fwd := [], rev := [], init := [] }, pend := some (0, false, 6, 6), boundary := some 6 } }, by decide +kernel⟩,
   ⟨0, false, 6, 6, { editId := 1, affected := 1, removed := 1, stallBank := [], solverBank := [], tasks := [], fwd := [], rev := [], init := [] }, { run with proj := { run.proj with edit := 1, pkg := some { editId := 1, affected := 1, removed := 1, stallBank := [], solverBank := [], tasks := [], fwd := [], rev := [], init := [] }, pend := some (0, false, 6, 6), boundary := some 6 }, prof := { run.prof with table := [(0, ⟨0, 0, 0, [], 0⟩)], localSwitch := some (0, 0) } }, by decide +kernel⟩,
   ⟨0, false, 5, 5, { run with proj := { run.proj with pend := some (0, false, 5, 5) } }, by decide +kernel⟩,
   ⟨vote1, { run with prof := { run.prof with vote := some vote1 }, ihloz := { run.ihloz with cycle := 3 } }, by decide +kernel⟩,
   ⟨{ vote1 with opposed := some 2, ring := some 0 }, 2,
      { run with prof := { run.prof with vote := some { vote1 with opposed := some 2, ring := some 0 } } }, by decide +kernel⟩,
   ⟨0, 0, some 0, ⟨0, 0, 0, [], 0⟩,
      { run with prof := { run.prof with table := [(0, ⟨0, 0, 0, [], 0⟩)], localSwitch := some (0, 0) } }, by decide +kernel⟩⟩

theorem meets_channel_entries_are_loaded_and_grow_stale :
  (∃ (c : BitVec 12) (s : State),
    has s.chan.loading c.toNat = true ∧
    cacheRoom s = true ∧
    alive s = true ∧
    hostEntry s c.toNat = true) ∧
  (∃ (c : BitVec 12) (s : State),
    has s.chan.loading c.toNat = true ∧
    cacheRoom s = true ∧
    alive s = true ∧
    hostEntry s c.toNat = false) ∧
  (∃ (c : BitVec 12) (e : Bytes) (s : State),
    entryOf s c.toNat = some e ∧
    alive s = true ∧
    inStartUp s = false ∧
    staleDue s c.toNat e = true) :=
  ⟨⟨7, { run with host := { run.host with chanCount := 8 }, chan := { run.chan with loading := [7] } }, by decide +kernel⟩,
   ⟨7, { run with host := { run.host with chanCount := 7 }, chan := { run.chan with loading := [7] } }, by decide +kernel⟩,
   ⟨7, mkBlock 64 [(0, 1, 7)], pin 7 [(0, 1, 7)] run, by decide +kernel⟩⟩

theorem meets_placement_and_power_operations_act :
  (∃ (t : BitVec 7) (m : BitVec 7) (s : State),
    (task s t).fence ≠ none ∧
    alive s = true ∧
    (task s t).markers ||| m ≠ 127) ∧
  (∃ (t : BitVec 7) (m : BitVec 7) (s : State),
    (task s t).fence ≠ none ∧
    alive s = true ∧
    (task s t).markers ||| m = 127) ∧
  (∃ (t : BitVec 7) (src : Fin 7) (tag : Half) (s : State),
    (task s t).fence ≠ none ∧
    alive s = true ∧
    tag + 1 = (task s t).epoch ∧
    (task s t).markers.getLsbD src.val = false) ∧
  (∃ (line : Nat) (b : Fin 4) (s : State),
    s.yard.moves = [(line, .barn b)] ∧
    lineWaits s line = false ∧
    alive s = true ∧
    (barn s b).power = 2 ∧
    barnFits s (Tab.set s.yard.homeLoc line b) s.yard.ringLoc b = true) ∧
  (∃ (line : Nat) (s : State),
    s.yard.moves = [(line, .global)] ∧
    lineWaits s line = false ∧
    alive s = true ∧
    globalFits s (Tab.del s.yard.homeLoc line) = true) ∧
  (∃ (b : Fin 4) (s : State),
    (barn s b).present = true ∧
    (barn s b).power = 0 ∧
    alive s = true) ∧
  (∃ (b : Fin 4) (s : State) (r : State),
    alive s = true ∧
    (barn s b).power = 1 ∧
    (barn s b).wake = 1 ∧
    powerOp 2000 200 s = some r) ∧
  (∃ (b : Fin 4) (s : State) (r : State),
    alive s = true ∧
    (barn s b).power = 1 ∧
    (barn s b).wake = 2 ∧
    powerOp 6000 10 s = some r) ∧
  (∃ (b : Fin 4) (s : State) (r : State),
    alive s = true ∧
    (barn s b).power = 1 ∧
    (barn s b).wake = 3 ∧
    powerOp 3000 500 s = some r) ∧
  (∃ (u : StallId) (s : State) (r : State),
    alive s = true ∧
    (barn s u.barn).power = 2 ∧
    (stall s u).ungated = false ∧
    (stall s u).state ≠ 4 ∧
    powerOp 500 300 s = some r) ∧
  (∃ (b : Fin 4) (s : State) (r : State),
    alive s = true ∧
    (barn s b).power = 2 ∧
    (barn s b).solverOn = false ∧
    (barn s b).solverOut = false ∧
    powerOp 500 400 s = some r) ∧
  (∃ (u : StallId) (s : State) (r : State),
    alive s = true ∧
    (stall s u).ungated = true ∧
    residents s u = [] ∧
    powerOp 500 300 s = some r) ∧
  (∃ (b : Fin 4) (s : State) (r : State),
    alive s = true ∧
    (barn s b).solverOn = true ∧
    (barn s b).run = none ∧
    (barn s b).queue = [] ∧
    powerOp 500 400 s = some r) ∧
  (∃ (b : Fin 4) (s : State) (r : State),
    alive s = true ∧
    (barn s b).power = 2 ∧
    s.yard.offDue.contains b = true ∧
    nothingPlaced s b = true ∧
    plannedSoon s b = false ∧
    reserveStays s b = true ∧
    hot s = false ∧
    powerOp 7000 300 s = some r) ∧
  (∃ (ns : Nat) (mA : Nat) (s : State) (r : State),
    powerOp ns mA s = some r) ∧
  (∃ (m : Nat) (s : State) (x : Nat × Nat), x ∈ s.yard.bad ∧ x.1 ≠ m) :=
  ⟨⟨0, 63, modTask 0 (fun k => { k with fence := some 5 }) run, by decide +kernel⟩,
   ⟨0, 63, modTask 0 (fun k => { k with fence := some 5, markers := 64 }) run, by decide +kernel⟩,
   ⟨0, 6, 4, modTask 0 (fun k => { k with fence := some 5, epoch := 5 }) run, by decide +kernel⟩,
   ⟨0x400000, 1, { run with yard := { run.yard with moves := [(0x400000, .barn 1)] } }, by decide +kernel⟩,
   ⟨0x400000, { run with yard := { run.yard with moves := [(0x400000, .global)] } }, by decide +kernel⟩,
   ⟨0, modBarn 0 (fun x => { x with power := 0 }) run, by decide +kernel⟩,
   ⟨1, modBarn 1 (fun x => { x with power := 1, wake := 1 }) run,
      (powerOp 2000 200 (modBarn 1 (fun x => { x with power := 1, wake := 1 }) run)).getD run, by decide +kernel,
      by decide +kernel, by decide +kernel, some_getD (by decide +kernel)⟩,
   ⟨1, modBarn 1 (fun x => { x with power := 1, wake := 2 }) run,
      (powerOp 6000 10 (modBarn 1 (fun x => { x with power := 1, wake := 2 }) run)).getD run, by decide +kernel,
      by decide +kernel, by decide +kernel, some_getD (by decide +kernel)⟩,
   ⟨1, modBarn 1 (fun x => { x with power := 1, wake := 3 }) run,
      (powerOp 3000 500 (modBarn 1 (fun x => { x with power := 1, wake := 3 }) run)).getD run, by decide +kernel,
      by decide +kernel, by decide +kernel, some_getD (by decide +kernel)⟩,
   ⟨st0, modStall st0 (fun x => { x with ungated := false }) run,
      (powerOp 500 300 (modStall st0 (fun x => { x with ungated := false }) run)).getD run, by decide +kernel, by decide +kernel,
      by decide +kernel, by decide +kernel, some_getD (by decide +kernel)⟩,
   ⟨0, modBarn 0 (fun x => { x with solverOn := false }) run,
      (powerOp 500 400 (modBarn 0 (fun x => { x with solverOn := false }) run)).getD run, by decide +kernel, by decide +kernel,
      by decide +kernel, by decide +kernel, some_getD (by decide +kernel)⟩,
   ⟨st0, run, (powerOp 500 300 (run)).getD run, by decide +kernel, by decide +kernel, by decide +kernel,
      some_getD (by decide +kernel)⟩,
   ⟨0, run, (powerOp 500 400 (run)).getD run, by decide +kernel, by decide +kernel, by decide +kernel, by decide +kernel,
      some_getD (by decide +kernel)⟩,
   ⟨3, { run with yard := { run.yard with offDue := [3] } },
      (powerOp 7000 300 ({ run with yard := { run.yard with offDue := [3] } })).getD run, by decide +kernel, by decide +kernel,
      by decide +kernel, by decide +kernel, by decide +kernel, by decide +kernel, by decide +kernel,
      some_getD (by decide +kernel)⟩,
   ⟨7000, 300, run, (powerOp 7000 300 (run)).getD run, some_getD (by decide +kernel)⟩,
   ⟨0, { run with yard := { run.yard with bad := [(1, 64)] } }, (1, 64), by decide +kernel⟩⟩

theorem meets_health_commands_retire_and_report :
  (∃ (u : StallId) (s : State),
    alive s = true ∧
    (barn s u.barn).present = true) ∧
  (∃ (u : StallId) (m : Nat) (s : State),
    (stall s u).state ≠ 4 ∧
    12 ≤ m) ∧
  (∃ (u : StallId) (m : Nat) (s : State),
    (stall s u).state ≠ 4 ∧
    m < 12 ∧
    (6 ≤ m ∨ (stall s u).state = 3)) ∧
  (∃ (u : StallId) (m : Nat) (s : State),
    (stall s u).state ≠ 4 ∧
    m < 12 ∧
    m < 6 ∧
    (stall s u).state ≠ 3) ∧
  (∃ (b : Fin 4) (s : State),
    alive s = true ∧
    (barn s b).present = true ∧
    (barn s b).solverOut = false) ∧
  (∃ (u : StallId) (s : State),
    (stall s u).state = 3 ∧
    residents s u = [] ∧
    unassigned s u = true ∧
    alive s = true) ∧
  (∃ (u : StallId) (d : Byte) (s : State),
    (stall s u).state ≠ 4 ∧
    (barn s u.barn).present = true ∧
    1 ≤ d.toNat ∧
    d.toNat ≤ 4 ∧
    alive s = true ∧
    residents s u = []) ∧
  (∃ (b : Fin 4) (s : State),
    (barn s b).present = true ∧
    (barn s b).solverOut = false ∧
    alive s = true) ∧
  (∃ (u : StallId) (s : State),
    testable s u = true ∧
    alive s = true) ∧
  (∃ (s : State),
    alive s = true) ∧
  (∃ (m : Fin 5) (a : Word) (s : State),
    alive s = true ∧
    (m.val, lineOf a.toNat) ∉ s.yard.bad) ∧
  (∃ (u : StallId) (f : Fin 4) (i : Inst) (s : State),
    alive s = true ∧
    slotOf s u f = some i ∧
    i.phase = .running) ∧
  (∃ (s : State),
    alive s = true) ∧
  (∃ (b : Fin 4) (temp : Half) (s : State),
    (barn s b).present = true ∧
    alive s = true ∧
    840 ≤ temp.toInt ∧
    (barn s b).temp < 840) ∧
  (∃ (b : Fin 4) (temp : Half) (s : State),
    (barn s b).present = true ∧
    alive s = true ∧
    (temp.toInt < 840 ∨ 840 ≤ (barn s b).temp)) :=
  ⟨⟨st0, run, by decide +kernel⟩,
   ⟨st0, 12, run, by decide +kernel⟩,
   ⟨st0, 6, run, by decide +kernel⟩,
   ⟨st0, 5, run, by decide +kernel⟩,
   ⟨0, run, by decide +kernel⟩,
   ⟨st0, modStall st0 (fun x => { x with state := 3 }) run, by decide +kernel⟩,
   ⟨st0, 4, run, by decide +kernel⟩,
   ⟨0, run, by decide +kernel⟩,
   ⟨st0, run, by decide +kernel⟩,
   ⟨run, by decide +kernel⟩,
   ⟨4, 0x40, run, by decide +kernel⟩,
   ⟨st0, 0, inst (trec 0 0 0 false), withInst st0 (inst (trec 0 0 0 false)) Ctx.zero run, by decide +kernel⟩,
   ⟨run, by decide +kernel⟩,
   ⟨0, 840, run, by decide +kernel⟩,
   ⟨0, 839, run, by decide +kernel⟩⟩

theorem meets_digital_inputs_follow_their_samples :
  (∃ (s : State),
    s.field.sampling = true ∧
    s.mode.pause = false ∧
    s.power.stopped = false ∧
    s.time.running = true) ∧
  (∃ (g : Fin 8) (s : State),
    wets s g.val = true ∧
    s.time.running = true ∧
    alive s = true) ∧
  (∃ (n : Fin 8) (ns : Nat) (e : Bytes) (s : State),
    counts s n.val = true ∧
    alive s = true ∧
    diUsable s n.val = some e ∧
    4000 ≤ ns) ∧
  (∃ (n : Fin 8) (ns : Nat) (e : Bytes) (s : State),
    counts s n.val = true ∧
    alive s = true ∧
    diUsable s n.val = some e ∧
    ns < 2000) ∧
  (∃ (n : Fin 8) (ns : Nat) (e : Bytes) (s : State),
    counts s n.val = true ∧
    alive s = true ∧
    diUsable s n.val = some e ∧
    2000 ≤ ns ∧
    ns < 4000) ∧
  (∃ (n : Fin 64) (e : Bytes) (s : State),
    diUsable s n.val = some e ∧
    (s.field.di[n]).chatter = true ∧
    alive s = true) ∧
  (∃ (n : Fin 64) (e : Bytes) (s : State),
    diUsable s n.val = some e ∧
    bitAt e 16 4 = true ∧
    (s.field.di[n]).level ≠ none ∧
    alive s = true) ∧
  (∃ (n : Fin 8) (s : State),
    (s.field.di[n.val]).overrate = true ∧
    alive s = true) :=
  ⟨⟨run, by decide +kernel⟩,
   ⟨0, pin 0 [(0, 1, 1), (16, 1, 2), (17, 1, 1)] run, by decide +kernel⟩,
   ⟨7, 4000, mkBlock 64 [(0, 1, 1), (16, 1, 4), (17, 1, 1)], pin 7 [(0, 1, 1), (16, 1, 4), (17, 1, 1)] run, by decide +kernel⟩,
   ⟨7, 1999, mkBlock 64 [(0, 1, 1), (16, 1, 4), (17, 1, 1)], pin 7 [(0, 1, 1), (16, 1, 4), (17, 1, 1)] run, by decide +kernel⟩,
   ⟨7, 2000, mkBlock 64 [(0, 1, 1), (16, 1, 4), (17, 1, 1)], pin 7 [(0, 1, 1), (16, 1, 4), (17, 1, 1)] run, by decide +kernel⟩,
   ⟨63, mkBlock 64 [(0, 1, 1), (16, 1, 16), (17, 1, 1), (22, 2, 1)], modDi 63 (fun x => { x with chatter := true }) (pin 63 [(0,
      1, 1), (16, 1, 16), (17, 1, 1), (22, 2, 1)] run), by decide +kernel⟩,
   ⟨63, mkBlock 64 [(0, 1, 1), (16, 1, 16), (17, 1, 1), (22, 2, 1)],
      modDi 63 (fun x => { x with level := some true }) (pin 63 [(0, 1, 1), (16, 1, 16), (17, 1, 1), (22, 2, 1)] run),
      by decide +kernel⟩,
   ⟨7, modDi 7 (fun x => { x with overrate := true }) run, by decide +kernel⟩⟩

theorem meets_digital_outputs_protect_themselves :
  (∃ (s : State),
    s.field.sampling = true ∧
    alive s = true) ∧
  (∃ (r : DoReading) (s : State) (g : Fin 8),
    s.field.sampling = true ∧
    alive s = true ∧
    g.val < r.vfDv.length) ∧
  (∃ (r : DoReading) (s : State) (g : Fin 8),
    s.field.sampling = true ∧
    alive s = true ∧
    g.val < r.groupMa.length) ∧
  (∃ (r : DoReading) (s : State) (n : Fin 64),
    s.field.sampling = true ∧
    alive s = true ∧
    n.val < r.tempC.length) ∧
  (∃ (n : Fin 64) (s : State),
    alive s = true ∧
    driven s.field n.val = true) ∧
  (∃ (s : State),
    alive s = true) ∧
  (∃ (n : Fin 64) (s : State),
    alive s = true ∧
    driven s.field n.val = true) ∧
  (∃ (n : Fin 64) (s : State),
    alive s = true ∧
    (s.field.dout[n]).thermal = 2 ∧
    (s.field.dout[n]).waited = false) ∧
  (∃ (n : Fin 64) (s : State),
    alive s = true ∧
    (s.field.dout[n]).thermal = 2) ∧
  (∃ (g : Fin 8) (s : State),
    alive s = true ∧
    (s.field.doGrp[g]).open_ = false) ∧
  (∃ (g : Fin 8) (s : State),
    alive s = true ∧
    (s.field.doGrp[g]).open_ = true) ∧
  (∃ (g : Fin 8) (s : State),
    alive s = true ∧
    (s.field.doGrp[g]).open_ = false ∧
    (s.field.doGrp[g]).tripped = true) ∧
  (∃ (s : State),
    alive s = true) :=
  ⟨⟨run, by decide +kernel⟩,
   ⟨⟨5, [230, 231], [700], [60]⟩, run, 1, by decide +kernel⟩,
   ⟨⟨5, [230, 231], [700], [60]⟩, run, 0, by decide +kernel⟩,
   ⟨⟨5, [230, 231], [700], [60]⟩, run, 0, by decide +kernel⟩,
   ⟨63, drivenRun, by decide +kernel⟩,
   ⟨run, by decide +kernel⟩,
   ⟨63, drivenRun, by decide +kernel⟩,
   ⟨0, modDo 0 (fun x => { x with applied := true, thermal := 2 }) (pin 64 [(0, 1, 2)] run), by decide +kernel⟩,
   ⟨0, modDo 0 (fun x => { x with applied := true, thermal := 2 }) (pin 64 [(0, 1, 2)] run), by decide +kernel⟩,
   ⟨7, run, by decide +kernel⟩,
   ⟨7, modDoGrp 7 (fun x => { x with open_ := true }) run, by decide +kernel⟩,
   ⟨7, modDoGrp 7 (fun x => { x with tripped := true }) run, by decide +kernel⟩,
   ⟨run, by decide +kernel⟩⟩

theorem meets_loops_convert_and_transact :
  (∃ (s : State),
    hasLoop s = true ∧
    s.field.sampling = true ∧
    s.power.stopped = false ∧
    s.time.running = true) ∧
  (∃ (s : State),
    hasLoop s = true ∧
    alive s = true) ∧
  (∃ (n : Fin 32) (h : HartOp) (s : State),
    (s.loops[n]).hart = some h ∧
    h.sent = false ∧
    alive s = true ∧
    s.mode.pause = false ∧
    loopOut s.loops[n] = false ∧
    reservoirLow s n.val = false) ∧
  (∃ (n : Fin 32) (h : HartOp) (b : Busy) (f : HartFrame) (s : State),
    (s.loops[n]).hart = some h ∧
    h.sent = true ∧
    alive s = true ∧
    responseGood (asSent h.request) f = true ∧
    (ring s h.ring).busy = some b ∧
    b.wait = .hart n ∧
    b.discard = false ∧
    b.misuse = false) ∧
  (∃ (n : Fin 32) (h : HartOp) (f : HartFrame) (s : State),
    (s.loops[n]).hart = some h ∧
    alive s = true ∧
    h.sent = true ∧
    responseGood (asSent h.request) f = false) ∧
  (∃ (n : Fin 32) (h : HartOp) (s : State),
    (s.loops[n]).hart = some h ∧
    alive s = true ∧
    h.sent = false ∧
    s.mode.pause = false ∧
    loopOut s.loops[n] = true) ∧
  (∃ (n : Fin 32) (s : State),
    alive s = true ∧
    attemptSent s n = some true) ∧
  (∃ (n : Fin 32) (s : State),
    alive s = true ∧
    attemptSent s n = some false) ∧
  (∃ (n : Fin 32) (s : State),
    alive s = true ∧
    attemptSent s n = some false ∧
    reservoirLow s n.val = true) ∧
  (∃ (n : Fin 32) (s : State),
    alive s = true ∧
    hasLoop s = true ∧
    (s.loops[n]).hart = none) :=
  ⟨⟨run, by decide +kernel⟩,
   ⟨run, by decide +kernel⟩,
   ⟨0, ⟨0, [2#8, 0#8, 0#8, 0#8, 0#8], 5, 0, 0, false⟩,
      { run with loops := run.loops.set 0 { LoopCh.zero with hart := some ⟨0, [2#8, 0#8, 0#8, 0#8, 0#8], 5, 0, 0, false⟩ } },
      by decide +kernel⟩,
   ⟨0, ⟨0, [2#8, 0#8, 0#8, 0#8, 0#8], 5, 0, 1, true⟩, ⟨7, 0x1B, 0x10000, 272, .hart 0, false, false⟩, ⟨5, [6#8, 0x80#8, 0#8, 2#8,
      0#8, 0#8, 0x84#8].map hartChar, true⟩,
      modRing 0 (fun r => { r with busy := some ⟨7, 0x1B, 0x10000, 272, .hart 0, false, false⟩ }) ({ run with loops := run.loops.set 0 { LoopCh.zero with hart := some ⟨0, [2#8, 0#8, 0#8, 0#8, 0#8], 5, 0, 1, true⟩ } }), by decide +kernel⟩,
   ⟨0, ⟨0, [2#8, 0#8, 0#8, 0#8, 0#8], 5, 0, 1, true⟩, ⟨5, [], true⟩,
      { run with loops := run.loops.set 0 { LoopCh.zero with hart := some ⟨0, [2#8, 0#8, 0#8, 0#8, 0#8], 5, 0, 1, true⟩ } },
      by decide +kernel⟩,
   ⟨31, ⟨0, [2#8, 0#8, 0#8, 0#8, 0#8], 5, 0, 0, false⟩,
      modLoop 31 (fun x => { x with states := [0x28] }) ({ run with loops := run.loops.set 31 { LoopCh.zero with hart := some ⟨0, [2#8, 0#8, 0#8, 0#8, 0#8], 5, 0, 0, false⟩ } }), by decide +kernel⟩,
   ⟨31, hart true, by decide +kernel⟩,
   ⟨31, hart false, by decide +kernel⟩,
   ⟨31, modLoop 31 (fun l => { l with supplyCv := 449 }) (hart false), by decide +kernel⟩,
   ⟨0, run, by decide +kernel⟩⟩

theorem meets_the_ihloz_node_follows_its_schedule :
  (∃ (chB : Bool) (f : IhlozFrame) (a : Int) (s : State),
    nodeOn s = true ∧
    chUsed s chB = true ∧
    s.ihloz.state ≠ 0 ∧
    f.header.sender ≠ ownNode s ∧
    reaches s chB f.header.slot = true ∧ (
    let u := advanceIhloz a s
    copyValid u chB f a = false)) ∧
  (∃ (chB : Bool) (f : IhlozFrame) (a : Int) (s : State),
    nodeOn s = true ∧
    chUsed s chB = true ∧
    s.ihloz.state ≠ 0 ∧
    f.header.sender ≠ ownNode s ∧
    reaches s chB f.header.slot = true ∧ (
    let u := advanceIhloz a s
    let v := validAdvances chB f a (checkTag f (modIhloz (fun n => { n with heard := true }) u))
    copyValid u chB f a = true ∧
    (synced v && f.header.mode = v.ihloz.mode && f.header.cycle.toNat = v.ihloz.cycle) = true ∧
    v.ihloz.rx = none)) ∧
  (∃ (chB : Bool) (f : IhlozFrame) (a : Int) (s : State) (r : SlotRx),
    nodeOn s = true ∧
    chUsed s chB = true ∧
    s.ihloz.state ≠ 0 ∧
    f.header.sender ≠ ownNode s ∧
    reaches s chB f.header.slot = true ∧ (
    let u := advanceIhloz a s
    let v := validAdvances chB f a (checkTag f (modIhloz (fun n => { n with heard := true }) u))
    copyValid u chB f a = true ∧
    (synced v && f.header.mode = v.ihloz.mode && f.header.cycle.toNat = v.ihloz.cycle) = true ∧
    v.ihloz.rx = some r ∧
    r.slot = f.header.slot ∧
    r.payload ≠ none)) ∧
  (∃ (slot : Byte) (c : Sched) (x : Slot) (s : State),
    ownSlot s slot = some (c, x) ∧
    nodeOn s = true ∧
    (synced s = true ∨ s.ihloz.state = 2) ∧
    x.freight = false) ∧
  (∃ (slot : Byte) (c : Sched) (x : Slot) (s : State) (pay : Bytes),
    ownSlot s slot = some (c, x) ∧
    sends s = true ∧ (
    let u := advanceIhloz (cycleTick s + (actionPoint c x : Nat)) s
    x.freight = false ∧
    (Tab.find s.ihloz.frozen slot.toNat = some (s.ihloz.cycle, pay) ∧
      pay.length = x.length ∨ Tab.find s.ihloz.frozen slot.toNat = none ∧ pay = assemble u slot.toNat x))) ∧
  (∃ (slot : Byte) (c : Sched) (x : Slot) (s : State),
    ownSlot s slot = some (c, x) ∧
    sends s = true ∧
    x.freight = true) ∧
  (∃ (slot : Byte) (c : Sched) (x : Slot) (s : State),
    schedNow s = some c ∧
    c.slots[slot.toNat]? = some x ∧
    nodeOn s = true ∧
    synced s = true ∧
    x.sender ≠ ownNode s ∧
    s.ihloz.rx = none) ∧
  (∃ (slot : Byte) (c : Sched) (x : Slot) (r : SlotRx) (f : IhlozFrame) (s : State),
    schedNow s = some c ∧
    c.slots[slot.toNat]? = some x ∧
    nodeOn s = true ∧
    synced s = true ∧
    x.sender ≠ ownNode s ∧
    s.ihloz.rx = some r ∧
    r.slot = slot ∧
    r.payload ≠ none ∧
    r.held = some f) ∧
  (∃ (c : Sched) (s : State),
    schedNow s = some c ∧
    nodeOn s = true ∧
    (synced s = true ∨ s.ihloz.state = 2) ∧
    2 * c.guard_ ≥ (midpoint2 s.ihloz.devs).natAbs) ∧
  (∃ (c : Sched) (s : State),
    schedNow s = some c ∧
    nodeOn s = true ∧
    (synced s = true ∨ s.ihloz.state = 2) ∧
    s.ihloz.rx = none) ∧
  (∃ (c : Sched) (s : State),
    schedNow s = some c ∧
    nodeOn s = true ∧
    (synced s = true ∨ s.ihloz.state = 2)) ∧
  (∃ (c : Sched) (k : Nat) (s : State),
    Tab.find s.ihloz.scheds (startMode s) = some c ∧
    firstSlot c (ownNode s) = some k ∧
    nodeOn s = true ∧
    bitAt (block s 0x0401) 0 3 = true ∧
    (s.ihloz.state = 1 ∨ s.ihloz.state = 3)) ∧
  (∃ (a : Bool) (b : Bool) (s : State),
    let onA := a && chUsed s false
    let onB := b && chUsed s true
    nodeOn s = true ∧
    (onA || onB) = true ∧
    (s.ihloz.state = 1 ∨ s.ihloz.state = 2 ∨ s.ihloz.state = 3)) ∧
  (∃ (p : Fin 8) (s : State),
    starForwards s = true ∧
    s.star.sync = false ∧
    isLink s p.val = true) :=
  ⟨⟨true, { frame1 with crc := 0 }, 0, node 5, by decide +kernel⟩,
   ⟨true, frame1, 3025, node 5, by decide +kernel⟩,
   ⟨true, frame1, 3025, modIhloz (fun n => { n with rx := some ⟨1, some (zeros 4), none, 3025, true, none⟩ }) (node 5), ⟨1,
      some (zeros 4), none, 3025, true, none⟩, by decide +kernel⟩,
   ⟨0, sched1, ⟨100, 0, true, 2000, 0, false⟩, node 5, by decide +kernel⟩,
   ⟨0, sched1, ⟨100, 0, true, 2000, 0, false⟩, modIhloz (fun n => { n with frozen := [(0, (3, []))] }) (node 5), [],
      by decide +kernel⟩,
   ⟨0, { sched1 with slots := [⟨100, 0, true, 2000, 0, true⟩] }, ⟨100, 0, true, 2000, 0, true⟩,
      modIhloz (fun n => { n with scheds := [(0, { sched1 with slots := [⟨100, 0, true, 2000, 0, true⟩] })] }) (node 5),
      by decide +kernel⟩,
   ⟨1, sched1, ⟨3000, 4, true, 2000, 1, false⟩, node 5, by decide +kernel⟩,
   ⟨1, sched1, ⟨3000, 4, true, 2000, 1, false⟩, ⟨1, some (zeros 4), none, 3025, true, some frame1⟩, frame1,
      modIhloz (fun n => { n with rx := some ⟨1, some (zeros 4), none, 3025, true, some frame1⟩ }) (node 5), by decide +kernel⟩,
   ⟨sched1, modIhloz (fun n => { n with devs := [-3, 53] }) (node 5), by decide +kernel⟩,
   ⟨sched1, node 5, by decide +kernel⟩,
   ⟨sched1, node 5, by decide +kernel⟩,
   ⟨sched1, 0, node 1, by decide +kernel⟩,
   ⟨true, false, node 2, by decide +kernel⟩,
   ⟨0, withBlock 0x0402 [(0, 1, 1), (8, 4, 1), (40, 1, 1)] (star false), by decide +kernel⟩⟩

theorem meets_the_star_forwards_and_cuts :
  (∃ (p : Fin 8) (tick : Nat) (c : Sched) (s : State),
    starForwards s = true ∧
    s.star.sync = true ∧
    schedNow s = some c ∧ (
    let u := advanceIhloz tick s
    windowOpen u c p tick = false)) ∧
  (∃ (p : Fin 8) (tick : Nat) (c : Sched) (s : State),
    starForwards s = true ∧
    s.star.sync = true ∧
    schedNow s = some c ∧ (
    let u := advanceIhloz tick s
    windowOpen u c p tick = true ∧
    (s.star.ports[p]).cut = false ∧
    (s.star.ports[p]).cutCont = false)) ∧
  (∃ (p : Fin 8) (s : State),
    starForwards s = true ∧
    s.star.sync = false ∧
    (s.star.ports[p]).cut = false ∧
    (s.star.ports[p]).cutCont = false ∧
    s.star.forwarding = none) ∧
  (∃ (p : Fin 8) (tick : Nat) (s : State) (q : Fin 9) (at_ : Int),
    starForwards s = true ∧
    s.star.sync = false ∧
    (s.star.ports[p]).cut = false ∧
    (s.star.ports[p]).cutCont = false ∧
    s.star.forwarding = some (q, at_) ∧
    10000 < tick - at_) ∧
  (∃ (p : Fin 8) (tick : Nat) (s : State) (q : Fin 9),
    starForwards s = true ∧
    s.star.sync = false ∧
    (s.star.ports[p]).cut = false ∧
    (s.star.ports[p]).cutCont = false ∧
    q ≠ p.castSucc ∧
    s.star.forwarding = some (q, (tick : Int))) ∧
  (∃ (p : Fin 8) (tick : Int) (s : State),
    starForwards s = true ∧
    s.star.sync = true ∧
    s.star.forwarding = some (p.castSucc, tick)) ∧
  (∃ (p : Fin 8) (s : State),
    starForwards s = true ∧
    s.star.sync = false ∧
    (s.star.ports[p]).cutCont = false) ∧
  (∃ (p : Fin 8) (s : State),
    (s.star.ports[p]).cutCont = true ∧
    alive s = true) :=
  ⟨⟨0, 0, sched1, star true, by decide +kernel⟩,
   ⟨0, 150, sched1, star true, by decide +kernel⟩,
   ⟨7, star false, by decide +kernel⟩,
   ⟨7, 10010, { star false with star := { (star false).star with forwarding := some (0, 9) } }, 0, 9, by decide +kernel⟩,
   ⟨7, 9, { star false with star := { (star false).star with forwarding := some (0, 9) } }, 0, by decide +kernel⟩,
   ⟨7, 9, { star true with star := { (star true).star with forwarding := some (7, 9) } }, by decide +kernel⟩,
   ⟨0, star false, by decide +kernel⟩,
   ⟨0, { run with star := { run.star with ports := run.star.ports.set 0 { StarPort.zero with cutCont := true } } },
      by decide +kernel⟩⟩

theorem meets_can_controllers_send_receive_and_count :
  (∃ (c : Fin 4) (e2 : CanFrame) (e1 : CanFrame) (f : CanFrame) (s : State),
    canOn s c = true ∧ (
    let g := sampledFrame (canFlag s c 2) e2 e1 f
    (g.fdf = false ∨ canFlag s c 1 = true) ∧
    s.mode.pause = true)) ∧
  (∃ (c : Fin 4) (e2 : CanFrame) (e1 : CanFrame) (f : CanFrame) (s : State),
    canOn s c = true ∧ (
    let g := sampledFrame (canFlag s c 2) e2 e1 f
    (g.fdf = false ∨ canFlag s c 1 = true) ∧
    s.mode.pause = false)) ∧
  (∃ (c : Fin 4) (b : Fin 3) (s : State),
    canOn s c = true ∧
    canAttempt s c = some b) ∧
  (∃ (c : Fin 4) (b : Fin 3) (s : State),
    canOn s c = true ∧
    canAttempt s c = some b) ∧
  (∃ (c : Fin 4) (e : CanError) (s : State),
    canOn s c = true ∧
    e.transmitter = false) ∧
  (∃ (c : Fin 4) (b : Fin 3) (e : CanError) (s : State),
    canOn s c = true ∧
    e.transmitter = true ∧ (
    let r := modCan c (fun k => { k with lastError := e.kind, lost := false }) s
    canAttempt r c = some b)) ∧
  (∃ (c : Fin 4) (s : State),
    (s.can[c]).state = 2 ∧
    alive s = true) ∧
  (∃ (c : Fin 4) (s : State),
    (s.can[c]).state = 2 ∧
    alive s = true ∧
    (s.can[c]).recovering = true) ∧
  (∃ (c : Fin 4) (s : State),
    canEnabled s c.val = true ∧
    alive s = true ∧
    (s.can[c]).integrated = false) ∧
  (∃ (c : Fin 4) (ch : BitVec 12) (e : Bytes) (p : Nat × Bytes) (l : List (Nat × Bytes)) (s : State),
    entryOf (sendView s) ch.toNat = some e ∧
    eClass e = 8 ∧
    eController e = c.val ∧
    alive s = true ∧
    canFrameChans (sendView s) e = p :: l ∧
    canFrameTime (p :: l) ≠ 0) ∧
  (∃ (c : Fin 4) (k : Nat) (f : CanFrame) (s : State),
    canOn s c = true ∧
    canMaySend s = true ∧
    servesChannels s c = true ∧
    (s.can[c].bufs[2]).frame = none ∧
    canFlag s c 4 = false ∧
    canFirst s c = some (k, f)) :=
  ⟨⟨0, { can1 with data := [6] }, can1, can1, { (canRun) with mode := { run.mode with pause := true } }, by decide +kernel⟩,
   ⟨0, { can1 with data := [6] }, can1, can1, canRun, by decide +kernel⟩,
   ⟨0, 2, modBuf 0 2 (fun x => { x with frame := some can1 }) canRun, by decide +kernel⟩,
   ⟨0, 2, modBuf 0 2 (fun x => { x with frame := some can1 }) canRun, by decide +kernel⟩,
   ⟨0, ⟨1, false, false, false, false⟩, canRun, by decide +kernel⟩,
   ⟨0, 2, ⟨1, true, true, false, false⟩, modBuf 0 2 (fun x => { x with frame := some can1 }) canRun, by decide +kernel⟩,
   ⟨0, modCan 0 (fun k => { k with state := 2 }) canRun, by decide +kernel⟩,
   ⟨0, modCan 0 (fun k => { k with state := 2, recovering := true }) canRun, by decide +kernel⟩,
   ⟨0, withBlock 0x0410 [(8, 1, 1)] run, by decide +kernel⟩,
   ⟨0, 200, mkBlock 64 [(0, 1, 8), (18, 4, 5), (25, 1, 1), (26, 2, 10)], (200, mkBlock 64 [(0, 1, 8), (18, 4, 5), (25, 1, 1),
      (26, 2, 10)]), [], pin 200 [(0, 1, 8), (18, 4, 5), (25, 1, 1), (26, 2, 10)] run, by decide +kernel⟩,
   ⟨0, 200, { can1 with data := [0#8] }, modCan 0 (fun k => { k with due := [200] }) (pin 200 [(0, 1, 8), (18, 4, 5), (25, 1, 1),
      (26, 2, 10)] { canRun with pair := { run.pair with role := 0 } }), by decide +kernel⟩⟩

theorem meets_ethernet_ports_send_and_receive :
  (∃ (p : Fin 2) (s : State),
    ethOn s p = true ∧
    s.mode.pause = true) ∧
  (∃ (p : Fin 2) (s : State),
    ethOn s p = true ∧
    s.mode.pause = false) ∧
  (∃ (p : Fin 2) (frame : Bytes) (s : State),
    ethOn s p = true ∧
    s.mode.pause = false ∧
    14 ≤ frame.length ∧
    frame.length ≤ 1518 ∧
    frame.take 6 = macOf s p) ∧
  (∃ (p : Fin 2) (q : Fin 8) (f : EthFrame) (l : List EthFrame) (t : Nat) (s : State),
    (s.eth[p]).queues[q] = f :: l ∧
    f.launch = some t ∧
    alive s = true) ∧
  (∃ (p : Fin 2) (q : Fin 8) (f : EthFrame) (l : List EthFrame) (s : State),
    (s.eth[p]).wire = some q ∧
    ethOn s p = true ∧
    (s.eth[p]).queues[q] = f :: l ∧
    f.launch = none ∧
    f.ring = none ∧
    (f.chanKey ≠ none ∨ isPtp s f.bytes = false)) ∧
  (∃ (p : Fin 2) (q : Fin 8) (f : EthFrame) (l : List EthFrame) (s : State) (k : Fin 8) (b : Busy) (st : Bool),
    (s.eth[p]).wire = some q ∧
    ethOn s p = true ∧
    (s.eth[p]).queues[q] = f :: l ∧
    f.launch = none ∧
    f.ring = some k ∧
    (ring s k).busy = some b ∧
    b.wait = .ethSend p st) ∧
  (∃ (p : Fin 2) (sfd : Nat) (s : State),
    let from_ := (s.eth[p]).wireFrom
    let last := from_ + 8 * (if (s.eth[p]).speed = 3 then 8 else if (s.eth[p]).speed = 2 then 80 else 800) + 8
    from_ ≤ sfd ∧
    sfd ≤ last) ∧
  (∃ (p : Fin 2) (q : Fin 8) (k : Fin 8) (f : EthFrame) (s : State),
    let n := if (s.eth[p]).wire = some q then 1 else 0
    firstOut s (((s.eth[p]).queues[q]).drop n) = some f ∧
    f.ring = some k) ∧
  (∃ (s : State),
    alive s = true) ∧
  (∃ (p : Fin 2) (sp : BitVec 2) (s : State),
    alive s = true ∧
    ethEnabled s p.val = true ∧
    speedAllowed s p sp = true ∧
    ((s.eth[p]).link = false ∨ (s.eth[p]).speed ≠ sp)) ∧
  (∃ (p : Fin 2) (ch : BitVec 12) (e : Bytes) (s : State),
    entryOf (sendView s) ch.toNat = some e ∧
    eClass e = 10 ∧
    ePort e = p.val ∧
    canFrameTime (ethFrameChans (sendView s) e) ≠ 0) ∧
  (∃ (p : Fin 2) (s : State),
    ptpRuns s p = true ∧
    ethOn s p = true) ∧
  (∃ (p : Fin 2) (s : State),
    ptpRuns s p = true ∧
    ethOn s p = true) ∧
  (∃ (l : List EthFrame) (f g : EthFrame) (s : State),
    firstOut s l = some f ∧ g ∈ l ∧ g.ring ≠ none ∧ f ≠ g) :=
  ⟨⟨0, { (ethRun) with mode := { run.mode with pause := true } }, by decide +kernel⟩,
   ⟨0, ethRun, by decide +kernel⟩,
   ⟨0, zeros 14, ethRun, by decide +kernel⟩,
   ⟨0, 0, { eth1 with launch := some 2000 }, [], 2000,
      modEth 0 (fun x => { x with queues := x.queues.set 0 [{ eth1 with launch := some 2000 }] }) ethRun, by decide +kernel⟩,
   ⟨0, 0, eth1, [], modEth 0 (fun x => { x with wire := some 0, queues := x.queues.set 0 [eth1] }) ethRun, by decide +kernel⟩,
   ⟨0, 0, { eth1 with ring := some 0 }, [],
      modRing 0 (fun r => { r with busy := some ⟨7, 0x19, 0x10000, 64, .ethSend 0 true, false, false⟩ }) (modEth 0 (fun x => { x with wire := some 0, queues := x.queues.set 0 [{ eth1 with ring := some 0 }] }) ethRun), 0, ⟨7, 0x19, 0x10000, 64, .ethSend 0 true, false, false⟩, true, by decide +kernel⟩,
   ⟨0, 1072, modEth 0 (fun x => { x with wireFrom := 1000, speed := 3 }) ethRun, by decide +kernel⟩,
   ⟨0, 0, 1, { eth1 with ring := some 1 },
      modEth 0 (fun x => { x with queues := x.queues.set 0 [{ eth1 with ring := some 1 }] }) ethRun, by decide +kernel⟩,
   ⟨run, by decide +kernel⟩,
   ⟨0, 3, withBlock 0x0420 [(8, 1, 1)] run, by decide +kernel⟩,
   ⟨0, 200, mkBlock 64 [(0, 1, 10), (38, 2, 10)], pin 200 [(0, 1, 10), (38, 2, 10)] run, by decide +kernel⟩,
   ⟨0, withBlock 0x0421 [(0, 1, 3)] ethRun, by decide +kernel⟩,
   ⟨0, withBlock 0x0421 [(0, 1, 3)] ethRun, by decide +kernel⟩,
   ⟨[{ eth1 with ring := some 1, since := 9 }, { eth1 with ring := some 0 }], { eth1 with ring := some 0 },
    { eth1 with ring := some 1, since := 9 }, run, by decide +kernel⟩⟩

theorem meets_the_telith_link_trains_and_decides :
  (∃ (s : State),
    alive s = true ∧
    s.pair.trained = false ∧
    s.pair.step = 0 ∧
    s.pair.clash = false) ∧
  (∃ (s : State),
    alive s = true ∧
    s.pair.trained = false ∧
    s.pair.step = 1) ∧
  (∃ (s : State),
    alive s = true ∧
    s.pair.trained = false ∧
    s.pair.step = 2) ∧
  (∃ (s : State),
    alive s = true ∧
    s.pair.trained = false ∧
    s.pair.step = 3) ∧
  (∃ (l : BitVec 2) (s : State),
    alive s = true ∧
    s.pair.trained = false ∧
    s.pair.step = 4 ∧
    l ≠ 0) ∧
  (∃ (p : Option Identity) (s : State) (i : Identity),
    alive s = true ∧
    s.pair.trained = false ∧
    s.pair.step = 5 ∧
    p = some i) ∧
  (∃ (s : State),
    alive s = true ∧
    s.pair.trained = false ∧
    2 ≤ s.pair.step ∧
    (s.pair.step ≠ 3 ∨ s.pair.rate = 3)) ∧
  (∃ (s : State),
    alive s = true ∧
    s.pair.trained = false ∧
    s.pair.step = 3 ∧
    s.pair.rate.toNat < 3) ∧
  (∃ (i : Identity) (s : State),
    i.unitId ≠ s.power.slotId) ∧
  (∃ (s : State),
    telithOn s = true ∧
    alive s = true ∧
    s.pair.trained = false ∧
    s.pair.step ≠ 0) ∧
  (∃ (i : Identity) (s : State),
    s.pair.partner = some i ∧
    alive s = true ∧
    s.pair.trained = false ∧
    s.pair.step = 6) ∧
  (∃ (s : State),
    inPhase s 7 = false ∧
    inPhase s 8 = false) ∧
  (∃ (s : State),
    inPhase s 8 = true ∧
    endsInRun s = true ∧
    s.pair.takeoverFail = false ∧
    s.pair.claiming = none) ∧
  (∃ (s : State),
    s.pair.trained = true ∧
    alive s = true ∧
    s.pair.lanes = 3) ∧
  (∃ (s : State),
    s.pair.trained = true ∧
    alive s = true) ∧
  (∃ (s : State),
    s.pair.trained = true ∧
    alive s = true) ∧
  (∃ (s : State),
    s.pair.trained = true ∧
    alive s = true) ∧
  (∃ (c : Word) (why : ClaimFor) (s : State),
    s.pair.claiming = some (c, why) ∧
    alive s = true ∧
    s.ret.ops.any (fun o => match o.kind with | .counters (some _) => true | _ => false) = false) :=
  ⟨⟨run, by decide +kernel⟩,
   ⟨modPair (fun p => { p with step := 1 }) run, by decide +kernel⟩,
   ⟨modPair (fun p => { p with step := 2 }) run, by decide +kernel⟩,
   ⟨modPair (fun p => { p with step := 3 }) run, by decide +kernel⟩,
   ⟨3, modPair (fun p => { p with step := 4 }) run, by decide +kernel⟩,
   ⟨some ident1, modPair (fun p => { p with step := 5 }) run, ident1, by decide +kernel⟩,
   ⟨modPair (fun p => { p with step := 3, rate := 3 }) run, by decide +kernel⟩,
   ⟨modPair (fun p => { p with step := 3, rate := 2 }) run, by decide +kernel⟩,
   ⟨ident1, run, by decide +kernel⟩,
   ⟨{ withBlock 0x0501 [(0, 1, 1)] run with pair := { run.pair with step := 2 } }, by decide +kernel⟩,
   ⟨ident1, { stop with pair := { run.pair with step := 6, partner := some ident1 } }, by decide +kernel⟩,
   ⟨run, by decide +kernel⟩,
   ⟨withBlock 0x0101 [(4, 1, 1)] { phase 8 with proj := run.proj, pair := { PairSt.zero with role := 1 } }, by decide +kernel⟩,
   ⟨track, by decide +kernel⟩,
   ⟨track, by decide +kernel⟩,
   ⟨track, by decide +kernel⟩,
   ⟨{ run with pair := { run.pair with trained := true, role := 1 } }, by decide +kernel⟩,
   ⟨1, .startup, { run with pair := { run.pair with claiming := some (1, .startup) } }, by decide +kernel⟩⟩

theorem meets_the_standby_follows_and_takes_over :
  (∃ (b : Bale) (s : State),
    s.pair.trained = true ∧
    alive s = true ∧
    b.crc ≠ baleCrc b) ∧
  (∃ (b : Bale) (s : State),
    s.pair.trained = true ∧
    alive s = true ∧
    b.crc = baleCrc b ∧
    s.mode.mode = mTrack) ∧
  (∃ (b : Bale),
    b.type ≠ 2) ∧
  (∃ (b : Bale),
    b.type = 2) ∧
  (∃ (b : Bale) (r : TaskRec) (s : State),
    b.type = 1 ∧
    taskRec s b.task = some r) ∧
  (∃ (s : State),
    s.pair.trained = true ∧
    s.mode.mode = mTrack ∧
    alive s = true) ∧
  (∃ (l : BulkLine) (s : State),
    (∀ r ∈ s.proj.cur.tasks, r.outSize = 0 ∨ lineOf l.line.address.toNat ≠ lastOutLine r)) ∧
  (∃ (n : Nat) (t : Nat) (s : State),
    s.pair.trained = true ∧
    alive s = true ∧
    s.mode.mode = mTrack ∧
    s.pair.bulk = some (n, t)) ∧
  (∃ (s : State),
    s.pair.role = 1 ∧
    alive s = true ∧
    partnerTracks s = true ∧
    s.mode.mode ≠ mTrack) ∧
  (∃ (t : Nat) (h : Bool) (s : State),
    s.pair.takeover = some (t, h) ∧
    s.mode.mode = mTrack ∧
    alive s = true ∧
    s.pair.claiming = none ∧
    t + 25 ≤ tickTime s (nextTick s)) ∧
  (∃ (s : State),
    s.pair.trained = true ∧
    alive s = true) ∧
  (∃ (s : State),
    (s.pair.handover = some none ∨ waiter (fun w => w = .handover) s ≠ none)) :=
  ⟨⟨{ type := 4, task := 0, claim := 1, commit := 9, tCommit := 0, mode := 1, lines := [], crc := 0 }, track, by decide +kernel⟩,
   ⟨{ ({ type := 4, task := 0, claim := 1, commit := 9, tCommit := 0, mode := 1, lines := [], crc := 0 } : Bale) with crc := baleCrc { type := 4, task := 0, claim := 1, commit := 9, tCommit := 0, mode := 1, lines := [], crc := 0 } }, track, by decide +kernel⟩,
   ⟨{ type := 4, task := 0, claim := 1, commit := 9, tCommit := 0, mode := 1, lines := [], crc := 0 }, by decide +kernel⟩,
   ⟨{ ({ type := 4, task := 0, claim := 1, commit := 9, tCommit := 0, mode := 1, lines := [], crc := 0 } : Bale) with type := 2 }, by decide +kernel⟩,
   ⟨{ ({ type := 4, task := 0, claim := 1, commit := 9, tCommit := 0, mode := 1, lines := [], crc := 0 } : Bale) with type := 1 }, trec 0 0 0 false, track, by decide +kernel⟩,
   ⟨{ track with pair := { track.pair with bulk := some (0, 0) } }, by decide +kernel⟩,
   ⟨{ task := 0, commit := 9, line := { address := 0x400000, mask := 0, data := zeros 64 } }, track, by decide +kernel⟩,
   ⟨0, 0, { track with pair := { track.pair with bulk := some (0, 0) } }, by decide +kernel⟩,
   ⟨{ run with pair := { run.pair with trained := true, role := 1, beat := some beat1 } }, by decide +kernel⟩,
   ⟨1475, false, { track with pair := { track.pair with takeover := some (1475, false) } }, by decide +kernel⟩,
   ⟨track, by decide +kernel⟩,
   ⟨{ run with pair := { run.pair with handover := some none } }, by decide +kernel⟩⟩

theorem meets_the_retain_store_writes_pages :
  (∃ (s : State),
    fieldAt (block s 0x0510) 0 2 ≠ 0 ∧
    working s.mode.mode = true ∧
    alive s = true) ∧
  (∃ (s : State),
    s.power.stopped = false) ∧
  (∃ (o : RetOp) (l : List RetOp) (s : State),
    s.ret.ops = o :: l ∧
    o.started = false ∧
    s.power.stopped = false) ∧
  (∃ (s : State),
    s.ret.ops = [] ∧
    s.power.stopped = false) ∧
  (∃ (n : Nat) (i : Nat) (b : Bytes) (k : Fin 8) (s : State),
    s.ret.ops = [⟨.param k false, [(n, b)], i, true⟩] ∧
    s.power.stopped = false) ∧
  (∃ (o : Nat) (e : EventRec) (l : List (Nat × EventRec)) (mv : Nat) (s : State),
    s.recorder.queue = (o, e) :: l ∧
    s.power.stopped = false ∧
    s.power.saving = false ∧
    (s.mode.phase = 0 ∨ 4 ≤ s.mode.phase) ∧
    energyOk mv 2 = true ∧
    (s.recorder.lost = 0 ∨ 512 ≤ s.recorder.queue.length)) ∧
  (∃ (o : Nat) (e : EventRec) (l : List (Nat × EventRec)) (mv : Nat) (s : State),
    s.power.stopped = false ∧
    s.power.saving = false ∧
    (s.mode.phase = 0 ∨ 4 ≤ s.mode.phase) ∧
    energyOk mv 2 = true ∧
    (noteOverflow s).recorder.queue = (o, e) :: l) ∧
  (∃ (s : State),
    (s.recorder.lost = 0 ∨ 512 ≤ s.recorder.queue.length)) ∧
  (∃ (s : State),
    s.recorder.lost ≠ 0 ∧
    s.recorder.queue.length < 512) :=
  ⟨⟨run, by decide +kernel⟩,
   ⟨run, by decide +kernel⟩,
   ⟨⟨.param 0 true, [(2048, zeros 64)], 0, false⟩, [],
      { run with ret := { run.ret with ops := [⟨.param 0 true, [(2048, zeros 64)], 0, false⟩] } }, by decide +kernel⟩,
   ⟨run, by decide +kernel⟩,
   ⟨2048, 0, zeros 64, 0, { run with ret := { run.ret with ops := [⟨.param 0 false, [(2048, zeros 64)], 0, true⟩] } },
      by decide +kernel⟩,
   ⟨0, ⟨0, 1, 0x0110, 2, 0, 0, 0, 0⟩, [], 13000,
      { run with recorder := { run.recorder with queue := [(0, ⟨0, 1, 0x0110, 2, 0, 0, 0, 0⟩)] } }, by decide +kernel⟩,
   ⟨0, ⟨0, 1, 0x0110, 2, 0, 0, 0, 0⟩, [(1, ⟨0, 1, 0x0110, 2, 0, 0, 0, 0⟩)], 13000,
      { run with recorder := { run.recorder with lost := 0, queue := [(0, ⟨0, 1, 0x0110, 2, 0, 0, 0, 0⟩), (1, ⟨0, 1, 0x0110, 2, 0, 0, 0, 0⟩)] } }, by decide +kernel⟩,
   ⟨{ run with recorder := { run.recorder with lost := 0, queue := [] } }, by decide +kernel⟩,
   ⟨{ run with recorder := { run.recorder with lost := 7, queue := [(0, ⟨0, 1, 0x0110, 2, 0, 0, 0, 0⟩)] } }, by decide +kernel⟩⟩

theorem meets_supply_events_save_stop_and_restart :
  (∃ (s : State),
    s.power.interrupted = false ∧
    s.power.stopped = false) ∧
  (∃ (us : Nat) (mv : Nat) (s0 : State),
    s0.power.interrupted = true ∧
    s0.power.stopped = false ∧ (
    let s := advanceNet (s0.power.interruptFrom + netPerUs * us)
      (if decide (1000 * s0.power.rideMs ≤ us) && alive s0 && !s0.power.saveDue.isSome then rideOver mv s0 else s0)
    s.power.saving = true)) ∧
  (∃ (us : Nat) (mv : Nat) (s0 : State),
    s0.power.interrupted = true ∧
    s0.power.stopped = false ∧ (
    let s := advanceNet (s0.power.interruptFrom + netPerUs * us)
      (if decide (1000 * s0.power.rideMs ≤ us) && alive s0 && !s0.power.saveDue.isSome then rideOver mv s0 else s0)
    s.power.saving = false ∧
    s.power.saveDue ≠ none)) ∧
  (∃ (us : Nat) (mv : Nat) (s0 : State),
    s0.power.interrupted = true ∧
    s0.power.stopped = false ∧ (
    let s := advanceNet (s0.power.interruptFrom + netPerUs * us)
      (if decide (1000 * s0.power.rideMs ≤ us) && alive s0 && !s0.power.saveDue.isSome then rideOver mv s0 else s0)
    s.power.saving = false ∧
    s.power.saveDue = none)) ∧
  (∃ (s : State),
    s.power.interrupted = true ∧
    alive s = true) ∧
  (∃ (mv : Nat) (s : State),
    s.power.interrupted = true ∧
    alive s = true ∧
    mv ≤ vSave s.power) ∧
  (∃ (s : State),
    s.power.prsntLate = true) ∧
  (∃ (s : State),
    s.power.saving = true ∧
    saveOver s = true) ∧
  (∃ (s : State),
    storeTested s = true) ∧
  (∃ (mv : Nat) (s : State),
    storeTested s = true ∧
    s.power.store = 1 ∧
    36000 ≤ mv) ∧
  (∃ (s : State),
    storeTested s = true ∧
    s.power.store = 1) ∧
  (∃ (s : State),
    s.power.stopped = false) ∧
  (∃ (s : State),
    s.power.coreFault = true) ∧
  (∃ (s : State),
    s.power.prsntLate = false) ∧
  (∃ (s : State),
    s.power.prsntEarly = true ∧
    s.power.mainSwitch = false) ∧
  (∃ (s : State),
    s.power.stopped = true ∧
    s.power.prsntEarly = true ∧
    s.power.prsntLate = true ∧
    s.power.mainSwitch = true) :=
  ⟨⟨run, by decide +kernel⟩,
   ⟨7, 40000, { run with power := { run.power with interrupted := true, saving := true } }, by decide +kernel⟩,
   ⟨7, 40000, { run with power := { run.power with interrupted := true, saveDue := some 0 } }, by decide +kernel⟩,
   ⟨7, 40000, { run with power := { run.power with interrupted := true } }, by decide +kernel⟩,
   ⟨{ run with power := { run.power with interrupted := true } }, by decide +kernel⟩,
   ⟨20000, { run with power := { run.power with interrupted := true } }, by decide +kernel⟩,
   ⟨{ run with power := { run.power with prsntLate := true } }, by decide +kernel⟩,
   ⟨{ run with power := { run.power with saving := true } }, by decide +kernel⟩,
   ⟨run, by decide +kernel⟩,
   ⟨36000, { run with power := { run.power with store := 1 } }, by decide +kernel⟩,
   ⟨{ run with power := { run.power with store := 1 } }, by decide +kernel⟩,
   ⟨run, by decide +kernel⟩,
   ⟨{ run with power := { run.power with coreFault := true, stopped := true } }, by decide +kernel⟩,
   ⟨{ run with power := { run.power with prsntLate := false, mainSwitch := false, prsntEarly := false } }, by decide +kernel⟩,
   ⟨{ run with power := { run.power with prsntEarly := true, mainSwitch := false, prsntLate := false } }, by decide +kernel⟩,
   ⟨{ run with power := { run.power with stopped := true, prsntEarly := true, prsntLate := true, mainSwitch := true } },
      by decide +kernel⟩⟩

theorem meets_start_up_runs_through_its_phases :
  (∃ (r : Bool) (s : State),
    inPhase s 1 = true ∧
    slotGood r s = true) ∧
  (∃ (r : Bool) (s : State),
    inPhase s 1 = true ∧
    slotGood r s = false ∧
    (fwInactive s).state ≠ 2) ∧
  (∃ (r : Bool) (s : State),
    inPhase s 1 = true ∧
    slotGood r s = false ∧
    (fwInactive s).state = 2) ∧
  (∃ (s : State),
    inPhase s 2 = true) ∧
  (∃ (s : State),
    inPhase s 3 = true) ∧
  (∃ (s : State),
    inPhase s 4 = true ∧
    telithOn s = false ∧
    nodeOn s = false) ∧
  (∃ (s : State),
    inPhase s 4 = true ∧
    telithOn s = true ∧
    s.pair.role ≠ 3 ∧
    nodeOn s = true) ∧
  (∃ (s : State),
    inPhase s 5 = true ∧
    (nodeOn s = false ∨ s.ihloz.state = 5 ∨ s.ihloz.state = 6)) ∧
  (∃ (s : State) (c : Sched),
    inPhase s 5 = true ∧
    nodeOn s = true ∧
    s.ihloz.state ≠ 5 ∧
    s.ihloz.state ≠ 6 ∧
    Tab.find s.ihloz.scheds (startMode s) = some c) ∧
  (∃ (s : State),
    inPhase s 6 = true ∧
    s.pair.role ≠ 2) ∧
  (∃ (us : Nat) (n : Nat) (s : State),
    inPhase s 6 = true ∧
    s.pair.role = 2 ∧
    partnerTime s = some (us, n)) ∧
  (∃ (s : State),
    inPhase s 7 = true) ∧
  (∃ (s : State),
    inPhase s 8 = true ∧
    s.power.store ≠ 1 ∧
    s.pair.claiming = none) :=
  ⟨⟨true, phase 1, by decide +kernel⟩,
   ⟨false, phase 1, by decide +kernel⟩,
   ⟨false, { phase 1 with fw := { (phase 1).fw with slot1 := ⟨2, [], 256⟩ } }, by decide +kernel⟩,
   ⟨phase 2, by decide +kernel⟩,
   ⟨phase 3, by decide +kernel⟩,
   ⟨withBlock 0x0401 [(0, 1, 0)] (withBlock 0x0501 [(0, 1, 0)] (phase 4)), by decide +kernel⟩,
   ⟨{ withBlock 0x0501 [(0, 1, 1)] (withBlock 0x0401 [(0, 1, 0x0F)] (phase 4)) with pair := { PairSt.zero with role := 1 } },
      by decide +kernel⟩,
   ⟨phase 5, by decide +kernel⟩,
   ⟨{ withBlock 0x0401 [(0, 1, 0x0F)] (phase 5) with ihloz := { State.reset.ihloz with state := 1, scheds := [(0, sched1)] } },
      sched1, by decide +kernel⟩,
   ⟨{ phase 6 with pair := { PairSt.zero with role := 1 } }, by decide +kernel⟩,
   ⟨2500, 10, { phase 6 with pair := { PairSt.zero with role := 2, partner := some ident1 } }, by decide +kernel⟩,
   ⟨phase 7, by decide +kernel⟩,
   ⟨{ phase 8 with power := { State.reset.power with store := 2 } }, by decide +kernel⟩⟩

theorem meets_clocks_and_watchdog_trip_when_they_fail :
  (∃ (s : State),
    s.power.stopped = false) ∧
  (∃ (b : Fin 4) (s : State),
    (barn s b).present = true ∧
    (barn s b).power ≠ 0 ∧
    alive s = true) ∧
  (∃ (n : Nat) (s : State),
    monitored s = true ∧
    (countOff s.wdt n && s.wdt.badPeriod) = false) ∧
  (∃ (n : Nat) (s : State),
    monitored s = true ∧
    countOff s.wdt n = true ∧
    s.wdt.badPeriod = true) ∧
  (∃ (watch : Bool) (s : State),
    monitoring s = true ∧
    (if watch then s.wdt.watchBad else s.wdt.pilotBad) = false) ∧
  (∃ (s : State),
    alive s = true) ∧
  (∃ (s : State),
    s.wdt.state = 1 ∧
    s.mode.pause = false ∧
    s.wdt.begun = true ∧
    s.wdt.inbox = [] ∧
    s.wdt.disarm = false ∧
    s.wdt.count < wdtP s) ∧
  (∃ (t : BitVec 7) (u : BitVec 7) (s : State),
    s.wdt.state = 1 ∧
    s.mode.pause = false ∧
    s.wdt.begun = true ∧
    s.wdt.armed = false ∧
    s.wdt.disarm = false ∧
    s.wdt.inbox = [.key t 0x5A1C, .key u 0xC3E7] ∧
    wdtC s ≤ s.wdt.count ∧
    wdtMissing s = []) ∧
  (∃ (t : BitVec 7) (v : Half) (l : List WdtIn) (s : State),
    s.wdt.state = 1 ∧
    s.mode.pause = false ∧
    s.wdt.begun = true ∧
    s.wdt.inbox = .key t v :: l ∧
    (s.wdt.armed = false → v ≠ 0x5A1C) ∧
    (s.wdt.armed = true → v ≠ 0xC3E7)) ∧
  (∃ (t : BitVec 7) (l : List WdtIn) (s : State),
    s.wdt.state = 1 ∧
    s.mode.pause = false ∧
    s.wdt.begun = true ∧
    s.wdt.inbox = .key t 0xC3E7 :: l ∧
    s.wdt.armed = true ∧
    s.wdt.count < wdtC s) ∧
  (∃ (s : State),
    s.wdt.state = 1 ∧
    s.mode.pause = true ∧
    s.time.task ≤ (s.mode.pauseFrom + 3000) * usUnit ∧
    s.wdt.begun = true ∧
    s.wdt.inbox = [] ∧
    s.wdt.disarm = false) ∧
  (∃ (s : State),
    s.wdt.state = 1 ∧
    s.mode.pause = true ∧
    (s.mode.pauseFrom + 3000) * usUnit < s.time.task) ∧
  (∃ (s : State),
    s.wdt.state = 1 ∧
    s.mode.pause = false ∧
    s.wdt.begun = true ∧
    s.wdt.inbox = [] ∧
    wdtP s ≤ s.wdt.count) ∧
  (∃ (s : State),
    s.wdt.state = 1 ∧
    s.mode.pause = true) :=
  ⟨⟨run, by decide +kernel⟩,
   ⟨0, run, by decide +kernel⟩,
   ⟨977, run, by decide +kernel⟩,
   ⟨1075, { run with wdt := { run.wdt with badPeriod := true } }, by decide +kernel⟩,
   ⟨false, run, by decide +kernel⟩,
   ⟨run, by decide +kernel⟩,
   ⟨{ run with wdt := { run.wdt with state := 1, begun := true, count := 8191 } }, by decide +kernel⟩,
   ⟨3, 4, { run with wdt := { run.wdt with state := 1, begun := true, inbox := [.key 3 0x5A1C, .key 4 0xC3E7], count := 4096 } },
      by decide +kernel⟩,
   ⟨3, 0x5A1D, [], { run with wdt := { run.wdt with state := 1, begun := true, inbox := [.key 3 0x5A1D] } }, by decide +kernel⟩,
   ⟨3, [], { run with wdt := { run.wdt with state := 1, begun := true, inbox := [.key 3 0xC3E7], armed := true, first := false, cfg := mkBlock 32 [(4, 2, 100)] } }, by decide +kernel⟩,
   ⟨{ { run with wdt := { run.wdt with state := 1, begun := true, count := 5 } } with mode := { run.mode with pause := true, pauseFrom := 1250 } }, by decide +kernel⟩,
   ⟨{ { run with wdt := { run.wdt with state := 1, begun := true, count := 5 } } with mode := { run.mode with pause := true, pauseFrom := 1250 }, time := { run.time with task := 4251 * usUnit } }, by decide +kernel⟩,
   ⟨{ run with wdt := { run.wdt with state := 1, begun := true, count := 8192 } }, by decide +kernel⟩,
   ⟨{ { run with wdt := { run.wdt with state := 1, begun := true, count := 5 } } with mode := { run.mode with pause := true } },
      by decide +kernel⟩⟩

theorem meets_firmware_transfers_run_their_protocol :
  (∃ (k : Fin 8) (x : Transfer) (s : State),
    xferOf s k = some x ∧
    x.sending = true ∧
    x.step = 0 ∧
    served s = true) ∧
  (∃ (kind : Nat) (m : TransferMsg) (s : State) (a : State),
    hear kind m s = some a) ∧
  (∃ (m : TransferMsg) (k : Fin 8) (x : Transfer) (s : State) (a : State),
    hear 1 m s = some a ∧
    peerRing a false false m = some (k, x) ∧
    m.transferId ≠ 0 ∧
    x.step = 0 ∧
    offerRefused a m = 0) ∧
  (∃ (m : TransferMsg) (k : Fin 8) (x : Transfer) (s : State) (a : State),
    hear 1 m s = some a ∧
    peerRing a false false m = some (k, x) ∧
    m.transferId ≠ 0 ∧
    x.step = 0 ∧
    offerRefused a m ≠ 0) ∧
  (∃ (m : TransferMsg) (k : Fin 8) (x : Transfer) (s : State) (a : State),
    peerRing a true true m = some (k, x) ∧
    hear 2 m s = some a ∧
    x.step = 0) ∧
  (∃ (m : TransferMsg) (k : Fin 8) (x : Transfer) (s : State) (a : State),
    peerRing a true true m = some (k, x) ∧
    hear 3 m s = some a) ∧
  (∃ (m : TransferMsg) (k : Fin 8) (x : Transfer) (s : State) (a : State),
    peerRing a true true m = some (k, x) ∧
    hear 5 m s = some a ∧
    (x.step = 1 ∨ x.step = 2)) ∧
  (∃ (m : TransferMsg) (k : Fin 8) (x : Transfer) (s : State) (a : State),
    peerRing a true true m = some (k, x) ∧
    hear 7 m s = some a ∧
    x.step = 2) ∧
  (∃ (m : TransferMsg) (k : Fin 8) (x : Transfer) (s : State),
    peerRing s true true m = some (k, x) ∧
    served s = true ∧
    x.step = 1) ∧
  (∃ (m : TransferMsg) (k : Fin 8) (x : Transfer) (s : State),
    peerRing s true true m = some (k, x) ∧
    served s = true ∧
    x.step = 1 ∧
    x.todo = []) ∧
  (∃ (m : TransferMsg) (k : Fin 8) (x : Transfer) (s : State) (a : State),
    peerRing s true true m = none ∧
    peerRing a false true m = some (k, x) ∧
    x.step = 1 ∧
    hear 4 m s = some a) ∧
  (∃ (m : TransferMsg) (k : Fin 8) (x : Transfer) (s : State) (a : State),
    peerRing s true true m = none ∧
    peerRing a false true m = some (k, x) ∧
    x.step = 1 ∧
    hear 6 m s = some a) ∧
  (∃ (k : Fin 8) (x : Transfer) (s : State),
    xferOf s k = some x ∧
    alive s = true ∧
    x.step ≠ 0 ∧
    x.fromHost = false) ∧
  (∃ (k : Fin 8) (x : Transfer) (s : State),
    xferOf s k = some x ∧
    alive s = true ∧
    x.step = 0) ∧
  (∃ (k : Fin 8) (x : Transfer) (s : State),
    verifying s = some (k, x) ∧
    alive s = true) ∧
  (∃ (t : Nat) (s : State),
    s.mode.pauseAt = some t ∧
    alive s = true ∧
    s.time.ticked = true ∧
    nowUs s = tickTime s s.time.tickNo ∧
    t ≤ nowUs s) ∧
  (∃ (t : Nat) (s : State),
    s.mode.pauseAt = some t ∧
    alive s = true ∧
    (s.time.ticked = false ∨ nowUs s ≠ tickTime s s.time.tickNo ∨ nowUs s < t) ∧
    t ≤ tickTime s (nextTick s)) ∧
  (∃ (s : State),
    s.mode.pause = true ∧
    alive s = true ∧
    (fwInactive s).state = 2) ∧
  (∃ (s : State),
    s.mode.pause = true ∧
    alive s = true) :=
  ⟨⟨0, xfer true 0, moving (xfer true 0), by decide +kernel⟩,
   ⟨2, msg 0, heard 2 (msg 0) run, run, by decide +kernel⟩,
   ⟨{ msg 256 with body := mkBlock 24 [(0, 4, 0x42465A42), (4, 1, 1), (12, 4, 256), (16, 1, 2)] }, 0, xfer false 0,
      heard 1 ({ msg 256 with body := mkBlock 24 [(0, 4, 0x42465A42), (4, 1, 1), (12, 4, 256), (16, 1, 2)] }) (moving (xfer false 0)), moving (xfer false 0), by decide +kernel⟩,
   ⟨msg 256, 0, xfer false 0, heard 1 (msg 256) (moving (xfer false 0)), moving (xfer false 0), by decide +kernel⟩,
   ⟨msg 0, 0, xfer true 0, heard 2 (msg 0) (moving (xfer true 0)), moving (xfer true 0), by decide +kernel⟩,
   ⟨msg 1, 0, xfer true 1, heard 3 (msg 1) (moving (xfer true 1)), moving (xfer true 1), by decide +kernel⟩,
   ⟨msg 128, 0, xfer true 2, heard 5 (msg 128) (moving (xfer true 2)), moving (xfer true 2), by decide +kernel⟩,
   ⟨msg 0, 0, xfer true 2, heard 7 (msg 0) (moving (xfer true 2)), moving (xfer true 2), by decide +kernel⟩,
   ⟨msg 0, 0, xfer true 1, moving (xfer true 1), by decide +kernel⟩,
   ⟨msg 0, 0, xfer true 1, moving (xfer true 1), by decide +kernel⟩,
   ⟨{ msg 0 with count := 2, body := zeros 2 }, 0, xfer false 1,
      heard 4 ({ msg 0 with count := 2, body := zeros 2 }) (moving (xfer false 1)), moving (xfer false 1), by decide +kernel⟩,
   ⟨msg 0, 0, xfer false 1, heard 6 (msg 0) (moving (xfer false 1)), moving (xfer false 1), by decide +kernel⟩,
   ⟨0, xfer false 1, moving (xfer false 1), by decide +kernel⟩,
   ⟨0, xfer true 0, moving (xfer true 0), by decide +kernel⟩,
   ⟨0, { xfer false 3 with fromHost := true }, moving { xfer false 3 with fromHost := true }, by decide +kernel⟩,
   ⟨1250, { run with mode := { run.mode with pauseAt := some 1250 } }, by decide +kernel⟩,
   ⟨1300, { run with mode := { run.mode with pauseAt := some 1300 } }, by decide +kernel⟩,
   ⟨{ run with mode := { run.mode with pause := true, pauseFrom := 1250 }, fw := { run.fw with slot1 := ⟨2, [], 256⟩ } },
      by decide +kernel⟩,
   ⟨{ run with mode := { run.mode with pause := true, pauseFrom := 1250 } }, by decide +kernel⟩⟩

end Sys2Proof.Tests
end

/-! PROOFS. The arithmetic units of a stall (Morfold Units Reference): from the row of a trigger to the context that its bundle
leaves, what the ALU, the multiply-accumulate unit and the check unit compute, and the obligations O30, O31 and O32. -/

namespace Sys2Proof.Machine

/-! ### What an end of a step leaves of the contexts -/

@[simp] theorem endStep_stalls (t : BitVec 7) (issued : Nat) (s : State) : (endStep t issued s).stalls = s.stalls := by
  simp [endStep, List.finRange_succ]

@[simp] theorem settleStep_stalls (t : BitVec 7) (issued : Nat) (s : State) : (settleStep t issued s).stalls = s.stalls := by
  unfold settleStep
  split
  · rfl
  · dsimp only
    split
    · rw [endStep_stalls]
      split <;> rfl
    · rfl

@[simp] theorem stopPair_stalls (t : BitVec 7) (s : State) : (stopPair t s).stalls = s.stalls := rfl

/-- Two states with the same stalls have the same stall. -/
theorem stall_congr {s t : State} (h : t.stalls = s.stalls) (u : StallId) : stall t u = stall s u := by
  simp only [stall, h]

@[simp] theorem ctx_setCtx (u : StallId) (g : Ctx → Ctx) (s : State) : (stall (setCtx u g s) u).ctx = g (stall s u).ctx := by
  simp [setCtx]

@[simp] theorem ctx_modInst (u : StallId) (f : Fin 4) (g : Inst → Inst) (s : State) :
    (stall (modInst u f g s) u).ctx = (stall s u).ctx := by
  simp [modInst, setSlot]

/-- The context engine saves the context and leaves it in the stall's registers. -/
@[simp] theorem ctx_toFrame (u : StallId) (f : Fin 4) (ph : Phase) (s : State) :
    (stall (toFrame u f ph s) u).ctx = (stall s u).ctx := by
  unfold toFrame
  split
  · simp only [ctx_modInst, stall_modStall_self, saveFrame, takeMany]
    rfl
  · rfl

@[simp] theorem ctx_holdAgain (u : StallId) (f : Fin 4) (s : State) :
    (stall (holdAgain u f s) u).ctx = (stall s u).ctx := by
  unfold holdAgain
  split
  · split
    · rw [stall_congr (settleStep_stalls ..), stall_congr (stopPair_stalls ..), ctx_modInst, ctx_toFrame]
    · rfl
  · rfl

/-- A bundle that asks for nothing besides its effect on the context goes on to its next address. -/
theorem ctx_finish_noEff (u : StallId) (f : Fin 4) (cyc : Nat) (s : State) :
    (stall (finish u f cyc noEff s) u).ctx = nextAddress noEff (stall s u).ctx := by
  simp [finish, noEff]

/-! ### The next address and the moves leave the units' results -/

section
variable (e : Eff) (c : Ctx)

/-- The next address changes the address and the repeat alone. -/
theorem nextAddress_frame : nextAddress e c =
    { c with pc := (nextAddress e c).pc, rptCount := (nextAddress e c).rptCount, rptState := (nextAddress e c).rptState } := by
  unfold nextAddress
  dsimp only
  split
  · rfl
  · split <;> rfl

@[simp] theorem nextAddress_aluRes : (nextAddress e c).aluRes = c.aluRes := by rw [nextAddress_frame]
@[simp] theorem nextAddress_aluFlags : (nextAddress e c).aluFlags = c.aluFlags := by rw [nextAddress_frame]
@[simp] theorem nextAddress_acc : (nextAddress e c).acc = c.acc := by rw [nextAddress_frame]
@[simp] theorem nextAddress_chkCrc : (nextAddress e c).chkCrc = c.chkCrc := by rw [nextAddress_frame]
@[simp] theorem nextAddress_chkPar : (nextAddress e c).chkPar = c.chkPar := by rw [nextAddress_frame]
@[simp] theorem nextAddress_chkRev : (nextAddress e c).chkRev = c.chkRev := by rw [nextAddress_frame]

end

@[simp] theorem satFlag_acc (c : Ctx) : (satFlag c).acc = c.acc := by
  unfold satFlag
  split <;> rfl

@[simp] theorem satFlag_aluFlags (c : Ctx) : (satFlag c).aluFlags = c.aluFlags := by
  unfold satFlag
  split <;> rfl

@[simp] theorem writeSocket_aluFlags (d : Nat) (a : Word) (c : Ctx) : (writeSocket d a c).aluFlags = c.aluFlags := by
  unfold writeSocket
  split
  · rfl
  · split
    · dsimp only
      split <;> rfl
    · split <;> rfl

@[simp] theorem writeBoth_aluFlags (b : MoveWord × MoveWord) (a0 a1 : Word) (c : Ctx) :
    (writeBoth b a0 a1 c).aluFlags = c.aluFlags := by
  unfold writeBoth
  dsimp only
  split <;> split <;> simp

@[simp] theorem advanceAg_aluFlags (b : MoveWord × MoveWord) (c : Ctx) : (advanceAg b c).aluFlags = c.aluFlags := by
  unfold advanceAg
  refine List.foldlRecOn (motive := fun x : Ctx => x.aluFlags = c.aluFlags) _ _ rfl fun x hx n _ => ?_
  dsimp only
  split
  · exact hx
  · exact hx

/-- No move writes ALU.FLAGS (R191, R194): Cin of a bundle is the carry that the previous ALU trigger left (R219). -/
@[simp] theorem aluFlags_moved (u : StallId) (i : Inst) (b : MoveWord × MoveWord) (cyc : Nat) (s : State) :
    (stall (moved u i b cyc s) u).ctx.aluFlags = (stall s u).ctx.aluFlags := by
  simp [moved]

@[simp] theorem ctx_armed (u : StallId) (f : Fin 4) (i : Inst) (b : MoveWord × MoveWord) (cyc : Nat) (s : State) :
    (stall (armed u f i b cyc s) u).ctx = (stall (moved u i b cyc s) u).ctx := by
  simp [armed]

/-! ### The row of a trigger -/

/-- The row of a trigger issues the stall's next bundle where it carries that trigger. -/
theorem exec_of_triggerRow {c : Instr} {u : StallId} {n : Nat} (h : triggerRow c = some (u, n)) (s : State) :
    exec c s = .next (issueTrigger u n s) := by
  cases c <;> simp only [triggerRow, Option.some.injEq, Prod.mk.injEq, reduceCtorEq] at h <;>
    obtain ⟨rfl, rfl⟩ := h <;> rfl

/-- A socket that is no trigger starts nothing. -/
theorem fire_of_not_trigger {d : Nat} (h : unitOf d = 0) (u : StallId) (f : Fin 4) (cyc : Nat) (flags a : Word) (p : Eff × State) :
    fire u f cyc flags d a p = p := by
  simp only [fire, h, reduceIte, OfNat.zero_ne_ofNat, zero_ne_one]
  split
  pick_goal -1
  · rfl
  all_goals exact absurd h (by decide)

/-- What the two triggers of a bundle do is what its only one does. -/
theorem fire_only {n : Nat} (hn : unitOf n ≠ 0) {b : MoveWord × MoveWord} (hc : dstOf b.1 = n ∨ dstOf b.2 = n)
    (hz : unitOf (dstOf b.1) = 0 ∨ unitOf (dstOf b.2) = 0) (u : StallId) (f : Fin 4) (i : Inst) (cyc : Nat) (flags : Word)
    (s : State) (p : Eff × State) :
    fire u f cyc flags (dstOf b.2) (sourceValue u i (stall s u).ctx cyc (srcOf b.2))
      (fire u f cyc flags (dstOf b.1) (sourceValue u i (stall s u).ctx cyc (srcOf b.1)) p) =
    fire u f cyc flags n (movedTo u i b cyc n s) p := by
  by_cases h1 : dstOf b.1 = n
  · have h2 : unitOf (dstOf b.2) = 0 := hz.resolve_left (h1 ▸ hn)
    rw [fire_of_not_trigger h2, movedTo, if_pos h1, h1]
  · have h2 : dstOf b.2 = n := hc.resolve_left h1
    have h0 : unitOf (dstOf b.1) = 0 := hz.resolve_right (h2 ▸ hn)
    rw [fire_of_not_trigger h0, movedTo, if_neg h1, h2]

/-- A bundle with one trigger that asks for nothing besides its effect on the state has that effect. -/
theorem issueTrigger_only {u : StallId} {n : Nat} {f : Fin 4} {i : Inst} {b : MoveWord × MoveWord} {cyc : Nat} {s t : State}
    (hn : unitOf n ≠ 0) (hr : ready s u = some (f, i, b, cyc)) (ho : onlyTrigger u i b cyc n s = true)
    (hf : fire u f cyc (stall s u).ctx.aluFlags n (movedTo u i b cyc n s) (noEff, armed u f i b cyc s) = (noEff, t)) :
    issueTrigger u n s = finish u f cyc noEff t := by
  simp only [onlyTrigger, Bool.and_eq_true, Bool.or_eq_true, Bool.not_eq_true', decide_eq_true_eq] at ho
  obtain ⟨⟨⟨hend, hcarry⟩, hz⟩, hodd⟩ := ho
  have hc : dstOf b.1 = n ∨ dstOf b.2 = n := by
    simp only [carries, Bool.and_eq_true, Bool.or_eq_true, decide_eq_true_eq] at hcarry
    exact hcarry.2
  have hp := (fire_only hn hc hz u f i cyc (stall s u).ctx.aluFlags s (noEff, armed u f i b cyc s)).trans hf
  simp only [armed, moved] at hp
  simp only [issueTrigger, hr, hend, hcarry, issueMoves, hodd, hp]
  rfl

/-- The context that a row leaves whose only trigger acts on the context alone. -/
theorem exec_ctx_of_fire {c : Instr} {u : StallId} {n : Nat} {f : Fin 4} {i : Inst} {b : MoveWord × MoveWord} {cyc : Nat}
    {s : State} {g : Ctx → Ctx} (hc : triggerRow c = some (u, n)) (hn : unitOf n ≠ 0) (hr : ready s u = some (f, i, b, cyc))
    (ho : onlyTrigger u i b cyc n s = true)
    (hf : fire u f cyc (stall s u).ctx.aluFlags n (movedTo u i b cyc n s) (noEff, armed u f i b cyc s) =
      (noEff, setCtx u g (armed u f i b cyc s))) :
    ∃ t, exec c s = .next t ∧ (stall t u).ctx = nextAddress noEff (g (stall (moved u i b cyc s) u).ctx) := by
  refine ⟨_, exec_of_triggerRow hc s, ?_⟩
  rw [issueTrigger_only hn hr ho hf, ctx_finish_noEff, ctx_setCtx, ctx_armed]

/-! ### Results and flags of the ALU by exact integers (R218) -/

/-- A value that a signed word cannot hold. -/
def overflows (v : Int) : Bool := decide (v < -(2 ^ 31)) || decide (2 ^ 31 ≤ v)

/-- ALU.FLAGS by the places of Table 2, N being the top bit of the word `d` and Z that it is zero. -/
theorem packFlags_exact (d : Word) (c v : Bool) : packFlags d.msb (d = 0) c v =
    BitVec.ofNat 32 (8 * (d.toNat / 2 ^ 31) + (if d = 0 then 4 else 0) + (if c then 2 else 0) + (if v then 1 else 0)) := by
  have hn : b2n d.msb = d.toNat / 2 ^ 31 := by
    have := d.isLt
    simp only [BitVec.msb_eq_decide, b2n, decide_eq_true_eq]
    split <;> omega
  have hz : 4 * b2n (decide (d = 0)) = if d = 0 then 4 else 0 := by by_cases h : d = 0 <;> simp [b2n, h]
  have hc : 2 * b2n c = if c then 2 else 0 := by cases c <;> rfl
  rw [packFlags, hn, hz, hc, b2n]
  congr 1
  omega

/-- The sum of two words and a carry leaves the signed range just where the operands agree in sign and the result does not. -/
theorem sum_overflows (a b r : Word) (c : Bool) (hr : r.toNat = (a.toNat + b.toNat + b2n c) % 2 ^ 32) :
    (decide (a.msb = b.msb) && r.msb != a.msb) = overflows (a.toInt + b.toInt + b2n c) := by
  have ha := a.isLt
  have hb := b.isLt
  have hc : b2n c ≤ 1 := by cases c <;> decide
  rw [Bool.eq_iff_iff]
  simp only [overflows, BitVec.msb_eq_decide, BitVec.toInt_eq_toNat_cond, Bool.and_eq_true, Bool.or_eq_true, bne_iff_ne, ne_eq,
    decide_eq_true_eq, decide_eq_decide, hr]
  omega

/-- A + B + carry in, its carry out and its overflow. -/
theorem addFlags_exact (a b : Word) (c : Bool) :
    let r := BitVec.ofNat 32 (a.toNat + b.toNat + b2n c)
    addFlags a b c = (r, packFlags r.msb (r = 0) (decide (2 ^ 32 ≤ a.toNat + b.toNat + b2n c))
      (overflows (a.toInt + b.toInt + b2n c))) := by
  intro r
  have hr : a + b + (if c then 1 else 0) = r := by
    apply BitVec.eq_of_toNat_eq
    cases c <;> simp [r, b2n]
  rw [addFlags, hr, ← sum_overflows a b r c (BitVec.toNat_ofNat ..)]

/-- A + B and its flags. -/
theorem addFlags_no_carry (a b : Word) :
    let r := BitVec.ofNat 32 (a.toNat + b.toNat)
    addFlags a b false = (r, packFlags r.msb (r = 0) (decide (2 ^ 32 ≤ a.toNat + b.toNat)) (overflows (a.toInt + b.toInt))) := by
  have := addFlags_exact a b false
  simpa [b2n] using this

/-- A - B - 1 + carry in: C is 1 when no borrow occurs. -/
theorem subFlags_exact (a b : Word) (c : Bool) :
    let r := BitVec.ofInt 32 (a.toInt - b.toInt - 1 + b2n c)
    subFlags a b c = (r, packFlags r.msb (r = 0) (decide (b.toNat + 1 ≤ a.toNat + b2n c))
      (overflows (a.toInt - b.toInt - 1 + b2n c))) := by
  intro r
  have hb := b.isLt
  have hn : (~~~b).toNat = 2 ^ 32 - 1 - b.toNat := BitVec.toNat_not
  have hi : (~~~b).toInt = -b.toInt - 1 := by
    simp only [BitVec.toInt_eq_toNat_cond, hn]
    omega
  have hr : BitVec.ofNat 32 (a.toNat + (~~~b).toNat + b2n c) = r := by
    apply BitVec.eq_of_toNat_eq
    simp only [r, BitVec.toNat_ofNat, BitVec.toNat_ofInt, BitVec.toInt_eq_toNat_cond, hn]
    omega
  have hc : decide (2 ^ 32 ≤ a.toNat + (~~~b).toNat + b2n c) = decide (b.toNat + 1 ≤ a.toNat + b2n c) := by
    rw [hn, decide_eq_decide]
    omega
  have hv : a.toInt + (~~~b).toInt + b2n c = a.toInt - b.toInt - 1 + b2n c := by
    rw [hi]
    omega
  rw [subFlags, addFlags_exact, hr, hc, hv]

/-- A - B and its flags. -/
theorem subFlags_no_borrow (a b : Word) :
    let r := BitVec.ofInt 32 (a.toInt - b.toInt)
    subFlags a b true = (r, packFlags r.msb (r = 0) (decide (b.toNat ≤ a.toNat)) (overflows (a.toInt - b.toInt))) := by
  have := subFlags_exact a b true
  simpa [b2n] using this

theorem shiftLeft_exact (a : Word) (n : Nat) : a <<< n = BitVec.ofNat 32 (a.toNat * 2 ^ n) := by
  apply BitVec.eq_of_toNat_eq
  rw [BitVec.toNat_shiftLeft, BitVec.toNat_ofNat, Nat.shiftLeft_eq]

theorem ushiftRight_exact (a : Word) (n : Nat) : a >>> n = BitVec.ofNat 32 (a.toNat / 2 ^ n) := by
  apply BitVec.eq_of_toNat_eq
  rw [BitVec.toNat_ushiftRight, BitVec.toNat_ofNat, Nat.shiftRight_eq_div_pow,
    Nat.mod_eq_of_lt (Nat.lt_of_le_of_lt (Nat.div_le_self ..) a.isLt)]

theorem sshiftRight_exact (a : Word) (n : Nat) : a.sshiftRight n = BitVec.ofInt 32 (a.toInt / 2 ^ n) := by
  rw [BitVec.sshiftRight, Int.shiftRight_eq_div_pow]
  norm_cast

/-- A rotation puts the bits shifted out above below the others. -/
theorem rotateLeft_exact (a : Word) {n : Nat} (h : n < 32) :
    a.rotateLeft n = BitVec.ofNat 32 (a.toNat * 2 ^ n % 2 ^ 32 + a.toNat * 2 ^ n / 2 ^ 32) := by
  have hp : 2 ^ 32 = 2 ^ n * 2 ^ (32 - n) := by rw [← pow_add, Nat.add_sub_cancel' h.le]
  have hlow : a.toNat / 2 ^ (32 - n) < 2 ^ n := Nat.div_lt_of_lt_mul (by rw [mul_comm, ← hp]; exact a.isLt)
  have hhi : a.toNat * 2 ^ n % 2 ^ 32 = 2 ^ n * (a.toNat % 2 ^ (32 - n)) := by
    rw [hp, mul_comm, Nat.mul_mod_mul_left]
  have hout : a.toNat * 2 ^ n / 2 ^ 32 = a.toNat / 2 ^ (32 - n) := by
    rw [hp, mul_comm, Nat.mul_div_mul_left _ _ (Nat.two_pow_pos n)]
  apply BitVec.eq_of_toNat_eq
  rw [BitVec.toNat_rotateLeft, Nat.mod_eq_of_lt h, Nat.shiftLeft_eq, Nat.shiftRight_eq_div_pow, BitVec.toNat_ofNat, hout, hhi,
    Nat.two_pow_add_eq_or_of_lt hlow, ← hhi]
  exact (Nat.mod_eq_of_lt (Nat.or_lt_two_pow (Nat.mod_lt _ (by decide)) (hlow.trans (Nat.pow_lt_pow_right (by decide) h)))).symm

theorem min_exact (a b : Word) : (if b.slt a then b else a) = BitVec.ofInt 32 (min a.toInt b.toInt) := by
  rw [BitVec.slt_eq_decide]
  by_cases h : b.toInt < a.toInt
  · simp [h, min_eq_right h.le]
  · simp [h, min_eq_left (not_lt.mp h)]

theorem max_exact (a b : Word) : (if a.slt b then b else a) = BitVec.ofInt 32 (max a.toInt b.toInt) := by
  rw [BitVec.slt_eq_decide]
  by_cases h : a.toInt < b.toInt
  · simp [h, max_eq_right h.le]
  · simp [h, max_eq_left (not_lt.mp h)]

/-- The ALU gives the result and the flags of Table 1: CMP, MIN and MAX take N and Z from the difference. -/
theorem aluOp_exact (a b old : Word) {n : Nat} (h1 : 0x21 ≤ n) (h2 : n ≤ 0x2F) :
    let e := aluExact n a b (flagC old)
    let d := if aluCompares n then BitVec.ofInt 32 (a.toInt - b.toInt) else e.1
    aluOp n a b old = (e.1, packFlags d.msb (d = 0) e.2.1 e.2.2) := by
  have hs : b.toNat % 32 < 32 := Nat.mod_lt _ (by decide)
  have hs0 : (b.toNat % 32 != 0) = decide (1 ≤ b.toNat % 32) := by
    rw [Bool.eq_iff_iff, bne_iff_ne, decide_eq_true_iff, Nat.one_le_iff_ne_zero]
  have hsub := congrArg Prod.snd (subFlags_no_borrow a b)
  interval_cases n
  · -- ADD
    exact addFlags_no_carry a b
  · -- ADC
    exact addFlags_exact a b (flagC old)
  · -- SUB
    exact subFlags_no_borrow a b
  · -- SBC
    exact subFlags_exact a b (flagC old)
  · -- AND
    rfl
  · -- OR
    rfl
  · -- XOR
    rfl
  · -- ANDN
    rfl
  · -- SHL
    simp only [aluOp, aluExact, plainFlags, shiftLeft_exact, hs0]
    rfl
  · -- SHR
    simp only [aluOp, aluExact, plainFlags, ushiftRight_exact, hs0]
    rfl
  · -- SAR
    simp only [aluOp, aluExact, plainFlags, sshiftRight_exact, hs0]
    rfl
  · -- ROL
    simp only [aluOp, aluExact, plainFlags, rotateLeft_exact a hs]
    rfl
  · -- MIN
    exact Prod.ext (min_exact a b) hsub
  · -- MAX
    exact Prod.ext (max_exact a b) hsub
  · -- CMP
    exact Prod.ext rfl hsub

/-! ### Multiply-accumulate modulo 2^72 (R221) -/

theorem toNat_ofInt_emod (v : Int) : ((BitVec.ofInt 72 v).toNat : Int) = v % 2 ^ 72 := by
  rw [BitVec.toNat_ofInt, Int.toNat_of_nonneg (Int.emod_nonneg _ (by decide))]
  rfl

/-- Read as signed or not, ACC is its bits modulo 2^72. -/
theorem accValue_emod (cfg : Word) (acc : BitVec 72) : accValue cfg acc % 2 ^ 72 = (acc.toNat : Int) % 2 ^ 72 := by
  unfold accValue
  split
  · rw [BitVec.toInt_eq_toNat_cond]
    split
    · rfl
    · omega
  · rfl

/-- ACC after a trigger: the product, or it added to or subtracted from ACC, modulo 2^72. -/
theorem macOp_exact (cfg : Word) (acc : BitVec 72) (a b : Word) {n : Nat} (h1 : 0x31 ≤ n) (h2 : n ≤ 0x33) :
    let p := macOperand (cfg.getLsbD 0) a * macOperand (cfg.getLsbD 1) b
    let old : Int := if n = 0x31 then 0 else acc.toNat
    ((macOp n cfg acc a b).1.toNat : Int) = (if n = 0x33 then old - p else old + p) % 2 ^ 72 := by
  intro p
  have hacc := accValue_emod cfg acc
  interval_cases n
  · -- MUL
    exact (toNat_ofInt_emod p).trans (congrArg (· % 2 ^ 72) (zero_add p).symm)
  · -- MAC
    exact (toNat_ofInt_emod (accValue cfg acc + p)).trans (Int.ModEq.add_right p hacc)
  · -- MSU
    exact (toNat_ofInt_emod (accValue cfg acc - p)).trans (Int.ModEq.sub_right p hacc)

/-! ### Check unit -/

/-- The parity of a number is that of the count of its bits set. -/
theorem parity_eq (w a : Nat) : parity w a = (List.range w).countP (fun k => a.testBit k) % 2 := by
  suffices h : (List.range w).foldl (fun r i => r + a / 2 ^ i % 2) 0 = (List.range w).countP (fun k => a.testBit k) by
    rw [parity, h]
  induction w with
  | zero => rfl
  | succ w ih =>
    rw [List.range_succ, List.foldl_append, List.countP_append, ih, List.foldl_cons, List.foldl_nil, List.countP_singleton,
      ← Nat.toNat_testBit]
    cases a.testBit w <;> rfl

theorem parity_lt (w a : Nat) : parity w a < 2 := Nat.mod_lt _ (by decide)

/-- XOR of the bits of byte `j` of a word. -/
def byteParity (a : Word) (j : Nat) : Nat := parity 8 (a.toNat / 2 ^ (8 * j) % 2 ^ 8)

theorem byteParity_eq (a : Word) (j : Nat) :
    byteParity a j = (List.range 8).countP (fun k => a.getLsbD (8 * j + k)) % 2 := by
  rw [byteParity, parity_eq]
  congr 1
  refine List.countP_congr fun k hk => ?_
  rw [Nat.testBit_mod_two_pow, Nat.testBit_div_two_pow, BitVec.testBit_toNat, Nat.add_comm k]
  simp [List.mem_range.mp hk]

/-- CHK.PAR as its five parities. -/
theorem chkPar_eq (a : Word) : chkPar a = BitVec.ofNat 32 (parity 32 a.toNat + 2 * byteParity a 0 + 4 * byteParity a 1 +
    8 * byteParity a 2 + 16 * byteParity a 3) := by
  have h0 : byteParity a 0 = parity 8 (a.toNat % 256) := by
    rw [byteParity, Nat.mul_zero, pow_zero, Nat.div_one]
    rfl
  have h3 : byteParity a 3 = parity 8 (a.toNat / 2 ^ 24) := by
    have := a.isLt
    rw [byteParity, Nat.mod_eq_of_lt (by omega)]
  rw [h0, h3]
  rfl

/-- Five bits spell a number that shows them in order and zero above. -/
theorem testBit_five {p q r s t : Nat} (hp : p < 2) (hq : q < 2) (hr : r < 2) (hs : s < 2) (ht : t < 2) (k : Nat) :
    (p + 2 * q + 4 * r + 8 * s + 16 * t).testBit k = decide ([p, q, r, s, t].getD k 0 = 1) := by
  by_cases hk : k < 5
  · rw [Nat.testBit_eq_decide_div_mod_eq, decide_eq_decide]
    interval_cases k <;> simp only [List.getD_cons_zero, List.getD_cons_succ] <;> omega
  · have hv : p + 2 * q + 4 * r + 8 * s + 16 * t < 2 ^ k :=
      lt_of_lt_of_le (by omega) (Nat.pow_le_pow_right (by decide) (not_lt.mp hk))
    rw [Nat.testBit_lt_two_pow hv, List.getD_eq_default _ _ (by simpa using hk)]
    rfl

/-- The bits of CHK.PAR: the parities of the word and of its bytes, and zero above (Table 6). -/
theorem chkPar_getLsbD (a : Word) (k : Nat) : (chkPar a).getLsbD k =
    decide ((parity 32 a.toNat :: (List.range 4).map (byteParity a)).getD k 0 = 1) := by
  have hlt (j : Nat) : byteParity a j < 2 := parity_lt ..
  rw [chkPar_eq, BitVec.getLsbD_ofNat, testBit_five (parity_lt ..) (hlt 0) (hlt 1) (hlt 2) (hlt 3)]
  by_cases hk : k < 32
  · rw [decide_eq_true hk, Bool.true_and]
    rfl
  · have hl : (parity 32 a.toNat :: (List.range 4).map (byteParity a)).length ≤ k := by
      rw [List.length_cons, List.length_map, List.length_range]
      omega
    rw [decide_eq_false hk, Bool.false_and, List.getD_eq_default _ _ hl]
    rfl

/-- Bit 0 of CHK.PAR is the XOR of the word. -/
theorem chkPar_word (a : Word) :
    (chkPar a).getLsbD 0 = decide ((List.range 32).countP (fun k => a.getLsbD k) % 2 = 1) := by
  rw [chkPar_getLsbD, List.getD_cons_zero, parity_eq]
  rfl

/-- Bits 1 to 4 of CHK.PAR are the XORs of the bytes. -/
theorem chkPar_byte (a : Word) {k : Nat} (hk : k < 4) : (chkPar a).getLsbD (k + 1) =
    decide ((List.range 8).countP (fun j => a.getLsbD (8 * k + j)) % 2 = 1) := by
  rw [chkPar_getLsbD, List.getD_cons_succ, ← byteParity_eq]
  simp [hk]

theorem chkPar_above (a : Word) {k : Nat} (hk : 5 ≤ k) : (chkPar a).getLsbD k = false := by
  rw [chkPar_getLsbD, List.getD_eq_default _ _ hk]
  rfl

theorem revBits_succ (w a : Nat) : revBits (w + 1) a = 2 * revBits w a + a / 2 ^ w % 2 := by
  rw [revBits, List.range_succ, List.foldl_append]
  rfl

/-- Bits reversed over a width. -/
theorem revBits_testBit (w a k : Nat) : (revBits w a).testBit k = (decide (k < w) && a.testBit (w - 1 - k)) := by
  induction w generalizing k with
  | zero => simp [revBits]
  | succ w ih =>
    cases k with
    | zero =>
      rw [revBits_succ, Nat.testBit_zero, Nat.testBit_eq_decide_div_mod_eq]
      simp
    | succ k =>
      have hh : (2 * revBits w a + a / 2 ^ w % 2) / 2 = revBits w a := by omega
      rw [revBits_succ, Nat.testBit_succ, hh, ih, Nat.add_sub_cancel, Nat.sub_sub, Nat.add_comm 1 k]
      simp

theorem revBits_lt (w a : Nat) : revBits w a < 2 ^ w :=
  Nat.lt_pow_two_of_testBit _ fun k hk => by simp [revBits_testBit, hk]

/-- Only the bits within the width matter to their reversal. -/
theorem revBits_mod (w a : Nat) : revBits w (a % 2 ^ w) = revBits w a := by
  apply Nat.eq_of_testBit_eq
  intro k
  rw [revBits_testBit, revBits_testBit, Nat.testBit_mod_two_pow]
  by_cases h : k < w
  · rw [decide_eq_true (by omega : w - 1 - k < w), Bool.true_and]
  · simp [h]

/-- CHK.REV reverses the low REV_W + 1 bits (R229). -/
theorem chkRev_getLsbD (cfg a : Word) {k : Nat} (hk : k < 32) : (chkRev cfg a).getLsbD k =
    (decide (k ≤ cfg.toNat / 256 % 32) && a.getLsbD (cfg.toNat / 256 % 32 - k)) := by
  rw [chkRev, BitVec.getLsbD_ofNat, revBits_testBit, BitVec.testBit_toNat, Nat.add_sub_cancel]
  simp [hk]

theorem chkWidth_eq {k : Nat} (h4 : k < 4) (h : k ≠ 3) : chkWidth k = 8 * 2 ^ k := by
  interval_cases k
  · rfl
  · rfl
  · rfl
  · exact absurd rfl h

theorem chkWidth_le (k : Nat) : chkWidth k ≤ 32 := by
  unfold chkWidth
  split
  · decide
  · split <;> decide

/-- The polynomial in reversed bit order, as a sum of powers of two. -/
theorem sum_reversed_bits (w a : Nat) :
    ((List.range w).map (fun k => if a.testBit k then 2 ^ (w - 1 - k) else 0)).sum = revBits w a := by
  induction w with
  | zero => rfl
  | succ w ih =>
    have hd : (List.range w).map (fun k => if a.testBit k then 2 ^ (w + 1 - 1 - k) else 0) =
        (List.range w).map (fun k => 2 * if a.testBit k then 2 ^ (w - 1 - k) else 0) := by
      refine List.map_congr_left fun k hk => ?_
      have hw : w + 1 - 1 - k = w - 1 - k + 1 := by
        have := List.mem_range.mp hk
        omega
      rw [hw, pow_succ, mul_comm (2 ^ _), mul_ite, mul_zero]
    rw [List.range_succ, List.map_append, List.sum_append, hd, List.sum_map_mul_left, ih, revBits_succ, ← Nat.toNat_testBit]
    simp [Bool.toNat, Bool.cond_eq_ite]

/-- One data bit folded into the check register, by plain arithmetic (R226). -/
def crcBit (refin : Bool) (w poly c : Nat) (d : Bool) : Nat :=
  if refin then (c / 2) ^^^ (if c.testBit 0 != d then revBits w poly else 0)
  else (2 * c % 2 ^ w) ^^^ (if c.testBit (w - 1) != d then poly % 2 ^ w else 0)

theorem lowBits_toNat {w : Nat} (hw : w ≤ 32) (a : Word) : (lowBits w a).toNat = a.toNat % 2 ^ w := by
  rw [lowBits, BitVec.toNat_ofNat, Nat.mod_eq_of_lt]
  exact (Nat.mod_lt _ (Nat.two_pow_pos w)).trans_le (Nat.pow_le_pow_right (by decide) hw)

/-- The unit folds a data bit as the procedure of R226 does. -/
theorem chkBit_toNat (refin : Bool) {w : Nat} (hw : w ≤ 32) (poly crc : Word) (d : Bool) :
    (chkBit refin w (lowBits w poly) crc d).toNat = crcBit refin w poly.toNat crc.toNat d := by
  cases refin with
  | true =>
    have hrev : revBits w poly.toNat < 2 ^ 32 := (revBits_lt ..).trans_le (Nat.pow_le_pow_right (by decide) hw)
    simp only [chkBit, crcBit, if_true, lowBits_toNat hw, revBits_mod, BitVec.testBit_toNat]
    split
    · rw [BitVec.toNat_xor, BitVec.toNat_ushiftRight, BitVec.toNat_ofNat, Nat.mod_eq_of_lt hrev]
      rfl
    · rw [BitVec.toNat_ushiftRight, Nat.xor_zero]
      rfl
  | false =>
    have hshift : (lowBits w (crc <<< 1)).toNat = 2 * crc.toNat % 2 ^ w := by
      rw [lowBits_toNat hw, BitVec.toNat_shiftLeft, Nat.mod_mod_of_dvd _ (Nat.pow_dvd_pow 2 hw), Nat.shiftLeft_eq, mul_comm,
        pow_one]
    simp only [chkBit, crcBit, Bool.false_eq_true, if_false, BitVec.testBit_toNat]
    split
    · rw [BitVec.toNat_xor, hshift, lowBits_toNat hw]
    · rw [hshift, Nat.xor_zero]

theorem reverse_range (n : Nat) : (List.range n).reverse = (List.range n).map (fun i => n - 1 - i) := by
  rw [List.range_eq_range', List.reverse_range', ← List.range_eq_range', Nat.zero_add]

/-- CHK.STEP folds its data bits by the procedure of R226. -/
theorem chkStep_exact (cfg poly crc a : Word) (hs : cfg.toNat % 4 ≠ 3) (hc : cfg.toNat / 4 % 4 ≠ 3) :
    (chkStep cfg poly crc a).toNat = crcExact (8 * 2 ^ (cfg.toNat % 4)) (8 * 2 ^ (cfg.toNat / 4 % 4)) (cfg.getLsbD 4)
      poly.toNat a.toNat crc.toNat := by
  have hw : crcWidth cfg ≤ 32 := chkWidth_le _
  have hfold (l : List Nat) :
      (l.foldl (fun c i => chkBit (cfg.getLsbD 4) (crcWidth cfg) (lowBits (crcWidth cfg) poly) c (a.getLsbD i)) crc).toNat =
      l.foldl (fun c i => crcBit (cfg.getLsbD 4) (crcWidth cfg) poly.toNat c (a.toNat.testBit i)) crc.toNat :=
    (List.foldl_hom BitVec.toNat fun c i => by rw [chkBit_toNat _ hw, BitVec.testBit_toNat]).symm
  rw [← chkWidth_eq (Nat.mod_lt _ (by decide)) hs, ← chkWidth_eq (Nat.mod_lt _ (by decide)) hc]
  simp only [chkStep, crcExact, hfold, sum_reversed_bits]
  cases cfg.getLsbD 4 with
  | true => rfl
  | false =>
    rw [if_neg (by decide), reverse_range, List.foldl_map]
    rfl

/-! ### The context after a trigger of an arithmetic unit -/

/-- The context after an ALU trigger with moved value `a` (R218). -/
def aluStep (n : Nat) (a : Word) (c : Ctx) : Ctx :=
  let r := aluOp n a c.aluOpb c.aluFlags
  { c with aluRes := r.1, aluFlags := r.2 }

/-- The context after a multiply-accumulate trigger (R221, R224). -/
def macStep (n : Nat) (a : Word) (c : Ctx) : Ctx :=
  let r := macOp n c.macCfg c.acc a c.macOpb
  satFlag { c with acc := r.1, macFlags := if r.2 then c.macFlags ||| 1 else c.macFlags }

/-- The context after a trigger of the check unit (R226, R228, R229). -/
def checkStep (n : Nat) (a : Word) (c : Ctx) : Ctx :=
  if n = 0x3B then { c with chkCrc := chkStep c.chkCfg c.chkPoly c.chkCrc a }
  else if n = 0x3C then { c with chkPar := chkPar a }
  else { c with chkRev := chkRev c.chkCfg a }

/-- A change of the context is known by what it makes of the context that stands there. -/
theorem setCtx_congr {u : StallId} {s : State} {g h : Ctx → Ctx} (e : g (stall s u).ctx = h (stall s u).ctx) :
    setCtx u g s = setCtx u h s := by
  simp only [setCtx, modStall, e]

section
variable (u : StallId) (f : Fin 4) (cyc : Nat) (flags a : Word) (e : Eff) (s : State) {n : Nat}

theorem fire_alu (h : unitOf n = 1) : fire u f cyc flags n a (e, s) = (e, setCtx u (aluStep n a) s) := by
  dsimp only [fire]
  rw [if_pos h]
  exact congrArg (Prod.mk e) (setCtx_congr rfl)

theorem fire_mac (h : unitOf n = 2) : fire u f cyc flags n a (e, s) = (e, setCtx u (macStep n a) s) := by
  dsimp only [fire]
  rw [if_neg (by omega), if_pos h]
  exact congrArg (Prod.mk e) (setCtx_congr rfl)

theorem fire_check (h1 : 0x3B ≤ n) (h2 : n ≤ 0x3D) : fire u f cyc flags n a (e, s) = (e, setCtx u (checkStep n a) s) := by
  interval_cases n
  · -- STEP
    rfl
  · -- PAR
    rfl
  · -- REV
    rfl

end

theorem unitOf_alu {n : Nat} (h1 : 0x21 ≤ n) (h2 : n ≤ 0x2F) : unitOf n = 1 := if_pos ⟨h1, h2⟩

theorem unitOf_mac {n : Nat} (h1 : 0x31 ≤ n) (h2 : n ≤ 0x33) : unitOf n = 2 := by
  rw [unitOf, if_neg (by omega), if_pos ⟨h1, h2⟩]

theorem unitOf_check {n : Nat} (h1 : 0x3B ≤ n) (h2 : n ≤ 0x3D) : unitOf n = 3 := by
  rw [unitOf, if_neg (by omega), if_neg (by omega), if_pos ⟨h1, h2⟩]

/-! ### The obligations -/

/-- Settles O30: the trigger acts on the context that the moves leave, whose flags are still those before the bundle, and the
ALU computes by exact integers. -/
theorem aluTriggersSetResultAndFlags : Obligations.AluTriggersSetResultAndFlags := by
  intro c u n f i b cyc s hc h1 h2 hr ho x y e d
  have hu := unitOf_alu h1 h2
  obtain ⟨t, ht, hctx⟩ := exec_ctx_of_fire hc (by omega) hr ho (fire_alu u f cyc _ x noEff _ hu)
  have hop : aluOp n x y (stall s u).ctx.aluFlags = (e.1, packFlags d.msb (d = 0) e.2.1 e.2.2) := aluOp_exact x y _ h1 h2
  refine ⟨t, ht, ?_, ?_⟩
  · rw [hctx, nextAddress_aluRes, aluStep, aluFlags_moved, hop]
  · rw [hctx, nextAddress_aluFlags, aluStep, aluFlags_moved, hop, packFlags_exact]

/-- Settles O31: what a trigger writes to ACC agrees modulo 2^72 with ACC read without sign. -/
theorem macTriggersAccumulateTheProduct : Obligations.MacTriggersAccumulateTheProduct := by
  intro c u n f i b cyc s hc h1 h2 hr ho m x y old
  have hu := unitOf_mac h1 h2
  obtain ⟨t, ht, hctx⟩ := exec_ctx_of_fire hc (by omega) hr ho (fire_mac u f cyc _ (movedTo u i b cyc n s) noEff _ hu)
  refine ⟨t, ht, ?_⟩
  rw [hctx, nextAddress_acc, macStep, satFlag_acc]
  exact macOp_exact m.macCfg m.acc (movedTo u i b cyc n s) m.macOpb h1 h2

/-- Settles O32: one lemma per trigger says what its result holds. -/
theorem checkTriggersGiveTheirResults : Obligations.CheckTriggersGiveTheirResults := by
  intro c u n f i b cyc s hc h1 h2 hr ho m x cfg
  have hu := unitOf_check h1 h2
  obtain ⟨t, ht, hctx⟩ := exec_ctx_of_fire hc (by omega) hr ho (fire_check u f cyc _ x noEff _ h1 h2)
  refine ⟨t, ht, fun j k => ⟨rfl, rfl⟩, ?_, ?_, ?_⟩
  · rintro rfl
    rw [hctx, nextAddress_chkPar]
    exact ⟨chkPar_word x, fun k hk => chkPar_byte x hk, fun k hk => chkPar_above x hk⟩
  · rintro rfl k hk
    rw [hctx, nextAddress_chkRev]
    exact chkRev_getLsbD m.chkCfg x hk
  · rintro rfl hs hw
    rw [hctx, nextAddress_chkCrc]
    exact chkStep_exact m.chkCfg m.chkPoly m.chkCrc x hs hw

end Sys2Proof.Machine

/-! PROOFS. What no row undoes (obligations O5 to O8): every row answers a next state, and that state keeps the queue, the factory
record, the free values taken, a locked seal and the canonical form of the memories. One lemma per row, in the order of the chapters;
what the shared operations keep stands in Laws/Kept*.lean. -/

namespace Sys2Proof.Machine

/-- What `Kept` speaks of: the parts of the state that a row can change only by the rules of Laws/Kept.lean. -/
def State.guarded (s : State) : List Instr × Factory × Nat × Bool × (Mem × Mem × Mem × Mem) × Vector Stall 20 × Mem × Mem :=
  (s.pending, s.factory, s.free, s.ret.sealLock, (s.hostMem, s.ret.mram, s.commit.newest, s.commit.older), s.stalls,
    s.fw.slot0.image, s.fw.slot1.image)

/-- An update of anything else keeps. -/
theorem Kept.same {a b c : State} (h : Kept a b) (e : c.guarded = b.guarded) : Kept a c := by
  simp only [State.guarded, Prod.mk.injEq] at e
  obtain ⟨hq, hf, hn, hl, ⟨hm, hr, hc, ho⟩, hs, h0, h1⟩ := e
  refine h.trans ⟨hq, hf, hn.ge, fun k => hl.trans k, fun k => ?_⟩
  simpa only [State.memWf, State.localWf, hm, hr, hc, ho, hs, h0, h1] using k

/-- A row answers a next state, which keeps what state `z` holds. -/
inductive Keeps (z : State) : Res → Prop
  | next {t : State} (h : Kept z t) : Keeps z (.next t)

section
variable {z s : State} (h : Kept z s)
include h

/-! ### Host commands that read -/

theorem execNop_keeps (d : OpDesc) : Keeps z (execNop d s) :=
  .next (.ite (hostCommand_kept (fun _ k => ok_kept k) h) (.ite (unlisted_kept h) (badAction_kept h)))

theorem execIdentify_keeps (d : Desc) : Keeps z (execIdentify d s) :=
  .next (hostCommand_kept (fun _ k => ok_kept (output_kept k)) h)

theorem execSettingsRead_keeps (d : Desc) (b : Half) : Keeps z (execSettingsRead d b s) :=
  .next (hostCommand_kept (fun _ k => ok_kept (output_kept (.take k rfl rfl rfl rfl rfl rfl rfl))) h)

theorem execTaskControlQuery_keeps (d : Desc) (t : Byte) : Keeps z (execTaskControlQuery d t s) :=
  .next (hostCommand_kept (fun _ k => ok_kept (output_kept k)) h)

theorem execRetainRead_keeps (d : Desc) (a n : Word) : Keeps z (execRetainRead d a n s) :=
  .next (hostCommand_kept (fun _ k => complete_kept (output_kept k)) h)

theorem execRecorderRead_keeps (d : Desc) (a n : Word) : Keeps z (execRecorderRead d a n s) :=
  .next (hostCommand_kept (fun _ k => complete_kept (output_kept k)) h)

theorem execClockRead_keeps (d : Desc) : Keeps z (execClockRead d s) :=
  .next (hostCommand_kept (fun _ k => ok_kept (output_kept k)) h)

theorem execRedundancyControlQuery_keeps (d : Desc) : Keeps z (execRedundancyControlQuery d s) :=
  .next (hostCommand_kept (fun _ k => ok_kept (output_kept k)) h)

/-! ### Host commands that act -/

theorem execSettingsWrite_keeps (d : Desc) (b : Half) (f : Byte) (buf : Bytes) :
    Keeps z (execSettingsWrite d b f buf s) := by
  refine .next (bufferCommand_kept (fun _ _ _ => hostCommand_kept fun _ k => enqueueOp_kept (defer_kept k)) ?_ h)
  intro b t k
  split
  · exact sameBuffer_kept k
  · exact freeBuffer_kept k

theorem execModeSet_keeps (d : Desc) (m start : Byte) (r : Half) : Keeps z (execModeSet d m start r s) :=
  .next (hostCommand_kept (fun _ k => modeBody_kept k) h)

theorem execTaskLoad_keeps (d : Desc) (p : LoadPackage) : Keeps z (execTaskLoad d p s) :=
  .next (hostCommand_kept (fun _ k => endTaskLoad_kept (defer_kept (refreshChans_kept (wantNow_kept (loadProject_kept
    (refuseEdit_kept (takeImages_kept k))))))) h)

theorem execTaskControlEnable_keeps (d : Desc) (t : Byte) : Keeps z (execTaskControlEnable d t s) :=
  .next (hostCommand_kept (fun _ k => ok_kept (wantNow_kept (setEnable_kept k))) h)

theorem execTaskControlDisable_keeps (d : Desc) (t : Byte) : Keeps z (execTaskControlDisable d t s) :=
  .next (hostCommand_kept (fun _ k => ok_kept (.upd (setEnable_kept k) rfl rfl rfl rfl rfl rfl rfl)) h)

theorem execTaskControlTrigger_keeps (d : Desc) (t : Byte) : Keeps z (execTaskControlTrigger d t s) :=
  .next (hostCommand_kept (fun _ k => ok_kept (trigger_kept k)) h)

theorem execBreakpointSet_keeps (d : Desc) (t : Byte) (b : Half) : Keeps z (execBreakpointSet d t b s) :=
  .next (hostCommand_kept (fun _ k => .ite (ok_kept k) (.ite (fail_kept k) (ok_kept (k.same rfl)))) h)

theorem execBreakpointClear_keeps (d : Desc) (t : Byte) (b : Half) : Keeps z (execBreakpointClear d t b s) :=
  .next (hostCommand_kept (fun _ k => ok_kept (k.same rfl)) h)

theorem execHoldResume_keeps (d : Desc) (p : HoldPoint) : Keeps z (execHoldResume d p s) :=
  .next (hostCommand_kept (fun _ k => ok_kept (endHold_kept (resumeTask_kept
    (.foldl (fun _ _ => completeWait_kept) k)))) h)

theorem execStep_keeps (d : Desc) (t : Byte) (n : Half) : Keeps z (execStep d t n s) :=
  .next (hostCommand_kept (fun _ k => .ite (defer_kept k) (runPair_kept (.foldl
    (fun _ _ k => .ite k (.ite (goOn_kept k) (modInst_kept k))) (modTask_kept (defer_kept k))))) h)

theorem execChanSync_keeps (d : Desc) (a n : Half) (l : List (Nat × Option Bytes)) : Keeps z (execChanSync d a n l s) :=
  .next (hostCommand_kept (fun _ k => ok_kept (refreshChans_kept (.foldl_fst
    (fun _ _ k => .ite (syncOne_kept k) (fetchResult_kept (syncOne_kept k))) k))) h)

theorem execWardenWrite_keeps (d : Desc) (a n : Half) (buf : Bytes) : Keeps z (execWardenWrite d a n buf s) :=
  .next (bufferCommand_kept (fun _ _ _ => hostCommand_kept fun _ k => ok_kept (raise_kept (k.same rfl)))
    (fun _ _ => lessRights_kept) h)

theorem execImageExportSet_keeps (d : Desc) (r t i : Byte) (o n : Half) (a : Word) :
    Keeps z (execImageExportSet d r t i o n a s) :=
  .next (hostCommand_kept (fun _ k => .ite (fail_kept k) (.ite (ok_kept (k.same rfl)) (ok_kept (k.same rfl)))) h)

theorem execEditPrepare_keeps (d : Desc) (p : EditPackage) : Keeps z (execEditPrepare d p s) :=
  .next (hostCommand_kept (fun _ k => ok_kept ((takeImages_kept k).same rfl)) h)

theorem execProfileLoad_keeps (d : Desc) (buf : Bytes) : Keeps z (execProfileLoad d buf s) :=
  .next (bufferCommand_kept (fun _ _ _ => hostCommand_kept fun _ k => ok_kept (k.same rfl)) (fun _ _ => freeBuffer_kept) h)

theorem execProfileRequest_keeps (d : Desc) (p n : Byte) : Keeps z (execProfileRequest d p n s) := by
  refine .next (hostCommand_kept (fun t k => ?_) h)
  split
  · exact fail_kept k
  · exact .ite (requestVote_kept k) (.ite (fail_kept k) (wantTarget_kept (defer_kept (k.same rfl))))

theorem execRetainWrite_keeps (d : Desc) (a n : Word) (buf : Bytes) : Keeps z (execRetainWrite d a n buf s) :=
  .next (hostCommand_kept (fun _ k => .foldl (fun _ _ => enqueueOp_kept) (defer_kept k)) h)

theorem execSealLock_keeps (d : Desc) (c : Word) (buf : Bytes) : Keeps z (execSealLock d c buf s) :=
  .next (bufferCommand_kept (fun _ _ _ => hostCommand_kept fun _ k => enqueueOp_kept (defer_kept k))
    (fun _ _ => freeBuffer_kept) h)

theorem execClockAdjustSet_keeps (d : Desc) (sec : BitVec 48) (ns : Word) : Keeps z (execClockAdjustSet d sec ns s) :=
  .next (hostCommand_kept (fun _ k => ok_kept (refreshSource_kept (stepClock_kept (k.same rfl)))) h)

theorem execClockAdjustStep_keeps (d : Desc) (ns : DWord) : Keeps z (execClockAdjustStep d ns s) :=
  .next (hostCommand_kept (fun _ k => ok_kept (refreshSource_kept (stepClock_kept (k.same rfl)))) h)

theorem execClockAdjustFreq_keeps (d : Desc) (f : Word) : Keeps z (execClockAdjustFreq d f s) :=
  .next (hostCommand_kept (fun _ k => ok_kept (refreshSource_kept (k.same rfl))) h)

theorem execCanSend_keeps (d : Desc) (c b : Byte) (one : Bool) (buf : Bytes) : Keeps z (execCanSend d c b one buf s) := by
  refine .next (bufferCommand_kept (fun _ _ _ => hostCommand_kept fun t k => ?_) (fun _ _ => freeBuffer_kept) h)
  split
  · dsimp only
    split
    · exact .ite (fail_kept k) (ok_kept (canLoaded_kept (modBuf_kept k)))
    · exact k
  · exact k

theorem execCanCancel_keeps (d : Desc) (c b : Byte) : Keeps z (execCanCancel d c b s) := by
  refine .next (hostCommand_kept (fun t k => ?_) h)
  split
  · dsimp only
    split
    · refine .ite (.ite (fail_kept k) (ok_kept k)) ?_
      have k' : ∀ {c : Fin 4} {b : Fin 3}, Kept z (if t.can[c].onBus = some b then hasStarted c t else (false, t)).2 := by
        intro c b
        split
        · exact hasStarted_kept k
        · exact k
      exact .ite (defer_kept (modBuf_kept k')) (ok_kept (.ite (canChoose_kept (settle_kept k')) (settle_kept k')))
    · exact k
  · exact k

theorem execEthSend_keeps (d : Desc) (p q : Byte) (launch stamp : Bool) (t : DWord) (buf : Bytes) :
    Keeps z (execEthSend d p q launch stamp t buf s) := by
  refine .next (bufferCommand_kept (fun _ _ _ => hostCommand_kept fun t k => ?_) (fun _ _ => freeBuffer_kept) h)
  refine .ite (fail_kept k) ?_
  split
  · split
    · exact enqueueFrame_kept (defer_kept k)
    · exact k
  · exact k

theorem execIhlozScheduleLoad_keeps (d : Desc) (m : Byte) (buf : Bytes) : Keeps z (execIhlozScheduleLoad d m buf s) :=
  .next (bufferCommand_kept (fun _ _ _ => hostCommand_kept fun _ k => ok_kept (refreshWhere_kept (modIhloz_kept k)))
    (fun _ _ => freeBuffer_kept) h)

theorem execHartTransact_keeps (d : Desc) (c : Half) (n : Byte) (buf : Bytes) : Keeps z (execHartTransact d c n buf s) := by
  refine .next (bufferCommand_kept (fun _ _ _ => hostCommand_kept fun t k => ?_) (fun _ _ => freeBuffer_kept) h)
  split
  · exact defer_kept (modLoop_kept k)
  · exact k

theorem execFwReceive_keeps (d : Desc) (src p : Byte) (n : Word) (img : Bytes) :
    Keeps z (execFwReceive d src p n img s) :=
  .next (bufferCommand_kept (fun _ _ _ => hostCommand_kept fun _ k => .ite
      (setXfer_kept (progressAll_kept (modSlot_kept (fun _ _ => Mem.wf_putAll 0 _ rfl) (defer_kept k))))
      (setXfer_kept (defer_kept k)))
    (fun _ _ => sameBuffer_kept) h)

theorem execFwForward_keeps (d : Desc) (path p : Byte) : Keeps z (execFwForward d path p s) :=
  .next (hostCommand_kept (fun _ k => sendMessage_kept (.upd (defer_kept k) rfl rfl rfl rfl rfl rfl rfl)) h)

theorem execFwActivate_keeps (d : Desc) : Keeps z (execFwActivate d s) :=
  .next (hostCommand_kept (fun _ k => .upd (defer_kept k) rfl rfl rfl rfl rfl rfl rfl) h)

theorem execRedundancyControlHandover_keeps (d : Desc) : Keeps z (execRedundancyControlHandover d s) :=
  .next (hostCommand_kept (fun _ k => defer_kept (modPair_kept k)) h)

theorem execRedundancyControlRetrain_keeps (d : Desc) : Keeps z (execRedundancyControlRetrain d s) :=
  .next (hostCommand_kept (fun _ k => defer_kept (startTraining_kept (dropLink_kept k))) h)

/-! ### The host interface -/

theorem execHiCtrlEnableSet_keeps (v : Word) : Keeps z (execHiCtrlEnableSet v s) := .next (.ite (writeCtrl_kept h) h)

theorem execHiCtrlEnableClear_keeps (v : Word) : Keeps z (execHiCtrlEnableClear v s) := .next (.ite (writeCtrl_kept h) h)

theorem execRingCfgEnSet_keeps (k : Fin 8) (v : Word) : Keeps z (execRingCfgEnSet k v s) := .next (.ite (writeCfg_kept h) h)

theorem execRingCfgEnClear_keeps (k : Fin 8) (v : Word) : Keeps z (execRingCfgEnClear k v s) :=
  .next (.ite (writeCfg_kept h) h)

theorem execBar0Write_keeps (a : BarAccess) (v : Word) : Keeps z (execBar0Write a v s) :=
  .next (.ite h (.ite (writeBar0_kept h) (misaligned_kept h)))

theorem execDoorbellPoll_keeps : Keeps z (execDoorbellPoll s) := by
  refine .next ?_
  split
  · exact h
  · exact .ite h (.upd (advanceTo_kept h) rfl rfl rfl rfl rfl rfl rfl)

theorem execDoorbellFetchDone_keeps (line : Bytes) : Keeps z (execDoorbellFetchDone line s) :=
  .next (.ite h (lostEvents_kept (takeSeq_kept (fetchResult_kept (misusedRings_kept ((takeLine_kept h).same rfl))))))

theorem execEchoLineWrite_keeps : Keeps z (execEchoLineWrite s) := by
  refine .next (.ite h (.ite (evtMessage_kept ?_) ?_)) <;>
    exact .foldl (fun _ _ => ringMessage_kept) (.upd (hostWrite_kept h) rfl rfl rfl rfl rfl rfl rfl)

theorem execMsixCoalesceExpire_keeps (k : Fin 9) : Keeps z (execMsixCoalesceExpire k s) := by
  refine .next (.ite h ?_)
  split
  · exact .ite (ringMessage_kept (modRing_kept (advanceTo_kept h))) h
  · exact .ite (evtMessage_kept (advanceTo_kept (h.same rfl))) h

theorem execFoldRepost_keeps : Keeps z (execFoldRepost s) :=
  .next (.foldl (fun _ _ k => postEvent_kept (k.same rfl)) h)

theorem execPcieCompletionTimeout_keeps (f : FetchKind) (k : Fin 8) (tag : Half) (a : DWord) :
    Keeps z (execPcieCompletionTimeout f k tag a s) := by
  refine .next (.ite h ?_)
  cases f with
  | doorbell => exact .ite (fetchResult_kept (h.same rfl)) h
  | descriptor => exact .ite h (fetchResult_kept (complete_kept (modRing_kept h)))
  | buffer => exact .ite h (fetchResult_kept (fetchResult_kept (complete_kept (modRing_kept h))))
  | channelEntry => exact fetchResult_kept (h.same rfl)

theorem execPcieLinkUp_keeps (l : LinkSetup) (w : BitVec 3) : Keeps z (execPcieLinkUp l w s) :=
  .next (.ite h (.ite (h.same rfl) (raise_kept (h.same rfl))))

theorem execPcieLinkDown_keeps : Keeps z (execPcieLinkDown s) := .next (.ite (hostReset_kept h) h)

theorem execHotReset_keeps : Keeps z (execHotReset s) := .next (.ite (hostReset_kept h) h)

theorem execFunctionLevelReset_keeps : Keeps z (execFunctionLevelReset s) := .next (.ite (hostReset_kept h) h)

theorem execSurpriseRemoval_keeps : Keeps z (execSurpriseRemoval s) := .next (.ite (hostReset_kept h) h)

theorem execPerstNAssert_keeps : Keeps z (execPerstNAssert s) :=
  .next (.ite h (.ite (hostReset_kept h) (h.same rfl)))

theorem execPerstNRelease_keeps : Keeps z (execPerstNRelease s) := .next (h.same rfl)

/-! ### Tasks, placement and instances -/

theorem execPlacementPublish_keeps (p : Publication) : Keeps z (execPlacementPublish p s) :=
  .next (.ite (notePhases_kept (h.same rfl)) h)

theorem execTaskDeadline_keeps (t : BitVec 7) : Keeps z (execTaskDeadline t s) :=
  .next (.ite h (.ite (overruns_kept h) (overruns_kept (advanceTo_kept h))))

theorem execBaseTick_keeps : Keeps z (execBaseTick s) :=
  .next (.ite h (atTick_kept (enterTick_kept (editAtTick_kept (advanceTo_kept h)))))

theorem execAlarmTrigger_keeps (t : BitVec 7) : Keeps z (execAlarmTrigger t s) := by
  refine .next ?_
  split
  · exact .ite h (trigger_kept (advanceTo_kept h))
  · exact h

theorem execEventTaskRelease_keeps (t : BitVec 7) (p : EventPlace) : Keeps z (execEventTaskRelease t p s) := by
  refine .next ?_
  split
  · exact .ite h (.ite h (placeRelease_kept (releaseNow_kept (modTask_kept (advanceTo_kept h)))))
  · exact h

theorem execInstanceStart_keeps (t : BitVec 7) (ns : Nat) (l : List Nat) : Keeps z (execInstanceStart t ns l s) := by
  refine .next ?_
  split
  · exact .ite h (makeResident_kept (modTask_kept (noteSlip_kept (startClock_kept h))))
  · exact h

theorem execPairedCopyBStart_keeps (t : BitVec 7) (ns : Nat) (l : List Nat) : Keeps z (execPairedCopyBStart t ns l s) := by
  refine .next ?_
  split
  · exact .ite h (makeResident_kept (modTask_kept (noteSlip_kept (startClock_kept h))))
  · exact h

theorem execContextSwitch_keeps (u : StallId) : Keeps z (execContextSwitch u s) := by
  refine .next ?_
  split
  · exact .ite h (switchIn_kept (switchOut_kept h))
  · exact h

theorem execBreakpointHit_keeps (u : StallId) : Keeps z (execBreakpointHit u s) := by
  refine .next ?_
  split
  · refine .ite h (.ite (pairAbort_kept h) (.ite (park_kept h) ?_))
    refine .ite (endStep_kept (holdTask_kept ?_)) (settleStep_kept (holdTask_kept ?_)) <;>
    · split
      · exact modInst_kept (park_kept h)
      · exact park_kept h
  · exact h

/-! ### Bundles and the results that they request -/

theorem execBundleIssue_keeps (u : StallId) : Keeps z (execBundleIssue u s) := by
  refine .next ?_
  split
  · exact .ite (issueMoves_kept h) h
  · exact h

theorem execImmHi_keeps (u : StallId) : Keeps z (execImmHi u s) := by
  refine .next ?_
  split
  · exact .ite (issueImm_kept h) h
  · exact h

theorem execLoadResultArrive_keeps (u : StallId) (f : Fin 4) : Keeps z (execLoadResultArrive u f s) := by
  refine .next ?_
  split
  · exact tryEnd_kept (framePend_kept (.ite (deliverSocket_kept (modInst_kept (loadBytesNow_kept (takeFree_kept h))))
      (modInst_kept (loadBytesNow_kept (takeFree_kept h)))))
  · exact retireStale_kept h

theorem execBlockTransferComplete_keeps (u : StallId) (f : Fin 4) : Keeps z (execBlockTransferComplete u f s) := by
  refine .next ?_
  split
  · refine .ite h ?_
    dsimp only
    split
    · next e => exact ownFault_kept (copyWords_kept_eq (takeFree_kept h) e)
    · next e => exact tryEnd_kept (framePend_kept (modInst_kept (copyWords_kept_eq (takeFree_kept h) e)))
  · exact retireStale_kept h

theorem execSolverResultArrive_keeps (u : StallId) (f : Fin 4) : Keeps z (execSolverResultArrive u f s) := by
  refine .next ?_
  split
  · exact tryEnd_kept (framePend_kept (deliverSocket_kept (modInst_kept (modBarn_kept (takeFree_kept h)))))
  · exact retireStale_kept h

/-! ### The rung solver -/

theorem execSolverCallStart_keeps (b : Fin 4) : Keeps z (execSolverCallStart b s) := by
  refine .next ?_
  split
  · exact .ite h (modBarn_kept h)
  · exact h

theorem execSolverCallLimit_keeps (b : Fin 4) : Keeps z (execSolverCallLimit b s) := by
  refine .next ?_
  split
  · exact .ite (endCall_kept h) h
  · exact h

theorem execWin_keeps (b : Fin 4) : Keeps z (execWin b s) := by
  refine .next ?_
  split
  · exact .ite h (.ite (wordError_kept h) (goWord_kept h))
  · exact h

theorem execExt_keeps (b : Fin 4) : Keeps z (execExt b s) := by
  refine .next ?_
  split
  · exact .ite h (wordError_kept h)
  · exact h

theorem execTmr_keeps (b : Fin 4) (w : BitVec 12) : Keeps z (execTmr b w s) := by
  refine .next ?_
  split
  · refine .ite h (.ite (wordError_kept h) (.ite (wordError_kept (noteRead_kept h)) ?_))
    split
    · exact wordError_kept (noteRead_kept h)
    · refine .ite (goWord_kept (noteRead_kept h)) ?_
      split
      · next e => exact goWord_kept (bufferWrite_kept (noteRead_kept h) e)
      · exact faultCall_kept (noteRead_kept h)
  · exact h

/-! ### Commits, pairs and what leaves after a commit -/

theorem execCommit_keeps : Keeps z (execCommit s) := by
  refine .next ?_
  split
  · exact h
  · split
    · exact .ite h (commitInstance_kept h)
    · exact h

theorem execPairCompare_keeps (t : BitVec 7) : Keeps z (execPairCompare t s) := by
  refine .next ?_
  split
  · exact h
  · refine .ite h (.ite (.ite (pairAbort_kept h) ?_) h)
    split
    · exact commitInstance_kept h
    · exact h

theorem execPairDeadline_keeps (t : BitVec 7) : Keeps z (execPairDeadline t s) := by
  refine .next ?_
  split
  · exact .ite (pairAbort_kept (advanceNet_kept h)) h
  · exact h

theorem execEscalationHandoverTimeout_keeps : Keeps z (execEscalationHandoverTimeout s) := by
  refine .next ?_
  split
  · exact enterSafe_kept (raiseTask_kept (modPair_kept h))
  · exact h

theorem execDirectOutputApply_keeps : Keeps z (execDirectOutputApply s) := by
  refine .next ?_
  split
  · exact h
  · exact .ite (applyDue_kept (h.same rfl)) h

theorem execImageExportWrite_keeps (r : Fin 64) : Keeps z (execImageExportWrite r s) := by
  refine .next ?_
  split
  · split
    · exact .ite (writeExport_kept (h.same rfl)) h
    · exact h
  · exact h

theorem execBaleSend_keeps : Keeps z (execBaleSend s) := by
  refine .next ?_
  split
  · exact h
  · exact .ite (modPair_kept h) h

/-! ### Edits and profiles -/

theorem execEditCommitApply_keeps : Keeps z (execEditCommitApply s) := by
  refine .next ?_
  split
  · exact .ite h (.ite (.ite h (commitEdit_kept (advanceTo_kept h))) (.ite h (.upd (advanceTask_kept h) rfl rfl rfl rfl rfl rfl rfl)))
  · exact h

theorem execEditCommitTimeout_keeps : Keeps z (execEditCommitTimeout s) := by
  refine .next ?_
  split
  · exact .ite (completeWait_kept (h.same rfl)) h
  · exact h

theorem execProfileVoteComplete_keeps : Keeps z (execProfileVoteComplete s) := by
  refine .next ?_
  split
  · exact .ite (wantTarget_kept (setVote_kept h)) h
  · exact h

theorem execProfileVoteFailed_keeps : Keeps z (execProfileVoteFailed s) := by
  refine .next ?_
  split
  · refine .ite ?_ h
    dsimp only
    split
    · exact completeWait_kept (raise_kept (h.same rfl))
    · exact raise_kept (h.same rfl)
  · exact h

theorem execProfileSwitch_keeps : Keeps z (execProfileSwitch s) := by
  refine .next ?_
  split
  · split
    · refine .ite h ?_
      dsimp only
      split
      · exact completeWait_kept (queueBale_kept (applyProfile_kept (numberCommit_kept (advanceTo_kept h))))
      · exact queueBale_kept (applyProfile_kept (numberCommit_kept (advanceTo_kept h)))
    · exact h
  · exact h

/-! ### Channel entries -/

theorem execCacheLoad_keeps (c : BitVec 12) (r : Option Bytes) : Keeps z (execCacheLoad c r s) := by
  refine .next (.ite h (endTaskLoad_kept (refreshLayout_kept (.ite ?_ (loadFromStore_kept h)))))
  split
  · exact loadFromHost_kept h
  · exact loadFromStore_kept (fetchResult_kept (h.same rfl))

theorem execChannelStale_keeps (c : BitVec 12) : Keeps z (execChannelStale c s) := by
  refine .next ?_
  split
  · exact .ite h (refreshChan_kept (h.same rfl))
  · exact h

/-! ### The Yardmaster -/

theorem execDrainFenceComplete_keeps (m : FenceMarkers) : Keeps z (execDrainFenceComplete m s) :=
  .next (.ite (.ite (replaceTask_kept (modTask_kept h)) (modTask_kept h)) h)

theorem execResultForwarded_keeps (r : Forwarded) : Keeps z (execResultForwarded r s) := .next (.ite (modTask_kept h) h)

theorem execHomeLineMove_keeps (l : Nat) : Keeps z (execHomeLineMove l s) := by
  refine .next ?_
  split
  · exact h
  · exact .ite h (liftBad_kept (h.same rfl))

theorem execWakeDecision_keeps (b : Fin 4) : Keeps z (execWakeDecision b s) := .next (.ite (wakeBarn_kept h) h)

theorem execBarnPowerSwitchOn_keeps (b : Fin 4) : Keeps z (execBarnPowerSwitchOn b s) :=
  .next (powered_kept (fun _ => modBarn_kept) h)

theorem execBarnPllLock_keeps (b : Fin 4) : Keeps z (execBarnPllLock b s) :=
  .next (powered_kept (fun _ k => modBarn_kept (k.same rfl)) h)

theorem execBarnClockRamp_keeps (b : Fin 4) : Keeps z (execBarnClockRamp b s) :=
  .next (powered_kept (fun _ => modBarn_kept) h)

theorem execStallUngate_keeps (u : StallId) : Keeps z (execStallUngate u s) :=
  .next (powered_kept (fun _ => modStall_kept fun _ => id) h)

theorem execSolverUngate_keeps (b : Fin 4) : Keeps z (execSolverUngate b s) :=
  .next (powered_kept (fun _ => modBarn_kept) h)

theorem execStallGate_keeps (b : Fin 4) (k : Option (Fin 5)) : Keeps z (execStallGate b k s) := by
  refine .next ?_
  split
  · exact powered_kept (fun _ => modStall_kept fun _ => id) h
  · exact powered_kept (fun _ => modBarn_kept) h

theorem execBarnPowerOff_keeps (b : Fin 4) : Keeps z (execBarnPowerOff b s) :=
  .next (powered_kept (fun _ k => modBarn_kept (.upd (.foldl (fun _ _ => modStall_kept fun _ _ => rfl) k)
    rfl rfl rfl rfl rfl rfl rfl)) h)

theorem execFarrierRead_keeps (l : List (StallId × Nat)) (m : List (Fin 4 × Nat)) : Keeps z (execFarrierRead l m s) :=
  .next (.ite h (.foldl (fun _ _ k => .ite k (.ite (retireSolver_kept (modBarn_kept k)) (modBarn_kept k)))
    (.foldl (fun _ _ k => .ite (readMargin_kept k) k) h)))

theorem execStallRetired_keeps (u : StallId) : Keeps z (execStallRetired u s) := .next (.ite (retireStall_kept h) h)

theorem execStallFailed_keeps (u : StallId) (d : Byte) : Keeps z (execStallFailed u d s) :=
  .next (.ite h (retireStall_kept (raise_kept (modStall_kept (fun _ _ => rfl) (.foldl (fun _ _ => faultCopy_kept) h)))))

theorem execSolverRetired_keeps (b : Fin 4) (c : Byte) : Keeps z (execSolverRetired b c s) :=
  .next (.ite h (.ite (retireSolver_kept h) h))

theorem execGroomTest_keeps (u : StallId) (p : Bool) : Keeps z (execGroomTest u p s) :=
  .next (.ite h (.ite (modStall_kept (fun _ _ => rfl) h) (degrade_kept (modStall_kept (fun _ _ => rfl) h))))

theorem execGroomScrub_keeps (r : ScrubResult) : Keeps z (execGroomScrub r s) := by
  cases r with
  | clean => exact .next (.ite h h)
  | corrected => exact .next (.ite h h)
  | committed => exact .next (.ite h (faultSafe_kept h))
  | memory m a => exact .next (.ite h (raiseMemory_kept (h.same rfl)))
  | localData u a =>
    have k : Kept z (freeBytes 64 s).2 := freeBytes_kept h
    unfold execGroomScrub
    generalize freeBytes 64 s = b at k ⊢
    exact .next (.ite h (raiseMemory_kept (modStall_kept (fun _ => Mem.wf_putAll _ _) k)))
  | bufferEntry u f => exact .next (.ite h (ownFault_kept h))

theorem execThermalHigh_keeps (b : Fin 4) (t : Half) : Keeps z (execThermalHigh b t s) :=
  .next (.ite h (.ite (modBarn_kept h) (raise_kept (modBarn_kept h))))

/-! ### Digital inputs and outputs, current loops -/

theorem execDiSample_keeps (g : Fin 8) (r : DiReading) : Keeps z (execDiSample g r s) :=
  .next (.ite h (.foldl (fun _ _ k => refreshChan_kept (sampleInput_kept k)) (modDiGrp_kept (.ite (advanceTo_kept h) h))))

theorem execWettingPulse_keeps (g : Fin 8) : Keeps z (execWettingPulse g s) :=
  .next (.ite h (modDiGrp_kept (advanceTo_kept h)))

theorem execCountEdge_keeps (n : Fin 8) (c : CountSeen) : Keeps z (execCountEdge n c s) :=
  .next (.ite h (refreshChan_kept (modDi_kept (registers_kept h))))

theorem execChatterWindowExpire_keeps (n : Fin 64) : Keeps z (execChatterWindowExpire n s) := by
  refine .next ?_
  split
  · exact .ite (refreshChan_kept (modDi_kept (advanceTo_kept h))) h
  · exact h

theorem execStuckTimeout_keeps (n : Fin 64) : Keeps z (execStuckTimeout n s) := by
  refine .next ?_
  split
  · exact .ite (refreshChan_kept (modDi_kept (advanceTo_kept h))) h
  · exact h

theorem execCountOverrateExpire_keeps (n : Fin 8) : Keeps z (execCountOverrateExpire n s) :=
  .next (.ite (refreshChan_kept (modDi_kept (advanceTo_kept h))) h)

theorem execReadbackSample_keeps (r : DoReading) : Keeps z (execReadbackSample r s) :=
  .next (.ite (.foldl (fun _ _ => readbackOne_kept) (takeMeasured_kept h)) h)

theorem execDoCurrentLimit_keeps (n : Fin 64) : Keeps z (execDoCurrentLimit n s) :=
  .next (.ite (refreshChan_kept (modDo_kept h)) h)

theorem execCurrentLimitLeft_keeps (n : Fin 64) : Keeps z (execCurrentLimitLeft n s) :=
  .next (.ite (refreshChan_kept (modDo_kept h)) h)

theorem execDoThermalShutdown_keeps (n : Fin 64) : Keeps z (execDoThermalShutdown n s) :=
  .next (.ite (refreshChan_kept (withEdges_kept (fun _ => modDo_kept) h)) h)

theorem execDoThermalRetry_keeps (n : Fin 64) : Keeps z (execDoThermalRetry n s) :=
  .next (.ite (refreshChan_kept (withEdges_kept (fun _ => modDo_kept) (advanceTo_kept h))) h)

theorem execDoThermalCooled_keeps (n : Fin 64) : Keeps z (execDoThermalCooled n s) :=
  .next (.ite (refreshChan_kept (withEdges_kept (fun _ => modDo_kept) h)) h)

theorem execGroupOvercurrent_keeps (g : Fin 8) : Keeps z (execGroupOvercurrent g s) :=
  .next (.ite h (refreshDoGroup_kept (withEdges_kept (fun _ => modDoGrp_kept) h)))

theorem execGroupRetry_keeps (g : Fin 8) : Keeps z (execGroupRetry g s) :=
  .next (.ite (refreshDoGroup_kept (withEdges_kept (fun _ => modDoGrp_kept) (advanceTo_kept h))) h)

theorem execGroupOvercurrentLeft_keeps (g : Fin 8) : Keeps z (execGroupOvercurrentLeft g s) :=
  .next (.ite h (refreshDoGroup_kept (modDoGrp_kept (advanceTo_kept h))))

theorem execDoSupplyLow_keeps (g : Fin 8) (v : Half) : Keeps z (execDoSupplyLow g v s) :=
  .next (.ite (refreshDoGroup_kept (modDoGrp_kept h)) h)

theorem execLoopConversion_keeps (l : List LoopReading) : Keeps z (execLoopConversion l s) :=
  .next (.ite h (.foldl (fun _ _ => convertOne_kept) (.upd (.ite (advanceTo_kept h) h) rfl rfl rfl rfl rfl rfl rfl)))

theorem execAoLinkTimeout_keeps (n : Fin 16) : Keeps z (execAoLinkTimeout n s) :=
  .next (.ite (aoJump_kept (modLoop_kept h)) h)

theorem execHartAttempt_keeps (n : Fin 32) : Keeps z (execHartAttempt n s) := by
  refine .next ?_
  split
  · exact h
  · exact .ite h (.ite (hartFail_kept h) (.ite h (modLoop_kept h)))

theorem execHartResponse_keeps (n : Fin 32) (f : HartFrame) : Keeps z (execHartResponse n f s) := by
  refine .next ?_
  split
  · exact h
  · exact .ite h (.ite (hartFail_kept h) (completeOut_kept (modLoop_kept h)))

theorem execHartNoResponse_keeps (n : Fin 32) : Keeps z (execHartNoResponse n s) := .next (.ite (hartFail_kept h) h)

theorem execHartBusBusy_keeps (n : Fin 32) : Keeps z (execHartBusBusy n s) := .next (.ite (hartFail_kept h) h)

theorem execHartNoEnergy_keeps (n : Fin 32) : Keeps z (execHartNoEnergy n s) := .next (.ite (hartFail_kept h) h)

theorem execHartStray_keeps (n : Fin 32) : Keeps z (execHartStray n s) := .next (.ite (modLoop_kept h) h)

/-! ### The Ihloz network and the star -/

theorem execIhlozFrameReceive_keeps (b : Bool) (f : IhlozFrame) (a : Int) : Keeps z (execIhlozFrameReceive b f a s) := by
  have k : Kept z (validAdvances b f a (checkTag f (modIhloz (fun n => { n with heard := true }) (advanceIhloz a s)))) :=
    validAdvances_kept (checkTag_kept (modIhloz_kept (advanceIhloz_kept h)))
  refine .next (.ite h (.ite (copyInvalid_kept (advanceIhloz_kept h)) (.ite k ?_)))
  split
  · exact .ite (secondCopy_kept k) (deliver_kept k)
  · exact deliver_kept k

theorem execPayloadFreeze_keeps (n : Byte) : Keeps z (execPayloadFreeze n s) := by
  refine .next ?_
  split
  · exact .ite (modIhloz_kept h) h
  · exact h

theorem execIhlozSlotSend_keeps (n : Byte) (a b : Bool) : Keeps z (execIhlozSlotSend n a b s) := by
  refine .next ?_
  split
  · exact h
  · refine .ite h (.ite (join_kept ?_) ?_) <;>
      exact ownVote_kept (ownSeen_kept (modIhloz_kept (sendOwn_kept (advanceIhloz_kept h))))

theorem execIhlozSlotEnd_keeps (n : Byte) : Keeps z (execIhlozSlotEnd n s) := by
  refine .next ?_
  split
  · exact h
  · refine .ite h (.ite (modIhloz_kept (settleCopy_kept h)) (triggerAll_kept (.ite (viewMembers_kept ?_) ?_))) <;>
      exact modIhloz_kept (modIhloz_kept (settleCopy_kept h))

theorem execClockSyncCorrection_keeps : Keeps z (execClockSyncCorrection s) := by
  refine .next ?_
  split
  · exact h
  · exact .ite h (.ite (leave_kept (modIhloz_kept h)) (modIhloz_kept h))

theorem execIhlozCycleStart_keeps (o : Int) : Keeps z (execIhlozCycleStart o s) := by
  refine .next ?_
  split
  · exact h
  · next c _ =>
    have k : Kept z (newCycle c (slotless c (cycleEnd (settleCopy s)))) :=
      newCycle_kept (slotless_kept (cycleEnd_kept (settleCopy_kept h)))
    refine .ite h (.ite (align_kept (cycleState_kept (keptOld_kept ?_))) (cycleState_kept (keptOld_kept ?_))) <;>
      exact .ite (.foldl (fun _ _ => portCycle_kept) (.upd (advanceIhloz_kept k) rfl rfl rfl rfl rfl rfl rfl))
        (advanceIhloz_kept k)

theorem execIhlozTWaitExpire_keeps (a b : Bool) : Keeps z (execIhlozTWaitExpire a b s) := by
  refine .next ?_
  split
  · exact h
  · split
    · exact h
    · refine .ite h (.ite ?_ (backOff_kept ?_)) <;>
        exact ownSeen_kept (sendOwn_kept (nodeState_kept (modIhloz_kept (advanceIhloz_kept h))))

theorem execCollisionMarkerReceive_keeps (m : MarkerSeen) (p : Option (Fin 8)) :
    Keeps z (execCollisionMarkerReceive m p s) :=
  .next (.ite (backOff_kept (passMarker_kept h)) (passMarker_kept h))

theorem execStarDelimiterDetect_keeps (p : Fin 8) (n : Nat) : Keeps z (execStarDelimiterDetect p n s) := by
  have k : Kept z (advanceIhloz n s) := advanceIhloz_kept h
  refine .next (.ite h (.ite ?_ (.ite k (.ite (starCollide_kept (stillForwarding_kept k)) (starTake_kept (stillForwarding_kept k))))))
  split
  · exact k
  · exact .ite (.ite k (starTake_kept k)) (violation_kept k)

theorem execStarForwardCut_keeps (p : Fin 8) : Keeps z (execStarForwardCut p s) :=
  .next (.ite (violation_kept (h.same rfl)) h)

theorem execStarContinuousCut_keeps (p : Fin 8) : Keeps z (execStarContinuousCut p s) :=
  .next (.ite h (raise_kept (.upd (modPort_kept h) rfl rfl rfl rfl rfl rfl rfl)))

theorem execStarCutExpire_keeps (p : Fin 8) : Keeps z (execStarCutExpire p s) :=
  .next (.ite (raise_kept (modPort_kept h)) h)

/-! ### CAN and Ethernet -/

theorem execCanFrameReceive_keeps (c : Fin 4) (f : CanSamples) (w : Word) : Keeps z (execCanFrameReceive c f w s) :=
  .next (.ite (offBus_kept h) (.ite (holdRx_kept (offBus_kept h)) (receiveCan_kept (offBus_kept h))))

theorem execCanTxComplete_keeps (c : Fin 4) (w : Word) : Keeps z (execCanTxComplete c w s) := by
  refine .next (.ite h ?_)
  split
  · exact h
  · exact canChoose_kept (canCounts_kept (settle_kept (attempt_kept h)))

theorem execCanArbitrationLost_keeps (c : Fin 4) (w : Word) : Keeps z (execCanArbitrationLost c w s) := by
  refine .next (.ite h ?_)
  split
  · exact h
  · next b _ =>
    have k : Kept z (modCan c (fun k => { k with lost := true })
        (modBuf c b (fun x => { x with suspects := 0 }) (attempt c b w s))) := modCan_kept (modBuf_kept (attempt_kept h))
    exact canChoose_kept (.ite (settle_kept k) (.ite (settle_kept k) k))

theorem execCanBusError_keeps (c : Fin 4) (e : CanError) (w : Word) : Keeps z (execCanBusError c e w s) := by
  have k : Kept z (modCan c (fun k => { k with lastError := e.kind, lost := false }) s) := modCan_kept h
  refine .next (.ite h (.ite ?_ (canChoose_kept (canCounts_kept k))))
  split
  · exact k
  · exact canChoose_kept (canCounts_kept (.ite (settle_kept (suspect_kept (attempt_kept k)))
      (.ite (settle_kept (suspect_kept (attempt_kept k))) (suspect_kept (attempt_kept k)))))

theorem execCanRecoverWaitExpire_keeps (c : Fin 4) : Keeps z (execCanRecoverWaitExpire c s) :=
  .next (.ite (modCan_kept h) h)

theorem execCanBusOffRecovery_keeps (c : Fin 4) : Keeps z (execCanBusOffRecovery c s) :=
  .next (.ite (canChoose_kept (canCounts_kept (modCan_kept h))) h)

theorem execCanIntegrate_keeps (c : Fin 4) : Keeps z (execCanIntegrate c s) :=
  .next (.ite (canChoose_kept (modCan_kept h)) h)

theorem execCanTxPeriod_keeps (c : Fin 4) (n : BitVec 12) : Keeps z (execCanTxPeriod c n s) := by
  refine .next ?_
  dsimp only
  split
  · exact h
  · exact .ite h (canFrameDue_kept h)

theorem execCanBuffer2Load_keeps (c : Fin 4) : Keeps z (execCanBuffer2Load c s) := by
  refine .next (.ite h ?_)
  split
  · exact h
  · exact canLoaded_kept (modBuf_kept (modCan_kept h))

theorem execEthFrameReceive_keeps (p : Fin 2) (f : Bytes) (g : Bool) (n : Nat) : Keeps z (execEthFrameReceive p f g n s) :=
  .next (.ite h (.ite (holdRx_kept (advanceLocal_kept h)) (arriveEth_kept (advanceLocal_kept h))))

theorem execEthLaunch_keeps (p : Fin 2) (q : Fin 8) : Keeps z (execEthLaunch p q s) := by
  refine .next ?_
  split
  · exact h
  · exact .ite h (ethStartAll_kept (advanceLocal_kept h))

theorem execEthFrameSent_keeps (p : Fin 2) (q : Fin 8) (n : Nat) : Keeps z (execEthFrameSent p q n s) := by
  refine .next (.ite h ?_)
  split
  · exact h
  · refine ethStart_kept (.ite (ptpEffect_kept ?_) ?_) <;>
    · split
      · split
        · exact completeWait_kept (.ite (raiseEth_kept (modEth_kept (modQueue_kept (advanceLocal_kept h))))
            (modEth_kept (modQueue_kept (advanceLocal_kept h))))
        · exact .ite (raiseEth_kept (modEth_kept (modQueue_kept (advanceLocal_kept h))))
            (modEth_kept (modQueue_kept (advanceLocal_kept h)))
      · exact .ite (raiseEth_kept (modEth_kept (modQueue_kept (advanceLocal_kept h))))
          (modEth_kept (modQueue_kept (advanceLocal_kept h)))

theorem execEthSendTimeout_keeps (p : Fin 2) (q : Fin 8) : Keeps z (execEthSendTimeout p q s) := by
  refine .next ?_
  split
  · dsimp only
    split
    · exact ethStart_kept (completeWait_kept (modQueue_kept (netTicks_kept h)))
    · exact modQueue_kept (netTicks_kept h)
  · exact h

theorem execEthLink_keeps (p : Fin 2) (u : Bool) (v : BitVec 2) : Keeps z (execEthLink p u v s) :=
  .next (.ite h (.ite (ethDown_kept h) (.ite h (ethStart_kept (refreshWhere_kept (raiseEth_kept (modEth_kept h)))))))

theorem execEthTxPeriod_keeps (p : Fin 2) (n : BitVec 12) : Keeps z (execEthTxPeriod p n s) := by
  refine .next ?_
  dsimp only
  split
  · exact h
  · exact .ite h (ethDue_kept h)

theorem execPtpMessageTimer_keeps (p : Fin 2) (m : BitVec 4) : Keeps z (execPtpMessageTimer p m s) :=
  .next (.ite (ptpEffect_kept h) h)

/-! ### The Telith link and the standby -/

theorem execTelithTrainingStart_keeps : Keeps z (execTelithTrainingStart s) := .next (.ite (startTraining_kept h) h)

theorem execTrainingStepDone_keeps (l : BitVec 2) (p : Option Identity) : Keeps z (execTrainingStepDone l p s) := by
  refine .next (.ite h (.ite (modPair_kept h) (.ite (modPair_kept h) (.ite (modPair_kept h) (.ite (.ite h (modPair_kept h))
    (.ite ?_ h))))))
  split
  · exact takeIdentity_kept h
  · exact h

theorem execTrainingStepTimeout_keeps : Keeps z (execTrainingStepTimeout s) :=
  .next (.ite h (.ite (modPair_kept h) (modPair_kept h)))

theorem execSoloTimeout_keeps : Keeps z (execSoloTimeout s) :=
  .next (.ite h (endRetrain_kept (.ite (decideRole_kept h) h)))

theorem execRoleDecision_keeps : Keeps z (execRoleDecision s) := by
  refine .next ?_
  split
  · exact h
  · refine .ite h (endRetrain_kept (startupClaim_kept (takePartnerTime_kept (.ite (takeClaim_kept ?_) ?_)))) <;>
      exact .ite (supersede_kept (linkTrained_kept (decideRole_kept (modPair_kept h))))
        (linkTrained_kept (decideRole_kept (modPair_kept h)))

theorem execLinkLane_keeps (l : Fin 2) : Keeps z (execLinkLane l s) := .next (.ite h (raisePair_kept (modPair_kept h)))

theorem execTelithLinkLost_keeps : Keeps z (execTelithLinkLost s) := .next (.ite h (takeoverEvent_kept (dropLink_kept h)))

theorem execHeartbeatSend_keeps : Keeps z (execHeartbeatSend s) := .next (.ite (sendBeats_kept h) h)

theorem execHeartbeatReceive_keeps (b : Heartbeat) : Keeps z (execHeartbeatReceive b s) := by
  refine .next (.ite h (.ite (takeoverEvent_kept ?_) ?_)) <;>
    exact .ite (settleOutputs_kept (seeClaim_kept (followPartner_kept (modPair_kept h))))
      (seeClaim_kept (followPartner_kept (modPair_kept h)))

theorem execClaimTaken_keeps : Keeps z (execClaimTaken s) := by
  refine .next ?_
  split
  · exact h
  · refine .ite h ?_
    dsimp only
    split
    · exact modeRunNow_kept (raisePair_kept (modPair_kept (h.same rfl)))
    · exact releaseHeld_kept (raisePair_kept (modPair_kept (h.same rfl)))
    · exact raisePair_kept (modPair_kept (h.same rfl))

theorem execTakeover_keeps : Keeps z (execTakeover s) := by
  refine .next ?_
  split
  · exact h
  · exact .ite h (takeOver_kept (advanceTo_kept h))

theorem execHandoverRequestReceive_keeps : Keeps z (execHandoverRequestReceive s) := .next (.ite (takeoverEvent_kept h) h)

theorem execHandoverTimeout_keeps : Keeps z (execHandoverTimeout s) := .next (.ite h (modPair_kept (endHandover_kept h)))

theorem execBaleApply_keeps (b : Bale) : Keeps z (execBaleApply b s) := by
  have k : Kept z (seeClaim b.claim (partnerUnit s) 0 (notePartnerEdit b s)) := seeClaim_kept (notePartnerEdit_kept h)
  exact .next (.ite h (.ite (modPair_kept h) (.ite k (modPair_kept (.upd (baleEffect_kept k) rfl rfl rfl rfl rfl rfl rfl)))))

theorem execBulkDone_keeps : Keeps z (execBulkDone s) := by
  refine .next (.ite h (.ite ?_ (.ite (modPair_kept h) h)))
  split
  · exact .ite (followAgain_kept (raisePair_kept (modPair_kept h))) (raisePair_kept (modPair_kept h))
  · exact h

theorem execBulkCopyReceive_keeps (l : List BulkLine) : Keeps z (execBulkCopyReceive l s) :=
  .next (.ite (.foldl (fun _ _ => bulkLine_kept) (bulkAgain_kept h)) h)

/-! ### The retain store, supply and start-up -/

theorem execRetainPageWrite_keeps (mv : Nat) : Keeps z (execRetainPageWrite mv s) :=
  .next (.ite h (startPage_kept (finishPage_kept h)))

theorem execRetainedSavePeriodic_keeps : Keeps z (execRetainedSavePeriodic s) :=
  .next (.ite h (dueSave_kept (.upd (advanceTo_kept h) rfl rfl rfl rfl rfl rfl rfl)))

theorem execRecorderWrite_keeps (mv : Nat) : Keeps z (execRecorderWrite mv s) := by
  refine .next (.ite h ?_)
  have k : Kept z (noteOverflow s) := noteOverflow_kept h
  dsimp only
  split
  · exact k
  · refine .ite k (recordedLatch_kept (noteOverflow_kept (.store k ?_ ?_ rfl rfl rfl rfl rfl)))
    · exact fun e => (writeChecked_seal ..).trans e
    · exact writeChecked_wf0

theorem execSupplyUndervoltage_keeps (mv : Nat) : Keeps z (execSupplyUndervoltage mv s) := .next (.ite h (modPower_kept h))

theorem execRideMsExpire_keeps (mv : Nat) : Keeps z (execRideMsExpire mv s) := .next (.ite h (rideOver_kept h))

theorem execSupplyReturn_keeps (us mv : Nat) : Keeps z (execSupplyReturn us mv s) :=
  .next (.ite h (.ite (modPower_kept h) (endInterruption_kept (advanceNet_kept (.ite (rideOver_kept h) h)))))

theorem execStoreAtVSave_keeps (mv : Nat) : Keeps z (execStoreAtVSave mv s) :=
  .next (.ite h (dueSaveNow_kept (modPower_kept h)))

theorem execPrsntLateOpen_keeps (mv : Nat) : Keeps z (execPrsntLateOpen mv s) :=
  .next (.ite h (dueSaveNow_kept (modPower_kept h)))

theorem execPowerDownSaveDone_keeps : Keeps z (execPowerDownSaveDone s) := .next (.ite (stopDie_kept h) h)

theorem execHoldupMeasure_keeps (c mv : Nat) : Keeps z (execHoldupMeasure c mv s) :=
  .next (.ite h (setStore_kept (modPower_kept h)))

theorem execHoldupCharged_keeps (mv : Nat) : Keeps z (execHoldupCharged mv s) :=
  .next (.ite h (setStore_kept (modPower_kept h)))

theorem execHoldupChargeTimeout_keeps : Keeps z (execHoldupChargeTimeout s) := .next (.ite h (setStore_kept h))

theorem execCoreSupplyFault_keeps (a : Bool) (n : Nat) (m : DWord) : Keeps z (execCoreSupplyFault a n m s) :=
  .next (.ite h (modPower_kept (stopDie_kept (tearPage_kept (cutOutputs_kept (tripPulse_kept h))))))

theorem execCoreRailRecovered_keeps : Keeps z (execCoreRailRecovered s) := .next (.ite (startUp_kept h) h)

theorem execPrsntEarlyClose_keeps : Keeps z (execPrsntEarlyClose s) := .next (.ite h (modPower_kept h))

theorem execMainSupplySwitch_keeps : Keeps z (execMainSupplySwitch s) := .next (.ite h (modPower_kept h))

theorem execPowerGood_keeps (p : PowerGoodPins) : Keeps z (execPowerGood p s) :=
  .next (.ite h (startUp_kept (unlatchedAt_kept (modPower_kept h))))

theorem execStartupPhase1End_keeps (g : Bool) : Keeps z (execStartupPhase1End g s) :=
  .next (.ite h (.ite (faultSafe_kept h) (enterPhase_kept (.upd (.ite h (startOther_kept h)) rfl rfl rfl rfl rfl rfl rfl))))

theorem execStartupPhase2End_keeps (r : SelfTest) : Keeps z (execStartupPhase2End r s) := by
  refine .next (.ite h (.ite (faultSafe_kept ?_) (enterPhase_kept (loadInputs_kept (.upd ?_ rfl rfl rfl rfl rfl rfl rfl))))) <;>
    exact .foldl (fun _ _ => selfTestFail_kept) (.foldl (fun _ _ => selfTestFail_kept) (testEffects_kept (modWdt_kept h)))

theorem execStartupPhase3End_keeps (mv : Nat) : Keeps z (execStartupPhase3End mv s) := by
  have k : Kept z (readStore (modPower (fun p => { p with storeMv := mv }) s)) := readStore_kept (modPower_kept h)
  exact .next (.ite h (startTraining_kept (enterPhase_kept (.ite (phase3Writes_kept k)
    (selfTestFail_kept (.ite (setStore_kept k) k))))))

theorem execStartupPhase4End_keeps : Keeps z (execStartupPhase4End s) := by
  refine .next (.ite h (.ite (modIhloz_kept (nodeState_kept ?_)) ?_)) <;>
    exact enterPhase_kept (.upd (.ite h (modPair_kept h)) rfl rfl rfl rfl rfl rfl rfl)

theorem execStartupPhase5End_keeps : Keeps z (execStartupPhase5End s) :=
  .next (.ite h (enterPhase_kept (.ite h (advanceIhloz_kept h))))

theorem execStartupPhase6End_keeps (t : Int) : Keeps z (execStartupPhase6End t s) := by
  refine .next (.ite h ?_)
  dsimp only
  split
  · exact refreshSource_kept (.upd (fixT0_kept (startTime_kept (enterPhase_kept h))) rfl rfl rfl rfl rfl rfl rfl)
  · exact refreshSource_kept (startTime_kept (enterPhase_kept h))

theorem execStartupPhase7End_keeps (n : Nat) : Keeps z (execStartupPhase7End n s) := by
  have k : Kept z (enterPhase 8 (loadStored s)) := enterPhase_kept (loadStored_kept h)
  refine .next (.ite h (.ite (takeClaim_kept ?_) ?_)) <;> exact restartStored_kept (.ite k (fixT0_kept k))

theorem execStartupPhase8End_keeps (n : Nat) : Keeps z (execStartupPhase8End n s) :=
  .next (.ite h (endStartup_kept (modPower_kept (advanceTo_kept h))))

/-! ### Clocks and watchdog -/

theorem execWatchdogTick_keeps : Keeps z (execWatchdogTick s) := .next (wdtEdge_kept h)

theorem execWdtWindowEnd_keeps : Keeps z (execWdtWindowEnd s) := .next (.ite (wdtEdge_kept h) h)

theorem execWdtPauseExpire_keeps : Keeps z (execWdtPauseExpire s) := .next (.ite (expireWdt_kept (advanceTo_kept h)) h)

theorem execWdtTripPulseEnd_keeps : Keeps z (execWdtTripPulseEnd s) := .next (h.same rfl)

theorem execExpiryRecordTimeout_keeps : Keeps z (execExpiryRecordTimeout s) := .next h

theorem execClockMonitorPeriod_keeps (n : Nat) : Keeps z (execClockMonitorPeriod n s) :=
  .next (.ite h (.ite (modWdt_kept h) (clockFailure_kept (modWdt_kept (takeFree_kept (modWdt_kept h))))))

theorem execClockEdgeGap_keeps (w : Bool) : Keeps z (execClockEdgeGap w s) :=
  .next (.ite h (clockFailure_kept (modWdt_kept h)))

theorem execPllLossOfLock_keeps (f : Bool) : Keeps z (execPllLossOfLock f s) := .next (.ite h (clockFailure_kept h))

theorem execBarnClockFail_keeps (b : Fin 4) (p : Bool) : Keeps z (execBarnClockFail b p s) :=
  .next (.ite h (raise_kept (barnOff_kept h)))

/-! ### Firmware transfers and activation -/

theorem execOfferRepeat_keeps (k : Fin 8) : Keeps z (execOfferRepeat k s) := by
  refine .next ?_
  split
  · exact .ite (sendMessage_kept h) h
  · exact h

theorem execOffer_keeps (m : TransferMsg) : Keeps z (execOffer m s) := by
  refine .next ?_
  split
  · exact h
  · next e =>
    have k := hear_kept h e
    split
    · exact .ite k (.ite (.ite (sendMessage_kept (modSlot_kept (fun _ _ => rfl) k))
        (endXfer_kept (fwRefused_kept (sendMessage_kept k)))) (.ite (sendMessage_kept k) k))
    · exact k

theorem execAccept_keeps (m : TransferMsg) : Keeps z (execAccept m s) := by
  refine .next ?_
  split
  · exact h
  · next e =>
    have k := hear_kept h e
    split
    · exact .ite (setXfer_kept k) k
    · exact k

theorem execRefuse_keeps (m : TransferMsg) : Keeps z (execRefuse m s) := by
  refine .next ?_
  split
  · exact h
  · next e =>
    have k := hear_kept h e
    split
    · exact endXfer_kept (fwRefused_kept k)
    · exact k

theorem execNack_keeps (m : TransferMsg) : Keeps z (execNack m s) := by
  refine .next ?_
  split
  · exact h
  · next e =>
    have k := hear_kept h e
    split
    · exact .ite (setXfer_kept k) k
    · exact k

theorem execVerified_keeps (m : TransferMsg) : Keeps z (execVerified m s) := by
  refine .next ?_
  split
  · exact h
  · next e =>
    have k := hear_kept h e
    split
    · exact .ite (endXfer_kept k) k
    · exact k

theorem execData_keeps (m : TransferMsg) : Keeps z (execData m s) := by
  refine .next ?_
  split
  · exact .ite (sendData_kept h) h
  · split
    · exact h
    · next e =>
      have k := hear_kept h e
      split
      · exact .ite (takeData_kept k) k
      · exact k

theorem execDone_keeps (m : TransferMsg) : Keeps z (execDone m s) := by
  refine .next ?_
  split
  · exact .ite (sendMessage_kept h) h
  · split
    · exact h
    · next e =>
      have k := hear_kept h e
      split
      · exact .ite (takeDone_kept k) k
      · exact k

theorem execFwVerifyDone_keeps : Keeps z (execFwVerifyDone s) := by
  refine .next ?_
  split
  · exact h
  · refine .ite h (.ite (endXfer_kept ?_) (endXfer_kept ?_))
    · exact .ite (raiseFw_kept (modSlot_kept (fun _ => id) h)) (sendMessage_kept (raiseFw_kept (modSlot_kept (fun _ => id) h)))
    · exact .ite (fwRefused_kept (modSlot_kept (fun _ _ => rfl) h))
        (sendMessage_kept (fwRefused_kept (modSlot_kept (fun _ _ => rfl) h)))

theorem execFwTransferIdleTimeout_keeps (k : Fin 8) : Keeps z (execFwTransferIdleTimeout k s) := by
  refine .next ?_
  split
  · exact .ite (timeoutXfer_kept h) h
  · exact h

theorem execFwOfferWaitTimeout_keeps (k : Fin 8) : Keeps z (execFwOfferWaitTimeout k s) := by
  refine .next ?_
  split
  · exact .ite (timeoutXfer_kept h) h
  · exact h

theorem execActivationPauseBegin_keeps : Keeps z (execActivationPauseBegin s) := by
  refine .next ?_
  split
  · exact h
  · exact .ite h (.ite (beginPause_kept h) (.ite h (beginPause_kept (advanceTo_kept h))))

theorem execActivationPauseEnd_keeps (l : List (Half × Byte)) : Keeps z (execActivationPauseEnd l s) :=
  .next (.ite h (pendingSave_kept (completeActivate_kept (raiseFw_kept (pauseReleases_kept (resetBlocks_kept
    (takeHeld_kept (endPause_kept (.upd (modSlot_kept (fun _ => id) (modSlot_kept (fun _ => id) h))
      rfl rfl rfl rfl rfl rfl rfl)))))))))

theorem execActivationFailure_keeps : Keeps z (execActivationFailure s) :=
  .next (.ite h (pendingSave_kept (completeActivate_kept (enterSafe_kept (modTasks_kept (takeHeld_kept (endPause_kept
    (modSlot_kept (fun _ _ => rfl) (advanceTo_kept h)))))))))

/-! ### All rows -/

/-- Every row answers a next state that keeps what the state before it holds. -/
theorem exec_keeps : ∀ c : Instr, Keeps z (exec c s)
  | .nop _ => execNop_keeps h _
  | .identify _ => execIdentify_keeps h _
  | .settingsWrite _ _ _ _ => execSettingsWrite_keeps h _ _ _ _
  | .settingsRead _ _ => execSettingsRead_keeps h _ _
  | .modeSet _ _ _ _ => execModeSet_keeps h _ _ _ _
  | .taskLoad _ _ => execTaskLoad_keeps h _ _
  | .taskControlEnable _ _ => execTaskControlEnable_keeps h _ _
  | .taskControlDisable _ _ => execTaskControlDisable_keeps h _ _
  | .taskControlTrigger _ _ => execTaskControlTrigger_keeps h _ _
  | .taskControlQuery _ _ => execTaskControlQuery_keeps h _ _
  | .breakpointSet _ _ _ => execBreakpointSet_keeps h _ _ _
  | .breakpointClear _ _ _ => execBreakpointClear_keeps h _ _ _
  | .holdResume _ _ => execHoldResume_keeps h _ _
  | .step _ _ _ => execStep_keeps h _ _ _
  | .chanSync _ _ _ _ => execChanSync_keeps h _ _ _ _
  | .wardenWrite _ _ _ _ => execWardenWrite_keeps h _ _ _ _
  | .imageExportSet _ _ _ _ _ _ _ => execImageExportSet_keeps h _ _ _ _ _ _ _
  | .editPrepare _ _ => execEditPrepare_keeps h _ _
  | .editCommit _ _ _ | .editRollback _ _ _ => .next (editTake_kept h)
  | .profileLoad _ _ => execProfileLoad_keeps h _ _
  | .profileRequest _ _ _ => execProfileRequest_keeps h _ _ _
  | .retainRead _ _ _ => execRetainRead_keeps h _ _ _
  | .retainWrite _ _ _ _ => execRetainWrite_keeps h _ _ _ _
  | .sealLock _ _ _ => execSealLock_keeps h _ _ _
  | .recorderRead _ _ _ => execRecorderRead_keeps h _ _ _
  | .clockRead _ => execClockRead_keeps h _
  | .clockAdjustSet _ _ _ => execClockAdjustSet_keeps h _ _ _
  | .clockAdjustStep _ _ => execClockAdjustStep_keeps h _ _
  | .clockAdjustFreq _ _ => execClockAdjustFreq_keeps h _ _
  | .canSend _ _ _ _ _ => execCanSend_keeps h _ _ _ _ _
  | .canCancel _ _ _ => execCanCancel_keeps h _ _ _
  | .ethSend _ _ _ _ _ _ _ => execEthSend_keeps h _ _ _ _ _ _ _
  | .ihlozScheduleLoad _ _ _ => execIhlozScheduleLoad_keeps h _ _ _
  | .hartTransact _ _ _ _ => execHartTransact_keeps h _ _ _ _
  | .fwReceive _ _ _ _ _ => execFwReceive_keeps h _ _ _ _ _
  | .fwForward _ _ _ => execFwForward_keeps h _ _ _
  | .fwActivate _ => execFwActivate_keeps h _
  | .redundancyControlQuery _ => execRedundancyControlQuery_keeps h _
  | .redundancyControlHandover _ => execRedundancyControlHandover_keeps h _
  | .redundancyControlRetrain _ => execRedundancyControlRetrain_keeps h _
  | .hiCtrlEnableSet _ => execHiCtrlEnableSet_keeps h _
  | .hiCtrlEnableClear _ => execHiCtrlEnableClear_keeps h _
  | .ringCfgEnSet _ _ => execRingCfgEnSet_keeps h _ _
  | .ringCfgEnClear _ _ => execRingCfgEnClear_keeps h _ _
  | .bar0Write _ _ => execBar0Write_keeps h _ _
  | .doorbellFetchDone _ => execDoorbellFetchDone_keeps h _
  | .msixCoalesceExpire _ => execMsixCoalesceExpire_keeps h _
  | .pcieLinkUp _ _ => execPcieLinkUp_keeps h _ _
  | .placementPublish _ => execPlacementPublish_keeps h _
  | .taskDeadline _ => execTaskDeadline_keeps h _
  | .alarmTrigger _ => execAlarmTrigger_keeps h _
  | .eventTaskRelease _ _ => execEventTaskRelease_keeps h _ _
  | .instanceStart _ _ _ => execInstanceStart_keeps h _ _ _
  | .pairedCopyBStart _ _ _ => execPairedCopyBStart_keeps h _ _ _
  | .contextSwitch _ => execContextSwitch_keeps h _
  | .bundleIssue _ => execBundleIssue_keeps h _
  | .breakpointHit _ => execBreakpointHit_keeps h _
  | .immHi _ => execImmHi_keeps h _
  | .aluAdd _ | .aluAdc _ | .aluSub _ | .aluSbc _ | .aluAnd _ | .aluOr _ | .aluXor _ | .aluAndn _ | .aluShl _
  | .aluShr _ | .aluSar _ | .aluRol _ | .aluMin _ | .aluMax _ | .aluCmp _ | .macMul _ | .macMac _ | .macMsu _
  | .chkStep _ | .chkPar _ | .chkRev _ | .ldW _ | .ldHu _ | .ldBu _ | .stW _ | .stH _ | .stB _ | .lsBlk _
    => .next (issueTrigger_kept h)
  | .loadResultArrive _ _ => execLoadResultArrive_keeps h _ _
  | .blockTransferComplete _ _ => execBlockTransferComplete_keeps h _ _
  | .rptGo _ | .rptExit _ | .imgRdb _ | .imgRdw _ | .imgWrb _ | .imgWrw _ | .solve _ | .brJmp _ | .brCall _ | .brJnz _
  | .brJz _ | .brJcc _ | .brRel _ | .txEnd _ | .txAbort _ | .sysEvt _ | .sysFence _ | .sysWait _ | .sysWdkey _
  | .sysCheckin _ => .next (issueTrigger_kept h)
  | .solverCallStart _ => execSolverCallStart_keeps h _
  | .solverCallLimit _ => execSolverCallLimit_keeps h _
  | .solverResultArrive _ _ => execSolverResultArrive_keeps h _ _
  | .ld _ _ | .ldn _ _ | .rungAnd _ _ | .rungAndn _ _ | .rungOr _ _ | .rungOrn _ _ | .rungXor _ _ => .next (readWord_kept h)
  | .st _ _ | .stn _ _ | .rungSet _ _ | .rst _ _ | .rise _ _ | .fall _ _ => .next (writeWord_kept h)
  | .win _ => execWin_keeps h _
  | .tmr _ _ => execTmr_keeps h _ _
  | .rungNop _ => .next (stackWord_kept h)
  | .rungEnd _ | .endc _ | .endcn _ => .next (endWord_kept h)
  | .jmp _ | .jmpc _ | .jmpcn _ => .next (jumpWord_kept h)
  | .dup _ | .pop _ | .swap _ | .rungNot _ | .ands _ | .ors _ | .xors _ | .push0 _ | .push1 _ | .clr _
    => .next (stackWord_kept h)
  | .pairCompare _ => execPairCompare_keeps h _
  | .pairDeadline _ => execPairDeadline_keeps h _
  | .imageExportWrite _ => execImageExportWrite_keeps h _
  | .cacheLoad _ _ => execCacheLoad_keeps h _ _
  | .channelStale _ => execChannelStale_keeps h _
  | .drainFenceComplete _ => execDrainFenceComplete_keeps h _
  | .resultForwarded _ => execResultForwarded_keeps h _
  | .homeLineMove _ => execHomeLineMove_keeps h _
  | .wakeDecision _ => execWakeDecision_keeps h _
  | .barnPowerSwitchOn _ => execBarnPowerSwitchOn_keeps h _
  | .barnPllLock _ => execBarnPllLock_keeps h _
  | .barnClockRamp _ => execBarnClockRamp_keeps h _
  | .stallUngate _ => execStallUngate_keeps h _
  | .solverUngate _ => execSolverUngate_keeps h _
  | .stallGate _ _ => execStallGate_keeps h _ _
  | .barnPowerOff _ => execBarnPowerOff_keeps h _
  | .farrierRead _ _ => execFarrierRead_keeps h _ _
  | .stallRetired _ => execStallRetired_keeps h _
  | .stallFailed _ _ => execStallFailed_keeps h _ _
  | .solverRetired _ _ => execSolverRetired_keeps h _ _
  | .groomTest _ _ => execGroomTest_keeps h _ _
  | .groomScrub _ => execGroomScrub_keeps h _
  | .thermalHigh _ _ => execThermalHigh_keeps h _ _
  | .diSample _ _ => execDiSample_keeps h _ _
  | .wettingPulse _ => execWettingPulse_keeps h _
  | .countEdge _ _ => execCountEdge_keeps h _ _
  | .chatterWindowExpire _ => execChatterWindowExpire_keeps h _
  | .stuckTimeout _ => execStuckTimeout_keeps h _
  | .countOverrateExpire _ => execCountOverrateExpire_keeps h _
  | .readbackSample _ => execReadbackSample_keeps h _
  | .doCurrentLimit _ => execDoCurrentLimit_keeps h _
  | .doThermalShutdown _ => execDoThermalShutdown_keeps h _
  | .doThermalRetry _ => execDoThermalRetry_keeps h _
  | .groupOvercurrent _ => execGroupOvercurrent_keeps h _
  | .groupRetry _ => execGroupRetry_keeps h _
  | .doSupplyLow _ _ => execDoSupplyLow_keeps h _ _
  | .loopConversion _ => execLoopConversion_keeps h _
  | .aoLinkTimeout _ => execAoLinkTimeout_keeps h _
  | .hartAttempt _ => execHartAttempt_keeps h _
  | .hartResponse _ _ => execHartResponse_keeps h _ _
  | .hartNoResponse _ => execHartNoResponse_keeps h _
  | .hartBusBusy _ => execHartBusBusy_keeps h _
  | .hartStray _ => execHartStray_keeps h _
  | .ihlozFrameReceive _ _ _ => execIhlozFrameReceive_keeps h _ _ _
  | .payloadFreeze _ => execPayloadFreeze_keeps h _
  | .ihlozSlotSend _ _ _ => execIhlozSlotSend_keeps h _ _ _
  | .ihlozSlotEnd _ => execIhlozSlotEnd_keeps h _
  | .ihlozCycleStart _ => execIhlozCycleStart_keeps h _
  | .ihlozTWaitExpire _ _ => execIhlozTWaitExpire_keeps h _ _
  | .collisionMarkerReceive _ _ => execCollisionMarkerReceive_keeps h _ _
  | .starDelimiterDetect _ _ => execStarDelimiterDetect_keeps h _ _
  | .starForwardCut _ => execStarForwardCut_keeps h _
  | .canFrameReceive _ _ _ => execCanFrameReceive_keeps h _ _ _
  | .canTxComplete _ _ => execCanTxComplete_keeps h _ _
  | .canArbitrationLost _ _ => execCanArbitrationLost_keeps h _ _
  | .canBusError _ _ _ => execCanBusError_keeps h _ _ _
  | .canRecoverWaitExpire _ => execCanRecoverWaitExpire_keeps h _
  | .canBusOffRecovery _ => execCanBusOffRecovery_keeps h _
  | .canIntegrate _ => execCanIntegrate_keeps h _
  | .canTxPeriod _ _ => execCanTxPeriod_keeps h _ _
  | .canBuffer2Load _ => execCanBuffer2Load_keeps h _
  | .ethFrameReceive _ _ _ _ => execEthFrameReceive_keeps h _ _ _ _
  | .ethLaunch _ _ => execEthLaunch_keeps h _ _
  | .ethFrameSent _ _ _ => execEthFrameSent_keeps h _ _ _
  | .ethSendTimeout _ _ => execEthSendTimeout_keeps h _ _
  | .ethLink _ _ _ => execEthLink_keeps h _ _ _
  | .ethTxPeriod _ _ => execEthTxPeriod_keeps h _ _
  | .ptpMessageTimer _ _ => execPtpMessageTimer_keeps h _ _
  | .trainingStepDone _ _ => execTrainingStepDone_keeps h _ _
  | .linkLane _ => execLinkLane_keeps h _
  | .heartbeatReceive _ => execHeartbeatReceive_keeps h _
  | .baleApply _ => execBaleApply_keeps h _
  | .retainPageWrite _ => execRetainPageWrite_keeps h _
  | .recorderWrite _ => execRecorderWrite_keeps h _
  | .supplyUndervoltage _ => execSupplyUndervoltage_keeps h _
  | .supplyReturn _ _ => execSupplyReturn_keeps h _ _
  | .rideMsExpire _ => execRideMsExpire_keeps h _
  | .storeAtVSave _ => execStoreAtVSave_keeps h _
  | .prsntLateOpen _ => execPrsntLateOpen_keeps h _
  | .holdupMeasure _ _ => execHoldupMeasure_keeps h _ _
  | .holdupCharged _ => execHoldupCharged_keeps h _
  | .coreSupplyFault _ _ _ => execCoreSupplyFault_keeps h _ _ _
  | .powerGood _ => execPowerGood_keeps h _
  | .startupPhase1End _ => execStartupPhase1End_keeps h _
  | .startupPhase2End _ => execStartupPhase2End_keeps h _
  | .startupPhase3End _ => execStartupPhase3End_keeps h _
  | .startupPhase6End _ => execStartupPhase6End_keeps h _
  | .startupPhase7End _ => execStartupPhase7End_keeps h _
  | .startupPhase8End _ => execStartupPhase8End_keeps h _
  | .pllLossOfLock _ => execPllLossOfLock_keeps h _
  | .barnClockFail _ _ => execBarnClockFail_keeps h _ _
  | .clockMonitorPeriod _ => execClockMonitorPeriod_keeps h _
  | .clockEdgeGap _ => execClockEdgeGap_keeps h _
  | .offer _ => execOffer_keeps h _
  | .data _ => execData_keeps h _
  | .done _ => execDone_keeps h _
  | .activationPauseEnd _ => execActivationPauseEnd_keeps h _
  | .pcieCompletionTimeout _ _ _ _ => execPcieCompletionTimeout_keeps h _ _ _ _
  | .currentLimitLeft _ => execCurrentLimitLeft_keeps h _
  | .groupOvercurrentLeft _ => execGroupOvercurrentLeft_keeps h _
  | .doThermalCooled _ => execDoThermalCooled_keeps h _
  | .hartNoEnergy _ => execHartNoEnergy_keeps h _
  | .starContinuousCut _ => execStarContinuousCut_keeps h _
  | .starCutExpire _ => execStarCutExpire_keeps h _
  | .offerRepeat _ => execOfferRepeat_keeps h _
  | .accept _ => execAccept_keeps h _
  | .refuse _ => execRefuse_keeps h _
  | .nack _ => execNack_keeps h _
  | .verified _ => execVerified_keeps h _
  | .fwTransferIdleTimeout _ => execFwTransferIdleTimeout_keeps h _
  | .fwOfferWaitTimeout _ => execFwOfferWaitTimeout_keeps h _
  | .bulkCopyReceive _ => execBulkCopyReceive_keeps h _
  | .ext _ => execExt_keeps h _
  | .doorbellPoll => execDoorbellPoll_keeps h
  | .echoLineWrite => execEchoLineWrite_keeps h
  | .pcieLinkDown => execPcieLinkDown_keeps h
  | .hotReset => execHotReset_keeps h
  | .functionLevelReset => execFunctionLevelReset_keeps h
  | .surpriseRemoval => execSurpriseRemoval_keeps h
  | .perstNAssert => execPerstNAssert_keeps h
  | .perstNRelease => execPerstNRelease_keeps h
  | .foldRepost => execFoldRepost_keeps h
  | .baseTick => execBaseTick_keeps h
  | .commit => execCommit_keeps h
  | .escalationHandoverTimeout => execEscalationHandoverTimeout_keeps h
  | .directOutputApply => execDirectOutputApply_keeps h
  | .baleSend => execBaleSend_keeps h
  | .editCommitApply => execEditCommitApply_keeps h
  | .editCommitTimeout => execEditCommitTimeout_keeps h
  | .profileVoteComplete => execProfileVoteComplete_keeps h
  | .profileVoteFailed => execProfileVoteFailed_keeps h
  | .profileSwitch => execProfileSwitch_keeps h
  | .clockSyncCorrection => execClockSyncCorrection_keeps h
  | .telithTrainingStart => execTelithTrainingStart_keeps h
  | .trainingStepTimeout => execTrainingStepTimeout_keeps h
  | .soloTimeout => execSoloTimeout_keeps h
  | .roleDecision => execRoleDecision_keeps h
  | .telithLinkLost => execTelithLinkLost_keeps h
  | .heartbeatSend => execHeartbeatSend_keeps h
  | .claimTaken => execClaimTaken_keeps h
  | .takeover => execTakeover_keeps h
  | .handoverRequestReceive => execHandoverRequestReceive_keeps h
  | .handoverTimeout => execHandoverTimeout_keeps h
  | .bulkDone => execBulkDone_keeps h
  | .retainedSavePeriodic => execRetainedSavePeriodic_keeps h
  | .powerDownSaveDone => execPowerDownSaveDone_keeps h
  | .holdupChargeTimeout => execHoldupChargeTimeout_keeps h
  | .coreRailRecovered => execCoreRailRecovered_keeps h
  | .prsntEarlyClose => execPrsntEarlyClose_keeps h
  | .mainSupplySwitch => execMainSupplySwitch_keeps h
  | .startupPhase4End => execStartupPhase4End_keeps h
  | .startupPhase5End => execStartupPhase5End_keeps h
  | .watchdogTick => execWatchdogTick_keeps h
  | .wdtWindowEnd => execWdtWindowEnd_keeps h
  | .wdtPauseExpire => execWdtPauseExpire_keeps h
  | .wdtTripPulseEnd => execWdtTripPulseEnd_keeps h
  | .expiryRecordTimeout => execExpiryRecordTimeout_keeps h
  | .fwVerifyDone => execFwVerifyDone_keeps h
  | .activationPauseBegin => execActivationPauseBegin_keeps h
  | .activationFailure => execActivationFailure_keeps h

end

/-- A row that answers `t` keeps what the state before it holds. -/
theorem exec_kept {c : Instr} {s t : State} (h : exec c s = .next t) : Kept s t := by
  cases h ▸ exec_keeps (Kept.refl s) c with
  | next k => exact k

theorem exec_completes (c : Instr) (s : State) : ∃ t, exec c s = .next t := by
  cases h : exec c s with
  | next t => exact ⟨t, rfl⟩
  | fault r => exact nomatch h ▸ exec_keeps (Kept.refl s) c
  | refused r => exact nomatch h ▸ exec_keeps (Kept.refl s) c

/-- A step is a tick of the NET clock or the row at the front of the queue. -/
theorem step_cases {s t : State} (h : step s = .next t) :
    s.pending = [] ∧ t = netTicks 1 s ∨ ∃ c rest, s.pending = c :: rest ∧ exec c { s with pending := rest } = .next t := by
  unfold step at h
  split at h
  · next e => exact .inl ⟨e, (Host.Outcome.next.inj h).symm⟩
  · next c rest e => exact .inr ⟨c, rest, e, h⟩

/-- A step keeps a locked seal and the canonical form of the memories: what it takes from the queue is of no matter to them. -/
theorem step_kept {s t : State} (h : step s = .next t) :
    (s.ret.sealLock = true → t.ret.sealLock = true) ∧ (s.memWf = true → t.memWf = true) := by
  obtain ⟨-, rfl⟩ | ⟨c, rest, -, hc⟩ := step_cases h
  · exact ⟨id, id⟩
  · exact ⟨(exec_kept hc).locked, (exec_kept hc).mem⟩

/-- Settles O5: every row keeps the canonical form of each memory that it writes. -/
theorem everyStepKeepsSafety : Obligations.EveryStepKeepsSafety := fun _ _ hs h => (step_kept h).2 hs

/-- Settles O6. -/
theorem noStepUnlocksTheSeal : Obligations.NoStepUnlocksTheSeal := fun _ _ hs h => (step_kept h).1 hs

/-- Settles O7. -/
theorem commandsLeaveQueueAndFactoryRecord : Obligations.CommandsLeaveQueueAndFactoryRecord := fun _ _ _ h =>
  ⟨(exec_kept h).queue, (exec_kept h).factory, (exec_kept h).free⟩

/-- Settles O8: no row answers a fault or a refusal. -/
theorem everyStepCompletes : Obligations.EveryStepCompletes := by
  intro s
  cases h : s.pending with
  | nil => exact ⟨netTicks 1 s, by rw [step, h]⟩
  | cons c rest =>
    obtain ⟨t, ht⟩ := exec_completes c { s with pending := rest }
    exact ⟨t, by rw [step, h]; exact ht⟩

end Sys2Proof.Machine

/-! PROOFS. How host commands start, wait and complete (chapter 10; obligations O1 to O4, O9 to O13). -/

namespace Sys2Proof.Machine

/-! ### A step, a tick, reset -/

theorem step_idle {s : State} (h : s.pending = []) : step s = .next (netTicks 1 s) := by
  rw [step, h]

/-- Settles O1. -/
theorem stepRunsTheFrontCommand : Obligations.StepRunsTheFrontCommand := by
  intro c rest s h
  rw [step, h]

/-- Settles O2: the tick is `netTicks 1`, whose rates are those of the rule. -/
theorem idleStepPassesOneNetTick : Obligations.IdleStepPassesOneNetTick := by
  intro s h
  rw [step_idle h]
  simp only [netTicks, taskRate, clockRate, ihlozRate, ihlozRuns, lcWrap, nsUnit, Nat.one_mul]

/-- Settles O3. -/
theorem resetLeavesStartUp : Obligations.ResetLeavesStartUp := by
  unfold Obligations.ResetLeavesStartUp
  decide

/-- Settles O4: at reset nothing is listed in any memory. -/
theorem resetIsSafe : Obligations.ResetIsSafe := by
  unfold Obligations.ResetIsSafe Safe
  decide

/-! ### A completion -/

/-- Settles O11: the ring is freed and advanced before the bytes are posted. -/
theorem completionIsWrittenOnceAndFreesItsRing : Obligations.CompletionIsWrittenOnceAndFreesItsRing := by
  intro k tag status result s t
  have hb : (completionBytes tag status (stamp s) result).length = 16 := completionBytes_length ..
  refine ⟨complete_frame .., ?_, fun hl i hi => ?_, fun a ha => ?_, fun hl => ?_⟩
  · simp only [t, complete, hostWrite_host]
    rfl
  · exact hostWrite_in _ _ (modRing k _ { s with host := { s.host with echoDue := true } }) hl i (hb ▸ hi)
  · exact hostWrite_out _ _ (modRing k _ { s with host := { s.host with echoDue := true } }) (hb ▸ ha)
  · simp only [t, complete, hostWrite]
    rw [if_neg (by simpa [modRing] using hl)]
    rfl

/-! ### The row of a host command (R359, R365, R366, R405) -/

/-- A host command that does not start yet is `hostCommand`, whatever its buffer. -/
theorem exec_hostRow {c : Instr} {d : Desc} {op : Nat} {serial : Bool} {s : State} (h : hostRow c = some (d, op, serial))
    (hs : starts d op serial s = false) : ∃ checks body, exec c s = .next (hostCommand d op serial checks body s) := by
  cases c
  case nop o =>
    simp only [hostRow, Option.ite_none_right_eq_some, Option.some.injEq, Prod.mk.injEq] at h
    obtain ⟨ho, rfl, rfl, rfl⟩ := h
    exact ⟨_, _, congrArg _ (if_pos ho)⟩
  case settingsWrite | wardenWrite | profileLoad | sealLock | canSend | ethSend | ihlozScheduleLoad | hartTransact | fwReceive =>
    cases h
    exact ⟨_, _, congrArg _ (bufferCommand_waits hs)⟩
  case identify | settingsRead | modeSet | taskLoad | taskControlEnable | taskControlDisable | taskControlTrigger |
      taskControlQuery | breakpointSet | breakpointClear | holdResume | step | chanSync | imageExportSet | editPrepare |
      editCommit | editRollback | profileRequest | retainRead | retainWrite | recorderRead | clockRead | clockAdjustSet |
      clockAdjustStep | clockAdjustFreq | canCancel | fwForward | fwActivate | redundancyControlQuery |
      redundancyControlHandover | redundancyControlRetrain =>
    cases h
    exact ⟨_, _, rfl⟩
  all_goals exact nomatch h

theorem starts_of_not_mayStart {d : Desc} {op : Nat} {serial : Bool} {s : State} (h : mayStart d.ring s = false) :
    starts d op serial s = false := by
  simp [starts, h]

/-- A host command without right completes with REFUSED_RIGHTS (R405). -/
theorem hostCommand_refused {d : Desc} {op : Nat} {serial : Bool} {checks : State → List (Bool × Byte)}
    {body : State → State} {s : State} (h : mayStart d.ring s = true) (hh : serialHeld serial s = false)
    (hr : ringRight s d.ring op = false) :
    hostCommand d op serial checks body s = complete d.ring d.tag 3 0 (begun d op s) := by
  have hr' : ringRight (startNext d.ring op s) d.ring op = false := hr
  simp [hostCommand, h, hh, hr', begun, stRights]

/-- Settles O9. -/
theorem hostCommandsWaitForTheirTurn : Obligations.HostCommandsWaitForTheirTurn := by
  refine ⟨fun c d op serial s hc hm => ?_, fun d o s hm => ?_, fun c d op s hc hm hh => ?_⟩
  · obtain ⟨checks, body, he⟩ := exec_hostRow hc (starts_of_not_mayStart hm)
    rw [he, hostCommand_waits hm]
  · simp [execNop, unlisted, badAction, hostCommand_waits, hm]
  · obtain ⟨checks, body, he⟩ := exec_hostRow hc (s := s) (by simp [starts, hh])
    rw [he, hostCommand_held hm hh]

/-- Settles O10. -/
theorem commandsWithoutRightAreRefused : Obligations.CommandsWithoutRightAreRefused := by
  intro c d op serial s hc hm hh hr
  obtain ⟨checks, body, he⟩ := exec_hostRow hc (s := s) (by simp [starts, hr])
  rw [he, hostCommand_refused hm hh hr]

/-! ### The reading commands -/

/-- A host command that starts and fails a check completes with the status of the first one that fails (R367). -/
theorem hostCommand_fails {d : Desc} {op : Nat} {serial : Bool} {checks : State → List (Bool × Byte)}
    {body : State → State} {s : State} (h : startsClean d op serial s = true) {c : Bool × Byte}
    (hc : (checks (begun d op s)).find? (fun c => !c.1) = some c) :
    hostCommand d op serial checks body s = complete d.ring d.tag c.2 0 (begun d op s) := by
  simp only [startsClean, Bool.and_eq_true, Bool.not_eq_true'] at h
  rw [hostCommand_starts h.1 h.2, hc]

theorem unlisted_completes {d : Desc} {s : State} (h : mayStart d.ring s = true) (hd : malformed d = false) :
    unlisted d s = complete d.ring d.tag 7 0 (begun d 0 s) := by
  simp [unlisted, h, hd, begun, stVerify]

/-- A descriptor of an opcode with actions whose ACTION lies outside its range fails check 5 of Table 13. -/
theorem badAction_completes {d : Desc} {op : Nat} {s : State} (ho : op ∈ [0x06, 0x07, 0x16, 0x1F])
    (h : startsClean d op (op = 0x1F) s = true) (ht : op = 0x1F → hasTelith s = true) (h7 : op = 0x07 → runs s = true)
    (h16 : op = 0x16 → clockMode s = true) : badAction d op s = complete d.ring d.tag 7 0 (begun d op s) := by
  change op = 0x1F → hasTelith (begun d op s) = true at ht
  change op = 0x07 → runs (begun d op s) = true at h7
  change op = 0x16 → clockMode (begun d op s) = true at h16
  have h1 : (op != 0x1F || hasTelith (begun d op s)) = true := by simpa [← imp_iff_not_or] using ht
  have h2 : ((op != 0x07 || runs (begun d op s)) && (op != 0x16 || clockMode (begun d op s))) = true := by
    simpa [← imp_iff_not_or] using ⟨h7, h16⟩
  rw [badAction, if_pos (List.contains_iff_mem.mpr ho)]
  exact hostCommand_fails h (c := (false, stVerify)) (by simp [h1, h2])

/-- Settles O12. -/
theorem readingCommandsComplete : Obligations.ReadingCommandsComplete := by
  refine ⟨fun d s h => ?_, fun d o s hm hd ho => ?_, fun d o s ho h h7 h16 => ?_, fun d s h ht => ?_, fun d s h hl => ?_,
    fun d b n s h hb hn => ?_, fun d t s h ht hl => ?_, fun d a n s h hp => ?_, fun d a n s h h1 h2 h3 => ?_,
    fun d s h hl => ?_, fun d s h ht hl => ?_⟩
  · exact congrArg _ (hostCommand_clean h (by simp))
  · have h0 : o ≠ 0 := by rintro rfl; simp at ho
    rw [exec_nop, execNop, if_neg h0, if_pos ho, unlisted_completes hm hd]
  · have h0 : o ≠ 0 := by rintro rfl; simp at ho
    have h1 : ¬0x1F < o.toNat ∧ o.toNat ≠ 0x1F := by simp at ho; omega
    rw [exec_nop, execNop, if_neg h0, if_neg h1.1]
    exact congrArg _ (badAction_completes (by simp at ho ⊢; omega) (by simpa [h1.2] using h) (fun e => absurd e h1.2) h7 h16)
  · exact congrArg _ (badAction_completes (by simp) h (fun _ => ht) (by simp) (by simp))
  · exact congrArg _ (hostCommand_clean h (by simpa using hl))
  · exact congrArg _ (hostCommand_clean h (by obtain hb | ⟨hb, hs⟩ := hb <;> simp [*]))
  · exact congrArg _ (hostCommand_clean h (by simpa using ⟨ht, hl⟩))
  · exact congrArg _ (hostCommand_clean h (by simpa using hp))
  · exact congrArg _ (hostCommand_clean h (by simp; omega))
  · exact congrArg _ (hostCommand_clean h (by simpa using hl))
  · exact congrArg _ (hostCommand_clean h (by simpa using ⟨ht, hl⟩))

/-- What a reading command can leave (R363, R367): nothing, the WAITING bit, or a completion after at most `n` bytes of output. -/
inductive ReadOut (d : Desc) (n : Nat) (s : State) : State → Prop
  | waits : ReadOut d n s s
  | held : ReadOut d n s (modRing d.ring (fun r => { r with waiting := true }) s)
  | done (op : Nat) (status : Byte) (result : Nat) (b : Bytes) (k : Nat) (h : b.length ≤ n) :
    ReadOut d n s (complete d.ring d.tag status result (output d b { begun d op s with free := s.free + k }))

theorem hostWrite_nil (a : Nat) (s : State) : hostWrite a [] s = s := by
  unfold hostWrite
  split <;> rfl

/-- A completion without output. -/
theorem ReadOut.fails {d : Desc} {n : Nat} {s : State} (op : Nat) (status : Byte) :
    ReadOut d n s (complete d.ring d.tag status 0 (begun d op s)) := by
  have h := ReadOut.done (d := d) (s := s) op status 0 [] 0 (Nat.zero_le n)
  rwa [output, hostWrite_nil] at h

theorem ReadOut.frame {d : Desc} {n : Nat} {s t : State} (h : ReadOut d n s t) :
    t = { s with host := t.host, hostMem := t.hostMem, free := t.free } := by
  cases h with
  | waits => rfl
  | held => rfl
  | done op status result b k h =>
    rw [complete_frame, output_frame]
    rfl

/-- An address outside the output and the completion reads as before. -/
theorem ReadOut.find {d : Desc} {n : Nat} {s t : State} (h : ReadOut d n s t) {a : Nat}
    (hb : a < d.bufAddr.toNat ∨ d.bufAddr.toNat + n ≤ a)
    (hc : a < (ring s d.ring).cplBase.toNat + 16 * (ring s d.ring).cplProd ∨
      (ring s d.ring).cplBase.toNat + 16 * (ring s d.ring).cplProd + 16 ≤ a) :
    Mem.find t.hostMem a = Mem.find s.hostMem a := by
  cases h with
  | waits => rfl
  | held => rfl
  | done op status result b k h =>
    have hr : ∀ x : State, x.host = (begun d op s).host → (ring x d.ring).cplBase = (ring s d.ring).cplBase ∧
        (ring x d.ring).cplProd = (ring s d.ring).cplProd := by
      intro x hx
      simp [ring, hx, begun, startNext, modRing]
    obtain ⟨h1, h2⟩ := hr (output d b { begun d op s with free := s.free + k }) (output_host ..)
    rw [(completionIsWrittenOnceAndFreesItsRing _ _ _ _ _).2.2.2.1 a (by rw [h1, h2]; exact hc)]
    exact hostWrite_out _ _ _ (by omega)

/-- Both together: what a reading command leaves alone. -/
theorem ReadOut.leaves {d : Desc} {n : Nat} {s t : State} (h : ReadOut d n s t) :
    t = { s with host := t.host, hostMem := t.hostMem, free := t.free } ∧
    ∀ a : Nat, (a < d.bufAddr.toNat ∨ d.bufAddr.toNat + n ≤ a) →
      (a < (ring s d.ring).cplBase.toNat + 16 * (ring s d.ring).cplProd ∨
        (ring s d.ring).cplBase.toNat + 16 * (ring s d.ring).cplProd + 16 ≤ a) →
      Mem.find t.hostMem a = Mem.find s.hostMem a :=
  ⟨h.frame, fun _ => h.find⟩

section
variable {d : Desc} (hd : malformed d = false)
include hd

/-- A host command with a sound descriptor is a reading command where its body is. -/
theorem hostCommand_readOut {op n : Nat} {serial : Bool} {checks : State → List (Bool × Byte)} {body : State → State} {s : State}
    (hb : (∀ c ∈ checks (begun d op s), c.1 = true) → ReadOut d n s (body (begun d op s))) :
    ReadOut d n s (hostCommand d op serial checks body s) := by
  by_cases hm : mayStart d.ring s = true
  · by_cases hh : serialHeld serial s = true
    · rw [hostCommand_held hm hh]
      exact .held
    · by_cases hr : ringRight s d.ring op = true
      · rw [hostCommand_starts (by simp [starts, hm, hh, hr]) hd]
        split
        · exact .fails op _
        · next h => exact hb fun c hc => by simpa using List.find?_eq_none.mp h c hc
      · rw [hostCommand_refused hm (by simpa using hh) (by simpa using hr)]
        exact .fails op _
  · rw [hostCommand_waits (by simpa using hm)]
    exact .waits

theorem unlisted_readOut (n : Nat) (s : State) : ReadOut d n s (unlisted d s) := by
  by_cases hm : mayStart d.ring s = true
  · rw [unlisted_completes hm hd]
    exact .fails 0 _
  · rw [unlisted, if_pos (by simpa using hm)]
    exact .waits

theorem badAction_readOut (n op : Nat) (s : State) : ReadOut d n s (badAction d op s) := by
  unfold badAction
  split
  · exact hostCommand_readOut hd fun h => absurd (h (false, stVerify) (by simp)) (by simp)
  · exact .waits

end

/-! ### Lengths of what is read -/

@[simp] theorem zeros_length (n : Nat) : (zeros n).length = n := List.length_replicate

@[simp] theorem padTo_length (n : Nat) (b : Bytes) : (padTo n b).length = n := by
  simp only [padTo, List.length_take, List.length_append, zeros_length]
  omega

theorem patch_length {b x : Bytes} {off : Nat} (h : off + x.length ≤ b.length) : (patch b off x).length = b.length := by
  simp only [patch, List.length_append, List.length_take, List.length_drop]
  omega

/-- A block has its length where its fields lie within it. -/
theorem mkBlock_length {len : Nat} {fs : List (Nat × Nat × Nat)} (h : ∀ f ∈ fs, f.1 + f.2.1 ≤ len) :
    (mkBlock len fs).length = len := by
  unfold mkBlock
  refine List.foldlRecOn (motive := fun b : Bytes => b.length = len) _ _ (zeros_length len) fun b hb f hf => ?_
  rw [patch_length (by rw [leBytes_length, hb]; exact h f hf), hb]

@[simp] theorem clockSample_length (s : State) : (clockSample s).length = 32 := by
  simp [clockSample]

@[simp] theorem queryBytes_length (paired : Bool) (k : TaskSt) : (queryBytes paired k).length = 64 := by
  unfold queryBytes
  extract_lets c
  simp only [List.length_append, leBytes_length, zeros_length]

@[simp] theorem redundancyBytes_length (s : State) : (redundancyBytes s).length = 64 :=
  mkBlock_length (by simp)

@[simp] theorem protPage_length (data : Bytes) (seq : Word) : (protPage data seq).length = 64 := by
  simp [protPage]

@[simp] theorem pageOf_length (m : Mem) (p : Nat) : (pageOf m p).length = 64 := by
  simp [pageOf, Mem.read]

@[simp] theorem pageRead_length (s : State) (p : Nat) : (pageRead s p).length = 64 := by
  unfold pageRead
  split_ifs <;> simp

@[simp] theorem slotBytes_length (s : State) (k : Nat) : (slotBytes s k).length = 32 := by
  simp [slotBytes, Mem.read]

/-- Settles O13: every one of them leaves at most its output and a completion. -/
theorem readingCommandsLeaveTheModuleAlone : Obligations.ReadingCommandsLeaveTheModuleAlone := by
  intro d c s t hd hc he
  obtain ⟨o, rfl⟩ | rfl | ⟨b, rfl⟩ | ⟨b, rfl⟩ | ⟨a, n, rfl⟩ | ⟨a, n, rfl⟩ | rfl | rfl := hc <;> cases he
  · refine ReadOut.leaves (n := max d.bufLen.toNat 0) ?_
    split
    · exact hostCommand_readOut hd fun _ => .fails 0 0
    · split
      · exact unlisted_readOut hd ..
      · exact badAction_readOut hd ..
  · refine (hostCommand_readOut hd fun h => .done 1 0 _ _ 0 (le_max_of_le_left ?_)).leaves
    simpa using h
  · exact (hostCommand_readOut hd fun h => .done 3 0 _ _ 64 (le_max_right ..)).leaves
  · refine (hostCommand_readOut hd fun h => .done 6 0 _ _ 0 (le_max_of_le_left ?_)).leaves
    simp only [List.forall_mem_cons, decide_eq_true_eq] at h
    rw [queryBytes_length]
    exact h.2.1
  · refine (hostCommand_readOut hd fun h => .done 0x11 _ _ _ 0 (le_max_of_le_left ?_)).leaves
    simp
    omega
  · refine (hostCommand_readOut hd fun h => .done 0x14 _ _ _ 0 (le_max_of_le_left ?_)).leaves
    simp
    omega
  · refine (hostCommand_readOut hd fun h => .done 0x15 0 _ _ 0 (le_max_of_le_left ?_)).leaves
    simpa using h
  · refine (hostCommand_readOut hd fun h => .done 0x1F 0 _ _ 0 (le_max_of_le_left ?_)).leaves
    simp only [List.forall_mem_cons, decide_eq_true_eq] at h
    rw [redundancyBytes_length]
    exact h.2.1

end Sys2Proof.Machine
/-! PROOFS. How a bundle issues (Morfold Move Set): the row of each trigger, the triggers of the repeat, branch, transaction and
system units, and what a trigger of an arithmetic unit leaves unchanged (O29, O33). -/

namespace Sys2Proof.Machine

/-! ### A bundle with one trigger -/

/-- The issuer of a stall is the transaction in its slot. -/
theorem slotOf_of_issuer {u : StallId} {p : Fin 4 × Inst} {s : State} (h : issuer s u = some p) : slotOf s u p.1 = some p.2 := by
  unfold issuer at h
  split at h
  case h_2 => cases h
  case h_1 f i hrun =>
    obtain ⟨-, h⟩ := Option.ite_none_right_eq_some.mp h
    cases h
    unfold running at hrun
    split at hrun
    case h_2 => cases hrun
    case h_1 =>
      obtain ⟨j, hj, he⟩ := Option.map_eq_some_iff.mp hrun
      cases he
      exact hj

/-- The transaction whose next bundle issues stands in its slot, its waits not made over yet. -/
theorem slotOf_of_ready {u : StallId} {f : Fin 4} {i : Inst} {b : MoveWord × MoveWord} {cyc : Nat} {s : State}
    (hr : ready s u = some (f, i, b, cyc)) : ∃ j, slotOf s u f = some j ∧ i = covered j := by
  unfold ready at hr
  cases hrun : issuer s u with
  | none => simp [hrun] at hr
  | some p =>
    simp only [hrun, Option.ite_none_left_eq_some, Option.some.injEq, Prod.mk.injEq] at hr
    obtain ⟨-, rfl, rfl, -, -⟩ := hr
    exact ⟨p.2, slotOf_of_issuer hrun, rfl⟩

/-- The row of a trigger issues the stall's next bundle when it carries that trigger. -/
theorem issueTrigger_of_carries {u : StallId} {n : Nat} {f : Fin 4} {i : Inst} {b : MoveWord × MoveWord} {cyc : Nat} {s : State}
    (hr : ready s u = some (f, i, b, cyc)) (hend : isEnd b = false) (hc : carries b n = true) :
    issueTrigger u n s = issueMoves u f i b cyc s := by
  simp [issueTrigger, hr, hend, hc]

/-- The triggers of a bundle act on the armed state, and what they ask for follows. -/
theorem issueMoves_eq {u : StallId} {f : Fin 4} {i : Inst} {b : MoveWord × MoveWord} {cyc : Nat} {s : State} {p : Eff × State}
    (hodd : bundleOdd (stall s u).ctx b (sourceValue u i (stall s u).ctx cyc (srcOf b.1))
      (sourceValue u i (stall s u).ctx cyc (srcOf b.2)) = false)
    (hp : fire u f cyc (stall s u).ctx.aluFlags (dstOf b.2) (sourceValue u i (stall s u).ctx cyc (srcOf b.2))
      (fire u f cyc (stall s u).ctx.aluFlags (dstOf b.1) (sourceValue u i (stall s u).ctx cyc (srcOf b.1))
        (noEff, armed u f i b cyc s)) = p) (he : p.1.odd = false) :
    issueMoves u f i b cyc s = finish u f cyc p.1 p.2 := by
  subst hp
  exact (if_neg (ne_true_of_eq_false hodd)).trans (if_neg (ne_true_of_eq_false he))

/-- A bundle with one trigger asks for what its trigger asks for. -/
theorem issueTrigger_fire {u : StallId} {n : Nat} {f : Fin 4} {i : Inst} {b : MoveWord × MoveWord} {cyc : Nat} {s t : State}
    {e : Eff} (hn : unitOf n ≠ 0) (hr : ready s u = some (f, i, b, cyc)) (ho : onlyTrigger u i b cyc n s = true)
    (hf : fire u f cyc (stall s u).ctx.aluFlags n (movedTo u i b cyc n s) (noEff, armed u f i b cyc s) = (e, t))
    (he : e.odd = false) : issueTrigger u n s = finish u f cyc e t := by
  simp only [onlyTrigger, Bool.and_eq_true, Bool.or_eq_true, Bool.not_eq_true', decide_eq_true_eq] at ho
  obtain ⟨⟨⟨hend, hcarry⟩, hz⟩, hodd⟩ := ho
  have hc : dstOf b.1 = n ∨ dstOf b.2 = n := by
    simp only [carries, Bool.and_eq_true, Bool.or_eq_true, decide_eq_true_eq] at hcarry
    exact hcarry.2
  rw [issueTrigger_of_carries hr hend hcarry]
  exact issueMoves_eq hodd ((fire_only hn hc hz u f i cyc _ s _).trans hf) he

/-- The row of a trigger under which a bundle issues whose only trigger it is. -/
theorem exec_of_fire {c : Instr} {u : StallId} {n : Nat} {f : Fin 4} {i : Inst} {b : MoveWord × MoveWord} {cyc : Nat} {s t : State}
    {e : Eff} (hc : triggerRow c = some (u, n)) (hn : unitOf n ≠ 0) (hr : ready s u = some (f, i, b, cyc))
    (ho : onlyTrigger u i b cyc n s = true)
    (hf : fire u f cyc (stall s u).ctx.aluFlags n (movedTo u i b cyc n s) (noEff, armed u f i b cyc s) = (e, t))
    (he : e.odd = false) : exec c s = .next (finish u f cyc e t) := by
  rw [exec_of_triggerRow hc, issueTrigger_fire hn hr ho hf he]

@[simp] theorem slotOf_setCtx (u : StallId) (g : Ctx → Ctx) (s : State) (f : Fin 4) :
    slotOf (setCtx u g s) u f = slotOf s u f := by
  simp [slotOf, setCtx]

@[simp] theorem slotOf_modInst (u : StallId) (f : Fin 4) (g : Inst → Inst) (s : State) :
    slotOf (modInst u f g s) u f = (slotOf s u f).map g := by
  simp [slotOf, modInst, setSlot]

@[simp] theorem covered_steps (i : Inst) : (covered i).steps = i.steps := by
  unfold covered
  split <;> rfl

/-- The counts of a bundle leave the task, the copy and the rights of its transaction, and count its steps. -/
theorem slotOf_armed {u : StallId} {f : Fin 4} {i : Inst} {b : MoveWord × MoveWord} {cyc : Nat} {s : State}
    (hr : ready s u = some (f, i, b, cyc)) : ∃ j, slotOf (armed u f i b cyc s) u f = some j ∧ j.task = i.task ∧
      j.copyB = i.copyB ∧ j.warden = i.warden ∧ j.steps = i.steps.map (fun n => n - 1) := by
  obtain ⟨j, hj, rfl⟩ := slotOf_of_ready hr
  have hs : slotOf (moved u (covered j) b cyc s) u f = some j := (slotOf_setCtx ..).trans hj
  refine ⟨_, (slotOf_modInst ..).trans (congrArg _ hs), rfl, rfl, rfl, ?_⟩
  rw [covered_steps]

/-- A system function of a transaction that has the right to it acts; without the right its bundle aborts with PROT. -/
theorem sysTrig_of_slot {u : StallId} {f : Fin 4} {i j : Inst} {k : Nat} {g : Inst → State → State} {s : State}
    (hs : slotOf s u f = some j) (hw : j.warden = i.warden) : sysTrig u f k g (noEff, s) =
      if sysRight i k then (noEff, g j s) else ({ noEff with aborts := [(fcProt, 0xFFFF)] }, s) := by
  have hk : sysRight j k = sysRight i k := by rw [sysRight, hw]; rfl
  simp [sysTrig, hs, hk, noEff]

theorem finish_abort (u : StallId) (f : Fin 4) (cyc code detail : Nat) (s : State) :
    finish u f cyc { noEff with aborts := [(code, detail)] } s = selfAbort u f code detail s := rfl

theorem branchIf_eq (u : StallId) (c : Bool) (s : State) : branchIf u c (noEff, s) =
    ({ noEff with taken := if c then some ((stall s u).ctx.brTarget.toNat % 2 ^ 15) else none }, s) := by
  cases c <;> rfl

/-- The row of a system function: with the right to it the function acts, without it the bundle aborts with PROT (R406). -/
theorem exec_of_sysTrig {c : Instr} {u : StallId} {n k : Nat} {f : Fin 4} {i j : Inst} {b : MoveWord × MoveWord} {cyc : Nat}
    {s : State} {g : Inst → State → State} (hc : triggerRow c = some (u, n)) (hn : unitOf n ≠ 0)
    (hr : ready s u = some (f, i, b, cyc)) (ho : onlyTrigger u i b cyc n s = true)
    (hj : slotOf (armed u f i b cyc s) u f = some j) (hw : j.warden = i.warden)
    (hf : fire u f cyc (stall s u).ctx.aluFlags n (movedTo u i b cyc n s) (noEff, armed u f i b cyc s) =
      sysTrig u f k g (noEff, armed u f i b cyc s)) :
    exec c s = if sysRight i k then .next (finish u f cyc noEff (g j (armed u f i b cyc s)))
      else .next (selfAbort u f fcProt 0xFFFF (armed u f i b cyc s)) := by
  rw [sysTrig_of_slot hj hw] at hf
  by_cases hk : sysRight i k = true
  · rw [if_pos hk] at hf ⊢
    exact exec_of_fire hc hn hr ho hf rfl
  · rw [if_neg hk] at hf ⊢
    exact exec_of_fire hc hn hr ho hf rfl

/-! The triggers of the system unit that ask for a right. -/

section
variable (u : StallId) (f : Fin 4) (cyc : Nat) (flags a : Word) (p : Eff × State)

theorem fire_sysEvt : fire u f cyc flags 0x72 a p = sysTrig u f 0 (fun _ s => modInst u f (fun i =>
    if i.events.length < 16 then
      { i with events := i.events ++ [(0x8000 ||| (a.setWidth 15).setWidth 16, (stall s u).ctx.evtd)] }
    else { i with evtDropped := i.evtDropped + 1 }) s) p := by
  simp [fire, unitOf, evtTrig]

theorem fire_sysWdkey : fire u f cyc flags 0x75 a p =
    sysTrig u f 1 (fun i s => if i.copyB then s else sendWdt (.key i.task (a.setWidth 16)) s) p := by
  simp [fire, unitOf]

theorem fire_sysCheckin : fire u f cyc flags 0x76 a p = sysTrig u f 2 (fun i s => sendWdt (.checkin i.task i.copyB) s) p := by
  simp [fire, unitOf]

end

section
variable {u : StallId} {f : Fin 4} {i : Inst} {b : MoveWord × MoveWord} {cyc : Nat} {s : State}
  (hr : ready s u = some (f, i, b, cyc))
include hr

/-- RPT.GO begins its repeat, or skips it with a count of 0 (R244). -/
theorem exec_rptGo_only (h : onlyTrigger u i b cyc 0x5C s = true) :
    let t := armed u f i b cyc s
    exec (.rptGo u) s = if movedTo u i b cyc 0x5C s = 0
      then .next (finish u f cyc { noEff with hadGo := true, skip := some (((stall t u).ctx.rptEnd.toNat + 1) % 2 ^ 15) }
        (setCtx u (fun c => { c with rptState := 0 }) t))
      else .next (finish u f cyc { noEff with hadGo := true }
        (setCtx u (fun c => { c with rptCount := movedTo u i b cyc 0x5C s, rptState := 1 }) t)) := by
  intro t
  have hf : fire u f cyc (stall s u).ctx.aluFlags 0x5C (movedTo u i b cyc 0x5C s) (noEff, t) = if movedTo u i b cyc 0x5C s = 0
      then ({ noEff with hadGo := true, skip := some (((stall t u).ctx.rptEnd.toNat + 1) % 2 ^ 15) },
        setCtx u (fun c => { c with rptState := 0 }) t)
      else ({ noEff with hadGo := true }, setCtx u (fun c => { c with rptCount := movedTo u i b cyc 0x5C s, rptState := 1 }) t) := rfl
  by_cases hx : movedTo u i b cyc 0x5C s = 0
  · rw [if_pos hx] at hf ⊢
    exact exec_of_fire rfl (by decide) hr h hf rfl
  · rw [if_neg hx] at hf ⊢
    exact exec_of_fire rfl (by decide) hr h hf rfl

/-- A branch to BR.TARGET under a condition. -/
theorem exec_branchIf_only {c : Instr} {n : Nat} {q : Bool} {p : Prop} [Decidable p] (hc : triggerRow c = some (u, n))
    (hn : unitOf n ≠ 0) (h : onlyTrigger u i b cyc n s = true)
    (hf : fire u f cyc (stall s u).ctx.aluFlags n (movedTo u i b cyc n s) (noEff, armed u f i b cyc s) =
      branchIf u q (noEff, armed u f i b cyc s)) (hq : q = true ↔ p) :
    exec c s = .next (finish u f cyc { noEff with
      taken := if p then some ((stall (armed u f i b cyc s) u).ctx.brTarget.toNat % 2 ^ 15) else none } (armed u f i b cyc s)) := by
  rw [branchIf_eq] at hf
  simp only [hq] at hf
  exact exec_of_fire hc hn hr h hf rfl

/-- BR.REL is taken relative to the address of its bundle, modulo 2^15 (R205). -/
theorem exec_brRel_only (h : onlyTrigger u i b cyc 0x6F s = true) :
    let t := armed u f i b cyc s
    exec (.brRel u) s = .next (finish u f cyc { noEff with
      taken := some (((stall t u).ctx.pc.toNat + (movedTo u i b cyc 0x6F s).toNat) % 2 ^ 15) } t) := by
  intro t
  have hf : fire u f cyc (stall s u).ctx.aluFlags 0x6F (movedTo u i b cyc 0x6F s) (noEff, t) =
      branchTo (BitVec.ofNat 15 ((stall t u).ctx.pc.toNat + (movedTo u i b cyc 0x6F s).toNat)).toNat (noEff, t) := rfl
  rw [branchTo, BitVec.toNat_ofNat, Nat.mod_mod] at hf
  exact exec_of_fire rfl (by decide) hr h hf rfl

/-- SYS.WAIT names what the next bundle waits for (R259). -/
theorem exec_sysWait_only (h : onlyTrigger u i b cyc 0x74 s = true) :
    exec (.sysWait u) s = .next (finish u f cyc { noEff with waits := waitMask (movedTo u i b cyc 0x74 s) }
      (armed u f i b cyc s)) := by
  have hf : fire u f cyc (stall s u).ctx.aluFlags 0x74 (movedTo u i b cyc 0x74 s) (noEff, armed u f i b cyc s) =
      ({ noEff with waits := 0#4 ||| waitMask (movedTo u i b cyc 0x74 s) }, armed u f i b cyc s) := rfl
  rw [BitVec.zero_or] at hf
  exact exec_of_fire rfl (by decide) hr h hf rfl

/-- SYS.EVT keeps the event (R109, R258). -/
theorem exec_sysEvt_only (h : onlyTrigger u i b cyc 0x72 s = true) :
    let t := armed u f i b cyc s
    exec (.sysEvt u) s = if sysRight i 0 then .next (finish u f cyc noEff (modInst u f (fun j =>
        if j.events.length < 16 then { j with
          events := j.events ++ [(0x8000 ||| ((movedTo u i b cyc 0x72 s).setWidth 15).setWidth 16, (stall t u).ctx.evtd)] }
        else { j with evtDropped := j.evtDropped + 1 }) t))
      else .next (selfAbort u f fcProt 0xFFFF t) := by
  obtain ⟨j, hj, -, -, hw, -⟩ := slotOf_armed hr
  have := exec_of_sysTrig (c := .sysEvt u) rfl (by decide) hr h hj hw (fire_sysEvt ..)
  exact this

/-- SYS.WDKEY of a copy that is not B reaches the watchdog (R258). -/
theorem exec_sysWdkey_only (h : onlyTrigger u i b cyc 0x75 s = true) :
    let t := armed u f i b cyc s
    exec (.sysWdkey u) s = if sysRight i 1 then .next (finish u f cyc noEff
        (if i.copyB then t else sendWdt (.key i.task ((movedTo u i b cyc 0x75 s).setWidth 16)) t))
      else .next (selfAbort u f fcProt 0xFFFF t) := by
  obtain ⟨j, hj, htask, hcopy, hw, -⟩ := slotOf_armed hr
  have := exec_of_sysTrig (c := .sysWdkey u) rfl (by decide) hr h hj hw (fire_sysWdkey ..)
  rwa [hcopy, htask] at this

/-- SYS.CHECKIN reaches the watchdog (R258). -/
theorem exec_sysCheckin_only (h : onlyTrigger u i b cyc 0x76 s = true) :
    let t := armed u f i b cyc s
    exec (.sysCheckin u) s = if sysRight i 2 then .next (finish u f cyc noEff (sendWdt (.checkin i.task i.copyB) t))
      else .next (selfAbort u f fcProt 0xFFFF t) := by
  obtain ⟨j, hj, htask, hcopy, hw, -⟩ := slotOf_armed hr
  have := exec_of_sysTrig (c := .sysCheckin u) rfl (by decide) hr h hj hw (fire_sysCheckin ..)
  rwa [hcopy, htask] at this

end

/-- Settles O29: each row of a trigger is the one operation of its bundle, and a bundle with one trigger does what `fire` says of it. -/
theorem bundlesIssueUnderTheirRows : Obligations.BundlesIssueUnderTheirRows := by
  refine ⟨?_, ?_, ?_, ?_, ?_⟩
  · intro c u n f i b cyc s hmem hr hend hc
    have hrow : triggerRow c = some (u, n) := by
      refine (List.forall_iff_forall_mem (p := fun p : Instr × Nat => triggerRow p.1 = some (u, p.2))).1 ?_ (c, n) hmem
      repeat' constructor
    rw [exec_of_triggerRow hrow, issueTrigger_of_carries hr hend hc]
  · intro u f i b cyc s hr hend
    simp [exec_of_triggerRow (c := .txEnd u) rfl, issueTrigger, hr, hend]
  · intro u f i b cyc s hr hp
    simp [execBundleIssue, hr, hp]
  · intro u f i b cyc s hr hi
    simp [execImmHi, hr, hi]
  · intro u f i b cyc s hr t m flags fin prot one x
    refine ⟨exec_rptGo_only hr, fun h => exec_of_fire rfl (by decide) hr h rfl rfl,
      fun h => exec_of_fire rfl (by decide) hr h rfl rfl, fun h => exec_of_fire rfl (by decide) hr h rfl rfl, fun h => exec_branchIf_only hr rfl (by decide) h rfl bne_iff_ne,
      fun h => exec_branchIf_only hr rfl (by decide) h rfl decide_eq_true_iff,
      fun h => exec_branchIf_only hr rfl (by decide) h rfl Iff.rfl, exec_brRel_only hr,
      fun h => exec_of_fire rfl (by decide) hr h rfl rfl, fun h => exec_of_fire rfl (by decide) hr h rfl rfl,
      exec_sysEvt_only hr, fun h => exec_of_fire rfl (by decide) hr h rfl rfl, exec_sysWait_only hr, exec_sysWdkey_only hr,
      exec_sysCheckin_only hr⟩


/-! ### What a context keeps through a bundle -/

/-- The setting of an address generator with destination code `0x40 + 4 * n + k`. -/
def agSocket (n : Fin 4) (k : Nat) (c : Ctx) : Word :=
  match k with
  | 0 => c.agBase[n]
  | 1 => c.agIdx[n]
  | 2 => c.agMod[n]
  | _ => c.agCfg[n]

/-- The operand or setting of destination code `d` outside the registers and address generators. -/
def unitSocket (d : Nat) (c : Ctx) : Word :=
  match d with
  | 0x20 => c.aluOpb
  | 0x30 => c.macOpb
  | 0x34 => c.macCfg
  | 0x38 => c.chkPoly
  | 0x39 => c.chkCfg
  | 0x50 => c.lsAddr
  | 0x58 => c.rptStart
  | 0x59 => c.rptEnd
  | 0x5A => c.rptCount
  | 0x5B => c.rptState
  | 0x60 => c.imgSel
  | 0x61 => c.imgAddr
  | 0x6A => c.brTarget
  | 0x6E => c.brLink
  | _ => 0

/-- The socket of destination code `d` that holds one word: a register, an operand or a setting (Table 1 of Morfold Move Set). ACC,
SYS.EVTD and CHK.CRC hold more, or less, than the word moved. -/
def socket (d : Nat) (c : Ctx) : Word :=
  if h : d < 32 then c.gp[d]
  else if h : 0x40 ≤ d ∧ d < 0x50 then agSocket ⟨(d - 0x40) / 4, by omega⟩ (d % 4) c
  else unitSocket d c

theorem socket_gp (k : Fin 32) (c : Ctx) : socket k.val c = c.gp[k] := by simp [socket]

theorem socket_agBase (k : Fin 4) (c : Ctx) : socket (0x40 + 4 * k.val) c = c.agBase[k] := by fin_cases k <;> rfl
theorem socket_agIdx (k : Fin 4) (c : Ctx) : socket (0x41 + 4 * k.val) c = c.agIdx[k] := by fin_cases k <;> rfl
theorem socket_agMod (k : Fin 4) (c : Ctx) : socket (0x42 + 4 * k.val) c = c.agMod[k] := by fin_cases k <;> rfl
theorem socket_agCfg (k : Fin 4) (c : Ctx) : socket (0x43 + 4 * k.val) c = c.agCfg[k] := by fin_cases k <;> rfl

section
variable (d : Nat) (a : Word) (c : Ctx)

/-- A move writes no result of a unit, neither IMM nor the address, and ACC, MAC.FLAGS, CHK.CRC and SYS.EVTD through their own
destinations alone. -/
theorem writeSocket_rest : writeSocket d a c = { writeSocket d a c with
    pc := c.pc, imm := c.imm, aluRes := c.aluRes, aluFlags := c.aluFlags, chkPar := c.chkPar, chkRev := c.chkRev
    ldRes := c.ldRes, imgRes := c.imgRes
    acc := if writesAcc d then (writeSocket d a c).acc else c.acc
    macFlags := if d = 0x34 then (writeSocket d a c).macFlags else c.macFlags
    chkCrc := if d = 0x3A then (writeSocket d a c).chkCrc else c.chkCrc
    evtd := if d = 0x77 then (writeSocket d a c).evtd else c.evtd } := by
  unfold writeSocket
  split
  · simp only [ite_self]
  · split
    · dsimp only
      split <;> simp only [ite_self]
    · split
      all_goals try rfl
      all_goals simp only [ite_self]

/-- Two contexts agree on a socket when they do on the registers, on its address generator or on its operand. -/
theorem socket_congr {e : Nat} {c c' : Ctx} (hgp : c'.gp = c.gp)
    (hag : ∀ (n : Fin 4) (k : Nat), k < 4 → e = 0x40 + 4 * n.val + k → agSocket n k c' = agSocket n k c)
    (hu : unitSocket e c' = unitSocket e c) : socket e c' = socket e c := by
  unfold socket
  split
  · rw [hgp]
  · split
    · exact hag _ _ (Nat.mod_lt _ (by decide)) (by dsimp only; omega)
    · exact hu

/-- A move to one socket leaves the others. -/
theorem socket_writeSocket_ne {e : Nat} (h : e ≠ d) : socket e (writeSocket d a c) = socket e c := by
  unfold writeSocket
  split
  case isTrue hd =>
    unfold socket
    split
    · exact Vector.getElem_set_ne hd _ (Ne.symm h)
    · rfl
  case isFalse =>
    split
    case isTrue hd =>
      have hne (n : Fin 4) (k : Nat) (hk : e = 0x40 + 4 * n.val + k) (he : d % 4 = k) : (d - 0x40) / 4 ≠ n.val := by omega
      dsimp only
      split <;> refine socket_congr rfl (fun n k hk he => ?_) rfl <;> unfold agSocket <;> split
      all_goals try rfl
      · exact Vector.getElem_set_ne (by omega) _ (hne n _ he ‹_›)
      · exact Vector.getElem_set_ne (by omega) _ (hne n _ he ‹_›)
      · exact Vector.getElem_set_ne (by omega) _ (hne n _ he ‹_›)
      next h0 h1 h2 _ k0 k1 k2 =>
        simp only [imp_false] at h0 h1 h2 k0 k1 k2
        exact Vector.getElem_set_ne (by omega) _ (hne n _ he (by omega))
    case isFalse =>
      split <;> refine socket_congr rfl (fun _ _ _ _ => rfl) ?_ <;> unfold unitSocket <;> split
      all_goals try rfl
      all_goals exact absurd rfl h

theorem writeSocket_acc (h : writesAcc d = false) : (writeSocket d a c).acc = c.acc := by
  rw [writeSocket_rest, if_neg (ne_true_of_eq_false h)]

theorem writeSocket_macFlags (h : d ≠ 0x34) : (writeSocket d a c).macFlags = c.macFlags := by rw [writeSocket_rest, if_neg h]

theorem writeSocket_chkCrc (h : d ≠ 0x3A) : (writeSocket d a c).chkCrc = c.chkCrc := by rw [writeSocket_rest, if_neg h]

theorem writeSocket_evtd (h : d ≠ 0x77) : (writeSocket d a c).evtd = c.evtd := by rw [writeSocket_rest, if_neg h]

theorem socket_satFlag (e : Nat) : socket e (satFlag c) = socket e c := by
  unfold satFlag
  split <;> rfl

end

section
variable (b : MoveWord × MoveWord) (a0 a1 : Word) (c : Ctx)

/-- The two moves of a bundle with different sockets as one after the other. -/
def writeTwo : Ctx :=
  if dstOf b.2 = 0x34 then writeSocket (dstOf b.1) a0 (writeSocket (dstOf b.2) a1 c)
  else writeSocket (dstOf b.2) a1 (writeSocket (dstOf b.1) a0 c)

/-- What every single move keeps, two keep. -/
theorem writeTwo_keeps {α : Type} {p : Ctx → α} (h0 : ∀ a c, p (writeSocket (dstOf b.1) a c) = p c)
    (h1 : ∀ a c, p (writeSocket (dstOf b.2) a c) = p c) : p (writeTwo b a0 a1 c) = p c := by
  unfold writeTwo
  split
  · rw [h0, h1]
  · rw [h1, h0]

/-- The moves with the flag of ACC's range (R224), before CHK.CRC is cut to its width. -/
def writeAcc : Ctx :=
  if writesAcc (dstOf b.1) || writesAcc (dstOf b.2) then satFlag (writeTwo b a0 a1 c) else writeTwo b a0 a1 c

theorem writeBoth_eq : writeBoth b a0 a1 c =
    { writeAcc b a0 a1 c with chkCrc := lowBits (crcWidth (writeAcc b a0 a1 c).chkCfg) (writeAcc b a0 a1 c).chkCrc } := rfl

theorem writeAcc_keeps {α : Type} {p : Ctx → α} (h0 : ∀ a c, p (writeSocket (dstOf b.1) a c) = p c)
    (h1 : ∀ a c, p (writeSocket (dstOf b.2) a c) = p c) (hs : ∀ c, p (satFlag c) = p c) : p (writeAcc b a0 a1 c) = p c := by
  rw [← writeTwo_keeps b a0 a1 c h0 h1, writeAcc]
  split
  · exact hs _
  · rfl

/-- What neither move is made to, nor the flag of ACC's range, nor the bits of CHK.CRC beyond its width, stays. -/
theorem writeBoth_keeps {α : Type} {p : Ctx → α} (h0 : ∀ a c, p (writeSocket (dstOf b.1) a c) = p c)
    (h1 : ∀ a c, p (writeSocket (dstOf b.2) a c) = p c) (hs : ∀ c, p (satFlag c) = p c)
    (hc : ∀ (c : Ctx) (x : Word), p { c with chkCrc := x } = p c) : p (writeBoth b a0 a1 c) = p c := by
  rw [writeBoth_eq, hc, writeAcc_keeps b a0 a1 c h0 h1 hs]

/-- MAC.FLAGS stays where no move is made to ACC or to MAC.CFG. -/
theorem writeBoth_macFlags (h0 : writesAcc (dstOf b.1) = false) (h1 : writesAcc (dstOf b.2) = false) (hn : dstOf b.1 ≠ 0x34)
    (hn' : dstOf b.2 ≠ 0x34) : (writeBoth b a0 a1 c).macFlags = c.macFlags := by
  have hacc : writeAcc b a0 a1 c = writeTwo b a0 a1 c := if_neg (by rw [h0, h1]; decide)
  rw [writeBoth_eq, hacc]
  exact writeTwo_keeps b a0 a1 c (fun a c => writeSocket_macFlags _ a c hn) (fun a c => writeSocket_macFlags _ a c hn')

/-- CHK.CRC is cut to CRC_W where no move is made to it or to CHK.CFG. -/
theorem writeBoth_chkCrc (hg : dstOf b.1 ≠ 0x39 ∧ dstOf b.2 ≠ 0x39) (hk : dstOf b.1 ≠ 0x3A ∧ dstOf b.2 ≠ 0x3A) :
    (writeBoth b a0 a1 c).chkCrc = lowBits (crcWidth c.chkCfg) c.chkCrc := by
  have hcfg : (writeAcc b a0 a1 c).chkCfg = c.chkCfg := writeAcc_keeps b a0 a1 c (p := socket 0x39)
    (fun a c => socket_writeSocket_ne _ a c hg.1.symm) (fun a c => socket_writeSocket_ne _ a c hg.2.symm)
    (fun c => socket_satFlag c 0x39)
  have hcrc : (writeAcc b a0 a1 c).chkCrc = c.chkCrc := writeAcc_keeps b a0 a1 c (p := Ctx.chkCrc)
    (fun a c => writeSocket_chkCrc _ a c hk.1) (fun a c => writeSocket_chkCrc _ a c hk.2) (fun c => by unfold satFlag; split <;> rfl)
  rw [writeBoth_eq]
  dsimp only
  rw [hcfg, hcrc]

end

/-- What the moves of a bundle and the steps of its sources keep. -/
theorem moved_keeps {α : Type} {p : Ctx → α} (u : StallId) (i : Inst) (b : MoveWord × MoveWord) (cyc : Nat) (s : State)
    (h0 : ∀ a c, p (writeSocket (dstOf b.1) a c) = p c) (h1 : ∀ a c, p (writeSocket (dstOf b.2) a c) = p c)
    (hs : ∀ c, p (satFlag c) = p c) (hc : ∀ (c : Ctx) (x : Word), p { c with chkCrc := x } = p c)
    (ha : p (advanceAg b (stall s u).ctx) = p (stall s u).ctx) : p (stall (moved u i b cyc s) u).ctx = p (stall s u).ctx := by
  rw [moved, ctx_setCtx, writeBoth_keeps b _ _ _ h0 h1 hs hc, ha]

/-- The sources of a bundle step the indices of address generators alone, and none that is not a source. -/
theorem advanceAg_keeps {α : Type} {p : Ctx → α} (b : MoveWord × MoveWord) (c : Ctx)
    (h : ∀ (n : Fin 4) (c : Ctx) (x : Word), srcOf b.1 = 0x29 + 2 * n.val ∨ srcOf b.2 = 0x29 + 2 * n.val →
      p { c with agIdx := c.agIdx.set n x n.isLt } = p c) : p (advanceAg b c) = p c := by
  unfold advanceAg
  refine List.foldlRecOn (motive := fun x : Ctx => p x = p c) _ _ rfl fun x hx n _ => ?_
  dsimp only
  split
  case isTrue hn =>
    simp only [Bool.and_eq_true, Bool.or_eq_true, decide_eq_true_eq] at hn
    exact (h n x _ hn.1).trans hx
  case isFalse => exact hx

/-- A socket that is no index of an address generator does not step. -/
theorem socket_setAgIdx {d : Nat} {n : Fin 4} (h : d ≠ 0x41 + 4 * n.val) (c : Ctx) (x : Word) :
    socket d { c with agIdx := c.agIdx.set n x n.isLt } = socket d c := by
  refine socket_congr rfl (fun m k hk he => ?_) rfl
  unfold agSocket
  split
  all_goals try rfl
  exact Vector.getElem_set_ne n.isLt _ (by omega)

/-- A socket that neither move is made to and no source steps keeps its word through the moves. -/
theorem socket_moved {d : Nat} (u : StallId) (i : Inst) {b : MoveWord × MoveWord} (cyc : Nat) (s : State)
    (h0 : dstOf b.1 ≠ d) (h1 : dstOf b.2 ≠ d)
    (ha : ∀ n : Fin 4, d = 0x41 + 4 * n.val → srcOf b.1 ≠ 0x29 + 2 * n.val ∧ srcOf b.2 ≠ 0x29 + 2 * n.val) :
    socket d (stall (moved u i b cyc s) u).ctx = socket d (stall s u).ctx := by
  refine moved_keeps u i b cyc s (fun a c => socket_writeSocket_ne _ a c h0.symm) (fun a c => socket_writeSocket_ne _ a c h1.symm)
    (fun c => socket_satFlag c d) (fun c x => rfl) (advanceAg_keeps b _ fun n c x hn => socket_setAgIdx (fun hd => ?_) c x)
  exact hn.elim (ha n hd).1 (ha n hd).2

theorem socket_moved_of_ne {d : Nat} (u : StallId) (i : Inst) {b : MoveWord × MoveWord} (cyc : Nat) (s : State)
    (h0 : dstOf b.1 ≠ d) (h1 : dstOf b.2 ≠ d) (hag : ∀ n : Fin 4, d ≠ 0x41 + 4 * n.val) :
    socket d (stall (moved u i b cyc s) u).ctx = socket d (stall s u).ctx :=
  socket_moved u i cyc s h0 h1 fun n hn => absurd hn (hag n)

/-- The parts of a context that no move writes. -/
def results (c : Ctx) : BitVec 15 × Word × Word × Word × Word × Word × Word × Word :=
  (c.pc, c.imm, c.aluRes, c.aluFlags, c.chkPar, c.chkRev, c.ldRes, c.imgRes)

theorem results_writeSocket (d : Nat) (a : Word) (c : Ctx) : results (writeSocket d a c) = results c := by
  rw [writeSocket_rest]
  rfl

theorem results_satFlag (c : Ctx) : results (satFlag c) = results c := by
  unfold satFlag
  split <;> rfl

/-- The moves of a bundle write no result of a unit, neither IMM nor the address. -/
theorem results_moved (u : StallId) (i : Inst) (b : MoveWord × MoveWord) (cyc : Nat) (s : State) :
    results (stall (moved u i b cyc s) u).ctx = results (stall s u).ctx :=
  moved_keeps u i b cyc s (fun a c => results_writeSocket _ a c) (fun a c => results_writeSocket _ a c) results_satFlag
    (fun _ _ => rfl) (advanceAg_keeps b _ fun _ _ _ _ => rfl)

section
variable (u : StallId) (i : Inst) {b : MoveWord × MoveWord} (cyc : Nat) (s : State)

theorem acc_moved (h0 : writesAcc (dstOf b.1) = false) (h1 : writesAcc (dstOf b.2) = false) :
    (stall (moved u i b cyc s) u).ctx.acc = (stall s u).ctx.acc :=
  moved_keeps u i b cyc s (p := Ctx.acc) (fun a c => writeSocket_acc _ a c h0) (fun a c => writeSocket_acc _ a c h1) satFlag_acc
    (fun _ _ => rfl) (advanceAg_keeps b _ fun _ _ _ _ => rfl)

theorem macFlags_moved (h0 : writesAcc (dstOf b.1) = false) (h1 : writesAcc (dstOf b.2) = false) (hn : dstOf b.1 ≠ 0x34)
    (hn' : dstOf b.2 ≠ 0x34) : (stall (moved u i b cyc s) u).ctx.macFlags = (stall s u).ctx.macFlags := by
  rw [moved, ctx_setCtx, writeBoth_macFlags b _ _ _ h0 h1 hn hn']
  exact advanceAg_keeps (p := Ctx.macFlags) b _ fun _ _ _ _ => rfl

theorem chkCrc_moved (hg : dstOf b.1 ≠ 0x39 ∧ dstOf b.2 ≠ 0x39) (hk : dstOf b.1 ≠ 0x3A ∧ dstOf b.2 ≠ 0x3A) :
    (stall (moved u i b cyc s) u).ctx.chkCrc = lowBits (crcWidth (stall s u).ctx.chkCfg) (stall s u).ctx.chkCrc := by
  rw [moved, ctx_setCtx, writeBoth_chkCrc b _ _ _ hg hk]
  exact advanceAg_keeps (p := fun c => lowBits (crcWidth c.chkCfg) c.chkCrc) b _ fun _ _ _ _ => rfl

theorem evtd_moved (h0 : dstOf b.1 ≠ 0x77) (h1 : dstOf b.2 ≠ 0x77) :
    (stall (moved u i b cyc s) u).ctx.evtd = (stall s u).ctx.evtd :=
  moved_keeps u i b cyc s (p := Ctx.evtd) (fun a c => writeSocket_evtd _ a c h0) (fun a c => writeSocket_evtd _ a c h1)
    (fun c => by unfold satFlag; split <;> rfl) (fun _ _ => rfl) (advanceAg_keeps b _ fun _ _ _ _ => rfl)

end

/-! ### The context after an arithmetic trigger -/

/-- The context after a trigger of the ALU, the multiply-accumulate unit or the check unit. -/
def arithStep (n : Nat) (a : Word) (c : Ctx) : Ctx :=
  if n ≤ 0x2F then aluStep n a c else if n ≤ 0x33 then macStep n a c else checkStep n a c

/-- The codes of a row's trigger. -/
theorem unitOf_of_triggerRow {c : Instr} {u : StallId} {n : Nat} (h : triggerRow c = some (u, n)) : unitOf n ≠ 0 := by
  cases c <;> simp only [triggerRow, Option.some.injEq, Prod.mk.injEq, reduceCtorEq] at h <;>
    obtain ⟨-, rfl⟩ := h <;> decide

/-- The triggers of the three arithmetic units. -/
theorem arith_codes {n : Nat} (h1 : 0x21 ≤ n) (h2 : n ≤ 0x3D) (hu : unitOf n ≠ 0) :
    n ≤ 0x2F ∨ (0x31 ≤ n ∧ n ≤ 0x33) ∨ 0x3B ≤ n := by
  by_contra h
  refine hu ?_
  unfold unitOf
  simp only [not_or, not_and] at h
  obtain ⟨ha, hm, hc⟩ := h
  rw [if_neg (by omega), if_neg (by omega), if_neg (by omega), if_neg (by omega), if_neg (by omega), if_neg (by omega),
    if_neg (by omega), if_neg (by omega), if_neg (by omega)]

theorem fire_arith (u : StallId) (f : Fin 4) (cyc : Nat) (flags a : Word) (e : Eff) (s : State) {n : Nat} (h1 : 0x21 ≤ n)
    (h2 : n ≤ 0x3D) (hu : unitOf n ≠ 0) : fire u f cyc flags n a (e, s) = (e, setCtx u (arithStep n a) s) := by
  unfold arithStep
  rcases arith_codes h1 h2 hu with h | h | h
  · simp only [if_pos h]
    exact fire_alu u f cyc flags a e s (unitOf_alu h1 h)
  · simp only [if_neg (show ¬ n ≤ 0x2F by omega), if_pos h.2]
    exact fire_mac u f cyc flags a e s (unitOf_mac h.1 h.2)
  · simp only [if_neg (show ¬ n ≤ 0x2F by omega), if_neg (show ¬ n ≤ 0x33 by omega)]
    exact fire_check u f cyc flags a e s h h2

section
variable (n : Nat) (a : Word) (c : Ctx)

/-- An arithmetic trigger writes results, flags and ACC of its unit alone. -/
theorem arithStep_frame : arithStep n a c = { c with
    aluRes := (arithStep n a c).aluRes, aluFlags := (arithStep n a c).aluFlags, acc := (arithStep n a c).acc
    macFlags := (arithStep n a c).macFlags, chkCrc := (arithStep n a c).chkCrc, chkPar := (arithStep n a c).chkPar
    chkRev := (arithStep n a c).chkRev } := by
  unfold arithStep
  split
  · rfl
  · split
    · unfold macStep satFlag
      dsimp only
      split <;> rfl
    · unfold checkStep
      split
      · rfl
      · split <;> rfl

theorem socket_arithStep (d : Nat) : socket d (arithStep n a c) = socket d c := by
  rw [arithStep_frame]
  rfl

/-- The ALU's results change through the ALU alone. -/
theorem arithStep_alu (h : 0x31 ≤ n) : (arithStep n a c).aluRes = c.aluRes ∧ (arithStep n a c).aluFlags = c.aluFlags := by
  unfold arithStep
  rw [if_neg (by omega)]
  split
  · unfold macStep satFlag
    dsimp only
    split <;> exact ⟨rfl, rfl⟩
  · unfold checkStep
    split
    · exact ⟨rfl, rfl⟩
    · split <;> exact ⟨rfl, rfl⟩

/-- ACC and MAC.FLAGS change through the multiply-accumulate unit alone. -/
theorem arithStep_mac (h : n ≤ 0x2F ∨ 0x3B ≤ n) : (arithStep n a c).acc = c.acc ∧ (arithStep n a c).macFlags = c.macFlags := by
  unfold arithStep
  split
  · exact ⟨rfl, rfl⟩
  · rw [if_neg (by omega)]
    unfold checkStep
    split
    · exact ⟨rfl, rfl⟩
    · split <;> exact ⟨rfl, rfl⟩

/-- Each result of the check unit changes through its own trigger alone. -/
theorem arithStep_chk (h2 : n ≤ 0x3D) (hu : n ≤ 0x2F ∨ (0x31 ≤ n ∧ n ≤ 0x33) ∨ 0x3B ≤ n) : (n ≠ 0x3B → (arithStep n a c).chkCrc = c.chkCrc) ∧
    (n ≠ 0x3C → (arithStep n a c).chkPar = c.chkPar) ∧ (n ≠ 0x3D → (arithStep n a c).chkRev = c.chkRev) := by
  unfold arithStep
  split
  · exact ⟨fun _ => rfl, fun _ => rfl, fun _ => rfl⟩
  · split
    · unfold macStep satFlag
      dsimp only
      split <;> exact ⟨fun _ => rfl, fun _ => rfl, fun _ => rfl⟩
    · unfold checkStep
      split
      case isTrue h => exact ⟨fun hn => absurd h hn, fun _ => rfl, fun _ => rfl⟩
      case isFalse =>
        split
        case isTrue h => exact ⟨fun _ => rfl, fun hn => absurd h hn, fun _ => rfl⟩
        case isFalse => exact ⟨fun _ => rfl, fun _ => rfl, fun hn => absurd hn (by omega)⟩
end

/-- The next address of a bundle that starts no repeat: the repeat stays unless its last bundle has issued. -/
theorem nextAddress_repeat {c : Ctx} (h : c.rptState.getLsbD 0 = false ∨ c.pc.toNat ≠ c.rptEnd.toNat) :
    nextAddress noEff c = { c with pc := (nextAddress noEff c).pc } := by
  have hn : (noEff.hadGo || !c.rptState.getLsbD 0 || c.pc.toNat != c.rptEnd.toNat) = true := by
    rw [Bool.or_eq_true, Bool.or_eq_true, Bool.not_eq_true', bne_iff_ne]
    exact h.elim (fun h => Or.inl (Or.inr h)) Or.inr
  unfold nextAddress
  simp only [hn, if_true]

theorem socket_nextAddress {d : Nat} (h1 : d ≠ 0x5A) (h2 : d ≠ 0x5B) (e : Eff) (c : Ctx) :
    socket d (nextAddress e c) = socket d c := by
  rw [nextAddress_frame]
  refine socket_congr rfl (fun _ _ _ _ => rfl) ?_
  unfold unitSocket
  split
  all_goals try rfl
  · exact absurd rfl h1
  · exact absurd rfl h2

/-! ### What a step of one stall leaves of the state -/

/-- What an arithmetic trigger of stall `u` may change: its own stall, and at the end of a STEP the tasks, the host interface and
the count of free values besides. -/
structure StallFrame (u : StallId) (s t : State) : Prop where
  /-- the other parts of the module stay -/
  rest : t = { s with stalls := t.stalls, tasks := t.tasks, host := t.host, hostMem := t.hostMem, free := t.free }
  /-- the other stalls stay -/
  others : ∀ v : StallId, v ≠ u → stall t v = stall s v

theorem StallFrame.refl (u : StallId) (s : State) : StallFrame u s s := ⟨rfl, fun _ _ => rfl⟩

theorem StallFrame.trans {u : StallId} {s t r : State} (h : StallFrame u s t) (g : StallFrame u t r) : StallFrame u s r := by
  refine ⟨g.rest.trans ?_, fun v hv => (g.others v hv).trans (h.others v hv)⟩
  rw [h.rest]

theorem stallFrame_modStall (u : StallId) (g : Stall → Stall) (s : State) : StallFrame u s (modStall u g s) :=
  ⟨rfl, fun _ hv => stall_modStall_ne g s hv⟩

theorem stallFrame_modInst (u : StallId) (f : Fin 4) (g : Inst → Inst) (s : State) : StallFrame u s (modInst u f g s) := by
  unfold modInst setSlot
  exact stallFrame_modStall u _ s

theorem stallFrame_setCtx (u : StallId) (g : Ctx → Ctx) (s : State) : StallFrame u s (setCtx u g s) := stallFrame_modStall u _ s

theorem stallFrame_endStep (u : StallId) (t : BitVec 7) (issued : Nat) (s : State) : StallFrame u s (endStep t issued s) := by
  refine List.foldlRecOn (motive := fun x => StallFrame u s x) _ _ (StallFrame.refl u s) fun x hx k _ => hx.trans ⟨?_, fun v _ => ?_⟩
  · rw [completeWait_frame]
  · exact stall_congr (completeWait_stalls ..) v

theorem stallFrame_settleStep (u : StallId) (t : BitVec 7) (issued : Nat) (s : State) : StallFrame u s (settleStep t issued s) := by
  have hm (g : TaskSt → TaskSt) : StallFrame u s (modTask t g s) := ⟨rfl, fun _ _ => rfl⟩
  unfold settleStep
  split
  · exact StallFrame.refl u s
  · dsimp only
    split
    · refine StallFrame.trans ?_ (stallFrame_endStep u t _ _)
      split
      · exact hm _
      · exact StallFrame.refl u s
    · exact StallFrame.refl u s

theorem stallFrame_toFrame (u : StallId) (f : Fin 4) (ph : Phase) (s : State) : StallFrame u s (toFrame u f ph s) := by
  unfold toFrame
  split
  · refine StallFrame.trans ?_ (stallFrame_modInst u f _ _)
    refine StallFrame.trans ?_ (stallFrame_modStall u _ _)
    exact ⟨rfl, fun _ _ => rfl⟩
  · exact StallFrame.refl u s

theorem stallFrame_holdAgain (u : StallId) (f : Fin 4) (s : State) : StallFrame u s (holdAgain u f s) := by
  unfold holdAgain
  split
  · split
    · refine StallFrame.trans ?_ (stallFrame_settleStep u _ _ _)
      refine StallFrame.trans ?_ ⟨rfl, fun _ _ => rfl⟩
      exact (stallFrame_toFrame u f .held s).trans (stallFrame_modInst u f _ _)
    · exact StallFrame.refl u s
  · exact StallFrame.refl u s

/-- An transaction with steps left, or outside a STEP, is not held again. -/
theorem holdAgain_of_steps {u : StallId} {f : Fin 4} {j : Inst} {s : State} (h : slotOf s u f = some j) (hn : j.steps ≠ some 0) :
    holdAgain u f s = s := by
  simp [holdAgain, h, hn]

/-- A bundle that asks for nothing goes on at its next address. -/
theorem finish_noEff (u : StallId) (f : Fin 4) (cyc : Nat) (s : State) : finish u f cyc noEff s =
    holdAgain u f (modInst u f (fun i => { i with waits := 0, cycle := cyc + 1 }) (setCtx u (nextAddress noEff) s)) := rfl

/-- Changes of stalls alone, one after the other. -/
theorem rest_trans {s t r : State} (h : t = { s with stalls := t.stalls }) (g : r = { t with stalls := r.stalls }) :
    r = { s with stalls := r.stalls } := by
  rw [g, h]

theorem rest_modInst (u : StallId) (f : Fin 4) (g : Inst → Inst) (s : State) :
    modInst u f g s = { s with stalls := (modInst u f g s).stalls } := rfl

theorem rest_setCtx (u : StallId) (g : Ctx → Ctx) (s : State) : setCtx u g s = { s with stalls := (setCtx u g s).stalls } := rfl

/-- The state after an arithmetic trigger, before its transaction may be held again. -/
def arithDone (u : StallId) (f : Fin 4) (i : Inst) (b : MoveWord × MoveWord) (cyc n : Nat) (s : State) : State :=
  modInst u f (fun i => { i with waits := 0, cycle := cyc + 1 })
    (setCtx u (nextAddress noEff) (setCtx u (arithStep n (movedTo u i b cyc n s)) (armed u f i b cyc s)))

section
variable {u : StallId} {f : Fin 4} {i : Inst} {b : MoveWord × MoveWord} {cyc n : Nat} {s : State}

theorem exec_arith {c : Instr} (hc : triggerRow c = some (u, n)) (h1 : 0x21 ≤ n) (h2 : n ≤ 0x3D)
    (hr : ready s u = some (f, i, b, cyc)) (ho : onlyTrigger u i b cyc n s = true) :
    exec c s = .next (holdAgain u f (arithDone u f i b cyc n s)) := by
  have hu := unitOf_of_triggerRow hc
  have h := exec_of_fire hc hu hr ho (fire_arith u f cyc _ _ noEff _ h1 h2 hu) rfl
  rw [finish_noEff] at h
  exact h

/-- Before the transaction may be held again, its stall alone has changed. -/
theorem arithDone_rest : arithDone u f i b cyc n s = { s with stalls := (arithDone u f i b cyc n s).stalls } := by
  unfold arithDone armed moved
  refine rest_trans ?_ (rest_modInst u f _ _)
  refine rest_trans ?_ (rest_setCtx u _ _)
  refine rest_trans ?_ (rest_setCtx u _ _)
  refine rest_trans ?_ (rest_modInst u f _ _)
  exact rest_setCtx u _ s

theorem arithDone_others {v : StallId} (hv : v ≠ u) : stall (arithDone u f i b cyc n s) v = stall s v := by
  simp [arithDone, armed, moved, modInst, setCtx, setSlot, stall_modStall_ne _ _ hv]

theorem stallFrame_arithDone : StallFrame u s (arithDone u f i b cyc n s) := by
  refine ⟨?_, fun v hv => arithDone_others hv⟩
  rw [arithDone_rest]

/-- The stall's memory stays until the transaction is held again. -/
theorem mem_arithDone : (stall (arithDone u f i b cyc n s) u).mem = (stall s u).mem := by
  simp [arithDone, armed, moved, modInst, setCtx, setSlot]

theorem ctx_arithDone : (stall (arithDone u f i b cyc n s) u).ctx =
    nextAddress noEff (arithStep n (movedTo u i b cyc n s) (stall (moved u i b cyc s) u).ctx) := by
  simp [arithDone]

/-- The steps left of the transaction count the bundle. -/
theorem slotOf_arithDone (hr : ready s u = some (f, i, b, cyc)) :
    ∃ j, slotOf (arithDone u f i b cyc n s) u f = some j ∧ j.steps = i.steps.map (fun n => n - 1) := by
  obtain ⟨j, hj, -, -, -, hsteps⟩ := slotOf_armed hr
  have hs : slotOf (setCtx u (nextAddress noEff) (setCtx u (arithStep n (movedTo u i b cyc n s)) (armed u f i b cyc s))) u f =
      some j := by rw [slotOf_setCtx, slotOf_setCtx, hj]
  exact ⟨_, (slotOf_modInst ..).trans (congrArg _ hs), hsteps⟩

end

/-- Settles O33: the moves keep what neither is made to, the trigger keeps what is not of its unit, and the next address keeps all but
the repeat. -/
theorem arithmeticTriggersLeaveTheRest : Obligations.ArithmeticTriggersLeaveTheRest := by
  intro c u n f i b cyc s t hc h1 h2 hr ho ht o m kept
  rw [exec_arith hc h1 h2 hr ho] at ht
  cases ht
  have hframe : StallFrame u s (holdAgain u f (arithDone u f i b cyc n s)) :=
    stallFrame_arithDone.trans (stallFrame_holdAgain u f _)
  let x := movedTo u i b cyc n s
  let w := (stall (moved u i b cyc s) u).ctx
  have hm : m = nextAddress noEff (arithStep n x w) := (ctx_holdAgain ..).trans ctx_arithDone
  have hres : results w = results o := results_moved u i b cyc s
  simp only [results, Prod.mk.injEq] at hres
  obtain ⟨hpc, himm, halu, hflags, hpar, hrev, hld, himg⟩ := hres
  obtain ⟨hcrc, hcpar, hcrev⟩ := arithStep_chk n x w h2 (arith_codes h1 h2 (unitOf_of_triggerRow hc))
  have hsteps : (∀ k : Nat, i.steps = some k → 2 ≤ k) →
      holdAgain u f (arithDone u f i b cyc n s) = arithDone u f i b cyc n s := by
    intro h
    obtain ⟨j, hj, he⟩ := slotOf_arithDone (n := n) hr
    refine holdAgain_of_steps hj fun h0 => ?_
    rw [he] at h0
    obtain ⟨k, hk, hk0⟩ := Option.map_eq_some_iff.mp h0
    have := h k hk
    omega
  have hword (d : Nat) (hd : d ≠ 0x5A) (hd' : d ≠ 0x5B) (hag : ∀ n : Fin 4, d ≠ 0x41 + 4 * n.val) (hk : kept d) :
      socket d m = socket d o := by
    rw [hm, socket_nextAddress hd hd', socket_arithStep]
    exact socket_moved_of_ne u i cyc s hk.1 hk.2 hag
  refine ⟨hframe.rest, fun h => ?_, hframe.others, fun k hk => ?_, ?_, hword 0x20 (by decide) (by decide) (by decide), ?_,
    hword 0x30 (by decide) (by decide) (by decide), hword 0x34 (by decide) (by decide) (by decide), ?_,
    hword 0x38 (by decide) (by decide) (by decide), hword 0x39 (by decide) (by decide) (by decide), ?_, ?_, ?_, fun k => ?_,
    hword 0x50 (by decide) (by decide) (by decide), ?_, hword 0x58 (by decide) (by decide) (by decide),
    hword 0x59 (by decide) (by decide) (by decide), ?_, hword 0x60 (by decide) (by decide) (by decide),
    hword 0x61 (by decide) (by decide) (by decide), ?_, hword 0x6A (by decide) (by decide) (by decide),
    hword 0x6E (by decide) (by decide) (by decide), ?_⟩
  · rw [hsteps h]
    exact ⟨arithDone_rest, mem_arithDone⟩
  · have := hword k.val (by omega) (by omega) (by omega) hk
    rwa [socket_gp, socket_gp] at this
  · rw [hm, nextAddress_frame, arithStep_frame]
    exact himm
  · intro h
    obtain ⟨hr, hf⟩ := arithStep_alu n x w h
    rw [hm, nextAddress_aluRes, nextAddress_aluFlags, hr, hf]
    exact ⟨halu, hflags⟩
  · intro h hk0 hk1 hk2
    obtain ⟨ha, hf⟩ := arithStep_mac n x w h
    have hacc0 : writesAcc (dstOf b.1) = false := by simp [writesAcc, hk0.1, hk1.1, hk2.1]
    have hacc1 : writesAcc (dstOf b.2) = false := by simp [writesAcc, hk0.2, hk1.2, hk2.2]
    rw [hm, nextAddress_acc, ha]
    refine ⟨acc_moved u i cyc s hacc0 hacc1, fun hk => ?_⟩
    rw [nextAddress_frame]
    exact hf.trans (macFlags_moved u i cyc s hacc0 hacc1 hk.1 hk.2)
  · intro h hg hk
    rw [hm, nextAddress_chkCrc, hcrc h]
    exact chkCrc_moved u i cyc s hg hk
  · intro h
    rw [hm, nextAddress_chkPar, hcpar h]
    exact hpar
  · intro h
    rw [hm, nextAddress_chkRev, hcrev h]
    exact hrev
  · refine ⟨fun h => ?_, fun h h0 h1 => ?_, fun h => ?_, fun h => ?_⟩
    · have := hword _ (by omega) (by omega) (by omega) h
      rwa [socket_agBase, socket_agBase] at this
    · have : socket (0x41 + 4 * k.val) m = socket (0x41 + 4 * k.val) o := by
        rw [hm, socket_nextAddress (by omega) (by omega), socket_arithStep]
        refine socket_moved u i cyc s h.1 h.2 fun j hj => ?_
        rw [show j = k by omega]
        exact ⟨h0, h1⟩
      rwa [socket_agIdx, socket_agIdx] at this
    · have := hword _ (by omega) (by omega) (by omega) h
      rwa [socket_agMod, socket_agMod] at this
    · have := hword _ (by omega) (by omega) (by omega) h
      rwa [socket_agCfg, socket_agCfg] at this
  · rw [hm, nextAddress_frame, arithStep_frame]
    exact hld
  · intro hk hrep
    have hstate : w.rptState = o.rptState := socket_moved_of_ne (d := 0x5B) u i cyc s hk.1 hk.2 (by decide)
    have hlast : w.rptState.getLsbD 0 = false ∨ w.pc.toNat ≠ w.rptEnd.toNat := by
      refine hrep.imp (fun h => by rw [hstate, h]) fun h => ?_
      have hend : w.rptEnd = o.rptEnd := socket_moved_of_ne (d := 0x59) u i cyc s h.1.1 h.1.2 (by decide)
      rw [hpc, hend]
      exact h.2
    rw [hm, nextAddress_repeat (by rw [arithStep_frame]; exact hlast), arithStep_frame]
    exact ⟨hstate, fun h => socket_moved_of_ne (d := 0x5A) u i cyc s h.1 h.2 (by decide)⟩
  · rw [hm, nextAddress_frame, arithStep_frame]
    exact himg
  · intro hk
    rw [hm, nextAddress_frame, arithStep_frame]
    exact evtd_moved u i cyc s hk.1 hk.2

end Sys2Proof.Machine
/-! PROOFS. The words of the rung solver (Rung Solver): a word in the call's limit does what its definition says, ends of calls, and
timers and counters (O35 to O40). -/

namespace Sys2Proof.Machine

/-! ### The call stands before a word -/

section
variable {s : State} {b : Fin 4} {c : Call} {i : Inst} {op n cost : Nat}

/-- What a call that stands before a word makes the guards of its row say. -/
theorem atWord.guards (h : atWord s b c i op n cost) : ∃ w, rungAt s b = some (c, i, w) ∧ opOf w = op ∧ operandOf w = n ∧
    inLimit c cost = true ∧ alive s = true := by
  obtain ⟨w, hw, hop, hn, hc, ha⟩ := h
  exact ⟨w, hw, hop, hn, decide_eq_true hc, ha⟩

/-- A stack word in the limit ends the call when its stack is too short or its result too long, and else leaves its result. -/
theorem stackWord_of_atWord (h : atWord s b c i op n 1) (need : Nat) (g : List Bool → List Bool) :
    stackWord b op n need g s = if c.stack.length < need then endCall b c errUnderflow (c.cycles + 1) c.pc.toNat s
      else if 16 < (g c.stack).length then endCall b c errOverflow (c.cycles + 1) c.pc.toNat s
      else wordDone b c 1 1 (g c.stack) s := by
  obtain ⟨w, hw, hop, hn, hl, ha⟩ := h.guards
  simp only [stackWord, hw, hop, hn, hl, ha, decide_true, Bool.and_self, Bool.not_true, Bool.or_self, Bool.false_eq_true, if_false]
  rfl

/-- A reading word in the limit. -/
theorem readWord_of_atWord {wait : BitVec 12} (h : atWord s b c i op n (1 + (bitCost s b c i n wait).1)) (need : Nat)
    (g : Bool → List Bool → List Bool) :
    readWord b op need wait g s = if c.stack.length < need then endCall b c errUnderflow (c.cycles + 1) c.pc.toNat s
      else if 16 < (g false c.stack).length then endCall b c errOverflow (c.cycles + 1) c.pc.toNat s
      else wordDone b { c with fetched := (bitCost s b c i n wait).2 } (1 + (bitCost s b c i n wait).1) 1
        (g (readBit c i n s).1 c.stack) (readBit c i n s).2 := by
  obtain ⟨w, hw, hop, rfl, hl, ha⟩ := h.guards
  rw [bitCost] at hl ⊢
  simp only [readWord, hw, hop, hl, ha, decide_true, Bool.and_self, Bool.not_true, Bool.or_self, Bool.false_eq_true, if_false]
  rfl

/-- A stack word with the entries it needs and room for its result. -/
theorem stackWord_done (h : atWord s b c i op n 1) {need : Nat} {g : List Bool → List Bool} {l r : List Bool} (hs : c.stack = l)
    (hg : g l = r) (h1 : need ≤ l.length) (h2 : r.length ≤ 16) : (.next (stackWord b op n need g s) : Res) = .next (wordDone b c 1 1 r s) := by
  rw [stackWord_of_atWord h, hs, hg, if_neg (not_lt.mpr h1), if_neg (not_lt.mpr h2)]

theorem stackWord_underflow (h : atWord s b c i op n 1) {need : Nat} {g : List Bool → List Bool} (h1 : c.stack.length < need) :
    (.next (stackWord b op n need g s) : Res) = .next (endCall b c errUnderflow (c.cycles + 1) c.pc.toNat s) := by
  rw [stackWord_of_atWord h, if_pos h1]

theorem stackWord_overflow (h : atWord s b c i op n 1) {need : Nat} {g : List Bool → List Bool} (h1 : need ≤ c.stack.length)
    (h2 : 16 < (g c.stack).length) :
    (.next (stackWord b op n need g s) : Res) = .next (endCall b c errOverflow (c.cycles + 1) c.pc.toNat s) := by
  rw [stackWord_of_atWord h, if_neg (not_lt.mpr h1), if_pos h2]

/-- A reading word with the entries it needs and room for its result. -/
theorem readWord_done {wait : BitVec 12} (h : atWord s b c i op n (1 + (bitCost s b c i n wait).1)) {need : Nat}
    {g : Bool → List Bool → List Bool} {l r : List Bool} (hs : c.stack = l) (hg : g (readBit c i n s).1 l = r)
    (h1 : need ≤ l.length) (h2 : (g false l).length ≤ 16) :
    (.next (readWord b op need wait g s) : Res) = .next (wordDone b { c with fetched := (bitCost s b c i n wait).2 }
      (1 + (bitCost s b c i n wait).1) 1 r (readBit c i n s).2) := by
  rw [readWord_of_atWord h, hs, hg, if_neg (not_lt.mpr h1), if_neg (not_lt.mpr h2)]

theorem readWord_underflow {wait : BitVec 12} (h : atWord s b c i op n (1 + (bitCost s b c i n wait).1)) {need : Nat}
    {g : Bool → List Bool → List Bool} (h1 : c.stack.length < need) :
    (.next (readWord b op need wait g s) : Res) = .next (endCall b c errUnderflow (c.cycles + 1) c.pc.toNat s) := by
  rw [readWord_of_atWord h, if_pos h1]

theorem readWord_overflow {wait : BitVec 12} (h : atWord s b c i op n (1 + (bitCost s b c i n wait).1)) {need : Nat}
    {g : Bool → List Bool → List Bool} (h1 : need ≤ c.stack.length) (h2 : 16 < (g false c.stack).length) :
    (.next (readWord b op need wait g s) : Res) = .next (endCall b c errOverflow (c.cycles + 1) c.pc.toNat s) := by
  rw [readWord_of_atWord h, if_neg (not_lt.mpr h1), if_pos h2]

end

section
variable {s r : State} {b : Fin 4} {c : Call} {i : Inst} {op n : Nat} {wait : BitVec 12} {x : Bool} {l : List Bool}
  (h : atWord s b c i op n (1 + (bitCost s b c i n wait).1)) (g : Bool → Bool → Bool × Bool)

/-- The bit that a writing word finds stored. -/
def storedBit (c : Call) (i : Inst) (n : Nat) (s : State) : Bool :=
  ((bitKey c i n).map (fun k => (readByte s.commit i k).getLsbD (windowBit c n % 8))).getD false

theorem storedBit_of_bitKey {k : Nat} (hk : bitKey c i n = some k) :
    storedBit c i n s = (readByte s.commit i k).getLsbD (windowBit c n % 8) := by
  rw [storedBit, hk]
  rfl

include h

/-- A writing word with an empty stack. -/
theorem writeWord_underflow (hs : c.stack = []) :
    (.next (writeWord b op wait g s) : Res) = .next (endCall b c errUnderflow (c.cycles + 1) c.pc.toNat s) := by
  obtain ⟨w, hw, hop, rfl, hl, ha⟩ := h.guards
  rw [bitCost] at hl
  simp only [writeWord, hw, hop, hl, ha, hs, decide_true, Bool.and_self, Bool.not_true, Bool.or_self, Bool.false_eq_true, if_false]
  rfl

/-- A writing word whose write takes its place. -/
theorem writeWord_done (hs : c.stack = x :: l) (hw : writeBit c i n (g x (storedBit c i n s)).1 s = (none, r)) :
    (.next (writeWord b op wait g s) : Res) = .next (wordDone b { c with fetched := (bitCost s b c i n wait).2 }
      (1 + (bitCost s b c i n wait).1) 1 ((g x (storedBit c i n s)).2 :: l) r) := by
  obtain ⟨w, hr, hop, rfl, hl, ha⟩ := h.guards
  rw [bitCost] at hl ⊢
  rw [storedBit] at hw ⊢
  simp only [writeWord, hr, hop, hl, ha, hs, hw, decide_true, Bool.and_self, Bool.not_true, Bool.or_self, Bool.false_eq_true, if_false]
  rfl

/-- A writing word whose write is refused. -/
theorem writeWord_fault {q : Nat × Nat} (hs : c.stack = x :: l)
    (hw : writeBit c i n (g x (storedBit c i n s)).1 s = (some q, r)) :
    (.next (writeWord b op wait g s) : Res) =
      .next (ownFault c.stall c.slot q.1 q.2 (modBarn b (fun y => { y with run := none }) r)) := by
  obtain ⟨w, hr, hop, rfl, hl, ha⟩ := h.guards
  rw [bitCost] at hl
  rw [storedBit] at hw
  simp only [writeWord, hr, hop, hl, ha, hs, hw, decide_true, Bool.and_self, Bool.not_true, Bool.or_self, Bool.false_eq_true, if_false]
  rfl

end

/-! ### Stack, reading and writing words -/

/-- Settles O35: each word is a stack word with its own need and result. -/
theorem stackWordsLeaveTheirStack : Obligations.StackWordsLeaveTheirStack := by
  refine ⟨?_, ?_⟩
  · intro b c i x y l s hlen
    have hroom (hs : c.stack = x :: y :: l) : l.length + 2 ≤ 16 := by rwa [hs] at hlen
    have hroom1 (hs : c.stack = x :: l) : l.length + 1 ≤ 16 := by rwa [hs] at hlen
    refine ⟨?_, ?_, ?_, ?_, ?_, ?_, ?_, ?_, ?_, ?_, ?_⟩
    · exact fun hs h => stackWord_done h hs rfl (Nat.zero_le _) (hs ▸ hlen)
    · exact fun hs hl h => stackWord_done h hs rfl (by simp) (Nat.add_le_add_right hl 2)
    · exact fun hs h => stackWord_done h hs rfl (by simp) (Nat.le_of_succ_le (hroom1 hs))
    · exact fun hs h => stackWord_done h hs rfl (by simp) (hroom hs)
    · exact fun hs h => stackWord_done h hs rfl (by simp) (hroom1 hs)
    · exact fun hs h => stackWord_done h hs rfl (by simp) (Nat.le_of_succ_le (hroom hs))
    · exact fun hs h => stackWord_done h hs rfl (by simp) (Nat.le_of_succ_le (hroom hs))
    · exact fun hs h => stackWord_done h hs rfl (by simp) (Nat.le_of_succ_le (hroom hs))
    · exact fun hs hl h => stackWord_done h hs rfl (Nat.zero_le _) (Nat.succ_le_succ hl)
    · exact fun hs hl h => stackWord_done h hs rfl (Nat.zero_le _) (Nat.succ_le_succ hl)
    · exact fun hs h => stackWord_done h hs rfl (Nat.zero_le _) (Nat.zero_le _)
  · intro b c i w n s h
    simp only [List.mem_cons, Prod.mk.injEq, List.not_mem_nil, or_false]
    refine ⟨?_, ?_, ?_⟩
    · rintro (⟨rfl, rfl⟩ | ⟨rfl, rfl⟩ | ⟨rfl, rfl⟩) hs <;>
        exact stackWord_underflow h (by rw [hs]; decide)
    · rintro (⟨rfl, rfl⟩ | ⟨rfl, rfl⟩ | ⟨rfl, rfl⟩ | ⟨rfl, rfl⟩) hs <;>
        exact stackWord_underflow h (Nat.lt_succ_of_le hs)
    · rintro (⟨rfl, rfl⟩ | ⟨rfl, rfl⟩ | ⟨rfl, rfl⟩) hs
      · exact stackWord_overflow h (by omega) (by simp [hs])
      · exact stackWord_overflow h (Nat.zero_le _) (by simp [hs])
      · exact stackWord_overflow h (Nat.zero_le _) (by simp [hs])

/-- Settles O36: each word is a reading word with its own need and result. -/
theorem readingWordsCombineTheirBit : Obligations.ReadingWordsCombineTheirBit := by
  intro b c i n wait x l s hlen e v done
  have hroom (hs : c.stack = x :: l) : l.length + 1 ≤ 16 := by rwa [hs] at hlen
  refine ⟨?_, ?_, ?_, ?_, ?_, ?_, ?_, ?_, ?_⟩
  · exact fun hs hl h => readWord_done h hs rfl (Nat.zero_le _) (Nat.succ_le_succ hl)
  · exact fun hs hl h => readWord_done h hs rfl (Nat.zero_le _) (Nat.succ_le_succ hl)
  · exact fun hs h => readWord_done h hs rfl (by simp) (hroom hs)
  · exact fun hs h => readWord_done h hs rfl (by simp) (hroom hs)
  · exact fun hs h => readWord_done h hs rfl (by simp) (hroom hs)
  · exact fun hs h => readWord_done h hs rfl (by simp) (hroom hs)
  · exact fun hs h => readWord_done h hs rfl (by simp) (hroom hs)
  · intro w op hw hs h
    simp only [List.mem_cons, Prod.mk.injEq, List.not_mem_nil, or_false] at hw
    rcases hw with ⟨rfl, rfl⟩ | ⟨rfl, rfl⟩
    · exact readWord_overflow h (Nat.zero_le _) (by simp [hs])
    · exact readWord_overflow h (Nat.zero_le _) (by simp [hs])
  · intro w op hw hs h
    simp only [List.mem_cons, Prod.mk.injEq, List.not_mem_nil, or_false] at hw
    rcases hw with ⟨rfl, rfl⟩ | ⟨rfl, rfl⟩ | ⟨rfl, rfl⟩ | ⟨rfl, rfl⟩ | ⟨rfl, rfl⟩ <;>
      exact readWord_underflow h (by rw [hs]; decide)

/-- Settles O37: each word is a writing word with its own bit and top of stack. -/
theorem writingWordsStoreTheirBit : Obligations.WritingWordsStoreTheirBit := by
  refine ⟨?_, ?_, ?_⟩
  · intro b c i n k wait x l r s hs hk e old done
    have hold : storedBit c i n s = old := storedBit_of_bitKey hk
    refine ⟨?_, ?_, ?_, ?_, ?_, ?_, ?_⟩
    · exact fun h hw => writeWord_done h _ hs hw
    · exact fun h hw => writeWord_done h _ hs hw
    · intro h hw
      rw [← hold] at hw
      exact writeWord_done h _ hs hw
    · intro h hw
      rw [← hold] at hw
      exact writeWord_done h _ hs hw
    · intro h hw
      rw [← hold]
      exact writeWord_done h _ hs hw
    · intro h hw
      rw [← hold]
      exact writeWord_done h _ hs hw
    · intro w op v q hmem h hw
      rw [← hold] at hmem
      simp only [List.mem_cons, Prod.mk.injEq, List.not_mem_nil, or_false] at hmem
      rcases hmem with ⟨rfl, rfl, rfl⟩ | ⟨rfl, rfl, rfl⟩ | ⟨rfl, rfl, rfl⟩ | ⟨rfl, rfl, rfl⟩ | ⟨rfl, rfl, rfl⟩ | ⟨rfl, rfl, rfl⟩ <;>
        exact writeWord_fault h _ hs hw
  · intro b c i n wait w op s hmem h
    simp only [List.mem_cons, Prod.mk.injEq, List.not_mem_nil, or_false] at hmem
    refine ⟨fun hs => ?_, fun hs hk => ?_⟩
    · rcases hmem with ⟨rfl, rfl⟩ | ⟨rfl, rfl⟩ | ⟨rfl, rfl⟩ | ⟨rfl, rfl⟩ | ⟨rfl, rfl⟩ | ⟨rfl, rfl⟩ <;>
        exact writeWord_underflow h _ hs
    · obtain ⟨x, l, hl⟩ := List.exists_cons_of_ne_nil hs
      have hw (v : Bool) : writeBit c i n v s = (some (fcProt, 0xFFFF), s) := by simp [writeBit, hk]
      rcases hmem with ⟨rfl, rfl⟩ | ⟨rfl, rfl⟩ | ⟨rfl, rfl⟩ | ⟨rfl, rfl⟩ | ⟨rfl, rfl⟩ | ⟨rfl, rfl⟩ <;>
        exact writeWord_fault (q := (fcProt, 0xFFFF)) h _ hl (hw _)
  · intro u f code detail i s hslot hp
    simp [ownFault, hslot, hp]

/-! ### Windows, jumps and ends -/

section
variable {s : State} {b : Fin 4} {c : Call} {i : Inst}

/-- A jump in its limit: it is taken at its target or the call goes on past its two words. -/
theorem jumpWord_of_atWord {sub : Nat} {test : Option Bool} {taken : Bool} {stack : List Bool}
    (h : atWord s b c i 0xF sub (if taken then 3 else 2))
    (ht : test = none ∧ taken = true ∧ stack = c.stack ∨ ∃ v t, test = some v ∧ c.stack = t :: stack ∧ taken = (decide (t = v))) :
    (.next (jumpWord b sub test s) : Res) = .next (if taken then wordDone b
        { c with pc := BitVec.ofInt 17 ((c.pc.toNat : Int) + signed 12 (solverWord s.proj i.bank (c.pc.toNat + 1)).toNat) } 3 0 stack s
      else wordDone b c 2 2 stack s) := by
  obtain ⟨w, hw, hop, rfl, hl, ha⟩ := h.guards
  rcases ht with ⟨rfl, rfl, rfl⟩ | ⟨v, t, rfl, hs, rfl⟩
  · simp only [if_true] at hl
    simp only [jumpWord, hw, hop, hl, ha, decide_true, Bool.and_self, Bool.not_true, Bool.or_self, Bool.false_eq_true, if_false,
      if_true]
    rfl
  · simp only [jumpWord, hw, hop, hl, ha, hs, decide_true, Bool.and_self, Bool.not_true, Bool.or_self, Bool.false_eq_true, if_false]
    rfl

/-- An end word in its limit whose test the top of the stack meets, or that has none. -/
theorem endWord_ends {sub : Nat} {test : Option Bool} (h : atWord s b c i 0xF sub 1)
    (ht : test = none ∨ ∃ l, ∃ v, test = some v ∧ c.stack = v :: l) :
    (.next (endWord b sub test s) : Res) = .next (endCall b c 0 (c.cycles + 1) c.pc.toNat s) := by
  obtain ⟨w, hw, hop, rfl, hl, ha⟩ := h.guards
  rcases ht with rfl | ⟨l, v, rfl, hs⟩
  · simp [endWord, hw, hop, hl, ha]
  · simp [endWord, hw, hop, hl, ha, hs]

/-- An end word whose test fails goes on. -/
theorem endWord_goes_on {sub : Nat} {v t : Bool} {l : List Bool} (h : atWord s b c i 0xF sub 1) (hs : c.stack = t :: l)
    (ht : t ≠ v) : (.next (endWord b sub (some v) s) : Res) = .next (wordDone b c 1 1 (t :: l) s) := by
  obtain ⟨w, hw, hop, rfl, hl, ha⟩ := h.guards
  simp [endWord, hw, hop, hl, ha, hs, ht, goWord, wordDone]

/-- WIN with a range that the encoding lists. -/
theorem win_of_atWord {rg : Nat} (h : atWord s b c i 0xD (64 * rg) 2)
    (hn : (solverWord s.proj i.bank (c.pc.toNat + 1)).toNat ≤ if rg = 0 then 2047 else if rg = 3 then 7 else 127) :
    exec (.win b) s = .next (wordDone b (if rg = 3
      then { c with area := (solverWord s.proj i.bank (c.pc.toNat + 1)).toNat }
      else { c with region := BitVec.ofNat 2 rg, window := (solverWord s.proj i.bank (c.pc.toNat + 1)).toNat }) 2 2 c.stack s) := by
  obtain ⟨w, hw, hop, hrg, hl, ha⟩ := h.guards
  have hd : operandOf w / 64 = rg := by omega
  have hm : operandOf w % 64 = 0 := by omega
  simp only [exec_win, execWin, hw, hop, hl, ha, hd, hm, decide_true, Bool.and_self, Bool.not_true, Bool.or_self, Bool.false_eq_true, if_false,
    bne_self_eq_false, Bool.false_or, decide_eq_true_eq, if_neg (not_lt.mpr hn)]
  rfl

end

/-- Settles O38: a window, a jump or an end word in its limit. -/
theorem windowsJumpsAndEndsOfCalls : Obligations.WindowsJumpsAndEndsOfCalls := by
  intro b c i x l s next away on back
  refine ⟨?_, ?_, ?_, ?_, ?_, ?_, ?_, ?_⟩
  · intro rg hrg hn h
    have h3 : rg ≠ 3 := by omega
    have := win_of_atWord h (by rw [if_neg h3]; exact hn)
    rwa [if_neg h3] at this
  · intro hn h
    exact win_of_atWord (rg := 3) h hn
  · intro h
    exact jumpWord_of_atWord (taken := true) h (.inl ⟨rfl, rfl, rfl⟩)
  · intro hs h
    cases x
    · exact jumpWord_of_atWord (taken := false) h (.inr ⟨true, false, rfl, hs, rfl⟩)
    · exact jumpWord_of_atWord (taken := true) h (.inr ⟨true, true, rfl, hs, rfl⟩)
  · intro hs h
    cases x
    · exact jumpWord_of_atWord (taken := true) h (.inr ⟨false, false, rfl, hs, rfl⟩)
    · exact jumpWord_of_atWord (taken := false) h (.inr ⟨false, true, rfl, hs, rfl⟩)
  · exact fun h => endWord_ends h (.inl rfl)
  · intro hs h
    cases x
    · exact endWord_goes_on h hs (by decide)
    · exact endWord_ends h (.inr ⟨l, true, rfl, hs⟩)
  · intro hs h
    cases x
    · exact endWord_ends h (.inr ⟨l, false, rfl, hs⟩)
    · exact endWord_goes_on h hs (by decide)

/-! ### The begin and the end of a call -/

/-- What a solver error records leaves the barns. -/
@[simp] theorem solverError_barns (t : BitVec 7) (copyB : Bool) (err addr : Nat) (s : State) :
    (solverError t copyB err addr s).barns = s.barns := by
  rw [solverError, raiseTask_barns, modCtr_barns]

/-- The end of a call gives its barn back with the call's return value (R266). -/
theorem endCall_barns (b : Fin 4) (c : Call) (err cycles addr : Nat) (s : State) : (endCall b c err cycles addr s).barns =
    (modBarn b (fun x => { x with
      run := none, returns := x.returns ++ [(c.stall, c.slot, returnValue c.stack err, c.tag)] }) s).barns := by
  have hwait (l : List Call) (g : Inst → Inst) (t : State) :
      (l.foldl (fun s q => modInst q.stall q.slot g s) t).barns = t.barns :=
    List.foldlRecOn (motive := fun x : State => x.barns = t.barns) l _ rfl fun x hx q _ => hx
  unfold endCall
  dsimp only
  split
  · split
    · rw [modCtr_barns, modInst_barns, hwait]
    · rw [solverError_barns, modCtr_barns, modInst_barns, hwait]
  · rw [modInst_barns, hwait]

/-- Settles O39: the oldest call begins, and a call ends with its code and its stack. -/
theorem solverCallsBeginAndEnd : Obligations.SolverCallsBeginAndEnd := by
  refine ⟨?_, ?_, ?_, ?_⟩
  · intro b c q s hrun hq hout hon ha
    simp [execSolverCallStart, hrun, hq, hout, hon, ha]
  · intro b c i n s h hn
    obtain ⟨w, hw, hop, rfl, hl, ha⟩ := h.guards
    simp [execExt, hw, hop, hl, ha, hn, wordError, errEncoding]
  · intro b c i w s hw ha hc
    simp [execSolverCallLimit, hw, ha, hc, errLimit, callLimit]
  · intro b c err cycles addr s
    have hb : barn (endCall b c err cycles addr s) b = _ := (congrArg (·[b]) (endCall_barns b c err cycles addr s)).trans
      (barn_modBarn_self ..)
    rw [hb]
    exact ⟨rfl, rfl⟩

/-! ### Timers and counters (R286 to R291) -/

/-- A TMR whose record lies in the timer area, with the word's further cycles and the lines fetched: the record is read, evaluated and,
where it changes, buffered. -/
def evaluateRecord (b : Fin 4) (c : Call) (i : Inst) (key : Nat) (e : Nat × List Nat) (s : State) : State :=
  let old := readBytes s.commit i key 32
  let s := noteRead c.stall c.slot i.wb key 32 s
  let kind := bitsOf (fieldAt old 0 1) 3 0
  if kind = 0 || 6 < kind then endCall b c errRecord (c.cycles + (4 + e.1)) c.pc.toNat s
  else match evalRecord i.relTime old c.stack with
    | none => endCall b c errUnderflow (c.cycles + (4 + e.1)) c.pc.toNat s
    | some (new, stack) =>
      if new = old then wordDone b { c with fetched := e.2 } (4 + e.1) 1 stack s
      else match bufferWrite c.stall c.slot key new s with
        | some s => wordDone b { c with fetched := e.2 } (4 + e.1) 1 stack s
        | none => ownFault c.stall c.slot fcOverflow 0 (modBarn b (fun y => { y with run := none }) s)

section
variable {s : State} {b : Fin 4} {c : Call} {i : Inst} {n : Nat} {wait : BitVec 12}

/-- A record beyond the timer area ends the call with RECORD. -/
theorem exec_tmr_outside (hoff : i.record.rungSize < 8192 * c.area + 32 * n + 32)
    (h : atWord s b c i 0xE n (4 + (lineCost s b c none wait).1)) :
    exec (.tmr b wait) s = .next (endCall b c errRecord (c.cycles + 4) c.pc.toNat s) := by
  obtain ⟨w, hw, hop, rfl, hl, ha⟩ := h.guards
  simp only [exec_tmr, execTmr, hw, hop, ha, hl, decide_eq_false (not_le.mpr hoff), Bool.false_eq_true, if_false, decide_true,
    Bool.and_self, Bool.not_true, Bool.or_self, Bool.not_false, if_true]
  rfl

/-- A record in the timer area is evaluated. -/
theorem exec_tmr_inside (hoff : 8192 * c.area + 32 * n + 32 ≤ i.record.rungSize)
    (h : atWord s b c i 0xE n (4 + (lineCost s b c (some (privKey i.task (privBase + (8192 * c.area + 32 * n)))) wait).1)) :
    exec (.tmr b wait) s = .next (evaluateRecord b c i (privKey i.task (privBase + (8192 * c.area + 32 * n)))
      (lineCost s b c (some (privKey i.task (privBase + (8192 * c.area + 32 * n)))) wait) s) := by
  obtain ⟨w, hw, hop, rfl, hl, ha⟩ := h.guards
  simp only [exec_tmr, execTmr, hw, hop, ha, hl, decide_eq_true hoff, Bool.false_eq_true, if_false, decide_true, Bool.and_self,
    Bool.not_true, Bool.or_self, if_true]
  rfl

end

section
variable {b : Fin 4} {c : Call} {i : Inst} {key : Nat} {e : Nat × List Nat} {s : State}

/-- A record of a kind that Table 8 does not list. -/
theorem evaluateRecord_of_kind (h : let kind := bitsOf (fieldAt (readBytes s.commit i key 32) 0 1) 3 0; kind = 0 ∨ 6 < kind) :
    evaluateRecord b c i key e s =
      endCall b c errRecord (c.cycles + (4 + e.1)) c.pc.toNat (noteRead c.stall c.slot i.wb key 32 s) := by
  have hk : (decide (bitsOf (fieldAt (readBytes s.commit i key 32) 0 1) 3 0 = 0) ||
      decide (6 < bitsOf (fieldAt (readBytes s.commit i key 32) 0 1) 3 0)) = true := by simpa using h
  exact if_pos hk

section
variable (h1 : 1 ≤ bitsOf (fieldAt (readBytes s.commit i key 32) 0 1) 3 0)
  (h6 : bitsOf (fieldAt (readBytes s.commit i key 32) 0 1) 3 0 ≤ 6)
include h1 h6

theorem kind_listed : (decide (bitsOf (fieldAt (readBytes s.commit i key 32) 0 1) 3 0 = 0) ||
    decide (6 < bitsOf (fieldAt (readBytes s.commit i key 32) 0 1) 3 0)) = false := by
  simp only [Bool.or_eq_false_iff, decide_eq_false_iff_not]
  omega

/-- Too few entries for the kind. -/
theorem evaluateRecord_underflow (he : evalRecord i.relTime (readBytes s.commit i key 32) c.stack = none) :
    evaluateRecord b c i key e s =
      endCall b c errUnderflow (c.cycles + (4 + e.1)) c.pc.toNat (noteRead c.stall c.slot i.wb key 32 s) := by
  simp only [evaluateRecord, kind_listed h1 h6, he, Bool.false_eq_true, if_false]

variable {new : Bytes} {stack : List Bool} (he : evalRecord i.relTime (readBytes s.commit i key 32) c.stack = some (new, stack))
include he

/-- A record that does not change is not buffered. -/
theorem evaluateRecord_same (hn : new = readBytes s.commit i key 32) : evaluateRecord b c i key e s =
    wordDone b { c with fetched := e.2 } (4 + e.1) 1 stack (noteRead c.stall c.slot i.wb key 32 s) := by
  simp only [evaluateRecord, kind_listed h1 h6, he, hn, Bool.false_eq_true, if_false, if_true]

/-- A record that changes is buffered. -/
theorem evaluateRecord_written {r : State} (hn : new ≠ readBytes s.commit i key 32)
    (hb : bufferWrite c.stall c.slot key new (noteRead c.stall c.slot i.wb key 32 s) = some r) :
    evaluateRecord b c i key e s = wordDone b { c with fetched := e.2 } (4 + e.1) 1 stack r := by
  simp only [evaluateRecord, kind_listed h1 h6, he, hn, hb, Bool.false_eq_true, if_false]

/-- A full write buffer aborts the transaction. -/
theorem evaluateRecord_full (hn : new ≠ readBytes s.commit i key 32)
    (hb : bufferWrite c.stall c.slot key new (noteRead c.stall c.slot i.wb key 32 s) = none) :
    evaluateRecord b c i key e s = ownFault c.stall c.slot fcOverflow 0
      (modBarn b (fun y => { y with run := none }) (noteRead c.stall c.slot i.wb key 32 s)) := by
  simp only [evaluateRecord, kind_listed h1 h6, he, hn, hb, Bool.false_eq_true, if_false]

end
end

/-- The inputs that each kind of record takes from the stack (Table 8). -/
theorem evalRecord_timer {t : Nat} {v : Bool} {l : List Bool} {rec : Bytes} (h : bitsOf (fieldAt rec 0 1) 3 0 ≤ 3) :
    let x := evalTimer (bitsOf (fieldAt rec 0 1) 3 0) t v (timerOf rec)
    evalRecord t rec (v :: l) = some (putTimer rec x, x.q :: l) := by
  simp only [evalRecord, h, if_true]

theorem evalRecord_ctu {t : Nat} {r cu : Bool} {l : List Bool} {rec : Bytes} (h : bitsOf (fieldAt rec 0 1) 3 0 = 4) :
    let x := evalCounter 4 r false cu false (counterOf rec)
    evalRecord t rec (r :: cu :: l) = some (putCounter rec x, x.qu :: l) := by
  simp [evalRecord, h]

theorem evalRecord_ctd {t : Nat} {ld cd : Bool} {l : List Bool} {rec : Bytes} (h : bitsOf (fieldAt rec 0 1) 3 0 = 5) :
    let x := evalCounter 5 false ld false cd (counterOf rec)
    evalRecord t rec (ld :: cd :: l) = some (putCounter rec x, x.qd :: l) := by
  simp [evalRecord, h]

theorem evalRecord_ctud {t : Nat} {ld r cd cu : Bool} {l : List Bool} {rec : Bytes} (h : bitsOf (fieldAt rec 0 1) 3 0 = 6) :
    let x := evalCounter 6 r ld cu cd (counterOf rec)
    evalRecord t rec (ld :: r :: cd :: cu :: l) = some (putCounter rec x, x.qd :: x.qu :: l) := by
  simp [evalRecord, h]

/-! Timers: Δ is the time since T_START as an unsigned 64-bit value. -/

section
variable {t : Nat} {x : Timer} {running : Option Bool} {done : Bool}

theorem timing_over (h : x.pt ≤ (t + 2 ^ 64 - x.start) % 2 ^ 64) :
    timing t running done x = { x with q := done, on := false, et := x.pt } := if_pos h

theorem timing_running (h : (t + 2 ^ 64 - x.start) % 2 ^ 64 < x.pt) :
    timing t running done x = { x with q := running.getD x.q, et := (t + 2 ^ 64 - x.start) % 2 ^ 64 } := if_neg (not_le.mpr h)

/-- A timer that starts is over at once when its time is zero. -/
theorem startTimer_eq (ht : t < 2 ^ 64) : startTimer t running done x =
    { x with q := if x.pt = 0 then done else running.getD x.q, on := decide (0 < x.pt), et := 0, start := t } := by
  have hm : t % 2 ^ 64 = t := Nat.mod_eq_of_lt ht
  have hd : (t + 2 ^ 64 - t) % 2 ^ 64 = 0 := by omega
  unfold startTimer
  rw [hm]
  by_cases h : x.pt = 0
  · rw [timing_over (by simp [h])]
    simp [h]
  · rw [timing_running (by simp only [hd]; omega)]
    simp only [hd, h, if_false, Nat.pos_of_ne_zero h, decide_true]

end

/-! Counters. -/

theorem countUp_bounds {v : Int} (h1 : -(2 ^ 31) ≤ v) (h2 : v < 2 ^ 31) : -(2 ^ 31) ≤ countUp v ∧ countUp v < 2 ^ 31 := by
  unfold countUp
  split <;> omega

theorem countDown_bounds {v : Int} (h1 : -(2 ^ 31) ≤ v) (h2 : v < 2 ^ 31) : -(2 ^ 31) ≤ countDown v ∧ countDown v < 2 ^ 31 := by
  unfold countDown
  split <;> omega

/-- A counter of any kind: its limits, and the inputs that it keeps for the next edge. -/
theorem evalCounter_limits (k : Nat) (r ld cu cd : Bool) (x : Counter) :
    let y := evalCounter k r ld cu cd x
    y.pv = x.pv ∧ y.qu = decide (x.pv ≤ y.cv) ∧ y.qd = decide (y.cv ≤ 0) ∧ y.cuPrev = (cu && k != 5) ∧ y.cdPrev = (cd && k != 4) := by
  refine ⟨rfl, rfl, rfl, ?_, ?_⟩
  · by_cases h : k = 5 <;> simp [evalCounter, h]
  · by_cases h : k = 4 <;> simp [evalCounter, h]

/-- The value that each kind counts to. -/
theorem evalCounter_ctu (r ld cu cd : Bool) (x : Counter) : (evalCounter 4 r ld cu cd x).cv =
    if r then 0 else if cu && !x.cuPrev then countUp x.cv else x.cv := rfl

theorem evalCounter_ctd (r ld cu cd : Bool) (x : Counter) : (evalCounter 5 r ld cu cd x).cv =
    if ld then x.pv else if cd && !x.cdPrev then countDown x.cv else x.cv := rfl

theorem evalCounter_ctud (r ld cu cd : Bool) (x : Counter) : (evalCounter 6 r ld cu cd x).cv =
    if r then 0 else if ld then x.pv else if (cu && !x.cuPrev) && (cd && !x.cdPrev) then x.cv
    else if (cu && !x.cuPrev) && decide (x.cv < 2 ^ 31 - 1) then x.cv + 1
    else if cd && !x.cdPrev then countDown x.cv else x.cv := rfl

/-- Counts stay within the signed 32-bit range. -/
theorem evalCounter_bounds {k : Nat} (hk : k ∈ [4, 5, 6]) (r ld cu cd : Bool) {x : Counter} (h1 : -(2 ^ 31) ≤ x.cv)
    (h2 : x.cv < 2 ^ 31) (p1 : -(2 ^ 31) ≤ x.pv) (p2 : x.pv < 2 ^ 31) :
    -(2 ^ 31) ≤ (evalCounter k r ld cu cd x).cv ∧ (evalCounter k r ld cu cd x).cv < 2 ^ 31 := by
  have hu := countUp_bounds h1 h2
  have hd := countDown_bounds h1 h2
  simp only [List.mem_cons, List.not_mem_nil, or_false] at hk
  rcases hk with rfl | rfl | rfl
  · rw [evalCounter_ctu]
    split_ifs <;> omega
  · rw [evalCounter_ctd]
    split_ifs <;> omega
  · rw [evalCounter_ctud]
    split_ifs with _ _ _ hup
    · decide
    · exact ⟨p1, p2⟩
    · exact ⟨h1, h2⟩
    · simp only [Bool.and_eq_true, decide_eq_true_eq] at hup
      omega
    · exact hd
    · exact ⟨h1, h2⟩

/-- Settles O40: the record, its kinds, the timers and the counters. -/
theorem tmrEvaluatesItsRecord : Obligations.TmrEvaluatesItsRecord := by
  refine ⟨?_, ?_, ?_, ?_⟩
  · intro b c i n wait s off key e old s1 kind
    refine ⟨exec_tmr_outside, fun hoff h => ?_⟩
    have hx := exec_tmr_inside hoff h
    refine ⟨fun hk => ?_, fun h1 h6 he => ?_, fun new stack h1 h6 he => ⟨fun hn => ?_, fun s2 hn hb => ?_, fun hn hb => ?_⟩⟩
    · rw [hx, evaluateRecord_of_kind hk]
    · rw [hx, evaluateRecord_underflow h1 h6 he]
    · rw [hx, evaluateRecord_same h1 h6 he hn]
    · rw [hx, evaluateRecord_written h1 h6 he hn hb]
    · rw [hx, evaluateRecord_full h1 h6 he hn hb]
  · intro t v r ld cu cd l rec kind
    exact ⟨evalRecord_timer, evalRecord_ctu, evalRecord_ctd, evalRecord_ctud⟩
  · intro t v x ht gone
    refine ⟨?_, ?_, ?_, ?_, ?_, ?_, ?_, ?_, ?_, ?_, ?_, ?_, ?_, ?_, ?_⟩
    -- TP
    · intro hon h
      simp [evalTimer, hon, timing_over h]
    · intro hon h
      simp [evalTimer, hon, timing_running h, gone]
    · intro hon hp
      simp [evalTimer, hon, hp, startTimer_eq ht, Nat.pos_iff_ne_zero]
    · intro hon
      simp [evalTimer, hon]
    · intro hon hp
      obtain ⟨q, prev, on, pt, et, start⟩ := x
      subst hon hp
      simp [evalTimer]
    -- TON
    · simp [evalTimer]
    · intro hon h
      simp [evalTimer, hon, timing_over h]
    · intro hon h
      simp [evalTimer, hon, timing_running h, gone]
    · intro hon hq
      simp [evalTimer, hon, hq, startTimer_eq ht]
    · intro hon hq
      simp [evalTimer, hon, hq]
    -- TOF
    · simp [evalTimer]
    · intro hon h
      simp [evalTimer, hon, timing_over h]
    · intro hon h
      simp [evalTimer, hon, timing_running h, gone]
    · intro hon hq
      simp [evalTimer, hon, hq, startTimer_eq ht, Nat.pos_iff_ne_zero]
    · intro hon hq
      simp [evalTimer, hon, hq]
  · intro k r ld cu cd x hk y up down
    obtain ⟨h1, h2, h3, h4, h5⟩ := evalCounter_limits k r ld cu cd x
    refine ⟨h1, h2, h3, h4, h5, evalCounter_bounds hk r ld cu cd, ?_, ?_, ?_⟩
    · rintro rfl
      simp only [y, up, evalCounter_ctu, countUp, Bool.and_eq_true, Bool.not_eq_true', ite_and]
    · rintro rfl
      simp only [y, down, evalCounter_ctd, countDown, Bool.and_eq_true, Bool.not_eq_true', ite_and]
    · rintro rfl
      simp only [y, up, down, evalCounter_ctud, countDown, Bool.and_eq_true, Bool.not_eq_true', decide_eq_true_eq, ite_and]

end Sys2Proof.Machine
/-! PROOFS. What the host commands that act do (Host Interface, Commands): each is its checks and its work on the state that it has
begun (O14 to O23). -/

namespace Sys2Proof.Machine

/-! ### Commands that start -/

section
variable {d : Desc} {op : Nat} {serial : Bool} {s : State}

theorem malformed_of_startsClean (h : startsClean d op serial s = true) : malformed d = false := by
  simp only [startsClean, Bool.and_eq_true, Bool.not_eq_true'] at h
  exact h.2

theorem aligned_of_startsClean (h : startsClean d op serial s = true) : d.bufAddr.toNat % 8 = 0 := by
  have := malformed_of_startsClean h
  simp only [malformed, Bool.or_eq_false_iff, bne_eq_false_iff_eq] at this
  exact this.2

/-- A command whose package has its reserved bits zero is the usual command. -/
theorem bufferCommand_clean (h : startsClean d op serial s = true) {l : List (Nat × Nat)} {other : Bytes → State → Bytes × State}
    {buf : Bytes} {usual : Desc → Bytes → State → State} (hb : reservedClear l buf = true) :
    bufferCommand d op serial l other buf usual s = usual d buf s :=
  bufferCommand_clear (aligned_of_startsClean h) hb

/-- Two states with the same host interface have the same rings. -/
theorem ring_congr {s t : State} (h : t.host = s.host) (k : Fin 8) : ring t k = ring s k := by
  simp only [ring, h]

/-- A command that has started or goes on has changed the host interface alone. -/
theorem begun_frame (d : Desc) (op : Nat) (s : State) : begun d op s = { s with host := (begun d op s).host } := rfl

theorem defer_frame (d : Desc) (op : Nat) (w : Wait) (s : State) :
    defer d op w s = { s with host := (defer d op w s).host } := rfl

/-- A command that goes on occupies its ring. -/
theorem ring_defer (d : Desc) (op : Nat) (w : Wait) (s : State) : (ring (defer d op w s) d.ring).busy =
    some ⟨d.tag, op, d.bufAddr, d.bufLen, w, false, false⟩ := by
  simp [ring, defer, modRing]

end

/-! ### Storing commands (R376, R594, R595, R597) -/

/-- Operations put one after the other at the end of the retain controller's queue. -/
theorem enqueueOps (k : Nat → RetKind) (p : Nat → List (Nat × Bytes)) (l : List Nat) (s : State) :
    l.foldl (fun s i => enqueueOp (k i) (p i) s) s =
      { s with ret := { s.ret with ops := s.ret.ops ++ l.map (fun i => ⟨k i, p i, 0, false⟩) } } := by
  induction l generalizing s with
  | nil => simp
  | cons i l ih =>
    rw [List.foldl_cons, ih, List.map_cons, List.append_cons]
    rfl

/-- A command that goes on and puts operations into the controller's queue changes the host interface and the queue alone. -/
theorem queued_frame (d : Desc) (op : Nat) (w : Wait) (l : List RetOp) (s : State) :
    let t := { defer d op w (begun d op s) with ret := { s.ret with ops := s.ret.ops ++ l } }
    (ring t d.ring).busy = some ⟨d.tag, op, d.bufAddr, d.bufLen, w, false, false⟩ ∧
      t.ret = { s.ret with ops := s.ret.ops ++ l } ∧ t = { s with host := t.host, ret := t.ret } :=
  ⟨(congrArg Ring.busy (ring_congr rfl d.ring)).trans (ring_defer d op w (begun d op s)), rfl, by
    dsimp only
    rw [defer_frame, begun_frame]⟩

/-- SETTINGS_WRITE whose checks pass. -/
theorem exec_settingsWrite_acts {d : Desc} {id : Half} {buf : Bytes} {s : State} (h : startsClean d 0x02 true s = true)
    (hb : reservedClear (blockReserved id.toNat) buf = true) (ha : blockAbsent s id.toNat = false)
    (hm : blockMode s id.toNat = true) (hl : blockLen id.toNat = some d.bufLen.toNat)
    (hv : blockValid (begun d 0x02 s) id.toNat (padTo d.bufLen.toNat buf) = true) :
    exec (.settingsWrite d id 1 buf) s = .next (enqueueOp (.settings (some d.ring) id.toNat (padTo d.bufLen.toNat buf))
      (List.replicate (settingsCount (padTo d.bufLen.toNat buf).length) (0, [])) (defer d 0x02 (.settings id.toNat) (begun d 0x02 s))) := by
  have ha' : blockAbsent (begun d 0x02 s) id.toNat = false := ha
  have hm' : blockMode (begun d 0x02 s) id.toNat = true := hm
  rw [exec_settingsWrite, execSettingsWrite]
  dsimp only
  rw [bufferCommand_clean h hb, hostCommand_clean h (by simp [ha', hm', hl, hv])]

/-- SETTINGS_WRITE that fails its checks before the last ones. -/
theorem exec_settingsWrite_fails {d : Desc} {id : Half} {fmt : Byte} {buf : Bytes} {s : State} (h : startsClean d 0x02 true s = true)
    (hb : reservedClear (blockReserved id.toNat) buf = true) :
    (blockAbsent s id.toNat = true → exec (.settingsWrite d id fmt buf) s = .next (complete d.ring d.tag 4 0 (begun d 0x02 s))) ∧
    (blockAbsent s id.toNat = false → blockMode s id.toNat = false →
      exec (.settingsWrite d id fmt buf) s = .next (complete d.ring d.tag 2 0 (begun d 0x02 s))) ∧
    (blockAbsent s id.toNat = false → blockMode s id.toNat = true →
      blockLen id.toNat ≠ some d.bufLen.toNat ∨ fmt ≠ 1 ∨ blockValid (begun d 0x02 s) id.toNat (padTo d.bufLen.toNat buf) = false →
      exec (.settingsWrite d id fmt buf) s = .next (complete d.ring d.tag 7 0 (begun d 0x02 s))) := by
  have ha (v : Bool) (hv : blockAbsent s id.toNat = v) : blockAbsent (begun d 0x02 s) id.toNat = v := hv
  have hm (v : Bool) (hv : blockMode s id.toNat = v) : blockMode (begun d 0x02 s) id.toNat = v := hv
  have hn : anyBlock (begun d 0x02 s) id.toNat d = false := by simp [anyBlock, malformed_of_startsClean h]
  rw [exec_settingsWrite, execSettingsWrite]
  dsimp only
  rw [bufferCommand_clean h hb]
  refine ⟨fun hx => ?_, fun hx hy => ?_, fun hx hy hbad => ?_⟩
  · rw [hostCommand_fails (c := (false, stAbsent)) h (by simp [ha _ hx])]
    rfl
  · rw [hostCommand_fails (c := (false, stMode)) h (by simp [ha _ hx, hm _ hy])]
    rfl
  · have hlast : (decide (blockLen id.toNat = some d.bufLen.toNat) && decide (fmt = 1) &&
        blockValid (begun d 0x02 s) id.toNat (padTo d.bufLen.toNat buf)) = false := by
      rcases hbad with hbad | hbad | hbad
      · rw [decide_eq_false hbad, Bool.false_and, Bool.false_and]
      · rw [decide_eq_false hbad, Bool.and_false, Bool.false_and]
      · rw [hbad, Bool.and_false]
    rw [hostCommand_fails (c := (false, stVerify)) h (by simp only [ha _ hx, hm _ hy, hn, Bool.or_false, hlast]; rfl)]
    rfl

/-- Settles O14. -/
theorem storingCommandsQueueTheirPages : Obligations.StoringCommandsQueueTheirPages := by
  refine ⟨?_, fun d id fmt buf s h hb => exec_settingsWrite_fails h hb, ?_, ?_, ?_⟩
  · intro d id buf s h hb ha hm hl hv
    exact ⟨_, exec_settingsWrite_acts h hb ha hm hl hv, queued_frame d 0x02 _ [_] s⟩
  · intro d first count buf s h h1 h2 h3 h4
    have he : exec (.retainWrite d first count buf) s = .next _ := congrArg Host.Outcome.next
      (hostCommand_clean h (by simp [h1, h2, h3, h4]))
    rw [enqueueOps (fun i => .param d.ring (i + 1 = count.toNat)) (fun i => [(first.toNat + i, padTo 64 (buf.drop (64 * i)))])] at he
    exact ⟨_, he, queued_frame d 0x12 _ _ s⟩
  · intro d buf s h hm hl hlen hb hz
    have hm' : (decide ((begun d 0x13 s).mode.mode = mStop) || decide ((begun d 0x13 s).mode.mode = mService)) = true := by
      rwa [Bool.or_eq_true, decide_eq_true_iff, decide_eq_true_iff]
    have he : exec (.sealLock d 0x5EA110CE#32 buf) s = .next _ := congrArg Host.Outcome.next
      ((bufferCommand_clean h hb).trans (hostCommand_clean h (by simp [-Bool.or_eq_true, -begun_mode, hm', hl, hlen, hz])))
    exact ⟨_, he, queued_frame d 0x13 _ [_] s⟩
  · intro d confirm buf s h hm hl hb
    have hm' : (decide ((begun d 0x13 s).mode.mode = mStop) || decide ((begun d 0x13 s).mode.mode = mService)) = true := by
      rwa [Bool.or_eq_true, decide_eq_true_iff, decide_eq_true_iff]
    exact congrArg Host.Outcome.next ((bufferCommand_clean h hb).trans
      (hostCommand_fails (c := (false, stVerify)) h (by simp [-Bool.or_eq_true, -begun_mode, hm', hl])))

/-! ### TASK_CONTROL (R53, R54, R72) -/

/-- Settles O15. -/
theorem taskControlActsAndCompletes : Obligations.TaskControlActsAndCompletes := by
  refine ⟨?_, ?_, ?_, ?_, ?_⟩
  · intro d t s h hn hp e
    have hn' : taskNamed (begun d 0x06 s) t = true := hn
    have hp' : pinsKeep (begun d 0x06 s) (fun x => x = taskNo t.toNat || (task (begun d 0x06 s) x).enabled)
      (profiles (begun d 0x06 s)) = true := hp
    refine ⟨congrArg Host.Outcome.next (hostCommand_clean h (by simp [hn', hp'])), ?_⟩
    simp [e, setEnable]
  · intro d t s h hn
    have hn' : taskNamed (begun d 0x06 s) t = true := hn
    refine ⟨_, congrArg Host.Outcome.next (hostCommand_clean h (by simp [hn'])), ?_, ?_⟩
    · rw [ok, complete_frame]
      exact congrArg TaskSt.enabled (task_modTask_self (taskNo t.toNat) (fun k => { k with enabled := false }) _)
    · rw [ok, complete_frame, setEnable, begun_frame]
      rfl
  · intro d t r s h hlt hr he ha hruns
    have hruns' : runs (begun d 0x06 s) = true := hruns
    have hr' : taskRec (begun d 0x06 s) (taskNo t.toNat) = some r := hr
    exact congrArg Host.Outcome.next (hostCommand_clean h (by simp [hruns', hr', taskNamed, hlt, he, ha]))
  · intro d t s h hn
    have hn' : taskNamed (begun d 0x06 s) t = false := hn
    exact ⟨congrArg Host.Outcome.next (hostCommand_fails (c := (false, stVerify)) h (by simp [hn'])),
      congrArg Host.Outcome.next (hostCommand_fails (c := (false, stVerify)) h (by simp [hn']))⟩
  · intro d t s h
    have hruns (v : Bool) (hv : runs s = v) : runs (begun d 0x06 s) = v := hv
    refine ⟨fun hr => ?_, fun hr hn => ?_⟩
    · exact congrArg Host.Outcome.next (hostCommand_fails (c := (false, stMode)) h (by simp [hruns _ hr]))
    · have hn' : taskNamed (begun d 0x06 s) t = false := hn
      exact congrArg Host.Outcome.next (hostCommand_fails (c := (false, stVerify)) h (by simp [hruns _ hr, hn']))


/-! ### HOLD_SET and STEP (R90 to R97) -/

/-- Changes of stalls and tasks alone. -/
structure CopiesFrame (s t : State) : Prop where
  /-- the other parts of the module stay -/
  rest : t = { s with stalls := t.stalls, tasks := t.tasks }

theorem CopiesFrame.refl (s : State) : CopiesFrame s s := ⟨rfl⟩

theorem CopiesFrame.trans {s t r : State} (h : CopiesFrame s t) (g : CopiesFrame t r) : CopiesFrame s r := by
  refine ⟨g.rest.trans ?_⟩
  rw [h.rest]

theorem copiesFrame_modStall (u : StallId) (g : Stall → Stall) (s : State) : CopiesFrame s (modStall u g s) := ⟨rfl⟩

theorem copiesFrame_modInst (u : StallId) (f : Fin 4) (g : Inst → Inst) (s : State) : CopiesFrame s (modInst u f g s) := ⟨rfl⟩

theorem copiesFrame_modTask (t : BitVec 7) (g : TaskSt → TaskSt) (s : State) : CopiesFrame s (modTask t g s) := ⟨rfl⟩

theorem copiesFrame_goOn (u : StallId) (f : Fin 4) (g : Inst → Inst) (s : State) : CopiesFrame s (goOn u f g s) := by
  unfold goOn
  extract_lets r
  have hr : CopiesFrame s r := copiesFrame_modInst u f _ s
  split
  · split
    · exact hr
    · split
      · exact hr.trans (copiesFrame_modInst u f _ r)
      · split
        · exact (hr.trans (copiesFrame_modStall u _ r)).trans (copiesFrame_modInst u f _ _)
        · exact hr
  · exact hr

/-- What a STEP makes of one copy of its task. -/
def stepOne (n : Option Nat) (s : State) (c : StallId × Fin 4 × Inst) : State :=
  if c.2.2.phase = .ending then s
  else if standing c.2.2 then goOn c.1 c.2.1 (stepCopy n) s
  else modInst c.1 c.2.1 (stepCopy n) s

theorem copiesFrame_stepOne (n : Option Nat) (s : State) (c : StallId × Fin 4 × Inst) : CopiesFrame s (stepOne n s c) := by
  unfold stepOne
  split
  · exact CopiesFrame.refl s
  · split
    · exact copiesFrame_goOn ..
    · exact copiesFrame_modInst ..

/-- The bundles that STEP's COUNT asks for. -/
def stepCount (n : Half) : Option Nat := if n = 0 then none else some n.toNat

/-- The task's transaction at the start of a STEP: a copy B that has not started yet will take the steps. -/
def stepWaiting (n : Option Nat) (k : TaskSt) : TaskSt :=
  { k with inst := k.inst.map (fun r =>
    if r.started && !r.startedB then { r with stepB := some (match r.stepB with
      | some old => addSteps old n
      | none => n) } else r) }

/-- What STEP does of a held task (R95): each of its copies takes the steps, unless one awaits its partner's stop. -/
def stepTask (t : BitVec 7) (n : Option Nat) (s : State) : State :=
  if (copies s t).any (fun c => awaited s c.2.2) then s
  else runPair t ((copies (modTask t (stepWaiting n) s) t).foldl (stepOne n) (modTask t (stepWaiting n) s))

theorem exec_step_acts {d : Desc} {t : Byte} {n : Half} {s : State} (h : startsClean d 0x08 false s = true) (ht : t.toNat < 128)
    (hheld : (task s (taskNo t.toNat)).held = true) : exec (.step d t n) s =
      .next (stepTask (taskNo t.toNat) (stepCount n) (defer d 0x08 (.step (taskNo t.toNat)) (begun d 0x08 s))) := by
  have hheld' : (task (begun d 0x08 s) (taskNo t.toNat)).held = true := hheld
  exact congrArg Host.Outcome.next (hostCommand_clean h (by simp [ht, hheld']))

theorem copiesFrame_stepTask (t : BitVec 7) (n : Option Nat) (s : State) : CopiesFrame s (stepTask t n s) := by
  unfold stepTask
  split
  · exact CopiesFrame.refl s
  · have hfold : CopiesFrame (modTask t (stepWaiting n) s)
        ((copies (modTask t (stepWaiting n) s) t).foldl (stepOne n) (modTask t (stepWaiting n) s)) :=
      List.foldlRecOn (motive := fun x => CopiesFrame (modTask t (stepWaiting n) s) x) _ _ (CopiesFrame.refl _)
        fun x hx c _ => hx.trans (copiesFrame_stepOne n x c)
    exact ((copiesFrame_modTask t _ s).trans hfold).trans (copiesFrame_modTask t _ _)

/-- A copy of a task stands in its slot. -/
theorem slotOf_of_mem_copies {s : State} {t : BitVec 7} {c : StallId × Fin 4 × Inst} (h : c ∈ copies s t) :
    slotOf s c.1 c.2.1 = some c.2.2 := by
  simp only [copies, List.mem_append, List.mem_filter, List.mem_flatMap, List.mem_map, residents, List.mem_filterMap,
    Option.map_eq_some_iff] at h
  rcases h with ⟨⟨⟨u, -, p, ⟨f, -, i, hi, rfl⟩, rfl⟩, -⟩, -⟩ | ⟨⟨⟨u, -, p, ⟨f, -, i, hi, rfl⟩, rfl⟩, -⟩, -⟩
  · exact hi
  · exact hi

theorem slotOf_modInst_some {u : StallId} {f : Fin 4} {g : Inst → Inst} {s : State} {i : Inst} (h : slotOf s u f = some i) :
    slotOf (modInst u f g s) u f = some (g i) := by
  rw [slotOf_modInst, h]
  rfl

/-- A copy that goes on stands in its slot with the counts it was given. -/
theorem slotOf_goOn {u : StallId} {f : Fin 4} {g : Inst → Inst} {s : State} {i : Inst} (h : slotOf s u f = some i) :
    ∃ j, slotOf (goOn u f g s) u f = some j ∧ j.issued = (g i).issued ∧ j.steps = (g i).steps := by
  have hr : slotOf (modInst u f (fun i => { g i with phase := .preempted }) s) u f = some { g i with phase := .preempted } :=
    slotOf_modInst_some h
  unfold goOn
  extract_lets r
  have hr' : slotOf r u f = some { g i with phase := .preempted } := hr
  rw [hr']
  dsimp only
  split
  · exact ⟨_, hr', rfl, rfl⟩
  · split
    · exact ⟨_, (slotOf_modInst ..).trans (congrArg _ hr'), rfl, rfl⟩
    · split
      · refine ⟨_, (slotOf_modInst ..).trans (congrArg _ ((?_ : _ = slotOf r u f).trans hr')), rfl, rfl⟩
        simp [slotOf, loadFrame]
      · exact ⟨_, hr', rfl, rfl⟩

/-- The one copy of a task that stands takes the steps. -/
theorem slotOf_stepTask {u : StallId} {f : Fin 4} {i : Inst} {t : BitVec 7} {n : Option Nat} {s : State}
    (hc : copies s t = [(u, f, i)]) (hs : standing i = true) (ha : awaited s i = false) :
    ∃ j, slotOf (stepTask t n s) u f = some j ∧ j.issued = 0 ∧ j.steps = n := by
  have hslot : slotOf (modTask t (stepWaiting n) s) u f = some i :=
    slotOf_of_mem_copies (c := (u, f, i)) (s := s) (t := t) (by rw [hc]; exact List.mem_singleton_self _)
  have hphase : i.phase ≠ .ending := by
    intro h
    simp [standing, h] at hs
  have hc' : copies (modTask t (stepWaiting n) s) t = [(u, f, i)] := hc
  obtain ⟨j, hj, hissued, hsteps⟩ := slotOf_goOn (g := stepCopy n) hslot
  refine ⟨j, ?_, ?_, ?_⟩
  · simp only [stepTask, hc, hc', List.any_cons, List.any_nil, ha, Bool.or_self, Bool.false_eq_true, if_false, List.foldl_cons,
      List.foldl_nil, stepOne, hphase, hs, if_true]
    exact hj
  · rw [hissued, stepCopy, if_pos hs]
  · rw [hsteps, stepCopy, if_pos hs]

/-- The running transaction whose bundle issues. -/
theorem running_of_issuer {u : StallId} {p : Fin 4 × Inst} {s : State} (h : issuer s u = some p) :
    p.2.phase = .running ∧ p.2.endPending = false := by
  unfold issuer at h
  split at h
  case h_2 => cases h
  case h_1 f i hrun =>
    obtain ⟨hg, h⟩ := Option.ite_none_right_eq_some.mp h
    cases h
    simp only [Bool.and_eq_true, decide_eq_true_eq, Bool.not_eq_true'] at hg
    exact ⟨hg.1.1.2, hg.1.2⟩

/-- The transaction whose bundle issues runs. -/
theorem running_of_ready {u : StallId} {f : Fin 4} {i : Inst} {b : MoveWord × MoveWord} {cyc : Nat} {s : State}
    (hr : ready s u = some (f, i, b, cyc)) : i.phase = .running ∧ i.endPending = false := by
  unfold ready at hr
  cases hrun : issuer s u with
  | none => simp [hrun] at hr
  | some p =>
    simp only [hrun, Option.ite_none_left_eq_some, Option.some.injEq, Prod.mk.injEq] at hr
    obtain ⟨-, rfl, rfl, -, -⟩ := hr
    obtain ⟨hp, he⟩ := running_of_issuer hrun
    unfold covered
    split <;> exact ⟨hp, he⟩

/-- The immediate bundle before its transaction may be held again. -/
def immDone (u : StallId) (f : Fin 4) (b : MoveWord × MoveWord) (cyc : Nat) (s : State) : State :=
  modInst u f (fun i => { i with waits := 0, cycle := cyc + 1 }) (setCtx u (nextAddress noEff)
    (setCtx u (fun c => { c with imm := immValue b c.imm }) (modInst u f (fun i => { covered i with
      waits := 0, passBreak := false, issued := i.issued + 1, steps := i.steps.map (fun n => n - 1) }) s)))

theorem issueImm_eq (u : StallId) (f : Fin 4) (b : MoveWord × MoveWord) (cyc : Nat) (s : State) :
    issueImm u f b cyc s = holdAgain u f (immDone u f b cyc s) := rfl

/-- An immediate bundle counts one off the steps of its transaction. -/
theorem slotOf_immDone {u : StallId} {f : Fin 4} {i : Inst} {b : MoveWord × MoveWord} {cyc : Nat} {s : State}
    (hr : ready s u = some (f, i, b, cyc)) : ∃ j, slotOf (immDone u f b cyc s) u f = some j ∧ j.issued = i.issued + 1 ∧
      j.steps = i.steps.map (fun n => n - 1) ∧ j.phase = .running ∧ j.endPending = false := by
  obtain ⟨hp, he⟩ := running_of_ready hr
  obtain ⟨j, hj, rfl⟩ := slotOf_of_ready hr
  have hissued : (covered j).issued = j.issued := by
    unfold covered
    split <;> rfl
  refine ⟨_, slotOf_modInst_some ((slotOf_setCtx ..).trans ((slotOf_setCtx ..).trans (slotOf_modInst_some hj))), ?_, ?_, hp, he⟩
  · rw [hissued]
  · rw [covered_steps]

/-- A copy that has made its last step is held, with no steps left. -/
theorem slotOf_holdAgain {u : StallId} {f : Fin 4} {j : Inst} {s : State} (h : slotOf s u f = some j) (hs : j.steps = some 0)
    (hp : j.phase = .running) (he : j.endPending = false) : ∃ k, slotOf (holdAgain u f s) u f = some k ∧
      k.issued = j.issued ∧ k.steps = none ∧ k.phase = .held := by
  have hframe : ∃ k, slotOf (toFrame u f .held s) u f = some k ∧ k.issued = j.issued ∧ k.phase = .held := by
    unfold toFrame
    rw [h]
    refine ⟨_, slotOf_modInst_some ((?_ : _ = slotOf s u f).trans h), rfl, rfl⟩
    simp only [slotOf, stall_modStall_self, saveFrame]
    rfl
  obtain ⟨k, hk, hissued, hphase⟩ := hframe
  refine ⟨{ k with steps := none }, ?_, hissued, rfl, hphase⟩
  have hg : (decide (j.steps = some 0) && decide (j.phase = .running) && !j.endPending) = true := by simp [hs, hp, he]
  unfold holdAgain
  rw [h]
  dsimp only
  rw [if_pos hg, slotOf, stall_congr (settleStep_stalls ..), stall_congr (stopPair_stalls ..)]
  exact slotOf_modInst_some hk

/-- Settles O16. -/
theorem holdSetActsAndCompletes : Obligations.HoldSetActsAndCompletes := by
  refine ⟨?_, ?_, ?_, ?_, ?_, ?_, ?_, ?_⟩
  · intro d t b s h hr ht hb hq
    have hr' : runs (begun d 0x07 s) = true := hr
    have hq' : bitAt (block (begun d 0x07 s) 0x0601) (8 + t.toNat / 8) (t.toNat % 8) = false := hq
    have he : exec (.breakpointSet d t b) s = .next _ := congrArg Host.Outcome.next (hostCommand_clean h (by simp [hr', hq', ht, show b.toNat < 32768 from hb]))
    rw [he]
    refine ⟨fun hc => ?_, fun hc hl => ?_, fun hc hl => ?_⟩
    · exact congrArg Host.Outcome.next (if_pos hc)
    · exact congrArg Host.Outcome.next ((if_neg (ne_true_of_eq_false hc)).trans (if_neg (not_le.mpr hl)))
    · exact congrArg Host.Outcome.next ((if_neg (ne_true_of_eq_false hc)).trans (if_pos hl))
  · intro d t b s h hr
    have hc : (runs (begun d 0x07 s) && !(decide (t.toNat < 128) &&
        bitAt (block (begun d 0x07 s) 0x0601) (8 + t.toNat / 8) (t.toNat % 8))) = false := by
      rcases hr with hr | ⟨ht, hq⟩
      · rw [show runs (begun d 0x07 s) = false from hr, Bool.false_and]
      · rw [show bitAt (block (begun d 0x07 s) 0x0601) (8 + t.toNat / 8) (t.toNat % 8) = true from hq, decide_eq_true ht,
          Bool.and_self, Bool.not_true, Bool.and_false]
    exact congrArg Host.Outcome.next (hostCommand_fails (c := (false, stMode)) h (by simp only [hc]; rfl))
  · intro d t b s h hr ht hb
    have hr' : runs (begun d 0x07 s) = true := hr
    exact congrArg Host.Outcome.next (hostCommand_clean h (by simp [hr', ht, show b.toNat < 32768 from hb]))
  · intro d t b s h hr
    have hr' : runs (begun d 0x07 s) = false := hr
    exact congrArg Host.Outcome.next (hostCommand_fails (c := (false, stMode)) h (by simp [hr']))
  · intro d t b s h ht
    refine ⟨fun hr hh hb => ?_, fun hr => ?_⟩
    · have hr' : runs (begun d 0x07 s) = true := hr
      have hh' : (task (begun d 0x07 s) (taskNo t.toNat)).held = true := hh
      exact congrArg Host.Outcome.next (hostCommand_clean h (by simp [hr', hh', ht, show b.toNat < 32768 from hb]))
    · have hc : (runs (begun d 0x07 s) && !(decide (t.toNat < 128) && !(task (begun d 0x07 s) (taskNo t.toNat)).held)) = false := by
        rcases hr with hr | hh
        · rw [show runs (begun d 0x07 s) = false from hr, Bool.false_and]
        · rw [show (task (begun d 0x07 s) (taskNo t.toNat)).held = false from hh, decide_eq_true ht, Bool.not_false,
            Bool.and_self, Bool.not_true, Bool.and_false]
      exact congrArg Host.Outcome.next (hostCommand_fails (c := (false, stMode)) h (by simp only [hc]; rfl))
  · intro d t n s h ht
    refine ⟨fun hh => ?_, fun hh => ?_⟩
    · have hf := copiesFrame_stepTask (taskNo t.toNat) (stepCount n) (defer d 0x08 (.step (taskNo t.toNat)) (begun d 0x08 s))
      refine ⟨_, exec_step_acts h ht hh, ?_, ?_⟩
      · rw [hf.rest]
        exact ring_defer d 0x08 _ _
      · rw [hf.rest, defer_frame, begun_frame]
    · have hh' : (task (begun d 0x08 s) (taskNo t.toNat)).held = false := hh
      exact congrArg Host.Outcome.next (hostCommand_fails (c := (false, stMode)) h (by simp [hh', ht]))
  · intro d t n u f i s h ht hh hc hs ha
    obtain ⟨j, hj, hissued, hsteps⟩ := slotOf_stepTask (n := stepCount n)
      (s := defer d 0x08 (.step (taskNo t.toNat)) (begun d 0x08 s)) hc hs ha
    exact ⟨_, j, exec_step_acts h ht hh, hj, hissued, hsteps⟩
  · intro u f i b cyc k s hr hi hsteps
    obtain ⟨j, hj, hissued, hleft, hp, he⟩ := slotOf_immDone hr
    rw [hsteps] at hleft
    have hx : exec (.immHi u) s = .next (holdAgain u f (immDone u f b cyc s)) := by
      rw [← issueImm_eq]
      simp [execImmHi, hr, hi]
    rcases Nat.eq_zero_or_pos k with rfl | hk
    · obtain ⟨w, hw, hwi, hws, hwp⟩ := slotOf_holdAgain hj hleft hp he
      exact ⟨_, w, hx, hw, hwi.trans hissued, fun h0 => absurd h0 (by decide), fun _ => ⟨hws, hwp⟩⟩
    · have hne : j.steps ≠ some 0 := by
        rw [hleft]
        simp
        omega
      refine ⟨_, j, hx, ?_, hissued, fun _ => ⟨hleft, hp⟩, fun h0 => absurd h0 (by omega)⟩
      rw [holdAgain_of_steps hj hne, hj]


/-! ### MODE_SET (R82, R86, R567): what comes after the change of mode leaves the mode -/

section
variable (s : State)

theorem foldl_mode {α : Type} (l : List α) (f : State → α → State) (hf : ∀ s a, (f s a).mode = s.mode) :
    (l.foldl f s).mode = s.mode :=
  List.foldlRecOn (motive := fun x : State => x.mode = s.mode) l _ rfl fun x hx a _ => (hf x a).trans hx

theorem withEdges_mode (f : State → State) (h : (f s).mode = s.mode) : (withEdges f s).mode = s.mode := h

@[simp] theorem aoJump_mode (i : Nat) : (aoJump i s).mode = s.mode := rfl

@[simp] theorem applyDirect_mode (id : Nat) (v : Option Word) : (applyDirect id v s).mode = s.mode := by
  unfold applyDirect
  split
  · rfl
  · split
    · exact withEdges_mode s _ rfl
    · split
      · dsimp only
        split
        · rw [aoJump_mode, modLoop_mode]
        · rw [modLoop_mode]
      · rfl

@[simp] theorem trigger_mode (t : BitVec 7) : (trigger t s).mode = s.mode := by
  unfold trigger
  dsimp only
  split
  · rfl
  · split
    · rw [raiseTask_mode]
      rfl
    · rfl

@[simp] theorem fireChan_mode (id type : Nat) : (fireChan id type s).mode = s.mode :=
  foldl_mode s _ _ fun s t => trigger_mode s t

@[simp] theorem refreshChan_mode (id : Nat) : (refreshChan s id).mode = s.mode := by
  unfold refreshChan
  split
  · rfl
  · dsimp only
    split
    · rfl
    · split
      · split
        · rfl
        · rw [fireChan_mode, raiseChan_mode]
      · split
        · rfl
        · split
          · rw [raiseChan_mode]
          · rw [fireChan_mode, raiseChan_mode]

theorem endThermal_mode (id : Nat) (f : State → State) (h : (f s).mode = s.mode) : (endThermal id f s).mode = s.mode := by
  unfold endThermal
  dsimp only
  split
  · rw [refreshChan_mode, h]
  · exact h

@[simp] theorem dropAos_mode : (dropAos s).mode = s.mode := by
  refine foldl_mode s _ _ fun s i => ?_
  split
  · exact aoJump_mode s _
  · rfl

@[simp] theorem stopAll_mode : (stopAll s).mode = s.mode := by
  refine foldl_mode s _ _ fun s id => ?_
  split
  · exact endThermal_mode s id _ (applyDirect_mode s id _)
  · exact endThermal_mode s id _ (applyDirect_mode s id _)

@[simp] theorem deenergise_mode : (deenergise s).mode = s.mode := by
  rw [deenergise, dropAos_mode]
  exact foldl_mode s _ _ fun s id => endThermal_mode s id _ (applyDirect_mode s id _)

@[simp] theorem settleOutputs_mode (ids : List Nat) : (settleOutputs ids s).mode = s.mode := by
  refine foldl_mode s _ _ fun s id => ?_
  split
  · exact endThermal_mode s id _ (applyDirect_mode s id _)
  · rfl

theorem staggered_mode (f : State → State) (h : (f s).mode = s.mode) : (staggered f s).mode = s.mode := h

@[simp] theorem enterOutputs_mode (old new : BitVec 4) : (enterOutputs old new s).mode = s.mode := by
  unfold enterOutputs
  split
  · split
    · exact deenergise_mode s
    · rw [dropAos_mode, staggered_mode s _ (settleOutputs_mode s _)]
  · split
    · exact stopAll_mode s
    · split
      · split
        · rfl
        · exact stopAll_mode s
      · split
        · exact stopAll_mode s
        · rfl

@[simp] theorem canLoaded_mode (c : Fin 4) : (canLoaded c s).mode = s.mode := by
  have h : (hasStarted c s).2.mode = s.mode := by
    unfold hasStarted
    split <;> rfl
  unfold canLoaded
  dsimp only
  split
  · exact h
  · exact h

@[simp] theorem recallChannels_mode : (recallChannels s).mode = s.mode := by
  unfold recallChannels
  split
  · rfl
  · refine foldl_mode s _ _ fun s c => ?_
    split
    · exact canLoaded_mode s c
    · rfl

@[simp] theorem dueSave_mode (cause : BitVec 2) : (dueSave cause s).mode = s.mode := by
  unfold dueSave
  split <;> rfl

@[simp] theorem queueBale_mode (type : BitVec 3) (t : BitVec 7) (n : Nat) (lines : List BaleLine) :
    (queueBale type t n lines s).mode = s.mode := by
  unfold queueBale
  split
  · rfl
  · dsimp only
    split
    · rfl
    · rw [raise_mode]

@[simp] theorem refreshSource_mode : (refreshSource s).mode = s.mode := by
  unfold refreshSource
  dsimp only
  split
  · rfl
  · rw [raise_mode]

end

/-- A change of mode leaves the module in the new mode. -/
theorem changeMode_mode (m : BitVec 4) (c r q : Nat) (s : State) : (changeMode m c r q s).mode.mode = m := by
  unfold changeMode
  extract_lets old _ _ _ _ _ _ s1 _ s2 s3 s4 s5
  have h1 : s1.mode.mode = m := rfl
  have h2 : s2.mode = s1.mode := by
    simp only [s2]
    split <;> rfl
  have h3 : s3.mode = s2.mode := (recallChannels_mode _).trans (enterOutputs_mode _ _ _)
  have h4 : s4.mode = s3.mode := by
    simp only [s4]
    split
    · exact dueSave_mode _ _
    · rfl
  rw [refreshSource_mode, queueBale_mode, raise_mode, h4, h3, h2, h1]

theorem setStore_mode (st : BitVec 2) (s : State) : (setStore st s).mode = s.mode := by
  unfold setStore
  dsimp only
  split
  · rw [raise_mode]
  · rfl

/-- A start begins in phase 1 of start-up. -/
theorem startUp_mode (powered : Bool) (s : State) : (startUp powered s).mode.mode = mStartUp ∧ (startUp powered s).mode.phase = 1 := by
  have h : (startAfresh powered s).mode = State.reset.mode := rfl
  have hr : State.reset.mode.mode = mStartUp ∧ State.reset.mode.phase = 1 := by decide
  unfold startUp
  dsimp only
  split
  · rw [h]
    exact hr
  · rw [setStore_mode, h]
    exact hr

theorem enterSafe_mode (c r q : Nat) (s : State) : (enterSafe c r q s).mode.mode = mSafe := by
  unfold enterSafe
  split
  case isTrue h => exact h
  case isFalse => exact changeMode_mode ..

/-- What MODE_SET does for each mode that the module is not in (Table 11 of Tasks and Cycle). -/
theorem modeBody_run_from_stop {d : Desc} {start : Byte} {reason : Half} {s : State} (h : s.mode.mode = mStop) :
    modeBody d 1 start reason s = takeClaim .modeSet (defer d 0x04 (.modeRun start reason 0) s) := by
  have hne : ¬ 1 = s.mode.mode.toNat := by rw [h]; decide
  exact (if_neg hne).trans (if_pos (by rw [decide_eq_true h]; rfl))

theorem modeBody_run_from_hold {d : Desc} {start : Byte} {reason : Half} {s : State} (h : s.mode.mode = mHold) :
    modeBody d 1 start reason s = ok d 1 (changeMode mRun 8 d.ring.val reason.toNat (resumeAll s)) := by
  have hne : ¬ 1 = s.mode.mode.toNat := by rw [h]; decide
  have hs : ¬ s.mode.mode = mStop := by rw [h]; decide
  exact (if_neg hne).trans ((if_neg (by rw [decide_eq_false hs]; decide)).trans (if_pos rfl))

theorem modeBody_other {d : Desc} {m : Nat} {start : Byte} {reason : Half} {s : State} (h : s.mode.mode.toNat ≠ m) (h1 : m ≠ 1) :
    modeBody d m start reason s = if m = 3 then trackSet d reason s
      else if m = 4 then ok d 4 (enterSafe 0 d.ring.val reason.toNat s)
      else if m = 7 then startUp true (ok d 7 (changeMode mStartUp 0 d.ring.val reason.toNat s))
      else ok d m (changeMode (BitVec.ofNat 4 m) 0 d.ring.val reason.toNat s) := by
  have hn : ¬ (decide (m = 1) && decide (s.mode.mode = mStop)) = true := by
    rw [decide_eq_false h1, Bool.false_and]
    decide
  exact (if_neg (Ne.symm h)).trans ((if_neg hn).trans (if_neg h1))

/-- To RUN from STOP the unit takes a new claim, and its mode stands (R82, R570). -/
theorem modeBody_claims {d : Desc} {start : Byte} {reason : Half} {s : State} (h : s.mode.mode = mStop) :
    (modeBody d 1 start reason s).pair.claiming = some (highestClaim s + 1, .modeSet) ∧
    (modeBody d 1 start reason s).mode = s.mode := by
  rw [modeBody_run_from_stop h]
  exact ⟨rfl, rfl⟩

theorem modeBody_track_same {d : Desc} {start : Byte} {reason : Half} {s : State} (h : s.mode.mode.toNat ≠ 3) (hd : pairDiffers s = 0) :
    modeBody d 3 start reason s = ok d 3 (changeMode mTrack 0 d.ring.val reason.toNat (modPair (fun p => { p with differs := 0 }) s)) := by
  rw [modeBody_other h (by decide), if_pos rfl, trackSet, hd]
  rfl

theorem modeBody_track_differs {d : Desc} {start : Byte} {reason : Half} {s : State} (h : s.mode.mode.toNat ≠ 3) (hd : pairDiffers s ≠ 0) :
    modeBody d 3 start reason s = complete d.ring d.tag 2 0
      (raisePair 0x080B (pairDiffers s).toNat (modPair (fun p => { p with differs := pairDiffers s }) s)) := by
  rw [modeBody_other h (by decide), if_pos rfl]
  exact if_pos (bne_iff_ne.mpr hd)

/-- To STOP and SERVICE the mode alone changes. -/
theorem modeBody_stop_service {d : Desc} {m start : Byte} {reason : Half} {s : State} (hm : m = 0 ∨ m = 5) (h : s.mode.mode.toNat ≠ m.toNat) :
    modeBody d m.toNat start reason s = ok d m.toNat (changeMode (BitVec.ofNat 4 m.toNat) 0 d.ring.val reason.toNat s) := by
  rw [modeBody_other h (by rcases hm with rfl | rfl <;> decide)]
  have h3 : ¬ m.toNat = 3 := by rcases hm with rfl | rfl <;> decide
  have h4 : ¬ m.toNat = 4 := by rcases hm with rfl | rfl <;> decide
  have h7 : ¬ m.toNat = 7 := by rcases hm with rfl | rfl <;> decide
  rw [if_neg h3, if_neg h4, if_neg h7]

theorem exec_modeSet_allowed {d : Desc} {m start : Byte} {reason : Half} {s : State} (h : startsClean d 0x04 true s = true)
    (ha : modeAllowed s m.toNat start reason = true) (hm : modeCode m.toNat = true) (hst : start.toNat ≤ 2) :
    exec (.modeSet d m start reason) s = .next (modeBody d m.toNat start reason (begun d 0x04 s)) := by
  have ha' : modeAllowed (begun d 0x04 s) m.toNat start reason = true := ha
  exact congrArg Host.Outcome.next (hostCommand_clean h (by simp [ha', hm, hst]))

theorem modeAllowed_false {s : State} {m start : Byte} {reason : Half}
    (h : modeAllowed s m.toNat start reason = false ∨ m = 2 ∨ s.mode.mode = mStartUp) : modeAllowed s m.toNat start reason = false := by
  rcases h with h | rfl | h
  · exact h
  · unfold modeAllowed
    dsimp only
    split <;> rfl
  · exact if_pos h

theorem exec_modeSet_refused {d : Desc} {m start : Byte} {reason : Half} {s : State} (h : startsClean d 0x04 true s = true)
    (ha : modeAllowed s m.toNat start reason = false) :
    exec (.modeSet d m start reason) s = .next (complete d.ring d.tag 2 0 (begun d 0x04 s)) := by
  have ha' : modeAllowed (begun d 0x04 s) m.toNat start reason = false := ha
  exact congrArg Host.Outcome.next (hostCommand_fails (c := (false, stMode)) h (by simp [ha']))

/-- Settles O17, one lemma for each mode asked for. -/
theorem modeSetChangesTheMode : Obligations.ModeSetChangesTheMode := by
  refine ⟨?_, changeMode_mode, enterSafe_mode, startUp_mode true, ?_⟩
  · intro d m start reason s h ha hm hst b
    have hmode {v : BitVec 4} (hv : s.mode.mode ≠ v) : b.mode.mode.toNat ≠ v.toNat := fun he => hv (BitVec.eq_of_toNat_eq he)
    have hstop (hs : s.mode.mode = mStop) := modeBody_claims (d := d) (start := start) (reason := reason) (s := b) hs
    exact ⟨exec_modeSet_allowed h ha hm hst, fun he => if_pos he,
      fun _ hs => ⟨modeBody_run_from_stop (s := b) hs, (hstop hs).1, (hstop hs).2⟩,
      fun _ hs => modeBody_run_from_hold (s := b) hs,
      fun hm hne => modeBody_stop_service (s := b) hm hne,
      fun _ hs hd => modeBody_track_same (s := b) (hmode hs) hd,
      fun _ hs hd => modeBody_track_differs (s := b) (hmode hs) hd,
      fun _ hs => modeBody_other (m := 4) (s := b) (hmode hs) (by decide),
      fun _ hs => modeBody_other (m := 7) (s := b) (hmode hs) (by decide)⟩
  · intro d m start reason s h hbad
    exact exec_modeSet_refused h (modeAllowed_false hbad)

end Sys2Proof.Machine
/-! PROOFS. Host commands that load, edit, switch and replace (O18, O19, O20). -/

namespace Sys2Proof.Machine

/-! ### Checks that pass -/

section
variable {a b c e : Bool} {p q r t : Byte}

theorem pass1 (ha : a = true) : ∀ x ∈ [(a, p)], x.1 = true := List.forall_mem_singleton.mpr ha

theorem pass2 (ha : a = true) (hb : b = true) : ∀ x ∈ [(a, p), (b, q)], x.1 = true := List.forall_mem_cons.mpr ⟨ha, pass1 hb⟩

theorem pass3 (ha : a = true) (hb : b = true) (hc : c = true) : ∀ x ∈ [(a, p), (b, q), (c, r)], x.1 = true :=
  List.forall_mem_cons.mpr ⟨ha, pass2 hb hc⟩

theorem pass4 (ha : a = true) (hb : b = true) (hc : c = true) (he : e = true) : ∀ x ∈ [(a, p), (b, q), (c, r), (e, t)], x.1 = true :=
  List.forall_mem_cons.mpr ⟨ha, pass3 hb hc he⟩

end

/-! ### Loading commands (R372, R374, R386) -/

/-- The banks and initial data of a package with its reserved fields zero are taken as they are. -/
theorem takeImages_clean {d : Desc} (h : malformed d = false) (st : List (Nat × MoveWord)) (so : List (Nat × RungWord)) (init : Bytes)
    (s : State) : takeImages d st so init s = ((st, so, init), s) := by
  simp [takeImages, h]

/-- The check of a package's paired tasks against the module. -/
theorem paired_check {α : Type} {l : List α} {f : α → Bool} {x : Bool} (h : x = true ∨ l.all f = true) : (x || l.all f) = true := by
  rwa [Bool.or_eq_true]

theorem settleHomes_frame (s : State) : settleHomes s =
    { s with yard := (settleHomes s).yard, barns := (settleHomes s).barns } := by
  have hwake (b : Fin 4) (s : State) : wakeBarn b s = { s with yard := (wakeBarn b s).yard, barns := (wakeBarn b s).barns } := by
    unfold wakeBarn
    split <;> rfl
  unfold settleHomes
  refine List.foldlRecOn (motive := fun x : State => x = { s with yard := x.yard, barns := x.barns }) _ _ rfl fun x hx b _ => ?_
  rw [hwake b x, hx]

/-- The bad lines that a load may lift concern where data lies alone. -/
theorem liftBads_frame (s : State) (l : List Nat) : l.foldl (fun s m => liftBad m s) s =
    { s with yard := (l.foldl (fun s m => liftBad m s) s).yard, free := (l.foldl (fun s m => liftBad m s) s).free } := by
  refine List.foldlRecOn (motive := fun x : State => x = { s with yard := x.yard, free := x.free }) _ _ rfl fun x hx m _ => ?_
  simp only [liftBad]
  rw [hx]

/-- The state with a package's project in place of the old one, before its homes are settled. -/
def loadTaken (p : LoadPackage) (s : State) : State :=
  let bank := bankOf p.stallBank p.solverBank
  let proj : ProjSt := { s.proj with
    loaded := true, loadId := p.loadId, cur := loadLayout p, other := Layout.empty, init := p.init
    globalInit := p.globalInit, editInit := [], otherInit := [], edit := 0, pkg := none
    bank0 := if s.proj.active then s.proj.bank0 else bank
    bank1 := if s.proj.active then bank else s.proj.bank1 }
  let enabled (t : BitVec 7) : Bool := ((p.tasks.find? (fun r => r.attr.taskId = t)).map (fun r => r.attr.enabled)).getD false
  { s with
    proj := proj
    commit := replaceHome (initialHome proj) s.commit
    prof := { s.prof with active := 0xFF, before := none }
    mode := { s.mode with resumeOk := false }
    yard := { s.yard with homeLoc := [], moves := [], published := none }
    tasks := Vector.ofFn (fun i => { TaskSt.zero with
      enabled := enabled (taskNo i.val), epoch := (s.tasks[i]).epoch })
    chan := { s.chan with unpin := true, tx := [], txVariant := [], txEntry := [] } }

theorem loadProject_eq (p : LoadPackage) (s : State) :
    loadProject p s = settleHomes ((List.range 5).foldl (fun s m => liftBad m s) (loadTaken p s)) := rfl

theorem loadProject_proj (p : LoadPackage) (s : State) : (loadProject p s).proj = (loadTaken p s).proj := by
  rw [loadProject_eq, settleHomes_frame, liftBads_frame]

theorem loadProject_prof (p : LoadPackage) (s : State) : (loadProject p s).prof = (loadTaken p s).prof := by
  rw [loadProject_eq, settleHomes_frame, liftBads_frame]

theorem loadProject_mode (p : LoadPackage) (s : State) : (loadProject p s).mode = { s.mode with resumeOk := false } := by
  rw [loadProject_eq, settleHomes_frame, liftBads_frame]
  rfl

/-- The project of a package that is loaded. -/
theorem loadProject_fields (p : LoadPackage) (s : State) :
    let l := loadProject p s
    l.proj.loaded = true ∧ l.proj.loadId = p.loadId ∧ l.proj.cur = loadLayout p ∧ l.proj.edit = 0 ∧ l.proj.pkg = none ∧
      l.prof.active = 0xFF ∧ l.mode = { s.mode with resumeOk := false } := by
  dsimp only
  rw [loadProject_proj, loadProject_prof, loadProject_mode]
  exact ⟨rfl, rfl, rfl, rfl, rfl, rfl, rfl⟩

theorem refuseEdit_mode (s : State) : (refuseEdit s).mode = s.mode := by
  unfold refuseEdit
  split
  · rw [completeWait_mode]
  · rfl

/-- TASK_LOAD of a package that passes its checks (R372, R374). -/
theorem taskLoad_acts {d : Desc} {p : LoadPackage} {s : State} (h : startsClean d 0x05 true s = true)
    (hp : hasPaired s = true ∨ p.tasks.all (fun r => !r.attr.paired) = true) (hm : s.mode.mode = mStop) (hv : loadValid d p = true)
    (hf : loadFits (begun d 0x05 s) p = true) :
    exec (.taskLoad d p) s = .next (endTaskLoad (defer d 0x05 (.taskLoad (crc32 (loadBytes p)))
      (refreshChans (wantNow (loadProject p (refuseEdit (begun d 0x05 s))))))) := by
  have he : exec (.taskLoad d p) s = .next _ := congrArg Host.Outcome.next
    (hostCommand_clean h (pass4 (paired_check hp) (decide_eq_true hm) hv hf))
  rw [takeImages_clean (malformed_of_startsClean h)] at he
  exact he

/-- What a package loaded by TASK_LOAD leaves of the project and the mode. -/
theorem loaded_fields (d : Desc) (p : LoadPackage) (s : State) :
    let l := loadProject p (refuseEdit (begun d 0x05 s))
    l.proj.loaded = true ∧ l.proj.loadId = p.loadId ∧ l.proj.cur = loadLayout p ∧ l.proj.edit = 0 ∧ l.proj.pkg = none ∧
      l.prof.active = 0xFF ∧ l.mode = { s.mode with resumeOk := false } := by
  obtain ⟨h1, h2, h3, h4, h5, h6, h7⟩ := loadProject_fields p (refuseEdit (begun d 0x05 s))
  have hmode : (refuseEdit (begun d 0x05 s)).mode = s.mode := refuseEdit_mode _
  exact ⟨h1, h2, h3, h4, h5, h6, h7.trans (congrArg (fun m : ModeSt => { m with resumeOk := false }) hmode)⟩

/-- The project with an edit prepared beside the loaded one. -/
def editPrepared (pkg : EditPackage) (p : ProjSt) : ProjSt :=
  let bank := bankOf pkg.stallBank pkg.solverBank
  { p with
    other := editLayout pkg p.cur
    otherInit := pkg.tasks.foldl (fun t r => Tab.set t r.attr.taskId.toNat pkg.init) p.editInit
    bank0 := if p.active then bank else p.bank0
    bank1 := if p.active then p.bank1 else bank
    edit := 1, pkg := some pkg, prepCrc := crc32 (editBytes pkg) }

theorem editPrepare_ends {d : Desc} {p : EditPackage} {s : State} (h : startsClean d 0x0C true s = true)
    (hp : hasPaired s = true ∨ p.tasks.all (fun r => !r.attr.paired) = true) (hm : prepareMode (begun d 0x0C s) = true)
    (hv : editValid d p s.proj.cur = true) (hf : editFits (begun d 0x0C s) p = true) :
    exec (.editPrepare d p) s = .next (ok d (crc32 (editBytes p)).toNat
      { begun d 0x0C s with proj := editPrepared p (begun d 0x0C s).proj }) := by
  have he : exec (.editPrepare d p) s = .next _ := congrArg Host.Outcome.next
    (hostCommand_clean h (pass4 (paired_check hp) hm hv hf))
  rw [takeImages_clean (malformed_of_startsClean h)] at he
  exact he

/-- An OK completion of a state begun with another project. -/
theorem ok_begun_proj (d : Desc) (op n : Nat) (p : ProjSt) (s : State) :
    ok d n { begun d op s with proj := p } = { s with
      host := (ok d n { begun d op s with proj := p }).host, hostMem := (ok d n { begun d op s with proj := p }).hostMem, proj := p } := by
  exact ok_frame ..

theorem editPrepare_acts {d : Desc} {p : EditPackage} {s : State} (h : startsClean d 0x0C true s = true)
    (hp : hasPaired s = true ∨ p.tasks.all (fun r => !r.attr.paired) = true) (hm : prepareMode (begun d 0x0C s) = true)
    (hv : editValid d p s.proj.cur = true) (hf : editFits (begun d 0x0C s) p = true) :
    ∃ u, exec (.editPrepare d p) s = .next u ∧ u.proj = editPrepared p s.proj ∧
      u = { s with host := u.host, hostMem := u.hostMem, proj := u.proj } := by
  have hproj : (ok d (crc32 (editBytes p)).toNat { begun d 0x0C s with proj := editPrepared p (begun d 0x0C s).proj }).proj =
      editPrepared p s.proj := by rw [ok_begun_proj]; rfl
  exact ⟨_, editPrepare_ends h hp hm hv hf, hproj, (ok_begun_proj ..).trans (by rw [hproj]; rfl)⟩

/-- PROFILE_LOAD puts its record into the place of its ID. -/
theorem profileLoad_acts {d : Desc} {buf : Bytes} {s : State} (h : startsClean d 0x0F true s = true) (hs : inStartUp s = false)
    (hb : reservedClear profileReserved buf = true) (hact : s.prof.active.toNat ≠ (profileOf buf).id.toNat)
    (ht : isTarget s (profileOf buf).id = false) (hl : d.bufLen.toNat = 32)
    (hk : pinsKeep (begun d 0x0F s) (fun t => (task s t).enabled)
      (profileOf buf :: (profiles s).filter (fun x => x.id != (profileOf buf).id)) = true) :
    exec (.profileLoad d buf) s = .next (ok d 0 { begun d 0x0F s with
      prof := { s.prof with table := Tab.set s.prof.table (profileOf buf).id.toNat (profileOf buf) } }) := by
  have hmode : (!inStartUp (begun d 0x0F s) && (begun d 0x0F s).prof.active.toNat != (profileOf buf).id.toNat &&
      !isTarget (begun d 0x0F s) (profileOf buf).id) = true := by
    simp [show inStartUp (begun d 0x0F s) = false from hs, hact, show isTarget (begun d 0x0F s) (profileOf buf).id = false from ht]
  exact congrArg Host.Outcome.next ((bufferCommand_clean h hb).trans
    (hostCommand_clean h (pass3 hmode (decide_eq_true hl) hk)))

/-- IHLOZ_SCHEDULE_LOAD puts its schedule into the place of its mode, or takes the mode's away. -/
theorem ihlozScheduleLoad_acts {d : Desc} {m : Byte} {buf : Bytes} {s : State} (h : startsClean d 0x1A true s = true) (hm : m.toNat < 8)
    (hb : reservedClear (scheduleReserved (fieldAt buf 4 2)) buf = true)
    (hu : ((synced s || s.ihloz.state = 2) && s.ihloz.mode.toNat = m.toNat) = false)
    (hv : ((s.prof.vote.map (fun v => decide (v.mode.toNat = m.toNat))).getD false) = false)
    (hl : d.bufLen.toNat = 16 + 8 * (schedOf (padTo d.bufLen.toNat buf)).slots.length)
    (hc : schedValid (begun d 0x1A s) m.toNat (schedOf (padTo d.bufLen.toNat buf)) = true) :
    exec (.ihlozScheduleLoad d m buf) s = .next (ok d 0 (refreshWhere (fun _ e => (e.map isIhloz).getD false)
      (modIhloz (fun n => { n with
        scheds := if (schedOf (padTo d.bufLen.toNat buf)).cycleUs = 0 then Tab.del n.scheds m.toNat
        else Tab.set n.scheds m.toNat (schedOf (padTo d.bufLen.toNat buf)) }) (begun d 0x1A s)))) :=
  congrArg Host.Outcome.next ((bufferCommand_clean h hb).trans
    (hostCommand_clean h (pass3 (Bool.and_eq_true_iff.mpr ⟨Bool.not_eq_true' _ |>.mpr hu, Bool.not_eq_true' _ |>.mpr hv⟩)
      (decide_eq_true hm) (Bool.and_eq_true_iff.mpr ⟨decide_eq_true hl, hc⟩))))

/-- Settles O18, one lemma for each command. -/
theorem loadingCommandsTakeTheirPackage : Obligations.LoadingCommandsTakeTheirPackage := by
  refine ⟨?_, ?_, ?_, ?_⟩
  · intro d p s h hp hm hv hf
    exact ⟨taskLoad_acts h hp hm hv hf, loaded_fields d p s⟩
  · intro d p s h hp hm hv hf
    obtain ⟨u, he, hu, hframe⟩ := editPrepare_acts h hp hm hv hf
    refine ⟨u, he, ?_⟩
    rw [hu]
    refine ⟨rfl, rfl, rfl, rfl, rfl, ?_, by rw [← hu]; exact hframe⟩
    split
    case isTrue ha => exact ⟨if_pos ha, if_pos ha⟩
    case isFalse ha => exact ⟨if_neg ha, if_neg ha⟩
  · intro d buf s h hs hb hact ht hl hk
    refine ⟨_, profileLoad_acts h hs hb hact ht hl hk, ?_⟩
    rw [ok_frame, begun_frame]
  · intro d m buf s h hm hb hu hv c hl hc
    have he := ihlozScheduleLoad_acts h hm hb hu hv hl hc
    refine ⟨fun h0 => ?_, fun h0 => ?_⟩
    · simp only [he, if_pos (show (schedOf (padTo d.bufLen.toNat buf)).cycleUs = 0 from h0)]
    · simp only [he, if_neg (show ¬ (schedOf (padTo d.bufLen.toNat buf)).cycleUs = 0 from h0), c]

/-! ### Edit and profile requests (R331, R332, R335) -/

/-- The project with an edit request pending. -/
def editPending (d : Desc) (rollback : Bool) (e : DWord) (w : Half) (s : State) : ProjSt :=
  { s.proj with boundary := none, pend := some (d.ring, rollback, e.toNat,
      (if e = 0 then nextTick s - 1 else e.toNat) + w.toNat), pendAt := s.time.task }

theorem editTake_acts {d : Desc} {op : Nat} {rollback : Bool} {e : DWord} {w : Half} {r : Option EditReport} {s : State}
    (h : startsClean d op true s = true) (hm : editMode (begun d op s) (if rollback then 2 else 1) r = true) (hw : w ≠ 0)
    (he : e = 0 ∨ nextTick s ≤ e.toNat) :
    editTake d op rollback e w r s = defer d op .edit { begun d op s with proj := editPending d rollback e w s } := by
  have hlate : ¬ (e.toNat != 0 && decide (e.toNat < nextTick (begun d op s))) = true := by
    have hn : nextTick (begun d op s) = nextTick s := rfl
    rw [hn]
    rcases he with rfl | he
    · simp
    · simp [he]
  have hzero : (e.toNat = 0) = (e = 0) := propext ⟨fun h => BitVec.eq_of_toNat_eq h, fun h => h ▸ rfl⟩
  refine (hostCommand_clean h (pass2 hm (bne_iff_ne.mpr hw))).trans ((if_neg hlate).trans ?_)
  simp only [hzero]
  rfl

theorem editTake_frame {d : Desc} {op : Nat} {rollback : Bool} {e : DWord} {w : Half} {s : State} :
    let u := defer d op .edit { begun d op s with proj := editPending d rollback e w s }
    (ring u d.ring).busy = some ⟨d.tag, op, d.bufAddr, d.bufLen, .edit, false, false⟩ ∧
      u = { s with host := u.host, proj := editPending d rollback e w s } :=
  ⟨ring_defer .., defer_frame ..⟩

/-- The checks of PROFILE_REQUEST. -/
theorem profileRequest_acts {d : Desc} {n c : Byte} {p : Profile} {s : State} (h : startsClean d 0x10 true s = true)
    (hm : s.mode.mode = mStop ∨ runs s = true) (hn : n.toNat < 8) (hc : c ≠ 0) (hp : Tab.find s.prof.table n.toNat = some p) :
    exec (.profileRequest d n c) s = .next (
      if isMember (begun d 0x10 s) then requestVote d p c.toNat (begun d 0x10 s)
      else if (begun d 0x10 s).prof.localSwitch.isSome then fail d stLate (begun d 0x10 s)
      else wantTarget (defer d 0x10 .profile
        { begun d 0x10 s with prof := { s.prof with localSwitch := some (p.id, d.ring) } })) := by
  have hmode : (decide (s.mode.mode = mStop) || runs s) = true := by simpa using hm
  have hrange : (decide (n.toNat < 8) && c != 0) = true :=
    Bool.and_eq_true_iff.mpr ⟨decide_eq_true hn, bne_iff_ne.mpr hc⟩
  have he : exec (.profileRequest d n c) s = .next _ :=
    congrArg Host.Outcome.next (hostCommand_clean h (pass2 hmode hrange))
  have hp' : Tab.find (begun d 0x10 s).prof.table n.toNat = some p := hp
  rw [hp'] at he
  exact he

/-- Settles O19. -/
theorem editAndProfileRequestsBecomePending : Obligations.EditAndProfileRequestsBecomePending := by
  refine ⟨?_, ?_, ?_, ?_⟩
  · intro d e w r s h hm hw he
    exact ⟨_, congrArg Host.Outcome.next (editTake_acts (rollback := false) h hm hw he), editTake_frame⟩
  · intro d e w r s h hm hw he
    exact ⟨_, congrArg Host.Outcome.next (editTake_acts (rollback := true) h hm hw he), editTake_frame⟩
  · intro d n c p s h hm hn hc hp hi hl
    have hi' : ¬ isMember (begun d 0x10 s) = true := Bool.not_eq_true _ ▸ hi
    have hl' : ¬ (begun d 0x10 s).prof.localSwitch.isSome = true := by
      rw [begun_prof, hl]
      decide
    rw [profileRequest_acts h hm hn hc hp, if_neg hi', if_neg hl']
  · intro d n c p s h hm hn hc hp hi
    rw [profileRequest_acts h hm hn hc hp, if_pos (show isMember (begun d 0x10 s) = true from hi)]

/-! ### Tables replaced by the host (R369, R398, R413) -/

/-- IMAGE_EXPORT_SET that passes its checks acts by its LENGTH. -/
theorem imageExportSet_acts {d : Desc} {region t image : Byte} {offset length : Half} {area : Word} {s : State}
    (h : startsClean d 0x0B false s = true) (hr : region.toNat < 64) (ht : t.toNat < 128) (hi : image.toNat < 2)
    (hl : length.toNat ≤ 4096) (ha : area.toNat % 8 = 0) (hx : area.toNat + length.toNat + 24 ≤ exportLimit s.host) :
    exec (.imageExportSet d region t image offset length area) s = .next (if length = 0 then
        ok d 0 { begun d 0x0B s with commit := { s.commit with exports := Tab.del s.commit.exports region.toNat } }
      else ok d 0 { begun d 0x0B s with commit := { s.commit with
        exports := Tab.set s.commit.exports region.toNat
          ⟨taskNo t.toNat, decide (image = 1), offset.toNat, length.toNat, area.toNat, none, none⟩ } }) := by
  have hc : (decide (region.toNat < 64) && decide (t.toNat < 128) && decide (image.toNat < 2) && decide (length.toNat ≤ 4096) &&
      decide (area.toNat % 8 = 0)) = true := by simp [hr, ht, hi, hl, ha]
  exact congrArg Host.Outcome.next ((hostCommand_clean h (pass1 hc)).trans (if_neg (Nat.not_lt.mpr hx)))

/-- An OK completion of a state begun with another commit state. -/
theorem ok_begun_commit (d : Desc) (op n : Nat) (c : CommitSt) (s : State) :
    ok d n { begun d op s with commit := c } = { s with
      host := (ok d n { begun d op s with commit := c }).host, hostMem := (ok d n { begun d op s with commit := c }).hostMem
      commit := c } :=
  ok_frame ..

theorem wardenWrite_acts {d : Desc} {first count : Half} {buf : Bytes} {s : State} (h : startsClean d 0x0A true s = true)
    (hr : d.ring = 0) (hb : reservedClear (wardenReserved first.toNat count.toNat) buf = true) (h1 : 1 ≤ count.toNat)
    (h2 : first.toNat + count.toNat ≤ 136) (hl : d.bufLen.toNat = 64 * count.toNat) :
    exec (.wardenWrite d first count buf) s = .next (ok d 0
      (raise 0x0000 0x0115 0 (first.toNat + 2 ^ 8 * count.toNat + 2 ^ 16 * (s.commit.last % 2 ^ 48))
        { begun d 0x0A s with chan := { s.chan with warden := (List.range count.toNat).foldl (fun w i =>
            Tab.set w (first.toNat + i) (padTo 64 (buf.drop (64 * i)))) s.chan.warden } })) := by
  have hc : (decide (1 ≤ count.toNat) && decide (first.toNat + count.toNat ≤ 136) && decide (d.bufLen.toNat = 64 * count.toNat)) = true := by
    simp [h1, h2, hl]
  exact congrArg Host.Outcome.next ((bufferCommand_clean h hb).trans (hostCommand_clean h (pass2 (decide_eq_true hr) hc)))

/-- One step of CHAN_SYNC: the entry c with the host's answer to its read. -/
def syncStep (ring c : Nat) (answer : Option Bytes) (p : State × Nat) : State × Nat :=
  let q := syncOne p.1 c answer
  (if p.1.host.chanCount.toNat ≤ c then q.1 else fetchResult 3 q.2 ring (entryAddr p.1 c) q.1, if q.2 then p.2 + 1 else p.2)

theorem chanSync_acts {d : Desc} {first count : Half} {reads : List (Nat × Option Bytes)} {s : State}
    (h : startsClean d 0x09 false s = true) (h1 : 1 ≤ count.toNat) (h2 : count.toNat ≤ 4096) (h3 : first.toNat + count.toNat ≤ 4096) :
    let r := (List.range count.toNat).foldl
      (fun p i => syncStep d.ring.val (first.toNat + i) ((Tab.find reads (first.toNat + i)).getD none) p) (begun d 0x09 s, 0)
    exec (.chanSync d first count reads) s = .next (ok d r.2 (refreshChans r.1)) := by
  have hc : (decide (1 ≤ count.toNat) && decide (count.toNat ≤ 4096) && decide (first.toNat + count.toNat ≤ 4096)) = true := by
    simp [h1, h2, h3]
  exact congrArg Host.Outcome.next (hostCommand_clean h (pass1 hc))

theorem syncStep_beyond {ring c n : Nat} {a : Option Bytes} {s : State} (h : s.host.chanCount.toNat ≤ c) :
    syncStep ring c a (s, n) = ({ s with chan := { s.chan with store := Tab.del s.chan.store c } }, n) := by
  simp [syncStep, syncOne, h]

/-- The state after one entry was read and replaced. -/
def entrySynced (c : Nat) (e : Bytes) (u : State) : State :=
  let v := replaceEntry c e { u with chan := { u.chan with hostLoads := satAdd 32 u.chan.hostLoads 1 } }
  { v with host := { v.host with failing := v.host.failing &&& ~~~(8#4) } }

theorem padTo_of_length {n : Nat} {e : Bytes} (h : e.length = n) : padTo n e = e := by
  simp [padTo, zeros, ← h]

theorem syncStep_read {ring c n : Nat} {e : Bytes} {s : State} (h : c < s.host.chanCount.toNat) (hl : e.length = 64)
    (hr : reservedClear (entryReserved e) e = true) : syncStep ring c (some e) (s, n) = (entrySynced c e s, n + 1) := by
  have hc := Nat.not_le.mpr h
  simp only [syncStep, syncOne, if_neg hc, padTo_of_length hl, takeEntry_clear hr]
  rfl

/-- A command that starts says nothing of the reads of channel entries. -/
theorem begun_failing (d : Desc) (op : Nat) (s : State) :
    (begun d op s).host.failing.getLsbD 3 = s.host.failing.getLsbD 3 := by
  simp only [begun, startNext, modRing, BitVec.getLsbD_and]
  split <;> simp

/-- A read of a channel entry that fails raises HOST_FETCH_FAIL where the last one did not fail. -/
theorem fetchResult_failed (ring addr : Nat) (s : State) :
    let t : State := { s with host := { s.host with failing := s.host.failing ||| 8#4 } }
    fetchResult 3 false ring addr s = if s.host.failing.getLsbD 3 then t
      else raise 0x3000 0x0304 0 (3 + 2 ^ 8 * ring + 2 ^ 16 * (addr % 2 ^ 48)) t := rfl

theorem syncStep_failed {ring c n : Nat} {s : State} (h : c < s.host.chanCount.toNat) :
    syncStep ring c none (s, n) = (fetchResult 3 false ring (entryAddr s c)
      { s with chan := { s.chan with fetchFails := satAdd 32 s.chan.fetchFails 1 } }, n) := by
  have hc := Nat.not_le.mpr h
  simp only [syncStep, syncOne, if_neg hc]
  rfl

/-- Entries at or above CHAN_COUNT leave the store and are not counted. -/
theorem sync_beyond {ring first : Nat} (f : Nat → Option Bytes) {l : List Nat} {s : State} (h : s.host.chanCount.toNat ≤ first) :
    l.foldl (fun p i => syncStep ring (first + i) (f i) p) (s, 0) =
      ({ s with chan := { s.chan with store := l.foldl (fun m i => Tab.del m (first + i)) s.chan.store } }, 0) := by
  induction l generalizing s with
  | nil => rfl
  | cons i l ih =>
    rw [List.foldl_cons, syncStep_beyond (Nat.le_add_right_of_le h), ih (by exact h)]
    rfl

/-- An uncached entry that is replaced leaves the others uncached and the host interface as it was. -/
theorem replaceEntry_uncached {c : Nat} {e : Bytes} {u : State} (h : isPinned u c = false) :
    (replaceEntry c e u).host = u.host ∧ (replaceEntry c e u).chan.pinned = u.chan.pinned := by
  have hp : ¬ isPinned u c = true := Bool.not_eq_true _ ▸ h
  unfold replaceEntry
  dsimp only
  rw [if_neg hp, if_neg hp]
  exact ⟨rfl, rfl⟩

theorem entrySynced_uncached {c : Nat} {e : Bytes} {u : State} (h : isPinned u c = false) :
    (entrySynced c e u).host.chanCount = u.host.chanCount ∧ (entrySynced c e u).chan.pinned = u.chan.pinned := by
  obtain ⟨hh, hp⟩ := replaceEntry_uncached (e := e)
    (u := { u with chan := { u.chan with hostLoads := satAdd 32 u.chan.hostLoads 1 } }) h
  exact ⟨(congrArg HostIf.chanCount hh).trans rfl, hp⟩

/-- Uncached entries whose reads all answer are replaced one after another and counted. -/
theorem sync_reads {ring first n : Nat} {e : Nat → Bytes} {l : List Nat} {s : State}
    (hc : ∀ i ∈ l, first + i < s.host.chanCount.toNat)
    (he : ∀ i ∈ l, (e i).length = 64 ∧ reservedClear (entryReserved (e i)) (e i) = true ∧ isPinned s (first + i) = false) :
    l.foldl (fun p i => syncStep ring (first + i) (some (e i)) p) (s, n) =
      (l.foldl (fun u i => entrySynced (first + i) (e i) u) s, n + l.length) := by
  induction l generalizing s n with
  | nil => rfl
  | cons i l ih =>
    obtain ⟨hl, hr, hp⟩ := he i List.mem_cons_self
    obtain ⟨hcount, hpin⟩ := entrySynced_uncached (e := e i) hp
    rw [List.foldl_cons, syncStep_read (hc i List.mem_cons_self) hl hr, ih, List.foldl_cons, List.length_cons, Nat.add_assoc, Nat.add_comm 1]
    · intro j hj
      rw [hcount]
      exact hc j (List.mem_cons_of_mem _ hj)
    · intro j hj
      rw [isPinned, hpin]
      exact he j (List.mem_cons_of_mem _ hj)

/-- The answers of consecutive reads, looked up by their entries. -/
theorem find_reads {first i : Nat} {e : Nat → Bytes} {l : List Nat} (h : i ∈ l) :
    Tab.find (l.map (fun i => (first + i, some (e i)))) (first + i) = some (some (e i)) := by
  induction l with
  | nil => simp at h
  | cons j l ih =>
    simp only [List.map_cons, Tab.find]
    split
    case isTrue hj => rw [Nat.add_left_cancel hj]
    case isFalse hj =>
      rcases List.mem_cons.mp h with rfl | h
      · exact absurd rfl hj
      · exact ih h

theorem chanSync_replaces {d : Desc} {first count : Half} {e : Nat → Bytes} {s : State} (h : startsClean d 0x09 false s = true)
    (h1 : 1 ≤ count.toNat) (h2 : count.toNat ≤ 4096) (h3 : first.toNat + count.toNat ≤ 4096)
    (h4 : first.toNat + count.toNat ≤ s.host.chanCount.toNat)
    (he : ∀ i, i < count.toNat → (e i).length = 64 ∧ reservedClear (entryReserved (e i)) (e i) = true ∧
      isPinned s (first.toNat + i) = false) :
    exec (.chanSync d first count ((List.range count.toNat).map (fun i => (first.toNat + i, some (e i))))) s =
      .next (ok d count.toNat (refreshChans ((List.range count.toNat).foldl (fun u i => entrySynced (first.toNat + i) (e i) u)
        (begun d 0x09 s)))) := by
  have hreads : ∀ p : State × Nat, ∀ i ∈ List.range count.toNat,
      syncStep d.ring.val (first.toNat + i)
        ((Tab.find ((List.range count.toNat).map (fun i => (first.toNat + i, some (e i)))) (first.toNat + i)).getD none) p =
      syncStep d.ring.val (first.toNat + i) (some (e i)) p := fun p i hi => by rw [find_reads hi]; rfl
  rw [chanSync_acts h h1 h2 h3, List.foldl_ext _ _ _ hreads, sync_reads, List.length_range, Nat.zero_add]
  · intro i hi
    have := List.mem_range.mp hi
    show first.toNat + i < s.host.chanCount.toNat
    omega
  · exact fun i hi => he i (List.mem_range.mp hi)

/-- CHAN_SYNC of one entry is one step. -/
theorem chanSync_one {d : Desc} {first : Half} {a : Option Bytes} {s : State} (h : startsClean d 0x09 false s = true)
    (hf : first.toNat < 4096) :
    let r := syncStep d.ring.val first.toNat a (begun d 0x09 s, 0)
    exec (.chanSync d first 1 [(first.toNat, a)]) s = .next (ok d r.2 (refreshChans r.1)) := by
  have he := chanSync_acts (reads := [(first.toNat, a)]) (first := first) (count := 1) h (by decide) (by decide) hf
  have hfind : Tab.find [(first.toNat, a)] first.toNat = some a := if_pos rfl
  have hl : List.range (1 : Half).toNat = [0] := rfl
  simp only [hl, List.foldl_cons, List.foldl_nil, Nat.add_zero, hfind, Option.getD_some] at he
  exact he

/-- Settles O20, by the steps of CHAN_SYNC. -/
theorem tableCommandsReplaceTheirEntries : Obligations.TableCommandsReplaceTheirEntries := by
  refine ⟨?_, ?_, ?_, ?_, ?_, ?_, ?_⟩
  · intro d first count buf s h hr hb h1 h2 hl
    exact wardenWrite_acts h hr hb h1 h2 hl
  · intro d region t image offset length area s h hr ht hi h0 hl ha hx
    have hne : ¬ length = 0 := by rintro rfl; exact absurd h0 (by decide)
    exact ⟨_, (imageExportSet_acts h hr ht hi hl ha hx).trans (by rw [if_neg hne]), ok_begun_commit ..⟩
  · intro d region t image offset area s h hr ht hi ha hx
    exact ⟨_, (imageExportSet_acts (length := 0) h hr ht hi (by decide) ha hx).trans (by rw [if_pos rfl]), ok_begun_commit ..⟩
  · intro d first count reads s h h1 h2 h3 h4
    rw [chanSync_acts h h1 h2 h3, sync_beyond _ (show (begun d 0x09 s).host.chanCount.toNat ≤ first.toNat from h4)]
    rfl
  · intro d first count e s h h1 h2 h3 h4 he
    exact chanSync_replaces h h1 h2 h3 h4 he
  · intro d first e s h hf hc hl hr
    rw [chanSync_one h hf, syncStep_read (s := begun d 0x09 s) hc hl hr]
    rfl
  · intro d first s h hf hc
    rw [chanSync_one h hf, syncStep_failed (s := begun d 0x09 s) hc, fetchResult_failed]
    refine congrArg (fun u => Host.Outcome.next (ok d 0 (refreshChans u))) (if_congr ?_ rfl rfl)
    exact Iff.of_eq (congrArg (· = true) (begun_failing d 0x09 s))

end Sys2Proof.Machine
/-! PROOFS. CLOCK_ADJUST, the sending commands, firmware and redundancy commands (O21, O22, O23). -/

namespace Sys2Proof.Machine

/-! ### The local clock (R549, R550) -/

theorem ethStart_time (p : Fin 2) (s : State) : (ethStart p s).time = s.time := by
  unfold ethStart
  split
  · rfl
  · dsimp only [modEth_time]
    unfold dropUnsent
    split <;> rfl

theorem ethStartAll_time (s : State) : (ethStartAll s).time = s.time :=
  List.foldlRecOn (motive := fun x : State => x.time = s.time) _ _ rfl fun x hx p _ => (ethStart_time p x).trans hx

theorem stepClock_time (v : Nat) (s : State) :
    (stepClock v s).time = { s.time with lc := v % lcWrap, steps := satAdd 32 s.time.steps 1 } := by
  unfold stepClock
  dsimp only
  rw [ethStartAll_time, raise_time]

/-- Settles O21. -/
theorem clockAdjustSetsTheClock : Obligations.ClockAdjustSetsTheClock := by
  refine ⟨?_, ?_, ?_, ?_⟩
  · intro d sec ns s h hm hn
    exact congrArg Host.Outcome.next (hostCommand_clean h (pass2 hm (decide_eq_true hn)))
  · intro d ns s h hm h0 hn
    have hc : (decide (0 ≤ stepped (begun d 0x16 s) ns) && decide (stepped (begun d 0x16 s) ns < 2 ^ 48 * 1000000000)) = true :=
      Bool.and_eq_true_iff.mpr ⟨decide_eq_true h0, decide_eq_true hn⟩
    exact congrArg Host.Outcome.next (hostCommand_clean h (pass2 hm hc))
  · intro d f s h hm
    exact congrArg Host.Outcome.next (hostCommand_clean h (pass1 hm))
  · intro v s
    rw [stepClock_time]
    exact ⟨rfl, rfl⟩

/-! ### Sending commands (R455, R515 to R520, R538) -/

theorem passCons {a : Bool} {p : Byte} {l : List (Bool × Byte)} (ha : a = true) (hl : ∀ x ∈ l, x.1 = true) :
    ∀ x ∈ (a, p) :: l, x.1 = true := List.forall_mem_cons.mpr ⟨ha, hl⟩

/-- A number that a byte of a descriptor holds. -/
theorem toNat_byte {n : Nat} (c : Fin n) (h : n ≤ 256) : (BitVec.ofNat 8 c.val).toNat = c.val := by
  rw [BitVec.toNat_ofNat]
  exact Nat.mod_eq_of_lt (Nat.lt_of_lt_of_le c.isLt h)

/-- A case split on a number that a byte holds takes the case of that number. -/
theorem dite_byte {n : Nat} {α : Type} {c : Fin n} {f : Fin n → α} {z : α} (hn : n ≤ 256) :
    (if h : (BitVec.ofNat 8 c.val).toNat < n then f ⟨(BitVec.ofNat 8 c.val).toNat, h⟩ else z) = f c := by
  have hc := toNat_byte c hn
  have hlt : (BitVec.ofNat 8 c.val).toNat < n := by
    rw [hc]
    exact c.isLt
  rw [dif_pos hlt]
  exact congrArg f (Fin.ext hc)

/-- CAN_SEND of a valid frame loads a free buffer. -/
theorem canSend_loads {d : Desc} {c : Fin 4} {b : Fin 3} {one : Bool} {buf : Bytes} {s : State} (h : startsClean d 0x17 false s = true)
    (hb : reservedClear canReserved buf = true) (ha : canAbsent (begun d 0x17 s) (BitVec.ofNat 8 c.val) = false)
    (hs : inStartUp s = false) (hl : d.bufLen.toNat = 80) (hon : canFlag s c 0 = true) (hoff : canFlag s c 4 = false)
    (hid : (frameOf buf).ide = true ∨ (frameOf buf).identifier.toNat < 2048) (hrtr : ((frameOf buf).rtr && (frameOf buf).fdf) = false)
    (hbrs : (frameOf buf).fdf = true ∨ (frameOf buf).brs = false) (hfd : (frameOf buf).fdf = false ∨ canFlag s c 1 = true)
    (hfree : (s.can[c].bufs[b]).frame = none) (hch : b = 2 → servesChannels s c = false) :
    exec (.canSend d (BitVec.ofNat 8 c.val) (BitVec.ofNat 8 b.val) one buf) s = .next (ok d 0 (canLoaded c (modBuf c b
      (fun _ => { CanBuf.zero with frame := some (frameOf buf), everLoaded := true, oneShot := one }) (begun d 0x17 s)))) := by
  have hc := toNat_byte c (by decide)
  have hb' := toNat_byte b (by decide)
  have hflag : (canFlag (begun d 0x17 s) c 0 && !canFlag (begun d 0x17 s) c 4) = true :=
    Bool.and_eq_true_iff.mpr ⟨hon, Bool.not_eq_true' _ |>.mpr hoff⟩
  have hfd' : (!(frameOf buf).fdf || canFlag (begun d 0x17 s) c 1) = true := by
    rw [Bool.or_eq_true, Bool.not_eq_true']
    exact hfd
  have hroom : ¬ ((((begun d 0x17 s).can[c].bufs[b]).frame.isSome || (decide (b = 2) && servesChannels (begun d 0x17 s) c)) = true) := by
    have hch' : (decide (b = 2) && servesChannels (begun d 0x17 s) c) = false := by
      rw [Bool.and_eq_false_iff, decide_eq_false_iff_not]
      exact (Decidable.em (b = 2)).elim (fun h => .inr (hch h)) .inl
    rw [hch', show ((begun d 0x17 s).can[c].bufs[b]).frame = none from hfree]
    decide
  refine congrArg Host.Outcome.next ((bufferCommand_clean h hb).trans ((hostCommand_clean h ?_).trans ?_))
  · exact passCons (Bool.not_eq_true' _ |>.mpr ha) (passCons (Bool.not_eq_true' _ |>.mpr hs)
      (passCons (by simp [hc, hb', c.isLt, b.isLt]) (passCons (decide_eq_true hl)
      (passCons ((dite_byte (f := fun c => canFlag (begun d 0x17 s) c 0 && !canFlag (begun d 0x17 s) c 4) (by decide)).trans hflag)
      (passCons (by simpa using hid) (passCons (by rw [hrtr]; rfl) (passCons (by simpa using hbrs)
      (pass1 ((dite_byte (f := fun c => !(frameOf buf).fdf || canFlag (begun d 0x17 s) c 1) (by decide)).trans hfd')))))))))
  · dsimp only
    simp only [hc, hb', Fin.eta, dif_pos c.isLt, dif_pos b.isLt]
    exact if_neg hroom

/-- What CAN_CANCEL does with buffer b of controller c. -/
def canCancelBody (d : Desc) (c : Fin 4) (b : Fin 3) (s : State) : State :=
  let x := s.can[c].bufs[b]
  if x.frame.isNone then (if x.everLoaded then fail d stLate s else ok d 0 s)
  else
    let r := if s.can[c].onBus = some b then hasStarted c s else (false, s)
    let s := r.2
    if r.1 then defer d 0x18 (.canCancel c b) (modBuf c b (fun x => { x with cancel := true }) s)
    else
      let s := settle c b 1 0 s
      ok d 0 (if s.can[c].onBus.isNone then canChoose c s else s)

theorem exec_canCancel_acts {d : Desc} {c : Fin 4} {b : Fin 3} {s : State} (h : startsClean d 0x18 false s = true)
    (ha : canAbsent (begun d 0x18 s) (BitVec.ofNat 8 c.val) = false) (hs : inStartUp s = false) :
    exec (.canCancel d (BitVec.ofNat 8 c.val) (BitVec.ofNat 8 b.val)) s = .next (canCancelBody d c b (begun d 0x18 s)) := by
  have hc := toNat_byte c (by decide)
  have hb := toNat_byte b (by decide)
  refine congrArg Host.Outcome.next ((hostCommand_clean h ?_).trans ?_)
  · exact pass3 (Bool.not_eq_true' _ |>.mpr ha) (Bool.not_eq_true' _ |>.mpr hs) (by simp [hc, hb, c.isLt, b.isLt])
  · dsimp only
    simp only [hc, hb, Fin.eta, dif_pos c.isLt, dif_pos b.isLt]
    rfl

theorem canCancelBody_empty {d : Desc} {c : Fin 4} {b : Fin 3} {s : State} (h : (s.can[c].bufs[b]).frame = none) :
    canCancelBody d c b s = complete d.ring d.tag (if (s.can[c].bufs[b]).everLoaded then 5 else 0) 0 s := by
  unfold canCancelBody
  dsimp only
  rw [h, Option.isNone_none, if_pos rfl]
  split <;> rfl

theorem canCancelBody_settles {d : Desc} {c : Fin 4} {b : Fin 3} {s : State} (h : (s.can[c].bufs[b]).frame ≠ none)
    (hbus : s.can[c].onBus ≠ some b ∨ s.can[c].lost = true ∧ s.can[c].started = false) :
    canCancelBody d c b s = ok d 0 (if (settle c b 1 0 s).can[c].onBus.isNone then canChoose c (settle c b 1 0 s)
      else settle c b 1 0 s) := by
  have hn : ¬ (s.can[c].bufs[b]).frame.isNone = true := by rwa [Option.isNone_iff_eq_none]
  have hr : (if s.can[c].onBus = some b then hasStarted c s else (false, s)) = (false, s) := by
    rcases hbus with hbus | ⟨hl, hs⟩
    · exact if_neg hbus
    · split
      · rw [hasStarted, hl, Bool.or_true, if_pos rfl, hs]
      · rfl
  unfold canCancelBody
  dsimp only
  rw [if_neg hn, hr, if_neg Bool.false_ne_true]

theorem canCancelBody_waits {d : Desc} {c : Fin 4} {b : Fin 3} {s : State} (h : (s.can[c].bufs[b]).frame ≠ none)
    (hbus : s.can[c].onBus = some b) (hs : s.can[c].started = true) :
    canCancelBody d c b s = defer d 0x18 (.canCancel c b) (modBuf c b (fun x => { x with cancel := true }) s) := by
  have hn : ¬ (s.can[c].bufs[b]).frame.isNone = true := by rwa [Option.isNone_iff_eq_none]
  have hr : hasStarted c s = (true, s) := by
    rw [hasStarted, hs, Bool.or_true, Bool.true_or, if_pos rfl]
  unfold canCancelBody
  dsimp only
  rw [if_neg hn, if_pos hbus, hr, if_pos rfl]

theorem ethSend_queues {d : Desc} {p : Fin 2} {q : Fin 8} {stamp : Bool} {buf : Bytes} {s : State} (h : startsClean d 0x19 false s = true)
    (hb : reservedClear ethReserved buf = true) (h14 : 14 ≤ fieldAt buf 0 2) (h1518 : fieldAt buf 0 2 ≤ 1518)
    (hl : 16 + fieldAt buf 0 2 ≤ d.bufLen.toNat) (hins : bitsOf (fieldAt buf 2 1) 1 0 = 0) (hfix : bitAt buf 2 2 = false)
    (hen : ethEnabled s p.val = true) :
    exec (.ethSend d (BitVec.ofNat 8 p.val) (BitVec.ofNat 8 q.val) false stamp 0 buf) s =
      .next (enqueueFrame p q
        { bytes := (padTo (16 + fieldAt buf 0 2) buf).drop 16, launch := none, insert_ := 0, udpFix := false
          ptpOffset := fieldAt buf 4 2, fixOffset := fieldAt buf 6 2, ingress := BitVec.ofNat 64 (fieldAt buf 8 8)
          ring := some d.ring, since := s.time.net, chanKey := none } (defer d 0x19 (.ethSend p stamp) (begun d 0x19 s))) := by
  have hp := toNat_byte p (by decide)
  have hq := toNat_byte q (by decide)
  have hen' : ethEnabled (begun d 0x19 s) (BitVec.ofNat 8 p.val).toNat = true := by rw [hp]; exact hen
  refine congrArg Host.Outcome.next ((bufferCommand_clean h hb).trans ((hostCommand_clean h ?_).trans ?_))
  · exact passCons (by simp [hp, hq, p.isLt, q.isLt]) (passCons (decide_eq_true hl) (passCons (by simp [h14, h1518, hins])
      (pass4 (by simp [hins]) (by simp [hfix]) hen' rfl)))
  · dsimp only
    simp only [hp, hq, Fin.eta, dif_pos p.isLt, dif_pos q.isLt, hins, hfix]
    rfl

theorem vmod_fin {α : Type} {n : Nat} (v : Vector α n) (i : Fin n) (f : α → α) : vmod v i.val f = v.set i (f v[i]) :=
  dif_pos i.isLt

theorem hartTransact_acts {d : Desc} {n : Fin 32} {retries : Byte} {buf : Bytes} {s : State} (h : startsClean d 0x1B false s = true)
    (hb : reservedClear hartReserved buf = true) (hloop : hasLoop s = true) (hs : inStartUp s = false) (hr : retries.toNat ≤ 7)
    (hon : hartOn (begun d 0x1B s) n.val = true) (h4 : 4 ≤ fieldAt buf 0 2) (h263 : fieldAt buf 0 2 ≤ 263)
    (h5 : 5 ≤ fieldAt buf 2 1) (h20 : fieldAt buf 2 1 ≤ 20) (hq : requestGood (fieldAt buf 0 2) (hartRequest buf) = true)
    (hl : 272 ≤ d.bufLen.toNat) (hfree : (s.loops[n]).hart = none) :
    exec (.hartTransact d (BitVec.ofNat 16 (128 + n.val)) retries buf) s = .next (defer d 0x1B (.hart n)
      (modLoop n.val (fun l => { l with hart := some ⟨d.ring, hartRequest buf, fieldAt buf 2 1, retries.toNat, 0, false⟩ })
        (begun d 0x1B s))) := by
  have hn : (BitVec.ofNat 16 (128 + n.val)).toNat = 128 + n.val := by
    rw [BitVec.toNat_ofNat]
    omega
  have hsub : 128 + n.val - 128 = n.val := by omega
  have hfree' : (((begun d 0x1B s).loops[n.val]?).map (fun l => l.hart.isNone)).getD false = true := by
    rw [Vector.getElem?_eq_getElem n.isLt, Option.map_some, show ((begun d 0x1B s).loops[n.val]).hart = none from hfree]
    rfl
  refine congrArg Host.Outcome.next ((bufferCommand_clean h hb).trans ((hostCommand_clean h ?_).trans ?_))
  · simp only [hn, hsub]
    exact passCons hloop (passCons (Bool.not_eq_true' _ |>.mpr hs) (passCons (by simp [hr]; omega) (passCons hon
      (pass4 (by simp [h4, h263, h5, h20]) hq (decide_eq_true hl) hfree'))))
  · simp only [hn, hsub, dif_pos n.isLt, Fin.eta]

/-- Settles O22, one lemma for each sender. -/
theorem sendingCommandsTakeTheirFrame : Obligations.SendingCommandsTakeTheirFrame := by
  refine ⟨?_, ?_, ?_, ?_, ?_, ?_⟩
  · intro d c b one buf s h hb ha hs hl hon hoff hid hrtr hbrs hfd hfree hch
    exact canSend_loads h hb ha hs hl hon hoff hid hrtr hbrs hfd hfree hch
  · intro d c b s h ha hs hfree
    exact (exec_canCancel_acts h ha hs).trans (congrArg Host.Outcome.next (canCancelBody_empty (s := begun d 0x18 s) hfree))
  · intro d c b s h ha hs hfull hbus
    exact (exec_canCancel_acts h ha hs).trans (congrArg Host.Outcome.next (canCancelBody_settles (s := begun d 0x18 s) hfull hbus))
  · intro d c b s h ha hs hfull hbus hst
    refine ⟨_, (exec_canCancel_acts h ha hs).trans
      (congrArg Host.Outcome.next (canCancelBody_waits (s := begun d 0x18 s) hfull hbus hst)), ring_defer .., ?_, defer_frame ..⟩
    simp [defer, modBuf, modCan, modRing]
  · intro d p q stamp buf s h hb h14 h1518 hl hins hfix hen
    exact ethSend_queues h hb h14 h1518 hl hins hfix hen
  · intro d n retries buf s h hb hloop hs hr hon h4 h263 h5 h20 hq hl hfree
    refine ⟨_, hartTransact_acts h hb hloop hs hr hon h4 h263 h5 h20 hq hl hfree, ?_, ring_defer .., ?_⟩
    · simp [defer, modLoop, modRing, vmod_fin]
    · rw [defer_frame]
      simp [modLoop, vmod_fin]

end Sys2Proof.Machine
/-! PROOFS. FW_RECEIVE, FW_FORWARD, FW_ACTIVATE and REDUNDANCY_CONTROL (O23). -/

namespace Sys2Proof.Machine

/-- The mode check of FW_RECEIVE: no start-up, no transfer, no activation. -/
theorem receiveMode {d : Desc} {s : State} (hs : inStartUp s = false) (hx : s.fw.xfers = []) (ha : activating (begun d 0x1C s) = false) :
    (!inStartUp (begun d 0x1C s) && (begun d 0x1C s).fw.xfers.isEmpty && !activating (begun d 0x1C s)) = true := by
  rw [begun_fw, hx, ha, show inStartUp (begun d 0x1C s) = false from hs]
  rfl

theorem fwReceive_host {d : Desc} {port : Byte} {image : Bytes} {s : State} (h : startsClean d 0x1C false s = true)
    (hs : inStartUp s = false) (hx : s.fw.xfers = []) (ha : activating (begun d 0x1C s) = false) (hl : d.bufLen.toNat ≤ 2 ^ 24)
    (hi : reservedClear imageReserved image = true) :
    exec (.fwReceive d 0 port d.bufLen image) s = .next (setXfer d.ring
      (newXfer false true false 0 0 3 d.bufLen.toNat (defer d 0x1C .fwReceive (begun d 0x1C s)))
      (progressAll d.bufLen.toNat (modSlot (!s.fw.active) (fun _ =>
          { state := 1, image := Mem.putAll [] 0 (padTo d.bufLen.toNat image), length := d.bufLen.toNat })
        (defer d 0x1C .fwReceive (begun d 0x1C s))))) :=
  congrArg Host.Outcome.next ((bufferCommand_clean h hi).trans ((hostCommand_clean h
    (pass3 (receiveMode hs hx ha) (by simp) (decide_eq_true hl))).trans (if_pos rfl)))

theorem fwReceive_node {d : Desc} {source port : Byte} {n : Word} {image : Bytes} {s : State} (h : startsClean d 0x1C false s = true)
    (hs : inStartUp s = false) (hx : s.fw.xfers = []) (ha : activating (begun d 0x1C s) = false) (h0 : source ≠ 0)
    (hp : pathGood source.toNat port.toNat = true) (hl : n.toNat ≤ 2 ^ 24) :
    exec (.fwReceive d source port n image) s = .next (setXfer d.ring
      (newXfer false false (decide (source = 1)) port.toNat 0 0 0 (defer d 0x1C .fwReceive (begun d 0x1C s)))
      (defer d 0x1C .fwReceive (begun d 0x1C s))) := by
  have hi : reservedClear (if source = 0 then imageReserved else []) image = true := by
    rw [if_neg h0]
    rfl
  exact congrArg Host.Outcome.next ((bufferCommand_clean h hi).trans ((hostCommand_clean h
    (pass3 (receiveMode hs hx ha) (by rw [if_neg h0, hp]) (decide_eq_true hl))).trans (if_neg h0)))

theorem fwForward_offers {d : Desc} {path port : Byte} {s : State} (h : startsClean d 0x1D false s = true)
    (hr : receiving (begun d 0x1D s) = false) (ha : activating (begun d 0x1D s) = false)
    (hp : pathGood path.toNat port.toNat = true) (hv : (fwInactive s).state = 2) :
    exec (.fwForward d path port) s =
      .next (sendMessage d.ring
        (newXfer true false (decide (path = 1)) port.toNat (freshId (begun d 0x1D s)) 0 (fwInactive s).length (begun d 0x1D s))
        1 (fwInactive s).length 0 (Mem.read (fwInactive s).image 0 24)
        { defer d 0x1D .fwForward (begun d 0x1D s) with
          fw := { s.fw with nextId := BitVec.ofNat 16 (freshId (begun d 0x1D s) + 1) } }) := by
  have hv' : (fwInactive (begun d 0x1D s)).state = 2 := hv
  exact congrArg Host.Outcome.next (hostCommand_clean h
    (pass2 (by rw [hr, ha]; rfl) (Bool.and_eq_true_iff.mpr ⟨hp, decide_eq_true hv'⟩)))

/-- A state that differs from another in its host interface alone, with another mode state. -/
theorem hostFrame_mode {t s : State} (h : t = { s with host := t.host }) (m : ModeSt) :
    { t with mode := m } = { s with host := t.host, mode := m } := by
  rw [h]

theorem hostFrame_host {t s : State} (h : t = { s with host := t.host }) (x : HostIf) : { t with host := x } = { s with host := x } := by
  rw [h]

theorem defer_begun_frame (d : Desc) (op : Nat) (w : Wait) (s : State) :
    defer d op w (begun d op s) = { s with host := (defer d op w (begun d op s)).host } :=
  (defer_frame d op w (begun d op s)).trans (hostFrame_host (begun_frame d op s) _)

/-- A command that goes on with another mode state. -/
theorem paused_frame (d : Desc) (op : Nat) (w : Wait) (m : ModeSt) (s : State) :
    let u := { defer d op w (begun d op s) with mode := m }
    (ring u d.ring).busy = some ⟨d.tag, op, d.bufAddr, d.bufLen, w, false, false⟩ ∧ u = { s with host := u.host, mode := m } := by
  intro u
  have h : ring u d.ring = ring (defer d op w (begun d op s)) d.ring := by simp only [u, ring]
  exact ⟨by rw [h, ring_defer], hostFrame_mode (defer_begun_frame d op w s) m⟩

theorem fwActivate_pauses {d : Desc} {s : State} (h : startsClean d 0x1E true s = true) (hm : activateMode (begun d 0x1E s) = true)
    (hv : (fwInactive s).state = 2) :
    exec (.fwActivate d) s =
      .next { defer d 0x1E .fwActivate (begun d 0x1E s) with mode := { s.mode with pauseAt := some (nowUsUp s + 1000) } } := by
  have hv' : (fwInactive (begun d 0x1E s)).state = 2 := hv
  exact congrArg Host.Outcome.next (hostCommand_clean h (pass2 hm (decide_eq_true hv')))

theorem handover_noted {d : Desc} {s : State} (h : startsClean d 0x1F true s = true) (ht : hasTelith s = true) (hon : telithOn s = true)
    (hact : isActive s.pair.role s.mode.mode = true) (htr : partnerTracks s = true) (hcur : s.pair.current = true)
    (hnone : s.pair.handover = none) :
    exec (.redundancyControlHandover d) s =
      .next (defer d 0x1F .handover (modPair (fun p => { p with handover := some none }) (begun d 0x1F s))) := by
  have hmode : (telithOn (begun d 0x1F s) && isActive (begun d 0x1F s).pair.role (begun d 0x1F s).mode.mode &&
      partnerTracks (begun d 0x1F s) && (begun d 0x1F s).pair.current) = true :=
    Bool.and_eq_true_iff.mpr ⟨Bool.and_eq_true_iff.mpr ⟨Bool.and_eq_true_iff.mpr ⟨hon, hact⟩, htr⟩, hcur⟩
  have he : exec (.redundancyControlHandover d) s = .next _ := congrArg Host.Outcome.next (hostCommand_clean h (pass2 ht hmode))
  simp only [modPair, begun_pair, hnone] at he
  rw [he]
  simp only [modPair, begun_pair]

/-- Settles O23, one lemma for each command that begins work. -/
theorem firmwareAndRedundancyCommandsBegin : Obligations.FirmwareAndRedundancyCommandsBegin := by
  refine ⟨?_, ?_, ?_, ?_, ?_, ?_⟩
  · intro d port image s h hs hx ha hl hi
    exact fwReceive_host h hs hx ha hl hi
  · intro d source port n image s h hs hx ha h0 hp hl
    exact fwReceive_node h hs hx ha h0 hp hl
  · intro d path port s h hr ha hp hv
    exact fwForward_offers h hr ha hp hv
  · intro d s h hm hv
    exact ⟨_, fwActivate_pauses h hm hv, paused_frame d 0x1E .fwActivate _ s⟩
  · intro d s h ht hon hact htr hcur hnone
    exact ⟨_, handover_noted h ht hon hact htr hcur hnone, ring_defer .., defer_frame ..⟩
  · intro d s h ht hon
    exact congrArg Host.Outcome.next (hostCommand_clean h (pass2 ht hon))

end Sys2Proof.Machine
/-! PROOFS. Doorbell line, echo line, messages, posted records, link events and resets (O25, O26). -/

namespace Sys2Proof.Machine

/-! ### What a posted record changes of the host interface -/

/-- The host interface without what posting an event record changes. -/
def unposted (h : HostIf) : HostIf := { h with evtProd := 0, evtFresh := false, echoDue := false, evtLost := 0 }

theorem hostWrite_host_same (a : Nat) (b : Bytes) (s : State) : (hostWrite a b s).host = s.host := by rw [hostWrite_frame]

theorem postEvent_unposted (e : EventRec) (s : State) : unposted (postEvent e s).host = unposted s.host := by
  unfold postEvent
  split
  · rfl
  · split
    · rw [hostWrite_host_same]
      rfl
    · rfl

theorem repost_unposted (l : List (Nat × EventRec)) (s : State) : unposted (repost l s).host = unposted s.host :=
  List.foldlRecOn (motive := fun x : State => unposted x.host = unposted s.host) _ _ rfl fun _ hx _ _ => (postEvent_unposted ..).trans hx

theorem raiseFold_host_same (o : Nat) (now : Word) (commit data : Nat) (s : State) :
    (raiseFold o now commit data s).host = s.host ∧ (raiseFold o now commit data s).hostMem = s.hostMem := by
  unfold raiseFold
  dsimp only
  split <;> exact ⟨rfl, rfl⟩

theorem raise_unposted (src code commit data : Nat) (s : State) : unposted (raise src code commit data s).host = unposted s.host := by
  unfold raise
  dsimp only
  split
  · rw [(raiseFold_host_same ..).1]
  · unfold raiseNew
    refine (postEvent_unposted ..).trans ?_
    dsimp only
    split
    · exact repost_unposted ..
    · rfl

theorem raiseLost_unposted (n : Nat) (s : State) : unposted (raiseLost n s).host = unposted s.host := by
  unfold raiseLost
  split
  · dsimp only
    split
    · exact (repost_unposted ..).trans (by rw [(raiseFold_host_same ..).1])
    · rw [(raiseFold_host_same ..).1]
  · exact (repost_unposted ..).trans (postEvent_unposted ..)

/-! ### Events while the host interface is off -/

theorem postEvent_off {e : EventRec} {s : State} (h : s.host.enable = false) : postEvent e s = s :=
  if_pos (by rw [h]; rfl)

theorem repost_off {l : List (Nat × EventRec)} {s : State} (h : s.host.enable = false) :
    (repost l s).host = s.host ∧ (repost l s).hostMem = s.hostMem := by
  refine List.foldlRecOn (motive := fun x : State => x.host = s.host ∧ x.hostMem = s.hostMem) _ _ ⟨rfl, rfl⟩ ?_
  intro x ⟨hh, hm⟩ p _
  rw [postEvent_off (by rw [hh]; exact h)]
  exact ⟨hh, hm⟩

/-- While the host interface is off an event is recorded and nothing is posted. -/
theorem raise_off {src code commit data : Nat} {s : State} (h : s.host.enable = false) :
    (raise src code commit data s).host = s.host ∧ (raise src code commit data s).hostMem = s.hostMem := by
  unfold raise
  dsimp only
  split
  · exact raiseFold_host_same ..
  · unfold raiseNew
    dsimp only
    split
    · obtain ⟨hh, hm⟩ := repost_off (l := endedBy (BitVec.ofNat 16 src) (BitVec.ofNat 16 code) s.recorder) h
      rw [postEvent_off (by rw [hh]; exact h)]
      exact ⟨hh, hm⟩
    · refine ⟨(congrArg State.host (postEvent_off ?_)).trans ?_, (congrArg State.hostMem (postEvent_off ?_)).trans ?_⟩
      · exact h
      · rfl
      · exact h
      · rfl

/-! ### Doorbell line -/

theorem open_of {s : State} (he : s.host.enable = true) (ho : bar0Open s = true) : ¬ (!(s.host.enable && bar0Open s)) = true := by
  rw [he, ho]
  decide

theorem doorbellPoll_acts {t : Nat} {s : State} (ht : s.host.nextPoll = some t) (he : s.host.enable = true) (ho : bar0Open s = true) :
    exec .doorbellPoll s = .next { advanceTo t s with host := { s.host with
        polling := true, polled := true, pollTick := s.time.tickNo, pollNow := s.host.pollUs
        timeoutNow := s.host.timeoutMs, evtIrqNow := s.host.evtIrq
        nextPoll := if s.host.pollUs = 0 then none else some (t + min 10000 (max 10 s.host.pollUs.toNat))
        rings := s.host.rings.map (fun r => { r with enNow := r.en, irqNow := r.irq }) } } := by
  rw [exec_doorbellPoll, execDoorbellPoll, ht]
  exact congrArg Host.Outcome.next (if_neg (open_of he ho))

/-- The host interface with the indices of a fetched line. -/
def lineTaken (line : Bytes) (s : State) : State :=
  { s with host := { s.host with
    polled := false, evtCons := fieldAt line 32 2, echoDue := true
    rings := s.host.rings.mapFinIdx (fun k (r : Ring) _ => { r with
      cmdProd := fieldAt line (2 * k) 2, cplCons := fieldAt line (16 + 2 * k) 2 }) } }

theorem ring_lineTaken (line : Bytes) (s : State) (k : Fin 8) : ring (lineTaken line s) k =
    { ring s k with cmdProd := fieldAt line (2 * k.val) 2, cplCons := fieldAt line (16 + 2 * k.val) 2 } := by
  simp [ring, lineTaken]

theorem doorbellFetchDone_acts {line : Bytes} {s : State} (hp : s.host.polled = true) (he : s.host.enable = true) (ho : bar0Open s = true)
    (hr : reservedClear lineReserved line = true) :
    exec (.doorbellFetchDone line) s = .next (lostEvents (takeSeq (BitVec.ofNat 32 (fieldAt line 36 4))
      (fetchResult 0 true 0 0 (misusedRings s (lineTaken line s))))) := by
  have hopen : ¬ (!(s.host.polled && s.host.enable && bar0Open s)) = true := by
    rw [hp, he, ho]
    decide
  rw [exec_doorbellFetchDone, execDoorbellFetchDone, if_neg hopen, takeLine_clear hr]
  rfl

theorem ringBad_sound {k old : Nat} {r : Ring} (h : k = 0 ∨ r.enNow = true → soundSize r.size = true ∧ r.cmdProd < r.size.toNat ∧
    r.cplCons < r.size.toNat ∧ overran old r = false) : ringBad k old r = false := by
  rw [ringBad, Bool.and_eq_false_iff]
  by_cases hu : k = 0 ∨ r.enNow = true
  · obtain ⟨h1, h2, h3, h4⟩ := h hu
    right
    rw [h1, h4, decide_eq_false (Nat.not_le.mpr h2), decide_eq_false (Nat.not_le.mpr h3)]
    rfl
  · left
    rw [not_or] at hu
    rw [decide_eq_false hu.1, Bool.false_or]
    exact Bool.not_eq_true _ ▸ hu.2

/-- The host interface without what an event, the host's sequence and the reads of the line change. -/
def unmarked (h : HostIf) : HostIf := { unposted h with hostSeq := none, silent := false, failing := 0 }

theorem unmarked_of_unposted {a b : HostIf} (h : unposted a = unposted b) : unmarked a = unmarked b :=
  congrArg (fun x : HostIf => { x with hostSeq := none, silent := false, failing := 0 }) h

theorem takeSeq_unmarked (q : Word) (s : State) : unmarked (takeSeq q s).host = unmarked s.host := by
  unfold takeSeq
  dsimp only
  split
  · rfl
  · split
    · rfl
    · split
      · exact (unmarked_of_unposted (raise_unposted ..)).trans rfl
      · rfl

theorem lostEvents_unmarked (s : State) : unmarked (lostEvents s).host = unmarked s.host := by
  unfold lostEvents
  split
  · exact unmarked_of_unposted (raiseLost_unposted ..)
  · rfl

theorem line_unmarked (q : Word) (s : State) :
    unmarked (lostEvents (takeSeq q (fetchResult 0 true 0 0 s))).host = unmarked s.host :=
  (lostEvents_unmarked _).trans ((takeSeq_unmarked q _).trans rfl)

theorem ring_of_unmarked {s t : State} (h : unmarked t.host = unmarked s.host) (k : Fin 8) : ring t k = ring s k := by
  have hr : t.host.rings = s.host.rings := (congrArg HostIf.rings h :)
  simp only [ring, hr]

/-- A fetched line that keeps the rules gives every ring its indices. -/
theorem line_rings {line : Bytes} {s : State} (hp : s.host.polled = true) (he : s.host.enable = true) (ho : bar0Open s = true)
    (hr : reservedClear lineReserved line = true) (hs : soundSize s.host.evtSize = true) (hc : fieldAt line 32 2 < s.host.evtSize.toNat)
    (hk : ∀ k : Fin 8, k = 0 ∨ (ring s k).enNow = true → soundSize (ring s k).size = true ∧
      fieldAt line (2 * k.val) 2 < (ring s k).size.toNat ∧ fieldAt line (16 + 2 * k.val) 2 < (ring s k).size.toNat ∧
      overran (ring s k).cmdProd { ring s k with cmdProd := fieldAt line (2 * k.val) 2 } = false) :
    ∃ u, exec (.doorbellFetchDone line) s = .next u ∧ unmarked u.host = unmarked (lineTaken line s).host := by
  have hbad : evtBad (lineTaken line s).host = false := by
    have hc' : ¬ s.host.evtSize.toNat ≤ fieldAt line 32 2 := Nat.not_le.mpr hc
    simp [evtBad, lineTaken, hs, hc']
  have hsound : misusedRings s (lineTaken line s) = lineTaken line s := by
    refine misusedRings_sound hbad fun k => ringBad_sound fun hu => ?_
    rw [ring_lineTaken] at hu ⊢
    refine hk k (hu.imp_left fun h => Fin.ext h)
  refine ⟨_, doorbellFetchDone_acts hp he ho hr, ?_⟩
  rw [hsound]
  exact line_unmarked ..

/-! ### Echo line -/

/-- What a message leaves of the echo line: ECHO_SEQ, and no line or producer due. -/
structure Echoed (q : Word) (t : State) : Prop where
  seq : t.host.echoSeq = q
  due : t.host.echoDue = false
  fresh : ∀ k : Fin 8, (ring t k).fresh = false

theorem Echoed.of_host {q : Word} {s t : State} (h : Echoed q s) (h1 : t.host.echoSeq = s.host.echoSeq) (h2 : t.host.echoDue = s.host.echoDue)
    (h3 : t.host.rings = s.host.rings) : Echoed q t := by
  refine ⟨h1.trans h.seq, h2.trans h.due, fun k => ?_⟩
  rw [ring, h3]
  exact h.fresh k

theorem Echoed.sendVector {q : Word} {s : State} (h : Echoed q s) (v : BitVec 5) : Echoed q (sendVector v s) := by
  unfold Machine.sendVector
  dsimp only
  split
  · exact h
  · split
    · exact h.of_host rfl rfl rfl
    · exact h.of_host (by rw [hostWrite_host_same]) (by rw [hostWrite_host_same]) (by rw [hostWrite_host_same])

theorem Echoed.modRing {q : Word} {s : State} (h : Echoed q s) (k : Fin 8) (f : Ring → Ring) (hf : ∀ r : Ring, (f r).fresh = r.fresh) :
    Echoed q (modRing k f s) := by
  refine ⟨h.seq, h.due, fun j => ?_⟩
  have hj := h.fresh j
  by_cases hjk : k = j
  · subst hjk
    simpa [ring, Machine.modRing, hf] using hj
  · have hne : k.val ≠ j.val := fun e => hjk (Fin.ext e)
    simpa [ring, Machine.modRing, Vector.getElem_set_ne _ _ hne] using hj

theorem Echoed.ringMessage {q : Word} {s : State} (h : Echoed q s) (k : Fin 8) : Echoed q (ringMessage k s) := by
  unfold Machine.ringMessage
  dsimp only
  split
  · exact h
  · split
    · refine Echoed.sendVector ?_ _
      exact h.modRing k _ fun _ => rfl
    · exact h.modRing k _ fun _ => rfl

theorem Echoed.evtMessage {q : Word} {s : State} (h : Echoed q s) : Echoed q (evtMessage s) := by
  unfold Machine.evtMessage
  dsimp only
  split
  · exact h
  · split
    · refine Echoed.sendVector ?_ _
      exact h.of_host rfl rfl rfl
    · exact h.of_host rfl rfl rfl

/-- The state with the echo line written, before the messages that it makes due. -/
def echoWritten (s : State) : State :=
  let w := hostWrite s.host.echoAddr.toNat (echoBytes s) s
  let idle := (List.finRange 8).all (fun k => (ring w k).busy.isNone)
  { w with host := { w.host with
    echoSeq := w.host.echoSeq + 1, echoDue := false, evtFresh := false, polling := w.host.polling && (w.host.enable || !idle)
    rings := w.host.rings.map (fun (r : Ring) => { r with fresh := false }) } }

/-- The messages of the rings whose completions the line told, and that of the events. -/
def echoMessages (s t : State) : State :=
  let u := ((List.finRange 8).filter (fun k => (ring s k).fresh)).foldl (fun s k => ringMessage k s) t
  if s.host.evtFresh then evtMessage u else u

theorem echoLineWrite_acts {s : State} (h : s.host.echoDue = true) (ho : bar0Open s = true) :
    exec .echoLineWrite s = .next (echoMessages s (echoWritten s)) := by
  have hopen : ¬ (!(s.host.echoDue && bar0Open s)) = true := by
    rw [h, ho]
    decide
  exact congrArg Host.Outcome.next (if_neg hopen)

theorem echoWritten_echoed (s : State) : Echoed (s.host.echoSeq + 1) (echoWritten s) := by
  refine ⟨?_, rfl, fun k => ?_⟩
  · simp only [echoWritten, hostWrite_host_same]
  · simp [echoWritten, ring]

theorem echoMessages_echoed {q : Word} {s t : State} (h : Echoed q t) : Echoed q (echoMessages s t) := by
  have hu : Echoed q (((List.finRange 8).filter (fun k => (ring s k).fresh)).foldl (fun s k => ringMessage k s) t) :=
    List.foldlRecOn (motive := fun x : State => Echoed q x) _ _ h fun _ hx k _ => hx.ringMessage k
  unfold echoMessages
  dsimp only
  split
  · exact hu.evtMessage
  · exact hu

/-- Where no producer has advanced, the line is all that is written. -/
theorem echoMessages_none {s t : State} (h : ∀ k : Fin 8, (ring s k).fresh = false) (he : s.host.evtFresh = false) : echoMessages s t = t := by
  have hnil : (List.finRange 8).filter (fun k => (ring s k).fresh) = [] := List.filter_eq_nil_iff.mpr fun k _ => by rw [h k]; decide
  unfold echoMessages
  dsimp only
  rw [hnil, he]
  rfl

/-! ### Descriptors -/

theorem commandOf_unlisted {k : Fin 8} {b : Bytes} {x : Fetched} (h : fieldAt b 0 1 = 0 ∨ 0x20 ≤ fieldAt b 0 1) :
    commandOf k b x = .nop ⟨descOf k b, byteAt b 0⟩ := by
  unfold commandOf
  dsimp only
  split
  case h_32 => rfl
  all_goals omega

/-- Settles O25. -/
theorem doorbellEchoAndMessagesAct : Obligations.DoorbellEchoAndMessagesAct := by
  refine ⟨?_, ?_, ?_, ?_, ?_, fun s => rfl, ?_, ?_, ?_, ?_, ?_⟩
  · intro t s ht he ho
    exact ⟨_, doorbellPoll_acts ht he ho, rfl, rfl⟩
  · intro line s hp he ho hr hs hc hk
    obtain ⟨u, hu, hm⟩ := line_rings hp he ho hr hs hc hk
    refine ⟨u, hu, (congrArg HostIf.polled hm :), (congrArg HostIf.evtCons hm :), fun k => ?_⟩
    rw [ring_of_unmarked hm, ring_lineTaken]
    exact ⟨rfl, rfl⟩
  · intro s h ho
    have he := echoMessages_echoed (s := s) (echoWritten_echoed s)
    refine ⟨_, echoLineWrite_acts h ho, he.seq, he.due, he.fresh, fun hf hev => ?_⟩
    have hup : s.host.linkUp = true := by
      simp only [bar0Open, Bool.and_eq_true] at ho
      exact ho.1.1
    rw [echoMessages_none hf hev]
    simp [echoWritten, hostWrite, hup]
  · intro k s hl hs hm
    have hopen : ¬ (!(s.host.linkUp && served s)) = true := by
      rw [hl, hs]
      decide
    exact congrArg Host.Outcome.next ((if_neg hopen).trans ((dif_pos k.isLt).trans (if_pos hm)))
  · intro s hl hs hm
    have hopen : ¬ (!(s.host.linkUp && served s)) = true := by
      rw [hl, hs]
      decide
    exact congrArg Host.Outcome.next ((if_neg hopen).trans ((dif_neg (by decide)).trans (if_pos hm)))
  · intro o e s hp hl hd
    rw [exec_foldRepost, execFoldRepost, hp, hl, hd]
    simp [has, dropFrom, hd]
  · intro k tag addr s he ho
    exact congrArg Host.Outcome.next (if_neg (open_of he ho))
  · intro k tag addr s he ho hp
    exact congrArg Host.Outcome.next ((if_neg (open_of he ho)).trans (if_pos hp))
  · intro k tag addr s he ho hm t
    have hstart : ¬ (!mayStart k s) = true := by
      rw [hm]
      decide
    exact ⟨congrArg Host.Outcome.next ((if_neg (open_of he ho)).trans (if_neg hstart)),
      congrArg Host.Outcome.next ((if_neg (open_of he ho)).trans (if_neg hstart))⟩
  · intro k b x d
    refine ⟨rfl, rfl, rfl, rfl, fun h => ?_, fun h => ?_, fun h => ?_, commandOf_unlisted⟩
    · simp only [commandOf, h]
      rfl
    · simp only [commandOf, h]
      rfl
    · simp only [commandOf, h]
      rfl

end Sys2Proof.Machine
/-! PROOFS. Link events and resets (O26). -/

namespace Sys2Proof.Machine

/-- The state with the host interface reset, before HOST_LOST is raised. -/
def hostCleared (cause : Nat) (up training : Bool) (s : State) : State :=
  { s with
    host := { HostIf.zero with
      linkUp := up, training := training, gen := if up then s.host.gen else 0, width := if up then s.host.width else 0
      perst := s.host.perst || cause = 4
      rings := s.host.rings.map (fun (r : Ring) => { Ring.zero with busy := r.busy.map (fun b => { b with discard := true }) })
      echoSeq := s.host.echoSeq, pollTick := s.host.pollTick, evtLost := s.host.evtLost, failing := s.host.failing
      msixEnable := up && s.host.msixEnable, msixMask := up && s.host.msixMask }
    commit := { s.commit with exports := s.commit.exports.map (fun x => (x.1, { x.2 with flight := none, due := none })) } }

theorem hostReset_eq (cause : Nat) (up training : Bool) (s : State) : ∃ n : Nat,
    hostReset cause up training s = raise 0x3000 0x0301 0 n (hostCleared cause up training s) := ⟨_, rfl⟩

/-- A reset leaves the cleared host interface and records HOST_LOST. -/
theorem hostReset_frame (cause : Nat) (up training : Bool) (s : State) :
    let c := hostCleared cause up training s
    hostReset cause up training s = { c with recorder := (hostReset cause up training s).recorder } := by
  intro c
  obtain ⟨n, hn⟩ := hostReset_eq cause up training s
  obtain ⟨hh, hm⟩ := raise_off (src := 0x3000) (code := 0x0301) (commit := 0) (data := n) (s := c) rfl
  rw [hn]
  conv_lhs => rw [raise_frame, hh, hm]

theorem hostReset_ring (cause : Nat) (up training : Bool) (s : State) (k : Fin 8) :
    ring (hostReset cause up training s) k = { Ring.zero with busy := (ring s k).busy.map (fun b => { b with discard := true }) } := by
  rw [hostReset_frame]
  simp [ring, hostCleared]

/-- Settles O26. -/
theorem hostResetsAffectOnlyTheHostInterface : Obligations.HostResetsAffectOnlyTheHostInterface := by
  refine ⟨?_, ?_, ?_, fun s => rfl, ?_⟩
  · intro g w x m s hl hp ha hs h1 h4 hw t
    have hup : (s.host.linkUp && !s.host.training) = false := by
      rcases hl with hl | hl <;> simp [hl]
    have hphase : (inStartUp s && decide (s.mode.phase < 4)) = false := by
      rcases hs with hs | hs
      · rw [hs, Bool.false_and]
      · rw [decide_eq_false (Nat.not_lt.mpr hs), Bool.and_false]
    have hg0 : decide (g = 0) = false := decide_eq_false (by rintro rfl; exact absurd h1 (by decide))
    have hg4 : decide (4 < g.toNat) = false := decide_eq_false (Nat.not_lt.mpr h4)
    have hw' : (!(decide (w = 1) || decide (w = 2) || decide (w = 4))) = false := by
      rcases hw with rfl | rfl | rfl <;> rfl
    refine congrArg Host.Outcome.next ((if_neg ?_).trans (if_congr ?_ rfl rfl))
    · rw [hup, hp, ha, hphase, hg0, hg4, hw']
      decide
    · rw [Bool.and_eq_true, decide_eq_true_eq, decide_eq_true_eq]
  · intro c n up training s hc hl ha
    have hopen : (s.host.linkUp && alive s) = true := Bool.and_eq_true_iff.mpr ⟨hl, ha⟩
    simp only [List.mem_cons, Prod.mk.injEq, List.not_mem_nil, or_false] at hc
    obtain ⟨rfl, rfl, rfl, rfl⟩ | ⟨rfl, rfl, rfl, rfl⟩ | ⟨rfl, rfl, rfl, rfl⟩ | ⟨rfl, rfl, rfl, rfl⟩ := hc
    · exact congrArg Host.Outcome.next (if_pos hopen)
    · exact congrArg Host.Outcome.next (if_pos hopen)
    · exact congrArg Host.Outcome.next (if_pos hopen)
    · exact congrArg Host.Outcome.next (if_pos hopen)
  · intro s hp
    exact congrArg Host.Outcome.next (if_neg (by rw [hp]; decide))
  · intro n up training s t
    have ht : t = { hostCleared n up training s with recorder := t.recorder } := hostReset_frame n up training s
    have hh : t.host = (hostCleared n up training s).host := by rw [ht]
    have hcommit : t.commit = (hostCleared n up training s).commit := by rw [ht]
    refine ⟨?_, by rw [hh]; rfl, by rw [hh]; rfl, by rw [hh]; rfl, by rw [hh]; rfl, by rw [hh]; rfl, by rw [hh]; rfl, by rw [hh]; rfl, ?_⟩
    · rw [hh, hcommit]
      exact ht
    · intro k
      rw [hostReset_ring]
      exact ⟨rfl, rfl, rfl, rfl, rfl⟩

end Sys2Proof.Machine
/-! PROOFS. The cycle: ticks, placements, releases and overruns (O27). -/

namespace Sys2Proof.Machine

/-! ### Base ticks (R69, R74) -/

theorem nextTick_advanceTo (us : Nat) (s : State) : nextTick (advanceTo us s) = nextTick s := rfl

/-- Where no edit's boundary is the next tick, the tick begins without one. -/
theorem editAtTick_none {s : State} (h : s.proj.boundary ≠ some (nextTick s)) : editAtTick s = s := by
  unfold editAtTick
  split
  · exact if_neg h
  · rfl

theorem moveGrid_time (before s : State) : (moveGrid before s).time = s.time := by
  unfold moveGrid
  split <;> rfl

theorem enterTick_tickNo (p : Nat × Nat × Nat × Int) (s : State) : (enterTick p s).time.tickNo = p.1 := by
  unfold enterTick
  dsimp only
  split
  · rfl
  · rw [moveGrid_time]

theorem tickPlan_fst {s : State} (h : s.time.newTick = none) : (tickPlan s).1 = nextTick s := by
  unfold tickPlan
  rw [h]

/-! ### Placements -/

/-- Notes of pairs in one phase leave the mode, the commits and what is published. -/
structure Noted (s t : State) : Prop where
  mode : t.mode = s.mode
  commit : t.commit = s.commit
  published : t.yard.published = s.yard.published
  rules : t.yard.rulesDue = s.yard.rulesDue

theorem Noted.raiseTask {s t : State} (h : Noted s t) (k : BitVec 7) (c n d : Nat) : Noted s (raiseTask k c n d t) := by
  refine ⟨?_, ?_, ?_, ?_⟩
  · rw [raiseTask_mode, h.mode]
  · rw [raiseTask_commit, h.commit]
  · rw [raiseTask_yard, h.published]
  · rw [raiseTask_yard, h.rules]

theorem noted_phaseSame (t : BitVec 7) (a b : Option StallId) (s : State) : Noted s (phaseSame t a b s) := by
  unfold phaseSame
  split
  · split
    · refine Noted.raiseTask ?_ ..
      split <;> exact ⟨rfl, rfl, rfl, rfl⟩
    · exact ⟨rfl, rfl, rfl, rfl⟩
  · exact ⟨rfl, rfl, rfl, rfl⟩

theorem Noted.trans {s t u : State} (h : Noted s t) (k : Noted t u) : Noted s u :=
  ⟨k.mode.trans h.mode, k.commit.trans h.commit, k.published.trans h.published, k.rules.trans h.rules⟩

theorem noted_notePhases (n : Nat) (steps : List PlaceStep) (s : State) : Noted s (notePhases n steps s) := by
  unfold notePhases
  dsimp only
  split
  · refine List.foldlRecOn (motive := fun x : State => Noted s x) _ _ ⟨rfl, rfl, rfl, rfl⟩ fun x hx r _ => ?_
    split
    · exact hx
    · exact hx.trans (noted_phaseSame ..)
  · exact ⟨rfl, rfl, rfl, rfl⟩

/-! ### Overruns and releases -/

theorem modTask_congr {t : BitVec 7} {f g : TaskSt → TaskSt} {s : State} (h : f (task s t) = g (task s t)) :
    modTask t f s = modTask t g s := by
  simp only [modTask, h]

theorem noteOverrun_marks {t : BitVec 7} {r : Release} {rec : TaskRec} {s : State} (hi : (task s t).inst = some r)
    (hr : taskRec s t = some rec) (hp : pairOver s t = false) (ho : rec.attr.overrun = 0) :
    noteOverrun t s = (false, raiseTask t 0x0101 0 r.deadlineTicks (modTask t (fun k => { k with
      inst := some { r with overrun := true }, ctr := { k.ctr with deadlines := satAdd 16 k.ctr.deadlines 1 } }) s)) := by
  have hpol : overrunPolicy rec s = (0, s) := by
    rw [overrunPolicy, ho]
    exact if_neg (by decide)
  unfold noteOverrun
  rw [hp, if_neg Bool.false_ne_true, hi, hr]
  dsimp only
  rw [hpol]
  refine Prod.ext rfl ?_
  refine congrArg (raiseTask t 0x0101 0 r.deadlineTicks) (modTask_congr ?_)
  rw [hi]
  rfl

theorem eventTaskRelease_places {t : BitVec 7} {p : EventPlace} {r : TaskRec} {s : State} (hr : taskRec s t = some r)
    (he : isEvent t = true) (hen : enabledNow s t = true) (hl : (task s t).latch = true) (hi : (task s t).inst = none)
    (hrun : runs s = true) (ha : alive s = true) (hp : s.mode.pause = false)
    (hh : (task s t).held = false ∨ (task s t).heldEntry = true) :
    let a := advanceTo (((task s t).lastRelease.map (fun x => x + r.attr.minRetrigger.toNat)).getD 0) s
    editHolds a t = false →
    exec (.eventTaskRelease t p) s = .next (placeRelease false r p (releaseNow r a.time.tickNo (task s t).latchMerged
      (modTask t (fun k => { k with latch := false, latchMerged := false }) a))) := by
  intro a hedit
  have hheld : ((task s t).held && !(task s t).heldEntry) = false := by
    rcases hh with hh | hh <;> simp [hh]
  rw [exec_eventTaskRelease, execEventTaskRelease, hr]
  refine congrArg Host.Outcome.next ((if_neg ?_).trans (if_neg ?_))
  · rw [he, hen, hl, hi, hrun, ha, hp, hheld]
    decide
  · rw [hedit]
    decide

/-- Settles O27. -/
theorem theCycleReleasesAndChecksTasks : Obligations.TheCycleReleasesAndChecksTasks := by
  refine ⟨?_, ?_, ?_, ?_, ?_, ?_⟩
  · intro s hr ht ha a
    have hopen : ¬ (!(s.time.running && s.time.t0Fixed && alive s)) = true := by
      rw [hr, ht, ha]
      decide
    exact ⟨congrArg Host.Outcome.next (if_neg hopen), fun hb => editAtTick_none (s := advanceTo _ s) hb,
      fun hn => (enterTick_tickNo ..).trans (tickPlan_fst hn)⟩
  · intro p s ha hr ht hp hok
    have hopen : (alive s && s.time.running && s.time.t0Fixed && publishTime s && publishOk s (block s 0x0102) (nextTick s) p) = true := by
      rw [ha, hr, ht, hp, hok]
      rfl
    have hn := noted_notePhases (nextTick s) p.steps { s with yard := { s.yard with published := some p, rulesDue := some (block s 0x0102) } }
    exact ⟨_, congrArg Host.Outcome.next (if_pos hopen), hn.published, hn.rules, hn.mode, hn.commit⟩
  · intro t s hr ha ho
    have hopen : ¬ (!(runs s && alive s) || !overdue s (nextTick s) t) = true := by
      rw [hr, ha, ho]
      decide
    exact congrArg Host.Outcome.next (if_neg hopen)
  · intro t r rec s hi hr hp ho
    exact noteOverrun_marks hi hr hp ho
  · intro t r s hr htype hpos hrun ha p
    have hp0 : p ≠ 0 := Nat.pos_iff_ne_zero.mp hpos
    rw [exec_alarmTrigger, execAlarmTrigger, hr]
    refine congrArg Host.Outcome.next (if_neg ?_)
    simpa [htype, hrun, ha] using hp0
  · intro t p r s hr he hen hl hi hrun ha hp hh
    exact eventTaskRelease_places hr he hen hl hi hrun ha hp hh

end Sys2Proof.Machine
/-! PROOFS. Starts, switches and breakpoints (O28). -/

namespace Sys2Proof.Machine

theorem complement_find (m : Mem) (a : Nat) : Mem.find (complement m) a = (Mem.find m a).map (fun b => ~~~b) := by
  induction m with
  | nil => rfl
  | cons c m ih =>
    obtain ⟨k, v⟩ := c
    simp only [complement, List.map_cons, Mem.find]
    split
    · rfl
    · exact ih

theorem advanceNet_net (n : Nat) (s : State) : n ≤ (advanceNet n s).time.net := by
  have hnet : (advanceNet n s).time.net = s.time.net + (n - s.time.net) := rfl
  omega

theorem startClock_net (r : Release) (delay least : Nat) (s : State) : least ≤ (startClock r delay least s).2.time.net :=
  advanceNet_net least _

theorem noteSlip_time (t : BitVec 7) (copyB : Bool) (slip : Nat) (cause : Byte) (s : State) : (noteSlip t copyB slip cause s).time = s.time := by
  unfold noteSlip
  split
  · rfl
  · dsimp only
    rw [raiseTask_time]
    rfl

theorem instanceStart_starts {t : BitVec 7} {rec : TaskRec} {r : Release} {u : StallId} {delay : Nat} {parts : List Nat} {s : State}
    (hrec : taskRec s t = some rec) (hi : (task s t).inst = some r) (hu : (task s t).placeA = some u) (hst : r.started = false)
    (hf : (task s t).fence = none) (hrun : runs s = true) (ha : alive s = true) (hp : s.mode.pause = false)
    (hc : canStart s rec u = true) (hpl : startPlaced s rec r = true) :
    let c := startClock r delay 0 s
    let a := noteSlip t false c.1 (dominant r.slipA parts) c.2
    exec (.instanceStart t delay parts) s = .next (makeResident u
      (newInst a t rec r (startFlags (task s t) a.mode.restart (c.1 != 0) r.merged))
      (modTask t (fun k => { k with
        inst := k.inst.map (fun r => { r with started := true })
        firstRun := false, firstEdit := false, firstProfile := false }) a)) := by
  rw [exec_instanceStart, execInstanceStart, hrec, hi, hu]
  dsimp only
  generalize startClock r delay 0 s = c
  obtain ⟨slip, b⟩ := c
  dsimp only
  refine congrArg Host.Outcome.next (if_neg ?_)
  rw [hst, hf, hrun, ha, hp, hc, hpl]
  decide

/-- Copy B of a transaction, as it starts beside copy A. -/
def copyBOf (t : BitVec 7) (r : Release) (i : Inst) (slip : Nat) (a : State) : Inst :=
  { newInst a t i.record r ((i.startFlags &&& ~~~(32#32)) ||| BitVec.ofNat 32 (32 * b2n (slip != 0))) with
    copyB := true, tStart := i.tStart, startCommit := i.startCommit, epoch := i.epoch, bank := i.bank
    inImg := complement i.inImg, warden := i.warden, variant := i.variant, covers := i.covers
    steps := r.stepB.getD none, passBreak := r.stepB.isSome }

theorem pairedCopyBStart_starts {t : BitVec 7} {r : Release} {u v : StallId} {f : Fin 4} {i : Inst} {delay : Nat} {parts : List Nat}
    {s : State} (hi : (task s t).inst = some r) (hu : (task s t).placeB = some u)
    (hcopy : (copies s t).find? (fun c => !c.2.2.copyB) = some (v, f, i)) (hst : r.started = true) (hstB : r.startedB = false)
    (hpair : i.record.attr.paired = true) (hrun : runs s = true) (ha : alive s = true) (hc : canStart s i.record u = true)
    (hstall : (stall s u).state = 0 ∨ (stall s u).state = 3) :
    let c := startClock r delay (i.startNet + 20) s
    let a := noteSlip t true c.1 (dominant r.slipB parts) c.2
    exec (.pairedCopyBStart t delay parts) s = .next (makeResident u (copyBOf t r i c.1 a)
      (modTask t (fun k => { k with inst := k.inst.map (fun r => { r with startedB := true }) }) a)) := by
  have hstall' : (decide ((stall s u).state = 0) || decide ((stall s u).state = 3)) = true := by
    simpa using hstall
  rw [exec_pairedCopyBStart, execPairedCopyBStart, hi, hu, hcopy]
  dsimp only
  generalize startClock r delay (i.startNet + 20) s = c
  obtain ⟨slip, b⟩ := c
  dsimp only
  refine congrArg Host.Outcome.next (if_neg ?_)
  rw [hst, hstB, hpair, hrun, ha, hc, hstall']
  decide

/-- Settles O28. -/
theorem instancesStartSwitchAndStop : Obligations.InstancesStartSwitchAndStop := by
  refine ⟨?_, ?_, ?_, ?_, ?_, ?_, complement_find⟩
  · intro t rec r u delay parts s hrec hi hu hst hf hrun ha hp hc hpl
    exact instanceStart_starts hrec hi hu hst hf hrun ha hp hc hpl
  · intro t r u v f i delay parts s hi hu hcopy hst hstB hpair hrun ha hc hstall
    refine ⟨_, _, pairedCopyBStart_starts hi hu hcopy hst hstB hpair hrun ha hc hstall, rfl, rfl, rfl, rfl, rfl, rfl, rfl, ?_⟩
    rw [modTask_time, noteSlip_time]
    exact startClock_net ..
  · intro u f s ht hr ha
    rw [exec_contextSwitch, execContextSwitch, ht]
    refine congrArg Host.Outcome.next (if_neg ?_)
    rw [decide_eq_false hr, ha]
    decide
  · intro u f i s hi hb he hp hw
    rw [exec_breakpointHit, execBreakpointHit, hi]
    refine congrArg Host.Outcome.next ((if_neg ?_).trans ((if_neg ?_).trans (if_pos ?_)))
    · rw [hb, Bool.not_true, Bool.false_and]
      decide
    · rw [he]
      decide
    · rw [hp, hw]
      rfl
  · intro u f i s hi hb hentry he hp hw
    rw [exec_breakpointHit, execBreakpointHit, hi]
    refine congrArg Host.Outcome.next ((if_neg ?_).trans ((if_neg ?_).trans ((if_neg ?_).trans ?_)))
    · rw [hb, Bool.not_true, Bool.false_and]
      decide
    · rw [he]
      decide
    · rw [hp, Bool.false_and]
      decide
    · dsimp only
      rw [hentry, hw]
      rfl
  · intro u f i s hi hb he
    rw [exec_breakpointHit, execBreakpointHit, hi]
    refine congrArg Host.Outcome.next ((if_neg ?_).trans (if_pos he))
    rw [hb, Bool.not_true, Bool.false_and]
    decide

end Sys2Proof.Machine
/-! PROOFS. Commits and what leaves after them (O41, O42). -/

namespace Sys2Proof.Machine

/-! ### What the work after a commit leaves as it was -/

/-- The commit numbers, the counters, the mode and every task's transaction stay. -/
structure Quiet (s t : State) : Prop where
  last : t.commit.last = s.commit.last
  next : t.commit.next = s.commit.next
  ret : t.ret = s.ret
  mode : t.mode = s.mode
  inst : ∀ k, (task t k).inst = (task s k).inst

section
variable {s t u : State}

theorem Quiet.refl (s : State) : Quiet s s := ⟨rfl, rfl, rfl, rfl, fun _ => rfl⟩

theorem Quiet.trans (h : Quiet s t) (k : Quiet t u) : Quiet s u :=
  ⟨k.last.trans h.last, k.next.trans h.next, k.ret.trans h.ret, k.mode.trans h.mode, fun x => (k.inst x).trans (h.inst x)⟩

theorem Quiet.foldl {α : Type} {f : State → α → State} (hf : ∀ x a, Quiet x (f x a)) (l : List α) (s : State) : Quiet s (l.foldl f s) :=
  List.foldlRecOn (motive := fun x => Quiet s x) _ _ (Quiet.refl s) fun x hx a _ => hx.trans (hf x a)

/-- A state that keeps the commits, the retain store, the mode and the tasks. -/
theorem Quiet.of_eq (hc : t.commit.last = s.commit.last) (hn : t.commit.next = s.commit.next) (hr : t.ret = s.ret) (hm : t.mode = s.mode)
    (ht : t.tasks = s.tasks) : Quiet s t := ⟨hc, hn, hr, hm, fun k => by simp only [task, ht]⟩

theorem quiet_raise (src code commit data : Nat) (s : State) : Quiet s (raise src code commit data s) :=
  Quiet.of_eq (by rw [raise_commit]) (by rw [raise_commit]) (raise_ret ..) (raise_mode ..) (raise_tasks ..)

theorem task_modTask (k t : BitVec 7) (f : TaskSt → TaskSt) (s : State) :
    task (modTask t f s) k = if t = k then f (task s k) else task s k := by
  split
  case isTrue h =>
    subst h
    simp [task, modTask]
  case isFalse h =>
    have hne : t.toNat ≠ k.toNat := fun e => h (BitVec.eq_of_toNat_eq e)
    simp [task, modTask, Vector.getElem_set_ne _ _ hne]

/-- A change of a task that keeps its transaction. -/
theorem quiet_modTask (t : BitVec 7) (f : TaskSt → TaskSt) {s : State} (hf : ∀ k, (f k).inst = k.inst) : Quiet s (modTask t f s) := by
  refine ⟨rfl, rfl, rfl, rfl, fun k => ?_⟩
  rw [task_modTask]
  split
  · exact hf _
  · rfl

theorem quiet_closeCopy (x : StallId) (f : Fin 4) (s : State) : Quiet s (closeCopy x f s) := by
  unfold closeCopy
  split
  · exact Quiet.refl s
  · next i _ =>
    refine ⟨rfl, rfl, rfl, rfl, fun k => ?_⟩
    exact (quiet_modTask i.task (fun k => { k with closedAt := s.time.task }) (fun _ => rfl) (s := s)).inst k

theorem commitBytes_numbers (n : Nat) (m : Mem) (c : CommitSt) : (commitBytes n m c).last = c.last ∧ (commitBytes n m c).next = c.next := by
  have h : ((linesOf m).foldl (shiftLine n) c).last = c.last ∧ ((linesOf m).foldl (shiftLine n) c).next = c.next :=
    List.foldlRecOn (motive := fun x : CommitSt => x.last = c.last ∧ x.next = c.next) _ _ ⟨rfl, rfl⟩ fun _ hx _ _ => hx
  exact h

theorem quiet_claimLines (t : BitVec 7) (lines : List Nat) (s : State) : Quiet s (claimLines t lines s) := by
  have h := Quiet.foldl (f := fun s l => freeLine l s) (fun _ _ => Quiet.of_eq rfl rfl rfl rfl rfl) (sharedLines t lines s.commit) s
  exact h.trans (Quiet.of_eq rfl rfl rfl rfl rfl)

theorem quiet_commitEvents (t : BitVec 7) (n : Nat) (i : Inst) (s : State) : Quiet s (commitEvents t n i s) := by
  have h := Quiet.foldl (f := fun s (e : Half × DWord) => raiseTask t e.1.toNat n e.2.toNat s) (fun x a => quiet_raise _ _ _ _ x) i.events s
  unfold commitEvents
  dsimp only
  split
  · exact h
  · exact h.trans (quiet_raise ..)

theorem quiet_directDue (t : BitVec 7) (n : Nat) (v : BitVec 3) (full r : TaskRec) (img : Bytes) (s : State) :
    Quiet s (directDue t n v full r img s) := by
  unfold directDue
  dsimp only
  split <;> exact Quiet.of_eq rfl rfl rfl rfl rfl

theorem quiet_ethStart (p : Fin 2) (s : State) : Quiet s (ethStart p s) := by
  unfold ethStart
  split
  · exact Quiet.refl s
  · have h : Quiet s (dropUnsent p s) := by
      unfold dropUnsent
      split <;> exact Quiet.of_eq rfl rfl rfl rfl rfl
    exact h.trans (Quiet.of_eq rfl rfl rfl rfl rfl)

theorem quiet_ethDue (e : Bytes) (s : State) : Quiet s (ethDue e s) := by
  unfold ethDue
  dsimp only
  split
  · split
    · exact Quiet.refl s
    · refine Quiet.trans ?_ (quiet_ethStart ..)
      exact Quiet.of_eq rfl rfl rfl rfl rfl
  · exact Quiet.refl s

theorem quiet_canFrameDue (v : State) (e : Bytes) (period : Bool) (s : State) : Quiet s (canFrameDue v e period s) := by
  unfold canFrameDue
  split
  · split <;> exact Quiet.of_eq rfl rfl rfl rfl rfl
  · exact Quiet.refl s

theorem quiet_commitTx (v : BitVec 3) (full r : TaskRec) (img : Bytes) (s : State) : Quiet s (commitTx v full r img s) := by
  have hstore (x : State) : Quiet x (storeTx v r img x) := by
    refine Quiet.foldl (fun _ _ => ?_) _ x
    exact Quiet.of_eq rfl rfl rfl rfl rfl
  have h : Quiet s (storeTx v r img (if v = variantNow s then offTx (offChans s full v) s else s)) := by
    refine Quiet.trans ?_ (hstore _)
    split <;> exact Quiet.of_eq rfl rfl rfl rfl rfl
  unfold commitTx
  dsimp only
  split
  · exact h
  · exact h.trans (Quiet.of_eq rfl rfl rfl rfl rfl)

theorem quiet_canCommitDue (t : BitVec 7) (s : State) : Quiet s (canCommitDue t s) := by
  refine Quiet.foldl (fun x id => ?_) _ s
  split
  · exact quiet_canFrameDue ..
  · exact Quiet.refl x

theorem quiet_ethCommitDue (t : BitVec 7) (s : State) : Quiet s (ethCommitDue t s) := by
  unfold ethCommitDue
  refine Quiet.foldl (fun x k => ?_) _ s
  exact quiet_ethDue ..

theorem quiet_exportDue (t : BitVec 7) (n : Nat) (i : Inst) (img : Bytes) (s : State) : Quiet s (exportDue t n i img s) := by
  unfold exportDue
  split
  · exact Quiet.refl s
  · refine Quiet.foldl (fun x a => ?_) _ s
    split
    · exact Quiet.refl x
    · dsimp only
      split
      · exact Quiet.of_eq rfl rfl rfl rfl rfl
      · split
        · exact Quiet.of_eq rfl rfl rfl rfl rfl
        · refine Quiet.trans (Quiet.trans ?_ (quiet_modTask _ _ ?_)) (quiet_raise ..)
          · exact Quiet.of_eq rfl rfl rfl rfl rfl
          · exact fun _ => rfl

theorem quiet_queueBale (type : BitVec 3) (t : BitVec 7) (n : Nat) (lines : List BaleLine) (s : State) :
    Quiet s (queueBale type t n lines s) := by
  unfold queueBale
  split
  · exact Quiet.refl s
  · dsimp only
    split
    · exact Quiet.of_eq rfl rfl rfl rfl rfl
    · refine Quiet.trans ?_ (quiet_raise ..)
      exact Quiet.of_eq rfl rfl rfl rfl rfl

/-! ### A commit (R103, R114, R116) -/

/-- The write set of a transaction in home memory under number n, its copies closed. -/
def written (t : BitVec 7) (i : Inst) (n : Nat) (s : State) : State :=
  let c := (copies s t).foldl (fun s c => closeCopy c.1 c.2.1 s) s
  claimLines t (linesOf (trueWrites i)) { c with commit := commitBytes n (trueWrites i) c.commit }

theorem quiet_commitBytes (n : Nat) (m : Mem) (s : State) : Quiet s { s with commit := commitBytes n m s.commit } :=
  Quiet.of_eq (commitBytes_numbers n m s.commit).1 (commitBytes_numbers n m s.commit).2 rfl rfl rfl

theorem quiet_closeCopies (l : List (StallId × Fin 4 × Inst)) (s : State) : Quiet s (l.foldl (fun s c => closeCopy c.1 c.2.1 s) s) := by
  refine Quiet.foldl (fun x a => ?_) l s
  exact quiet_closeCopy ..

theorem quiet_written (t : BitVec 7) (i : Inst) (n : Nat) (s : State) : Quiet s (written t i n s) := by
  unfold written
  refine Quiet.trans ?_ (quiet_claimLines ..)
  refine Quiet.trans ?_ (quiet_commitBytes ..)
  exact quiet_closeCopies ..

/-- The state with a write set numbered and its task's transaction closed. -/
def numbered (t : BitVec 7) (i : Inst) (since : Nat) (s : State) : State :=
  let a := (numberCommit s).2
  let e := written t i s.commit.next (takeFree a).2
  modTask t (fun x => commitTask x (commitLatency (e.time.net - since) (takeFree a).1)) e

/-- The rest of a commit, after its number: events, direct outputs, sending channels, exports and the bale. -/
def commitWork (t : BitVec 7) (n : Nat) (i : Inst) (s : State) : State :=
  let s := commitEvents t n i s
  let img := Mem.read s.commit.newest (outBase t) i.record.outSize
  let r := variantRec s i.record i.variant
  let s := ethCommitDue t (canCommitDue t (commitTx i.variant i.record r img (directDue t n i.variant i.record r img s)))
  let s := exportDue t n i (padTo 4096 img) s
  queueBale 1 t n (((byAddress (linesOf (trueWrites i))).filter (mirrored s.proj.cur i.record)).map (baleLine s.commit (trueWrites i))) s

theorem commitInstance_eq (t : BitVec 7) (i : Inst) (since : Nat) (s : State) :
    commitInstance t i since s = commitWork t s.commit.next i (numbered t i since s) := rfl

theorem quiet_commitWork (t : BitVec 7) (n : Nat) (i : Inst) (s : State) : Quiet s (commitWork t n i s) := by
  unfold commitWork
  dsimp only
  refine Quiet.trans ?_ (quiet_queueBale ..)
  refine Quiet.trans ?_ (quiet_exportDue ..)
  refine Quiet.trans ?_ (quiet_ethCommitDue ..)
  refine Quiet.trans ?_ (quiet_canCommitDue ..)
  refine Quiet.trans ?_ (quiet_commitTx ..)
  refine Quiet.trans ?_ (quiet_directDue ..)
  exact quiet_commitEvents ..

theorem numbered_fields (t : BitVec 7) (i : Inst) (since : Nat) (s : State) :
    let u := numbered t i since s
    u.commit.last = s.commit.next ∧ u.commit.next = s.commit.next + 1 ∧ u.ret.ctr.highestCommit = s.commit.next ∧
      (task u t).inst = none ∧ u.mode = s.mode := by
  have he := quiet_written t i s.commit.next (takeFree (numberCommit s).2).2
  unfold numbered
  dsimp only
  generalize written t i s.commit.next (takeFree (numberCommit s).2).2 = e at he
  refine ⟨he.last, he.next, congrArg (fun r : RetSt => r.ctr.highestCommit) he.ret, ?_, he.mode⟩
  rw [task_modTask, if_pos rfl]
  rfl

/-- A commit numbers its write set, records the number and closes the transaction. -/
theorem commitInstance_numbers (t : BitVec 7) (i : Inst) (since : Nat) (s : State) :
    let u := commitInstance t i since s
    u.commit.last = s.commit.next ∧ u.commit.next = s.commit.next + 1 ∧ u.ret.ctr.highestCommit = s.commit.next ∧
      (task u t).inst = none ∧ u.mode = s.mode := by
  intro u
  have hq : Quiet (numbered t i since s) u := quiet_commitWork ..
  obtain ⟨hl, hn, hr, hi, hm⟩ := numbered_fields t i since s
  exact ⟨hq.last.trans hl, hq.next.trans hn, (congrArg (fun r : RetSt => r.ctr.highestCommit) hq.ret).trans hr,
    (hq.inst t).trans hi, hq.mode.trans hm⟩

end

end Sys2Proof.Machine

namespace Sys2Proof.Machine

theorem pairCompare_agree {t : BitVec 7} {a b : Inst} {since : Nat} {s : State} (hb : bothCopies s t = some (a, b)) (ha : a.phase = .ending)
    (hb' : b.phase = .ending) (hst : s.commit.stopped = false) (hal : alive s = true) (hsig : signature a = signature b)
    (hline : differingLine a b = none) (hf : pairFirst s t = some since) :
    exec (.pairCompare t) s = .next (commitInstance t a (((task s t).inst.bind (fun r => r.firstEnding)).getD since) s) := by
  rw [exec_pairCompare, execPairCompare, hb]
  refine congrArg Host.Outcome.next ((if_neg ?_).trans ((if_pos ?_).trans ((if_neg ?_).trans ?_)))
  · rw [hst, hal]
    decide
  · rw [ha, hb']
    rfl
  · rw [hsig, hline, bne_self_eq_false]
    decide
  · rw [hf]

theorem pairCompare_differ {t : BitVec 7} {a b : Inst} {s : State} (hb : bothCopies s t = some (a, b)) (ha : a.phase = .ending)
    (hb' : b.phase = .ending) (hst : s.commit.stopped = false) (hal : alive s = true)
    (hd : signature a ≠ signature b ∨ differingLine a b ≠ none) :
    exec (.pairCompare t) s = .next (pairAbort t fcMismatch
      (b2n (signature a != signature b) + 2 * b2n (differingLine a b).isSome)
      (((differingLine a b).map (fun l => l % 2 ^ 32)).getD 0) s) := by
  rw [exec_pairCompare, execPairCompare, hb]
  refine congrArg Host.Outcome.next ((if_neg ?_).trans ((if_pos ?_).trans (if_pos ?_)))
  · rw [hst, hal]
    decide
  · rw [ha, hb']
    rfl
  · rw [Bool.or_eq_true, bne_iff_ne, Option.isSome_iff_ne_none]
    exact hd

/-- Settles O41. -/
theorem commitsNumberWriteSets : Obligations.CommitsNumberWriteSets := by
  refine ⟨?_, ?_, ?_, ?_, ?_, fun n m c => ?_⟩
  · intro p l i s hp hi hph hpair hst ha t
    refine ⟨?_, commitInstance_numbers i.task i p.at_ s⟩
    rw [exec_commit, execCommit, hp]
    dsimp only
    rw [hi]
    refine congrArg Host.Outcome.next (if_neg ?_)
    rw [hst, ha, hph, hpair]
    decide
  · intro t a b since s hb ha hb' hst hal hsig hline hf
    exact pairCompare_agree hb ha hb' hst hal hsig hline hf
  · intro t a b s hb ha hb' hst hal hd
    exact pairCompare_differ hb ha hb' hst hal hd
  · intro t r due s hi hd hl ha
    rw [exec_pairDeadline, execPairDeadline, hi, Option.bind_some, hd]
    exact congrArg Host.Outcome.next (if_pos (Bool.and_eq_true_iff.mpr ⟨ha, hl⟩))
  · intro t s hh
    rw [exec_escalationHandoverTimeout, execEscalationHandoverTimeout, hh]
    rfl
  · have h : ((linesOf m).foldl (shiftLine n) c).newest = c.newest := shiftLines_newest ..
    show m.foldl (fun h b => Mem.set h b.1 b.2) ((linesOf m).foldl (shiftLine n) c).newest = _
    rw [h]

/-! ### What leaves after a commit (R127, R130, R133, R578, R638) -/

/-- Settles O42. -/
theorem committedDataLeaves : Obligations.CommittedDataLeaves := by
  refine ⟨?_, ?_, ?_⟩
  · intro o l s ho ha hp hc
    rw [exec_directOutputApply, execDirectOutputApply, ho]
    refine congrArg Host.Outcome.next (if_pos ?_)
    rw [ha, hp, hc]
    rfl
  · intro k x e s hx he hl hs hf
    have hfits : exportFits s x = true := by
      rw [exportFits, hl, hs, decide_eq_true hf]
      rfl
    rw [exec_imageExportWrite, execImageExportWrite, hx]
    dsimp only
    rw [he]
    dsimp only
    rw [if_pos hfits, writeExport, hostWrite]
    exact congrArg Host.Outcome.next (if_pos hl)
  · intro b l s hb ht ha
    rw [exec_baleSend, execBaleSend, hb]
    exact congrArg Host.Outcome.next (if_pos (Bool.and_eq_true_iff.mpr ⟨ht, ha⟩))

end Sys2Proof.Machine

/-! PROOFS. Edits, profiles and channel entries at their boundaries (O43, O44). -/

namespace Sys2Proof.Machine

/-! ### Edits (R328, R331) -/

section
variable {k : Fin 8} {rb : Bool} {e l : Nat} {p : EditPackage} {s : State}

/-- At its instant a pending edit fixes the next tick as its boundary. -/
theorem editCommitApply_fixes (hpend : s.proj.pend = some (k, rb, e, l)) (hpkg : s.proj.pkg = some p) (he : e ≤ nextTick s)
    (hl : nextTick s ≤ l) (hopen : affectedOpen s p.affected = false) (hat : s.time.task ≤ editInstant s (pendMap p rb))
    (ha : alive s = true) (hb : s.proj.boundary ≠ some (nextTick s)) :
    let a := advanceTask (editInstant s (pendMap p rb)) s
    exec .editCommitApply s = .next { a with proj := { a.proj with boundary := some (nextTick a) } } := by
  have htick : pendTick s e l = true := by simp [pendTick, he, hl]
  rw [exec_editCommitApply, execEditCommitApply, hpend, hpkg]
  refine congrArg Host.Outcome.next ((if_neg ?_).trans ((if_neg hb).trans (if_neg ?_)))
  · rw [ha]
    decide
  · rw [htick, hopen, decide_eq_false (Nat.not_lt.mpr hat)]
    decide

/-- At its boundary the edit is committed, unless a profile switch is due before it. -/
theorem editCommitApply_commits (hpend : s.proj.pend = some (k, rb, e, l)) (hpkg : s.proj.pkg = some p)
    (hb : s.proj.boundary = some (nextTick s)) (hd : switchDue s = false) (ha : alive s = true) :
    exec .editCommitApply s = .next (commitEdit k rb p (advanceTo (tickTime s (nextTick s)) s)) := by
  rw [exec_editCommitApply, execEditCommitApply, hpend, hpkg]
  refine congrArg Host.Outcome.next ((if_neg ?_).trans ((if_pos hb).trans (if_neg ?_)))
  · rw [ha]
    decide
  · rw [hd]
    decide

theorem editCommitApply_waits (hpend : s.proj.pend = some (k, rb, e, l)) (hpkg : s.proj.pkg = some p)
    (hb : s.proj.boundary = some (nextTick s)) (hd : switchDue s = true) : exec .editCommitApply s = .next s := by
  rw [exec_editCommitApply, execEditCommitApply, hpend, hpkg]
  refine congrArg Host.Outcome.next ?_
  dsimp only
  rw [if_pos hb, if_pos hd, ite_self]

end

/-- Settles O43. -/
theorem editsAndProfilesTakeEffectAtTheirBoundary : Obligations.EditsAndProfilesTakeEffectAtTheirBoundary := by
  refine ⟨?_, ?_, ?_, ?_, ?_, ?_⟩
  · intro k rb e l p s hpend hpkg he hl hopen hat ha hb
    exact editCommitApply_fixes hpend hpkg he hl hopen hat ha hb
  · intro k rb e l p s hpend hpkg hb done
    refine ⟨?_, fun hd ha => editCommitApply_commits hpend hpkg hb hd ha, fun hd => editCommitApply_waits hpend hpkg hb hd⟩
    rw [editAtTick, hpend, hpkg]
    exact if_pos hb
  · intro k rb e l s hpend hl
    rw [exec_editCommitTimeout, execEditCommitTimeout, hpend]
    exact congrArg Host.Outcome.next (if_pos hl)
  · intro v s hv ha ho hw hm
    rw [exec_profileVoteComplete, execProfileVoteComplete, hv]
    refine congrArg Host.Outcome.next (if_pos ?_)
    rw [ha, ho, hw, decide_eq_true hm]
    rfl
  · intro v n s hv ha ho t
    have hfails : (v.agreed.isNone && voteFails s v) = true := by
      rw [voteFails, ha, ho]
      rfl
    rw [exec_profileVoteFailed, execProfileVoteFailed, hv]
    dsimp only
    rw [if_pos hfails, ho]
    rfl
  · intro t c k p s hp hf hd hm ha
    have hgo : ¬ (!switchDue s || decide (s.mode.mode = mTrack) || !alive s) = true := by
      rw [hd, decide_eq_false hm, ha]
      decide
    rw [exec_profileSwitch, execProfileSwitch, hp]
    dsimp only
    rw [hf]
    dsimp only
    rw [if_neg hgo]
    cases k <;> rfl

/-! ### Channel entries (R383, R384, R395, R403) -/

/-- Settles O44. -/
theorem channelEntriesAreLoadedAndGrowStale : Obligations.ChannelEntriesAreLoadedAndGrowStale := by
  have hgo {c : BitVec 12} {s : State} (hl : has s.chan.loading c.toNat = true) (hr : cacheRoom s = true) (ha : alive s = true) :
      ¬ (!has s.chan.loading c.toNat || !cacheRoom s || !alive s) = true := by
    rw [hl, hr, ha]
    decide
  refine ⟨?_, ?_, ?_⟩
  · intro c e s hl hr ha hh
    exact congrArg Host.Outcome.next ((if_neg (hgo hl hr ha)).trans
      (congrArg (fun x => endTaskLoad (refreshLayout x)) (if_pos hh)))
  · intro c r s hl hr ha hh
    have hn : ¬ hostEntry s c.toNat = true := by
      rw [hh]
      decide
    exact congrArg Host.Outcome.next ((if_neg (hgo hl hr ha)).trans
      (congrArg (fun x => endTaskLoad (refreshLayout x)) (if_neg hn)))
  · intro c e s he ha hs hd
    rw [exec_channelStale, execChannelStale]
    dsimp only
    rw [he]
    refine congrArg Host.Outcome.next (if_neg ?_)
    rw [ha, hs, hd]
    decide

end Sys2Proof.Machine

/-! PROOFS. Placement steps and power operations (O45). -/

namespace Sys2Proof.Machine

/-! ### Lines of home memory (R22, R152, R168) -/

/-- A write may lift bad lines of its own memory alone. -/
theorem liftBad_keeps {m : Nat} {s : State} {x : Nat × Nat} (h : x ∈ s.yard.bad) (hm : x.1 ≠ m) : x ∈ (liftBad m s).yard.bad := by
  obtain ⟨i, hi, rfl⟩ := List.mem_iff_getElem.mp h
  have hz : (s.yard.bad[i], i) ∈ s.yard.bad.zipIdx := by
    rw [List.mem_zipIdx_iff_getElem?]
    exact List.getElem?_eq_getElem hi
  refine List.mem_map.mpr ⟨_, List.mem_filter.mpr ⟨hz, ?_⟩, rfl⟩
  rw [decide_eq_false hm]
  rfl

theorem homeLineMove_barn {line : Nat} {b : Fin 4} {s : State} (hm : s.yard.moves = [(line, .barn b)]) (hw : lineWaits s line = false)
    (ha : alive s = true) (hp : (barn s b).power = 2) (hf : barnFits s (Tab.set s.yard.homeLoc line b) s.yard.ringLoc b = true) :
    exec (.homeLineMove line) s = .next (liftBad (b.val + 1) { s with yard := { s.yard with
      moves := [], homeLoc := Tab.set s.yard.homeLoc line b } }) := by
  have hfind : s.yard.moves.find? (fun m => m.1 = line) = some (line, .barn b) := by simp [hm]
  have herase : s.yard.moves.erase (line, .barn b) = [] := by simp [hm]
  rw [exec_homeLineMove, execHomeLineMove, hfind]
  dsimp only
  rw [if_neg]
  · rw [herase]
    rfl
  · rw [hw, ha, decide_eq_true hp, show barnFits s (moveLine s.yard.homeLoc (line, .barn b)) s.yard.ringLoc b = true from hf]
    decide

theorem homeLineMove_global {line : Nat} {s : State} (hm : s.yard.moves = [(line, .global)]) (hw : lineWaits s line = false)
    (ha : alive s = true) (hf : globalFits s (Tab.del s.yard.homeLoc line) = true) :
    exec (.homeLineMove line) s = .next (liftBad 0 { s with yard := { s.yard with
      moves := [], homeLoc := Tab.del s.yard.homeLoc line } }) := by
  have hfind : s.yard.moves.find? (fun m => m.1 = line) = some (line, .global) := by simp [hm]
  have herase : s.yard.moves.erase (line, .global) = [] := by simp [hm]
  rw [exec_homeLineMove, execHomeLineMove, hfind]
  dsimp only
  rw [if_neg]
  · rw [herase]
    rfl
  · rw [hw, ha, show globalFits s (moveLine s.yard.homeLoc (line, .global)) = true from hf]
    decide

/-! ### Power operations (R169, R170) -/

/-- A power operation that may run and has its budget takes its effect. -/
theorem powered_runs {on : Bool} {ns mA : Nat} {effect : State → State} {s r : State} (hon : on = true) (ha : alive s = true)
    (hr : powerOp ns mA s = some r) : powered on ns mA effect s = effect r := by
  rw [powered, hon, ha, hr]
  rfl

theorem powerOp_frame {ns mA : Nat} {s r : State} (h : powerOp ns mA s = some r) :
    r = { s with yard := { s.yard with ledger := r.yard.ledger } } := by
  unfold powerOp at h
  dsimp only at h
  split at h
  · rw [← Option.some.inj h]
  · exact absurd h (by simp)

theorem wakeDecision_wakes {b : Fin 4} {s : State} (hp : (barn s b).present = true) (h0 : (barn s b).power = 0) (ha : alive s = true) :
    exec (.wakeDecision b) s = .next (modBarn b (fun x => { x with power := 1, wake := 1 })
      { s with yard := { s.yard with wakesTotal := satAdd 32 s.yard.wakesTotal 1, offDue := s.yard.offDue.filter (fun x => x != b) } }) := by
  refine congrArg Host.Outcome.next ((if_pos ha).trans (if_pos ?_))
  rw [h0, hp]
  rfl

/-- What a stall of a barn that goes off has left. -/
def gatedStall (x : Stall) : Stall := { x with ungated := false, mem := [] }

theorem gated_foldl {l : List StallId} {s : State} {u : StallId} (h : u ∈ l ∨ ((stall s u).mem = [] ∧ (stall s u).ungated = false)) :
    let t := l.foldl (fun s u => modStall u gatedStall s) s
    (stall t u).mem = [] ∧ (stall t u).ungated = false := by
  induction l generalizing s with
  | nil => exact h.resolve_left (by simp)
  | cons v l ih =>
    refine ih ?_
    by_cases huv : u = v
    · subst huv
      rw [stall_modStall_self]
      exact .inr ⟨rfl, rfl⟩
    · rw [stall_modStall_ne _ _ huv]
      exact h.imp_left fun hm => (List.mem_cons.mp hm).resolve_left huv

theorem mem_stallsOf (u : StallId) : u ∈ stallsOf u.barn := List.mem_map.mpr ⟨u.stall, List.mem_finRange _, rfl⟩

/-- A barn that is switched off. -/
def barnGated (b : Fin 4) (s : State) : State :=
  let s := (stallsOf b).foldl (fun s u => modStall u gatedStall s) s
  modBarn b (fun x => { x with power := 0, wake := 0, solverOn := false })
    { s with yard := { s.yard with offDue := s.yard.offDue.filter (fun x => x != b) } }

theorem barnPowerOff_acts {b : Fin 4} {s r : State} (ha : alive s = true) (hp : (barn s b).power = 2)
    (hd : s.yard.offDue.contains b = true) (hn : nothingPlaced s b = true) (hs : plannedSoon s b = false) (hr : reserveStays s b = true)
    (hh : hot s = false) (ho : powerOp 7000 300 s = some r) : exec (.barnPowerOff b) s = .next (barnGated b r) := by
  refine congrArg Host.Outcome.next (powered_runs ?_ ha ho)
  rw [hp, hd, hn, hs, hr, hh]
  rfl

theorem barnGated_fields (b : Fin 4) (r : State) : (barn (barnGated b r) b).power = 0 ∧ (barn (barnGated b r) b).wake = 0 ∧
    ∀ u : StallId, u.barn = b → (stall (barnGated b r) u).mem = [] ∧ (stall (barnGated b r) u).ungated = false := by
  refine ⟨?_, ?_, fun u hu => ?_⟩
  · rw [barnGated, barn_modBarn_self]
  · rw [barnGated, barn_modBarn_self]
  · subst hu
    exact gated_foldl (s := r) (.inl (mem_stallsOf u))

/-- Settles O45. -/
theorem placementAndPowerOperationsAct : Obligations.PlacementAndPowerOperationsAct := by
  refine ⟨?_, ?_, ?_, ?_, ?_, ?_, ?_, ?_, ?_, ?_, ?_, ?_, fun ns mA s r h => powerOp_frame h⟩
  · intro t m s hf ha
    have hgo : ((task s t).fence.isSome && alive s) = true := Bool.and_eq_true_iff.mpr ⟨Option.isSome_iff_ne_none.mpr hf, ha⟩
    exact ⟨fun hm => congrArg Host.Outcome.next ((if_pos hgo).trans (if_neg hm)),
      fun hm => congrArg Host.Outcome.next ((if_pos hgo).trans (if_pos hm))⟩
  · intro t src tag s hf ha htag hm
    refine congrArg Host.Outcome.next (if_pos ?_)
    rw [Option.isSome_iff_ne_none.mpr hf, ha, decide_eq_true htag, hm]
    rfl
  · intro line b s hm hw ha hp hf
    exact homeLineMove_barn hm hw ha hp hf
  · intro line s hm hw ha hf
    exact homeLineMove_global hm hw ha hf
  · exact fun m s => ⟨rfl, fun x => liftBad_keeps⟩
  · intro b s hp h0 ha
    exact ⟨_, wakeDecision_wakes hp h0 ha, by rw [barn_modBarn_self], by rw [barn_modBarn_self], rfl, rfl, rfl⟩
  · intro b s r ha hp
    exact ⟨fun hw hr => congrArg Host.Outcome.next (powered_runs (by rw [wakeAt, hp, hw]; rfl) ha hr),
      fun hw hr => congrArg Host.Outcome.next (powered_runs (by rw [wakeAt, hp, hw]; rfl) ha hr),
      fun hw hr => congrArg Host.Outcome.next (powered_runs (by rw [wakeAt, hp, hw]; rfl) ha hr)⟩
  · intro u s r ha hp hu hs hr
    exact congrArg Host.Outcome.next (powered_runs (by rw [hp, hu, bne_iff_ne.mpr hs]; rfl) ha hr)
  · intro b s r ha hp hon hout hr
    exact congrArg Host.Outcome.next (powered_runs (by rw [hp, hon, hout]; rfl) ha hr)
  · intro u s r ha hu hres hr
    exact congrArg Host.Outcome.next (powered_runs (by rw [hu, hres]; rfl) ha hr)
  · intro b s r ha hon hrun hq hr
    exact congrArg Host.Outcome.next (powered_runs (by rw [hon, hrun, hq]; rfl) ha hr)
  · intro b s r ha hp hd hn hs hres hh ho
    exact ⟨_, barnPowerOff_acts ha hp hd hn hs hres hh ho, barnGated_fields b r⟩

end Sys2Proof.Machine

/-! PROOFS. Ageing and faults of stalls, solvers and memories (O46). -/

namespace Sys2Proof.Machine

/-! ### Margins (R161, R162) -/

theorem readMargin_good {u : StallId} {m : Nat} {s : State} (h : (stall s u).state ≠ 4) (hm : 12 ≤ m) :
    readMargin u m s = modStall u (fun x => { x with margin := m }) s := by
  have h12 : decide (m < 12) = false := decide_eq_false (Nat.not_lt.mpr hm)
  have h6 : ¬ m < 6 := by omega
  rw [readMargin, if_neg h]
  dsimp only
  rw [h12, Bool.false_and, if_neg Bool.false_ne_true, if_neg h6]
  simp only [Bool.or_false]

/-- A stall whose margin is below 12 half per cent is reported AGED once. -/
def agedRead (u : StallId) (m : Nat) (s : State) : State :=
  let t := modStall u (fun x => { x with margin := m, aged := true }) s
  if (stall s u).aged then t else raise (stallSource u) 0x0210 0 m t

theorem readMargin_aged {u : StallId} {m : Nat} {s : State} (h : (stall s u).state ≠ 4) (hm : m < 12) :
    readMargin u m s = if m < 6 then degrade u false (agedRead u m s) else agedRead u m s := by
  have h12 : decide (m < 12) = true := decide_eq_true hm
  have h256 : m % 256 = m := Nat.mod_eq_of_lt (by omega)
  have haged : (if (decide (m < 12) && !(stall s u).aged) = true
      then raise (stallSource u) 0x0210 0 (m % 256) (modStall u (fun x => { x with margin := m, aged := x.aged || decide (m < 12) }) s)
      else modStall u (fun x => { x with margin := m, aged := x.aged || decide (m < 12) }) s) = agedRead u m s := by
    rw [agedRead, h12, h256]
    cases (stall s u).aged <;> simp
  rw [readMargin, if_neg h]
  dsimp only
  rw [haged]

theorem agedRead_stall (u : StallId) (m : Nat) (s : State) : stall (agedRead u m s) u = { stall s u with margin := m, aged := true } := by
  unfold agedRead
  dsimp only
  split
  · rw [stall_modStall_self]
  · rw [stall_congr (raise_stalls ..), stall_modStall_self]

theorem degrade_degraded {u : StallId} {byTest : Bool} {s : State} (h : (stall s u).state = 3) : degrade u byTest s = s :=
  if_pos (by rw [h]; rfl)

theorem degrade_acts {u : StallId} {byTest : Bool} {s : State} (h3 : (stall s u).state ≠ 3) (h4 : (stall s u).state ≠ 4) :
    degrade u byTest s = raise (stallSource u) 0x0211 0 ((stall s u).margin % 256 + 2 ^ 8 * b2n byTest)
      (modStall u (fun x => { x with state := 3, byTest := byTest }) s) := by
  have hgo : ¬ (decide ((stall s u).state = 3) || decide ((stall s u).state = 4)) = true := by
    rw [decide_eq_false h3, decide_eq_false h4]
    decide
  rw [degrade, if_neg hgo]
  dsimp only
  rw [stall_modStall_self]

theorem readMargin_below_12 {u : StallId} {m : Nat} {s : State} (h : (stall s u).state ≠ 4) (hm : m < 12) :
    (6 ≤ m ∨ (stall s u).state = 3 → readMargin u m s = agedRead u m s) ∧
    (m < 6 → (stall s u).state ≠ 3 →
      readMargin u m s = raise (stallSource u) 0x0211 0 m (modStall u (fun x => { x with state := 3, byTest := false }) (agedRead u m s))) := by
  rw [readMargin_aged h hm]
  have hstate : (stall (agedRead u m s) u).state = (stall s u).state := by rw [agedRead_stall]
  refine ⟨fun hs => ?_, fun h6 h3 => ?_⟩
  · split
    case isTrue h6 => exact degrade_degraded (hstate.trans (hs.resolve_left (Nat.not_le.mpr h6)))
    case isFalse => rfl
  · have h256 : m % 256 = m := Nat.mod_eq_of_lt (by omega)
    rw [if_pos h6, degrade_acts (hstate ▸ h3) (hstate ▸ h), agedRead_stall]
    dsimp only
    rw [h256]
    rfl

/-! ### Stalls and solvers out of service (R164 to R166) -/

theorem retireStall_retires (u : StallId) (c : Nat) (s : State) :
    (stall (retireStall u c s) u).state = 4 ∧ (retireStall u c s).commit = s.commit := by
  unfold retireStall
  dsimp only
  split
  case h_1 v hv =>
    have hne : u ≠ v := by
      rintro rfl
      have := List.find?_some hv
      rw [stall_modStall_self] at this
      simp at this
    refine ⟨?_, by rw [raise_commit]; rfl⟩
    rw [stall_congr (raise_stalls ..), stall_modStall_ne _ _ hne, stall_modStall_self]
  case h_2 =>
    refine ⟨?_, by rw [raise_commit, raise_commit]; rfl⟩
    rw [stall_congr (raise_stalls ..), stall_congr (raise_stalls ..), stall_modStall_self]

theorem endCalls_solverOut (b : Fin 4) (l : List Call) (s : State) :
    (barn (l.foldl (fun s c => endCall b c errNoSolver c.cycles c.pc.toNat s) s) b).solverOut = (barn s b).solverOut := by
  refine List.foldlRecOn (motive := fun x : State => (barn x b).solverOut = (barn s b).solverOut) _ _ rfl fun x hx c _ => ?_
  rw [barn, endCall_barns]
  refine Eq.trans ?_ hx
  simp [modBarn, barn]

theorem retireSolver_retires (b : Fin 4) (c : Nat) (s : State) : (barn (retireSolver b c s) b).solverOut = true ∧
    (barn (retireSolver b c s) b).run = none ∧ (barn (retireSolver b c s) b).queue = [] := by
  unfold retireSolver
  dsimp only
  rw [barn, raise_barns]
  refine ⟨?_, by simp [modBarn, barn], by simp [modBarn, barn]⟩
  have h := endCalls_solverOut b ((barn s b).run.toList ++ (barn s b).queue) (modBarn b (fun x => { x with solverOut := true, solverOn := false }) s)
  rw [barn_modBarn_self] at h
  refine Eq.trans ?_ h
  simp [modBarn, barn]

theorem stallFailed_empty {u : StallId} {d : Byte} {s : State} (hs : (stall s u).state ≠ 4) (hp : (barn s u.barn).present = true)
    (h1 : 1 ≤ d.toNat) (h4 : d.toNat ≤ 4) (ha : alive s = true) (hr : residents s u = []) :
    exec (.stallFailed u d) s = .next (retireStall u 2 (raise (stallSource u) 0x0212 0 d.toNat
      (modStall u (fun x => { x with mem := [] }) s))) := by
  have hd : d ≠ 0 := by
    rintro rfl
    exact absurd h1 (by decide)
  have hgo : ¬ (decide ((stall s u).state = 4) || !(barn s u.barn).present || decide (d = 0) || decide (4 < d.toNat) || !alive s) = true := by
    rw [decide_eq_false hs, hp, decide_eq_false hd, decide_eq_false (Nat.not_lt.mpr h4), ha]
    decide
  rw [exec_stallFailed, execStallFailed, if_neg hgo, hr]
  rfl

/-- Settles O46. -/
theorem healthCommandsRetireAndReport : Obligations.HealthCommandsRetireAndReport := by
  have hopen {s : State} (ha : alive s = true) : ¬ (!alive s) = true := by
    rw [ha]
    decide
  refine ⟨?_, fun u m s => readMargin_good, ?_, ?_, ?_, ?_, retireStall_retires, ?_, retireSolver_retires, ?_, ?_, ?_, ?_, ?_⟩
  · intro u m s ha hp
    exact congrArg Host.Outcome.next ((if_neg (hopen ha)).trans (if_pos hp))
  · intro u m s h hm
    exact readMargin_below_12 h hm
  · intro b m s ha hp ho t
    have hgo : ¬ (!(barn s b).present || (barn s b).solverOut) = true := by
      rw [hp, ho]
      decide
    refine congrArg Host.Outcome.next ((if_neg (hopen ha)).trans ((if_neg hgo).trans (if_congr ?_ rfl rfl)))
    rw [Bool.and_eq_true, decide_eq_true_eq, Option.isNone_iff_eq_none, barn_modBarn_self]
    exact Iff.rfl
  · intro u s hs hr hu ha
    refine congrArg Host.Outcome.next (if_pos ?_)
    rw [hs, hr, hu, ha]
    rfl
  · intro u d s hs hp h1 h4 ha hr
    exact stallFailed_empty hs hp h1 h4 ha hr
  · intro b s hp ho ha
    refine congrArg Host.Outcome.next ((if_neg ?_).trans (if_pos rfl))
    rw [hp, ho, ha]
    decide
  · intro u ok s ht ha
    refine congrArg Host.Outcome.next (if_neg ?_)
    rw [ht, ha]
    decide
  · intro m a s ha
    refine ⟨congrArg Host.Outcome.next (if_neg (hopen ha)), congrArg Host.Outcome.next (if_neg (hopen ha)),
      congrArg Host.Outcome.next (if_neg (hopen ha)), fun hm => ?_⟩
    have hkeep : s.yard.bad.filter (fun x => x != (m.val, lineOf a.toNat)) = s.yard.bad :=
      List.filter_eq_self.mpr fun x hx => bne_iff_ne.mpr fun e => hm (e ▸ hx)
    refine congrArg Host.Outcome.next ((if_neg (hopen ha)).trans ?_)
    dsimp only
    rw [hkeep]
    rfl
  · intro u f i s ha hi hp
    refine congrArg Host.Outcome.next ((if_neg (hopen ha)).trans ?_)
    dsimp only
    rw [ownFault, hi]
    exact if_pos hp
  · intro u a s ha b
    exact congrArg Host.Outcome.next (if_neg (hopen ha))
  · intro b temp s hp ha t
    have hgo : ¬ (!(barn s b).present || !alive s) = true := by
      rw [hp, ha]
      decide
    refine ⟨fun h1 h2 => ?_, fun h => ?_⟩
    · refine congrArg Host.Outcome.next ((if_neg hgo).trans (if_neg ?_))
      rw [decide_eq_false (Int.not_lt.mpr h1), decide_eq_false (Int.not_le.mpr h2)]
      decide
    · refine congrArg Host.Outcome.next ((if_neg hgo).trans (if_pos ?_))
      rw [Bool.or_eq_true, decide_eq_true_eq, decide_eq_true_eq]
      exact h

end Sys2Proof.Machine
/-! PROOFS. Digital inputs and outputs, current loops and HART (O47, O48, O49). -/

namespace Sys2Proof.Machine

/-! ### Changes of one channel -/

theorem vmod_congr {α : Type} {n : Nat} {v : Vector α n} {i : Nat} {f g : α → α} (h : ∀ hi : i < n, f v[i] = g v[i]) :
    vmod v i f = vmod v i g := by
  unfold vmod
  split
  case isTrue hi => rw [h hi]
  case isFalse => rfl

theorem modDi_congr {n : Nat} {f g : DiCh → DiCh} {s : State} (h : ∀ hi : n < 64, f s.field.di[n] = g s.field.di[n]) :
    modDi n f s = modDi n g s := by
  rw [modDi, vmod_congr h]
  rfl

theorem modDo_congr {n : Nat} {f g : DoCh → DoCh} {s : State} (h : ∀ hi : n < 64, f s.field.dout[n] = g s.field.dout[n]) :
    modDo n f s = modDo n g s := by
  rw [modDo, vmod_congr h]
  rfl

theorem withEdges_congr {f g : State → State} {s : State} (h : f s = g s) : withEdges f s = withEdges g s := by
  rw [withEdges, h]
  rfl

/-! ### Counting inputs (R425) -/

section
variable {n : Fin 8} {level : Bool} {ns : Nat} {e : Bytes} {s : State}

/-- A registered phase of a counting input counts a rise after INVERT. -/
theorem countPhase_eq (inv : Bool) (d : DiCh) : countPhase inv level d =
    { d with phase := some level, count := if level ≠ inv ∧ d.phase = some inv then d.count + 1 else d.count } := by
  have hrose : ((level != inv) && d.phase.any (fun p => p = inv)) = true ↔ level ≠ inv ∧ d.phase = some inv := by
    rw [Bool.and_eq_true, bne_iff_ne]
    cases d.phase <;> simp
  unfold countPhase
  dsimp only
  rw [if_congr hrose rfl rfl]

/-- A phase of a counting input, registered or not, short or not. -/
theorem countEdge_acts (hc : counts s n.val = true) (ha : alive s = true) (he : diUsable s n.val = some e) :
    exec (.countEdge n ⟨level, ns⟩) s = .next (refreshChan (modDi n.val (fun d =>
      let d := if (registers ns s).1 then countPhase (bitAt e 16 0) level d else d
      { d with overrate := d.overrate || decide (ns < 4000), shortAt := if decide (ns < 4000) then nowUs s else d.shortAt })
        (registers ns s).2) n.val) := by
  have hgo : ¬ (!counts s n.val || !alive s) = true := by
    rw [hc, ha]
    decide
  rw [exec_countEdge, execCountEdge, if_neg hgo]
  dsimp only
  rw [he]
  rfl

theorem countEdge_long (hc : counts s n.val = true) (ha : alive s = true) (he : diUsable s n.val = some e) (hn : 4000 ≤ ns) :
    exec (.countEdge n ⟨level, ns⟩) s = .next (refreshChan (modDi n.val (fun d => { d with
      phase := some level
      count := if level ≠ bitAt e 16 0 ∧ (s.field.di[n.val]).phase = some (bitAt e 16 0) then d.count + 1 else d.count }) s) n.val) := by
  have hreg : registers ns s = (true, s) := if_pos hn
  have hshort : decide (ns < 4000) = false := decide_eq_false (Nat.not_lt.mpr hn)
  rw [countEdge_acts hc ha he, hreg, hshort]
  refine congrArg (fun x => Host.Outcome.next (refreshChan x n.val)) (modDi_congr fun hi => ?_)
  simp only [if_true, countPhase_eq, Bool.or_false, Bool.false_eq_true, if_false]

theorem countEdge_short (hc : counts s n.val = true) (ha : alive s = true) (he : diUsable s n.val = some e) (hn : ns < 2000) :
    exec (.countEdge n ⟨level, ns⟩) s = .next (refreshChan (modDi n.val (fun d => { d with
      overrate := true, shortAt := nowUs s }) s) n.val) := by
  have hreg : registers ns s = (false, s) := (if_neg (by omega)).trans (if_pos hn)
  have hshort : decide (ns < 4000) = true := decide_eq_true (by omega)
  rw [countEdge_acts hc ha he, hreg, hshort]
  simp only [Bool.or_true, if_true, Bool.false_eq_true, if_false]

theorem countEdge_between (hc : counts s n.val = true) (ha : alive s = true) (he : diUsable s n.val = some e) (hn : 2000 ≤ ns)
    (hn' : ns < 4000) :
    ∃ reg : Bool, exec (.countEdge n ⟨level, ns⟩) s = .next (refreshChan (modDi n.val (fun d => { d with
      phase := if reg then some level else d.phase
      count := if reg ∧ level ≠ bitAt e 16 0 ∧ (s.field.di[n.val]).phase = some (bitAt e 16 0) then d.count + 1 else d.count
      overrate := true, shortAt := nowUs s }) { s with free := s.free + 1 }) n.val) := by
  have hreg : registers ns s = (Config.freeBit s.free, { s with free := s.free + 1 }) :=
    (if_neg (by omega)).trans (if_neg (by omega))
  have hshort : decide (ns < 4000) = true := decide_eq_true hn'
  refine ⟨Config.freeBit s.free, ?_⟩
  rw [countEdge_acts hc ha he, hreg, hshort]
  refine congrArg (fun x => Host.Outcome.next (refreshChan x n.val)) (modDi_congr fun hi => ?_)
  cases Config.freeBit s.free <;> simp [countPhase_eq]

end

/-- Settles O47. -/
theorem digitalInputsFollowTheirSamples : Obligations.DigitalInputsFollowTheirSamples := by
  refine ⟨?_, ?_, ?_, ?_, ?_, ?_⟩
  · intro g r s hs hp hst hr t limits
    have hgo : ¬ (!s.field.sampling || s.mode.pause || s.power.stopped) = true := by
      rw [hs, hp, hst]
      decide
    rw [exec_diSample, execDiSample, if_neg hgo]
    dsimp only
    rw [if_pos hr, if_pos (show (advanceTo (nextSample s g.val) s).time.running = true from hr)]
  · intro g s hw hr ha
    refine congrArg Host.Outcome.next (if_neg ?_)
    rw [hw, hr, ha]
    decide
  · intro n level ns e s hc ha he rises
    exact ⟨countEdge_long hc ha he, countEdge_short hc ha he, countEdge_between hc ha he⟩
  · intro n e s he hc ha
    rw [exec_chatterWindowExpire, execChatterWindowExpire, he]
    exact congrArg Host.Outcome.next (if_pos (Bool.and_eq_true_iff.mpr ⟨hc, ha⟩))
  · intro n e s he hb hl ha
    rw [exec_stuckTimeout, execStuckTimeout, he]
    refine congrArg Host.Outcome.next (if_pos ?_)
    rw [hb, Option.isSome_iff_ne_none.mpr hl, ha]
    rfl
  · intro n s ho ha
    exact congrArg Host.Outcome.next (if_pos (Bool.and_eq_true_iff.mpr ⟨ho, ha⟩))

/-! ### Digital outputs (R430 to R436) -/

theorem takeMeasured_group (r : DoReading) (s : State) (g : Fin 8) :
    (g.val < r.vfDv.length → some ((takeMeasured r s).field.doGrp[g]).vf = r.vfDv[g.val]?) ∧
    (g.val < r.groupMa.length → some ((takeMeasured r s).field.doGrp[g]).current = r.groupMa[g.val]?) := by
  refine ⟨fun h => ?_, fun h => ?_⟩ <;> simp [takeMeasured, h]

theorem takeMeasured_temp (r : DoReading) (s : State) (n : Fin 64) (h : n.val < r.tempC.length) :
    some ((takeMeasured r s).field.dout[n]).temp = r.tempC[n.val]? := by
  simp [takeMeasured, h]

/-- The retry of an output in thermal shutdown, when its wait has passed. -/
theorem retryOn_waited {d : DoCh} (h : d.thermal = 2) : retryOn { d with waited := true } =
    if d.cooled && d.applied then { d with waited := true, thermal := 0 } else { d with waited := true } := by
  simp [retryOn, h]

/-- The retry of an output in thermal shutdown, when it has cooled. -/
theorem retryOn_cooled {d : DoCh} (h : d.thermal = 2) : retryOn { d with cooled := true } =
    if d.waited && d.applied then { d with cooled := true, thermal := 0 } else { d with cooled := true } := by
  simp [retryOn, h]

theorem doThermalRetry_acts {n : Fin 64} {s : State} (ha : alive s = true) (ht : (s.field.dout[n]).thermal = 2)
    (hw : (s.field.dout[n]).waited = false) :
    exec (.doThermalRetry n) s = .next (refreshChan (withEdges (modDo n.val (fun d =>
        if d.cooled && d.applied then { d with waited := true, thermal := 0 } else { d with waited := true }))
      (advanceTo ((s.field.dout[n]).shutAt + 100000 * fieldAt ((entryOf s (64 + n.val)).getD []) 17 1) s)) (64 + n.val)) := by
  have hgo : (decide ((s.field.dout[n]).thermal = 2) && !(s.field.dout[n]).waited && alive s) = true := by
    rw [decide_eq_true ht, hw, ha]
    rfl
  refine congrArg Host.Outcome.next ((if_pos hgo).trans (congrArg (fun x => refreshChan x (64 + n.val)) (withEdges_congr
    (modDo_congr fun _ => retryOn_waited ht))))

theorem doThermalCooled_acts {n : Fin 64} {s : State} (ha : alive s = true) (ht : (s.field.dout[n]).thermal = 2) :
    exec (.doThermalCooled n) s = .next (refreshChan (withEdges (modDo n.val (fun d =>
      if d.waited && d.applied then { d with cooled := true, thermal := 0 } else { d with cooled := true })) s) (64 + n.val)) := by
  have hgo : (decide ((s.field.dout[n]).thermal = 2) && alive s) = true := Bool.and_eq_true_iff.mpr ⟨decide_eq_true ht, ha⟩
  exact congrArg Host.Outcome.next ((if_pos hgo).trans (congrArg (fun x => refreshChan x (64 + n.val)) (withEdges_congr
    (modDo_congr fun _ => retryOn_cooled ht))))

/-- Settles O48. -/
theorem digitalOutputsProtectThemselves : Obligations.DigitalOutputsProtectThemselves := by
  refine ⟨?_, ?_, ?_, ?_, ?_⟩
  · intro r s hs ha t
    exact ⟨congrArg Host.Outcome.next (if_pos (Bool.and_eq_true_iff.mpr ⟨hs, ha⟩)), fun g => (takeMeasured_group r s g).1,
      fun g => (takeMeasured_group r s g).2, takeMeasured_temp r s⟩
  · intro n s ha
    exact ⟨fun hd => congrArg Host.Outcome.next (if_pos (Bool.and_eq_true_iff.mpr ⟨hd, ha⟩)), congrArg Host.Outcome.next (if_pos ha)⟩
  · intro n s ha hd e
    exact congrArg Host.Outcome.next (if_pos (Bool.and_eq_true_iff.mpr ⟨hd, ha⟩))
  · intro n s ha ht e
    exact ⟨doThermalRetry_acts ha ht, doThermalCooled_acts ha ht⟩
  · intro g s ha
    refine ⟨fun ho => congrArg Host.Outcome.next (if_neg ?_), fun ho => congrArg Host.Outcome.next (if_pos ?_),
      fun ho ht => congrArg Host.Outcome.next (if_neg ?_), fun v => congrArg Host.Outcome.next (if_pos ha)⟩
    · rw [ho, ha]
      decide
    · rw [ho, ha]
      rfl
    · rw [ho, ht, ha]
      decide

/-! ### Current loops and HART (R439 to R461) -/

theorem hartAttempt_sends {n : Fin 32} {h : HartOp} {s : State} (hh : (s.loops[n]).hart = some h) (hs : h.sent = false)
    (ha : alive s = true) (hp : s.mode.pause = false) (ho : loopOut s.loops[n] = false) (hl : reservoirLow s n.val = false) :
    exec (.hartAttempt n) s = .next (modLoop n.val (fun l => { l with
      hart := some { h with made := h.made + 1, sent := true }
      hartTx := (List.replicate h.preambles 0xFF#8 ++ asSent h.request ++ [xorAll (asSent h.request)]).map hartChar }) s) := by
  rw [exec_hartAttempt, execHartAttempt, hh]
  refine congrArg Host.Outcome.next ((if_neg ?_).trans ((if_neg ?_).trans (if_neg ?_)))
  · rw [hs, ha, hp]
    decide
  · rw [ho]
    decide
  · rw [hl]
    decide

theorem completeOut_sound {k : Fin 8} {p : Wait → Bool} {status : Byte} {result off : Nat} {out : Bytes} {b : Busy} {s : State}
    (hb : (ring s k).busy = some b) (hp : p b.wait = true) (hd : b.discard = false) (hm : b.misuse = false) :
    completeOut k p status result off out s = complete k b.tag status result (hostWrite (b.bufAddr.toNat + off) out s) := by
  simp [completeOut, hb, hp, hd, hm]

theorem hartResponse_completes {n : Fin 32} {h : HartOp} {b : Busy} {f : HartFrame} {s : State} (hh : (s.loops[n]).hart = some h)
    (hs : h.sent = true) (ha : alive s = true) (hg : responseGood (asSent h.request) f = true) (hb : (ring s h.ring).busy = some b)
    (hw : b.wait = .hart n) (hd : b.discard = false) (hm : b.misuse = false) :
    exec (.hartResponse n f) s = .next (complete h.ring b.tag 0 ((frameChars f).take (f.raw.length - 1)).length
      (hostWrite (b.bufAddr.toNat + 8) ((frameChars f).take (f.raw.length - 1)) (modLoop n.val
        (fun l => { l with hart := none, hartTx := [], hartOk := min (l.hartOk + 1) 65535 }) s))) := by
  rw [exec_hartResponse, execHartResponse, hh]
  refine congrArg Host.Outcome.next ((if_neg ?_).trans ((if_neg ?_).trans (completeOut_sound hb ?_ hd hm)))
  · rw [hs, ha]
    decide
  · rw [hg]
    decide
  · rw [hw]
    exact decide_eq_true rfl

/-- Settles O49. -/
theorem loopsConvertAndTransact : Obligations.LoopsConvertAndTransact := by
  refine ⟨?_, ?_, ?_, ?_, ?_, ?_⟩
  · intro r s hl hs hp hr t
    have hgo : ¬ (!hasLoop s || !s.field.sampling || s.power.stopped) = true := by
      rw [hl, hs, hp]
      decide
    rw [exec_loopConversion, execLoopConversion, if_neg hgo]
    dsimp only
    rw [if_pos hr, if_pos (show (advanceTo (nextConversion s) s).time.running = true from hr)]
    rfl
  · intro n s hl ha
    exact congrArg Host.Outcome.next (if_pos (Bool.and_eq_true_iff.mpr ⟨hl, ha⟩))
  · intro n h s hh hs ha hp ho hl
    exact hartAttempt_sends hh hs ha hp ho hl
  · intro n h b f s hh hs ha hg hb hw hd hm
    exact hartResponse_completes hh hs ha hg hb hw hd hm
  · intro n h f s hh ha
    refine ⟨fun hs hg => ?_, fun hs hp ho => ?_⟩
    · rw [exec_hartResponse, execHartResponse, hh]
      refine congrArg Host.Outcome.next ((if_neg ?_).trans (if_pos ?_))
      · rw [hs, ha]
        decide
      · rw [hg]
        rfl
    · rw [exec_hartAttempt, execHartAttempt, hh]
      refine congrArg Host.Outcome.next ((if_neg ?_).trans (if_pos ho))
      rw [hs, ha, hp]
      decide
  · intro n s ha
    refine ⟨fun h => ?_, fun h => ?_, fun h hl => ?_, fun hl hh => ?_⟩
    · exact congrArg Host.Outcome.next (if_pos (Bool.and_eq_true_iff.mpr ⟨decide_eq_true h, ha⟩))
    · exact congrArg Host.Outcome.next (if_pos (Bool.and_eq_true_iff.mpr ⟨decide_eq_true h, ha⟩))
    · refine congrArg Host.Outcome.next (if_pos ?_)
      rw [decide_eq_true h, hl, ha]
      rfl
    · refine congrArg Host.Outcome.next (if_pos ?_)
      rw [hl, ha, hh]
      rfl

end Sys2Proof.Machine
/-! PROOFS. What the shared refreshes leave as it was: channel states, the time source, the star's lock. -/

namespace Sys2Proof.Machine

/-- Two states that differ at most in the host interface and its memory, the recorder, the tasks, the channels, the time and the star. -/
structure Refreshed (s t : State) : Prop where
  eq : t = { s with host := t.host, hostMem := t.hostMem, recorder := t.recorder, tasks := t.tasks, chan := t.chan, time := t.time, star := t.star }

section
variable {s t u : State}

theorem Refreshed.refl (s : State) : Refreshed s s := ⟨rfl⟩

theorem Refreshed.trans (h : Refreshed s t) (k : Refreshed t u) : Refreshed s u := by
  have hk := k.eq
  rw [h.eq] at hk
  exact ⟨hk⟩

theorem Refreshed.foldl {α : Type} {f : State → α → State} {l : List α} (hf : ∀ x a, Refreshed x (f x a)) : Refreshed s (l.foldl f s) :=
  List.foldlRecOn (motive := fun x => Refreshed s x) _ _ (Refreshed.refl s) fun x hx a _ => hx.trans (hf x a)

theorem Refreshed.ihloz (h : Refreshed s t) : t.ihloz = s.ihloz := by rw [h.eq]
theorem Refreshed.ret (h : Refreshed s t) : t.ret = s.ret := by rw [h.eq]
theorem Refreshed.factory (h : Refreshed s t) : t.factory = s.factory := by rw [h.eq]
theorem Refreshed.mode (h : Refreshed s t) : t.mode = s.mode := by rw [h.eq]
theorem Refreshed.power (h : Refreshed s t) : t.power = s.power := by rw [h.eq]
theorem Refreshed.field (h : Refreshed s t) : t.field = s.field := by rw [h.eq]
theorem Refreshed.prof (h : Refreshed s t) : t.prof = s.prof := by rw [h.eq]
theorem Refreshed.proj (h : Refreshed s t) : t.proj = s.proj := by rw [h.eq]
theorem Refreshed.commit (h : Refreshed s t) : t.commit = s.commit := by rw [h.eq]
theorem Refreshed.pair (h : Refreshed s t) : t.pair = s.pair := by rw [h.eq]
theorem Refreshed.can (h : Refreshed s t) : t.can = s.can := by rw [h.eq]
theorem Refreshed.eth (h : Refreshed s t) : t.eth = s.eth := by rw [h.eq]
theorem Refreshed.fw (h : Refreshed s t) : t.fw = s.fw := by rw [h.eq]
theorem Refreshed.yard (h : Refreshed s t) : t.yard = s.yard := by rw [h.eq]
theorem Refreshed.wdt (h : Refreshed s t) : t.wdt = s.wdt := by rw [h.eq]

theorem refreshed_raise (src code commit data : Nat) (s : State) : Refreshed s (raise src code commit data s) := by
  refine ⟨?_⟩
  conv_lhs => rw [raise_frame]
  simp only [raise_tasks, raise_chan, raise_time, raise_star]

theorem refreshed_trigger (k : BitVec 7) (s : State) : Refreshed s (trigger k s) := by
  unfold trigger
  dsimp only
  split
  · exact Refreshed.refl s
  · split
    · exact Refreshed.trans ⟨rfl⟩ (refreshed_raise ..)
    · exact ⟨rfl⟩

theorem refreshed_triggerAll (ts : List (BitVec 7)) (s : State) : Refreshed s (triggerAll ts s) :=
  Refreshed.foldl fun x k => refreshed_trigger k x

theorem refreshed_fireChan (id cond : Nat) (s : State) : Refreshed s (fireChan id cond s) := refreshed_triggerAll ..

theorem refreshed_refreshChan (id : Nat) (s : State) : Refreshed s (refreshChan s id) := by
  have hfault (c d : Nat) (x : State) : Refreshed x (fireChan id 3 (raiseChan id c d x)) :=
    (refreshed_raise ..).trans (refreshed_fireChan ..)
  unfold refreshChan
  split
  · exact Refreshed.refl s
  · dsimp only
    split
    · exact Refreshed.refl s
    · split
      · split
        · exact ⟨rfl⟩
        · exact Refreshed.trans ⟨rfl⟩ (hfault ..)
      · split
        · exact ⟨rfl⟩
        · split
          · exact Refreshed.trans ⟨rfl⟩ (refreshed_raise ..)
          · exact Refreshed.trans ⟨rfl⟩ (hfault ..)

theorem refreshed_refreshWhere (p : Nat → Option Bytes → Bool) (s : State) : Refreshed s (refreshWhere p s) :=
  Refreshed.foldl fun x c => refreshed_refreshChan c.1 x

theorem refreshed_refreshSource (s : State) : Refreshed s (refreshSource s) := by
  unfold refreshSource
  dsimp only
  split
  · exact ⟨rfl⟩
  · exact Refreshed.trans ⟨rfl⟩ (refreshed_raise ..)

theorem refreshed_refreshStar (s : State) : Refreshed s (refreshStar s) := by
  unfold refreshStar
  dsimp only
  split
  · exact Refreshed.refl s
  · exact Refreshed.trans ⟨rfl⟩ (refreshed_raise ..)

/-- A settings block depends on the variant and the blocks stored alone. -/
theorem block_congr (hf : t.factory = s.factory) (hr : t.ret = s.ret) (id : Nat) : block t id = block s id := by
  have hn : nCan t = nCan s := by
    rw [nCan, nCan, hasPaired, hasPaired, hf]
  have ha : blockAbsent t id = blockAbsent s id := by simp only [blockAbsent, hasPaired, hasLoop, hasStar, hasTelith, hf]
  simp only [block, presentFields, ha, hn, hr]

end

end Sys2Proof.Machine
/-! PROOFS. The Ihloz node (O50) and the star (O51). -/

namespace Sys2Proof.Machine

/-! ### What the node has sent, its cycle and its counts of empty slots -/

/-- The node's frames sent, its freight, its cycle and the counts of empty slots. -/
structure NodeKept (s t : State) : Prop where
  factory : t.factory = s.factory
  ret : t.ret = s.ret
  lastSent : t.ihloz.lastSent = s.ihloz.lastSent
  lastSentB : t.ihloz.lastSentB = s.ihloz.lastSentB
  freightQ : t.ihloz.freightQ = s.ihloz.freightQ
  cycle : t.ihloz.cycle = s.ihloz.cycle
  cycleAt : t.ihloz.cycleAt = s.ihloz.cycleAt
  idleNs : t.ihloz.idleNs = s.ihloz.idleNs
  empty : t.ihloz.empty = s.ihloz.empty

section
variable {s t u : State}

theorem NodeKept.refl (s : State) : NodeKept s s := ⟨rfl, rfl, rfl, rfl, rfl, rfl, rfl, rfl, rfl⟩

theorem NodeKept.trans (h : NodeKept s t) (k : NodeKept t u) : NodeKept s u :=
  ⟨k.factory.trans h.factory, k.ret.trans h.ret, k.lastSent.trans h.lastSent, k.lastSentB.trans h.lastSentB, k.freightQ.trans h.freightQ,
    k.cycle.trans h.cycle, k.cycleAt.trans h.cycleAt, k.idleNs.trans h.idleNs, k.empty.trans h.empty⟩

theorem NodeKept.foldl {α : Type} {f : State → α → State} {l : List α} (hf : ∀ x a, NodeKept x (f x a)) : NodeKept s (l.foldl f s) :=
  List.foldlRecOn (motive := fun x => NodeKept s x) _ _ (NodeKept.refl s) fun x hx a _ => hx.trans (hf x a)

theorem NodeKept.of_eq (hf : t.factory = s.factory) (hr : t.ret = s.ret) (hn : t.ihloz = s.ihloz) : NodeKept s t :=
  ⟨hf, hr, by rw [hn], by rw [hn], by rw [hn], by rw [hn], by rw [hn], by rw [hn], by rw [hn]⟩

theorem Refreshed.nodeKept (h : Refreshed s t) : NodeKept s t := NodeKept.of_eq h.factory h.ret h.ihloz

theorem NodeKept.block (h : NodeKept s t) (id : Nat) : block t id = block s id := block_congr h.factory h.ret id

theorem NodeKept.chUsed (h : NodeKept s t) (b : Bool) : chUsed t b = chUsed s b := by rw [Machine.chUsed, Machine.chUsed, h.block]

theorem NodeKept.ownNode (h : NodeKept s t) : ownNode t = ownNode s := by rw [Machine.ownNode, Machine.ownNode, h.block]

theorem nodeKept_setMembers (m : BitVec 32) (s : State) : NodeKept s (setMembers m s) := by
  unfold setMembers
  dsimp only
  split
  · exact NodeKept.refl s
  · refine NodeKept.trans ?_ (refreshed_raise ..).nodeKept
    exact ⟨rfl, rfl, rfl, rfl, rfl, rfl, rfl, rfl, rfl⟩

theorem nodeKept_viewMembers (m : BitVec 32) (s : State) : NodeKept s (viewMembers m s) := by
  unfold viewMembers
  split
  · exact nodeKept_setMembers ..
  · exact ⟨rfl, rfl, rfl, rfl, rfl, rfl, rfl, rfl, rfl⟩

theorem nodeKept_nodeState (st : BitVec 3) (s : State) : NodeKept s (nodeState st s) := by
  unfold nodeState
  dsimp only
  refine NodeKept.trans ?_ (refreshed_refreshStar _).nodeKept
  refine NodeKept.trans ?_ (refreshed_refreshSource _).nodeKept
  refine NodeKept.trans ?_ (refreshed_refreshWhere ..).nodeKept
  exact ⟨rfl, rfl, rfl, rfl, rfl, rfl, rfl, rfl, rfl⟩

theorem nodeKept_join (cold passive : Bool) (s : State) : NodeKept s (join cold passive s) := by
  unfold join
  dsimp only
  refine NodeKept.trans ?_ (nodeKept_setMembers ..)
  refine NodeKept.trans ?_ (refreshed_raise ..).nodeKept
  refine NodeKept.trans ?_ (nodeKept_nodeState ..)
  exact ⟨rfl, rfl, rfl, rfl, rfl, rfl, rfl, rfl, rfl⟩

theorem nodeKept_backOff (a b c : Bool) (s : State) : NodeKept s (backOff a b c s) := by
  unfold backOff
  dsimp only
  refine NodeKept.trans ?_ (refreshed_raise ..).nodeKept
  refine NodeKept.trans ?_ (nodeKept_nodeState ..)
  exact ⟨rfl, rfl, rfl, rfl, rfl, rfl, rfl, rfl, rfl⟩

theorem nodeKept_ownVote (s : State) : NodeKept s (ownVote s) := by
  unfold ownVote
  split
  · exact NodeKept.of_eq rfl rfl rfl
  · exact NodeKept.refl s

theorem nodeKept_ownSeen (a b : Bool) (s : State) : NodeKept s (ownSeen a b s) := ⟨rfl, rfl, rfl, rfl, rfl, rfl, rfl, rfl, rfl⟩

theorem nodeKept_passOwn (s : State) : NodeKept s (passOwn s) := by
  have h : NodeKept s (stillForwarding 8 (ihlozTick s) s).2 := by
    unfold stillForwarding
    split
    · exact NodeKept.refl s
    · split
      · exact NodeKept.refl s
      · split
        · exact NodeKept.refl s
        · exact NodeKept.of_eq rfl rfl rfl
  have h' : NodeKept s (if s.star.sync then (false, s) else stillForwarding 8 (ihlozTick s) s).2 := by
    split
    · exact NodeKept.refl s
    · exact h
  unfold passOwn
  split
  · exact NodeKept.refl s
  · dsimp only
    generalize (if s.star.sync then (false, s) else stillForwarding 8 (ihlozTick s) s) = r at h' ⊢
    split
    · exact h'.trans (NodeKept.of_eq rfl rfl rfl)
    · exact h'.trans (NodeKept.of_eq rfl rfl rfl)

theorem nodeKept_cycleEnd (s : State) : NodeKept s (cycleEnd s) := by
  unfold cycleEnd
  refine NodeKept.foldl fun x c => ?_
  split
  · split
    · exact NodeKept.refl x
    · exact NodeKept.of_eq rfl rfl rfl
  · exact NodeKept.refl x

theorem nodeKept_slotless (c : Sched) (s : State) : NodeKept s (slotless c s) := by
  unfold slotless
  refine NodeKept.foldl fun x n => ?_
  split
  · exact NodeKept.refl x
  · dsimp only
    split
    · refine NodeKept.trans ?_ (nodeKept_viewMembers ..)
      exact ⟨rfl, rfl, rfl, rfl, rfl, rfl, rfl, rfl, rfl⟩
    · exact ⟨rfl, rfl, rfl, rfl, rfl, rfl, rfl, rfl, rfl⟩

end

/-! ### Frames received and sent (R466, R468, R491, R495, R498, R501) -/

theorem sendOwn_sent (h : IhlozHeader) (pay : Bytes) (s : State) :
    (sendOwn h pay s).ihloz.lastSent = (if chUsed s false then some (frameSent h pay) else s.ihloz.lastSent) ∧
    (sendOwn h pay s).ihloz.lastSentB = (if chUsed s true then some (frameSent { h with channelB := true } pay) else s.ihloz.lastSentB) ∧
    (sendOwn h pay s).ihloz.freightQ = s.ihloz.freightQ ∧ (sendOwn h pay s).ihloz.cycle = s.ihloz.cycle := by
  have hp := nodeKept_passOwn (modIhloz (fun n => { n with
    lastSent := if chUsed s false then some (frameSent h pay) else n.lastSent
    lastSentB := if chUsed s true then some (frameSent { h with channelB := true } pay) else n.lastSentB }) s)
  exact ⟨hp.lastSent, hp.lastSentB, hp.freightQ, hp.cycle⟩

/-- The node when a frame of its own slot has gone. -/
def slotSettled (slot : Byte) (x : Slot) (s : State) : State :=
  modIhloz (fun n => { n with
    freightQ := if x.freight then n.freightQ.drop 1 else n.freightQ
    freightSeq := if x.freight then n.freightSeq + 1 else n.freightSeq
    devs := if x.sync then n.devs ++ [0] else n.devs
    frozen := Tab.del n.frozen slot.toNat }) s

/-- What the node does when it hears its own frame back, or not. -/
def slotHeard (a b : Bool) (s : State) : State :=
  let a := seenBack s false a
  let b := seenBack s true b
  let s := ownVote (ownSeen a b s)
  if s.ihloz.state = 4 && (a || b) then join false false s else s

theorem nodeKept_slotHeard (a b : Bool) (s : State) : NodeKept s (slotHeard a b s) := by
  have hk (a b : Bool) : NodeKept s (ownVote (ownSeen a b s)) := (nodeKept_ownSeen a b s).trans (nodeKept_ownVote _)
  unfold slotHeard
  dsimp only
  split
  · exact (hk ..).trans (nodeKept_join ..)
  · exact hk ..

/-- What a slot of the node leaves when its frame has gone. -/
def slotSent (slot : Byte) (x : Slot) (h : IhlozHeader) (pay : Bytes) (a b : Bool) (s : State) : State :=
  slotHeard a b (slotSettled slot x (sendOwn h pay s))

theorem slotSent_sent (slot : Byte) (x : Slot) (h : IhlozHeader) (pay : Bytes) (a b : Bool) (s : State) :
    let t := slotSent slot x h pay a b s
    t.ihloz.lastSent = (if chUsed s false then some (frameSent h pay) else s.ihloz.lastSent) ∧
    t.ihloz.lastSentB = (if chUsed s true then some (frameSent { h with channelB := true } pay) else s.ihloz.lastSentB) ∧
    t.ihloz.freightQ = if x.freight then s.ihloz.freightQ.drop 1 else s.ihloz.freightQ := by
  intro t
  obtain ⟨h1, h2, h3, -⟩ := sendOwn_sent h pay s
  have ht : NodeKept (slotSettled slot x (sendOwn h pay s)) t := nodeKept_slotHeard ..
  refine ⟨ht.lastSent.trans h1, ht.lastSentB.trans h2, ht.freightQ.trans ?_⟩
  rw [← h3]
  rfl

theorem ihlozSlotSend_eq {slot : Byte} {c : Sched} {x : Slot} {a b : Bool} {s : State} (ho : ownSlot s slot = some (c, x))
    (hs : sends s = true) :
    let u := advanceIhloz (cycleTick s + (actionPoint c x : Nat)) s
    exec (.ihlozSlotSend slot a b) s = .next (slotSent slot x (ownHeader u c slot.toNat (if x.freight then 2 else 0) x.length x.sync)
      (if x.freight then freightPayload u x else frozenPayload u slot.toNat x) a b u) := by
  have hgo : ¬ (!sends s) = true := by
    rw [hs]
    decide
  rw [exec_ihlozSlotSend, execIhlozSlotSend, ho]
  exact congrArg Host.Outcome.next (if_neg hgo)

/-- A frozen payload of its cycle and length leaves, and what is assembled where nothing was frozen. -/
theorem frozenPayload_eq {s : State} {k : Nat} {x : Slot} {pay : Bytes}
    (h : Tab.find s.ihloz.frozen k = some (s.ihloz.cycle, pay) ∧ pay.length = x.length ∨
      Tab.find s.ihloz.frozen k = none ∧ pay = assemble s k x) : frozenPayload s k x = pay := by
  unfold frozenPayload
  rcases h with ⟨hf, hl⟩ | ⟨hf, rfl⟩
  · rw [hf]
    exact if_pos (Bool.and_eq_true_iff.mpr ⟨decide_eq_true rfl, decide_eq_true hl⟩)
  · rw [hf]

theorem slot_found {slot : Byte} {c : Sched} {x : Slot} {s : State} (hc : schedNow s = some c) (hx : c.slots[slot.toNat]? = some x) :
    (schedNow s).bind (fun c => (c.slots[slot.toNat]?).map (fun x => (c, x))) = some (c, x) := by
  rw [hc, Option.bind_some, hx, Option.map_some]

theorem find_set (t : Tab Nat) (a : Nat) (x : Nat) : Tab.find (Tab.set t a x) a = some x := by
  induction t with
  | nil => simp [Tab.set, Tab.find]
  | cons p t ih =>
    obtain ⟨k, v⟩ := p
    unfold Tab.set
    split
    · simp [Tab.find]
    · split
      · simp [Tab.find]
      · next h => simpa [Tab.find, Ne.symm h] using ih

theorem getD_count (t : Tab Nat) (a n : Nat) : Tab.getD (Tab.count t a n) a 0 = min (Tab.getD t a 0 + 1) (2 ^ n - 1) := by
  rw [Tab.count, Tab.getD, find_set]
  rfl

theorem settleCopy_none {s : State} (h : s.ihloz.rx = none) : settleCopy s = s := by
  rw [settleCopy, h]
  rfl

/-- What an empty slot of another node leaves: it is counted, and a node that stays silent leaves the view. -/
def slotEmpty (c : Sched) (slot : Byte) (n : BitVec 5) (s : State) : State :=
  let quiet := Tab.getD s.ihloz.silent n.toNat 0 + 1
  let s := modIhloz (fun k => { k with
    empty := Tab.count k.empty n.toNat 16, silent := Tab.set k.silent n.toNat quiet }) s
  let own := (c.slots.filter (fun y => y.sender = n)).length
  let s := if own ≤ quiet then viewMembers (s.ihloz.members &&& ~~~(BitVec.ofNat 32 (2 ^ n.toNat))) s else s
  triggerAll (triggered s 3 (fun a => a.triggerSel.toNat = slot.toNat && a.triggerCond = 1)) s

theorem slotEmpty_empty (c : Sched) (slot : Byte) (n : BitVec 5) (s : State) :
    (slotEmpty c slot n s).ihloz.empty = Tab.count s.ihloz.empty n.toNat 16 := by
  unfold slotEmpty
  dsimp only
  rw [(refreshed_triggerAll ..).ihloz]
  split
  · rw [(nodeKept_viewMembers ..).empty]
    rfl
  · rfl

theorem ihlozSlotEnd_empty {slot : Byte} {c : Sched} {x : Slot} {s : State} (hc : schedNow s = some c) (hx : c.slots[slot.toNat]? = some x)
    (hn : nodeOn s = true) (hs : synced s = true) (ho : x.sender ≠ ownNode s) (hr : s.ihloz.rx = none) :
    exec (.ihlozSlotEnd slot) s = .next (slotEmpty c slot x.sender (modIhloz (fun k => { k with rx := none }) s)) := by
  have hgo : ¬ (!(nodeOn s && synced s) || decide (x.sender = ownNode s)) = true := by
    rw [hn, hs, decide_eq_false ho]
    decide
  have hgot : ¬ ((s.ihloz.rx.map (fun r => decide (r.slot = slot) && r.payload.isSome)).getD false) = true := by
    simp [hr]
  rw [exec_ihlozSlotEnd, execIhlozSlotEnd, slot_found hc hx]
  dsimp only
  rw [if_neg hgo, if_neg hgot, settleCopy_none hr]
  rfl

/-- What the copy of channel B carries beside its data is acted on at the slot's end. -/
theorem ihlozSlotEnd_held {slot : Byte} {c : Sched} {x : Slot} {r : SlotRx} {f : IhlozFrame} {s : State} (hc : schedNow s = some c)
    (hx : c.slots[slot.toNat]? = some x) (hn : nodeOn s = true) (hs : synced s = true) (ho : x.sender ≠ ownNode s)
    (hr : s.ihloz.rx = some r) (hslot : r.slot = slot) (hp : r.payload ≠ none) (hf : r.held = some f) :
    let t := actOnCopy f { s with ihloz := { s.ihloz with rx := some { r with held := none } } }
    exec (.ihlozSlotEnd slot) s = .next { t with ihloz := { t.ihloz with rx := none } } := by
  have hgo : ¬ (!(nodeOn s && synced s) || decide (x.sender = ownNode s)) = true := by
    rw [hn, hs, decide_eq_false ho]
    decide
  have hgot : ((s.ihloz.rx.map (fun r => decide (r.slot = slot) && r.payload.isSome)).getD false) = true := by
    rw [hr, Option.map_some, hslot, decide_eq_true rfl, Option.isSome_iff_ne_none.mpr hp]
    rfl
  have hsettle : settleCopy s = actOnCopy f { s with ihloz := { s.ihloz with rx := some { r with held := none } } } := by
    rw [settleCopy, hr, Option.bind_some, hf]
    simp only [modIhloz, hr, Option.map_some]
  rw [exec_ihlozSlotEnd, execIhlozSlotEnd, slot_found hc hx]
  dsimp only
  rw [if_neg hgo, if_pos hgot, hsettle]
  rfl

end Sys2Proof.Machine

namespace Sys2Proof.Machine

/-! ### Correction, cycle starts and cold starts (R483, R486, R488, R489) -/

theorem clockSyncCorrection_acts {c : Sched} {s : State} (hc : schedNow s = some c) (hn : nodeOn s = true)
    (hs : synced s = true ∨ s.ihloz.state = 2) (hg : 2 * c.guard_ ≥ (midpoint2 s.ihloz.devs).natAbs) :
    exec .clockSyncCorrection s = .next { s with ihloz := { s.ihloz with
      lastM := midpoint2 s.ihloz.devs * 5, idleNs := midpoint2 s.ihloz.devs * 5
      ratePpb := max (-500000) (min 500000 (s.ihloz.ratePpb +
        roundDiv (midpoint2 s.ihloz.devs * 5 * 1000000) (8 * c.cycleUs)))
      offSync := false, devs := [] } } := by
  have hgo : ¬ (!(nodeOn s && (synced s || decide (s.ihloz.state = 2)))) = true := by
    rw [hn, Bool.true_and, Bool.not_eq_true', Bool.not_eq_false, Bool.or_eq_true, decide_eq_true_eq]
    exact hs
  have hoff : decide (2 * c.guard_ < (midpoint2 s.ihloz.devs).natAbs) = false := decide_eq_false (Nat.not_lt.mpr hg)
  rw [exec_clockSyncCorrection, execClockSyncCorrection, hc]
  dsimp only
  rw [if_neg hgo, hoff, Bool.false_and, Bool.false_and, if_neg Bool.false_ne_true]
  rfl

/-- The next cycle begins where the last one ends, with its count one on. -/
theorem newCycle_advanced (c : Sched) (s : State) :
    let n := newCycle c (slotless c (cycleEnd s))
    let b := advanceIhloz (cycleTick n) n
    b.ihloz.cycle = s.ihloz.cycle + 1 ∧ b.ihloz.cycleAt = s.ihloz.cycleAt + 1000 * c.cycleUs + s.ihloz.idleNs := by
  have h := (nodeKept_cycleEnd s).trans (nodeKept_slotless c _)
  generalize slotless c (cycleEnd s) = x at h
  refine ⟨congrArg (· + 1) h.cycle, ?_⟩
  show x.ihloz.cycleAt + 1000 * c.cycleUs + x.ihloz.idleNs = _
  rw [h.cycleAt, h.idleNs]

theorem ihlozCycleStart_acts {off : Int} {c : Sched} {s : State} (hc : schedNow s = some c) (hn : nodeOn s = true)
    (hs : synced s = true ∨ s.ihloz.state = 2) :
    let n := newCycle c (slotless c (cycleEnd (settleCopy s)))
    let b := advanceIhloz (cycleTick n) n
    let a := cycleState (keptOld (if b.star.sync
      then (List.finRange 8).foldl portCycle { b with star := { b.star with forwarding := none } } else b))
    exec (.ihlozCycleStart off) s = .next (if a.ihloz.state = 5 || a.ihloz.state = 6 then align off a else a) := by
  have hgo : ¬ (!(nodeOn s && (synced s || decide (s.ihloz.state = 2)))) = true := by
    rw [hn, Bool.true_and, Bool.not_eq_true', Bool.not_eq_false, Bool.or_eq_true, decide_eq_true_eq]
    exact hs
  rw [exec_ihlozCycleStart, execIhlozCycleStart, hc]
  exact congrArg Host.Outcome.next (if_neg hgo)

/-- A node in COLD_START at cycle 0 of its start mode, before its frame goes. -/
def coldStarted (c : Sched) (k : Nat) (s : State) : State :=
  nodeState 2 (modIhloz (fun n => { n with
    mode := BitVec.ofNat 3 (startMode s), cycle := 0
    cycleAt := 10 * ((ihlozTick s : Int) - (((c.slots[k]?).map (actionPoint c)).getD 0 : Nat)), idleNs := 0, since := 0, confirmed := true
    seen := false, sentCycle := false, members := 0, silent := [], rx := none, devs := [], frozen := [] }) s)

/-- The header of a cold-start frame. -/
def coldHeader (c : Sched) (k : Nat) (s : State) : IhlozHeader := ownHeader s c k 1 0 (((c.slots[k]?).map (fun x => x.sync)).getD false)

/-- The node when its cold-start frame has gone: it goes on, or backs off where it did not hear the frame. -/
def coldSent (c : Sched) (k : Nat) (seenA seenB : Bool) (s : State) : State :=
  let s := sendOwn (coldHeader c k s) [] s
  let a := seenBack s false seenA
  let b := seenBack s true seenB
  let s := ownSeen a b s
  if a || b then s else backOff false false true s

theorem ihlozTWaitExpire_eq {c : Sched} {k : Nat} {a b : Bool} {s : State} (hc : Tab.find s.ihloz.scheds (startMode s) = some c)
    (hk : firstSlot c (ownNode s) = some k) (hn : nodeOn s = true) (hcold : bitAt (block s 0x0401) 0 3 = true)
    (hs : s.ihloz.state = 1 ∨ s.ihloz.state = 3) :
    exec (.ihlozTWaitExpire a b) s = .next (coldSent c k a b (coldStarted c k (advanceIhloz (tWaitEnd c s) s))) := by
  have hgo : ¬ (!(nodeOn s && bitAt (block s 0x0401) 0 3 && (decide (s.ihloz.state = 1) || decide (s.ihloz.state = 3)))) = true := by
    rw [hn, hcold, Bool.true_and, Bool.true_and, Bool.not_eq_true', Bool.not_eq_false, Bool.or_eq_true, decide_eq_true_eq, decide_eq_true_eq]
    exact hs
  rw [exec_ihlozTWaitExpire, execIhlozTWaitExpire, hc]
  dsimp only
  rw [hk]
  exact congrArg Host.Outcome.next (if_neg hgo)

theorem coldSent_sent (c : Sched) (k : Nat) (a b : Bool) (s : State) :
    (coldSent c k a b s).ihloz.cycle = s.ihloz.cycle ∧
    (coldSent c k a b s).ihloz.lastSent = (if chUsed s false then some (frameSent (coldHeader c k s) []) else s.ihloz.lastSent) ∧
    (coldSent c k a b s).ihloz.lastSentB =
      (if chUsed s true then some (frameSent { coldHeader c k s with channelB := true } []) else s.ihloz.lastSentB) := by
  obtain ⟨h1, h2, -, h4⟩ := sendOwn_sent (coldHeader c k s) [] s
  have ht : NodeKept (sendOwn (coldHeader c k s) [] s) (coldSent c k a b s) := by
    unfold coldSent
    dsimp only
    split
    · exact nodeKept_ownSeen ..
    · exact (nodeKept_ownSeen ..).trans (nodeKept_backOff ..)
  exact ⟨ht.cycle.trans h4, ht.lastSent.trans h1, ht.lastSentB.trans h2⟩

theorem coldStarted_kept (c : Sched) (k : Nat) (s : State) :
    (coldStarted c k s).factory = s.factory ∧ (coldStarted c k s).ret = s.ret ∧ (coldStarted c k s).ihloz.cycle = 0 ∧
    (coldStarted c k s).ihloz.lastSent = s.ihloz.lastSent ∧ (coldStarted c k s).ihloz.lastSentB = s.ihloz.lastSentB := by
  unfold coldStarted
  have h (x : State) : NodeKept x (nodeState 2 x) := nodeKept_nodeState 2 x
  exact ⟨(h _).factory, (h _).ret, (h _).cycle, (h _).lastSent, (h _).lastSentB⟩

/-- A node whose T_WAIT ends sends its cold-start frame on each channel in use. -/
theorem ihlozTWaitExpire_sends {c : Sched} {k : Nat} {s : State} (hc : Tab.find s.ihloz.scheds (startMode s) = some c)
    (hk : firstSlot c (ownNode s) = some k) (hn : nodeOn s = true) (hcold : bitAt (block s 0x0401) 0 3 = true)
    (hs : s.ihloz.state = 1 ∨ s.ihloz.state = 3) :
    ∃ (t : State) (h : IhlozHeader), exec (.ihlozTWaitExpire true true) s = .next t ∧ t.ihloz.cycle = 0 ∧
      t.ihloz.lastSent = (if chUsed s false then some (frameSent h []) else s.ihloz.lastSent) ∧
      t.ihloz.lastSentB = (if chUsed s true then some (frameSent { h with channelB := true } []) else s.ihloz.lastSentB) ∧
      h.type = 1 ∧ h.cycle = 0 ∧ h.sender = ownNode s ∧ h.slot.toNat = k % 256 := by
  obtain ⟨hf, hr, h0, hA, hB⟩ := coldStarted_kept c k (advanceIhloz (tWaitEnd c s) s)
  obtain ⟨g1, g2, g3⟩ := coldSent_sent c k true true (coldStarted c k (advanceIhloz (tWaitEnd c s) s))
  have hblock (id : Nat) : block (coldStarted c k (advanceIhloz (tWaitEnd c s) s)) id = block s id := block_congr hf hr id
  have hu (b : Bool) : chUsed (coldStarted c k (advanceIhloz (tWaitEnd c s) s)) b = chUsed s b := by rw [chUsed, chUsed, hblock]
  have hown : ownNode (coldStarted c k (advanceIhloz (tWaitEnd c s) s)) = ownNode s := by rw [ownNode, ownNode, hblock]
  rw [hu, hA] at g2
  rw [hu, hB] at g3
  refine ⟨_, coldHeader c k (coldStarted c k (advanceIhloz (tWaitEnd c s) s)), ihlozTWaitExpire_eq hc hk hn hcold hs, g1.trans h0,
    g2, g3, rfl, ?_, hown, BitVec.toNat_ofNat ..⟩
  show BitVec.ofNat 64 (coldStarted c k (advanceIhloz (tWaitEnd c s) s)).ihloz.cycle = 0
  rw [h0]
  rfl

/-! ### Collision markers (R479, R480, R489) -/

theorem passMarker_same (p : Option (Fin 8)) (s : State) :
    (passMarker p s).ihloz = s.ihloz ∧ nodeOn (passMarker p s) = nodeOn s := by
  unfold passMarker
  split
  · split <;> exact ⟨rfl, rfl⟩
  · exact ⟨rfl, rfl⟩

/-- Settles O50. -/
theorem theIhlozNodeFollowsItsSchedule : Obligations.TheIhlozNodeFollowsItsSchedule := by
  refine ⟨?_, ?_, ?_, ?_, ?_, ?_, ?_, ?_, fun h pay => ⟨rfl, rfl⟩, ?_, ?_⟩
  · intro chB f a s hn hu h0 hsender hreach u v
    have hgo : ¬ (!(nodeOn s && chUsed s chB) || decide (s.ihloz.state = 0) || decide (f.header.sender = ownNode s) ||
        !reaches s chB f.header.slot) = true := by
      rw [hn, hu, decide_eq_false h0, decide_eq_false hsender, hreach]
      decide
    have hvalid (hv : copyValid u chB f a = true) : ¬ (!copyValid u chB f a) = true := by
      rw [hv]
      decide
    refine ⟨fun hv => congrArg Host.Outcome.next ((if_neg hgo).trans (if_pos ?_)), fun hv hsync => ?_⟩
    · rw [show copyValid (advanceIhloz a s) chB f a = false from hv]
      rfl
    · have hsync' : ¬ (!(synced v && decide (f.header.mode = v.ihloz.mode) && decide (f.header.cycle.toNat = v.ihloz.cycle))) = true := by
        rw [hsync]
        decide
      refine ⟨fun hr => congrArg Host.Outcome.next ((if_neg hgo).trans ((if_neg (hvalid hv)).trans ((if_neg hsync').trans ?_))),
        fun r hr hslot hp => congrArg Host.Outcome.next ((if_neg hgo).trans ((if_neg (hvalid hv)).trans ((if_neg hsync').trans ?_)))⟩
      · rw [show (validAdvances chB f a (checkTag f (modIhloz (fun n => { n with heard := true }) (advanceIhloz a s)))).ihloz.rx = none
          from hr]
      · rw [show (validAdvances chB f a (checkTag f (modIhloz (fun n => { n with heard := true }) (advanceIhloz a s)))).ihloz.rx = some r
          from hr]
        refine if_pos ?_
        rw [decide_eq_true hslot, Option.isSome_iff_ne_none.mpr hp]
        rfl
  · intro slot c x s ho hn hs hx
    have hgo : (nodeOn s && (synced s || decide (s.ihloz.state = 2)) && !x.freight) = true := by
      rw [hn, hx, Bool.true_and, Bool.not_false, Bool.and_true, Bool.or_eq_true, decide_eq_true_eq]
      exact hs
    rw [exec_payloadFreeze, execPayloadFreeze, ho]
    exact congrArg Host.Outcome.next (if_pos hgo)
  · intro slot c x a b s ho hs u
    have he := ihlozSlotSend_eq (a := a) (b := b) ho hs
    refine ⟨fun pay hx hpay => ?_, fun hx => ?_⟩
    · intro h
      have hfr : frozenPayload u slot.toNat x = pay := frozenPayload_eq hpay
      obtain ⟨g1, g2, -⟩ := slotSent_sent slot x h pay a b u
      refine ⟨_, ?_, g1, g2⟩
      rw [he, hx, if_neg Bool.false_ne_true, if_neg Bool.false_ne_true]
      rw [show frozenPayload (advanceIhloz (cycleTick s + (actionPoint c x : Nat)) s) slot.toNat x = pay from hfr]
    · intro h
      obtain ⟨g1, g2, g3⟩ := slotSent_sent slot x h (freightPayload u x) a b u
      refine ⟨_, ?_, g3.trans (if_pos hx), g1, g2⟩
      rw [he, hx, if_pos rfl, if_pos rfl]
  · intro slot c x s hc hx hn hs ho hr
    refine ⟨_, ihlozSlotEnd_empty hc hx hn hs ho hr, ?_⟩
    rw [slotEmpty_empty, getD_count]
    rfl
  · intro slot c x r f s hc hx hn hs ho hr hslot hp hf
    exact ihlozSlotEnd_held hc hx hn hs ho hr hslot hp hf
  · intro c s hc hn hs hg
    exact clockSyncCorrection_acts hc hn hs hg
  · intro off c s hc hn hs u n b a
    obtain ⟨h1, h2⟩ := newCycle_advanced c u
    exact ⟨settleCopy_none, h1, h2, ihlozCycleStart_acts hc hn hs⟩
  · intro c k s hc hk hn hcold hs
    exact ihlozTWaitExpire_sends hc hk hn hcold hs
  · intro a b p s onA onB hn hab hs
    obtain ⟨hi, hon⟩ := passMarker_same p s
    refine congrArg Host.Outcome.next (if_pos ?_)
    have hs' : (decide ((passMarker p s).ihloz.state = 1) || decide ((passMarker p s).ihloz.state = 2) ||
        decide ((passMarker p s).ihloz.state = 3)) = true := by
      rw [hi, Bool.or_eq_true, Bool.or_eq_true, decide_eq_true_eq, decide_eq_true_eq, decide_eq_true_eq, or_assoc]
      exact hs
    rw [hs', hon, hn, Bool.true_and, Bool.and_true]
    exact hab
  · intro p s hf hsync hl
    have hnone : exec (.collisionMarkerReceive ⟨false, false⟩ (some p)) s = .next (passMarker (some p) s) := by
      refine congrArg Host.Outcome.next (if_neg ?_)
      rw [Bool.false_and, Bool.false_and, Bool.or_false, Bool.and_false, Bool.false_and]
      decide
    rw [hnone, passMarker, hf, hsync, hl]
    cases (s.star.ports[p]).cut <;> cases (s.star.ports[p]).cutCont <;> simp [satAdd]

end Sys2Proof.Machine

/-! PROOFS. The star (O51). -/

namespace Sys2Proof.Machine

section
variable {p : Fin 8} {tick : Nat} {s : State}

/-- Unsynchronised, a port that is not cut is forwarded or collides with one that is still forwarded. -/
theorem starDelimiter_unsynced (hf : starForwards s = true) (hs : s.star.sync = false) (hc : (s.star.ports[p]).cut = false)
    (hcc : (s.star.ports[p]).cutCont = false) :
    let r := stillForwarding p.castSucc tick (advanceIhloz tick s)
    exec (.starDelimiterDetect p tick) s = .next (if r.1 then starCollide r.2 else starTake p tick r.2) := by
  have hgo : ¬ (!starForwards s) = true := by
    rw [hf]
    decide
  have hcut : ¬ ((s.star.ports[p]).cut || (s.star.ports[p]).cutCont) = true := by
    rw [hc, hcc]
    decide
  have hsync : ¬ s.star.sync = true := by
    rw [hs]
    decide
  exact congrArg Host.Outcome.next ((if_neg hgo).trans ((if_neg hsync).trans (if_neg hcut)))

theorem stillForwarding_none {q : Fin 9} {t : Int} (h : s.star.forwarding = none) : stillForwarding q t s = (false, s) := by
  rw [stillForwarding, h]

theorem stillForwarding_over {q r : Fin 9} {t at_ : Int} (h : s.star.forwarding = some (r, at_)) (hlong : 10000 < t - at_) :
    stillForwarding q t s = (false, s) := by
  rw [stillForwarding, h]
  exact if_pos (by rw [decide_eq_true hlong, Bool.or_true])

theorem stillForwarding_same {q r : Fin 9} {t : Int} (h : s.star.forwarding = some (r, t)) (hne : r ≠ q) :
    stillForwarding q t s = (true, s) := by
  have hshort : ¬ (10000 : Int) < t - t := by omega
  rw [stillForwarding, h]
  refine (if_neg ?_).trans (if_pos rfl)
  rw [decide_eq_false hne, decide_eq_false hshort]
  decide

/-- In sync a port is forwarded in its window and violates its schedule outside it. -/
theorem starDelimiter_synced {c : Sched} (hf : starForwards s = true) (hs : s.star.sync = true) (hc : schedNow s = some c) :
    let u := advanceIhloz tick s
    exec (.starDelimiterDetect p tick) s = .next (if windowOpen u c p tick
      then (if (s.star.ports[p]).cut || (s.star.ports[p]).cutCont then u else starTake p tick u) else violation p u) := by
  have hgo : ¬ (!starForwards s) = true := by
    rw [hf]
    decide
  have hc' : schedNow (advanceIhloz tick s) = some c := hc
  refine congrArg Host.Outcome.next ((if_neg hgo).trans ((if_pos hs).trans ?_))
  rw [hc']
  rfl

end

theorem port_modPort (p : Fin 8) (f : StarPort → StarPort) (s : State) : (modPort p f s).star.ports[p] = f s.star.ports[p] := by
  simp [modPort]

/-- The cut of a port that transmits without end. -/
theorem starContinuousCut_cuts {p : Fin 8} {s : State} (hf : starForwards s = true) (hs : s.star.sync = false)
    (hc : (s.star.ports[p]).cutCont = false) :
    ∃ t, exec (.starContinuousCut p) s = .next t ∧ (t.star.ports[p]).cutCont = true := by
  have hgo : ¬ (!starForwards s || s.star.sync || (s.star.ports[p]).cutCont) = true := by
    rw [hf, hs, hc]
    decide
  refine ⟨_, congrArg Host.Outcome.next (if_neg hgo), ?_⟩
  dsimp only
  rw [raise_star]
  simp [modPort]

/-- Settles O51. -/
theorem theStarForwardsAndCuts : Obligations.TheStarForwardsAndCuts := by
  refine ⟨?_, ?_, ?_, ?_, ?_⟩
  · intro p tick c s hf hs hc u
    refine ⟨fun hw => (starDelimiter_synced hf hs hc).trans ?_, fun hw hcut hcc => (starDelimiter_synced hf hs hc).trans ?_⟩
    · rw [show windowOpen (advanceIhloz tick s) c p tick = false from hw, if_neg Bool.false_ne_true]
    · rw [show windowOpen (advanceIhloz tick s) c p tick = true from hw, if_pos rfl, hcut, hcc, Bool.or_false, if_neg Bool.false_ne_true]
      rfl
  · intro p tick s hf hs hc hcc u take
    refine ⟨fun hn => ?_, fun q at_ hq hlong => ?_, fun q hne hq => ?_⟩
    · rw [starDelimiter_unsynced hf hs hc hcc, stillForwarding_none (s := advanceIhloz tick s) hn]
      rfl
    · rw [starDelimiter_unsynced hf hs hc hcc, stillForwarding_over (s := advanceIhloz tick s) hq hlong]
      rfl
    · rw [starDelimiter_unsynced hf hs hc hcc, stillForwarding_same (s := advanceIhloz tick s) hq hne]
      rfl
  · intro p tick s hf hs hfw
    have hport : forwardsPort s p = true := by
      rw [forwardsPort, hfw]
      exact decide_eq_true rfl
    refine congrArg Host.Outcome.next (if_pos ?_)
    rw [hf, hs, hport]
    rfl
  · intro p s hf hs hc
    exact starContinuousCut_cuts hf hs hc
  · intro p s hc ha
    refine ⟨_, congrArg Host.Outcome.next (if_pos (Bool.and_eq_true_iff.mpr ⟨hc, ha⟩)), ?_⟩
    rw [raise_star, port_modPort]

end Sys2Proof.Machine

/-! PROOFS. Field buses and networks: the CAN controllers send, receive and count (R399, R509 to R527). -/
namespace Sys2Proof.Machine

section
variable {c : Fin 4} {s t u : State}

theorem find_set_self {α : Type} (t : Tab α) (a : Nat) (x : α) : Tab.find (Tab.set t a x) a = some x := by
  induction t with
  | nil => simp [Tab.set, Tab.find]
  | cons p t ih =>
    obtain ⟨k, v⟩ := p
    unfold Tab.set
    split
    · simp [Tab.find]
    · split
      · simp [Tab.find]
      · next h => simpa [Tab.find, Ne.symm h] using ih

theorem can_modCan_self (c : Fin 4) (f : CanSt → CanSt) (s : State) : (modCan c f s).can[c] = f s.can[c] :=
  Vector.getElem_set_self ..

theorem modCan_congr {f g : CanSt → CanSt} (h : f (s.can[c]) = g (s.can[c])) : modCan c f s = modCan c g s :=
  congrArg (fun k => { s with can := s.can.set c k c.isLt }) h

/-! ## What answers and announcements leave alone -/

/-- What `Refreshed` lets change, and the count of free values taken: completions, records and the triggers of tasks. -/
structure Answered (s t : State) : Prop where
  eq : t = { s with host := t.host, hostMem := t.hostMem, recorder := t.recorder, tasks := t.tasks, chan := t.chan, time := t.time, star := t.star, free := t.free }

theorem Answered.refl (s : State) : Answered s s := ⟨rfl⟩

theorem Answered.trans (h : Answered s t) (k : Answered t u) : Answered s u := by
  have hk := k.eq
  rw [h.eq] at hk
  exact ⟨hk⟩

theorem Answered.foldl {α : Type} {f : State → α → State} {l : List α} (hf : ∀ x a, Answered x (f x a)) : Answered s (l.foldl f s) :=
  List.foldlRecOn (motive := fun x => Answered s x) _ _ (.refl s) fun x hx a _ => hx.trans (hf x a)

theorem Refreshed.answered (h : Refreshed s t) : Answered s t := by
  have hk := h.eq
  exact ⟨by rw [hk]⟩

theorem Answered.can (h : Answered s t) : t.can = s.can := by rw [h.eq]
theorem Answered.eth (h : Answered s t) : t.eth = s.eth := by rw [h.eq]
theorem Answered.factory (h : Answered s t) : t.factory = s.factory := by rw [h.eq]
theorem Answered.ret (h : Answered s t) : t.ret = s.ret := by rw [h.eq]
theorem Answered.mode (h : Answered s t) : t.mode = s.mode := by rw [h.eq]
theorem Answered.power (h : Answered s t) : t.power = s.power := by rw [h.eq]
theorem Answered.pair (h : Answered s t) : t.pair = s.pair := by rw [h.eq]
theorem Answered.fw (h : Answered s t) : t.fw = s.fw := by rw [h.eq]
theorem Answered.wdt (h : Answered s t) : t.wdt = s.wdt := by rw [h.eq]
theorem Answered.ihloz (h : Answered s t) : t.ihloz = s.ihloz := by rw [h.eq]
theorem Answered.commit (h : Answered s t) : t.commit = s.commit := by rw [h.eq]
theorem Answered.proj (h : Answered s t) : t.proj = s.proj := by rw [h.eq]

theorem answered_completeOut (k : Fin 8) (p : Wait → Bool) (status : Byte) (result off : Nat) (out : Bytes) (s : State) :
    Answered s (completeOut k p status result off out s) := by
  rw [completeOut_frame]
  exact ⟨rfl⟩

/-- A free bit that decides whether a channel's trigger fires. -/
theorem answered_maybeFire (id cond : Nat) (s : State) :
    Answered s (if Config.freeBit (takeFree s).1 then fireChan id cond (takeFree s).2 else (takeFree s).2) := by
  split
  · refine .trans (t := (takeFree s).2) ⟨rfl⟩ (refreshed_fireChan ..).answered
  · exact ⟨rfl⟩

theorem answered_fireChange (id : Nat) (rose : Option Bool) (s : State) : Answered s (fireChange id rose s) := by
  have fires (k : Nat) (x : State) : Answered x (fireChan id k x) := (refreshed_fireChan id k x).answered
  unfold fireChange
  split
  · exact (fires _ _).trans (fires _ _)
  · exact (fires _ _).trans (fires _ _)
  · exact ((fires 0 s).trans (answered_maybeFire id 1 _)).trans (answered_maybeFire id 2 _)

theorem answered_receiveChan (id : Nat) (e v : Bytes) (s : State) : Answered s (receiveChan id e v s) := by
  unfold receiveChan
  dsimp only
  split
  · exact ⟨rfl⟩
  · refine Answered.trans ?_ (answered_fireChange ..)
    exact ⟨rfl⟩

/-! ## The receive side of a controller -/

/-- The controller's sequence number, its count of frames and its receive ring stand. -/
structure RxSame (c : Fin 4) (s t : State) : Prop where
  seq : (t.can[c]).seq = (s.can[c]).seq
  frames : (t.can[c]).rxFrames = (s.can[c]).rxFrames
  ring : (t.can[c]).ring = (s.can[c]).ring

theorem RxSame.of_can (h : t.can = s.can) : RxSame c s t := by constructor <;> rw [h]

theorem RxSame.trans (h : RxSame c s t) (k : RxSame c t u) : RxSame c s u :=
  ⟨k.seq.trans h.seq, k.frames.trans h.frames, k.ring.trans h.ring⟩

theorem RxSame.foldl {α : Type} {f : State → α → State} {l : List α} (hf : ∀ x a, RxSame c x (f x a)) : RxSame c s (l.foldl f s) :=
  List.foldlRecOn (motive := fun x => RxSame c s x) _ _ (.of_can rfl) fun x hx a _ => hx.trans (hf x a)

theorem RxSame.modCan {f : CanSt → CanSt} (h : RxSame c s t) (hq : (f t.can[c]).seq = (t.can[c]).seq)
    (hf : (f t.can[c]).rxFrames = (t.can[c]).rxFrames) (hr : (f t.can[c]).ring = (t.can[c]).ring) : RxSame c s (Machine.modCan c f t) := by
  refine h.trans ?_
  constructor <;> rw [can_modCan_self] <;> assumption

theorem RxSame.refl : RxSame c s s := .of_can rfl

theorem rxSame_lastSof (x : CanBuf) (s : State) : RxSame c s (lastSof x s).2 := by
  unfold lastSof
  split <;> exact .of_can rfl

theorem rxSame_endCancel (b : Fin 3) (status : Byte) (result : Nat) (s : State) : RxSame c s (endCancel c b status result s) :=
  .foldl fun x k => .of_can (by rw [completeWait_frame])

theorem rxSame_settle (b : Fin 3) (outcome cause : Nat) (s : State) : RxSame c s (settle c b outcome cause s) := by
  have hEnd (x : State) : RxSame c x (if outcome = 1 then endCancel c b stOk 0 x else endCancel c b stLate (b2n (outcome = 0)) x) := by
    split <;> exact rxSame_endCancel ..
  refine .trans ?_ (hEnd _)
  split
  · exact .modCan (.modCan .refl rfl rfl rfl) rfl rfl rfl
  · refine .trans ?_ (.of_can (refreshed_raise ..).can)
    refine .trans ?_ (rxSame_lastSof ..)
    exact .modCan (.modCan .refl rfl rfl rfl) rfl rfl rfl

theorem rxSame_settleAll (cause : Nat) (s : State) : RxSame c s (settleAll c cause s) :=
  .foldl fun x b => by
    split
    · exact rxSame_settle ..
    · exact .of_can rfl

theorem rxSame_canCounts (tec rec : Nat) (s : State) : RxSame c s (canCounts c tec rec s) := by
  unfold canCounts
  dsimp only
  split
  · exact .modCan .refl rfl rfl rfl
  · refine .trans ?_ (.of_can (refreshed_refreshWhere ..).can)
    split
    · refine .trans ?_ (rxSame_settleAll ..)
      refine .modCan ?_ rfl rfl rfl
      refine .trans ?_ (.of_can (refreshed_raise ..).can)
      exact .modCan .refl rfl rfl rfl
    · refine .trans ?_ (.of_can (refreshed_raise ..).can)
      exact .modCan .refl rfl rfl rfl

theorem recGood_can (r : Nat) (s : State) : (recGood r s).2.can = s.can := by
  unfold recGood
  split
  · rfl
  · split <;> rfl

theorem answered_canToChan (f : CanFrame) (s : State) (id : Nat) : Answered s (canToChan f s id) := by
  unfold canToChan
  split
  · exact .refl s
  · split
    · refine Answered.trans ?_ (refreshed_refreshChan ..).answered
      exact ⟨rfl⟩
    · refine Answered.trans (Answered.trans ?_ (answered_receiveChan ..)) (refreshed_refreshChan ..).answered
      exact ⟨rfl⟩

theorem rxSame_canChoose (s : State) : RxSame c s (canChoose c s) := .modCan .refl rfl rfl rfl

/-! ## Receiving a frame -/

/-- The state in which a received frame is recorded: its controller has counted the good frame. -/
def goodCounted (c : Fin 4) (s : State) : State :=
  let g := recGood (s.can[c]).recCnt s
  canCounts c (s.can[c]).tec g.1 g.2

/-- The controller with a received frame recorded; `skip` says that its mirror in host memory was left out. -/
def recorded (f : CanFrame) (q : Half) (sof : Word) (skip : Bool) (k : CanSt) : CanSt :=
  { k with
    seq := k.seq + 1, rxFrames := satAdd 32 k.rxFrames 1
    ring := Tab.set k.ring (k.seq.toNat % 1024) (canRecord f q sof)
    skipped := if skip then satAdd 16 k.skipped 1 else k.skipped }

theorem rxSame_goodCounted (s : State) : RxSame c s (goodCounted c s) :=
  (RxSame.of_can (recGood_can ..)).trans (rxSame_canCounts ..)

theorem receiveCan_records (f : CanFrame) (sof : Word) (s : State) :
    ∃ skip, RxSame c (modCan c (recorded f (s.can[c]).seq sof skip) (goodCounted c s)) (receiveCan c f sof s) := by
  have chans (x : State) : RxSame c x (if f.rtr = true then x else ((pinnedIds x).filter (canMatches x c f)).foldl (canToChan f) x) := by
    split
    · exact .refl
    · exact .of_can (Answered.foldl fun x id => answered_canToChan ..).can
  refine ⟨canFlag (goodCounted c s) c 5 && !mirrorOpen (goodCounted c s) (canFlag (goodCounted c s) c 5)
    (canCfg (goodCounted c s) c 16 4) 81984, ?_⟩
  unfold receiveCan
  dsimp only
  refine .trans ?_ (rxSame_canChoose _)
  refine .trans ?_ (.of_can (refreshed_triggerAll ..).can)
  refine .trans ?_ (chans _)
  split
  · exact .of_can (by rw [mirrorWrite, hostWrite_can, hostWrite_can]; rfl)
  · exact .of_can rfl

theorem receiveCan_sequence (f : CanFrame) (sof : Word) (s : State) :
    ((receiveCan c f sof s).can[c]).seq = (s.can[c]).seq + 1 ∧
    ((receiveCan c f sof s).can[c]).rxFrames = min ((s.can[c]).rxFrames + 1) (2 ^ 32 - 1) ∧
    Tab.find ((receiveCan c f sof s).can[c]).ring ((s.can[c]).seq.toNat % 1024) = some (canRecord f (s.can[c]).seq sof) := by
  obtain ⟨skip, hq, hf, hr⟩ := receiveCan_records (c := c) f sof s
  rw [can_modCan_self] at hq hf hr
  obtain ⟨gq, gf, gr⟩ := rxSame_goodCounted (c := c) s
  refine ⟨hq.trans (congrArg (· + 1) gq), hf.trans (congrArg (satAdd 32 · 1) gf), ?_⟩
  rw [hr, show (recorded f (s.can[c]).seq sof skip (goodCounted c s).can[c]).ring =
    Tab.set (goodCounted c s).can[c].ring ((goodCounted c s).can[c].seq.toNat % 1024) (canRecord f (s.can[c]).seq sof) from rfl, gq]
  exact find_set_self ..

/-! ## The bus's own settings -/

theorem canEnabled_congr (hf : t.factory = s.factory) (hr : t.ret = s.ret) (k : Nat) : canEnabled t k = canEnabled s k := by
  rw [canEnabled, canEnabled, block_congr hf hr, nCan, nCan, hasPaired, hasPaired, hf]

theorem canFlag_modCan (f : CanSt → CanSt) (d : Fin 4) (bit : Nat) (s : State) : canFlag (modCan c f s) d bit = canFlag s d bit := by
  rw [canFlag, canFlag, block_congr (s := s) (t := modCan c f s) rfl rfl]

/-- A change of a controller that keeps its state and its integration keeps it on the bus. -/
theorem canOn_modCan {f : CanSt → CanSt} (hi : (f s.can[c]).integrated = (s.can[c]).integrated)
    (hs : (f s.can[c]).state = (s.can[c]).state) : canOn (modCan c f s) c = canOn s c := by
  rw [canOn, canOn, canEnabled_congr (s := s) rfl rfl, can_modCan_self, hi, hs]
  rfl

theorem offBus_on (h : canOn s c = true) : offBus c s = modCan c (fun k => { k with lost := false }) s := if_pos h

theorem receivable {g : CanFrame} (h : canOn s c = true) (hg : g.fdf = false ∨ canFlag s c 1 = true) :
    (!canOn (offBus c s) c || (g.fdf && !canFlag (offBus c s) c 1)) = false := by
  rw [offBus_on h, canOn_modCan rfl rfl, h, canFlag_modCan]
  obtain hg | hg := hg <;> rw [hg]
  · rfl
  · rw [Bool.not_true, Bool.and_false]
    rfl

theorem canFrameReceive_held {e2 e1 f : CanFrame} {sof : Word} (h : canOn s c = true)
    (hg : (sampledFrame (canFlag s c 2) e2 e1 f).fdf = false ∨ canFlag s c 1 = true) (hp : s.mode.pause = true) :
    exec (.canFrameReceive c ⟨e2, e1, f⟩ sof) s =
      .next (holdRx (.can c (sampledFrame (canFlag s c 2) e2 e1 f) sof) (modCan c (fun k => { k with lost := false }) s)) := by
  rw [exec_canFrameReceive, ← offBus_on h]
  refine congrArg Host.Outcome.next ((if_neg (Bool.eq_false_iff.mp (receivable h hg))).trans (if_pos ?_))
  rw [offBus_on h]
  exact hp

theorem canFrameReceive_received {e2 e1 f : CanFrame} {sof : Word} (h : canOn s c = true)
    (hg : (sampledFrame (canFlag s c 2) e2 e1 f).fdf = false ∨ canFlag s c 1 = true) (hp : s.mode.pause = false) :
    exec (.canFrameReceive c ⟨e2, e1, f⟩ sof) s =
      .next (receiveCan c (sampledFrame (canFlag s c 2) e2 e1 f) sof (modCan c (fun k => { k with lost := false }) s)) := by
  rw [exec_canFrameReceive, ← offBus_on h]
  refine congrArg Host.Outcome.next ((if_neg (Bool.eq_false_iff.mp (receivable h hg))).trans (if_neg ?_))
  rw [offBus_on h]
  exact Bool.eq_false_iff.mp hp

theorem canFrameReceive_sequence {e2 e1 f : CanFrame} {sof : Word} (h : canOn s c = true)
    (hg : (sampledFrame (canFlag s c 2) e2 e1 f).fdf = false ∨ canFlag s c 1 = true) (hp : s.mode.pause = false) :
    ∃ t, exec (.canFrameReceive c ⟨e2, e1, f⟩ sof) s = .next t ∧ (t.can[c]).seq = (s.can[c]).seq + 1 ∧
      (t.can[c]).rxFrames = min ((s.can[c]).rxFrames + 1) (2 ^ 32 - 1) ∧
      Tab.find (t.can[c]).ring ((s.can[c]).seq.toNat % 1024) =
        some (canRecord (sampledFrame (canFlag s c 2) e2 e1 f) (s.can[c]).seq sof) := by
  have hrec := receiveCan_sequence (c := c) (sampledFrame (canFlag s c 2) e2 e1 f) sof (modCan c (fun k => { k with lost := false }) s)
  rw [can_modCan_self] at hrec
  exact ⟨_, canFrameReceive_received h hg hp, hrec⟩

/-- Three samples of the bit that ends the arbitration phase are taken by majority (R511). -/
theorem sampledFrame_brs (e2 e1 f : CanFrame) :
    (sampledFrame true e2 e1 f).brs = (e2.brs && e1.brs || e1.brs && f.brs || e2.brs && f.brs) := by
  unfold sampledFrame
  rw [if_neg (by decide)]
  dsimp only
  split <;> rfl

/-! ## Sending, errors and recovery -/

theorem canBusError_transmitter {e : CanError} {b : Fin 3} {sof : Word} (h : canOn s c = true) (he : e.transmitter = true)
    (hb : canAttempt (modCan c (fun k => { k with lastError := e.kind, lost := false }) s) c = some b) :
    let a := suspect c b e (attempt c b sof (modCan c (fun k => { k with lastError := e.kind, lost := false }) s))
    let t := if (a.can[c].bufs[b]).cancel then settle c b 1 0 a else if (a.can[c].bufs[b]).oneShot then settle c b 2 2 a else a
    exec (.canBusError c e sof) s = .next (canChoose c (canCounts c (tecAfter a.can[c] e) (t.can[c]).recCnt t)) := by
  intro a t
  rw [exec_canBusError, execCanBusError, if_neg (by rw [h]; decide)]
  dsimp only
  rw [if_pos he, hb]

theorem canBusError_receiver {e : CanError} {sof : Word} (h : canOn s c = true) (he : e.transmitter = false) :
    exec (.canBusError c e sof) s =
      .next (canChoose c (canCounts c (s.can[c]).tec ((s.can[c]).recCnt + (if e.dominantAfterFlag then 8 else 1))
        (modCan c (fun k => { k with lastError := e.kind, lost := false }) s))) := by
  rw [exec_canBusError, execCanBusError, if_neg (by rw [h]; decide)]
  dsimp only
  rw [if_neg (Bool.eq_false_iff.mp he), can_modCan_self]

theorem attempt_lost (b : Fin 3) (sof : Word) (s : State) :
    (modCan c (fun k => { k with lost := true }) (modBuf c b (fun x => { x with suspects := 0 }) (attempt c b sof s))).can[c].bufs =
      (modBuf c b (fun x => { x with suspects := 0 }) (attempt c b sof s)).can[c].bufs := by
  rw [can_modCan_self]

theorem canArbitrationLost_keeps {b : Fin 3} {sof : Word} (h : canOn s c = true) (hb : canAttempt s c = some b) :
    let a := modCan c (fun k => { k with lost := true }) (modBuf c b (fun x => { x with suspects := 0 }) (attempt c b sof s))
    exec (.canArbitrationLost c sof) s = .next (canChoose c (if (a.can[c].bufs[b]).cancel then settle c b 1 0 a
      else if (a.can[c].bufs[b]).oneShot then settle c b 2 1 a else a)) := by
  intro a
  rw [exec_canArbitrationLost, execCanArbitrationLost, if_neg (by rw [h]; decide), hb]
  dsimp only [a]
  rw [attempt_lost]

theorem canTxComplete_settles {b : Fin 3} {sof : Word} (h : canOn s c = true) (hb : canAttempt s c = some b) :
    let a := settle c b 0 0 (attempt c b sof s)
    exec (.canTxComplete c sof) s = .next (canChoose c (canCounts c ((a.can[c]).tec - 1) (a.can[c]).recCnt a)) := by
  intro a
  rw [exec_canTxComplete, execCanTxComplete, if_neg (by rw [h]; decide), hb]

theorem canRecoverWaitExpire_recovers (h : (s.can[c]).state = 2) (ha : alive s = true) :
    exec (.canRecoverWaitExpire c) s = .next (modCan c (fun k => { k with recovering := true }) s) :=
  congrArg Host.Outcome.next (if_pos (by rw [h, ha]; decide))

theorem canBusOffRecovery_ends (h : (s.can[c]).state = 2) (ha : alive s = true) (hr : (s.can[c]).recovering = true) :
    exec (.canBusOffRecovery c) s = .next (canChoose c (canCounts c 0 0 (modCan c (fun k => { k with recovering := false }) s))) :=
  congrArg Host.Outcome.next (if_pos (by rw [h, hr, ha]; decide))

theorem canIntegrate_integrates (h : canEnabled s c.val = true) (ha : alive s = true) (hi : (s.can[c]).integrated = false) :
    exec (.canIntegrate c) s = .next (canChoose c (modCan c (fun k => { k with integrated := true }) s)) :=
  congrArg Host.Outcome.next (if_pos (by rw [h, ha, hi]; decide))

/-! ## Channel frames -/

theorem controller_find (c : Fin 4) : (List.finRange 4).find? (fun d => d.val = c.val) = some c := by
  revert c
  decide

theorem canFrameDue_period {v : State} {e : Bytes} {p : Nat × Bytes} {l : List (Nat × Bytes)} (hc : eController e = c.val)
    (hl : canFrameChans v e = p :: l) (ht : canFrameTime (p :: l) ≠ 0) : canFrameDue v e true s = canDue c p.1 s := by
  unfold canFrameDue
  rw [hl, hc, controller_find]
  exact if_neg (by simp [ht])

theorem canTxPeriod_due {ch : BitVec 12} {e : Bytes} {p : Nat × Bytes} {l : List (Nat × Bytes)}
    (he : entryOf (sendView s) ch.toNat = some e) (hk : eClass e = 8) (hc : eController e = c.val) (ha : alive s = true)
    (hl : canFrameChans (sendView s) e = p :: l) (ht : canFrameTime (p :: l) ≠ 0) :
    exec (.canTxPeriod c ch) s = .next (canDue c p.1 s) := by
  rw [exec_canTxPeriod, execCanTxPeriod]
  dsimp only
  rw [he]
  refine congrArg Host.Outcome.next ((if_neg ?_).trans (canFrameDue_period hc hl ht))
  rw [hk, hc, ha, bne_self_eq_false, bne_self_eq_false]
  decide

/-- Buffer 2 with a channel's frame loaded. -/
def canBuffer2 (k : Nat) (f : CanFrame) : CanBuf :=
  { CanBuf.zero with frame := some { f with data := padTo 64 f.data }, everLoaded := true, chanKey := some k }

theorem canBuffer2Load_loads {k : Nat} {f : CanFrame} (h : canOn s c = true) (hm : canMaySend s = true) (hs : servesChannels s c = true)
    (hb : (s.can[c].bufs[2]).frame = none) (hf : canFlag s c 4 = false) (hk : canFirst s c = some (k, f)) :
    exec (.canBuffer2Load c) s = .next (canLoaded c (modBuf c 2 (fun _ => canBuffer2 k f)
      (modCan c (fun x => { x with due := dropFrom x.due k }) s))) := by
  rw [exec_canBuffer2Load, execCanBuffer2Load, if_neg (by rw [h, hm, hs, hb, hf]; decide), hk]
  rfl

end

/-- Settles O52: a received frame by its majority samples, its sequence number and its place in the ring; every other row by its
guard. -/
theorem canControllersSendReceiveAndCount : Obligations.CanControllersSendReceiveAndCount := by
  refine ⟨?_, fun e2 e1 f => ⟨rfl, sampledFrame_brs e2 e1 f⟩, ?_, ?_, ?_, ?_, ?_, ?_, ?_, ?_⟩
  · intro c e2 e1 f sof s h g hg
    exact ⟨fun hp => canFrameReceive_held h hg hp, fun hp => canFrameReceive_sequence h hg hp⟩
  · intro c b sof s h hb
    exact canTxComplete_settles h hb
  · intro c b sof s h hb
    exact canArbitrationLost_keeps h hb
  · intro c e sof s h he
    exact canBusError_receiver h he
  · intro c b e sof s h he r hb
    exact canBusError_transmitter h he hb
  · intro c s h ha
    exact ⟨canRecoverWaitExpire_recovers h ha, fun hr => canBusOffRecovery_ends h ha hr⟩
  · intro c s h ha hi
    exact canIntegrate_integrates h ha hi
  · intro c ch e p l s he hk hc ha hl ht
    exact canTxPeriod_due he hk hc ha hl ht
  · intro c k f s h hm hs hb hf hk
    exact canBuffer2Load_loads h hm hs hb hf hk

end Sys2Proof.Machine

/-! PROOFS. Field buses and networks: the Ethernet ports send, receive and run their clock (R533 to R558). -/
namespace Sys2Proof.Machine

section
variable {p : Fin 2} {s t u : State}

theorem eth_modEth_self (p : Fin 2) (f : EthSt → EthSt) (s : State) : (modEth p f s).eth[p] = f s.eth[p] :=
  Vector.getElem_set_self ..

theorem eth_modEth_ne {q : Fin 2} (h : q ≠ p) (f : EthSt → EthSt) (s : State) : (modEth q f s).eth[p] = s.eth[p] :=
  Vector.getElem_set_ne q.isLt p.isLt fun hv => h (Fin.ext hv)

/-! ## What sending leaves of the received frames and of the PTP history -/

/-- Every port's count of received frames and the messages that the PTP engine has seen stand. -/
structure Counted (s t : State) : Prop where
  frames : ∀ p : Fin 2, (t.eth[p]).rxFrames = (s.eth[p]).rxFrames
  seen : t.ptp.seen = s.ptp.seen

theorem Counted.of_eq (he : t.eth = s.eth) (hp : t.ptp = s.ptp) : Counted s t := ⟨fun p => by rw [he], by rw [hp]⟩

theorem Counted.refl : Counted s s := .of_eq rfl rfl

theorem Counted.trans (h : Counted s t) (k : Counted t u) : Counted s u :=
  ⟨fun p => (k.frames p).trans (h.frames p), k.seen.trans h.seen⟩

theorem Counted.foldl {α : Type} {f : State → α → State} {l : List α} (hf : ∀ x a, Counted x (f x a)) : Counted s (l.foldl f s) :=
  List.foldlRecOn (motive := fun x => Counted s x) _ _ .refl fun x hx a _ => hx.trans (hf x a)

theorem Counted.modEth {q : Fin 2} {f : EthSt → EthSt} (h : Counted s t) (hf : (f t.eth[q]).rxFrames = (t.eth[q]).rxFrames) :
    Counted s (Machine.modEth q f t) := by
  refine h.trans ⟨fun p => ?_, rfl⟩
  by_cases hq : q = p
  · subst hq
    rw [eth_modEth_self, hf]
  · rw [eth_modEth_ne hq]

theorem Answered.counted (h : Answered s t) : Counted s t := .of_eq h.eth (by rw [h.eq])

theorem Refreshed.counted (h : Refreshed s t) : Counted s t := h.answered.counted

theorem counted_dropUnsent (q : Fin 2) (s : State) : Counted s (dropUnsent q s) := by
  unfold dropUnsent
  split
  · exact .refl
  · exact .modEth .refl rfl

theorem counted_ethStart (q : Fin 2) (s : State) : Counted s (ethStart q s) := by
  unfold ethStart
  split
  · exact .refl
  · exact .modEth (counted_dropUnsent q s) rfl

theorem counted_ethStartAll (s : State) : Counted s (ethStartAll s) := .foldl fun x q => counted_ethStart q x

theorem counted_enqueueOwn (q : Fin 2) (f : EthFrame) (s : State) : Counted s (enqueueOwn q f s) := by
  refine .trans ?_ (counted_ethStart ..)
  refine .modEth ?_ rfl
  exact .of_eq rfl rfl

theorem counted_stepClock (v : Nat) (s : State) : Counted s (stepClock v s) := by
  refine .trans (.trans ?_ (refreshed_raise ..).counted) (counted_ethStartAll _)
  exact .of_eq rfl rfl

theorem counted_ptpPort (q : Fin 2) (new : BitVec 4) (gm : DWord) (s : State) : Counted s (ptpPort q new gm s) := by
  unfold ptpPort
  dsimp only
  split
  · exact .refl
  · refine .trans ?_ (refreshed_raise ..).counted
    exact .modEth .refl rfl

theorem counted_disciplined (a : Config.PtpAnswer) (slave : Bool) (limit : Nat) (s : State) :
    Counted s (if slave && decide (limit < a.offsetNs.natAbs) then
      stepClock (((s.time.lc : Int) - a.offsetNs * nsUnit) % (lcWrap : Nat)).toNat s
    else if slave then { s with time := { s.time with freq := a.freq, timeValid := true } } else s) := by
  split
  · exact counted_stepClock ..
  · split <;> exact .of_eq rfl rfl

theorem counted_ptpSend (l : List (Bool × Config.PtpFrame)) (s : State) : Counted s (l.foldl (fun s x =>
    let q : Fin 2 := if x.1 then 1 else 0
    if ptpRuns s q then enqueueOwn q (ptpFrame s x.2) s else s) s) :=
  .foldl fun x a => by
    have sends (q : Fin 2) : Counted x (if ptpRuns x q then enqueueOwn q (ptpFrame x a.2) x else x) := by
      split
      · exact counted_enqueueOwn ..
      · exact .refl
    exact sends _

/-- The state with an event and the engine's answer to it noted. -/
def ptpNoted (x : Config.PtpEvent) (a : Config.PtpAnswer) (s : State) : State :=
  { s with ptp := { s.ptp with
    seen := s.ptp.seen ++ [x], grandmaster := a.grandmaster, utcOffset := a.utcOffset, gmIdentity := a.gmIdentity
    pathDelay := a.pathDelay, offsetNs := if a.hasOffset then a.offsetNs else s.ptp.offsetNs } }

theorem ptpEffect_counted (x : Config.PtpEvent) (a : Config.PtpAnswer) (s : State) : Counted (ptpNoted x a s) (ptpEffect x a s) := by
  refine .trans ?_ (refreshed_refreshSource _).counted
  refine .trans ?_ (counted_ptpSend ..)
  refine .trans ?_ (counted_disciplined ..)
  exact (counted_ptpPort ..).trans (counted_ptpPort ..)

theorem ptpEffect_seen (x : Config.PtpEvent) (a : Config.PtpAnswer) (s : State) : (ptpEffect x a s).ptp.seen = s.ptp.seen ++ [x] :=
  (ptpEffect_counted x a s).seen

/-! ## Receiving -/

theorem answered_ethToChan (pay : Bytes) (s : State) (id : Nat) (e : Bytes) : Answered s (ethToChan pay s id e) := by
  unfold ethToChan
  split
  · refine Answered.trans ?_ (refreshed_refreshChan ..).answered
    exact ⟨rfl⟩
  · refine Answered.trans (Answered.trans ?_ (answered_receiveChan ..)) (refreshed_refreshChan ..).answered
    exact ⟨rfl⟩

/-- What a received frame does before it is counted: its channels, an answer to ARP, PTP and a message for the firmware. -/
def frameActed (p : Fin 2) (frame : Bytes) (sfd : Nat) (s : State) : State :=
  let t := (sfd % 2 ^ 64 + 2 ^ 64 - phyNs s.factory.phyRx s.eth[p].speed) % 2 ^ 64
  let arp := arpReply ((ethMatches s p frame).foldl (fun s h => ethToChan h.2.2 s h.1 h.2.1) s) p frame
  let s := (ethMatches s p frame).foldl (fun s h => ethToChan h.2.2 s h.1 h.2.1) s
  let s := match arp with
    | some b => enqueueOwn p (ownFrame b none) s
    | none => s
  let x : Config.PtpEvent := { port := p.val, message := 16, frame := frame, stamp := t }
  let s := if ptpRuns s p && isPtp s frame then ptpEffect x (ptpAnswer s x) s else s
  let at_ := typeAt frame
  if beNat ((frame.drop at_).take 2) = 0x88B5 then passMessage true (BitVec.ofNat 5 p.val) (frame.drop (at_ + 2)) s else s

theorem frameActed_frames (p : Fin 2) (frame : Bytes) (sfd : Nat) (s : State) (q : Fin 2) :
    ((frameActed p frame sfd s).eth[q]).rxFrames = (s.eth[q]).rxFrames := by
  have hits (l : List (Nat × Bytes × Bytes)) (x : State) : Counted x (l.foldl (fun s h => ethToChan h.2.2 s h.1 h.2.1) x) :=
    (Answered.foldl fun y h => answered_ethToChan ..).counted
  have arp (b : Option Bytes) (x : State) : Counted x (match b with
      | some b => enqueueOwn p (ownFrame b none) x
      | none => x) := by
    cases b
    · exact .refl
    · exact counted_enqueueOwn ..
  have ptp (e : Config.PtpEvent) (x : State) :
      ((if ptpRuns x p && isPtp x frame then ptpEffect e (ptpAnswer x e) x else x).eth[q]).rxFrames = (x.eth[q]).rxFrames := by
    split
    · exact (ptpEffect_counted e _ x).frames q
    · rfl
  have told (b : Bool) (n : BitVec 5) (m : Bytes) (x : State) : (passMessage b n m x).eth = x.eth := by
    unfold passMessage
    split <;> rfl
  have last (x : State) : ((if beNat ((frame.drop (typeAt frame)).take 2) = 0x88B5 then
      passMessage true (BitVec.ofNat 5 p.val) (frame.drop (typeAt frame + 2)) x else x).eth[q]).rxFrames = (x.eth[q]).rxFrames := by
    split
    · exact congrArg (fun e => (e[q]).rxFrames) (told ..)
    · rfl
  exact (last _).trans ((ptp _ _).trans (((hits _ s).trans (arp _ _)).frames q))

end

end Sys2Proof.Machine
namespace Sys2Proof.Machine

section
variable {p : Fin 2} {q : Fin 8} {s t u : State}

/-- A port with a received frame counted, and with `n` frames left out of the mirror in host memory. -/
def frameCounted (seq : Half) (n : EthSt → Nat) (e : EthSt) : EthSt :=
  { e with seq := seq + 1, rxFrames := satAdd 32 e.rxFrames 1, skipped := n e }

theorem receiveEth_counts (p : Fin 2) (frame : Bytes) (sfd : Nat) (s : State) :
    ∃ n, (receiveEth p frame sfd s).eth = (modEth p (frameCounted (s.eth[p]).seq n) (frameActed p frame sfd s)).eth := by
  have mirrored (b : Bool) (k m : Nat) (x y : Bytes) (z : State) : (if b then hostWrite k x (hostWrite m y z) else z).eth = z.eth := by
    split
    · rw [hostWrite_eth, hostWrite_eth]
    · rfl
  exact ⟨_, mirrored ..⟩

theorem receiveEth_sequence (p : Fin 2) (frame : Bytes) (sfd : Nat) (s : State) :
    ((receiveEth p frame sfd s).eth[p]).seq = (s.eth[p]).seq + 1 ∧
    ((receiveEth p frame sfd s).eth[p]).rxFrames = min ((s.eth[p]).rxFrames + 1) (2 ^ 32 - 1) := by
  obtain ⟨n, h⟩ := receiveEth_counts p frame sfd s
  have hp : (receiveEth p frame sfd s).eth[p] = frameCounted (s.eth[p]).seq n (frameActed p frame sfd s).eth[p] := by
    rw [h, eth_modEth_self]
  rw [hp]
  exact ⟨rfl, congrArg (fun n => min (n + 1) (2 ^ 32 - 1)) (frameActed_frames p frame sfd s p)⟩

theorem ethOn_congr (h : t = { s with time := t.time }) : ethOn t p = ethOn s p := by
  have hb : ethEnabled t p.val = ethEnabled s p.val := by
    rw [ethEnabled, ethEnabled, block_congr (s := s) (by rw [h]) (by rw [h])]
  rw [ethOn, ethOn, hb, alive, alive, h]

theorem ethFrameReceive_held {frame : Bytes} {good : Bool} {sfd : Nat} (h : ethOn s p = true) (hp : s.mode.pause = true) :
    exec (.ethFrameReceive p frame good sfd) s =
      .next (holdRx (.eth p frame good (arrivedAt (advanceLocal sfd s) p frame sfd)) (advanceLocal sfd s)) :=
  congrArg Host.Outcome.next ((if_neg (by rw [h]; decide)).trans (if_pos hp))

theorem ethFrameReceive_arrives {frame : Bytes} {good : Bool} {sfd : Nat} (h : ethOn s p = true) (hp : s.mode.pause = false) :
    exec (.ethFrameReceive p frame good sfd) s =
      .next (arriveEth p frame good (arrivedAt (advanceLocal sfd s) p frame sfd) (advanceLocal sfd s)) :=
  congrArg Host.Outcome.next ((if_neg (by rw [h]; decide)).trans (if_neg (Bool.eq_false_iff.mp hp)))

theorem arriveEth_bad {frame : Bytes} {sfd : Nat} :
    arriveEth p frame false sfd s = modEth p (fun e => { e with rxErrors := min (e.rxErrors + 1) 65535 }) s := by
  unfold arriveEth
  exact if_pos (by simp)

theorem arriveEth_good {frame : Bytes} {sfd : Nat} (h14 : 14 ≤ frame.length) (h1518 : frame.length ≤ 1518)
    (hm : frame.take 6 = macOf s p) : arriveEth p frame true sfd s = receiveEth p frame sfd s := by
  unfold arriveEth
  exact if_neg (by simp [h14, h1518, hm])

theorem ethFrameReceive_sequence {frame : Bytes} {sfd : Nat} (h : ethOn s p = true) (hp : s.mode.pause = false)
    (h14 : 14 ≤ frame.length) (h1518 : frame.length ≤ 1518) (hm : frame.take 6 = macOf s p) :
    ∃ t, exec (.ethFrameReceive p frame true sfd) s = .next t ∧ (t.eth[p]).seq = (s.eth[p]).seq + 1 ∧
      (t.eth[p]).rxFrames = min ((s.eth[p]).rxFrames + 1) (2 ^ 32 - 1) :=
  ⟨_, ethFrameReceive_arrives h hp, by
    rw [arriveEth_good (s := advanceLocal sfd s) h14 h1518 hm]
    exact receiveEth_sequence p frame _ (advanceLocal sfd s)⟩

/-! ## Sending -/

theorem ethLaunch_starts {f : EthFrame} {l : List EthFrame} {t : Nat} (hq : (s.eth[p]).queues[q] = f :: l) (hl : f.launch = some t)
    (ha : alive s = true) : exec (.ethLaunch p q) s = .next (ethStartAll (advanceLocal t s)) := by
  rw [exec_ethLaunch, execEthLaunch, hq, show (f :: l).head?.bind (fun f => f.launch) = some t from hl]
  exact congrArg Host.Outcome.next (if_neg (by rw [ha]; decide))

/-- A frame without launch time gone from the head of its queue at `at_`, its stamp `t` inserted. -/
def frameGone (p : Fin 2) (q : Fin 8) (f : EthFrame) (l : List EthFrame) (at_ t : Nat) (s : State) : State :=
  modEth p (fun e => { e with
    wire := none, lastSent := some (withFcs (repaired f (inserted f t))), txFrames := min (e.txFrames + 1) (2 ^ 32 - 1) })
    (modQueue p q (fun _ => l) (advanceLocal at_ s))

/-- The command of a frame that has gone completes. -/
def frameAnswered (p : Fin 2) (f : EthFrame) (t : Nat) (s : State) : State :=
  match f.ring with
  | some k => (match (ring s k).busy with
    | some { wait := .ethSend _ st, .. } =>
      completeWait k (fun w => w = .ethSend p st) stOk (if st then t % 2 ^ 32 else 0) s
    | _ => s)
  | none => s

/-- PTP learns of the departure of its own frames. -/
def frameStamped (p : Fin 2) (f : EthFrame) (t : Nat) (s : State) : State :=
  if ptpRuns s p && isPtp s f.bytes && f.ring.isNone && f.chanKey.isNone then
    ptpEffect { port := p.val, message := 17, frame := f.bytes, stamp := t }
      (ptpAnswer s { port := p.val, message := 17, frame := f.bytes, stamp := t }) s
  else s

/-- The stamp of a frame without launch time: its delimiter and the PHY's delay. -/
def sentStamp (p : Fin 2) (sfd : Nat) (s : State) : Nat := delimiterAt s p sfd + phyNs s.factory.phyTx (s.eth[p]).speed

theorem egress_unlaunched {f : EthFrame} (hl : f.launch = none) (sfd : Nat) : egress s p f sfd = sentStamp p sfd s := by
  rw [egress, hl]
  rfl

theorem ethFrameSent_unlaunched {f : EthFrame} {l : List EthFrame} {sfd : Nat} (hw : (s.eth[p]).wire = some q) (h : ethOn s p = true)
    (hq : (s.eth[p]).queues[q] = f :: l) (hl : f.launch = none) :
    exec (.ethFrameSent p q sfd) s = .next (ethStart p (frameStamped p f (sentStamp p sfd s)
      (frameAnswered p f (sentStamp p sfd s) (frameGone p q f l (delimiterAt s p sfd) (sentStamp p sfd s) s)))) := by
  rw [exec_ethFrameSent, execEthFrameSent, if_neg (by rw [hw, h, bne_self_eq_false]; decide), hq]
  dsimp only
  rw [egress_unlaunched hl, hl]
  rfl

theorem isPtp_congr (hf : t.factory = s.factory) (hr : t.ret = s.ret) (b : Bytes) : isPtp t b = isPtp s b := by
  rw [isPtp, isPtp, block_congr hf hr]

theorem frameStamped_other {f : EthFrame} {n : Nat} (h : f.ring ≠ none ∨ f.chanKey ≠ none ∨ isPtp s f.bytes = false) :
    frameStamped p f n s = s := by
  refine if_neg fun hc => ?_
  simp only [Bool.and_eq_true, Option.isNone_iff_eq_none] at hc
  obtain ⟨⟨⟨-, hp⟩, hr⟩, hk⟩ := hc
  obtain h | h | h := h
  · exact h hr
  · exact h hk
  · exact Bool.false_ne_true (h.symm.trans hp)

theorem ethFrameSent_own {f : EthFrame} {l : List EthFrame} {sfd : Nat} (hw : (s.eth[p]).wire = some q) (h : ethOn s p = true)
    (hq : (s.eth[p]).queues[q] = f :: l) (hl : f.launch = none) (hr : f.ring = none)
    (hp : f.chanKey ≠ none ∨ isPtp s f.bytes = false) :
    exec (.ethFrameSent p q sfd) s =
      .next (ethStart p (frameGone p q f l (delimiterAt s p sfd) (sentStamp p sfd s) s)) := by
  rw [ethFrameSent_unlaunched hw h hq hl]
  have ha (x : State) : frameAnswered p f (sentStamp p sfd s) x = x := by
    rw [frameAnswered, hr]
  rw [ha, frameStamped_other]
  exact .inr (hp.imp id fun h => (isPtp_congr rfl rfl _).trans h)

theorem frameAnswered_command {f : EthFrame} {k : Fin 8} {b : Busy} {st : Bool} {n : Nat} (hr : f.ring = some k)
    (hb : (ring s k).busy = some b) (hw : b.wait = .ethSend p st) :
    frameAnswered p f n s = completeWait k (fun w => w = .ethSend p st) 0 (if st then n % 2 ^ 32 else 0) s := by
  obtain ⟨op, tag, buf, len, wait, misuse, discard⟩ := b
  subst hw
  rw [frameAnswered, hr]
  dsimp only
  rw [hb]
  rfl

theorem ethFrameSent_command {f : EthFrame} {l : List EthFrame} {sfd : Nat} {k : Fin 8} {b : Busy} {st : Bool}
    (hw : (s.eth[p]).wire = some q) (h : ethOn s p = true)
    (hq : (s.eth[p]).queues[q] = f :: l) (hl : f.launch = none) (hr : f.ring = some k) (hb : (ring s k).busy = some b)
    (hwait : b.wait = .ethSend p st) :
    exec (.ethFrameSent p q sfd) s =
      .next (ethStart p (completeWait k (fun w => w = .ethSend p st) 0 (if st then sentStamp p sfd s % 2 ^ 32 else 0)
        (frameGone p q f l (delimiterAt s p sfd) (sentStamp p sfd s) s))) := by
  rw [ethFrameSent_unlaunched hw h hq hl, frameAnswered_command (s := frameGone p q f l _ _ s) hr hb hwait]
  rw [frameStamped_other (.inl (by rw [hr]; exact nofun))]

theorem byteNs_eq (sp : BitVec 2) : byteNs sp = if sp = 3 then 8 else if sp = 2 then 80 else 800 := rfl

theorem delimiterAt_within (p : Fin 2) (sfd : Nat) (s : State) :
    (s.eth[p]).wireFrom ≤ delimiterAt s p sfd ∧
    delimiterAt s p sfd ≤ (s.eth[p]).wireFrom + 8 * byteNs (s.eth[p]).speed + 8 ∧
    ((s.eth[p]).wireFrom ≤ sfd → sfd ≤ (s.eth[p]).wireFrom + 8 * byteNs (s.eth[p]).speed + 8 → delimiterAt s p sfd = sfd) := by
  unfold delimiterAt
  generalize (s.eth[p]).wireFrom = w, 8 * byteNs (s.eth[p]).speed + 8 = b at *
  omega

/-! ## The limit of a frame's wait -/

theorem firstOut_mem {l : List EthFrame} {f : EthFrame} (h : firstOut s l = some f) : f ∈ l ∧ f.ring ≠ none := by
  induction l generalizing f with
  | nil => exact nomatch h
  | cons g l ih =>
    have head (hg : g.ring.isSome = true) (he : g = f) : f ∈ g :: l ∧ f.ring ≠ none :=
      he ▸ ⟨List.mem_cons_self .., Option.isSome_iff_ne_none.mp hg⟩
    unfold firstOut at h
    cases hr : firstOut s l with
    | none =>
      rw [hr] at h
      dsimp only at h
      split at h
      · next hg => exact head hg (Option.some.inj h)
      · exact nomatch h
    | some y =>
      rw [hr] at h
      dsimp only at h
      split at h
      · next hg => exact head (Bool.and_eq_true_iff.mp hg).1 (Option.some.inj h)
      · obtain ⟨hm, hn⟩ := ih (hr.trans h)
        exact ⟨List.mem_cons_of_mem _ hm, hn⟩

theorem firstOut_none {l : List EthFrame} (h : firstOut s l = none) : ∀ g ∈ l, g.ring = none := by
  induction l with
  | nil => exact nofun
  | cons g l ih =>
    unfold firstOut at h
    cases hr : firstOut s l with
    | none =>
      rw [hr] at h
      dsimp only at h
      split at h
      · exact nomatch h
      · next hg =>
        refine List.forall_mem_cons.mpr ⟨?_, ih hr⟩
        exact Option.not_isSome_iff_eq_none.mp hg
    | some y =>
      rw [hr] at h
      dsimp only at h
      split at h <;> exact nomatch h

theorem firstOut_least {l : List EthFrame} {f : EthFrame} (h : firstOut s l = some f) :
    ∀ g ∈ l, g.ring ≠ none → sendLimit s f ≤ sendLimit s g := by
  induction l generalizing f with
  | nil => exact nofun
  | cons g l ih =>
    unfold firstOut at h
    cases hr : firstOut s l with
    | none =>
      rw [hr] at h
      dsimp only at h
      split at h
      · obtain rfl := Option.some.inj h
        exact List.forall_mem_cons.mpr ⟨fun _ => le_rfl, fun x hx hn => absurd (firstOut_none hr x hx) hn⟩
      · exact nomatch h
    | some y =>
      rw [hr] at h
      dsimp only at h
      have hy := ih hr
      split at h
      · next hg =>
        obtain rfl := Option.some.inj h
        have hle : sendLimit s g ≤ sendLimit s y := of_decide_eq_true (Bool.and_eq_true_iff.mp hg).2
        exact List.forall_mem_cons.mpr ⟨fun _ => le_rfl, fun x hx hn => hle.trans (hy x hx hn)⟩
      · next hg =>
        obtain rfl := Option.some.inj h
        refine List.forall_mem_cons.mpr ⟨fun hn => ?_, hy⟩
        refine Nat.le_of_lt (Nat.lt_of_not_le fun hle => hg ?_)
        exact Bool.and_eq_true_iff.mpr ⟨Option.isSome_iff_ne_none.mpr hn, decide_eq_true hle⟩

theorem ethSendTimeout_completes {k : Fin 8} {f : EthFrame} {n : Nat} (hn : n = if (s.eth[p]).wire = some q then 1 else 0)
    (hf : firstOut s (((s.eth[p]).queues[q]).drop n) = some f) (hr : f.ring = some k) :
    exec (.ethSendTimeout p q) s = .next (ethStart p (completeWait k (fun w => match w with
      | .ethSend r _ => r = p
      | _ => false) 6 0
      (modQueue p q (fun _ => ((s.eth[p]).queues[q]).take n ++ (((s.eth[p]).queues[q]).drop n).erase f)
        (netTicks (sendLimit s f) s)))) := by
  rw [exec_ethSendTimeout, execEthSendTimeout]
  by_cases hw : (s.eth[p]).wire = some q
  · rw [if_pos hw] at hn
    subst hn
    dsimp only
    rw [if_pos hw, if_pos hw, hf]
    dsimp only
    rw [hr]
    rfl
  · rw [if_neg hw] at hn
    subst hn
    rw [List.drop_zero] at hf
    dsimp only
    rw [if_neg hw, if_neg hw, hf]
    dsimp only
    rw [hr, List.take_zero, List.drop_zero]
    rfl

/-! ## Link, channels and PTP timers -/

theorem ethLink_comesUp {sp : BitVec 2} (ha : alive s = true) (he : ethEnabled s p.val = true) (hs : speedAllowed s p sp = true)
    (hl : (s.eth[p]).link = false ∨ (s.eth[p]).speed ≠ sp) :
    exec (.ethLink p true sp) s = .next (ethStart p (refreshWhere
      (fun _ e => (e.map (fun e => isEth e && ePort e = p.val)).getD false)
      (raiseEth p 0x0701 (1 + 2 * sp.toNat) (modEth p (fun e => { e with link := true, speed := sp }) s)))) := by
  have hsame : ((s.eth[p]).link && decide ((s.eth[p]).speed = sp)) = false := by
    obtain h | h := hl
    · rw [h, Bool.false_and]
    · rw [decide_eq_false h, Bool.and_false]
  refine congrArg Host.Outcome.next ((if_neg (by rw [ha]; decide)).trans ((if_neg (by decide)).trans (if_neg ?_)))
  rw [he, hs, hsame]
  decide

theorem ethTxPeriod_due {ch : BitVec 12} {e : Bytes} (he : entryOf (sendView s) ch.toNat = some e) (hc : eClass e = 10)
    (hp : ePort e = p.val) (ht : canFrameTime (ethFrameChans (sendView s) e) ≠ 0) :
    exec (.ethTxPeriod p ch) s = .next (ethDue e s) := by
  rw [exec_ethTxPeriod, execEthTxPeriod]
  dsimp only
  rw [he]
  refine congrArg Host.Outcome.next (if_neg ?_)
  rw [hc, hp, bne_self_eq_false, bne_self_eq_false, decide_eq_false ht]
  decide

theorem ptpMessageTimer_acts {m : BitVec 4} (hr : ptpRuns s p = true) (h : ethOn s p = true) :
    exec (.ptpMessageTimer p m) s = .next (ptpEffect ⟨p.val, m.toNat, [], totalNs s⟩
      (ptpAnswer s ⟨p.val, m.toNat, [], totalNs s⟩) s) :=
  congrArg Host.Outcome.next (if_pos (by rw [hr, h]; decide))

end

/-- Settles O53: a good frame takes the next sequence number whatever it does besides, a frame without launch time leaves from the head
of its queue, and the frame whose limit comes first is the least of those that a command waits for. -/
theorem ethernetPortsSendAndReceive : Obligations.EthernetPortsSendAndReceive := by
  refine ⟨?_, fun p frame sfd s => rfl, ?_, ?_, ?_, ?_, fun p sfd s => delimiterAt_within p sfd s, ?_, ?_, ?_, ?_, ?_, ?_⟩
  · intro p frame good sfd s h hp
    exact ethFrameReceive_held h hp
  · intro p frame sfd s h hp
    rw [ethFrameReceive_arrives h hp, arriveEth_bad]
  · intro p frame sfd s h hp h14 h1518 hm
    exact ethFrameReceive_sequence h hp h14 h1518 hm
  · intro p q f l t s hq hl ha
    exact ethLaunch_starts hq hl ha
  · intro p q f l sfd s hw h hq hl
    exact ⟨fun hr hp => ethFrameSent_own hw h hq hl hr hp, fun k b st hr hb hwait => ethFrameSent_command hw h hq hl hr hb hwait⟩
  · intro p q k f s n hf hr
    exact ethSendTimeout_completes rfl hf hr
  · intro l f s h
    obtain ⟨hm, hr⟩ := firstOut_mem h
    exact ⟨hm, hr, firstOut_least h⟩
  · intro p sp s ha
    exact congrArg Host.Outcome.next ((if_neg (by rw [ha]; decide)).trans (if_pos rfl))
  · intro p sp s ha he hs hl
    exact ethLink_comesUp ha he hs hl
  · intro p ch e s he hc hp ht
    exact ethTxPeriod_due he hc hp ht
  · intro p m s hr h x
    exact ⟨ptpMessageTimer_acts hr h, fun a => ptpEffect_seen x a s⟩

end Sys2Proof.Machine

/-! PROOFS. Redundancy: the Telith link trains, decides roles and reports (R561 to R574, R580). -/
namespace Sys2Proof.Machine

section
variable {s : State}

/-! ## Training -/

theorem telithTrainingStart_starts (ha : alive s = true) (ht : s.pair.trained = false) (hp : s.pair.step = 0)
    (hc : s.pair.clash = false) : exec .telithTrainingStart s = .next (startTraining s) :=
  congrArg Host.Outcome.next (if_pos (by rw [ha, ht, hp, hc]; decide))

/-- A step of the training of a link that is not trained takes the row of its number. -/
theorem trainingStepDone_steps {l : BitVec 2} {p : Option Identity} (ha : alive s = true) (ht : s.pair.trained = false) :
    (s.pair.step = 1 → exec (.trainingStepDone l p) s = .next (modPair (fun p => { p with step := 2 }) s)) ∧
    (s.pair.step = 2 → exec (.trainingStepDone l p) s = .next (modPair (fun p => { p with step := 3, rate := 1 }) s)) ∧
    (s.pair.step = 3 → exec (.trainingStepDone l p) s = .next (modPair (fun p => { p with step := 4 }) s)) ∧
    (s.pair.step = 4 → l ≠ 0 →
      exec (.trainingStepDone l p) s =
        .next (modPair (fun p => { p with step := 5, lanes := l, sentIdentity := some (ownIdentity s) }) s)) ∧
    (∀ i : Identity, s.pair.step = 5 → p = some i → exec (.trainingStepDone l p) s = .next (takeIdentity i s)) := by
  have hrow : ¬(!alive s || s.pair.trained) = true := by
    rw [ha, ht]
    decide
  rw [exec_trainingStepDone]
  unfold execTrainingStepDone
  rw [if_neg hrow]
  refine ⟨fun h => ?_, fun h => ?_, fun h => ?_, fun h hl => ?_, fun i h hi => ?_⟩ <;> rw [h]
  · rfl
  · rfl
  · rfl
  · exact congrArg Host.Outcome.next (if_neg hl)
  · rw [hi]
    rfl

theorem trainingStepTimeout_falls (ha : alive s = true) (ht : s.pair.trained = false) (h2 : 2 ≤ s.pair.step)
    (h : s.pair.step ≠ 3 ∨ s.pair.rate = 3) :
    exec .trainingStepTimeout s = .next (modPair (fun p => { p with step := 1, rate := 0, lanes := 0 }) s) := by
  refine congrArg Host.Outcome.next ((if_neg ?_).trans (if_neg ?_))
  · rw [ha, ht, decide_eq_false (by omega)]
    decide
  · obtain h | h := h
    · rw [decide_eq_false h, Bool.false_and]
      decide
    · rw [h, Bool.and_eq_true]
      exact fun hc => absurd hc.2 (by decide)

theorem trainingStepTimeout_slows (ha : alive s = true) (ht : s.pair.trained = false) (h : s.pair.step = 3)
    (hr : s.pair.rate.toNat < 3) :
    exec .trainingStepTimeout s = .next (modPair (fun p => { p with rate := p.rate + 1 }) s) :=
  congrArg Host.Outcome.next ((if_neg (by rw [ha, ht, h]; decide)).trans (if_pos (by rw [h, decide_eq_true hr]; decide)))

theorem takeIdentity_other {i : Identity} (h : i.unitId ≠ s.power.slotId) :
    (takeIdentity i s).pair.partner = some i ∧ (takeIdentity i s).pair.step = 6 ∧
    (takeIdentity i s).pair.highest = maxWord s.pair.highest (maxWord i.claim i.highest) := by
  rw [takeIdentity, if_neg h]
  exact ⟨rfl, rfl, rfl⟩

/-! ## The role's decision -/

theorem soloTimeout_decides (ho : telithOn s = true) (ha : alive s = true) (ht : s.pair.trained = false) (hp : s.pair.step ≠ 0) :
    exec .soloTimeout s = .next (endRetrain (if s.pair.role = 3 ∨ s.pair.role = 0 then decideRole 0 false 1 s else s)) := by
  refine congrArg Host.Outcome.next ((if_neg (by rw [ha, ht]; decide)).trans (congrArg endRetrain (if_congr ?_ rfl rfl)))
  simp [ho, hp]

theorem roleDecision_decides {i : Identity} (hi : s.pair.partner = some i) (ha : alive s = true) (ht : s.pair.trained = false)
    (hp : s.pair.step = 6) :
    let r := roleRow s i
    let a := linkTrained i (decideRole r.2.1 r.2.2 r.1 (modPair (fun p => { p with
      trained := true, step := 0, current := false, takeoverFail := p.takeoverFail && inStartUp s
      bulk := if s.mode.mode = mTrack then some (0, nowUs s) else p.bulk }) s))
    let b := if r.2.2 then supersede i.claim 0 a else a
    let c := if r.2.1 = 1 ∧ b.pair.superseded = false ∧ runs b = true ∧ b.ret.ctr.claim ≤ i.claim then takeClaim .roleDecision b else b
    exec .roleDecision s = .next (endRetrain (startupClaim (endsInRun s) (takePartnerTime c))) := by
  intro r a b c
  rw [exec_roleDecision, execRoleDecision, hi]
  dsimp only
  rw [if_neg (by rw [ha, ht, hp, bne_self_eq_false]; decide)]
  refine congrArg (fun x => Host.Outcome.next (endRetrain (startupClaim (endsInRun s) (takePartnerTime x)))) (if_congr ?_ rfl rfl)
  simp only [Bool.and_eq_true, decide_eq_true_eq, Bool.not_eq_true', and_assoc]
  exact Iff.rfl

theorem takePartnerTime_outside (h : inPhase s 7 = false) : takePartnerTime s = s := by
  unfold takePartnerTime
  split
  · refine if_neg ?_
    rw [h, Bool.false_and, Bool.false_and]
    decide
  · rfl

theorem startupClaim_outside (e : Bool) (h : inPhase s 8 = false) : startupClaim e s = s := by
  refine if_neg ?_
  rw [h, Bool.false_and, Bool.false_and, Bool.false_and]
  decide

theorem startupClaim_takes (h : inPhase s 8 = true) (he : endsInRun s = true) (hf : s.pair.takeoverFail = false)
    (hc : s.pair.claiming = none) : startupClaim false s = takeClaim .startup s := by
  rw [startupClaim, hc, h, he, hf]
  rfl

/-! ## The trained link -/

theorem linkLane_leaves {lane : Fin 2} (ht : s.pair.trained = true) (ha : alive s = true) (hl : s.pair.lanes = 3) :
    exec (.linkLane lane) s = .next (raisePair 0x0803 (2 - lane.val)
      (modPair (fun p => { p with lanes := BitVec.ofNat 2 (2 - lane.val) }) s)) := by
  rw [exec_linkLane, execLinkLane, if_neg (by rw [ht, ha, hl, bne_self_eq_false]; decide)]
  match lane with
  | 0 => rfl
  | 1 => rfl

theorem sendBeats_lane (l : Fin 2) (s : State) :
    (sendBeats s).pair.sentBeats[l] = if s.pair.lanes.getLsbD l.val then some (ownBeat s) else s.pair.sentBeats[l] :=
  Vector.getElem_ofFn ..

theorem heartbeatReceive_follows {h : Heartbeat} (ht : s.pair.trained = true) (ha : alive s = true) :
    let a := followPartner h (modPair (fun p => { p with
      beat := some h, skew := some ((s.time.tickNo : Int) - h.tick.toNat, (nowUs s : Int) - h.taskTime.toNat)
      current := p.current && (s.mode.mode = mTrack || h.mode = mTrack) }) s)
    let b := seeClaim (maxWord h.claim h.highest) (if h.claim < h.highest then 0 else partnerUnit a) 0 a
    let c := if b.mode.mode = mTrack ∧ s.pair.beat.map (fun x => x.mode) ≠ some h.mode then settleOutputs directOutputs b else b
    exec (.heartbeatReceive h) s =
      .next (if h.relinquish ∧ bitAt (block c 0x0501) 0 2 = true then takeoverEvent false c else c) := by
  intro a b c
  have hc : c = if b.mode.mode = mTrack && s.pair.beat.map (fun x => x.mode) != some h.mode then settleOutputs directOutputs b else b :=
    if_congr (by rw [Bool.and_eq_true, decide_eq_true_eq, bne_iff_ne]) rfl rfl
  rw [exec_heartbeatReceive, execHeartbeatReceive, if_neg (by rw [ht, ha]; decide)]
  dsimp only
  rw [← hc]
  exact congrArg Host.Outcome.next (if_congr (by rw [Bool.and_eq_true]) rfl rfl)

end

/-- Settles O54: a step of the training takes the row of its number, and a decision is its guards resolved in the statement's order. -/
theorem theTelithLinkTrainsAndDecides : Obligations.TheTelithLinkTrainsAndDecides := by
  refine ⟨?_, ?_, ?_, ?_, ?_, ?_, ?_, ?_, ?_, ?_, ?_⟩
  · intro s ha ht hp hc
    exact telithTrainingStart_starts ha ht hp hc
  · intro l p s ha ht
    obtain ⟨h1, h2, h3, h4, h5⟩ := trainingStepDone_steps (l := l) (p := p) ha ht
    exact ⟨h1, h2, h3, h4, h5, trainingStepTimeout_falls ha ht, trainingStepTimeout_slows ha ht⟩
  · intro i s h
    exact takeIdentity_other h
  · intro s ho ha ht hp
    exact soloTimeout_decides ho ha ht hp
  · intro i s hi ha ht hp
    exact roleDecision_decides hi ha ht hp
  · intro e s h7 h8
    rw [takePartnerTime_outside h7, startupClaim_outside e h8]
  · intro s h he hf hc
    exact startupClaim_takes h he hf hc
  · intro lane s ht ha hl
    exact linkLane_leaves ht ha hl
  · intro s ht ha
    exact ⟨congrArg Host.Outcome.next (if_neg (by rw [ht, ha]; decide)), congrArg Host.Outcome.next (if_pos (by rw [ht, ha]; decide)),
      rfl, fun l => sendBeats_lane l s⟩
  · intro h s ht ha
    exact heartbeatReceive_follows ht ha
  · intro c why s hc ha hop a
    rw [exec_claimTaken, execClaimTaken, hc]
    dsimp only
    refine congrArg Host.Outcome.next ((if_neg ?_).trans ?_)
    · intro hbad
      obtain hbad | hbad := Bool.or_eq_true_iff.mp hbad
      · exact Bool.false_ne_true (hop.symm.trans hbad)
      · rw [ha] at hbad
        exact Bool.false_ne_true hbad
    · cases why <;> rfl

end Sys2Proof.Machine

/-! PROOFS. Redundancy: the standby follows its partner and takes over (R572 to R586). -/
namespace Sys2Proof.Machine

section
variable {s t u : State}

/-! ## What driving the outputs leaves alone -/

/-- What `Answered` lets change, the state of outputs and loops without the cut, and the CAN controllers. -/
structure Driven (s t : State) : Prop where
  eq : t = { s with host := t.host, hostMem := t.hostMem, recorder := t.recorder, tasks := t.tasks, chan := t.chan, time := t.time, star := t.star, free := t.free, field := t.field, loops := t.loops, can := t.can }
  cut : t.field.cut = s.field.cut

theorem Driven.refl (s : State) : Driven s s := ⟨rfl, rfl⟩

theorem Driven.trans (h : Driven s t) (k : Driven t u) : Driven s u := by
  have hk := k.eq
  rw [h.eq] at hk
  exact ⟨hk, k.cut.trans h.cut⟩

theorem Driven.foldl {α : Type} {f : State → α → State} {l : List α} (hf : ∀ x a, Driven x (f x a)) : Driven s (l.foldl f s) :=
  List.foldlRecOn (motive := fun x => Driven s x) _ _ (.refl s) fun x hx a _ => hx.trans (hf x a)

theorem Answered.driven (h : Answered s t) : Driven s t := by
  have hk := h.eq
  exact ⟨by rw [hk], by rw [hk]⟩

theorem Refreshed.driven (h : Refreshed s t) : Driven s t := h.answered.driven

theorem Driven.pair (h : Driven s t) : t.pair = s.pair := by rw [h.eq]
theorem Driven.mode (h : Driven s t) : t.mode = s.mode := by rw [h.eq]
theorem Driven.power (h : Driven s t) : t.power = s.power := by rw [h.eq]
theorem Driven.ret (h : Driven s t) : t.ret = s.ret := by rw [h.eq]
theorem Driven.wdt (h : Driven s t) : t.wdt = s.wdt := by rw [h.eq]
theorem Driven.fw (h : Driven s t) : t.fw = s.fw := by rw [h.eq]
theorem Driven.factory (h : Driven s t) : t.factory = s.factory := by rw [h.eq]
theorem Driven.commit (h : Driven s t) : t.commit = s.commit := by rw [h.eq]

theorem driven_modDo (n : Nat) (f : DoCh → DoCh) (s : State) : Driven s (modDo n f s) := ⟨rfl, rfl⟩

theorem driven_withEdges {f : State → State} (h : Driven s (f s)) : Driven s (withEdges f s) := by
  refine h.trans ?_
  exact ⟨rfl, rfl⟩

theorem driven_modLoop (n : Nat) (f : LoopCh → LoopCh) (s : State) : Driven s (modLoop n f s) := ⟨rfl, rfl⟩

theorem driven_aoJump (i : Nat) (s : State) : Driven s (aoJump i s) := ⟨rfl, rfl⟩

theorem driven_applyDirect (id : Nat) (v : Option Word) (s : State) : Driven s (applyDirect id v s) := by
  unfold applyDirect
  split
  · exact .refl s
  · split
    · exact driven_withEdges (driven_modDo ..)
    · split
      · dsimp only
        split
        · exact (driven_modLoop ..).trans (driven_aoJump ..)
        · exact driven_modLoop ..
      · exact .refl s

theorem driven_endThermal {id : Nat} {f : State → State} (h : Driven s (f s)) : Driven s (endThermal id f s) := by
  unfold endThermal
  dsimp only
  split
  · exact h.trans (refreshed_refreshChan ..).driven
  · exact h

theorem driven_dropAos (s : State) : Driven s (dropAos s) :=
  .foldl fun x i => by
    split
    · exact driven_aoJump ..
    · exact .refl x

theorem driven_stopAll (s : State) : Driven s (stopAll s) :=
  .foldl fun x id => by
    split
    · exact driven_endThermal (driven_applyDirect ..)
    · exact driven_endThermal (driven_applyDirect ..)

theorem driven_deenergise (s : State) : Driven s (deenergise s) := by
  refine .trans ?_ (driven_dropAos _)
  exact .foldl fun x id => driven_endThermal (driven_applyDirect ..)

theorem driven_hasStarted (c : Fin 4) (s : State) : Driven s (hasStarted c s).2 := by
  unfold hasStarted
  split
  · exact .refl s
  · exact ⟨rfl, rfl⟩

theorem driven_canLoaded (c : Fin 4) (s : State) : Driven s (canLoaded c s) := by
  have chosen (x : State) : Driven x (canChoose c x) := ⟨rfl, rfl⟩
  unfold canLoaded
  dsimp only
  split
  · exact driven_hasStarted c s
  · exact (driven_hasStarted c s).trans (chosen _)

theorem driven_recallChannels (s : State) : Driven s (recallChannels s) := by
  unfold recallChannels
  split
  · exact .refl s
  · refine .foldl fun x c => ?_
    split
    · exact driven_canLoaded ..
    · exact .refl x

/-- Entering RUN lets the outputs stand or stops them. -/
theorem driven_enterRun (old : BitVec 4) (s : State) : Driven s (enterOutputs old mRun s) := by
  have run (x : State) : enterOutputs old mRun x = if old = mStop || old = mStartUp then stopAll x else x := by
    unfold enterOutputs
    rw [if_neg (by decide), if_neg (by decide), if_neg (by decide)]
    rfl
  rw [run]
  split
  · exact driven_stopAll s
  · exact .refl s

/-! ## Taking over -/

theorem queueBale_role (type : BitVec 3) (t : BitVec 7) (n : Nat) (lines : List BaleLine) (s : State) :
    (queueBale type t n lines s).pair.role = s.pair.role := by
  unfold queueBale
  split
  · rfl
  · dsimp only
    split
    · rfl
    · rw [raise_pair]

theorem changeMode_run_role (c r q : Nat) (s : State) : (changeMode mRun c r q s).pair.role = s.pair.role := by
  have kept (b : Bool) (f : State → State) (x : State) : (if b && !running2 mRun then f x else x) = x := if_neg (by cases b <;> decide)
  have refused (b : Bool) (x : State) : (if b && !(running2 mRun || decide (mRun = mStop)) then refuseEdit x else x) = x :=
    if_neg (by cases b <;> decide)
  unfold changeMode
  extract_lets old s1 s2 s3 fd pr wd s7 ch s9 s10 s11 s12
  have h2 : s2 = s1 := kept ..
  have h3 : s3 = s2 := refused ..
  have h1 : s1 = zeroPairRuns s := if_pos rfl
  have h7 : s7.pair.role = s3.pair.role := rfl
  have h9 : s9 = s7 := if_neg (by rw [show decide (mRun = mTrack) = false from rfl, Bool.false_and]; decide)
  have h10 : s10.pair = s9.pair := (driven_recallChannels _).pair.trans (driven_enterRun old s9).pair
  have h11 : s11 = s10 := if_neg (by rw [show decide (mRun = mStop) = false from rfl, Bool.false_and, Bool.false_and]; decide)
  rw [(refreshed_refreshSource _).pair, queueBale_role, raise_pair, h11, h10, h9, h7, h3, h2, h1]
  rfl

theorem armWdt_pair (s : State) : (armWdt s).pair = s.pair := by
  unfold armWdt
  dsimp only
  split <;> rfl

theorem takeOver_runs (s : State) : (takeOver s).pair.role = 1 ∧ (takeOver s).mode.mode = mRun ∧ (takeOver s).mode.restart = 3 := by
  unfold takeOver
  extract_lets s1 cm s2 waiting s3 md cm3 s4 s5
  have hr : s3.pair.role = 1 := by
    rw [changeMode_run_role, armWdt_pair]
    rfl
  have hm : s3.mode.mode = mRun := changeMode_mode ..
  clear_value s3
  rw [raisePair, raise_pair, raise_mode]
  exact ⟨hr, hm, rfl⟩

theorem takeover_runs {t : Nat} {h : Bool} (ht : s.pair.takeover = some (t, h)) (hm : s.mode.mode = mTrack) (ha : alive s = true)
    (hc : s.pair.claiming = none) (h25 : t + 25 ≤ tickTime s (nextTick s)) :
    exec .takeover s = .next (takeOver (advanceTo (tickTime s (nextTick s)) s)) := by
  rw [exec_takeover, execTakeover, ht]
  refine congrArg Host.Outcome.next (if_neg ?_)
  rw [hm, ha, hc, bne_self_eq_false, decide_eq_false (Nat.not_lt.mpr h25)]
  decide

/-! ## Bales -/

theorem baleApply_discards {b : Bale} (ht : s.pair.trained = true) (ha : alive s = true) (hb : b.crc ≠ baleCrc b) :
    exec (.baleApply b) s = .next { s with pair := { s.pair with discarded := min (s.pair.discarded + 1) (2 ^ 32 - 1) } } :=
  congrArg Host.Outcome.next ((if_neg (by rw [ht, ha]; decide)).trans (if_pos (bne_iff_ne.mpr hb)))

theorem notePartnerEdit_mode (b : Bale) (s : State) : (notePartnerEdit b s).mode = s.mode := by
  unfold notePartnerEdit
  split <;> rfl

/-- A module in TRACK that sees a claim keeps the highest one seen, and nothing else follows. -/
theorem seeClaim_tracks {c : Word} {unit via : Nat} (hm : s.mode.mode = mTrack) :
    seeClaim c unit via s = modPair (fun p => { p with highest := maxWord p.highest c }) s := by
  have hr (f : PairSt → PairSt) : runs (modPair f s) = false := by
    rw [runs, show (modPair f s).mode.mode = mTrack from hm]
    decide
  exact if_pos (by rw [hr, Bool.false_and]; rfl)

theorem baleApply_takes {b : Bale} (ht : s.pair.trained = true) (ha : alive s = true) (hb : b.crc = baleCrc b)
    (hm : s.mode.mode = mTrack) :
    let a := modPair (fun p => { p with highest := maxWord p.highest b.claim }) (notePartnerEdit b s)
    let c := baleEffect b (decide (highestClaim a ≤ b.claim)) a
    exec (.baleApply b) s = .next (if baleLate b a then a else { c with
      pair := { c.pair with lastBale := b.commit.toNat }
      commit := { c.commit with last := b.commit.toNat }
      ret := { c.ret with ctr := { c.ret.ctr with highestCommit := max c.ret.ctr.highestCommit b.commit.toNat } } }) := by
  intro a c
  have hn : (notePartnerEdit b s).mode.mode = mTrack := by rw [notePartnerEdit_mode, hm]
  have hs : seeClaim b.claim (partnerUnit s) 0 (notePartnerEdit b s) = a := seeClaim_tracks hn
  have ham : a.mode.mode = mTrack := hn
  rw [exec_baleApply, execBaleApply, if_neg (by rw [ht, ha]; decide), if_neg (by rw [hb, bne_self_eq_false]; decide), hs]
  refine congrArg Host.Outcome.next (if_congr ?_ rfl rfl)
  rw [ham, bne_self_eq_false, Bool.false_or]

theorem baleLate_iff (b : Bale) (s : State) :
    baleLate b s = true ↔ s.pair.takeover ≠ none ∧ s.pair.claiming = none ∧ b.claim.toNat < s.ret.ctr.claim.toNat := by
  rw [baleLate, Bool.and_eq_true, Bool.and_eq_true, Option.isSome_iff_ne_none, Option.isNone_iff_eq_none, decide_eq_true_eq,
    BitVec.lt_def, and_assoc]

theorem baleEffect_commit {b : Bale} {r : TaskRec} {w : Bool} (hb : b.type = 1) (hr : taskRec s b.task = some r) :
    baleEffect b w s = standbyOutputs r b.commit.toNat w
      { s with commit := b.lines.foldl (applyLine b.task b.commit.toNat) s.commit } := by
  have ht : taskRec { s with commit := b.lines.foldl (applyLine b.task b.commit.toNat) s.commit } b.task = some r := hr
  unfold baleEffect
  rw [if_pos hb]
  dsimp only
  rw [ht]

/-! ## The bulk copy -/

theorem bulkLine_applies {l : BulkLine} (h : ∀ r ∈ s.proj.cur.tasks, r.outSize = 0 ∨ lineOf l.line.address.toNat ≠ lastOutLine r) :
    bulkLine s l = { s with
      commit := applyLine l.task l.commit.toNat s.commit l.line
      ret := { s.ret with ctr := { s.ret.ctr with highestCommit := max s.ret.ctr.highestCommit l.commit.toNat } }
      pair := { s.pair with bulk := s.pair.bulk.map (fun b => (b.1 + 1, b.2)) } } := by
  have hnone : s.proj.cur.tasks.find? (fun r => decide (0 < r.outSize) && lineOf l.line.address.toNat = lastOutLine r) = none := by
    refine List.find?_eq_none.mpr fun r hr hbad => ?_
    simp only [Bool.and_eq_true, decide_eq_true_eq] at hbad
    obtain ⟨hpos, heq⟩ := hbad
    exact (h r hr).elim (Nat.ne_of_gt hpos) fun hne => hne heq
  unfold bulkLine
  dsimp only
  rw [hnone]

theorem bulkDone_ends {n t : Nat} (ht : s.pair.trained = true) (ha : alive s = true) (hm : s.mode.mode = mTrack)
    (hb : s.pair.bulk = some (n, t)) :
    let a := raisePair 0x080A (n % 2 ^ 32 + 2 ^ 32 * ((nowUs s - t) % 2 ^ 32)) (modPair (fun p => { p with
      bulk := none, current := true, takeoverFail := false, delivered := BitVec.allOnes 128 }) s)
    exec .bulkDone s = .next (if s.pair.takeoverFail then followAgain a else a) := by
  intro a
  rw [exec_bulkDone, execBulkDone, if_neg (by rw [ht, ha]; decide), if_pos hm, hb]

theorem bulkDone_partner (hr : s.pair.role = 1) (ha : alive s = true) (hp : partnerTracks s = true) (hm : s.mode.mode ≠ mTrack) :
    exec .bulkDone s = .next (modPair (fun p => { p with current := true }) s) := by
  have ht : s.pair.trained = true := (Bool.and_eq_true_iff.mp hp).1
  exact congrArg Host.Outcome.next ((if_neg (by rw [ht, ha]; decide)).trans
    ((if_neg hm).trans (if_pos (by rw [hr, hp]; decide))))

/-! ## Handover -/

theorem handoverTimeout_ends (h : s.pair.handover = some none ∨ waiter (fun w => w = .handover) s ≠ none) :
    exec .handoverTimeout s =
      .next (modPair (fun p => { p with handover := if s.pair.handover = some none then none else s.pair.handover })
        (endHandover 6 s)) := by
  refine congrArg Host.Outcome.next (if_neg fun hbad => ?_)
  rw [Bool.and_eq_true, bne_iff_ne, Option.isNone_iff_eq_none] at hbad
  obtain ⟨hh, hw⟩ := hbad
  exact h.elim hh fun hn => hn hw

end

/-- Settles O55: in TRACK a claim seen is only kept; the change to RUN leaves the role, so a takeover leaves the unit active in RUN. -/
theorem theStandbyFollowsAndTakesOver : Obligations.TheStandbyFollowsAndTakesOver := by
  refine ⟨?_, ?_, fun b s => ⟨fun h => if_pos (bne_iff_ne.mpr h), fun h => if_neg (by rw [h]; decide), baleLate_iff b s⟩,
    ?_, ?_, ?_, ?_, ?_, ?_, fun s => takeOver_runs s, ?_, ?_⟩
  · intro b s ht ha hb
    exact baleApply_discards ht ha hb
  · intro b s ht ha hb hm
    exact baleApply_takes ht ha hb hm
  · intro b r w s hb hr
    exact baleEffect_commit hb hr
  · intro l s ht hm ha
    exact congrArg Host.Outcome.next (if_pos (by rw [ht, hm, ha]; decide))
  · intro l s h
    exact bulkLine_applies h
  · intro n t s ht ha hm hb
    exact bulkDone_ends ht ha hm hb
  · intro s hr ha hp hm
    exact bulkDone_partner hr ha hp hm
  · intro t h s ht hm ha hc h25
    exact takeover_runs ht hm ha hc h25
  · intro s ht ha
    exact congrArg Host.Outcome.next (if_pos (by rw [ht, ha]; decide))
  · intro s h
    exact handoverTimeout_ends h

end Sys2Proof.Machine

/-! PROOFS. Power and the retain store: pages are written under the energy check (R592 to R611). -/
namespace Sys2Proof.Machine

section
variable {s : State}

theorem retainedSavePeriodic_saves (h : fieldAt (block s 0x0510) 0 2 ≠ 0) (hw : working s.mode.mode = true) (ha : alive s = true) :
    let t := s.mode.saveFrom + 1000000 * fieldAt (block s 0x0510) 0 2
    let a := advanceTo t s
    exec .retainedSavePeriodic s = .next (dueSave 0 { a with mode := { a.mode with saveFrom := t } }) := by
  intro t a
  refine congrArg Host.Outcome.next (if_neg ?_)
  rw [decide_eq_false h, hw, ha]
  decide

/-! ## The controller's pages -/

theorem retainPageWrite_powered {mv : Nat} (h : s.power.stopped = false) :
    exec (.retainPageWrite mv) s = .next (startPage mv (finishPage s)) :=
  congrArg Host.Outcome.next (if_neg (by rw [h]; decide))

theorem finishPage_unstarted {o : RetOp} {l : List RetOp} (h : s.ret.ops = o :: l) (ho : o.started = false) : finishPage s = s := by
  unfold finishPage
  rw [h]
  exact if_pos (by rw [ho]; rfl)

theorem startPage_checks {o : RetOp} {l : List RetOp} {mv : Nat} (h : s.ret.ops = o :: l) (ho : o.started = false) :
    startPage mv s = if energyOk mv o.pages.length then { s with ret := { s.ret with ops := { o with started := true } :: l } }
      else opRefused o mv { s with ret := { s.ret with ops := l } } := by
  unfold startPage
  rw [h]
  exact if_neg (by rw [ho]; decide)

theorem finishPage_idle (h : s.ret.ops = []) : finishPage s = s := by
  unfold finishPage
  rw [h]

theorem startPage_idle {mv : Nat} (h : s.ret.ops = []) : startPage mv s = s := by
  unfold startPage
  rw [h]

/-- The state with the page of a RETAIN_WRITE stored and nothing left to write. -/
def paramStored (n : Nat) (b : Bytes) (s : State) : State :=
  { s with ret := { s.ret with mram := Mem.setAll s.ret.mram (64 * n) (padTo 64 b), ops := [] } }

theorem finishPage_param {k : Fin 8} {n i : Nat} {b : Bytes} (h : s.ret.ops = [⟨.param k false, [(n, b)], i, true⟩]) :
    finishPage s = paramStored n b s := by
  have hn : nextPage s.ret ⟨.param k false, [(n, b)], i, true⟩ = some (n, b) := rfl
  have hf : storeFails ⟨.param k false, [(n, b)], i, true⟩ s = (false, s) := rfl
  have hu (l : List (Nat × Bytes)) : unlatch ⟨.param k false, [(n, b)], i, true⟩ l s = s := rfl
  have hd (x : State) : opDone (.param k false) x = x := rfl
  unfold finishPage
  rw [h]
  dsimp only
  rw [if_neg (by decide), hn, hf]
  dsimp only
  rw [if_neg (by decide), if_pos (by rfl), hu, hd]
  rfl

/-! ## The recorder -/

theorem energyOk_fewer {mv V W : Nat} (hle : V ≤ W) (h : energyOk mv W = true) : energyOk mv V = true := by
  refine decide_eq_true (le_trans ?_ (of_decide_eq_true h))
  gcongr

theorem writeChecked_fed {mv total o : Nat} {e : EventRec} {r : RetSt} (h : energyOk mv 2 = true) :
    writeChecked mv total o e r = writeRecord total o e r := by
  rw [writeChecked, if_pos h]
  exact if_pos (energyOk_fewer (by decide) h)

theorem noteOverflow_same (h : s.recorder.lost = 0 ∨ 512 ≤ s.recorder.queue.length) : noteOverflow s = s := by
  refine if_pos ?_
  rw [recRoom, Bool.or_eq_true, decide_eq_true_eq, Bool.not_eq_true', decide_eq_false_iff_not, Nat.not_lt]
  exact h

theorem noteOverflow_reports (hl : s.recorder.lost ≠ 0) (hq : s.recorder.queue.length < 512) :
    let r := raise 0x9000 0x0905 0 (min s.recorder.lost (2 ^ 32 - 1)) { s with recorder := { s.recorder with lost := 0 } }
    let over_ (e : Nat × EventRec) : Bool := e.2.source = 0x9000 && e.2.code = 0x0905
    noteOverflow s = { r with recorder := { r.recorder with
      queue := r.recorder.queue.filter over_ ++ r.recorder.queue.filter (fun e => !over_ e) } } := by
  intro r over_
  refine if_neg ?_
  rw [recRoom, decide_eq_false hl, decide_eq_true hq]
  decide

theorem recordedLatch_eq (s : State) : recordedLatch s = { s with wdt := { s.wdt with
    latch := if s.recorder.queue = [] ∧ s.wdt.latchHeld = true then none else s.wdt.latch } } := by
  have hiff : (s.recorder.queue.isEmpty && s.wdt.latchHeld) = true ↔ s.recorder.queue = [] ∧ s.wdt.latchHeld = true := by
    rw [Bool.and_eq_true, List.isEmpty_iff]
  unfold recordedLatch
  by_cases h : s.recorder.queue = [] ∧ s.wdt.latchHeld = true
  · rw [if_pos (hiff.mpr h), if_pos h]
  · rw [if_neg (mt hiff.mp h), if_neg h]

/-- The recorder of a powered module that is not saving, past phase 3, with energy, writes its oldest record. -/
theorem recorderWrite_oldest {o : Nat} {e : EventRec} {l : List (Nat × EventRec)} {mv : Nat} (hp : s.power.stopped = false)
    (hs : s.power.saving = false) (hm : s.mode.phase = 0 ∨ 4 ≤ s.mode.phase) (he : energyOk mv 2 = true)
    (hq : (noteOverflow s).recorder.queue = (o, e) :: l) :
    let u := noteOverflow s
    exec (.recorderWrite mv) s = .next (recordedLatch (noteOverflow { u with
      ret := writeRecord u.recorder.total o e u.ret, recorder := { u.recorder with queue := l } })) := by
  intro u
  have hguard : ¬(s.power.stopped || s.power.saving || (s.mode.phase != 0 && s.mode.phase < 4)) = true := by
    rw [hp, hs]
    obtain hm | hm := hm
    · rw [hm]
      decide
    · rw [decide_eq_false (Nat.not_lt.mpr hm), Bool.and_false]
      decide
  have hu : u.recorder.queue = (o, e) :: l := hq
  rw [exec_recorderWrite, execRecorderWrite, if_neg hguard]
  dsimp only
  rw [hu]
  dsimp only
  rw [if_neg (by rw [he]; decide), writeChecked_fed he]

end

/-- Settles O56: finishing and starting a page by the state of the queue's first operation, the recorder by its queue after overflow. -/
theorem theRetainStoreWritesPages : Obligations.TheRetainStoreWritesPages := by
  refine ⟨?_, ?_, ?_, ?_, ?_, ?_, ?_, fun s => ⟨noteOverflow_same, noteOverflow_reports, recordedLatch_eq s⟩⟩
  · intro s h hw ha
    exact retainedSavePeriodic_saves h hw ha
  · intro mv s h
    exact retainPageWrite_powered h
  · intro o l mv s h ho hp
    rw [retainPageWrite_powered hp, finishPage_unstarted h ho, startPage_checks h ho]
  · intro mv s h hp
    rw [retainPageWrite_powered hp, finishPage_idle h, startPage_idle h]
  · intro n i b k mv s h hp
    rw [retainPageWrite_powered hp, finishPage_param h, startPage_idle (s := paramStored n b s) rfl]
    rfl
  · intro o e l mv s hq hp hs hm he hn
    have h := recorderWrite_oldest hp hs hm he ((congrArg (fun x => x.recorder.queue) (noteOverflow_same hn)).trans hq)
    rw [noteOverflow_same hn] at h
    exact h
  · intro o e l mv s hp hs hm he hq
    exact recorderWrite_oldest hp hs hm he hq

end Sys2Proof.Machine

/-! PROOFS. Power and the retain store: what the last page and a save leave of the supply's state (R633, R637). -/
namespace Sys2Proof.Machine

section
variable {s t u : State}

theorem power_foldl {α : Type} {f : State → α → State} {l : List α} (hf : ∀ x a, (f x a).power = x.power) :
    (l.foldl f s).power = s.power :=
  List.foldlRecOn (motive := fun x : State => x.power = s.power) _ _ rfl fun x hx a _ => (hf x a).trans hx

theorem power_ite {c : Prop} [Decidable c] (ht : t.power = s.power) (hu : u.power = s.power) : (if c then t else u).power = s.power := by
  split
  · exact ht
  · exact hu

/-! ## Outputs and instances -/

theorem driven_underEntry {id : Nat} {e : Option (Option Bytes)} {f : State → State} (h : ∀ x, Driven x (f x)) (s : State) :
    Driven s (underEntry id e f s) := by
  unfold underEntry
  split
  · exact h s
  · next e =>
    refine .trans (t := { s with chan := { s.chan with pinned := Tab.set s.chan.pinned id e } }) ⟨rfl, rfl⟩ ?_
    refine (h _).trans ?_
    exact ⟨rfl, rfl⟩

theorem driven_applyValue (v : BitVec 3) (id : Nat) (x : Word) (s : State) : Driven s (applyValue v id x s) := by
  unfold applyValue
  split
  · split
    · exact driven_applyDirect ..
    · exact .refl s
  · exact driven_applyDirect ..

theorem driven_applyValues (v : BitVec 3) (olds : Tab (Option Bytes)) (values : List (Nat × Word)) (s : State) :
    Driven s (applyValues v olds values s) :=
  .foldl fun x p => driven_endThermal (driven_underEntry (fun y => driven_applyValue ..) x)

theorem driven_applyDue (due : List OutDue) (s : State) : Driven s (applyDue due s) :=
  .foldl fun x d => driven_applyValues ..

theorem driven_settleOutputs (ids : List Nat) (s : State) : Driven s (settleOutputs ids s) :=
  .foldl fun x id => by
    split
    · exact driven_endThermal (driven_applyDirect ..)
    · exact .refl x

theorem driven_staggered {f : State → State} (h : Driven s (f s)) : Driven s (staggered f s) := by
  refine h.trans ?_
  exact ⟨rfl, rfl⟩

theorem driven_enterOutputs (old new : BitVec 4) (s : State) : Driven s (enterOutputs old new s) := by
  unfold enterOutputs
  split
  · split
    · exact driven_deenergise s
    · exact (driven_staggered (driven_settleOutputs ..)).trans (driven_dropAos _)
  · split
    · exact driven_stopAll s
    · split
      · split
        · exact .refl s
        · exact driven_stopAll s
      · split
        · exact driven_stopAll s
        · exact .refl s

theorem closeCopy_power (x : StallId) (f : Fin 4) (s : State) : (closeCopy x f s).power = s.power := by
  unfold closeCopy
  split
  · rfl
  · rfl

theorem abortInstance_power (t : BitVec 7) (code detail : Nat) (b : Bool) (s : State) : (abortInstance t code detail b s).power = s.power := by
  have close (l : List (StallId × Fin 4 × Inst)) (x : State) : (l.foldl (fun s c => closeCopy c.1 c.2.1 s) x).power = x.power :=
    power_foldl fun x c => closeCopy_power ..
  unfold abortInstance
  dsimp only
  split
  · rw [raiseAborted, raiseAborted, raiseTask_power, raiseTask_power, modTask_power, close]
  · rw [raiseAborted, raiseTask_power, modTask_power, close]

theorem abortAll_power (code detail : Nat) (s : State) : (abortAll code detail s).power = s.power := by
  unfold abortAll
  dsimp only
  rw [modTasks_power]
  exact power_foldl fun x t => power_ite (abortInstance_power ..) rfl

/-! ## Changes of mode -/

theorem queueBale_power (type : BitVec 3) (t : BitVec 7) (n : Nat) (lines : List BaleLine) (s : State) :
    (queueBale type t n lines s).power = s.power := by
  unfold queueBale
  split
  · rfl
  · dsimp only
    split
    · rfl
    · rw [raise_power]

theorem dueSave_power (cause : BitVec 2) (s : State) : (dueSave cause s).power = s.power := by
  unfold dueSave
  split <;> rfl

theorem leaveRun_power (new : BitVec 4) (s : State) : (leaveRun new s).power = s.power := by
  have flushed : (flushOutputs s).power = s.power := (driven_applyDue _ s).power
  have aborted : (abortAll fcMode new.toNat (flushOutputs s)).power = s.power := (abortAll_power ..).trans flushed
  have refused (x : State) : (refuseSteps x).power = x.power := power_foldl fun _ _ => completeWait_power ..
  unfold leaveRun
  dsimp only
  rw [refused]
  refine Eq.trans ?_ aborted
  dsimp only
  rw [modTasks_power]

theorem refuseEdit_power (s : State) : (refuseEdit s).power = s.power := by
  unfold refuseEdit
  split
  · rw [completeWait_power]
  · rfl

theorem changeMode_power (m : BitVec 4) (c r q : Nat) (s : State) : (changeMode m c r q s).power = s.power := by
  unfold changeMode
  extract_lets old s1 s2 s3 fd pr wd s7 ch s9 s10 s11 s12
  have h1 : s1.power = s.power := power_ite rfl rfl
  have h2 : s2.power = s1.power := power_ite (leaveRun_power ..) rfl
  have h3 : s3.power = s2.power := power_ite (refuseEdit_power _) rfl
  have h7 : s7.power = s3.power := rfl
  have h9 : s9.power = s7.power := power_ite rfl rfl
  have h10 : s10.power = s9.power := (driven_recallChannels _).power.trans (driven_enterOutputs old m s9).power
  have h11 : s11.power = s10.power := power_ite (dueSave_power ..) rfl
  rw [(refreshed_refreshSource _).power, queueBale_power, raise_power, h11, h10, h9, h7, h3, h2, h1]

/-! ## Claims that fail -/

theorem endHandover_power (status : Byte) (s : State) : (endHandover status s).power = s.power :=
  (power_foldl fun _ _ => completeWait_power ..).trans rfl

theorem supersede_power (claim : Word) (via : Nat) (s : State) : (supersede claim via s).power = s.power := by
  unfold supersede
  split
  · rfl
  · dsimp only
    rw [raisePair, raise_power, (driven_settleOutputs ..).power]
    rfl

theorem seeClaim_power (claim : Word) (unit via : Nat) (s : State) : (seeClaim claim unit via s).power = s.power := by
  have handed (x : State) : (handOver x).power = x.power := by
    rw [handOver, modPair_power, changeMode_power, endHandover_power]
  unfold seeClaim
  dsimp only
  split
  · rfl
  · split
    · exact handed _
    · exact supersede_power ..

theorem refuseTakeover_power (a b : Bool) (s : State) : (refuseTakeover a b s).power = s.power := by
  unfold refuseTakeover
  dsimp only
  rw [raisePair, raise_power, (driven_settleOutputs ..).power]
  rfl

theorem releaseHeld_power (s : State) : (releaseHeld s).power = s.power := by
  unfold releaseHeld
  dsimp only
  split
  · rfl
  · rw [(driven_applyDue ..).power]

theorem claimFailed_power (claim : Word) (why : ClaimFor) (s : State) : (claimFailed claim why s).power = s.power := by
  unfold claimFailed
  extract_lets n s1 s2
  have h2 : s2.power = s.power := raise_power ..
  cases why with
  | startup => exact h2
  | modeSet => exact (power_foldl fun _ _ => completeWait_power ..).trans h2
  | takeover => exact (refuseTakeover_power ..).trans h2
  | roleDecision =>
    refine (releaseHeld_power _).trans ((power_ite rfl ?_).trans h2)
    exact seeClaim_power ..

/-! ## Settings -/

theorem diAccept_power (a s : State) : (diAccept a s).power = s.power := by
  have gain (x : State) (id : Nat) : (diGain a id x).power = x.power := by
    unfold diGain
    exact power_ite rfl rfl
  unfold diAccept
  dsimp only
  exact (power_foldl gain).trans (power_foldl fun x g => rfl)

theorem nodeState_power (st : BitVec 3) (s : State) : (nodeState st s).power = s.power := by
  unfold nodeState
  dsimp only
  rw [(refreshed_refreshStar _).power, (refreshed_refreshSource _).power, (refreshed_refreshWhere ..).power]
  rfl

theorem viewMembers_power (m : BitVec 32) (s : State) : (viewMembers m s).power = s.power := by
  have set : (setMembers m s).power = s.power := by
    unfold setMembers
    dsimp only
    refine power_ite rfl ?_
    rw [raiseIhloz, raise_power]
    rfl
  exact power_ite set rfl

theorem nodeAccept_power (s : State) : (nodeAccept s).power = s.power := by
  have left (cause : Nat) (st : BitVec 3) (x : State) : (leave cause st x).power = x.power := by
    unfold leave
    extract_lets was s1 s2 s3
    have h1 : s1.power = x.power := power_ite rfl rfl
    have h3 : s3.power = s2.power := power_ite (raise_power ..) rfl
    rw [nodeState_power, viewMembers_power, h3]
    exact h1
  unfold nodeAccept
  dsimp only
  refine (power_ite (nodeState_power ..) rfl).trans ?_
  exact power_ite rfl (left ..)

theorem starAccept_power (s : State) : (starAccept s).power = s.power := by
  unfold starAccept
  dsimp only
  rw [(refreshed_refreshStar _).power]
  refine (power_ite ?_ ?_).trans (rfl : _ = s.power)
  · exact raise_power ..
  · rfl

theorem settle_power (c : Fin 4) (b : Fin 3) (outcome cause : Nat) (s : State) : (settle c b outcome cause s).power = s.power := by
  have ends (status : Byte) (result : Nat) (x : State) : (endCancel c b status result x).power = x.power :=
    power_foldl fun _ _ => completeWait_power ..
  have last (x : CanBuf) (y : State) : (lastSof x y).2.power = y.power := by
    unfold lastSof
    split <;> rfl
  unfold settle
  extract_lets k x refused clear s1 t s2
  have h2 : s2.power = s1.power := by
    refine power_ite rfl ?_
    rw [raiseCan, raise_power]
    exact last ..
  have h1 : s1.power = s.power := rfl
  refine (power_ite (ends ..) (ends ..)).trans ?_
  exact h2.trans h1

theorem canCounts_power (c : Fin 4) (tec rec : Nat) (s : State) : (canCounts c tec rec s).power = s.power := by
  have all (cause : Nat) (x : State) : (settleAll c cause x).power = x.power :=
    power_foldl fun y b => power_ite (settle_power ..) rfl
  have raised (code data : Nat) (x : State) : (raiseCan c code data x).power = x.power := raise_power ..
  unfold canCounts
  dsimp only
  refine power_ite rfl ?_
  rw [refreshCan, (refreshed_refreshWhere ..).power]
  refine power_ite ?_ (raised ..)
  exact (all ..).trans (raised _ _ _)

theorem canAccept_power (old new : Bytes) (s : State) : (canAccept old new s).power = s.power := by
  have all (c : Fin 4) (cause : Nat) (x : State) : (settleAll c cause x).power = x.power :=
    power_foldl fun y b => power_ite (settle_power ..) rfl
  have reset (c : Fin 4) (x : State) : (canReset c x).power = x.power := by
    unfold canReset
    rw [canCounts_power, modCan_power, all]
  refine power_foldl fun x c => power_ite ?_ rfl
  rw [refreshCan, (refreshed_refreshWhere ..).power, reset]

theorem ethAccept_power (old new : Bytes) (s : State) : (ethAccept old new s).power = s.power := by
  have down (p : Fin 2) (x : State) : (ethDown p x).power = x.power := by
    refine power_ite rfl ?_
    rw [(refreshed_refreshWhere ..).power, raiseEth, raise_power]
    rfl
  refine power_foldl fun x p => power_ite ?_ rfl
  rw [(refreshed_refreshWhere ..).power, down]

theorem timeAccept_power (s : State) : (timeAccept s).power = s.power := by
  have ports (x : State) : ((List.finRange 2).foldl (fun s p =>
      if ptpRuns s p then s else modEth p (fun e => { e with ptpState := 0 }) s) x).power = x.power :=
    power_foldl fun y p => power_ite rfl rfl
  unfold timeAccept
  exact power_ite (ports s) (ports s)

theorem telithAccept_power (s : State) : (telithAccept s).power = s.power := by
  have dropped (cause : Nat) (x : State) : (dropLink cause x).power = x.power := by
    refine power_ite rfl ?_
    rw [raisePair, raise_power]
    rfl
  unfold telithAccept
  dsimp only
  refine (power_ite ?_ ?_).trans (dropped 2 s)
  · exact power_ite rfl rfl
  · rfl

theorem blockEffect_power (id : Nat) (old new : Bytes) (a s : State) : (blockEffect id old new a s).power = s.power := by
  have cycle : (cycleAccept old new s).power = s.power := power_ite rfl (power_ite rfl rfl)
  unfold blockEffect
  exact power_ite cycle (power_ite (diAccept_power a s) (power_ite (nodeAccept_power s) (power_ite (starAccept_power s)
    (power_ite (canAccept_power ..) (power_ite (ethAccept_power ..) (power_ite (timeAccept_power s)
      (power_ite (telithAccept_power s) (power_ite (power_ite rfl rfl) rfl))))))))

theorem refreshChans_power (s : State) : (refreshChans s).power = s.power := by
  have layout (x : State) : (refreshLayout x).power = x.power := by
    unfold refreshLayout
    extract_lets old new ch s1 flags s2
    have h2 : s2.power = s1.power := power_foldl fun y p => by
      refine power_ite rfl ?_
      rw [(refreshed_fireChan ..).power, raiseChan_power]
    refine (power_foldl fun y p => ?_).trans h2
    exact power_ite rfl (raiseChan_power ..)
  exact (layout _).trans (power_foldl fun y id => (refreshed_refreshChan ..).power)

theorem acceptBlock_power (id : Nat) (new : Bytes) (s : State) : (acceptBlock id new s).power = s.power := by
  unfold acceptBlock
  dsimp only
  rw [refreshChans_power, (refreshed_refreshSource _).power, blockEffect_power]

/-! ## The last page and the save -/

theorem sealDone_power (k : Fin 8) (s : State) : (sealDone k s).power = s.power := by
  unfold sealDone
  extract_lets n s1 unit isSeal
  have h1 : s1.power = s.power := rfl
  clear_value s1
  split
  · rw [completeWait_power, modRet_power, h1]
  · rw [completeWait_power, raise_power, modRet_power, h1]

theorem nextSave_power (s : State) : (nextSave s).power = s.power := by
  unfold nextSave
  split
  · exact (dueSave_power ..).trans rfl
  · rfl

theorem opDone_power (k : RetKind) (s : State) : (opDone k s).power = s.power := by
  match k with
  | .save cause n => exact (nextSave_power _).trans rfl
  | .counters c => rfl
  | .settings ring block buf =>
    cases ring with
    | none => rfl
    | some ring => exact (completeWait_power ..).trans ((acceptBlock_power ..).trans rfl)
  | .param ring last =>
    unfold opDone
    dsimp only
    split
    · exact completeWait_power ..
    · rfl
  | .seal ring => exact sealDone_power ring s
  | .powerDown n => rfl

theorem claimTorn_power (o : RetOp) (p : Nat × Bytes) (s : State) : (claimTorn o p s).power = s.power := by
  unfold claimTorn
  dsimp only
  split
  · exact (claimFailed_power ..).trans rfl
  · rfl

theorem unlatch_interrupted (o : RetOp) (left : List (Nat × Bytes)) (s : State) :
    (unlatch o left s).power.interrupted = s.power.interrupted := by
  unfold unlatch
  split <;> rfl

theorem finishPage_interrupted (s : State) : (finishPage s).power.interrupted = s.power.interrupted := by
  have torn (o : RetOp) (x : State) : (storeFails o x).2.power = x.power := by
    unfold storeFails
    split <;> rfl
  unfold finishPage
  split
  · next o rest h =>
    split
    · rfl
    · split
      · rfl
      · next p b hn =>
        dsimp only
        split
        · rw [claimTorn_power]
          exact congrArg PowerSt.interrupted (torn o s)
        · split
          · rw [opDone_power]
            exact (unlatch_interrupted ..).trans (congrArg PowerSt.interrupted (torn o s))
          · exact (unlatch_interrupted ..).trans (congrArg PowerSt.interrupted (torn o s))
  · rfl

theorem takeLatch_power (s : State) : (takeLatch s).power = s.power := by
  unfold takeLatch
  dsimp only
  refine power_ite rfl ?_
  rw [modWdt_power]
  split
  · exact (raise_power ..).trans rfl
  · rfl

/-- The first page of a save starts or the save is given up; the supply's state stands. -/
theorem startPage_save {mv n : Nat} {l : List (Nat × Bytes)} (h : s.ret.ops = [⟨.powerDown n, l, 0, false⟩]) :
    (startPage mv s).power = s.power := by
  rw [startPage_checks h rfl]
  refine power_ite rfl ?_
  exact (raise_power ..).trans rfl

theorem raisePowerDown_power (cause : BitVec 2) (mv : Nat) (s : State) : (raisePowerDown cause mv s).power = s.power := by
  unfold raisePowerDown
  rw [raise_power]

theorem beginSave_interrupted (cause : BitVec 2) (s : State) : (beginSave cause s).power.interrupted = s.power.interrupted := by
  have last : (lastPage s).power.interrupted = s.power.interrupted := finishPage_interrupted _
  unfold beginSave
  extract_lets mv s1 s2 cm s3 s4 s5 s6 i s7 s8 op
  have h2 : s2.power.interrupted = s1.power.interrupted := rfl
  have h3 : s3.power = s2.power := (abortAll_power ..).trans rfl
  have h5 : s5.power = s4.power := takeLatch_power _
  have h6 : s6.power = s5.power := by
    simp only [s6]
    split
    · exact raise_power ..
    · rfl
  have h7 : s7.power = s6.power := raise_power ..
  have h8 : s8.power = s7.power := raisePowerDown_power ..
  have hs : s8.power.interrupted = s.power.interrupted := by
    rw [h8, h7, h6, h5, (driven_deenergise s3).power, h3, h2, last]
  clear_value s8
  rw [startPage_save (n := saveNumber s8) (l := powerDownPages s8) rfl]
  exact hs

theorem dueSaveNow_interrupted (cause : BitVec 2) (s : State) : (dueSaveNow cause s).power.interrupted = s.power.interrupted := by
  unfold dueSaveNow
  split
  · rfl
  · split
    · rfl
    · exact beginSave_interrupted ..

theorem rideOver_interrupted (mv : Nat) (s : State) : (rideOver mv s).power.interrupted = s.power.interrupted :=
  (dueSaveNow_interrupted ..).trans rfl

end

end Sys2Proof.Machine

/-! PROOFS. Power and the retain store: supply events save, stop and restart the module (R633 to R654). -/
namespace Sys2Proof.Machine

section
variable {s : State}

/-! ## Interruptions -/

theorem supplyUndervoltage_begins {mv : Nat} (hi : s.power.interrupted = false) (hp : s.power.stopped = false) :
    exec (.supplyUndervoltage mv) s = .next { s with power := { s.power with
      interrupted := true, interruptFrom := s.time.net, storeMv := mv, lowestMv := mv
      rideMs := bitsOf (fieldAt (block s 0x0603) 0 1) 3 0 } } :=
  congrArg Host.Outcome.next (if_neg (by rw [hi, hp, Bool.false_and]; decide))

/-- The state in which a return of the supply is taken: the ride-through that has passed has begun the save. -/
def returned (us mv : Nat) (s : State) : State :=
  advanceNet (s.power.interruptFrom + netPerUs * us)
    (if decide (1000 * s.power.rideMs ≤ us) && alive s && !s.power.saveDue.isSome then rideOver mv s else s)

/-- The state with the store measured at `mv` and the interruption over. -/
def uninterrupted (mv : Nat) (s : State) : State :=
  modPower (fun p => { p with storeMv := mv, lowestMv := min p.lowestMv mv, interrupted := false }) s

theorem returned_interrupted (us mv : Nat) (h : s.power.interrupted = true) : (returned us mv s).power.interrupted = true := by
  show (State.power (if _ then _ else _)).interrupted = true
  split
  · rw [rideOver_interrupted, h]
  · exact h

theorem supplyReturn_ends {us mv : Nat} (hi : s.power.interrupted = true) (hp : s.power.stopped = false) :
    exec (.supplyReturn us mv) s = .next (endInterruption us mv (returned us mv s)) :=
  congrArg Host.Outcome.next ((if_neg (by rw [hi]; decide)).trans (if_neg (by rw [hp]; decide)))

theorem measured_uninterrupted {mv : Nat} (hi : s.power.interrupted = true) :
    modPower (fun p => { measureStore mv p with interrupted := false }) s = uninterrupted mv s := by
  rw [uninterrupted, modPower, modPower, measureStore, hi]
  rfl

theorem endInterruption_saving {us mv : Nat} (hi : s.power.interrupted = true) (hs : s.power.saving = true) :
    endInterruption us mv s = uninterrupted mv s := by
  rw [endInterruption, measured_uninterrupted hi]
  exact if_pos hs

theorem endInterruption_due {us mv : Nat} (hi : s.power.interrupted = true) (hs : s.power.saving = false)
    (hd : s.power.saveDue ≠ none) :
    endInterruption us mv s = modPower (fun p => { p with endedUs := some us }) (uninterrupted mv s) := by
  rw [endInterruption, measured_uninterrupted hi]
  exact (if_neg (Bool.eq_false_iff.mp hs)).trans (if_pos (Option.isSome_iff_ne_none.mpr hd))

theorem endInterruption_records {us mv : Nat} (hi : s.power.interrupted = true) (hs : s.power.saving = false)
    (hd : s.power.saveDue = none) :
    let a := uninterrupted mv s
    let b := raise 0xB000 0x0B01 0 (interruptedData us a.power.lowestMv false) (modPower (fun p => { p with
      interruptions := min (p.interruptions + 1) (2 ^ 32 - 1), longestUs := max p.longestUs (min us (2 ^ 32 - 1)) }) a)
    endInterruption us mv s = setStore (if mv < 36000 then 1 else storeState mv b.power.storeC false) b := by
  intro a b
  rw [endInterruption, measured_uninterrupted hi]
  have hds : (uninterrupted mv s).power.saveDue.isSome = false := by
    rw [show (uninterrupted mv s).power.saveDue = none from hd]
    rfl
  exact (if_neg (Bool.eq_false_iff.mp hs)).trans (if_neg (Bool.eq_false_iff.mp hds))

/-! ## Save and stop -/

theorem rideMsExpire_rides {mv : Nat} (hi : s.power.interrupted = true) (ha : alive s = true) :
    exec (.rideMsExpire mv) s = .next (rideOver mv s) :=
  congrArg Host.Outcome.next (if_neg (by rw [hi, ha]; decide))

theorem storeAtVSave_saves {mv : Nat} (hi : s.power.interrupted = true) (ha : alive s = true) (hv : mv ≤ vSave s.power) :
    exec (.storeAtVSave mv) s = .next (dueSaveNow 1 (modPower (measureStore mv) s)) := by
  have hlow : decide (vSave s.power < mv) = false := decide_eq_false (Nat.not_lt.mpr hv)
  rw [exec_storeAtVSave, execStoreAtVSave, if_neg (by rw [hi, ha, hlow]; decide)]

theorem tearPage_field (n : Nat) (m : DWord) (s : State) : (tearPage n m s).field = s.field := by
  unfold tearPage
  split
  · rfl
  · dsimp only
    split
    · split <;> rfl
    · split
      · split <;> rfl
      · rfl

theorem cutOutputs_cut (s : State) : (cutOutputs s).field.cut = true := by
  rw [cutOutputs, (driven_deenergise _).cut]
  rfl

/-- The state of a module that a core supply fault stops. -/
def coreStopped (above : Bool) (n : Nat) (m : DWord) (s : State) : State :=
  modPower (fun p => { p with coreFault := true, coreLatch := some above }) (stopDie (tearPage n m (cutOutputs (tripPulse s))))

theorem coreStopped_stands (above : Bool) (n : Nat) (m : DWord) (s : State) :
    (coreStopped above n m s).power.stopped = true ∧ (coreStopped above n m s).field.cut = true ∧
    (coreStopped above n m s).power.tripLow = true := by
  have hf (f : PowerSt → PowerSt) (x : State) : (modPower f (stopDie x)).field = x.field := rfl
  refine ⟨rfl, ?_, rfl⟩
  rw [coreStopped, hf, tearPage_field, cutOutputs_cut]

/-! ## The hold-up store -/

theorem holdupMeasure_measures {cap mv : Nat} (ht : storeTested s = true) :
    exec (.holdupMeasure cap mv) s = .next (setStore (storeState mv cap (decide (s.power.store = 3)))
      (modPower (fun p => { p with storeC := min cap 65535, storeMv := mv }) s)) :=
  congrArg Host.Outcome.next (if_neg (by rw [ht]; decide))

theorem holdupCharged_charges {mv : Nat} (ht : storeTested s = true) (h1 : s.power.store = 1) (hmv : 36000 ≤ mv) :
    exec (.holdupCharged mv) s = .next (setStore (storeState mv s.power.storeC false)
      (modPower (fun p => { p with storeMv := mv }) s)) := by
  have hlow : decide (mv < 36000) = false := decide_eq_false (Nat.not_lt.mpr hmv)
  rw [exec_holdupCharged, execHoldupCharged, if_neg (by rw [ht, h1, hlow]; decide)]

/-! ## Starting again -/

theorem setStore_leaves (st : BitVec 2) (s : State) (h : s.host.enable = false) :
    (setStore st s).wdt = s.wdt ∧ (setStore st s).hostMem = s.hostMem ∧ (setStore st s).ret = s.ret ∧
    (setStore st s).power.stopped = s.power.stopped ∧ (setStore st s).power.slotId = s.power.slotId := by
  unfold setStore
  dsimp only
  split
  · refine ⟨raise_wdt .., Eq.trans (raise_off (by exact h)).2 rfl, raise_ret .., ?_, ?_⟩ <;> rw [raise_power]
  · exact ⟨rfl, rfl, rfl, rfl, rfl⟩

/-- What a start of a module that was without supply keeps, and that it is powered. -/
theorem startUp_unpowered (s : State) :
    (startUp false s).wdt.latch = s.wdt.latch ∧ (startUp false s).hostMem = s.hostMem ∧
    (startUp false s).ret.mram = s.ret.mram ∧ (startUp false s).power.stopped = false ∧
    (startUp false s).power.slotId = s.power.slotId := by
  have fresh : (startAfresh false s).wdt.latch = s.wdt.latch ∧ (startAfresh false s).hostMem = s.hostMem ∧
      (startAfresh false s).ret.mram = s.ret.mram ∧ (startAfresh false s).power.stopped = false ∧
      (startAfresh false s).power.slotId = s.power.slotId := ⟨rfl, rfl, rfl, rfl, rfl⟩
  have off : (startAfresh false s).host.enable = false := rfl
  unfold startUp
  dsimp only
  generalize startAfresh false s = t at *
  split
  · exact fresh
  · obtain ⟨hw, hm, hr, hp, hid⟩ := setStore_leaves (storeState t.power.storeMv t.power.storeC false) t off
    rw [hw, hm, hr, hp, hid]
    exact fresh

/-- The pins of a good supply, taken. -/
def goodPins (p : PowerGoodPins) (s : State) : State :=
  modPower (fun q => { q with slotId := p.slotId, storeMv := 10 * p.storeCv, coreFault := false, interrupted := false }) s

theorem unlatchedAt_leaves (mv : Nat) (s : State) :
    (unlatchedAt mv s).hostMem = s.hostMem ∧ (unlatchedAt mv s).ret = s.ret ∧
    (unlatchedAt mv s).power.slotId = s.power.slotId ∧
    (12000 ≤ mv → (unlatchedAt mv s).wdt.latch = s.wdt.latch) ∧ (mv < 12000 → (unlatchedAt mv s).wdt.latch = none) := by
  unfold unlatchedAt
  split
  · next h => exact ⟨rfl, rfl, rfl, fun _ => rfl, fun hlt => absurd h (Nat.not_le.mpr hlt)⟩
  · next h => exact ⟨rfl, rfl, rfl, fun hle => absurd hle h, fun _ => rfl⟩

theorem powerGood_starts {p : PowerGoodPins} (h : s.power.stopped = true) (he : s.power.prsntEarly = true)
    (hl : s.power.prsntLate = true) (hm : s.power.mainSwitch = true) :
    exec (.powerGood p) s = .next (startUp false (unlatchedAt (10 * p.storeCv) (goodPins p s))) :=
  congrArg Host.Outcome.next (if_neg (by rw [h, he, hl, hm]; decide))

end

/-- Settles O57: the interruption's length is kept because a save that begins leaves the supply's state; a start keeps memory and pages. -/
theorem supplyEventsSaveStopAndRestart : Obligations.SupplyEventsSaveStopAndRestart := by
  refine ⟨?_, ?_, ?_, ?_, ?_, ?_, fun s => ⟨rfl, rfl, rfl⟩, ?_, ?_, ?_, ?_, ?_, ?_, ?_, ?_⟩
  · intro mv s hi hp
    exact supplyUndervoltage_begins hi hp
  · intro us mv s hi hp r
    have hr : r.power.interrupted = true := returned_interrupted us mv hi
    refine ⟨fun hs => ?_, fun hs hd => ?_, fun hs hd => ?_⟩
    · rw [supplyReturn_ends hi hp]
      exact congrArg Host.Outcome.next (endInterruption_saving hr hs)
    · rw [supplyReturn_ends hi hp]
      exact congrArg Host.Outcome.next (endInterruption_due hr hs hd)
    · rw [supplyReturn_ends hi hp]
      exact congrArg Host.Outcome.next (endInterruption_records hr hs hd)
  · intro mv s hi ha
    exact ⟨rideMsExpire_rides hi ha, rfl⟩
  · intro mv s hi ha hv
    exact storeAtVSave_saves hi ha hv
  · intro mv s h
    exact congrArg Host.Outcome.next (if_neg (by rw [h]; decide))
  · intro s h ho
    exact congrArg Host.Outcome.next (if_pos (by rw [h, ho]; rfl))
  · intro cap mv s ht
    exact holdupMeasure_measures ht
  · intro mv s ht h1 hmv
    exact holdupCharged_charges ht h1 hmv
  · intro s ht h1
    exact congrArg Host.Outcome.next (if_neg (by rw [ht, h1]; decide))
  · intro above n m s hp
    exact ⟨congrArg Host.Outcome.next (if_neg (Bool.eq_false_iff.mp hp)), coreStopped_stands above n m s⟩
  · intro s h
    exact congrArg Host.Outcome.next (if_pos h)
  · intro s h
    exact congrArg Host.Outcome.next (if_neg (Bool.eq_false_iff.mp h))
  · intro s he hm
    exact congrArg Host.Outcome.next (if_neg (by rw [he, hm]; decide))
  · intro p s h he hl hm
    obtain ⟨hw, hmem, hram, hstop, hslot⟩ := startUp_unpowered (unlatchedAt (10 * p.storeCv) (goodPins p s))
    obtain ⟨umem, uret, uslot, ulatch, unone⟩ := unlatchedAt_leaves (10 * p.storeCv) (goodPins p s)
    obtain ⟨hmode, hphase⟩ := startUp_mode false (unlatchedAt (10 * p.storeCv) (goodPins p s))
    exact ⟨_, powerGood_starts h he hl hm, rfl, fun hle => hw.trans (ulatch hle), fun hlt => hw.trans (unone hlt), hstop,
      hslot.trans uslot, hmode, hphase, hmem.trans umem, hram.trans (congrArg RetSt.mram uret)⟩

end Sys2Proof.Machine

/-! PROOFS. Power and the retain store: start-up runs through its phases (R646 to R651). -/
namespace Sys2Proof.Machine

section
variable {s t : State}

theorem phase_enters {n : Nat} (h : inPhase s n = true) : ¬(!inPhase s n) = true := by
  rw [h]
  decide

/-! ## Phases 1 to 3 -/

/-- The state with the local clock started at zero. -/
def clockStarted (s : State) : State := { s with time := { s.time with lcRunning := true, lc := 0 } }

theorem startupPhase1End_good {r : Bool} (h : inPhase s 1 = true) (hg : slotGood r s = true) :
    exec (.startupPhase1End r) s = .next (enterPhase 2 (clockStarted s)) := by
  rw [exec_startupPhase1End, execStartupPhase1End, if_neg (phase_enters h)]
  dsimp only
  rw [hg, if_neg (by rw [Bool.not_true, Bool.false_and]; decide)]
  rfl

theorem startupPhase1End_none {r : Bool} (h : inPhase s 1 = true) (hg : slotGood r s = false) (ho : (fwInactive s).state ≠ 2) :
    exec (.startupPhase1End r) s = .next (faultSafe 5 s) := by
  rw [exec_startupPhase1End, execStartupPhase1End, if_neg (phase_enters h)]
  dsimp only
  rw [hg, if_pos (by rw [Bool.not_false, Bool.true_and]; exact bne_iff_ne.mpr ho)]

theorem startupPhase1End_other {r : Bool} (h : inPhase s 1 = true) (hg : slotGood r s = false) (ho : (fwInactive s).state = 2) :
    exec (.startupPhase1End r) s = .next (enterPhase 2 (clockStarted (startOther s))) := by
  rw [exec_startupPhase1End, execStartupPhase1End, if_neg (phase_enters h)]
  dsimp only
  rw [hg, if_neg (by rw [ho, bne_self_eq_false]; decide)]
  rfl

theorem slotGood_iff (r : Bool) (s : State) : slotGood r s = true ↔
    r = true ∧ ((fwActive s).image = [] ∨ imageVerified s (fwActive s).image (fwActive s).length = true) := by
  rw [slotGood, Bool.and_eq_true, Bool.or_eq_true, List.isEmpty_iff]

/-! ## Phases 4 and 5 -/

theorem nodeOn_congr (hf : t.factory = s.factory) (hr : t.ret = s.ret) (hp : t.power = s.power) (hm : t.mode.pause = s.mode.pause) :
    nodeOn t = nodeOn s := by
  rw [nodeOn, nodeOn, block_congr hf hr, alive, alive, hp, hm]

theorem trigger_time (k : BitVec 7) (s : State) : (trigger k s).time = s.time := by
  unfold trigger
  dsimp only
  split
  · rfl
  · split
    · exact raiseTask_time ..
    · rfl

theorem fireChan_time (id cond : Nat) (s : State) : (fireChan id cond s).time = s.time :=
  List.foldlRecOn (motive := fun x : State => x.time = s.time) _ _ rfl fun _ hx _ _ => (trigger_time ..).trans hx

theorem refreshChan_time (s : State) (id : Nat) : (refreshChan s id).time = s.time := by
  have fault (c d : Nat) (x : State) : (fireChan id 3 (raiseChan id c d x)).time = x.time := by
    rw [fireChan_time, raiseChan_time]
  unfold refreshChan
  split
  · rfl
  · dsimp only
    split
    · rfl
    · split
      · split
        · rfl
        · exact fault ..
      · split
        · rfl
        · split
          · exact raiseChan_time ..
          · exact fault ..

theorem refreshWhere_time (p : Nat → Option Bytes → Bool) (s : State) : (refreshWhere p s).time = s.time :=
  List.foldlRecOn (motive := fun x : State => x.time = s.time) _ _ rfl fun _ hx _ _ => (refreshChan_time ..).trans hx

theorem nodeState_ihlozTick (st : BitVec 3) (s : State) : ihlozTick (nodeState st s) = ihlozTick s := by
  have star (x : State) : (refreshStar x).time = x.time := by
    unfold refreshStar
    dsimp only
    split
    · rfl
    · rw [raise_time]
  have source (x : State) : (refreshSource x).time.ihloz = x.time.ihloz := by
    unfold refreshSource
    dsimp only
    split
    · rfl
    · rw [raise_time]
  rw [ihlozTick, ihlozTick, nodeState, star, source, refreshWhere_time]
  rfl

theorem startupPhase4End_alone (h : inPhase s 4 = true) (ht : telithOn s = false) (hn : nodeOn s = false) :
    exec .startupPhase4End s = .next { s with
      mode := { s.mode with phase := 5 }, star := { s.star with forwards := true }, pair := { s.pair with role := 0 } } := by
  rw [exec_startupPhase4End, execStartupPhase4End, if_neg (by rw [h, ht, Bool.false_and]; decide)]
  dsimp only
  rw [ht, if_neg Bool.false_ne_true]
  exact congrArg Host.Outcome.next (if_neg (Bool.eq_false_iff.mp ((nodeOn_congr rfl rfl rfl rfl).trans hn)))

theorem startupPhase4End_paired (h : inPhase s 4 = true) (ht : telithOn s = true) (hr : s.pair.role ≠ 3) (hn : nodeOn s = true) :
    let a := nodeState 1 (enterPhase 5 { s with star := { s.star with forwards := true } })
    exec .startupPhase4End s = .next { a with ihloz := { a.ihloz with startFrom := ihlozTick a } } := by
  intro a
  rw [exec_startupPhase4End, execStartupPhase4End, if_neg (by rw [h, ht, decide_eq_false hr]; decide)]
  dsimp only
  rw [ht, if_pos rfl]
  refine congrArg Host.Outcome.next ((if_pos ((nodeOn_congr rfl rfl rfl rfl).trans hn)).trans ?_)
  rw [show ihlozTick a = _ from nodeState_ihlozTick 1 _]
  rfl

theorem startupPhase5End_joined (h : inPhase s 5 = true) (hj : nodeOn s = false ∨ s.ihloz.state = 5 ∨ s.ihloz.state = 6) :
    exec .startupPhase5End s = .next { s with mode := { s.mode with phase := 6 } } := by
  refine congrArg Host.Outcome.next ((if_neg (phase_enters h)).trans (congrArg (enterPhase 6) (if_pos ?_)))
  simpa using hj

theorem startupPhase5End_waits {c : Sched} (h : inPhase s 5 = true) (hn : nodeOn s = true) (h5 : s.ihloz.state ≠ 5) (h6 : s.ihloz.state ≠ 6)
    (hc : Tab.find s.ihloz.scheds (startMode s) = some c) :
    exec .startupPhase5End s =
      .next (enterPhase 6 (advanceIhloz ((s.ihloz.startFrom + 100 * (3 * c.cycleUs) : Nat) : Int) s)) := by
  rw [exec_startupPhase5End, execStartupPhase5End, hc]
  refine congrArg Host.Outcome.next ((if_neg (phase_enters h)).trans (congrArg (enterPhase 6) (if_neg ?_)))
  rw [hn, decide_eq_false h5, decide_eq_false h6]
  decide

/-! ## Phases 6 to 8 -/

theorem startupPhase6End_own {t0 : Int} (h : inPhase s 6 = true) (hr : s.pair.role ≠ 2) :
    exec (.startupPhase6End t0) s = .next (refreshSource (startTime 0 (enterPhase 7 s))) := by
  have hp : (enterPhase 7 s).pair.role ≠ 2 := hr
  rw [exec_startupPhase6End, execStartupPhase6End, if_neg (phase_enters h)]
  dsimp only
  rw [if_neg hp]

theorem startupPhase6End_standby {t0 : Int} {us n : Nat} (h : inPhase s 6 = true) (hr : s.pair.role = 2)
    (hp : partnerTime s = some (us, n)) :
    let a := fixT0 t0 (startTime (us * usUnit) (enterPhase 7 s))
    exec (.startupPhase6End t0) s = .next (refreshSource { a with time := { a.time with ticked := true, tickNo := n } }) := by
  intro a
  have hrole : (enterPhase 7 s).pair.role = 2 := hr
  have htime : partnerTime (enterPhase 7 s) = some (us, n) := hp
  rw [exec_startupPhase6End, execStartupPhase6End, if_neg (phase_enters h)]
  dsimp only
  rw [if_pos hrole, htime]

end

/-- Settles O58: each phase's end by its guards; the phases, the star and the role are no part of what the node's setting reads. -/
theorem startUpRunsThroughItsPhases : Obligations.StartUpRunsThroughItsPhases := by
  refine ⟨fun r s h => ⟨startupPhase1End_good h, startupPhase1End_none h, startupPhase1End_other h⟩, fun r s => slotGood_iff r s,
    ?_, ?_, ?_, ?_, ?_, ?_, ?_, fun k s => ⟨rfl, rfl⟩, ?_, ?_⟩
  · intro r s h
    exact congrArg Host.Outcome.next (if_neg (phase_enters h))
  · intro mv s h
    exact congrArg Host.Outcome.next (if_neg (phase_enters h))
  · intro s h ht hn
    exact startupPhase4End_alone h ht hn
  · intro s h ht hr hn
    exact startupPhase4End_paired h ht hr hn
  · intro s h
    exact ⟨startupPhase5End_joined h, fun c hn h5 h6 hc => startupPhase5End_waits h hn h5 h6 hc⟩
  · intro t0 s h hr
    exact startupPhase6End_own h hr
  · intro t0 us n s h hr hp
    exact startupPhase6End_standby h hr hp
  · intro cy s h
    exact congrArg Host.Outcome.next (if_neg (phase_enters h))
  · intro ms s h hs hc
    refine congrArg Host.Outcome.next (if_neg ?_)
    rw [h, decide_eq_false hs, hc]
    decide

end Sys2Proof.Machine

/-! PROOFS. Clocks, watchdog and firmware: what keeps the trip line and the cut of the outputs (R626, R644). -/
namespace Sys2Proof.Machine

/-- The trip line, the cut of the outputs and the watchdog's state stand. -/
structure LinesKept (s t : State) : Prop where
  low : t.power.tripLow = s.power.tripLow
  cut : t.field.cut = s.field.cut
  wdt : t.wdt.state = s.wdt.state

section
variable {s t u : State}

theorem LinesKept.of_eq (hp : t.power = s.power) (hf : t.field = s.field) (hw : t.wdt = s.wdt) : LinesKept s t := by
  constructor <;> simp only [hp, hf, hw]

theorem LinesKept.refl : LinesKept s s := .of_eq rfl rfl rfl

theorem LinesKept.trans (h : LinesKept s t) (k : LinesKept t u) : LinesKept s u :=
  ⟨k.low.trans h.low, k.cut.trans h.cut, k.wdt.trans h.wdt⟩

theorem LinesKept.foldl {α : Type} {f : State → α → State} {l : List α} (hf : ∀ x a, LinesKept x (f x a)) : LinesKept s (l.foldl f s) :=
  List.foldlRecOn (motive := fun x => LinesKept s x) _ _ .refl fun x hx a _ => hx.trans (hf x a)

theorem LinesKept.ite {c : Prop} [Decidable c] (ht : LinesKept s t) (hu : LinesKept s u) : LinesKept s (if c then t else u) := by
  split
  · exact ht
  · exact hu

theorem Driven.lines (h : Driven s t) : LinesKept s t := ⟨by rw [h.power], h.cut, by rw [h.wdt]⟩

theorem Answered.lines (h : Answered s t) : LinesKept s t := h.driven.lines

theorem Refreshed.lines (h : Refreshed s t) : LinesKept s t := h.driven.lines

theorem lines_raise (src code commit data : Nat) (s : State) : LinesKept s (raise src code commit data s) := (refreshed_raise ..).lines

/-! ## Changes of mode -/

theorem lines_completeWait (k : Fin 8) (p : Wait → Bool) (status : Byte) (result : Nat) (s : State) :
    LinesKept s (completeWait k p status result s) := (answered_completeOut ..).lines

theorem lines_refuseModeRun (s : State) : LinesKept s (refuseModeRun s) := .foldl fun _ _ => lines_completeWait ..

theorem lines_closeCopy (x : StallId) (f : Fin 4) (s : State) : LinesKept s (closeCopy x f s) := by
  unfold closeCopy
  split
  · exact .refl
  · exact .of_eq rfl rfl rfl

theorem lines_abortInstance (t : BitVec 7) (code detail : Nat) (b : Bool) (s : State) :
    LinesKept s (abortInstance t code detail b s) := by
  have close (l : List (StallId × Fin 4 × Inst)) (x : State) : LinesKept x (l.foldl (fun s c => closeCopy c.1 c.2.1 s) x) :=
    .foldl fun _ _ => lines_closeCopy ..
  have task (f : TaskSt → TaskSt) (x : State) : LinesKept x (modTask t f x) := .of_eq rfl rfl rfl
  have raised (copyB : Bool) (held : Nat) (x : State) : LinesKept x (raiseAborted t copyB code detail held x) := lines_raise ..
  unfold abortInstance
  dsimp only
  refine .ite ?_ ?_
  · exact (((close _ s).trans (task _ _)).trans (raised _ _ _)).trans (raised _ _ _)
  · exact ((close _ s).trans (task _ _)).trans (raised _ _ _)

theorem lines_abortAll (code detail : Nat) (s : State) : LinesKept s (abortAll code detail s) := by
  have tasks (f : TaskSt → TaskSt) (x : State) : LinesKept x (modTasks f x) := .of_eq rfl rfl rfl
  unfold abortAll
  refine .trans ?_ (tasks ..)
  exact .foldl fun x t => .ite (lines_abortInstance ..) .refl

theorem lines_leaveRun (new : BitVec 4) (s : State) : LinesKept s (leaveRun new s) := by
  have flushed : LinesKept s (flushOutputs s) := (driven_applyDue _ s).lines.trans (.of_eq rfl rfl rfl)
  have refused (x : State) : LinesKept x (refuseSteps x) := .foldl fun _ _ => lines_completeWait ..
  have aborted : LinesKept s (abortAll fcMode new.toNat (flushOutputs s)) := flushed.trans (lines_abortAll ..)
  unfold leaveRun
  refine .trans ?_ (refused _)
  generalize abortAll fcMode new.toNat (flushOutputs s) = x at *
  exact aborted.trans (.of_eq rfl rfl rfl)

theorem lines_refuseEdit (s : State) : LinesKept s (refuseEdit s) := by
  unfold refuseEdit
  split
  · refine .trans ?_ (lines_completeWait ..)
    exact .of_eq rfl rfl rfl
  · exact .refl

theorem lines_queueBale (type : BitVec 3) (t : BitVec 7) (n : Nat) (lines : List BaleLine) (s : State) :
    LinesKept s (queueBale type t n lines s) := by
  unfold queueBale
  split
  · exact .refl
  · dsimp only
    split
    · exact .of_eq rfl rfl rfl
    · refine .trans ?_ (lines_raise ..)
      exact .of_eq rfl rfl rfl

theorem lines_dueSave (cause : BitVec 2) (s : State) : LinesKept s (dueSave cause s) := by
  unfold dueSave
  split <;> exact .of_eq rfl rfl rfl

/-- A change to SAFE of a module that is not in SAFE keeps the cut. -/
theorem lines_changeMode_safe (c r q : Nat) (s : State) (h : s.mode.mode ≠ mSafe) : LinesKept s (changeMode mSafe c r q s) := by
  unfold changeMode
  extract_lets old s1 s2 s3 fd pr wd s7 ch s9 s10 s11 s12
  have h1 : LinesKept s s1 := .ite (.of_eq rfl rfl rfl) .refl
  have h2 : LinesKept s1 s2 := .ite (lines_leaveRun ..) .refl
  have h3 : LinesKept s2 s3 := .ite (lines_refuseEdit _) .refl
  have h7 : LinesKept s3 s7 := by
    refine ⟨rfl, ?_, rfl⟩
    exact (if_neg h).trans (if_neg (by rw [bne_self_eq_false, Bool.and_false]; decide))
  have h9 : LinesKept s7 s9 := .ite (.of_eq rfl rfl rfl) .refl
  have h10 : LinesKept s9 s10 := (driven_enterOutputs old mSafe s9).lines.trans (driven_recallChannels _).lines
  have h11 : LinesKept s10 s11 := .ite (lines_dueSave ..) .refl
  have h12 : LinesKept s11 s12 := lines_raise ..
  refine .trans ?_ (refreshed_refreshSource _).lines
  refine .trans ?_ (lines_queueBale ..)
  exact ((((((h1.trans h2).trans h3).trans h7).trans h9).trans h10).trans h11).trans h12

theorem lines_enterSafe (c r q : Nat) (s : State) : LinesKept s (enterSafe c r q s) := by
  have mode : (refuseModeRun s).mode = s.mode :=
    foldl_mode s _ _ fun _ _ => completeWait_mode ..
  unfold enterSafe
  split
  · exact .refl
  · next h =>
    refine (lines_refuseModeRun s).trans (lines_changeMode_safe c r q _ ?_)
    rwa [mode]

/-! ## A fault during start-up -/

theorem lines_diGain (a : State) (id : Nat) (s : State) : LinesKept s (diGain a id s) := by
  unfold diGain
  exact .ite ⟨rfl, rfl, rfl⟩ .refl

theorem lines_entryForce (a : State) (id : Nat) (s : State) : LinesKept s (entryForce a id s) := by
  have rekeyed (x : State) : LinesKept x (rekeyCan a x) := .of_eq rfl rfl rfl
  have peers (x : State) : LinesKept x (refreshPeers a id x) := .ite (refreshed_refreshWhere ..).lines .refl
  exact ((((rekeyed s).trans (lines_diGain ..)).trans (driven_settleOutputs ..).lines).trans (refreshed_refreshChan ..).lines).trans
    (peers _)

theorem lines_pinChan (id : Nat) (e : Option Bytes) (s : State) : LinesKept s (pinChan id e s) := by
  refine .trans ?_ (lines_entryForce ..)
  exact .of_eq rfl rfl rfl

theorem lines_pinStored (ids : List Nat) (s : State) : LinesKept s (pinStored ids s) := by
  unfold pinStored
  refine .trans (t := _) ?_ (.foldl fun x id => lines_pinChan ..)
  exact .of_eq rfl rfl rfl

theorem lines_settingsInvalid (block copy page : Nat) (blank : Bool) (s : State) : LinesKept s (settingsInvalid block copy page blank s) :=
  .ite .refl (lines_raise ..)

theorem lines_readSettings (s : State) (block : Nat) : LinesKept s (readSettings s block) := by
  have chosen (a b : CopyFound) (same : Bool) (x : State) : LinesKept x (chooseSettings block a b same x).2 := by
    unfold chooseSettings
    split
    · exact (lines_settingsInvalid ..).trans (lines_settingsInvalid ..)
    · exact lines_settingsInvalid ..
    · exact lines_settingsInvalid ..
    · split
      · exact .refl
      · split
        · exact .refl
        · exact lines_raise ..
  unfold readSettings
  extract_lets len n m a b same
  generalize hc : chooseSettings block a b same s = p
  have hp : LinesKept s p.2 := hc ▸ chosen ..
  obtain ⟨c, t⟩ := p
  dsimp only
  split
  · refine hp.trans (.trans ?_ (lines_raise ..))
    exact .of_eq rfl rfl rfl
  · exact hp.trans (.of_eq rfl rfl rfl)

theorem lines_chooseCopies (s : State) : LinesKept s (chooseCopies s) := by
  have invalid (pair copy page : Nat) (blank : Bool) (x : State) : LinesKept x (copyInvalidEvent pair copy page blank x) :=
    .ite .refl (lines_raise ..)
  have chosen (pair : Nat) (a b : CopyFound) (same : Bool) (x : State) : LinesKept x (chooseCopy pair a b same x).2 := by
    unfold chooseCopy
    split
    · exact (invalid ..).trans (invalid ..)
    · exact invalid ..
    · exact invalid ..
    · split
      · exact .refl
      · split
        · exact .refl
        · exact lines_raise ..
  have found (c : BitVec 2) (x : State) : LinesKept x (if c = 0 then raise 0x9000 0x0904 0 0 x else x) := .ite (lines_raise ..) .refl
  unfold chooseCopies
  extract_lets m a b ca cb ia ib
  have hr := chosen 0 a b (copyContent m 8192 = copyContent m 12288) s
  generalize chooseCopy 0 a b (copyContent m 8192 = copyContent m 12288) s = p at *
  obtain ⟨ret, s1⟩ := p
  dsimp only
  have hc := chosen 1 ca cb ((pageOf m 256).take 56 = (pageOf m 257).take 56) s1
  generalize chooseCopy 1 ca cb ((pageOf m 256).take 56 = (pageOf m 257).take 56) s1 = p at *
  obtain ⟨ctr, s2⟩ := p
  dsimp only
  have h3 := found ctr s2
  generalize (if ctr = 0 then raise 0x9000 0x0904 0 0 s2 else s2) = s3 at *
  have hi := chosen 2 ia ib ((pageOf m 258).take 56 = (pageOf m 259).take 56) s3
  generalize chooseCopy 2 ia ib ((pageOf m 258).take 56 = (pageOf m 259).take 56) s3 = p at *
  obtain ⟨idx, s4⟩ := p
  exact (((hr.trans hc).trans h3).trans hi).trans (.of_eq rfl rfl rfl)

theorem lines_readStore (s : State) : LinesKept s (readStore s) := by
  have settings (x : State) : LinesKept x (readAllSettings x) := by
    have read : LinesKept x ((blockIds.filter (fun b => !blockAbsent x b)).foldl readSettings x) := .foldl lines_readSettings
    exact read.trans ⟨rfl, rfl, rfl⟩
  unfold readStore
  extract_lets s1 rc s2
  have h1 : LinesKept s s1 := (lines_chooseCopies s).trans (settings _)
  clear_value s1
  split
  · exact h1.trans (.of_eq rfl rfl rfl)
  · exact h1.trans (.of_eq rfl rfl rfl)

theorem lines_loadStored (s : State) : LinesKept s (loadStored s) := by
  have homes (x : State) : LinesKept x (settleHomes x) := by
    rw [settleHomes_frame]
    exact .of_eq rfl rfl rfl
  have want (x : State) : LinesKept x (wantNow x) := by
    have ready : LinesKept x (pinReady x) := .foldl fun _ _ => lines_pinChan ..
    exact ready.trans (.of_eq rfl rfl rfl)
  have layout (x : State) : LinesKept x (refreshLayout x) := by
    have raised (id c d : Nat) (y : State) : LinesKept y (raiseChan id c d y) := lines_raise ..
    unfold refreshLayout
    extract_lets old new ch s1 flags s2
    have h1 : LinesKept x s1 := .of_eq rfl rfl rfl
    have h2 : LinesKept s1 s2 := .foldl fun y p => .ite .refl ((raised ..).trans (refreshed_fireChan ..).lines)
    exact (h1.trans h2).trans (.foldl fun y p => .ite .refl (raised ..))
  unfold loadStored
  extract_lets enabled s1 s2
  have h1 : LinesKept s s1 := .of_eq rfl rfl rfl
  have h2 : LinesKept s1 s2 := .ite (.of_eq rfl rfl rfl) .refl
  exact ((((h1.trans h2).trans (homes _)).trans (lines_pinStored ..)).trans (want _)).trans (layout _)

theorem lines_bringUp (s : State) : LinesKept s (bringUp s) := by
  have training (x : State) : LinesKept x (startTraining x) := .ite (.of_eq rfl rfl rfl) .refl
  have fixed (t0 : Int) (x : State) : LinesKept x (fixT0 t0 x) := by
    unfold fixT0
    dsimp only
    split
    · refine .trans (t := { x with time := { x.time with t0 := t0, t0Fixed := true } }) (.of_eq rfl rfl rfl) ?_
      exact .ite .refl ⟨rfl, rfl, rfl⟩
    · exact ⟨rfl, rfl, rfl⟩
  unfold bringUp
  extract_lets p tm s1 fd s2 s3 st s4 s5 s6 s7 s8
  have h1 : LinesKept s s1 := .ite (.of_eq rfl rfl rfl) .refl
  have h2 : LinesKept s1 s2 := .ite (.trans (t := { s1 with field := { s1.field with sampling := true } }) ⟨rfl, rfl, rfl⟩
    (lines_pinStored ..)) .refl
  have h3 : LinesKept s2 s3 := .ite (lines_readStore _) .refl
  have h4 : LinesKept s3 s4 := .ite (.of_eq rfl rfl rfl) .refl
  have h5 : LinesKept s4 s5 := .ite (training _) .refl
  have h6 : LinesKept s5 s6 := .ite .refl (.of_eq rfl rfl rfl)
  have h7 : LinesKept s6 s7 := .ite .refl ⟨rfl, rfl, rfl⟩
  have h8 : LinesKept s7 s8 := .ite (lines_loadStored _) .refl
  exact (((((((h1.trans h2).trans h3).trans h4).trans h5).trans h6).trans h7).trans h8).trans (.ite .refl (fixed ..))

theorem lines_faultSafe (cause : Nat) (s : State) : LinesKept s (faultSafe cause s) := by
  have ended (x : State) : LinesKept x (endedStartup x) := ⟨rfl, rfl, rfl⟩
  have node (x : State) : LinesKept x (nodeState 1 x) := by
    refine .trans (.trans (.trans (t := _) ?_ (refreshed_refreshWhere ..).lines) (refreshed_refreshSource _).lines) (refreshed_refreshStar _).lines
    exact .of_eq rfl rfl rfl
  unfold faultSafe
  dsimp only
  split
  · have h : LinesKept s (endedStartup (enterSafe cause 0xFF 0 (bringUp s))) :=
      ((lines_bringUp s).trans (lines_enterSafe ..)).trans (ended _)
    exact .ite (h.trans (node _)) h
  · exact lines_enterSafe ..

end

end Sys2Proof.Machine

/-! PROOFS. Clocks, watchdog and firmware: clock monitor and watchdog trip (R617 to R629, R644). -/
namespace Sys2Proof.Machine

section
variable {s : State}

/-! ## What a trip leaves -/

theorem cutOutputs_power (s : State) : (cutOutputs s).power = s.power := by
  rw [cutOutputs, (driven_deenergise _).power]
  rfl

theorem cutOutputs_wdt (s : State) : (cutOutputs s).wdt = s.wdt := by
  rw [cutOutputs, (driven_deenergise _).wdt]
  rfl

theorem alive_congr {t : State} (h : t.power.stopped = s.power.stopped) (hs : t.power.saving = s.power.saving) : alive t = alive s := by
  rw [alive, alive, h, hs]

theorem tripped_alive (s : State) : alive (cutOutputs (tripPulse s)) = alive s := by
  rw [alive, alive, cutOutputs_power]
  rfl

theorem tripped_low (s : State) : (cutOutputs (tripPulse s)).power.tripLow = true := by
  rw [cutOutputs_power]
  rfl

theorem faultSafe_mode (cause : Nat) (s : State) : (faultSafe cause s).mode.mode = mSafe := by
  have node (x : State) : (nodeState 1 x).mode = x.mode := by
    rw [nodeState, (refreshed_refreshStar _).mode, (refreshed_refreshSource _).mode, (refreshed_refreshWhere ..).mode]
    rfl
  have ended (x : State) : (endedStartup x).mode = x.mode := rfl
  unfold faultSafe
  dsimp only
  split
  · split
    · rw [node, ended, enterSafe_mode]
    · rw [ended, enterSafe_mode]
  · exact enterSafe_mode ..

theorem clockFailure_trips {d : Nat} (h : alive s = true) :
    (clockFailure d s).power.tripLow = true ∧ (clockFailure d s).field.cut = true ∧ (clockFailure d s).mode.mode = 4 := by
  have heq : clockFailure d s = raise 0xA000 0x0A03 0 d (faultSafe 9 (cutOutputs (tripPulse s))) := by
    unfold clockFailure
    exact if_pos ((tripped_alive s).trans h)
  obtain ⟨hl, hc, -⟩ := (lines_faultSafe 9 (cutOutputs (tripPulse s))).trans (lines_raise 0xA000 0x0A03 0 d _)
  rw [heq]
  refine ⟨hl.trans (tripped_low s), hc.trans (cutOutputs_cut _), ?_⟩
  rw [raise_mode, faultSafe_mode]
  rfl

/-- The state with an expiry's record latched. -/
def latched (d : DWord) (s : State) : State :=
  modWdt (fun w => { w with latch := some d, latchCount := true, latchHeld := alive s }) s

/-- The module with its watchdog expired and its outputs cut, the record not yet entered. -/
def expired (c n : Nat) (s : State) : State :=
  latched (expiryData c n s)
    (cutOutputs (tripPulse (modWdt (fun w => { w with state := 2, armed := false, disarm := false, inbox := [] }) s)))

theorem lines_latched (d : DWord) (s : State) : LinesKept s (latched d s) := ⟨rfl, rfl, rfl⟩

theorem expired_lines (c n : Nat) (s : State) :
    (expired c n s).wdt.state = 2 ∧ (expired c n s).power.tripLow = true ∧ (expired c n s).field.cut = true := by
  obtain ⟨hl, hc, hw⟩ := lines_latched (expiryData c n s)
    (cutOutputs (tripPulse (modWdt (fun w => { w with state := 2, armed := false, disarm := false, inbox := [] }) s)))
  refine ⟨hw.trans ?_, hl.trans (tripped_low _), hc.trans (cutOutputs_cut _)⟩
  rw [cutOutputs_wdt]
  rfl

theorem expireWdt_eq (c n : Nat) (s : State) : expireWdt c n s =
    if alive (expired c n s) then recordExpiry (expiryData c n s) (enterSafe 2 0xFF 0 (expired c n s)) else expired c n s := by
  unfold expireWdt expired latched
  rfl

theorem expireWdt_trips (c n : Nat) (s : State) :
    (expireWdt c n s).wdt.state = 2 ∧ (expireWdt c n s).power.tripLow = true ∧ (expireWdt c n s).field.cut = true := by
  obtain ⟨hw, hl, hc⟩ := expired_lines c n s
  have recorded (d : DWord) (x : State) : LinesKept x (recordExpiry d x) := by
    refine .trans ?_ (lines_raise ..)
    exact .of_eq rfl rfl rfl
  have h : LinesKept (expired c n s) (expireWdt c n s) := by
    rw [expireWdt_eq]
    exact .ite ((lines_enterSafe ..).trans (recorded ..)) .refl
  exact ⟨h.wdt.trans hw, h.low.trans hl, h.cut.trans hc⟩

/-! ## The clock monitor -/

theorem clockMonitorPeriod_counts {n : Nat} (hm : monitored s = true) (hf : (countOff s.wdt n && s.wdt.badPeriod) = false) :
    exec (.clockMonitorPeriod n) s = .next { s with wdt := { s.wdt with watchCount := n, badPeriod := countOff s.wdt n } } := by
  rw [exec_clockMonitorPeriod, execClockMonitorPeriod, if_neg (by rw [hm]; decide)]
  dsimp only
  rw [hf, if_pos (by rfl), Bool.not_false, Bool.and_true]
  rfl

theorem clockMonitorPeriod_fails {n : Nat} (hm : monitored s = true) (hc : countOff s.wdt n = true) (hb : s.wdt.badPeriod = true) :
    ∃ watch : Bool, exec (.clockMonitorPeriod n) s = .next (clockFailure (b2n watch + 2 ^ 16 * (n % 2 ^ 16))
      { s with free := s.free + 1, wdt := { s.wdt with
        watchCount := n, badPeriod := false, pilotBad := !watch, watchBad := watch } }) := by
  refine ⟨Config.freeBit s.free, ?_⟩
  rw [exec_clockMonitorPeriod, execClockMonitorPeriod, if_neg (by rw [hm]; decide)]
  dsimp only
  rw [hc, hb, if_neg (by decide)]
  rfl

theorem clockEdgeGap_fails {watch : Bool} (hm : monitoring s = true) (hb : (if watch then s.wdt.watchBad else s.wdt.pilotBad) = false) :
    exec (.clockEdgeGap watch) s = .next (clockFailure (b2n watch + 2 + 2 ^ 16 * (s.wdt.watchCount % 2 ^ 16))
      { s with wdt := { s.wdt with pilotBad := s.wdt.pilotBad || !watch, watchBad := s.wdt.watchBad || watch } }) :=
  congrArg Host.Outcome.next (if_neg (by rw [hm, hb]; decide))

theorem barnClockFail_switchesOff {b : Fin 4} {sp : Bool} (hb : (barn s b).present = true) (hp : (barn s b).power ≠ 0)
    (ha : alive s = true) :
    exec (.barnClockFail b sp) s = .next (raise 0xB000 0x0B05 0
      (b.val + 4 * b2n sp + 2 ^ 8 * ((stallsOf b).map (fun u => (residents s u).length)).sum) (barnOff b s)) :=
  congrArg Host.Outcome.next (if_neg (by rw [hb, ha, decide_eq_false hp]; decide))

/-! ## The edges of a window -/

theorem disarmDue_armed (h : s.wdt.disarm = false) : disarmDue s = s := if_neg (Bool.eq_false_iff.mp h)

/-- The state whose arrivals an edge in a window that has begun evaluates. -/
theorem wdtEvaluate_begun (h : s.wdt.begun = true) :
    wdtEvaluate s = (s.wdt.count, wdtArrivals s.wdt.inbox s.wdt.count false (modWdt (fun w => { w with inbox := [] }) s)) := by
  rw [wdtEvaluate, h]
  rfl

theorem wdtEvaluate_empty (h : s.wdt.begun = true) (hi : s.wdt.inbox = []) : wdtEvaluate s = (s.wdt.count, 0, false, s) := by
  have hs : modWdt (fun w => { w with inbox := [] }) s = s := by
    rw [modWdt, ← hi]
  rw [wdtEvaluate_begun h, hi, hs]
  rfl

theorem wdtEdge_paused (hw : s.wdt.state = 1) (hp : s.mode.pause = true) (ht : (s.mode.pauseFrom + 3000) * usUnit < s.time.task) :
    wdtEdge s = expireWdt 4 s.wdt.count s :=
  (if_neg (by rw [hw]; decide)).trans (if_pos (by rw [hp, decide_eq_true ht]; rfl))

/-- An edge that is not past the limit of a pause evaluates what has arrived. -/
theorem wdtEdge_evaluates {n cause : Nat} {moved : Bool} {t : State} (hw : s.wdt.state = 1)
    (hp : s.mode.pause = false ∨ s.time.task ≤ (s.mode.pauseFrom + 3000) * usUnit) (he : wdtEvaluate s = (n, cause, moved, t)) :
    wdtEdge s = if cause != 0 then expireWdt cause n t
      else if t.mode.pause then disarmDue t
      else if moved then disarmDue (modWdt (fun w => { w with count := 0 }) t)
      else if wdtP t ≤ n then expireWdt 1 n t
      else disarmDue (modWdt (fun w => { w with count := n + 1 }) t) := by
  have hlimit : (s.mode.pause && decide ((s.mode.pauseFrom + 3000) * usUnit < s.time.task)) = false := by
    obtain hp | hp := hp
    · rw [hp, Bool.false_and]
    · rw [decide_eq_false (Nat.not_lt.mpr hp), Bool.and_false]
  rw [wdtEdge, if_neg (by rw [hw]; decide), hlimit, if_neg Bool.false_ne_true, he]

theorem wdtEdge_counts (hw : s.wdt.state = 1) (hp : s.mode.pause = false) (hb : s.wdt.begun = true) (hi : s.wdt.inbox = [])
    (hd : s.wdt.disarm = false) (hc : s.wdt.count < wdtP s) :
    wdtEdge s = { s with wdt := { s.wdt with count := s.wdt.count + 1 } } := by
  rw [wdtEdge_evaluates hw (.inl hp) (wdtEvaluate_empty hb hi)]
  refine (if_neg (by decide)).trans ((if_neg (Bool.eq_false_iff.mp hp)).trans ((if_neg (by decide)).trans
    ((if_neg (Nat.not_le.mpr hc)).trans ?_)))
  exact disarmDue_armed hd

theorem wdtEdge_ends (hw : s.wdt.state = 1) (hp : s.mode.pause = false) (hb : s.wdt.begun = true) (hi : s.wdt.inbox = [])
    (hc : wdtP s ≤ s.wdt.count) : wdtEdge s = expireWdt 1 s.wdt.count s := by
  rw [wdtEdge_evaluates hw (.inl hp) (wdtEvaluate_empty hb hi)]
  exact (if_neg (by decide)).trans ((if_neg (Bool.eq_false_iff.mp hp)).trans ((if_neg (by decide)).trans (if_pos hc)))

theorem windowEnds_past (hw : s.wdt.state = 1) (hp : s.mode.pause = false) (hb : s.wdt.begun = true) (hi : s.wdt.inbox = [])
    (hc : wdtP s ≤ s.wdt.count) : windowEnds s = true := by
  rw [windowEnds, hw, hp, hb, wdtEvaluate_empty hb hi]
  exact (Bool.and_eq_true_iff.mpr ⟨by decide, by simpa using hc⟩)

theorem wdtEdge_holds (hw : s.wdt.state = 1) (hp : s.mode.pause = true) (ht : s.time.task ≤ (s.mode.pauseFrom + 3000) * usUnit)
    (hb : s.wdt.begun = true) (hi : s.wdt.inbox = []) (hd : s.wdt.disarm = false) : wdtEdge s = s := by
  rw [wdtEdge_evaluates hw (.inr ht) (wdtEvaluate_empty hb hi)]
  exact (if_neg (by decide)).trans ((if_pos hp).trans (disarmDue_armed hd))

/-- An edge at which an arrival makes the watchdog expire. -/
theorem wdtEdge_expires {n cause : Nat} {t : State} (hw : s.wdt.state = 1) (hp : s.mode.pause = false) (hc : cause ≠ 0)
    (he : wdtEvaluate s = (n, cause, false, t)) : wdtEdge s = expireWdt cause n t := by
  rw [wdtEdge_evaluates hw (.inl hp) he]
  exact if_pos (bne_iff_ne.mpr hc)

theorem wdtEvaluate_wrongKey {t : BitVec 7} {v : Half} {l : List WdtIn} (hb : s.wdt.begun = true) (hi : s.wdt.inbox = .key t v :: l)
    (h0 : s.wdt.armed = false → v ≠ 0x5A1C) (h1 : s.wdt.armed = true → v ≠ 0xC3E7) :
    wdtEvaluate s = (s.wdt.count, 3, false, absorbArrivals l (modWdt (fun w => { w with inbox := [], lastKey := some t }) s)) := by
  have hopen : (decide (v = 0x5A1C) && !s.wdt.armed) = false := by
    cases ha : s.wdt.armed
    · rw [decide_eq_false (h0 ha), Bool.false_and]
    · rw [Bool.not_true, Bool.and_false]
  have hclose : (decide (v = 0xC3E7) && s.wdt.armed) = false := by
    cases ha : s.wdt.armed
    · rw [Bool.and_false]
    · rw [decide_eq_false (h1 ha), Bool.false_and]
  rw [wdtEvaluate_begun hb, hi]
  refine congrArg (Prod.mk s.wdt.count) ((if_neg (Bool.eq_false_iff.mp hopen)).trans (if_pos ?_))
  show (!(decide (v = 0xC3E7) && s.wdt.armed)) = true
  rw [hclose]
  rfl

theorem wdtEvaluate_early {t : BitVec 7} {l : List WdtIn} (hb : s.wdt.begun = true) (hi : s.wdt.inbox = .key t 0xC3E7 :: l)
    (ha : s.wdt.armed = true) (hc : s.wdt.count < wdtC s) :
    wdtEvaluate s = (s.wdt.count, 2, false,
      absorbArrivals l (modWdt (fun w => { w with inbox := [], lastKey := some t, armed := false }) s)) := by
  have hopen : ¬(decide ((0xC3E7 : Half) = 0x5A1C) && !s.wdt.armed) = true := by
    rw [ha]
    decide
  have hclose : ¬(!(decide ((0xC3E7 : Half) = 0xC3E7) && s.wdt.armed)) = true := by
    rw [ha]
    decide
  rw [wdtEvaluate_begun hb, hi]
  refine congrArg (Prod.mk s.wdt.count) ?_
  unfold wdtArrivals
  refine (if_neg hopen).trans ?_
  refine (if_neg hclose).trans ?_
  exact if_pos hc

end

end Sys2Proof.Machine
namespace Sys2Proof.Machine

section
variable {s : State}

/-- The state with the last key of an intact pair taken. -/
def pairTaken (u : BitVec 7) (s : State) : State := modWdt (fun w => { w with inbox := [], lastKey := some u, armed := false }) s

/-- The state with the first key of a pair taken. -/
def keyTaken (t : BitVec 7) (s : State) : State := modWdt (fun w => { w with inbox := [], lastKey := some t, armed := true }) s

theorem wdtArrivals_opens {t : BitVec 7} {l : List WdtIn} {n : Nat} (ha : s.wdt.armed = false) :
    wdtArrivals (.key t 0x5A1C :: l) n false (modWdt (fun w => { w with inbox := [] }) s) = wdtArrivals l n false (keyTaken t s) := by
  have hopen : (decide ((0x5A1C : Half) = 0x5A1C) && !s.wdt.armed) = true := by
    rw [ha]
    decide
  conv_lhs => unfold wdtArrivals
  exact (if_pos hopen).trans (congrArg (wdtArrivals l n false) rfl)

theorem wdtArrivals_closes {t u : BitVec 7} {n : Nat} (hc : wdtC s ≤ n) (hm : wdtMissing s = []) :
    wdtArrivals [.key u 0xC3E7] n false (keyTaken t s) = (0, true, newWindow false (pairTaken u s)) := by
  unfold wdtArrivals
  refine (if_neg Bool.false_ne_true).trans ?_
  refine (if_neg Bool.false_ne_true).trans ?_
  refine (if_neg (Nat.not_lt.mpr hc)).trans ?_
  refine (if_pos (List.isEmpty_iff.mpr hm)).trans ?_
  rfl

theorem wdtEvaluate_pair {t u : BitVec 7} (hb : s.wdt.begun = true) (ha : s.wdt.armed = false)
    (hi : s.wdt.inbox = [.key t 0x5A1C, .key u 0xC3E7]) (hc : wdtC s ≤ s.wdt.count) (hm : wdtMissing s = []) :
    wdtEvaluate s = (s.wdt.count, 0, true, newWindow false (pairTaken u s)) := by
  rw [wdtEvaluate_begun hb, hi, wdtArrivals_opens ha, wdtArrivals_closes hc hm]

theorem watchdogTick_pair {t u : BitVec 7} (hw : s.wdt.state = 1) (hp : s.mode.pause = false) (hb : s.wdt.begun = true)
    (ha : s.wdt.armed = false) (hd : s.wdt.disarm = false) (hi : s.wdt.inbox = [.key t 0x5A1C, .key u 0xC3E7])
    (hc : wdtC s ≤ s.wdt.count) (hm : wdtMissing s = []) :
    exec .watchdogTick s = .next (modWdt (fun w => { w with count := 0 }) (newWindow false (pairTaken u s))) := by
  refine congrArg Host.Outcome.next ((wdtEdge_evaluates hw (.inl hp) (wdtEvaluate_pair hb ha hi hc hm)).trans ?_)
  refine (if_neg (by decide)).trans ((if_neg (Bool.eq_false_iff.mp hp)).trans ((if_pos rfl).trans ?_))
  exact disarmDue_armed hd

end

/-- Settles O59: an edge acts by what has arrived; a trip cuts the outputs, and entering SAFE keeps the trip line and the cut. -/
theorem clocksAndWatchdogTripWhenTheyFail : Obligations.ClocksAndWatchdogTripWhenTheyFail := by
  refine ⟨?_, ?_, ?_, ?_, ?_, fun d s h => clockFailure_trips h, ?_, ?_, ?_, ?_, ?_, ?_, ?_, ?_, fun c n s => expireWdt_trips c n s,
    fun s => rfl, fun s => rfl⟩
  · intro fabric s h
    exact congrArg Host.Outcome.next (if_neg (Bool.eq_false_iff.mp h))
  · intro b sp s hb hp ha
    exact barnClockFail_switchesOff hb hp ha
  · intro n s hm hf
    exact clockMonitorPeriod_counts hm hf
  · intro n s hm hc hb
    exact clockMonitorPeriod_fails hm hc hb
  · intro watch s hm hb
    exact clockEdgeGap_fails hm hb
  · intro s hw hp hb hi hd hc
    exact congrArg Host.Outcome.next (wdtEdge_counts hw hp hb hi hd hc)
  · intro t u s hw hp hb ha hd hi hc hm
    exact ⟨_, watchdogTick_pair hw hp hb ha hd hi hc hm, hw, rfl, rfl, rfl, rfl, rfl, rfl⟩
  · intro t v l s hw hp hb hi h0 h1
    exact congrArg Host.Outcome.next (wdtEdge_expires hw hp (by decide) (wdtEvaluate_wrongKey hb hi h0 h1))
  · intro t l s hw hp hb hi ha hc
    exact congrArg Host.Outcome.next (wdtEdge_expires hw hp (by decide) (wdtEvaluate_early hb hi ha hc))
  · intro x l s
    exact ⟨rfl, by cases x <;> rfl⟩
  · intro s hw hp
    exact ⟨fun ht hb hi hd => congrArg Host.Outcome.next (wdtEdge_holds hw hp ht hb hi hd),
      fun ht => congrArg Host.Outcome.next (wdtEdge_paused hw hp ht)⟩
  · intro s hw hp hb hi hc
    have he := wdtEdge_ends hw hp hb hi hc
    exact ⟨congrArg Host.Outcome.next he, congrArg Host.Outcome.next ((if_pos (windowEnds_past hw hp hb hi hc)).trans he)⟩
  · intro s hw hp
    exact congrArg Host.Outcome.next (if_pos (by rw [hw, hp]; decide))

end Sys2Proof.Machine

/-! PROOFS. Clocks, watchdog and firmware: firmware transfers and activation run their protocol (R659 to R669). -/
namespace Sys2Proof.Machine

section
variable {s a : State} {k : Fin 8} {x : Transfer} {m : TransferMsg}

/-! ## Messages heard -/

theorem hear_inbox {kind : Nat} (h : hear kind m s = some a) :
    ∃ p ∈ s.fw.inbox, parcelIs p kind m = true ∧ a = { s with fw := { s.fw with inbox := s.fw.inbox.erase p } } := by
  unfold hear at h
  split at h
  · next p hp =>
    split at h
    · next hc => exact ⟨p, List.mem_of_find?_eq_some hp, (Bool.and_eq_true_iff.mp hc).1, (Option.some.inj h).symm⟩
    · exact nomatch h
  · exact nomatch h

theorem offerRepeat_offers (hx : xferOf s k = some x) (hs : x.sending = true) (h0 : x.step = 0) (hv : served s = true) :
    exec (.offerRepeat k) s = .next (sendMessage k x 1 x.length 0 (Mem.read (fwSlot s x.slot).image 0 24) s) := by
  rw [exec_offerRepeat, execOfferRepeat, hx]
  exact congrArg Host.Outcome.next (if_pos (by rw [hs, h0, hv]; decide))

/-- What the receiver does with an OFFER that it waits for. -/
theorem offer_taken (h : hear 1 m s = some a) (hp : peerRing a false false m = some (k, x)) (hi : m.transferId ≠ 0) (h0 : x.step = 0) :
    let y := { x with transferId := m.transferId, length := m.arg.toNat }
    exec (.offer m) s = .next (if offerRefused a m = 0 then
        sendMessage k { y with step := 1 } 2 0 0 [] (modSlot (!a.fw.active) (fun _ => { state := 1, image := [], length := 0 }) a)
      else endXfer k (if offerRefused a m = 2 then 8 else 7)
        (fwRefused (offerRefused a m) false (sendMessage k y 3 (offerRefused a m) 0 [] a))) := by
  intro y
  rw [exec_offer, execOffer, h]
  dsimp only
  rw [hp]
  exact congrArg Host.Outcome.next ((if_neg hi).trans (if_pos h0))

theorem accept_starts (h : hear 2 m s = some a) (hp : peerRing a true true m = some (k, x)) (h0 : x.step = 0) :
    exec (.accept m) s = .next (setXfer k { x with step := 1, todo := [(0, x.length)] } a) := by
  rw [exec_accept, execAccept, h]
  dsimp only
  rw [hp]
  exact congrArg Host.Outcome.next (if_pos h0)

theorem refuse_ends (h : hear 3 m s = some a) (hp : peerRing a true true m = some (k, x)) :
    exec (.refuse m) s = .next (endXfer k 7 (fwRefused m.arg.toNat true a)) := by
  rw [exec_refuse, execRefuse, h]
  dsimp only
  rw [hp]
  rfl

theorem nack_queues (h : hear 5 m s = some a) (hp : peerRing a true true m = some (k, x)) (h0 : x.step = 1 ∨ x.step = 2) :
    exec (.nack m) s = .next (setXfer k { x with
      step := 1
      todo := x.todo ++ [(min m.arg.toNat x.length, min m.count.toNat (x.length - min m.arg.toNat x.length))] } a) := by
  rw [exec_nack, execNack, h]
  dsimp only
  rw [hp]
  refine congrArg Host.Outcome.next (if_pos ?_)
  rw [Bool.or_eq_true, decide_eq_true_eq, decide_eq_true_eq]
  exact h0

theorem verified_ends (h : hear 7 m s = some a) (hp : peerRing a true true m = some (k, x)) (h0 : x.step = 2) :
    exec (.verified m) s = .next (endXfer k 0 a) := by
  rw [exec_verified, execVerified, h]
  dsimp only
  rw [hp]
  exact congrArg Host.Outcome.next (if_pos h0)

/-! ## Data and its end -/

theorem data_sends (hp : peerRing s true true m = some (k, x)) (hv : served s = true) (h1 : x.step = 1) :
    exec (.data m) s = .next (sendData k x s) := by
  rw [exec_data, execData, hp]
  exact congrArg Host.Outcome.next (if_pos (by rw [hv, h1]; decide))

theorem done_sends (hp : peerRing s true true m = some (k, x)) (hv : served s = true) (h1 : x.step = 1) (ht : x.todo = []) :
    exec (.done m) s = .next (sendMessage k { x with step := 2 } 6 0 0 [] s) := by
  rw [exec_done, execDone, hp]
  exact congrArg Host.Outcome.next (if_pos (by rw [hv, h1, ht]; decide))

theorem data_taken (hn : peerRing s true true m = none) (hp : peerRing a false true m = some (k, x)) (h1 : x.step = 1)
    (h : hear 4 m s = some a) : exec (.data m) s = .next (takeData x m a) := by
  rw [exec_data, execData, hn]
  dsimp only
  rw [h]
  dsimp only
  rw [hp]
  exact congrArg Host.Outcome.next (if_pos h1)

theorem done_taken (hn : peerRing s true true m = none) (hp : peerRing a false true m = some (k, x)) (h1 : x.step = 1)
    (h : hear 6 m s = some a) : exec (.done m) s = .next (takeDone k x a) := by
  rw [exec_done, execDone, hn]
  dsimp only
  rw [h]
  dsimp only
  rw [hp]
  exact congrArg Host.Outcome.next (if_pos h1)

/-! ## Timeouts and verification -/

theorem fwTransferIdleTimeout_ends (hx : xferOf s k = some x) (ha : alive s = true) (h0 : x.step ≠ 0) (hh : x.fromHost = false) :
    exec (.fwTransferIdleTimeout k) s = .next (timeoutXfer k x s) := by
  rw [exec_fwTransferIdleTimeout, execFwTransferIdleTimeout, hx]
  exact congrArg Host.Outcome.next (if_pos (by rw [ha, hh, bne_iff_ne.mpr h0]; decide))

theorem fwOfferWaitTimeout_ends (hx : xferOf s k = some x) (ha : alive s = true) (h0 : x.step = 0) :
    exec (.fwOfferWaitTimeout k) s = .next (timeoutXfer k x s) := by
  rw [exec_fwOfferWaitTimeout, execFwOfferWaitTimeout, hx]
  exact congrArg Host.Outcome.next (if_pos (by rw [ha, h0]; decide))

theorem fwVerifyDone_ends (hv : verifying s = some (k, x)) (ha : alive s = true) :
    let img := (fwInactive s).image
    let good := raiseFw 0x0C02 (imgField img 8 3 + 2 ^ 24 * b2n (!s.fw.active) + 2 ^ 32 * imgField img 20 4)
      (modSlot (!s.fw.active) (fun f => { f with state := 2, length := x.length }) s)
    let bad := fwRefused (if x.fromHost && !servesModule s (imgField img 16 1) (imgField img 17 1) then 3 else 1) false
      (modSlot (!s.fw.active) (fun _ => emptySlot) s)
    exec .fwVerifyDone s = .next (if imageVerified s img x.length
      then endXfer k 0 (if x.fromHost then good else sendMessage k x 7 0 0 [] good)
      else endXfer k 7 (if x.fromHost then bad else sendMessage k x 3 1 0 [] bad)) := by
  intro img good bad
  rw [exec_fwVerifyDone, execFwVerifyDone, hv]
  exact congrArg Host.Outcome.next (if_neg (by rw [ha]; decide))

/-! ## Activation -/

theorem activationPauseBegin_here {t : Nat} (ht : s.mode.pauseAt = some t) (ha : alive s = true) (hk : s.time.ticked = true)
    (hn : nowUs s = tickTime s s.time.tickNo) (hle : t ≤ nowUs s) : exec .activationPauseBegin s = .next (beginPause s) := by
  rw [exec_activationPauseBegin, execActivationPauseBegin, ht]
  refine congrArg Host.Outcome.next ((if_neg (by rw [ha]; decide)).trans (if_pos ?_))
  rw [hk, decide_eq_true hn, decide_eq_true hle]
  rfl

theorem activationPauseBegin_next {t : Nat} (ht : s.mode.pauseAt = some t) (ha : alive s = true)
    (hn : s.time.ticked = false ∨ nowUs s ≠ tickTime s s.time.tickNo ∨ nowUs s < t) (hle : t ≤ tickTime s (nextTick s)) :
    exec .activationPauseBegin s = .next (beginPause (advanceTo (tickTime s (nextTick s)) s)) := by
  have hnot : ¬(s.time.ticked && decide (nowUs s = tickTime s s.time.tickNo) && decide (t ≤ nowUs s)) = true := by
    simp only [Bool.and_eq_true, decide_eq_true_eq]
    rintro ⟨⟨hk, he⟩, hl⟩
    obtain hn | hn | hn := hn
    · exact Bool.false_ne_true (hn.symm.trans hk)
    · exact hn he
    · exact Nat.not_lt.mpr hl hn
  rw [exec_activationPauseBegin, execActivationPauseBegin, ht]
  exact congrArg Host.Outcome.next ((if_neg (by rw [ha]; decide)).trans ((if_neg hnot).trans (if_neg (Nat.not_lt.mpr hle))))

theorem activationPauseEnd_activates {l : List (Half × Byte)} (hp : s.mode.pause = true) (ha : alive s = true)
    (hf : (fwInactive s).state = 2) :
    let a := modSlot s.fw.active (fun f => { f with state := 2 }) (modSlot (!s.fw.active) (fun f => { f with state := 3 }) s)
    let b := resetBlocks l (takeHeld (endPause { a with fw := { a.fw with active := !s.fw.active } }))
    let c := pauseReleases b.1
    exec (.activationPauseEnd l) s = .next (pendingSave (completeActivate 0 (raiseFw 0x0C04
      (imgField (fwActive c).image 8 3 + 2 ^ 24 * b2n (!s.fw.active) + 2 ^ 32 * min (nowUs s - s.mode.pauseFrom) 65535 +
        2 ^ 48 * b.2) c))) := by
  intro a b c
  rw [exec_activationPauseEnd, execActivationPauseEnd, if_neg (by rw [hp, ha, hf, bne_self_eq_false]; decide)]
  dsimp only
  rw [Bool.not_not]
  rfl

theorem endPause_over (s : State) : (endPause s).mode.pause = false ∧ (endPause s).field.frozen = false := by
  unfold endPause
  dsimp only
  split
  · rw [nodeState, (refreshed_refreshStar _).mode, (refreshed_refreshStar _).field, (refreshed_refreshSource _).mode,
      (refreshed_refreshSource _).field, (refreshed_refreshWhere ..).mode, (refreshed_refreshWhere ..).field]
    exact ⟨rfl, rfl⟩
  · exact ⟨rfl, rfl⟩

end

/-- Settles O60: a row of a message takes the parcel that it hears; each row is then its guards resolved, a pause's end by its fields. -/
theorem firmwareTransfersRunTheirProtocol : Obligations.FirmwareTransfersRunTheirProtocol := by
  refine ⟨?_, fun kind m s a h => hear_inbox h, ?_, ?_, ?_, ?_, ?_, ?_, ?_, ?_, fun s => endPause_over s, ?_⟩
  · intro k x s hx hs h0 hv
    exact offerRepeat_offers hx hs h0 hv
  · intro m k x s a h hp hi h0 y
    have ho := offer_taken h hp hi h0
    exact ⟨fun hr => ho.trans (congrArg Host.Outcome.next (if_pos hr)), fun hr => ho.trans (congrArg Host.Outcome.next (if_neg hr))⟩
  · intro m k x s a hp
    exact ⟨fun h h0 => accept_starts h hp h0, fun h => refuse_ends h hp, fun h h0 => nack_queues h hp h0,
      fun h h0 => verified_ends h hp h0⟩
  · intro m k x s hp hv h1
    exact ⟨data_sends hp hv h1, fun ht => done_sends hp hv h1 ht⟩
  · intro m k x s a hn hp h1
    exact ⟨fun h => data_taken hn hp h1 h, fun h => done_taken hn hp h1 h⟩
  · intro k x s hx ha
    exact ⟨fun h0 hh => fwTransferIdleTimeout_ends hx ha h0 hh, fun h0 => fwOfferWaitTimeout_ends hx ha h0⟩
  · intro k x s hv ha
    exact fwVerifyDone_ends hv ha
  · intro t s ht ha
    exact ⟨fun hk hn hle => activationPauseBegin_here ht ha hk hn hle, fun hn hle => activationPauseBegin_next ht ha hn hle⟩
  · intro l s hp ha hf
    exact activationPauseEnd_activates hp ha hf
  · intro s hp ha
    exact congrArg Host.Outcome.next (if_neg (by rw [hp, ha]; decide))

end Sys2Proof.Machine

/-! PROOFS. Stalls: accesses to memory and images, and the results that they request (R195, R236 to R252). -/
namespace Sys2Proof.Machine

section
variable {u : StallId} {f : Fin 4} {i j : Inst} {b : MoveWord × MoveWord} {cyc : Nat} {s t : State} {a : Word}

/-! ## The transaction of an issuing bundle -/

/-- The counts of a bundle leave what the accesses of its transaction look at. -/
theorem slotOf_armed_access (hr : ready s u = some (f, i, b, cyc)) : ∃ j, slotOf (armed u f i b cyc s) u f = some j ∧
    tagOf j = tagOf i ∧ j.task = i.task ∧ (∀ a n, accessOdd j a n = accessOdd i a n) ∧ ∀ c k, readByte c j k = readByte c i k := by
  obtain ⟨j, hj, rfl⟩ := slotOf_of_ready hr
  have hs : slotOf (moved u (covered j) b cyc s) u f = some j := (slotOf_setCtx ..).trans hj
  exact ⟨_, (slotOf_modInst ..).trans (congrArg _ hs), rfl, rfl, fun _ _ => rfl, fun _ _ => rfl⟩

/-! ## Loads and stores -/

/-- A load that no unpredictable overlap meets has no effect on its bundle's own course. -/
theorem loadTrig_predictable {n : Nat} (hj : slotOf t u f = some j) (ho : accessOdd j (alignTo n a.toNat) n = false) :
    (loadTrig u f cyc n a (noEff, t)).1 = noEff := by
  have hodd : ¬accessOdd j (alignTo n a.toNat) n = true := Bool.eq_false_iff.mp ho
  unfold loadTrig
  dsimp only
  rw [hj]
  dsimp only
  rw [if_neg hodd]
  split <;> rfl

theorem fire_load {n w : Nat} (h : (n, w) ∈ [(0x51, 4), (0x52, 2), (0x53, 1)]) (flags : Word) (p : Eff × State) :
    fire u f cyc flags n a p = loadTrig u f cyc w a p := by
  simp only [List.mem_cons, Prod.mk.injEq, List.not_mem_nil, or_false] at h
  obtain ⟨rfl, rfl⟩ | ⟨rfl, rfl⟩ | ⟨rfl, rfl⟩ := h <;> rfl

theorem exec_load_only {c : Instr} {n w : Nat} (hc : triggerRow c = some (u, n)) (hn : unitOf n ≠ 0)
    (hw : (n, w) ∈ [(0x51, 4), (0x52, 2), (0x53, 1)]) (hr : ready s u = some (f, i, b, cyc)) (ho : onlyTrigger u i b cyc n s = true)
    (ha : accessOdd i (alignTo w (movedTo u i b cyc n s).toNat) w = false) :
    exec c s = .next (finish u f cyc noEff (loadTrig u f cyc w (movedTo u i b cyc n s) (noEff, armed u f i b cyc s)).2) := by
  obtain ⟨j, hj, -, -, hacc, -⟩ := slotOf_armed_access hr
  refine exec_of_fire hc hn hr ho ((fire_load hw ..).trans ?_) rfl
  exact Prod.ext (loadTrig_predictable hj (by rw [hacc, ha])) rfl

/-- What a bundle leaves whose access may be refused: the refusal aborts its transaction. -/
def accessEnd (u : StallId) (f : Fin 4) (cyc : Nat) (r : Option (Nat × Nat) × State) : State :=
  match r.1 with
  | none => finish u f cyc noEff r.2
  | some q => selfAbort u f q.1 q.2 r.2

/-- The effect of an access that may be refused. -/
def accessEff (r : Option (Nat × Nat)) : Eff :=
  match r with
  | none => noEff
  | some q => { noEff with aborts := [q] }

theorem accessEff_odd (r : Option (Nat × Nat)) : (accessEff r).odd = false := by
  cases r <;> rfl

theorem finish_accessEff (r : Option (Nat × Nat) × State) : finish u f cyc (accessEff r.1) r.2 = accessEnd u f cyc r := by
  obtain ⟨q | q, x⟩ := r <;> rfl

theorem storeTrig_predictable {n : Nat} (hj : slotOf t u f = some j) (ho : accessOdd j (alignTo n (stall t u).ctx.lsAddr.toNat) n = false) :
    storeTrig u f n a (noEff, t) = (accessEff (writeData u f (alignTo n (stall t u).ctx.lsAddr.toNat) (leBytes n a.toNat) t).1,
      (writeData u f (alignTo n (stall t u).ctx.lsAddr.toNat) (leBytes n a.toNat) t).2) := by
  unfold storeTrig
  dsimp only
  rw [hj]
  dsimp only
  rw [if_neg (Bool.eq_false_iff.mp ho)]
  obtain ⟨q | q, x⟩ := writeData u f (alignTo n (stall t u).ctx.lsAddr.toNat) (leBytes n a.toNat) t <;> rfl

theorem fire_store {n w : Nat} (h : (n, w) ∈ [(0x54, 4), (0x55, 2), (0x56, 1)]) (flags : Word) (p : Eff × State) :
    fire u f cyc flags n a p = storeTrig u f w a p := by
  simp only [List.mem_cons, Prod.mk.injEq, List.not_mem_nil, or_false] at h
  obtain ⟨rfl, rfl⟩ | ⟨rfl, rfl⟩ | ⟨rfl, rfl⟩ := h <;> rfl

theorem exec_store_only {c : Instr} {n w : Nat} (hc : triggerRow c = some (u, n)) (hn : unitOf n ≠ 0)
    (hw : (n, w) ∈ [(0x54, 4), (0x55, 2), (0x56, 1)]) (hr : ready s u = some (f, i, b, cyc)) (ho : onlyTrigger u i b cyc n s = true)
    (ha : accessOdd i (alignTo w (stall (armed u f i b cyc s) u).ctx.lsAddr.toNat) w = false) :
    exec c s = .next (accessEnd u f cyc (writeData u f (alignTo w (stall (armed u f i b cyc s) u).ctx.lsAddr.toNat)
      (leBytes w (movedTo u i b cyc n s).toNat) (armed u f i b cyc s))) := by
  obtain ⟨j, hj, -, -, hacc, -⟩ := slotOf_armed_access hr
  rw [exec_of_fire hc hn hr ho ((fire_store hw ..).trans (storeTrig_predictable hj (by rw [hacc, ha]))) (accessEff_odd _),
    finish_accessEff]

theorem modInst_congr {g h : Inst → Inst} (hj : slotOf t u f = some j) (he : g j = h j) : modInst u f g t = modInst u f h t := by
  rw [modInst, modInst, hj, Option.map_some, Option.map_some, he]

/-- A block transfer's request. -/
def requested (tag : Tag) (src dst len cyc : Nat) (j : Inst) : Inst :=
  { j with blk := some ⟨tag, BitVec.ofNat 32 src, BitVec.ofNat 32 dst, len, cyc, false⟩ }

/-- A descriptor of words that has a length of 4 to 4,096 bytes, zeros after it and an end in scratch is valid. -/
def validDescriptor (d : Bytes) : Prop :=
  fieldAt d 8 2 % 4 = 0 ∧ 4 ≤ fieldAt d 8 2 ∧ fieldAt d 8 2 ≤ 4096 ∧ fieldAt d 10 6 = 0 ∧
  (alignTo 4 (fieldAt d 0 4) < 0x3C00 ∨ alignTo 4 (fieldAt d 4 4) < 0x3C00)

theorem validDescriptor_guard {d : Bytes} (h : validDescriptor d) :
    ¬(fieldAt d 8 2 % 4 != 0 || fieldAt d 8 2 < 4 || 4096 < fieldAt d 8 2 || fieldAt d 10 6 != 0 ||
      (decide (0x3C00 ≤ alignTo 4 (fieldAt d 0 4)) && decide (0x3C00 ≤ alignTo 4 (fieldAt d 4 4)))) = true := by
  obtain ⟨hw, h4, hmax, hz, hs⟩ := h
  have hend : (decide (0x3C00 ≤ alignTo 4 (fieldAt d 0 4)) && decide (0x3C00 ≤ alignTo 4 (fieldAt d 4 4))) = false := by
    obtain hs | hs := hs
    · rw [decide_eq_false (Nat.not_le.mpr hs), Bool.false_and]
    · rw [decide_eq_false (Nat.not_le.mpr hs), Bool.and_false]
  rw [hend, hw, hz, decide_eq_false (Nat.not_lt.mpr h4), decide_eq_false (Nat.not_lt.mpr hmax)]
  decide

theorem blkTrig_valid (hx : alignTo 16 a.toNat ≤ 0x3BF0) (hj : slotOf t u f = some j) (ht : tagOf j = tagOf i)
    (hd : validDescriptor (scratchBytes t u f (alignTo 16 a.toNat) 16)) :
    let d := scratchBytes t u f (alignTo 16 a.toNat) 16
    blkTrig u f cyc a (noEff, t) =
      (noEff, modInst u f (requested (tagOf i) (alignTo 4 (fieldAt d 0 4)) (alignTo 4 (fieldAt d 4 4)) (fieldAt d 8 2) cyc) t) := by
  intro d
  refine (if_neg (Nat.not_lt.mpr hx)).trans ((if_neg (validDescriptor_guard hd)).trans (congrArg (Prod.mk noEff) ?_))
  refine modInst_congr hj ?_
  rw [requested, ← ht]

theorem exec_lsBlk_only (hr : ready s u = some (f, i, b, cyc)) (ho : onlyTrigger u i b cyc 0x57 s = true)
    (hx : alignTo 16 (movedTo u i b cyc 0x57 s).toNat ≤ 0x3BF0)
    (hd : validDescriptor (scratchBytes (armed u f i b cyc s) u f (alignTo 16 (movedTo u i b cyc 0x57 s).toNat) 16)) :
    let d := scratchBytes (armed u f i b cyc s) u f (alignTo 16 (movedTo u i b cyc 0x57 s).toNat) 16
    exec (.lsBlk u) s = .next (finish u f cyc noEff
      (modInst u f (requested (tagOf i) (alignTo 4 (fieldAt d 0 4)) (alignTo 4 (fieldAt d 4 4)) (fieldAt d 8 2) cyc) (armed u f i b cyc s))) := by
  intro d
  obtain ⟨j, hj, htag, -⟩ := slotOf_armed_access hr
  exact exec_of_fire rfl (by decide) hr ho (blkTrig_valid hx hj htag hd) rfl

/-! ## Images and the solver -/

theorem imgRead_predictable (bit : Bool) : (imgRead u f cyc bit a (noEff, t)).1 = noEff := by
  cases bit <;> rfl

theorem exec_imgRead_only {c : Instr} {n : Nat} {bit : Bool} (hc : triggerRow c = some (u, n)) (hn : unitOf n ≠ 0)
    (hw : (n, bit) ∈ [(0x62, true), (0x63, false)]) (hr : ready s u = some (f, i, b, cyc)) (ho : onlyTrigger u i b cyc n s = true) :
    exec c s = .next (finish u f cyc noEff (imgRead u f cyc bit (movedTo u i b cyc n s) (noEff, armed u f i b cyc s)).2) := by
  refine exec_of_fire hc hn hr ho (Eq.trans ?_ (Prod.ext (imgRead_predictable bit) rfl)) rfl
  simp only [List.mem_cons, Prod.mk.injEq, List.not_mem_nil, or_false] at hw
  obtain ⟨rfl, rfl⟩ | ⟨rfl, rfl⟩ := hw <;> rfl

theorem imgWrite_bit (hj : slotOf t u f = some j) (hs : selOut t u = true) :
    let x := (stall t u).ctx.imgAddr.toNat
    let r := imageWrite u f x 1 (x / 8) [withBit (readByte t.commit j (outBase j.task + x / 8)) (x % 8) (a.getLsbD 0)] t
    imgWrite u f true a (noEff, t) = (accessEff r.1, r.2) := by
  intro x r
  unfold imgWrite
  dsimp only
  rw [hs, if_neg (by decide), if_pos rfl, hj]
  change (match r with
    | (some q, s) => _
    | (none, s) => _) = _
  obtain ⟨q | q, y⟩ := r <;> rfl

theorem imgWrite_word (hs : selOut t u = true) :
    let x := alignTo 4 (stall t u).ctx.imgAddr.toNat
    let r := imageWrite u f (8 * x) 32 x (leBytes 4 a.toNat) t
    imgWrite u f false a (noEff, t) = (accessEff r.1, r.2) := by
  intro x r
  unfold imgWrite
  dsimp only
  rw [hs, if_neg (by decide), if_neg (by decide)]
  change (match r with
    | (some q, s) => _
    | (none, s) => _) = _
  obtain ⟨q | q, y⟩ := r <;> rfl

theorem solveTrig_predictable (hj : slotOf t u f = some j) : (solveTrig u f cyc a (noEff, t)).1 = noEff := by
  unfold solveTrig
  dsimp only
  rw [hj]
  dsimp only
  split <;> rfl

end

end Sys2Proof.Machine
namespace Sys2Proof.Machine

section
variable {u : StallId} {f : Fin 4} {i j : Inst} {s t r : State}

/-! ## What reading committed data leaves of its transaction -/

/-- The stall's registers and running slot stand, and whether a transaction of the slot has asked for its end. -/
structure AccessKept (u : StallId) (f : Fin 4) (s t : State) : Prop where
  ctx : (stall t u).ctx = (stall s u).ctx
  running : (stall t u).running = (stall s u).running
  ends : (slotOf t u f).map Inst.endPending = (slotOf s u f).map Inst.endPending

theorem AccessKept.of_stalls (h : t.stalls = s.stalls) : AccessKept u f s t := by
  have hu : stall t u = stall s u := by rw [stall, stall, h]
  constructor <;> simp only [slotOf, hu]

theorem AccessKept.trans (h : AccessKept u f s t) (k : AccessKept u f t r) : AccessKept u f s r :=
  ⟨k.ctx.trans h.ctx, k.running.trans h.running, k.ends.trans h.ends⟩

theorem accessKept_modInst {g : Inst → Inst} (hg : ∀ j, (g j).endPending = j.endPending) (s : State) : AccessKept u f s (modInst u f g s) := by
  refine ⟨?_, ?_, ?_⟩
  · rw [modInst, setSlot, stall_modStall_self]
  · rw [modInst, setSlot, stall_modStall_self]
  · rw [slotOf_modInst, Option.map_map]
    exact congrArg (fun h => Option.map h (slotOf s u f)) (funext hg)

theorem accessKept_markTorn (line : Nat) (s : State) : AccessKept u f s (markTorn u f line s) := by
  unfold markTorn
  split
  · dsimp only
    split
    · exact .of_stalls rfl
    · split
      · refine accessKept_modInst ?_ s
        exact fun _ => rfl
      · refine .trans ?_ (.of_stalls (raiseTask_stalls ..))
        refine .trans ?_ (.of_stalls (modTask_stalls ..))
        refine accessKept_modInst ?_ s
        exact fun _ => rfl
  · exact .of_stalls rfl

theorem accessKept_countAccess (line : Nat) (s : State) : AccessKept u f s (countAccess u f line s) := by
  unfold countAccess
  split <;> exact .of_stalls rfl

theorem accessKept_loadBytesNow (q : LoadReq) (s : State) : AccessKept u f s (loadBytesNow u f q s).2 := by
  unfold loadBytesNow
  split
  · exact .of_stalls rfl
  · dsimp only
    split
    · refine accessKept_modInst ?_ s
      exact fun _ => rfl
    · dsimp only
      split
      · exact .of_stalls rfl
      · exact (accessKept_markTorn _ s).trans (accessKept_countAccess _ _)

/-! ## A result arrives at its running transaction -/

theorem framePend_running (h : (stall s u).running = some f) : framePend u f s = s := by
  unfold framePend
  split
  · exact if_pos h
  · rfl

theorem tryEnd_open (h : (slotOf s u f).map Inst.endPending = some false) : tryEnd u f s = s := by
  unfold tryEnd
  split
  · next j hj =>
    rw [hj] at h
    refine if_neg ?_
    rw [show j.endPending = false from Option.some.inj h, Bool.false_and, Bool.false_and]
    decide
  · rfl

/-- The registers of a stall with a load's value, when no later load has been triggered. -/
def loadShown (u : StallId) (f : Fin 4) (live : Bool) (v : Word) (s : State) : State :=
  if live then deliverSocket u f 260 v (fun c => { c with ldRes := v }) s else s

theorem loadShown_running (live : Bool) (v : Word) (h : (stall s u).running = some f) :
    loadShown u f live v s = if live then setCtx u (fun c => { c with ldRes := v }) s else s := by
  unfold loadShown deliverSocket
  rw [if_pos h]

theorem stall_setCtx (g : Ctx → Ctx) (s : State) : stall (setCtx u g s) u = { stall s u with ctx := g (stall s u).ctx } :=
  stall_modStall_self ..

theorem loadShown_ldRes (live : Bool) (v : Word) (h : (stall s u).running = some f) :
    (stall (loadShown u f live v s) u).ctx.ldRes = if live then v else (stall s u).ctx.ldRes := by
  rw [loadShown_running live v h]
  cases live
  · rfl
  · rw [if_pos rfl, stall_setCtx]
    rfl

theorem loadShown_slot (live : Bool) (v : Word) (h : (stall s u).running = some f) :
    slotOf (loadShown u f live v s) u f = slotOf s u f ∧ (stall (loadShown u f live v s) u).running = some f := by
  rw [loadShown_running live v h]
  cases live
  · exact ⟨rfl, h⟩
  · rw [if_pos rfl, slotOf_setCtx, stall_setCtx]
    exact ⟨rfl, h⟩

/-- The transaction without its oldest load, whose result shows at `at_` or sooner. -/
def loadGone (u : StallId) (f : Fin 4) (i : Inst) (at_ : Nat) (l : List LoadReq) (s : State) : State :=
  modInst u f (fun j =>
    let shows := if waitCounts s u f then at_ else min at_ j.cycle
    { flagsFrom i shows j with loads := l, ldReady := max j.ldReady shows }) s

theorem accessKept_loadGone (at_ : Nat) (l : List LoadReq) (s : State) : AccessKept u f s (loadGone u f i at_ l s) := by
  refine accessKept_modInst ?_ s
  exact fun _ => rfl

theorem loadResultArrive_eq {q : LoadReq} {l : List LoadReq} (hi : slotOf s u f = some i) (hl : i.loads = q :: l) :
    exec (.loadResultArrive u f) s = .next (tryEnd u f (framePend u f
      (loadShown u f q.live (BitVec.ofNat 32 (leNat (loadBytesNow u f q { s with free := s.free + 1 }).1))
        (loadGone u f i (loadReady { s with free := s.free + 1 } u i q s.free) l (loadBytesNow u f q { s with free := s.free + 1 }).2)))) := by
  rw [exec_loadResultArrive, execLoadResultArrive, hi, Option.map_some, hl]
  rfl

theorem loadResultArrive_shows {q : LoadReq} {l : List LoadReq} (hi : slotOf s u f = some i) (hl : i.loads = q :: l)
    (hr : (stall s u).running = some f) (he : i.endPending = false) :
    ∃ t, exec (.loadResultArrive u f) s = .next t ∧
      (stall t u).ctx.ldRes = (if q.live then BitVec.ofNat 32 (leNat (loadBytesNow u f q { s with free := s.free + 1 }).1)
        else (stall s u).ctx.ldRes) ∧
      ((slotOf t u f).map (fun j => j.loads)) = some l := by
  have hread := accessKept_loadBytesNow (u := u) (f := f) q { s with free := s.free + 1 }
  rw [loadResultArrive_eq hi hl]
  generalize BitVec.ofNat 32 (leNat (loadBytesNow u f q { s with free := s.free + 1 }).1) = v
  generalize loadReady { s with free := s.free + 1 } u i q s.free = at_
  generalize (loadBytesNow u f q { s with free := s.free + 1 }).2 = x at *
  have hgone : AccessKept u f { s with free := s.free + 1 } (loadGone u f i at_ l x) := hread.trans (accessKept_loadGone at_ l x)
  have hrun : (stall (loadGone u f i at_ l x) u).running = some f := hgone.running.trans hr
  have hends : (slotOf (loadGone u f i at_ l x) u f).map Inst.endPending = some false :=
    hgone.ends.trans ((congrArg (Option.map Inst.endPending) hi).trans (congrArg some he))
  have hloads : (slotOf (loadGone u f i at_ l x) u f).map (fun j => j.loads) = some l := by
    obtain ⟨j, hj, -⟩ := Option.map_eq_some_iff.mp (hread.ends.trans (congrArg (Option.map Inst.endPending) hi))
    rw [loadGone, slotOf_modInst, hj]
    rfl
  obtain ⟨hslot, hrun'⟩ := loadShown_slot q.live v hrun
  rw [framePend_running hrun', tryEnd_open (by rw [hslot, hends])]
  refine ⟨_, rfl, ?_, by rw [hslot, hloads]⟩
  rw [loadShown_ldRes q.live v hrun, hgone.ctx]
  rfl

/-! ## The return of a solver call -/

/-- The transaction with its call's return taken, which shows at `at_` for one that waits. -/
def callReturned (u : StallId) (f : Fin 4) (n : Nat) (s : State) : State :=
  modInst u f (fun i =>
    let shows := if waitCounts s u f then solveDone i n else i.cycle
    { i with solving := false, solveReady := shows, imgReady := max i.imgReady shows }) s

theorem solverResultArrive_eq {v : Word} {g : Tag} (hb : (barn s u.barn).returns = [(u, f, v, g)]) :
    exec (.solverResultArrive u f) s = .next (tryEnd u f (framePend u f
      (deliverSocket u f 288 v (fun c => { c with imgRes := v }) (callReturned u f s.free
        (modBarn u.barn (fun b => { b with returns := b.returns.filter (fun r => !(r.1 = u && r.2.1 = f)) })
          { s with free := s.free + 1 }))))) := by
  rw [exec_solverResultArrive, execSolverResultArrive, hb, List.find?_cons_of_pos (by simp)]
  rfl

theorem solverResultArrive_shows {v : Word} {g : Tag} (hi : slotOf s u f = some i) (he : i.endPending = false)
    (hr : (stall s u).running = some f) (hb : (barn s u.barn).returns = [(u, f, v, g)]) :
    ∃ t, exec (.solverResultArrive u f) s = .next t ∧ (stall t u).ctx.imgRes = v ∧
      (barn t u.barn).returns = [] ∧ ((slotOf t u f).map (fun j => j.solving)) = some false ∧ t.free = s.free + 1 := by
  rw [solverResultArrive_eq hb]
  have hret : (barn (modBarn u.barn (fun b => { b with returns := b.returns.filter (fun r => !(r.1 = u && r.2.1 = f)) })
      { s with free := s.free + 1 }) u.barn).returns = [] := by
    rw [barn_modBarn_self, show (barn { s with free := s.free + 1 } u.barn).returns = [(u, f, v, g)] from hb]
    simp
  have hmod : AccessKept u f s (modBarn u.barn (fun b => { b with returns := b.returns.filter (fun r => !(r.1 = u && r.2.1 = f)) })
      { s with free := s.free + 1 }) := .of_stalls rfl
  have hslot0 : slotOf (modBarn u.barn (fun b => { b with returns := b.returns.filter (fun r => !(r.1 = u && r.2.1 = f)) })
      { s with free := s.free + 1 }) u f = some i := hi
  have hfree : (modBarn u.barn (fun b => { b with returns := b.returns.filter (fun r => !(r.1 = u && r.2.1 = f)) })
      { s with free := s.free + 1 }).free = s.free + 1 := rfl
  generalize modBarn u.barn (fun b => { b with returns := b.returns.filter (fun r => !(r.1 = u && r.2.1 = f)) })
      { s with free := s.free + 1 } = x at *
  have hkept : AccessKept u f x (callReturned u f s.free x) := by
    refine accessKept_modInst ?_ x
    exact fun _ => rfl
  have hrun : (stall (callReturned u f s.free x) u).running = some f := hkept.running.trans (hmod.running.trans hr)
  have hsolv : (slotOf (callReturned u f s.free x) u f).map (fun j => j.solving) = some false := by
    rw [callReturned, slotOf_modInst, hslot0]
    rfl
  have hends : (slotOf (callReturned u f s.free x) u f).map Inst.endPending = some false :=
    hkept.ends.trans ((congrArg (Option.map Inst.endPending) hslot0).trans (congrArg some he))
  rw [deliverSocket, if_pos hrun, framePend_running (by rw [stall_setCtx]; exact hrun),
    tryEnd_open (by rw [slotOf_setCtx, hends])]
  refine ⟨_, rfl, ?_, hret, ?_, hfree⟩
  · rw [stall_setCtx]
  · rw [slotOf_setCtx, hsolv]

/-! ## Stale results, block transfers and faults of an access -/

theorem retireStale_counts {x : StaleRes} {kind : ResKind} (h : (stall s u).stale.find? (fun y => y.slot = f && y.kind = kind) = some x) :
    retireStale u f kind s = modCtr x.task (fun k => { k with stale := satAdd 16 k.stale 1 })
      (modStall u (fun st => { st with stale := st.stale.erase x }) s) := by
  unfold retireStale
  rw [h]

theorem arrival_retires {kind : ResKind} {c : Instr} (hc : (c, kind) ∈ [(Instr.loadResultArrive u f, ResKind.load),
      (.blockTransferComplete u f, .block), (.solverResultArrive u f, .solver)])
    (hi : slotOf s u f = none) (hb : (barn s u.barn).returns = []) : exec c s = .next (retireStale u f kind s) := by
  simp only [List.mem_cons, Prod.mk.injEq, List.not_mem_nil, or_false] at hc
  obtain ⟨rfl, rfl⟩ | ⟨rfl, rfl⟩ | ⟨rfl, rfl⟩ := hc
  · rw [exec_loadResultArrive, execLoadResultArrive, hi]
    rfl
  · rw [exec_blockTransferComplete, execBlockTransferComplete, hi]
    rfl
  · rw [exec_solverResultArrive, execSolverResultArrive, hb]
    rfl

theorem blockTransferComplete_copies {k : BlkReq} (hi : slotOf s u f = some i) (hk : i.blk = some k) (hf : i.fault = none)
    (hc : copyWords u f k.spoiled k.src.toNat k.dst.toNat (k.len / 4) { s with free := s.free + 1 } = (none, r)) :
    let at_ := blkDone { s with free := s.free + 1 } u i k s.free
    exec (.blockTransferComplete u f) s = .next (tryEnd u f (framePend u f (modInst u f (fun j =>
      let shows := if waitCounts r u f then at_ else min at_ j.cycle
      { flagsFrom i shows j with blk := none, blkReady := shows }) r))) := by
  intro at_
  rw [exec_blockTransferComplete, execBlockTransferComplete, hi, Option.bind_some, hk, Option.map_some]
  dsimp only
  rw [hf, if_neg (by decide), show (takeFree s).2 = { s with free := s.free + 1 } from rfl, hc]
  rfl

theorem blockTransferComplete_faults {k : BlkReq} {q : Nat × Nat} (hi : slotOf s u f = some i) (hk : i.blk = some k) (hf : i.fault = none)
    (hc : copyWords u f k.spoiled k.src.toNat k.dst.toNat (k.len / 4) { s with free := s.free + 1 } = (some q, r)) :
    exec (.blockTransferComplete u f) s = .next (ownFault u f q.1 q.2 r) := by
  rw [exec_blockTransferComplete, execBlockTransferComplete, hi, Option.bind_some, hk, Option.map_some]
  dsimp only
  rw [hf, if_neg (by decide), show (takeFree s).2 = { s with free := s.free + 1 } from rfl, hc]

theorem ownFault_running {code detail : Nat} (hi : slotOf s u f = some i) (hp : i.phase = .running) :
    ownFault u f code detail s = selfAbort u f code detail s := by
  unfold ownFault
  rw [hi]
  exact if_pos hp

theorem ownFault_preempted {code detail : Nat} (hi : slotOf s u f = some i) (hp : i.phase = .preempted) (hf : i.fault = none) :
    ownFault u f code detail s = modInst u f (fun j => { j with fault := some (code, detail) }) s := by
  unfold ownFault
  rw [hi]
  refine (if_neg (by rw [hp]; decide)).trans ((if_neg (by rw [hp]; decide)).trans (modInst_congr hi ?_))
  rw [hf]
  rfl

end

/-- Settles O34: the trigger of an access leaves its bundle's own course alone or aborts it; an arriving result leaves the registers and the
running slot until it is delivered. -/
theorem requestedResultsArrive : Obligations.RequestedResultsArrive := by
  refine ⟨?_, fun u f i q l s hi hl hr he => loadResultArrive_shows hi hl hr he,
    fun u f i v g s hi he hr hb => solverResultArrive_shows hi he hr hb, ?_, ?_, ?_⟩
  · intro u f i b cyc s hr t m fin stores x
    have hstores (r : Option (Nat × Nat) × State) : stores r = .next (accessEnd u f cyc r) := by
      obtain ⟨q | q, y⟩ := r <;> rfl
    obtain ⟨j, hj, -, htask, -, hbyte⟩ := slotOf_armed_access hr
    refine ⟨?_, ?_, ?_, ?_, ?_, ?_, ?_, ?_⟩
    · intro c n w hc ho ha
      simp only [List.mem_cons, Prod.mk.injEq, List.not_mem_nil, or_false] at hc
      obtain ⟨rfl, rfl, rfl⟩ | ⟨rfl, rfl, rfl⟩ | ⟨rfl, rfl, rfl⟩ := hc
      · exact exec_load_only rfl (by decide) (by decide) hr ho ha
      · exact exec_load_only rfl (by decide) (by decide) hr ho ha
      · exact exec_load_only rfl (by decide) (by decide) hr ho ha
    · intro c n w hc ho ha
      rw [hstores]
      simp only [List.mem_cons, Prod.mk.injEq, List.not_mem_nil, or_false] at hc
      obtain ⟨rfl, rfl, rfl⟩ | ⟨rfl, rfl, rfl⟩ | ⟨rfl, rfl, rfl⟩ := hc
      · exact exec_store_only rfl (by decide) (by decide) hr ho ha
      · exact exec_store_only rfl (by decide) (by decide) hr ho ha
      · exact exec_store_only rfl (by decide) (by decide) hr ho ha
    · intro ho hx d src dst len hw h4 hmax hz hs
      exact exec_lsBlk_only hr ho hx ⟨hw, h4, hmax, hz, hs⟩
    · intro ho
      exact exec_imgRead_only rfl (by decide) (by decide) hr ho
    · intro ho
      exact exec_imgRead_only rfl (by decide) (by decide) hr ho
    · intro ho hs a
      rw [hstores, ← hbyte, ← htask]
      exact (exec_of_fire rfl (by decide) hr ho (imgWrite_bit hj hs) (accessEff_odd _)).trans (congrArg Host.Outcome.next (finish_accessEff _))
    · intro ho hs a
      rw [hstores]
      exact (exec_of_fire rfl (by decide) hr ho (imgWrite_word hs) (accessEff_odd _)).trans (congrArg Host.Outcome.next (finish_accessEff _))
    · intro ho
      exact exec_of_fire rfl (by decide) hr ho (Prod.ext (solveTrig_predictable hj) rfl) rfl
  · intro u f x kind c s hc hi hx hb
    rw [arrival_retires hc hi hb, retireStale_counts hx]
  · intro u f i k r s hi hk hf
    exact ⟨fun hc => blockTransferComplete_copies hi hk hf hc, fun q hc => blockTransferComplete_faults hi hk hf hc⟩
  · intro u f code detail i s hi
    exact ⟨fun hp => ownFault_running hi hp, fun hp hf => ownFault_preempted hi hp hf⟩

end Sys2Proof.Machine
